-- ==== Sys2Proof/Word.lean ====
section
/-! DEFINITION. The word types of the device: little-endian fields of 8 to 64 bits (00 R8). -/

namespace Sys2Proof

/-- One byte of memory or of a packet. -/
abbrev Byte := BitVec 8
/-- A 16-bit field. -/
abbrev Word16 := BitVec 16
/-- A 32-bit field. -/
abbrev Word32 := BitVec 32
/-- A 64-bit field: an address, a signal word, a CSR. -/
abbrev Word64 := BitVec 64

/-- A die number: 0 to 7 are CD0 to CD7, 8 to 11 are LD0 to LD3, 12 is MD (00 R12). -/
abbrev Die := Fin 13
/-- A compute die, CD0 to CD7. -/
abbrev CDie := Fin 8
/-- A pass die, LD0 to LD3. -/
abbrev LDie := Fin 4

end Sys2Proof
end

