-- ==== Sys2Proof/Syntax.lean ====
section
/-! DEFINITION. The commands of the block: one constructor of `Instr` for each row of the opcode table, with its operands.
Geloz packets carry their header (02 R44), their parameter block (02 R54) and the hardware faults that strike while they
run; every other row carries what the event brings with it. -/

namespace Sys2Proof

/-- The header fields of a Geloz packet that its bytes leave to the producer (02 R44). OPCODE and LEN are the row's own. -/
structure Hdr where
  ctx : Byte
  ring : Byte
  prio : Byte
  waitReady : Bool
  fenceBefore : Bool
  noReply : Bool
  seq : Word32
  timeout : Word32
  doneAddr : Word64
  doneValue : Word64
  deriving DecidableEq, Repr

/-- A hardware error in one element of a result: mant · 2^exp added at (row, col) (05 R125, R130). -/
structure ElemErr where
  row : Nat
  col : Nat
  mant : Int
  exp : Int
  deriving DecidableEq, Repr

/-- What the hardware does wrong while a command runs; the default is nothing. `mismatch` counts failures of duplicated,
residue-checked or conserved work (05 R122): 1 is cleared by one retry, 2 is final. `errs` are errors in a drained result,
`errs1` and `errs2` those of its first and second replay, `errsRef` those of the referee (05 R131). `hit` is a unit inside
which a fault strikes (04 R119). `borrowFault` is a fault of a borrowed partition (05 R133). `cryptoBad` says that a
signature or digest did not verify (13 R343). `testFails` are the units that fail their self-test, with the test code
(14 R382). -/
structure Faults where
  mismatch : Nat := 0
  errs : List ElemErr := []
  errs1 : List ElemErr := []
  errs2 : List ElemErr := []
  errsRef : List ElemErr := []
  hit : Option Word32 := none
  borrowFault : Bool := false
  cryptoBad : Bool := false
  testFails : List (Word32 × Word16) := []
  deriving DecidableEq, Repr

/-! The parameter blocks of 02 R54. -/

structure PQueryReady where
  destAddr : Word64
  dieMask : Word32
  deriving DecidableEq, Repr

structure PQueryStatus where
  destAddr : Word64
  select : Word32
  unitId : Word32
  deriving DecidableEq, Repr

structure PMmPartition where
  engine : Word32
  shape : Byte
  deriving DecidableEq, Repr

structure PMmPass where
  engine : Word32
  part : Byte
  dataflow : Byte
  fmtA : Byte
  fmtB : Byte
  aAddr : Word64
  bAddr : Word64
  aStride : Word32
  bStride : Word32
  k : Word32
  t : Word32
  limb : Byte
  acc : Byte
  statSlot : Word16
  scaleAddr : Word64
  deriving DecidableEq, Repr

structure PMmDrain where
  engine : Word32
  part : Byte
  fmtOut : Byte
  mode : Byte
  stats : Byte
  destAddr : Word64
  destStride : Word32
  statSlot : Word16
  deriving DecidableEq, Repr

structure PMmAbort where
  engine : Word32
  part : Byte
  deriving DecidableEq, Repr

structure PRtTopk where
  logitsAddr : Word64
  choiceAddr : Word64
  countAddr : Word64
  tokens : Word32
  experts : Word16
  k : Byte
  fmtLogit : Byte
  layer : Word16
  batchTag : Word32
  deriving DecidableEq, Repr

structure PRtCount where
  countAddr : Word64
  quotaAddr : Word64
  batchTag : Word32
  layer : Word16
  mode : Byte
  source : Word16
  sources : Word16
  deriving DecidableEq, Repr

structure PRtDispatch where
  rowsAddr : Word64
  routeAddr : Word64
  batchTag : Word32
  rowBytes : Word32
  fmtRow : Byte
  deriving DecidableEq, Repr

structure PRtReplay where
  routeAddr : Word64
  rowsAddr : Word64
  batchTag : Word32
  records : Word32
  direction : Byte
  fmtRow : Byte
  rowBytes : Word32
  deriving DecidableEq, Repr

structure PRtCancel where
  batchTag : Word32
  deriving DecidableEq, Repr

structure PCbCombine where
  routeAddr : Word64
  outAddr : Word64
  signalAddr : Word64
  missingAddr : Word64
  batchTag : Word32
  tokens : Word32
  rowBytes : Word32
  fmtOut : Byte
  deriving DecidableEq, Repr

structure PCbReturnGrad where
  routeAddr : Word64
  dxAddr : Word64
  scalarAddr : Word64
  batchTag : Word32
  recompute : Byte
  fmtOut : Byte
  deriving DecidableEq, Repr

structure PCbFactorFlush where
  expert : Word32
  layer : Word16
  statSlot : Word16
  deriving DecidableEq, Repr

/-- A DMA descriptor (09 R256). -/
structure Desc where
  op : Byte
  fmtSrc : Byte
  fmtDst : Byte
  stats : Byte
  layout : Byte
  flags : Byte
  statSlot : Word16
  srcAddr : Word64
  dstAddr : Word64
  indexAddr : Word64
  rows : Word32
  rowElems : Word32
  srcStride : Word32
  dstStride : Word32
  scaleSrc : Word64
  scaleDst : Word64
  deriving DecidableEq, Repr

structure PDmaRun where
  engine : Word32
  desc : Desc
  deriving DecidableEq, Repr

structure PDmaChain where
  engine : Word32
  count : Word32
  descAddr : Word64
  deriving DecidableEq, Repr

/-- SIG_SET and SIG_ADD. -/
structure PSig where
  addr : Word64
  value : Word64
  deriving DecidableEq, Repr

structure PSigWait where
  addr : Word64
  value : Word64
  cond : Byte
  deriving DecidableEq, Repr

/-- FENCE_WRITES and FENCE_ALL. -/
structure PFence where
  scope : Byte
  deriving DecidableEq, Repr

structure PLoopBegin where
  countAddr : Word64
  maxTrip : Word32
  deriving DecidableEq, Repr

structure PSkipIf where
  addr : Word64
  value : Word64
  cond : Byte
  skip : Word16
  deriving DecidableEq, Repr

structure PDrvLaunch where
  entry : Word64
  argAddr : Word64
  first : Byte
  count : Byte
  scratchBytes : Word32
  deriving DecidableEq, Repr

structure PMemAtomic where
  addr : Word64
  operand : Word64
  compare : Word64
  resultAddr : Word64
  op : Byte
  type : Byte
  deriving DecidableEq, Repr

structure PVerPublish where
  tensor : Word32
  version : Word32
  dataAddr : Word64
  bytes : Word64
  deriving DecidableEq, Repr

/-- VER_PIN and VER_RETIRE. -/
structure PVer where
  tensor : Word32
  version : Word32
  microbatch : Word32
  deriving DecidableEq, Repr

structure PChainReduce where
  srcAddr : Word64
  dstAddr : Word64
  chainAddr : Word64
  elements : Word32
  chainId : Word32
  op : Byte
  fmt : Byte
  position : Word16
  length : Word16
  deriving DecidableEq, Repr

structure PGrpBarrier where
  barrierId : Word32
  members : Word16
  deriving DecidableEq, Repr

structure PGrpDirUpdate where
  entriesAddr : Word64
  count : Word32
  deriving DecidableEq, Repr

structure PSelftest where
  unitId : Word32
  level : Byte
  deriving DecidableEq, Repr

structure PCalibrate where
  channel : Word32
  deriving DecidableEq, Repr

structure PCtxCreate where
  ringTable : Word64
  extentTable : Word64
  unitTable : Word64
  defaultTimeout : Word32
  units : Word16
  ctx : Byte
  cls : Byte
  rings : Word16
  perms : Byte
  deriving DecidableEq, Repr

structure PCtxDestroy where
  ctx : Byte
  deriving DecidableEq, Repr

structure PCfgWrite where
  unitId : Word32
  item : Word16
  value : Word64
  deriving DecidableEq, Repr

structure PMapOut where
  channel : Word32
  mode : Byte
  deriving DecidableEq, Repr

structure PRemapEpoch where
  epoch : Word32
  deriving DecidableEq, Repr

structure PFwLoad where
  imageAddr : Word64
  bytes : Word32
  slot : Byte
  deriving DecidableEq, Repr

/-! What the other events bring. -/

/-- Who writes a ring control block (02 R38): an agent acting for a context, a link peer, or anyone else. -/
inductive Agent where
  | ofCtx (c : Byte)
  | peer
  | other
  deriving DecidableEq, Repr

/-- The object of an order (02 R64). -/
inductive OrderObj where
  | item (unit : Word32) (item : Word16)
  | unit (unit : Word32)
  | channel (ch : Word32)
  | ctx (c : Byte)
  | slot (n : Byte)
  | dirKey (key : Word32)
  | device
  deriving DecidableEq, Repr

/-- The kind of a kernel gate call (13 R339): read an item, write an item, margin actions of 14 R379, append a ledger entry,
or a kind that is not defined. -/
inductive GateKind where
  | read
  | write
  | tap
  | rail
  | retire
  | append
  | undefinedKind (n : Byte)
  deriving DecidableEq, Repr

/-- A kernel gate call (13 R339): the caller's origin and context, the object, the field and the value. -/
structure GateCall where
  origin : Word16
  ctx : Byte
  kind : GateKind
  object : Word32
  field : Word16
  value : Word64
  deriving DecidableEq, Repr

/-- A write of a configuration item that reaches the kernel core holding it (02 R415). -/
structure ItemWrite where
  origin : Word16
  ctx : Byte
  unit : Word32
  value : Word64
  deriving DecidableEq, Repr

/-- A count message (06 R157): one source's counts for the experts of one owner die. -/
structure CountMsg where
  ctx : Byte
  tag : BitVec 24
  layer : Word16
  k : Byte
  lookup : Bool
  mode : Byte
  source : Word16
  sources : Word16
  epoch : Word32
  srcPos : BitVec 4
  srcDie : CDie
  spill : Bool
  counts : List (Word16 × BitVec 3 × Word32)
  deriving DecidableEq, Repr

/-- An owner's answer to a count message (06 R158): quotas and bases, a refusal with its DETAIL (R151, R180), a cancel
(R173), or a failure of the owner's own checks (05 R139). -/
inductive QuotaAns where
  | granted (q : List (Word16 × BitVec 3 × Word32 × Word32))
  | refused (detail : Word32)
  | cancelled
  | failed
  deriving DecidableEq, Repr

/-- A quota message (06 R159). -/
structure QuotaMsg where
  ctx : Byte
  tag : BitVec 24
  ownerPos : BitVec 4
  ownerDie : CDie
  spill : Bool
  ans : QuotaAns
  deriving DecidableEq, Repr

/-- KIND of an exchange message (07 R185). -/
inductive MsgKind where
  | fwdRow
  | gradRow
  | fwdContrib
  | gradContrib
  deriving DecidableEq, Repr

/-- An exchange message: the header of 07 R185, the context it is for, the sender's position and die for a contribution,
its format and row bytes, and its row (none in a lookup request). `version` is VERSION or SIGMA, `word6` is WEIGHT,
ROW_OFFSET or CHK_SUM. -/
structure RowMsg where
  ctx : Byte
  tag : BitVec 24
  kind : MsgKind
  lookup : Bool
  srcPos : BitVec 4
  srcDie : CDie
  claim : Byte
  token : Word16
  rank : BitVec 3
  slot : BitVec 20
  layer : BitVec 10
  expert : BitVec 13
  version : Word32
  word6 : Word32
  chkAbs : Word32
  fromPos : BitVec 4
  fromDie : CDie
  fmt : Byte
  rowBytes : Word32
  epoch : Word32
  row : List Byte
  deriving DecidableEq, Repr

/-- What an owner tells the source of a row (06 R168, R169; 07 R186): landed, refused by its extents, or too old a version. -/
inductive LandAns where
  | landed
  | noPermission
  | badVersion (tensor : Word32)
  | lostByLink (port : Word32)
  deriving DecidableEq, Repr

/-- An owner's confirmation of one row (06 R169). -/
structure Confirm where
  ctx : Byte
  tag : BitVec 24
  grad : Bool
  token : Word16
  rank : BitVec 3
  ans : LandAns
  deriving DecidableEq, Repr

/-- A cancel notice (06 R173, 07 R202). -/
structure CancelNote where
  ctx : Byte
  tag : BitVec 24
  srcPos : BitVec 4
  srcDie : CDie
  deriving DecidableEq, Repr

/-- A cancel acknowledgement (07 R202): the slots the owner holds and will not return, and its stale rows. -/
structure CancelAck where
  ctx : Byte
  tag : BitVec 24
  ownerPos : BitVec 4
  ownerDie : CDie
  slots : List (Word16 × BitVec 3)
  stale : Word32
  deriving DecidableEq, Repr

/-- A signal operation (10 R275). -/
inductive SigOp where
  | store (v : Word64)
  | add (v : Word64)
  deriving DecidableEq, Repr

/-- A polling waiter (10 R281): a ring's SIG_WAIT by its command's number, or a drover. -/
inductive PollWho where
  | job (id : Nat)
  | drover (die : CDie) (n : BitVec 6)
  deriving DecidableEq, Repr

/-- Who makes a signal operation: its origin ID (13 R353), its unit and the context it acts for. -/
structure SigBy where
  origin : Word16
  unit : Word32
  ctx : Byte
  deriving DecidableEq, Repr

/-- A piece of a chain's running value (11 R304, 05 R141): header fields, the piece's index, its values (W48 containers,
integers, or values with their positions), and the running checksum and absolute sum of the whole as W48 containers, which
the last piece carries. -/
structure ChainMsg where
  chainId : Word32
  op : Byte
  fmt : Byte
  elements : Word32
  length : Word16
  fromPos : Word16
  piece : Nat
  vals : List (Word64 × Word32)
  chk : Word64
  absSum : Word64
  deriving DecidableEq, Repr

/-- What a channel's ECC says of a block it reads (05 R142, 08 R240). -/
inductive Ecc where
  | clean
  | corrected
  | uncorrectable
  deriving DecidableEq, Repr

/-- A request to a channel (08 R232): the unit, its class 0 to 2, whether it has waited 2 µs, the block's address and what
to do: read, or write bytes at an offset in the block. -/
structure ChanReq where
  unit : Word32
  ctx : Byte
  cls : Fin 3
  aged : Bool
  block : Word64
  write : Option (Nat × List Byte)
  deriving DecidableEq, Repr

/-- The result of port training (12 R318, R319): failed, or passed with the cable delay and round trip in ns. -/
inductive TrainResult where
  | failed
  | passed (delayNs : Nat) (rttNs : Word16)
  deriving DecidableEq, Repr

/-- A link-management frame (12 R326). -/
structure LinkMgmt where
  device : BitVec 13
  size : BitVec 5
  eligible : Bool
  role : BitVec 2
  isSwitch : Bool
  deriving DecidableEq, Repr

/-- The header of a group message (12 R327). -/
structure GroupMsg where
  srcPos : BitVec 4
  group : Word16
  term : Word32
  dirEpoch : Word32
  remapEpoch : Word32
  arg0 : Word32
  arg1 : Word32
  arg2 : Word64
  deriving DecidableEq, Repr

/-- A directory entry as GRP_DIRECTORY_UPDATE gives it (06 R178). -/
structure DirEntry where
  layer : Word16
  index : Word16
  type : Byte
  ownerPos : Byte
  ownerDie : Byte
  rsvd : Byte
  capacity : Word32
  version : Word32
  slotBase : Word64
  rowFirst : Word64
  arriveSig : Word64
  rowLimit : Word64
  deriving DecidableEq, Repr

/-- A client certificate at the opening of a management session (13 R350). -/
inductive CertState where
  | absent
  | valid
  | failed
  deriving DecidableEq, Repr

/-- What the boot ROM finds from rails to ledger open (13 R344, 14 R367): rails in regulation, which slots verify, which
dies' digests match, whether the kernel of a slot marked next reaches order 6, and the hold-up bank's test (16 R407). -/
structure BootReport where
  railsOk : Bool
  verify0 : Bool
  verify1 : Bool
  dieMatch : BitVec 13
  reached : Bool
  bankOk : Bool
  deriving DecidableEq, Repr

/-- A ledger entry before it is numbered (13 R355). -/
structure LedgerEvent where
  origin : Word16
  refused : Bool
  reason : Byte
  object : Word32
  field : Word16
  ctx : Byte
  old : Word64
  new : Word64
  aux : Word64
  deriving DecidableEq, Repr

/-- The commands of the block, one for each row of the opcode table. -/
inductive Instr where
  -- Geloz packets
  | nop (h : Hdr)
  | queryReady (h : Hdr) (p : PQueryReady)
  | queryStatus (h : Hdr) (p : PQueryStatus)
  | mmPartition (h : Hdr) (p : PMmPartition)
  | mmPass (h : Hdr) (p : PMmPass) (f : Faults)
  | mmDrain (h : Hdr) (p : PMmDrain) (f : Faults)
  | mmAbort (h : Hdr) (p : PMmAbort)
  | rtTopk (h : Hdr) (p : PRtTopk) (f : Faults)
  | rtCount (h : Hdr) (p : PRtCount) (f : Faults)
  | rtDispatch (h : Hdr) (p : PRtDispatch) (f : Faults)
  | rtReplay (h : Hdr) (p : PRtReplay) (f : Faults)
  | rtCancel (h : Hdr) (p : PRtCancel)
  | cbCombine (h : Hdr) (p : PCbCombine) (f : Faults)
  | cbReturnGrad (h : Hdr) (p : PCbReturnGrad) (f : Faults)
  | cbFactorFlush (h : Hdr) (p : PCbFactorFlush) (f : Faults)
  | dmaRun (h : Hdr) (p : PDmaRun) (f : Faults)
  | dmaChain (h : Hdr) (p : PDmaChain) (f : Faults)
  | sigSet (h : Hdr) (p : PSig)
  | sigAdd (h : Hdr) (p : PSig)
  | sigWait (h : Hdr) (p : PSigWait)
  | fenceWrites (h : Hdr) (p : PFence)
  | fenceAll (h : Hdr) (p : PFence)
  | loopBegin (h : Hdr) (p : PLoopBegin)
  | loopEnd (h : Hdr)
  | skipIf (h : Hdr) (p : PSkipIf)
  | drvLaunch (h : Hdr) (p : PDrvLaunch)
  | memAtomic (h : Hdr) (p : PMemAtomic) (f : Faults)
  | verPublish (h : Hdr) (p : PVerPublish)
  | verPin (h : Hdr) (p : PVer)
  | verRetire (h : Hdr) (p : PVer)
  | chainReduce (h : Hdr) (p : PChainReduce) (f : Faults)
  | grpBarrier (h : Hdr) (p : PGrpBarrier)
  | grpDirectoryUpdate (h : Hdr) (p : PGrpDirUpdate)
  | selftestUnit (h : Hdr) (p : PSelftest) (f : Faults)
  | calibrateChannel (h : Hdr) (p : PCalibrate)
  | ctxCreate (h : Hdr) (p : PCtxCreate)
  | ctxDestroy (h : Hdr) (p : PCtxDestroy)
  | cfgWrite (h : Hdr) (p : PCfgWrite)
  | mapOut (h : Hdr) (p : PMapOut)
  | remapEpoch (h : Hdr) (p : PRemapEpoch)
  | fwLoad (h : Hdr) (p : PFwLoad) (f : Faults)
  | ledgerSeal (h : Hdr)
  -- ring control blocks
  | cmdTail (a : Agent) (ctx ring : Byte) (tail : BitVec 24)
  | ringRestart (a : Agent) (ctx ring : Byte) (tail : BitVec 24)
  | replyHead (a : Agent) (ctx ring : Byte) (head : BitVec 24)
  | controlBlockWrite (a : Agent) (ctx ring : Byte) (word : Fin 4) (value : Word32)
  -- rings and commands in flight
  | packetFetch (ctx ring : Byte)
  | packetDispatch (unit : Word32) (part : Byte) (f : Faults)
  | commandTimeout (job : Nat)
  | waitReadyDispatch (unit : Word32) (f : Faults)
  | watchdogExpiry (unit : Word32) (part boundary : Byte) (silent : Word32)
  | receiverResetExpiry (unit : Word32) (boundary : Byte) (completed : Bool)
  | lateAcknowledge (unit : Word32) (boundary : Byte)
  | intakeWindowClose (obj : OrderObj) (f : Faults)
  | kernelGateCall (die : Die) (call : GateCall)
  | completionToken (engine : Word32) (part : Byte) (f : Faults)
  | borrowPartition (job : Nat) (f : Faults)
  | tenantPreemptTimer (unit : Word32) (part : Byte)
  -- routing and combine
  | countMessage (die : CDie) (m : CountMsg) (f : Faults)
  | quotaMessage (die : CDie) (m : QuotaMsg) (f : Faults)
  | countDiscardTimer (die : CDie) (ctx : Byte) (tag : BitVec 24)
  | exchangeRowArrival (die : CDie) (m : RowMsg)
  | heldHalfRetry (die : CDie) (engine : Option Word32)
  | lookupRequest (die : CDie) (m : RowMsg)
  | returnWord (die : CDie) (ctx : Byte) (addr value : Word64)
  | contributionArrival (die : CDie) (m : RowMsg) (f : Faults)
  | cancelNotice (die : CDie) (m : CancelNote)
  | cancelAck (die : CDie) (m : CancelAck)
  -- signals
  | signalOperation (w : SigBy) (addr : Word64) (op : SigOp)
  | peerSignalOperation (port : Word32) (pos : BitVec 4) (ctx : Byte) (addr : Word64) (op : SigOp)
  | pollingWaiterPoll (who : PollWho)
  -- drovers
  | droverInstruction (die : CDie) (n : BitVec 6) (f : Faults)
  | droverEcallExit (die : CDie) (n : BitVec 6)
  | droverFence (die : CDie) (n : BitVec 6) (succW : Bool)
  | sigwait (die : CDie) (n : BitVec 6) (cond : Word64)
  | statsink (die : CDie) (n : BitVec 6) (value : Word64)
  | sinkStore (die : CDie) (n : BitVec 6) (off : BitVec 12) (elems : List Word32)
  | mirrorStore (die : CDie) (n : BitVec 6) (addr : Word64) (sew : Byte) (elems : List Word64)
  -- chains
  | chainPiece (die : CDie) (m : ChainMsg) (f : Faults)
  | chainResendRequest (die : CDie) (chainId : Word32) (piece : Nat)
  | chainAbort (die : CDie) (chainId : Word32) (failed : Option Word32)
  -- stacked memory
  | channelRequest (ch : Word32) (r : ChanReq) (e : Ecc)
  | patrolScrub (ch : Word32) (block : Word64) (e : Ecc)
  | retrainStart (ch : Word32)
  | retrainComplete (ch : Word32) (passed : Bool)
  | restripeMove (side : Word32)
  | mapoutRetry (side : Word32)
  -- sensors, power and health
  | stackSensorSample (stack : Fin 64) (readings : List Int)
  | junctionSensorSample (die : CDie) (readings : List Int)
  | sensorTimeout (unit : Word32) (sensor : Fin 16)
  | paceSample (power current : Word16)
  | tickCalibration (die : Die) (rates : List (Word32 × Word32 × Word16))
  | crystalLoss
  | crystalRestore
  | gaugeRead (die : CDie) (slack : List (Word32 × Int))
  | marginPlan (die : CDie) (fpointOk : List Word32) (lifeDays : Word16)
  | rotationSlice (unit : Word32) (passed : Bool) (code : Word16) (last : Bool)
  | probationShadowOp (unit : Word32) (passed : Bool)
  | bringupStep (unit : Word32) (passed : Bool) (code : Word16) (badChannels : List Nat)
  -- counters and ledger
  | snapshotRead (n : Fin 64)
  | ledgerEntryArrival (die : Die)
  | pageSealTimer
  | pageArchive (ok : Bool)
  -- links and groups
  | partnerDetect (port : Word32)
  | trainingComplete (port : Word32) (r : TrainResult)
  | linkMgmtFrame (port : Word32) (m : LinkMgmt)
  | passFrame (port : Word32) (bytes : List Byte)
  | verdictWindowExpiry (port : Word32)
  | failedPortRetrain (port : Word32)
  | portProbationComplete (port : Word32) (clean : Bool)
  | heartbeatSend
  | heartbeat (m : GroupMsg)
  | peerLossTimer (pos : BitVec 4)
  | masterClaim
  | claim (m : GroupMsg)
  | standbyClaim
  | handover (m : Option GroupMsg) (successor : BitVec 4)
  | barrierArrive (m : GroupMsg)
  | barrierRelease (m : GroupMsg)
  | dirPrepare (m : GroupMsg) (entries : List DirEntry)
  | dirAck (m : GroupMsg)
  | dirCommit (m : GroupMsg)
  | dirAbort (m : GroupMsg)
  | dirPrepareExpiry
  | dirStageDiscard
  | ingestFrame (die : LDie) (iface : Fin 8) (fcsOk : Bool) (frame : List Byte)
  | neighborSolicitation (die : LDie) (iface : Fin 8) (target source : List Byte)
  -- management port
  | attest (nonce : List Byte)
  | identity
  | ledgerRead (page : Nat)
  | order (session : Nat) (packet : List Byte)
  | anchorInstall (session : Nat) (anchors : List (List Byte))
  | recoveryImage (slot : Fin 2) (image : List Byte) (cryptoBad : Bool)
  | mgmtSessionIdle (session : Nat)
  | ptpSync (domain : Byte) (time : Word64) (offset : Int)
  | moduleStart (b : BootReport)
  | bootFallbackTimeout
  | railFault (die : Die) (rail : Nat)
  | enLow
  | vinUndervoltageWarning (mv : Nat)
  | vinUndervoltageStop (mv : Nat)
  | vinOvervoltageWarning (mv : Nat)
  | vinOvervoltageDisconnect (mv : Nat)
  | overcurrentStop (deciAmps : Nat)
  | thermalTrip (unit : Word32) (temp : Int)
  | moduleInsertion
  -- configuration items
  | paceCap (w : ItemWrite)
  | wdogDelay (w : ItemWrite)
  | ctx0Extent (w : ItemWrite)
  | ctx0Ring (w : ItemWrite)
  | ctx0RingRemove (w : ItemWrite)
  | checkLimit (w : ItemWrite)
  | segLimit (w : ItemWrite)
  | combineArea (w : ItemWrite)
  | factorTable (w : ItemWrite)
  | overlap (w : ItemWrite)
  | statTable (w : ItemWrite)
  | mapoutPolicy (w : ItemWrite)
  | portCfg (w : ItemWrite)
  | ingestCfg (w : ItemWrite)
  | groupCfg (w : ItemWrite)
  | debugCfg (w : ItemWrite)
  | mgmtNet (w : ItemWrite)
  | timeOfDay (w : ItemWrite)
  | todCfg (w : ItemWrite)
  | marginCfg (w : ItemWrite)
  | rotateCfg (w : ItemWrite)
  | cntSel (w : ItemWrite) (n : Fin 8)
  | cntClear (w : ItemWrite) (n : Fin 8)
  | snapRing (w : ItemWrite) (n : Fin 64)
  -- acknowledgements, remaining timers and management events
  | landingConfirmation (die : CDie) (m : Confirm)
  | signalAcknowledgement (job : Nat) (refused : Bool)
  | latchedFaultClear
  | droverWaitTimeout (die : CDie) (n : BitVec 6)
  | routerAdvertisement (pfx : List Byte)
  | dhcpv4Message (addr gateway : Word32) (prefixLen : Byte)
  | mgmtSessionOpen (session : Nat) (cert : CertState)
  | debugUartReceive (b : Byte) (framingOk : Bool)
  | testPortClock (tms tdi trstN : Bool)
  deriving DecidableEq, Repr

end Sys2Proof
end

