-- ==== Sys2Proof/Config.lean ====
section
/-! DEFINITION. The free values of the model: what the spec leaves open. Each is an opaque constant, so that no proof can
see a value of it; the meanings apply it to a counter of the state, to an address or to the operands. -/

namespace Sys2Proof.Config

/-- A candidate W48 bit pattern for a matrix element of which the spec promises only a bound (03 R70, R93). -/
opaque freeW48 : Nat → Nat → BitVec 48
/-- A candidate FP32 bit pattern for a routing weight of which the spec promises only a bound (06 R154). -/
opaque freeFp32 : Nat → Nat → BitVec 32
/-- A byte of an undefined region, or of a range that is in use (02 R49, 09 R267, R271). -/
opaque freeByte : Nat → Nat → BitVec 8
/-- Whether a read without a fence sees a write that is not yet visible (02 R52, 10 R285). -/
opaque freeSees : Nat → Nat → Bool
/-- An issue permit that the pace governor chooses (01 R29). -/
opaque freePermit : Nat → Nat → BitVec 14
/-- A decayed quarantine count in units of 2^-16, within 0.1 % of the exact one (05 R135). -/
opaque freeDecay : Nat → Nat → Nat
/-- A count that no command of the table makes, such as bytes over a saddle or corrected codewords of a link (DESIGN CHOICE, log entry 34):
by free value, unit and record offset. -/
opaque freeCount : Nat → Nat → Nat → BitVec 64
/-- A vector result element of a drover instruction whose value the model does not compute (11 R286). -/
opaque freeElem : Nat → Nat → BitVec 64
/-- The identity-key signature of 13 R340 over a string of bytes, as a number of 1,280 bytes. -/
opaque signature : List Byte → BitVec 10240
/-- The identity public key of this module (13 R347), as a number of 1,793 bytes. -/
opaque publicKey : BitVec 14344
/-- The index of the manufacturing key, and its signature over this module's device certificate (13 R347). -/
opaque certKey : BitVec 16
opaque certSignature : List Byte → BitVec 10240

end Sys2Proof.Config
end

