-- ==== Sys2Proof/Machine/Bits.lean ====
section
/-! DEFINITION. Byte order, bit fields, unit IDs and keyed tables: the small functions every family uses. -/

namespace Sys2Proof.Machine

/-- Bits [lo + n - 1 : lo] of a number. -/
def bits (w lo n : Nat) : Nat := (w / 2 ^ lo) % 2 ^ n

/-- Bit i of a number. -/
def bit (w i : Nat) : Bool := (w / 2 ^ i) % 2 = 1

/-- One when the condition holds (a status bit). -/
def b2n (b : Bool) : Nat := if b then 1 else 0

/-- The number that little-endian bytes spell (00 R8). -/
def leNat : List Byte → Nat
  | [] => 0
  | b :: bs => b.toNat + 256 * leNat bs

/-- The n little-endian bytes of a number (00 R8). -/
def leBytes : Nat → Nat → List Byte
  | 0, _ => []
  | n + 1, v => BitVec.ofNat 8 v :: leBytes n (v / 256)

/-- n bytes from offset `off`; absent bytes read as zero. -/
def sub (bs : List Byte) (off n : Nat) : List Byte :=
  let t := (bs.drop off).take n
  t ++ List.replicate (n - t.length) 0

/-- The number in the n bytes at `off`. -/
def fld (bs : List Byte) (off n : Nat) : Nat := leNat (sub bs off n)

/-- ⌈a / b⌉. -/
def ceilDiv (a b : Nat) : Nat := (a + b - 1) / b

/-- Two's-complement value of the low n bits. -/
def toInt (n w : Nat) : Int := if bit w (n - 1) then (w % 2 ^ n : Nat) - (2 ^ n : Nat) else (w % 2 ^ n : Nat)

/-- The low n bits of an integer. -/
def ofInt (n : Nat) (i : Int) : Nat := (i % (2 ^ n : Nat)).toNat

/-- A count that stops at its largest value. -/
def satAdd (maxv a b : Nat) : Nat := min maxv (a + b)

/-- A unit ID: KIND[31:28], DIE[27:24], INSTANCE[23:0] (00 R12). -/
def uid (kind die inst : Nat) : Nat := kind * 2 ^ 28 + die * 2 ^ 24 + inst

/-- KIND of a unit ID (00 R12). -/
def uKind (u : Nat) : Nat := bits u 28 4
/-- DIE of a unit ID (00 R12). -/
def uDie (u : Nat) : Nat := bits u 24 4
/-- INSTANCE of a unit ID (00 R12). -/
def uInst (u : Nat) : Nat := bits u 0 24

/-- Whether a die of number d is a compute die. -/
def isCD (d : Nat) : Bool := d < 8
/-- Whether a die of number d is a pass die. -/
def isLD (d : Nat) : Bool := 8 ≤ d && d < 12

/-- The number of instances of a unit kind on a die, as the table of 01 R18 gives them. -/
def instCount (kind die : Nat) : Nat :=
  match kind with
  | 0 => if die = 12 then 8 else 4
  | 1 => if isCD die then 16 else 0
  | 2 => if isCD die then 256 else 0
  | 3 => if isCD die then 64 else 0
  | 4 => if isCD die then 4 else if isLD die then 2 else 0
  | 5 => if die = 12 then 16 else 0
  | 6 => 1
  | 7 => if isCD die then 1 else 0
  | 8 => if isCD die then 1 else 0
  | 9 => if isCD die then 16 else 0
  | 10 => if isCD die then 16 else 0
  | 11 => if isCD die then 8192 else 0
  | 12 => if isLD die then 8 else 0
  | 13 => if isLD die then 16 else 0
  | 14 => if isLD die then 1 else 0
  | 15 => if isCD die then 10 else 0
  | _ => 0

/-- A die block instance that its die holds: 1 and 2 on compute dies only, 4 to 7 on MD only (01 R18). -/
def dieBlockValid (die inst : Nat) : Bool :=
  inst = 0 || inst = 3 || ((inst = 1 || inst = 2) && isCD die) || (4 ≤ inst && inst ≤ 7 && die = 12)

/-- The compute dies that a saddle joins (01 R14). -/
def saddleDies (n : Nat) : Nat × Nat := if n < 3 then (n, n + 1) else if n < 6 then (n + 1, n + 2) else (n - 6, n - 2)

/-- Whether a saddle has an end on a die (01 R14). -/
def saddleOn (die n : Nat) : Bool := (saddleDies n).1 = die || (saddleDies n).2 = die

/-- A unit ID within the ranges of 00 R12 and 01 R18. -/
def uidValid (u : Nat) : Bool :=
  uDie u < 13 && uInst u < instCount (uKind u) (uDie u) && (uKind u != 0 || dieBlockValid (uDie u) (uInst u)) &&
    (uKind u != 0xF || saddleOn (uDie u) (uInst u))

/-- The engine that holds a field (01 R18). -/
def fieldEngine (u : Nat) : Nat := uid 1 (uDie u) (uInst u / 16)
/-- The stack side that holds a channel (01 R18). -/
def channelSide (u : Nat) : Nat := uid 0xA (uDie u) (uInst u / 512)

/-! Tables keyed by a number: sorted lists of pairs, read with a default. -/

/-- A table keyed by a number. -/
abbrev AMap (α : Type) := List (Nat × α)

/-- The entry at a key, or the default. -/
def amGet {α : Type} (d : α) : AMap α → Nat → α
  | [], _ => d
  | (k, v) :: m, x => if x = k then v else amGet d m x

/-- Write the entry at a key. -/
def amPut {α : Type} : AMap α → Nat → α → AMap α
  | [], x, v => [(x, v)]
  | (k, w) :: m, x, v =>
    if x < k then (x, v) :: (k, w) :: m
    else if x = k then (x, v) :: m
    else (k, w) :: amPut m x v

/-- Change the entry at a key. -/
def amMod {α : Type} (d : α) (m : AMap α) (x : Nat) (f : α → α) : AMap α := amPut m x (f (amGet d m x))

/-- The entry at a key, if one is listed. -/
def amFind {α : Type} (m : AMap α) (x : Nat) : Option α := (m.find? (fun p => p.1 == x)).map (·.2)

/-- Remove the entry at a key. -/
def amDel {α : Type} (m : AMap α) (x : Nat) : AMap α := m.filter (fun p => p.1 != x)

end Sys2Proof.Machine
end

