-- ==== Sys2Proof/Machine/Digest.lean ====
section
/-! DEFINITION. The digest of 13 R340: SHAKE256 of FIPS 202 with a 512-bit output. PRESUMED: its definition is that of the
standard which R340 names (PRESUMED, log entry 60). -/

namespace Sys2Proof.Machine

/-- Rotate a 64-bit lane left. -/
def rotl64 (x n : Nat) : Nat := (x * 2 ^ n) % 2 ^ 64 + x / 2 ^ (64 - n)

/-- Rotation of each lane, by x + 5y. -/
def keccakRot : List Nat :=
  [0, 1, 62, 28, 27, 36, 44, 6, 55, 20, 3, 10, 43, 25, 39, 41, 45, 15, 21, 8, 18, 2, 61, 56, 14]

/-- The round constants. -/
def keccakRc : List Nat :=
  [0x0000000000000001, 0x0000000000008082, 0x800000000000808A, 0x8000000080008000, 0x000000000000808B, 0x0000000080000001,
   0x8000000080008081, 0x8000000000008009, 0x000000000000008A, 0x0000000000000088, 0x0000000080008009, 0x000000008000000A] ++
  [0x000000008000808B, 0x800000000000008B, 0x8000000000008089, 0x8000000000008003, 0x8000000000008002, 0x8000000000000080,
   0x000000000000800A, 0x800000008000000A, 0x8000000080008081, 0x8000000000008080, 0x0000000080000001, 0x8000000080008008]

/-- A lane of a state. -/
def lane (a : List Nat) (x y : Nat) : Nat := a.getD (x % 5 + 5 * (y % 5)) 0

/-- One round over 25 lanes. -/
def keccakRound (rc : Nat) (a : List Nat) : List Nat :=
  let c := (List.range 5).map (fun x => lane a x 0 ^^^ lane a x 1 ^^^ lane a x 2 ^^^ lane a x 3 ^^^ lane a x 4)
  let d := (List.range 5).map (fun x => c.getD ((x + 4) % 5) 0 ^^^ rotl64 (c.getD ((x + 1) % 5) 0) 1)
  let t := (List.range 25).map (fun i => a.getD i 0 ^^^ d.getD (i % 5) 0)
  let b := (List.range 25).map (fun i =>
    let j := (i % 5 + 3 * (i / 5)) % 5 + 5 * (i % 5)
    rotl64 (t.getD j 0) (keccakRot.getD j 0))
  (List.range 25).map (fun i =>
    let v := b.getD i 0 ^^^ ((2 ^ 64 - 1 - lane b (i % 5 + 1) (i / 5)) &&& lane b (i % 5 + 2) (i / 5))
    if i = 0 then v ^^^ rc else v)

/-- The permutation of 24 rounds. -/
def keccakF (a : List Nat) : List Nat := keccakRc.foldl (fun a rc => keccakRound rc a) a

/-- Absorb one block of 136 bytes. -/
def absorb (a : List Nat) (block : List Byte) : List Nat :=
  keccakF ((List.range 25).map (fun i => a.getD i 0 ^^^ (if i < 17 then fld block (8 * i) 8 else 0)))

/-- Blocks of 136 bytes, the last one padded with the suffix of SHAKE. -/
def shakeBlocks : Nat → List Byte → List (List Byte)
  | 0, _ => []
  | n + 1, bs =>
    if bs.length < 136 then
      let p := bs ++ [0x1F] ++ List.replicate (135 - bs.length) 0
      [p.set 135 ((p.getD 135 0) ||| 0x80)]
    else bs.take 136 :: shakeBlocks n (bs.drop 136)

/-- SHAKE256 with an output of 64 bytes (13 R340). -/
def shake256 (bs : List Byte) : List Byte :=
  let a := (shakeBlocks (bs.length / 136 + 1) bs).foldl absorb (List.replicate 25 0)
  (a.take 8).flatMap (leBytes 8)

/-- The digest of bytes as a number, its first output byte lowest (13 R340). -/
def digest (bs : List Byte) : BitVec 512 := BitVec.ofNat 512 (leNat (shake256 bs))

end Sys2Proof.Machine
end

