-- ==== Sys2Proof/Machine/Num.lean ====
section
/-! DEFINITION. Number formats (03 R70-R86): the values that storage formats hold, correct rounding to nearest even,
and the arithmetic of W48, FP32 and the other formats on exact dyadic numbers. -/

namespace Sys2Proof.Machine

/-- An exact number m · 2^e. -/
structure Dy where
  m : Int
  e : Int
  deriving DecidableEq, Repr

/-- Zero. -/
def dy0 : Dy := ⟨0, 0⟩
/-- An integer. -/
def dyOf (i : Int) : Dy := ⟨i, 0⟩
/-- 2^e. -/
def dyPow2 (e : Int) : Dy := ⟨1, e⟩
/-- The mantissa of x on the grid 2^e, for e at most x.e. -/
def dyOn (x : Dy) (e : Int) : Int := x.m * (2 : Int) ^ (x.e - e).toNat
/-- Exact sum. -/
def dyAdd (x y : Dy) : Dy :=
  if x.m = 0 then y else if y.m = 0 then x
  else let e := min x.e y.e; ⟨dyOn x e + dyOn y e, e⟩
/-- Negation. -/
def dyNeg (x : Dy) : Dy := ⟨-x.m, x.e⟩
/-- Exact difference. -/
def dySub (x y : Dy) : Dy := dyAdd x (dyNeg y)
/-- Exact product. -/
def dyMul (x y : Dy) : Dy := ⟨x.m * y.m, x.e + y.e⟩
/-- Magnitude. -/
def dyAbs (x : Dy) : Dy := ⟨x.m.natAbs, x.e⟩
/-- x ≤ y. -/
def dyLe (x y : Dy) : Bool := decide ((dySub x y).m ≤ 0)
/-- x < y. -/
def dyLt (x y : Dy) : Bool := decide ((dySub x y).m < 0)
/-- x = y as numbers. -/
def dyEq (x y : Dy) : Bool := decide ((dySub x y).m = 0)
/-- The larger. -/
def dyMax (x y : Dy) : Dy := if dyLe x y then y else x
/-- The sum of a list. -/
def dySum : List Dy → Dy
  | [] => dy0
  | x :: xs => dyAdd x (dySum xs)

/-- The value of a stored element: a NaN, an infinity, or (−1)^neg · m · 2^e. -/
inductive FVal where
  | nan
  | inf (neg : Bool)
  | fin (neg : Bool) (m : Nat) (e : Int)
  deriving DecidableEq, Repr

/-- Positive zero. -/
def fZero : FVal := .fin false 0 0

/-- A finite value as an exact number; NaN and infinities as zero. -/
def fDy : FVal → Dy
  | .fin n m e => ⟨if n then -(m : Int) else m, e⟩
  | _ => dy0

/-- Whether the value is finite. -/
def fFinite : FVal → Bool
  | .fin _ _ _ => true
  | _ => false

/-- Sign of a value. -/
def fNeg : FVal → Bool
  | .fin n _ _ => n
  | .inf n => n
  | .nan => false

/-- The value of an exact number. -/
def dyF (x : Dy) : FVal := .fin (decide (x.m < 0)) x.m.natAbs x.e

/-- How a format's infinities and NaNs are encoded (03 R74). -/
inductive SpecialKind where
  /-- the largest exponent field holds infinities and NaNs -/
  | ieee
  /-- only the all-ones code is NaN; no infinity (E4M3) -/
  | nanOnly
  /-- neither (E2M1) -/
  | none
  deriving DecidableEq, Repr

/-- A floating-point storage format: exponent bits, fraction bits, bias, and its special codes (03 R74). -/
structure FFmt where
  eb : Nat
  mb : Nat
  bias : Nat
  sp : SpecialKind
  deriving DecidableEq, Repr

/-- FP64 (03 R74). -/
def ffFP64 : FFmt := ⟨11, 52, 1023, .ieee⟩
/-- FP32 (03 R74). -/
def ffFP32 : FFmt := ⟨8, 23, 127, .ieee⟩
/-- FP16 (03 R74). -/
def ffFP16 : FFmt := ⟨5, 10, 15, .ieee⟩
/-- BF16 (03 R74). -/
def ffBF16 : FFmt := ⟨8, 7, 127, .ieee⟩
/-- E4M3 (03 R74). -/
def ffE4M3 : FFmt := ⟨4, 3, 7, .nanOnly⟩
/-- E5M2 (03 R74). -/
def ffE5M2 : FFmt := ⟨5, 2, 15, .ieee⟩
/-- E2M1 (03 R74). -/
def ffE2M1 : FFmt := ⟨2, 1, 1, .none⟩
/-- W48 (03 R74, R82). -/
def ffW48 : FFmt := ⟨9, 38, 255, .ieee⟩

/-- Width of the format in bits. -/
def FFmt.width (f : FFmt) : Nat := 1 + f.eb + f.mb
/-- Exponent of the least bit of a subnormal. -/
def FFmt.emin (f : FFmt) : Int := 1 - (f.bias : Int) - f.mb
/-- The largest finite value, as significand and exponent of its least bit (03 R74). -/
def FFmt.maxFin (f : FFmt) : Nat × Int :=
  match f.sp with
  | .ieee => (2 ^ (f.mb + 1) - 1, (2 ^ f.eb - 2 : Nat) - (f.bias : Int) - f.mb)
  | .nanOnly => (2 ^ (f.mb + 1) - 2, (2 ^ f.eb - 1 : Nat) - (f.bias : Int) - f.mb)
  | .none => (2 ^ (f.mb + 1) - 1, (2 ^ f.eb - 1 : Nat) - (f.bias : Int) - f.mb)
/-- The largest finite value. -/
def FFmt.maxDy (f : FFmt) : Dy := ⟨f.maxFin.1, f.maxFin.2⟩

/-- The value a code of the format holds (03 R74). -/
def FFmt.decode (f : FFmt) (w : Nat) : FVal :=
  let s := bit w (f.eb + f.mb)
  let e := bits w f.mb f.eb
  let m := bits w 0 f.mb
  let top := 2 ^ f.eb - 1
  if f.sp = .ieee ∧ e = top then (if m = 0 then .inf s else .nan)
  else if f.sp = .nanOnly ∧ e = top ∧ m = 2 ^ f.mb - 1 then .nan
  else if e = 0 then .fin s m f.emin
  else .fin s (m + 2 ^ f.mb) ((e : Int) - f.bias - f.mb)

/-- m / 2^d rounded to nearest, ties to even (03 R71). -/
def rneShift (m d : Nat) : Nat :=
  let q := m / 2 ^ d
  let r := m % 2 ^ d
  let h := 2 ^ d
  if 2 * r > h ∨ (2 * r = h ∧ q % 2 = 1) then q + 1 else q

/-- Round a magnitude m · 2^e to significand and exponent of the format, without limit above (03 R71). -/
def FFmt.roundMag (f : FFmt) (m : Nat) (e : Int) : Nat × Int :=
  if m = 0 then (0, f.emin)
  else
    let len : Int := (Nat.log2 m + 1 : Nat)
    let q := max (e + len - (f.mb + 1 : Nat)) f.emin
    if q ≤ e then (m * 2 ^ (e - q).toNat, q)
    else
      let r := rneShift m (q - e).toNat
      if r = 2 ^ (f.mb + 1) then (2 ^ f.mb, q + 1) else (r, q)

/-- A conversion's outcome beside its value, for the conversion counters of 03 R85. -/
inductive ConvEvent where
  | plain
  | saturated
  | ofNan
  deriving DecidableEq, Repr

/-- Round a value to the format, with the table of 03 R85 for what does not fit. -/
def FFmt.round (f : FFmt) (v : FVal) : FVal × ConvEvent :=
  match v with
  | .nan => (if f.sp = .none then fZero else .nan, .ofNan)
  | .inf n =>
    match f.sp with
    | .ieee => (.inf n, .plain)
    | .nanOnly => (.nan, .saturated)
    | .none => (.fin n f.maxFin.1 f.maxFin.2, .saturated)
  | .fin n m e =>
    let (r, q) := f.roundMag m e
    if dyLt f.maxDy ⟨r, q⟩ then
      (if f.sp = .ieee then .inf n else .fin n f.maxFin.1 f.maxFin.2, .saturated)
    else (.fin n r q, .plain)

/-- The rounded value alone. -/
def FFmt.rnd (f : FFmt) (v : FVal) : FVal := (f.round v).1

/-- The code of a value that the format holds exactly; a NaN is the quiet NaN with the top fraction bit (03 R72). -/
def FFmt.encode (f : FFmt) (v : FVal) : Nat :=
  let top := 2 ^ f.eb - 1
  let sgn (n : Bool) : Nat := if n then 2 ^ (f.eb + f.mb) else 0
  match v with
  | .nan => match f.sp with
    | .ieee => top * 2 ^ f.mb + 2 ^ (f.mb - 1)
    | .nanOnly => top * 2 ^ f.mb + (2 ^ f.mb - 1)
    | .none => 0
  | .inf n => sgn n + top * 2 ^ f.mb
  | .fin n m e =>
    let (r, q) := f.roundMag m e
    if r < 2 ^ f.mb then sgn n + r
    else sgn n + (q + f.mb + f.bias).toNat * 2 ^ f.mb + (r - 2 ^ f.mb)

/-- Round and encode. -/
def FFmt.conv (f : FFmt) (v : FVal) : Nat := f.encode (f.rnd v)

/-! Arithmetic on values, exact until `FFmt.rnd` (03 R71, R83). -/

/-- Exact sum: infinities of opposite sign give NaN (03 R83). A zero sum is negative only when both terms are. -/
def fAdd (x y : FVal) : FVal :=
  match x, y with
  | .nan, _ => .nan
  | _, .nan => .nan
  | .inf a, .inf b => if a = b then .inf a else .nan
  | .inf a, _ => .inf a
  | _, .inf b => .inf b
  | .fin a _ _, .fin b _ _ =>
    let s := dyAdd (fDy x) (fDy y)
    if s.m = 0 then .fin (a && b) 0 0 else dyF s

/-- Negation. -/
def fNegate : FVal → FVal
  | .nan => .nan
  | .inf n => .inf (!n)
  | .fin n m e => .fin (!n) m e

/-- Magnitude. -/
def fAbs : FVal → FVal
  | .nan => .nan
  | .inf _ => .inf false
  | .fin _ m e => .fin false m e

/-- Exact product: infinity times zero gives NaN (03 R83). -/
def fMul (x y : FVal) : FVal :=
  match x, y with
  | .nan, _ => .nan
  | _, .nan => .nan
  | .inf a, .inf b => .inf (a != b)
  | .inf a, .fin b m _ => if m = 0 then .nan else .inf (a != b)
  | .fin a m _, .inf b => if m = 0 then .nan else .inf (a != b)
  | .fin a m e, .fin b n g => .fin (a != b) (m * n) (e + g)

/-- A quotient accurate far beyond any format, with a sticky bit below, so that one rounding is correct. -/
def fDiv (x y : FVal) : FVal :=
  match x, y with
  | .nan, _ => .nan
  | _, .nan => .nan
  | .inf _, .inf _ => .nan
  | .inf a, .fin b _ _ => .inf (a != b)
  | .fin a _ _, .inf b => .fin (a != b) 0 0
  | .fin a m e, .fin b n g =>
    if n = 0 then (if m = 0 then .nan else .inf (a != b))
    else
      let sh : Nat := 160 + Nat.log2 n
      let q := m * 2 ^ sh / n
      let st := if m * 2 ^ sh % n = 0 then 0 else 1
      .fin (a != b) (2 * q + st) (e - g - sh - 1)

/-- Integer square root by bits, from the top. -/
def isqrtAux : Nat → Nat → Nat → Nat
  | 0, _, r => r
  | k + 1, n, r => let c := r + 2 ^ k; if c * c ≤ n then isqrtAux k n c else isqrtAux k n r

/-- A square root accurate far beyond any format, with a sticky bit below. -/
def fSqrt (x : FVal) : FVal :=
  match x with
  | .nan => .nan
  | .inf n => if n then .nan else .inf false
  | .fin n m e =>
    if m = 0 then .fin n 0 0
    else if n then .nan
    else
      let sh : Nat := 240 + (if e % 2 = 0 then 0 else 1)
      let mm := m * 2 ^ sh
      let r := isqrtAux (Nat.log2 mm / 2 + 1) mm 0
      let st := if r * r = mm then 0 else 1
      .fin false (2 * r + st) ((e - sh) / 2 - 1)

/-- Order of two values that are not NaN: −1, 0 or 1; the two zeros are equal. -/
def fCmp (x y : FVal) : Int :=
  match x, y with
  | .inf a, .inf b => if a = b then 0 else if a then -1 else 1
  | .inf a, _ => if a then -1 else 1
  | _, .inf b => if b then 1 else -1
  | _, _ => if dyLt (fDy x) (fDy y) then -1 else if dyEq (fDy x) (fDy y) then 0 else 1

/-- x > y, false with a NaN. -/
def fGt (x y : FVal) : Bool := x != .nan && y != .nan && fCmp x y == 1
/-- x = y, false with a NaN. -/
def fEq (x y : FVal) : Bool := x != .nan && y != .nan && fCmp x y == 0

/-- An integer, rounded to nearest even, held in a two's-complement or unsigned range (03 R85). -/
def toIntSat (lo hi : Int) (v : FVal) : Int × ConvEvent :=
  match v with
  | .nan => (0, .ofNan)
  | .inf n => (if n then lo else hi, .saturated)
  | .fin n m e =>
    let r : Nat := if 0 ≤ e then m * 2 ^ Int.toNat e else rneShift m (Int.toNat (-e))
    let i : Int := if n then -(r : Int) else r
    if i < lo then (lo, .saturated) else if hi < i then (hi, .saturated) else (i, .plain)

/-! The format codes of 03 R73. -/

/-- What an element code of 03 R73 stores. -/
inductive Elem where
  | flt (f : FFmt)
  | int (n : Nat)
  deriving DecidableEq, Repr

/-- A format code: its element, element bits in memory, and whether it is block-scaled (03 R73). -/
structure FCode where
  elem : Elem
  bitsN : Nat
  scaled : Bool
  deriving DecidableEq, Repr

/-- The table of 03 R73; none for a code it does not list. -/
def fmtOf (c : Nat) : Option FCode :=
  match c with
  | 0x00 => some ⟨.flt ffFP64, 64, false⟩
  | 0x01 => some ⟨.flt ffFP32, 32, false⟩
  | 0x02 => some ⟨.flt ffFP16, 16, false⟩
  | 0x03 => some ⟨.flt ffBF16, 16, false⟩
  | 0x04 => some ⟨.flt ffE4M3, 8, false⟩
  | 0x05 => some ⟨.flt ffE5M2, 8, false⟩
  | 0x06 => some ⟨.flt ffE2M1, 4, false⟩
  | 0x07 => some ⟨.int 8, 8, false⟩
  | 0x08 => some ⟨.int 4, 4, false⟩
  | 0x09 => some ⟨.int 32, 32, false⟩
  | 0x0A => some ⟨.int 64, 64, false⟩
  | 0x0B => some ⟨.flt ffW48, 64, false⟩
  | 0x14 => some ⟨.flt ffE4M3, 8, true⟩
  | 0x15 => some ⟨.flt ffE5M2, 8, true⟩
  | 0x16 => some ⟨.flt ffE2M1, 4, true⟩
  | 0x17 => some ⟨.int 8, 8, true⟩
  | 0x18 => some ⟨.int 4, 4, true⟩
  | _ => none

/-- Codes a matrix operand may carry (03 R73); FP64 only at LIMB 3 (R81). -/
def matrixOperand (c : Nat) : Bool := c ≤ 0x08 || (0x14 ≤ c && c ≤ 0x18)
/-- Codes a drain may output, acceptance of FP64 and W48 being left to the executing unit (03 R73, R91). -/
def drainOutput (c : Nat) : Bool :=
  c ≤ 0x05 || c = 0x09 || c = 0x0B || c = 0x14 || c = 0x15

/-- Bytes of a row of n elements (03 R75, 09 R256). -/
def rowBytes (c : FCode) (n : Nat) : Nat := ceilDiv (n * c.bitsN) 8

/-- The code of element i of a packed row; 4-bit elements interleave nibbles (03 R75). -/
def elemCode (c : FCode) (row : List Byte) (i : Nat) : Nat :=
  if c.bitsN = 4 then bits ((row.getD (i / 2) 0).toNat) (4 * (i % 2)) 4
  else fld row (i * (c.bitsN / 8)) (c.bitsN / 8)

/-- The value of an element code before any block scale; MXINT8 carries 2^-6 (03 R74-R77). W48 uses container bits [47:0]. -/
def elemVal (c : FCode) (code : Nat) : FVal :=
  match c.elem with
  | .flt f => f.decode (code % 2 ^ f.width)
  | .int n =>
    let i := toInt n code
    .fin (decide (i < 0)) i.natAbs (if c.scaled && n == 8 then -6 else 0)

/-- A value under the E8M0 scale byte s; 0xFF makes it NaN (03 R77). -/
def scaleVal (s : Nat) (v : FVal) : FVal :=
  if s = 0xFF then .nan
  else match v with
    | .fin n m e => .fin n m (e + (s : Int) - 127)
    | w => w

/-- The largest finite magnitude of a format's element (03 R74, R79). -/
def elemMax (c : FCode) : Dy :=
  match c.elem with
  | .flt f => f.maxDy
  | .int n => ⟨2 ^ (n - 1) - 1, if c.scaled && n == 8 then -6 else 0⟩

/-- Convert a value to an element code (03 R85), with its event. -/
def elemConv (c : FCode) (v : FVal) : Nat × ConvEvent :=
  match c.elem with
  | .flt f => let (r, ev) := f.round v; (f.encode r, ev)
  | .int n =>
    let v' := if c.scaled && n == 8 then (match v with | .fin s m e => .fin s m (e + 6) | w => w) else v
    let (i, ev) := toIntSat (-(2 ^ (n - 1) : Nat)) ((2 ^ (n - 1) : Nat) - 1) v'
    (ofInt n i, ev)

/-- Pack element codes into a row (03 R75). -/
def packRow (c : FCode) : List Nat → List Byte
  | [] => []
  | a :: as =>
    if c.bitsN = 4 then
      match as with
      | [] => [BitVec.ofNat 8 (a % 16)]
      | b :: bs => BitVec.ofNat 8 (a % 16 + 16 * (b % 16)) :: packRow c bs
    else leBytes (c.bitsN / 8) a ++ packRow c as

/-- The smallest scale byte s with magnitude / 2^(s − 127) within the element's range, from s up; 254 at most (03 R79). -/
def scaleSearch (mx big : Dy) : Nat → Nat → Nat
  | 0, s => s
  | k + 1, s => if dyLe big ⟨mx.m, mx.e + (s : Int) - 127⟩ then s else scaleSearch mx big k (s + 1)

/-- The scale byte of a block that is produced in a block-scaled format (03 R79). -/
def blockScale (c : FCode) (vs : List FVal) : Nat :=
  if vs.any (fun v => !fFinite v) then 0xFF
  else
    let big := vs.foldl (fun a v => dyMax a (dyAbs (fDy v))) dy0
    if big.m = 0 then 127
    else scaleSearch (elemMax c) big 254 0

/-- Convert a block of values under its scale byte (03 R79, R85). -/
def blockConv (c : FCode) (vs : List FVal) : Nat × List (Nat × ConvEvent) :=
  let s := blockScale c vs
  (s, vs.map (fun v =>
    match v with
    | .nan => ((elemConv c .nan).1, ConvEvent.ofNan)
    | .inf n => ((elemConv c (.inf n)).1, ConvEvent.saturated)
    | .fin n m e => elemConv c (.fin n m (if s = 0xFF then e else e - ((s : Int) - 127)))))

/-- Cut a list into blocks of n; the fuel is the list's length. -/
def chunks {α : Type} (n : Nat) : Nat → List α → List (List α)
  | 0, _ => []
  | _ + 1, [] => []
  | k + 1, xs => xs.take n :: chunks n k (xs.drop n)

/-- A row of values as packed bytes, its scale bytes, and the saturations and conversions of NaN it counted (03 R79, R85). -/
def convRow (c : FCode) (vs : List FVal) : List Byte × List Byte × Nat × Nat :=
  let count (evs : List ConvEvent) (e : ConvEvent) := evs.countP (· == e)
  if c.scaled then
    let bs := (chunks 32 vs.length vs).map (blockConv c)
    let codes := (bs.map (·.2)).flatten
    (packRow c (codes.map (·.1)), bs.map (fun b => BitVec.ofNat 8 b.1),
     count (codes.map (·.2)) .saturated, count (codes.map (·.2)) .ofNan)
  else
    let cs := vs.map (elemConv c)
    (packRow c (cs.map (·.1)), [], count (cs.map (·.2)) .saturated, count (cs.map (·.2)) .ofNan)

/-- The values of a packed row of n elements under its scale bytes (03 R75-R77). -/
def rowVals (c : FCode) (row scales : List Byte) (n : Nat) : List FVal :=
  (List.range n).map (fun i =>
    let v := elemVal c (elemCode c row i)
    if c.scaled then scaleVal ((scales.getD (i / 32) 127).toNat) v else v)

/-! The internal forms: AO18 loads and W48 accumulation (03 R80-R84). -/

/-- Round a significand to 8 bits, as LIMB 0 loads FP16 and FP32 elements (03 R81). -/
def ao18 (v : FVal) : FVal :=
  match v with
  | .fin n m e =>
    let len := Nat.log2 m + 1
    if m = 0 || len ≤ 8 then v else .fin n (rneShift m (len - 8)) (e + (len - 8 : Nat))
  | w => w

/-- One W48 addition, rounded once (03 R83). -/
def w48Add (x y : FVal) : FVal := ffW48.rnd (fAdd x y)
/-- A W48 value as a 64-bit container (03 R76). -/
def w48Code (v : FVal) : Nat := ffW48.conv v
/-- The value of a W48 container (03 R76). -/
def w48Val (c : Nat) : FVal := ffW48.decode (c % 2 ^ 48)
/-- FP32 value of a bit pattern. -/
def fp32Val (c : Nat) : FVal := ffFP32.decode c
/-- FP32 bit pattern of a value, rounded once. -/
def fp32Code (v : FVal) : Nat := ffFP32.conv v
/-- One FP32 addition. -/
def fp32Add (x y : FVal) : FVal := ffFP32.rnd (fAdd x y)
/-- One FP32 product. -/
def fp32Mul (x y : FVal) : FVal := ffFP32.rnd (fMul x y)

/-- The W48 sum of a list, one rounding per addition, in list order (03 R83). -/
def w48Sum (vs : List FVal) : FVal := vs.foldl w48Add fZero

end Sys2Proof.Machine
end

