-- ==== Sys2Proof/Machine/State.lean ====
section
/-! DEFINITION. The state of the block as plain data: every register, FIFO, buffer, counter, mode and pin the spec names,
and the queue of waiting commands. INVENTORY.md lists every
field under State, with its width, the rule that gives it and its reset value. -/

namespace Sys2Proof.Machine

/-- A step never stops with a fault: every command answers a next state, and errors are replies, ledger entries or counters
(02 R68). This fault has no raiser; it is safe. -/
inductive Fault where
  /-- Raised by no command: kept so that the type is inhabited. Safe. -/
  | unused
  deriving DecidableEq, Repr

/-- Why a command is refused. -/
inductive Refusal where
  /-- A command whose meaning is not written yet. Safe. -/
  | notModelled (mnemonic : String)
  deriving DecidableEq, Repr

/-! ## Contexts, rings and commands -/

/-- An extent table entry (08 R235). -/
structure Extent where
  base : Nat
  limit : Nat
  perms : Nat
  aff : Nat
  deriving DecidableEq, Repr

/-- A context's check record (05 R145): its count fields by record offset, and the other fields. -/
structure CheckRec where
  cnt : AMap Nat := []
  failSeq : Nat := 0
  failRing : Nat := 0
  failStatus : Nat := 0
  failUnit : Nat := 0
  updates : Nat := 0
  ledgerSeq : Nat := 0
  createdSeq : Nat := 0
  deriving DecidableEq, Repr

/-- A context (02 R33, R34, R416): class, permissions, default timeout, granted units, extents, check record and its last
snapshot (05 R146), stat table (11 R296), overlap mode (07 R214), micro-batch high-water marks (07 R221). -/
structure Ctx where
  live : Bool := false
  cls : Nat := 0
  perms : Nat := 0
  defTimeout : Nat := 0
  allUnits : Bool := false
  units : List Nat := []
  extents : AMap Extent := []
  chk : CheckRec := {}
  snap : AMap Nat := []
  statTable : Nat := 0
  overlap : Bool := false
  mbHwm : Nat := 0
  mbHwmRead : Nat := 0
  deriving DecidableEq, Repr

/-- STATE of a ring (02 R39). -/
inductive RingState where
  | idle
  | running
  | stopped
  | closed
  deriving DecidableEq, Repr

/-- An open loop (02 R59): where its LOOP_BEGIN and the packet after it lie, trips run, trips to run, and whether the count
was clamped. -/
structure Loop where
  beginOff : Nat
  bodyOff : Nat
  trip : Nat
  trips : Nat
  clamped : Bool
  deriving DecidableEq, Repr

/-- A pass-over in progress (02 R59, R60): of a SKIP_IF, with packets left and passed and its job, or of a zero-trip loop,
with the depth of loops still to close. -/
inductive PassOver where
  | skip (left done job : Nat)
  | zeroTrip (depth : Nat)
  deriving DecidableEq, Repr

/-- A packet waiting in its ring (02 R45, R46): the command, where it lies and where the next one does, and whether the
pre-parser has passed it. -/
structure Pkt where
  cmd : Instr
  off : Nat
  next : Nat
  parsed : Bool
  deriving DecidableEq, Repr

/-- A ring (02 R37-R43): its table entry, its control block and what it has in hand. -/
structure Ring where
  cmdBase : Nat := 0
  replyBase : Nat := 0
  cmdLog2 : Nat := 0
  replyLog2 : Nat := 0
  home : Nat := 0
  prioMax : Nat := 0
  remote : Bool := false
  tail : Nat := 0
  replyHead : Nat := 0
  state : RingState := .idle
  badDb : Nat := 0
  replyTail : Nat := 0
  /-- Fetch position: the offset of the next packet to fetch. -/
  fetch : Nat := 0
  /-- Reply slots reserved by dispatched packets (R43). -/
  reserved : Nat := 0
  loops : List Loop := []
  passOver : Option PassOver := none
  waiting : List Pkt := []
  deriving DecidableEq, Repr

/-- How a command ends (02 R50): status, detail, verdict, origin where it is not the ring's own, the counts of its reply,
the check-record counts it adds by offset (05 R145), and whether it writes no reply under 02 R59. -/
structure End where
  status : Nat := 0
  detail : Nat := 0
  verdict : Nat := 0
  origin : Option Nat := none
  checks : Nat := 0
  corrections : Nat := 0
  replays : Nat := 0
  drops : Nat := 0
  record : List (Nat × Nat) := []
  silent : Bool := false
  /-- the end repeats an earlier end's status: one event charges its points once (05 R135) -/
  inherited : Bool := false
  deriving DecidableEq, Repr

/-- How far a command in flight has come. -/
inductive Phase where
  /-- has ended; its reply is not written yet -/
  | ending (e : End)
  /-- waits for its unit to be ready under WAIT_READY (02 R48) -/
  | waitReady
  /-- queued or executing on its engine partition (04 R107, R114) -/
  | inUnit
  /-- a drain waiting for a borrowed partition: 2 for the second replay, 3 for the referee (05 R133) -/
  | waitBorrow (stage : Nat)
  /-- RT_TOPK held by a staged directory update (01 R21) -/
  | waitDir
  /-- waits for a claim or for room in the combine area (07 R191, R192) -/
  | waitClaim
  /-- RT_COUNT waiting for quotas (06 R161) -/
  | waitQuota
  /-- RT_DISPATCH or RT_REPLAY waiting for landings (06 R169) -/
  | waitLand
  /-- RT_CANCEL waiting for its outstanding slots (07 R202) -/
  | waitCancel
  /-- CB_COMBINE or CB_RETURN_GRAD bound to its claim (07 R196, R205) -/
  | bound
  /-- SIG_WAIT attached to a monitor, or polling (10 R278, R281) -/
  | waitSignal (polling : Bool)
  /-- a fence waiting for the jobs it covers (10 R284); all: also for remote acknowledgements -/
  | fence (all : Bool) (covers : List Nat)
  /-- SKIP_IF passing packets over (02 R60) -/
  | passing
  /-- DRV_LAUNCH running on its drover set (11 R288) -/
  | launch
  /-- CHAIN_REDUCE waiting its turn or for pieces (11 R304, R305) -/
  | chain (open_ : Bool)
  /-- GRP_BARRIER waiting for its release (12 R332) -/
  | barrier
  /-- GRP_DIRECTORY_UPDATE between prepare and commit (06 R179) -/
  | dirUpdate
  /-- an order in its intake window (02 R65) -/
  | inWindow
  /-- SELFTEST_UNIT waiting for an idle unit (14 R382) -/
  | waitIdle
  /-- CALIBRATE_CHANNEL waiting for its retrain (08 R246), or SELFTEST_UNIT for its port's (14 R382) -/
  | retrain
  /-- LEDGER_SEAL waiting for the archive of a page (13 R360) -/
  | sealing (page : Nat)
  /-- a DMA or other command parked behind a retraining channel (08 R244) -/
  | parked
  /-- an order of the same effect as its window's winner, which shares the winner's end (02 R65) -/
  | follow (job : Nat)
  deriving DecidableEq, Repr

/-- A command in flight: dispatched and not ended (02 R46-R49). Counts made so far by the command are kept with it. -/
structure Job where
  id : Nat
  cmd : Instr
  /-- 256 · context + ring. -/
  ring : Nat
  /-- The ring's origin ID when the packet was pre-parsed (R36). -/
  origin : Nat
  unit : Nat
  part : Nat
  /-- Where the packet lies in its ring, and where the next one does (R59). -/
  off : Nat
  next : Nat
  t0 : Nat
  phase : Phase
  drops : Nat := 0
  replays : Nat := 0
  unacked : Nat := 0
  /-- Engines whose borrowed partition faulted, and how many of them during the referee (05 R133). -/
  faulted : List Nat := []
  refFaults : Nat := 0
  /-- What a flush of several results has counted so far (07 R212, R213). -/
  sofar : End := {}
  /-- When the command came into its phase (08 R253, PARKED_MAX). -/
  since : Nat := 0
  deriving DecidableEq, Repr

/-- An order in an intake window (02 R65): its origin, its effect as (kind, value), and the job that issued it, if a packet
did. -/
structure Order where
  origin : Nat
  ctx : Nat
  kind : Nat
  value : Nat
  job : Option Nat
  deriving DecidableEq, Repr

/-- An intake window (02 R65): its object, the orders in the order they joined, and the origin and effect of a safety
action that has won it. -/
structure Window where
  obj : OrderObj
  orders : List Order
  action : Option Order
  deriving DecidableEq, Repr

/-- Contexts, rings, commands in flight and intake windows (02). -/
structure GelozSt where
  ctxs : AMap Ctx := []
  /-- Rings by 256 · context + ring. A ring not listed does not exist. -/
  rings : AMap Ring := []
  jobs : List Job := []
  nextJob : Nat := 0
  /-- The ring each unit served last, by 256 · unit + partition (R47). -/
  served : AMap Nat := []
  windows : List Window := []
  deriving DecidableEq, Repr

/-! ## Memory -/

/-- A write that has left its unit and is not yet visible to other units (02 R52, 10 R284): the unit, the job it is part of
and its ring as 256 · context + ring, where it lies, and the bytes before it. -/
structure Unseen where
  unit : Nat
  job : Nat
  ring : Nat
  addr : Nat
  old : List Byte
  deriving DecidableEq, Repr

/-- State of a channel (08 R223). -/
inductive ChanState where
  | inService
  | softOut
  | lost
  | returnable
  deriving DecidableEq, Repr

/-- A channel (08 R223, R232, R243-R247): its state, whether it is training, its waiting requests, and when it corrected
blocks or found them uncorrectable. -/
structure Chan where
  state : ChanState := .inService
  /-- Whether a returnable channel had been lost, so that its granules stay poisoned (R252). -/
  wasLost : Bool := false
  training : Bool := false
  /-- Waiting requests, oldest first, with the tick each arrived. -/
  queue : List (ChanReq × Nat) := []
  /-- Ticks of the corrected and of the uncorrectable blocks of the last 10 s (R247). -/
  ce : List Nat := []
  ue : List Nat := []
  deriving DecidableEq, Repr

/-- A stack side (08 R227, R228, R247-R253). `out` lists the channels that are not in the interleave, ascending. -/
structure Side where
  out : List Nat := []
  populated : Nat := 0x600000000
  front : Option Nat := none
  outgoing : Nat := 0
  frozen : Bool := false
  pendingSoft : Option Nat := none
  /-- The channel in training, and those due, by unit ID, next first (R243). -/
  retraining : Option Nat := none
  due : List Nat := []
  refresh : Nat := 0
  deriving DecidableEq, Repr

/-- Granules that a remap epoch has left poisoned (08 R252): those of a side, below an offset, that lay on the channels given
under the interleave that held before, but for the blocks written whole since. -/
structure KeptPoison where
  side : Nat
  place : Side
  chans : List Nat
  limit : Nat
  cleared : List Nat
  deriving DecidableEq, Repr

/-- Stacked memory and the SRAM windows (08, 04 R110, 11 R290). -/
structure MemSt where
  /-- The device physical map by bytes (R225), in canonical form; an unlisted byte reads 0 (DESIGN CHOICE, log entry 1). -/
  cells : List (Nat × Byte) := []
  /-- ECC-poisoned 32-byte blocks, by block number, ascending (R241). -/
  poison : List Nat := []
  /-- What remap epochs have left poisoned (R252). -/
  kept : List KeptPoison := []
  unseen : List Unseen := []
  /-- Undefined regions: first byte, length, and the index of the free values that stand there (02 R49). -/
  undef : List (Nat × Nat × Nat) := []
  /-- Stack sides by unit ID. -/
  sides : AMap Side := []
  /-- Channels by unit ID. -/
  chans : AMap Chan := []
  deriving DecidableEq, Repr

/-! ## Matrix engines -/

/-- One element of a result: its exact sum with NaN and infinities, the sum of magnitudes of its products, and the lowest
exponent among them (03 R82-R84, R93). -/
structure Acc where
  v : FVal := .fin false 0 0
  s : Dy := ⟨0, 0⟩
  g : Int := 0
  deriving DecidableEq, Repr

/-- A result: the content of one accumulator set or sink (04 R107-R111, R119). `vals` holds row by row the elements of an
output-stationary or broadside LIMB 0 result; `limbs` the exact recombined elements of a limb result (03 R89). The check
sums of 05 R123, R126 are kept with it. -/
structure Res where
  ctx : Nat
  order : Nat
  dataflow : Nat
  limb : Nat
  t : Nat
  k : Nat
  log : List PMmPass
  passes : Nat
  vals : List (List Acc)
  limbs : List (List FVal)
  sA : Dy
  sB : Dy
  m : List Dy
  n : List Dy
  rW : Dy
  sX : List Dy
  maxA : List Dy
  maxB : List Dy
  drain : Option Nat
  bad : Option (Nat × Nat)
  /-- Engines used by replays of this result, and the errors of its second replay (05 R131, R133). -/
  used : List Nat
  second : List ElemErr
  deriving DecidableEq, Repr

/-- A partition (04 R97, R107): the pass in execution with its set, the commands queued, the two results, which set the next
result opens in, and the bubble tenants whose accumulators were discarded (02 R62). -/
structure Part where
  exec : Option (Nat × Bool) := none
  queue : List Nat := []
  x : Option Res := none
  y : Option Res := none
  nextY : Bool := false
  opened : Nat := 0
  preempted : List Nat := []
  deriving DecidableEq, Repr

/-- A matrix engine (04 R98, R120). -/
structure Engine where
  shape : Nat := 0
  parts : AMap Part := []
  deriving DecidableEq, Repr

/-! ## Routing -/

/-- One place in a token's ranking (06 R153): the expert or range, the weight, the row offset of a lookup, and whether it is
padding. -/
structure Place where
  expert : Nat
  weight : Nat
  rowOff : Nat
  pad : Bool
  deriving DecidableEq, Repr

/-- A slot of a round after admission (06 R159, R163): token, rank, the expert it ended at, whether it was admitted, in the
spill round, and its slot number. -/
structure Slot where
  token : Nat
  rank : Nat
  expert : Nat
  admitted : Bool
  spilled : Bool
  slot : Nat
  deriving DecidableEq, Repr

/-- An open round on a source Watershed (06 R149-R166). It holds no choices while its RT_TOPK has not completed, and is being
counted while `countJob` is set. -/
structure Round where
  tag : Nat
  ctx : Nat
  layer : Nat
  k : Nat
  tokens : Nat
  experts : Nat
  lookup : Bool
  epoch : Nat
  /-- K choices of each token. -/
  choices : List (List Place)
  /-- The spill candidates of each token, places K to 2K − 1 (R153). -/
  spare : List (List Nat)
  mode : Nat
  source : Nat
  sources : Nat
  spilling : Bool
  counted : Bool
  /-- Owners sent counts, and those from which a quota message is awaited, as 8 · position + die. -/
  owners : List Nat
  awaiting : List Nat
  /-- Quota and base by 65,536 · rank + expert (R159); and of the spill round (R163). -/
  quotas : AMap (Nat × Nat)
  spillQuotas : AMap (Nat × Nat)
  /-- One slot for each choice, by token and then rank, once admission is settled. -/
  slots : List Slot
  checks : Nat
  quotaAddr : Nat
  countJob : Option Nat
  deriving DecidableEq, Repr

/-- A tag a Watershed remembers (06 R150), and what the exchange of the tag still lacks. -/
structure TagRec where
  tag : Nat
  ctx : Nat
  layer : Nat
  k : Nat
  tokens : Nat
  lookup : Bool
  counted : Bool
  cancelled : Bool
  /-- Owners that were sent counts or rows, as 8 · position + die (R173). -/
  owners : List Nat
  /-- Admitted slots (token, rank, gradient) of open claims whose contribution has not reached the Confluence (07 R202). -/
  outstanding : List (Nat × Nat × Bool)
  /-- Rows sent and not yet confirmed, as (token, rank, gradient), and the command that sent them (R169). -/
  unlanded : List (Nat × Nat × Bool)
  landJob : Option Nat
  cancelJob : Option Nat
  /-- The owners of outstanding and unlanded rows, as 8 · position + die (12 R321, R328). -/
  rowsTo : List ((Nat × Nat × Bool) × Nat) := []
  deriving DecidableEq, Repr

/-- An owner's record of a tag (06 R151, R157-R161, R173): the count messages of both rounds, what a disagreement refused,
admitted slots by expert, whether each fill is done, experts whose forward arrival word is written, and stale rows. -/
structure OwnTag where
  tag : Nat
  msgs : List CountMsg
  spills : List CountMsg
  refused : Option Nat
  fills : AMap Nat
  filled : Bool
  spillFilled : Bool
  arrived : List Nat
  cancelled : Bool
  stale : Nat
  deriving DecidableEq, Repr

/-- A row that has landed (07 R185, R188): slot, the source to return to, and its route record's place. -/
structure Landed where
  slot : Nat
  srcPos : Nat
  srcDie : Nat
  claim : Nat
  token : Nat
  rank : Nat
  deriving DecidableEq, Repr

/-- A held half of an expert's receive area (07 R187, R188). -/
structure Half where
  ctx : Nat
  tag : Nat
  claim : Nat
  rows : List Landed
  fmt : Nat
  rowBytes : Nat
  arrived : Bool
  deriving DecidableEq, Repr

/-- A Watershed (06). -/
structure Watershed where
  rounds : List Round := []
  /-- Remembered tags, newest first, at most 4,096 (R150). -/
  tags : List TagRec := []
  owned : List OwnTag := []
  /-- Held halves by 2 · key + gradient, the key being (LAYER << 16) + INDEX (07 R187). -/
  halves : AMap Half := []
  /-- Rows refused by a held half, oldest first (07 R187). -/
  heldRows : List RowMsg := []
  deriving DecidableEq, Repr

/-- A staged directory update (06 R179). -/
structure Staged where
  entries : List DirEntry
  epoch : Nat
  acked : Bool
  deriving DecidableEq, Repr

/-- The expert directory (06 R178-R182): entries and last-move epochs by key, the epoch, the staged update, and on the
master the update's job and the members that have acknowledged. -/
structure DirSt where
  entries : AMap DirEntry := []
  moved : AMap Nat := []
  epoch : Nat := 0
  staged : Option Staged := none
  acks : List Nat := []
  job : Option Nat := none
  deriving DecidableEq, Repr

/-! ## Combine, factors and versions -/

/-- A row of a claim (07 R191-R195): FP32 sums, checksum and absolute-sum terms, ranks applied, scalars by rank (R206), and
whether the row is final or failed. -/
structure ClaimRow where
  buf : List Nat
  chk : Nat
  absS : Nat
  got : List Nat
  sigma : AMap Nat
  final : Bool
  failed : Bool
  deriving DecidableEq, Repr

/-- A claim (07 R191). -/
structure Claim where
  ctx : Nat
  tag : Nat
  grad : Bool
  replay : Bool
  dispatch : Bool
  num : Nat
  route : Nat
  k : Nat
  tokens : Nat
  rowBytes : Nat
  fmt : Nat
  e : Nat
  units : Nat
  /-- Expected counts of the rows, once a command is bound (R197). -/
  expect : List Nat
  rows : AMap ClaimRow
  job : Option Nat
  /-- A replay claim whose contributions a CB_RETURN_GRAD with RECOMPUTE discards (R207). -/
  sink : Bool
  deriving DecidableEq, Repr

/-- A Confluence (07 R191-R201): open claims and the last CLAIM number of each tag. -/
structure Confluence where
  claims : List Claim := []
  lastNum : AMap Nat := []
  ctxHwm : AMap Nat := []
  ctxStale : AMap Nat := []
  deriving DecidableEq, Repr

/-- A live version of a tensor (07 R216). -/
structure Version where
  num : Nat
  addr : Nat
  bytes : Nat
  pins : List (Nat × Nat)
  deriving DecidableEq, Repr

/-- A tensor's record (07 R216): the current version, and every live version. -/
structure TensorRec where
  current : Nat := 0
  live : List Version := []
  deriving DecidableEq, Repr

/-- The latest DMA command of a context on an engine (09 R273). -/
structure DmaLast where
  status : Nat := 0
  seq : Nat := 0
  done : Nat := 0
  failIndex : Nat := 0xFFFFFFFF
  failAddr : Nat := 0
  deriving DecidableEq, Repr

/-! ## Signals -/

/-- A waiter on a signal word (10 R278, R282): a ring's job, or a drover. -/
inductive WaiterId where
  | job (id : Nat)
  | drover (n : Nat)
  deriving DecidableEq, Repr

/-- An attached or polling waiter (10 R278, R281): word, comparand, condition. -/
structure Waiter where
  who : WaiterId
  addr : Nat
  value : Nat
  cond : Nat
  polling : Bool
  unit : Nat
  tagBits : Nat
  deriving DecidableEq, Repr

/-- A tracked word's entry (10 R283); its waiters are those of `SigSt.waiters`. -/
structure SigEntry where
  addr : Nat
  value : Nat
  lastOrigin : Nat
  lastUnit : Nat
  poisoned : Bool
  writes : Nat
  stamp : Nat
  deriving DecidableEq, Repr

/-- Signal words (10): waiters in the order they attached, and the table of each compute die. -/
structure SigSt where
  waiters : List Waiter := []
  /-- Table entries of compute die d. -/
  table : AMap (List SigEntry) := []
  deriving DecidableEq, Repr

/-! ## Drovers and chains -/

/-- Why and where a drover stopped (11 R295). -/
structure DrvLast where
  ctx : Nat := 0
  status : Nat := 0
  seq : Nat := 0
  cause : Nat := 0xFFFF
  pc : Nat := 0
  addr : Nat := 0
  exit : Nat := 0
  deriving DecidableEq, Repr

/-- A drover (11 R286-R302): its launch's job, its registers, its custom CSRs and its sink. -/
structure Drover where
  job : Option Nat := none
  finished : Bool := false
  index : Nat := 0
  scratch : Nat := 0
  pc : Nat := 0
  x : AMap Nat := []
  f : AMap Nat := []
  /-- Vector registers of 1,024 bits. -/
  v : AMap Nat := []
  fflags : Nat := 0
  vl : Nat := 0
  vtype : Nat := 2 ^ 63
  vstart : Nat := 0
  vcsr : Nat := 0
  resv : Option Nat := none
  sigaddr : Nat := 0
  sigval : Nat := 0
  sigwait : Nat := 0
  sigtmo : Nat := 100000
  statsink : Nat := 0
  tmbase : Nat := 0
  tmshape : Nat := 0
  tmdst : Nat := 0
  tmctl : Nat := 0
  sinkSq : FVal := .fin false 0 0
  sinkMax : FVal := .fin false 0 0
  sinkCount : Nat := 0
  waiting : Bool := false
  replayed : Bool := false
  checks : Nat := 0
  last : List DrvLast := []
  deriving DecidableEq, Repr

/-- An open chain on a die (11 R303-R305): its job, context and command, the members of its table as (device, die), its
statistics, the pieces received and sent, and whether a resend has been asked. An ended chain is kept while its outgoing data
may be asked for again (05 R141). -/
structure Chain where
  job : Nat
  ctx : Nat
  cmd : PChainReduce
  members : List (Nat × Nat)
  stats : Nat
  statSlot : Nat
  got : List ChainMsg
  sent : List ChainMsg
  resent : Bool
  ended : Bool
  deriving DecidableEq, Repr

/-! ## Links and groups -/

/-- A message this device has sent and that has not been received. -/
inductive NetMsg where
  | count (m : CountMsg) (pos die : Nat)
  | quota (m : QuotaMsg) (pos die : Nat)
  | row (m : RowMsg) (pos die : Nat)
  | confirm (m : Confirm) (pos die : Nat)
  | cancel (m : CancelNote) (pos die : Nat)
  | cancelAck (m : CancelAck) (pos die : Nat)
  | chain (m : ChainMsg) (device die : Nat)
  | chainResend (chainId piece device die : Nat)
  | chainAbort (chainId : Nat) (failed : Option Nat) (device die : Nat)
  | sigAck (port : Nat) (pos : Nat) (refused : Bool)
  | group (kind : Nat) (m : GroupMsg) (pos : Nat) (entries : List DirEntry)
  | frame (port : Nat) (bytes : List Byte)
  deriving DecidableEq, Repr

/-- A message on its way over a port, kept until its last frame is acknowledged (12 R316, R321): its number, channel, ROUTE
word, bytes, and what it says. -/
structure OutMsg where
  id : Nat
  vc : Nat
  route : Nat
  bytes : List Byte
  what : NetMsg
  deriving DecidableEq, Repr

/-- A data frame sent and not acknowledged (12 R316, R317): its FSEQ, message, index in the message, and times sent. -/
structure TxFrame where
  fseq : Nat
  msg : Nat
  idx : Nat
  sends : Nat
  deriving DecidableEq, Repr

/-- A Pass port (12 R309-R319, R337). -/
structure Port where
  state : Nat := 0
  /-- Trainings failed in a row, whether a failed port trains again, and whether training has passed (R317, R318). -/
  attempts : Nat := 0
  retraining : Bool := false
  trained : Bool := false
  /-- Cable delay and round trip in ns (R319, R337), and the partner's identity (R326). -/
  delayNs : Nat := 0
  rtt : Nat := 0
  partner : Option LinkMgmt := none
  /-- FSEQ of the next data frame, messages in hand, frames waiting as (message, index), and frames unacknowledged (R316). -/
  fseqTx : Nat := 0
  msgs : List OutMsg := []
  queue : List (Nat × Nat) := []
  unacked : List TxFrame := []
  /-- FSEQ of the next data frame expected, whether a NAK is due, and whether one has been accepted (R316). -/
  fseqRx : Nat := 0
  nak : Bool := false
  accepted : Bool := false
  /-- Credits held per VC and the partner's last counts; frames freed here per VC (R314). -/
  credits : List Nat := [64, 512, 512, 64]
  seenCredits : List Nat := [0, 0, 0, 0]
  freed : List Nat := [0, 0, 0, 0]
  /-- Slots since the last sync or control frame, and exchange frames since the last bulk frame (R313). -/
  slowRun : Nat := 7
  exchRun : Nat := 0
  /-- CRC errors in a row (R312), and ticks of the missed verdicts of the last 1 ms (R317). -/
  crcRun : Nat := 0
  misses : List Nat := []
  /-- Message bytes gathered on each VC since SOM (R310). -/
  gather : AMap (List Byte) := []
  deriving DecidableEq, Repr

/-- A message received whole on a port (12 R310). -/
structure RxMsg where
  port : Nat
  vc : Nat
  srcDevice : Nat
  srcDie : Nat
  dstDie : Nat
  bytes : List Byte
  deriving DecidableEq, Repr

/-- An ingest ring (12 R323, R324). -/
structure IngestRing where
  base : Nat
  log2 : Nat
  slotLog2 : Nat
  tailAddr : Nat
  headAddr : Nat
  written : Nat
  deriving DecidableEq, Repr

/-- An ingest receiver's table (12 R323). -/
structure IngestTable where
  ip : List Byte
  udpPort : Nat
  rings : List IngestRing
  deriving DecidableEq, Repr

/-- Ports by unit ID, the number of the next message sent, messages received, ingest tables by pass die, Neighbor
Advertisements sent (12). -/
structure LinkSt where
  ports : AMap Port := []
  nextMsg : Nat := 0
  rx : List RxMsg := []
  ingest : AMap IngestTable := []
  adverts : List (Nat × List Byte) := []
  deriving DecidableEq, Repr

/-- A barrier instance the master holds (12 R332): BARRIER_ID, MEMBERS and the positions that have arrived. -/
structure Barrier where
  id : Nat
  members : Nat
  arrived : List Nat
  deriving DecidableEq, Repr

/-- A peer as this device sees it (12 R327, R328). A peer never heard is neither live nor lost. -/
structure Peer where
  live : Bool := false
  lost : Bool := false
  eligible : Bool := false
  liveSince : Nat := 0
  dirEpoch : Nat := 0
  masterSeen : Nat := 0xF
  deriving DecidableEq, Repr

/-- The group (12 R325-R333): when the first port came up, peers by position, term and master, the last remap epoch
applied, the highest remap and checkpoint epoch numbers heard, and the barriers a master holds, the arrivals that wait for room as (position, BARRIER_ID, MEMBERS), and how often each
BARRIER_ID has been released. -/
structure GroupSt where
  firstUp : Option Nat := none
  peers : AMap Peer := []
  term : Nat := 0
  master : Option Nat := none
  remapEpoch : Nat := 0
  remapSeen : Nat := 0
  checkpoint : Nat := 0
  barriers : List Barrier := []
  waiting : List (Nat × Nat × Nat) := []
  instances : AMap Nat := []
  deriving DecidableEq, Repr

/-! ## Trust -/

/-- A numbered ledger entry (13 R355). -/
structure LedgerEntry where
  seq : Nat
  time : Nat
  timeUnset : Bool
  ev : LedgerEvent
  deriving DecidableEq, Repr

/-- A ledger page (13 R359). -/
structure Page where
  num : Nat
  entries : List LedgerEntry
  sealTime : Nat
  reason : Nat
  timeUnset : Bool
  firstAfterBoot : Bool
  boots : Nat
  prevDigest : BitVec 512
  deriving DecidableEq, Repr

/-- A management session (13 R350): the state of its certificate. -/
structure Session where
  id : Nat
  operator : Bool
  deriving DecidableEq, Repr

/-- What the management port has sent in answer (13 R350). -/
inductive MgmtReply where
  | report (bytes : List Byte)
  | identity (bytes cert addrs : List Byte)
  | pages (p : List Page)
  | accepted
  | denied
  deriving DecidableEq, Repr

/-- The kernel's ledger, debug access, time of day and management port (13). -/
structure TrustSt where
  ledgerOpen : Bool := false
  nextSeq : Nat := 0
  openPage : List LedgerEntry := []
  firstPage : Bool := true
  /-- Pages sealed and not yet archived, oldest first (R358). -/
  held : List Page := []
  /-- Entries on their way from dies other than MD (R357). -/
  inTransit : List (Nat × LedgerEvent) := []
  debugEver : Bool := false
  fwVersion : Nat := 0
  bootSlot : Nat := 0
  kernelDigest : BitVec 512 := 0
  fwDigest : BitVec 512 := 0
  dieMatch : Nat := 0
  booting : Bool := false
  timeSet : Bool := false
  timePtp : Bool := false
  timeBase : Nat := 0
  timeAt : Nat := 0
  lastSync : Nat := 0
  sessions : List Session := []
  /-- Ticks of the reports of the last second (R350), and what the port has sent in answer. -/
  attests : List Nat := []
  replies : List MgmtReply := []
  slaac : List (List Byte) := []
  dhcp4 : Option (Nat × Nat × Nat) := none
  uartRx : List Byte := []
  /-- The last answer of each die's kernel gate (R339), by die: status, DETAIL, and what a read call reads. -/
  gate : AMap (Nat × Nat × List Nat) := []
  deriving DecidableEq, Repr

/-- STATE of a firmware slot (13 R344). -/
inductive SlotState where
  | empty
  | valid
  | next
  | active
  deriving DecidableEq, Repr

/-- A firmware slot in flash (13 R342, R344): its state and the manifest fields the device uses. -/
structure FwSlot where
  state : SlotState
  keyIndex : Nat
  fwVersion : Nat
  security : Nat
  kernelDigest : BitVec 512
  fwDigest : BitVec 512
  deriving DecidableEq, Repr

/-- What flash and fuses keep through a stop (13 R341, R344, R350, R352, R361; 14 R367, R370). -/
structure FlashSt where
  serial : List Byte := []
  dateCode : List Byte := []
  macBase : List Byte := []
  slot0 : FwSlot := ⟨.active, 0, 0, 0, 0, 0⟩
  slot1 : FwSlot := ⟨.empty, 0, 0, 0, 0, 0⟩
  security : Nat := 0
  revoked : List Nat := []
  boots : Nat := 0
  anchors : List (List Byte) := []
  /-- Archived pages, oldest first, and the page number after the last one read by LEDGER_READ (R361). -/
  archive : List Page := []
  readTo : Nat := 0
  nextPage : Nat := 0
  lastDigest : BitVec 512 := 0
  seqBlock : Nat := 0
  cleanStop : Bool := true
  mgmtNet : Nat := 0x5000000000000
  mgmtTable : List Byte := []
  rails : AMap Nat := []
  taps : AMap Nat := []
  /-- Channels recorded as soft mapped out or lost, with their states (14 R370). -/
  badChans : AMap ChanState := []
  /-- Stop causes latched by the power stages, whether recovery has taken place, and the slots that a boot fell back from
  (13 R344, R345; 14 R368). -/
  latchedCauses : List LedgerEvent := []
  recovered : Bool := false
  fellBack : List Nat := []
  deriving DecidableEq, Repr

/-! ## Units, module and counters -/

/-- A unit's readiness (14 R370-R374, R385): its causes, its probation count, its quarantine points in units of 2^-16 with
the tick of the last charge (05 R135), its tick and beat calibration (01 R23, R24). -/
structure Health where
  ready : Bool := false
  quarantined : Bool := false
  testing : Bool := false
  probation : Bool := false
  retired : Bool := false
  failed : Bool := false
  resetting : Bool := false
  lastCause : Nat := 0
  lastTest : Nat := 0
  shadow : Nat := 0
  points : Nat := 0
  chargedAt : Nat := 0
  /-- Whether the unit's bring-up step has been taken (14 R370). -/
  brought : Bool := false
  tickRate : Nat := 0
  beatPs : Nat := 0
  /-- Lowest slack since the last plan in ps, none before the first reading (14 R376). -/
  minSlack : Option Int := none
  /-- When the unit's last rotation slice ran (14 R383). -/
  slicedAt : Nat := 0
  deriving DecidableEq, Repr

/-- A die (14 R372, R377, R379, R385). -/
structure DieSt where
  state : Nat := 0
  generation : Nat := 0
  calmPlans : Nat := 0
  /-- Lowest slack of the die-level logic since the last plan, and whether that logic is retired (14 R376, R380). -/
  dieSlack : Option Int := none
  dieRetired : Bool := false
  lifeDays : Nat := 0xFFFF
  /-- Whether the die is held back for its stacks (01 R31) and for its junctions (14 R375). -/
  thermalHold : Bool := false
  junctionHold : Bool := false
  permit : Nat := 0x3FFF
  deriving DecidableEq, Repr

/-- A temperature sensor (14 R375): its last three samples, newest first, whether it is ignored, and how many samples in
succession have stood above 110 °C (junction sensors). Units of 0.125 °C. -/
structure Sensor where
  samples : List Int := []
  ignored : Bool := false
  hot : Nat := 0
  deriving DecidableEq, Repr

/-- Readiness, configuration items and counts of every unit. -/
structure UnitSt where
  /-- Health by unit ID. -/
  health : AMap Health := []
  dies : AMap DieSt := []
  /-- Configuration items by 65,536 · unit ID + ITEM; an item not listed holds its reset value. -/
  items : AMap Nat := []
  /-- WDOG_DELAY by 256 · unit ID + boundary (01 R26). -/
  wdog : AMap Nat := []
  /-- FACTOR_TABLE addresses by 256 · die + context (07 R209). -/
  factor : AMap Nat := []
  /-- Counts of the status records by 256 · unit ID + record offset (04 R120, 14 R386). -/
  counts : AMap Nat := []
  /-- Abandoned handshakes whose receiver is resetting, as (requesting unit, boundary, receiver) (01 R28). -/
  abandoned : List (Nat × Nat × Nat) := []
  /-- Late acknowledges by 256 · unit ID + boundary (01 R28). -/
  lateAcks : AMap Nat := []
  /-- Sensors by 16 · stack + n, and by 2,048 + 16 · die + n for junctions. -/
  sensors : AMap Sensor := []
  /-- Counters by 8 · unit ID + n, their values (15 R387). -/
  counters : AMap Nat := []
  /-- Counters, by 8 · unit ID + n, that stopped when their context was destroyed (15 R390). -/
  stopped : List Nat := []
  /-- SEL_GEN by unit ID (15 R393). -/
  selGen : AMap Nat := []
  deriving DecidableEq, Repr

/-- A snapshot ring (15 R391-R393). -/
structure SnapRing where
  ctx : Nat
  base : Nat
  log2 : Nat
  interval : Nat
  tailAddr : Nat
  headAddr : Nat
  units : List Nat
  t : Nat
  skipped : Nat
  deriving DecidableEq, Repr

/-- Power state of the module (16 R402). -/
inductive Power where
  | off
  | starting
  | running
  | stopping
  | latched
  deriving DecidableEq, Repr

/-- State of the IEEE 1149.1 TAP controller (16 R398). -/
inductive Tap where
  | reset | idle
  | selDr | capDr | shiftDr | exit1Dr | pauseDr | exit2Dr | updDr
  | selIr | capIr | shiftIr | exit1Ir | pauseIr | exit2Ir | updIr
  deriving DecidableEq, Repr

/-- The module: power, pins, pace governor, crystal, test port (16; 01 R29-R31). -/
structure ModuleSt where
  power : Power := .off
  en : Bool := false
  pgood : Bool := false
  faultN : Bool := true
  thermtripN : Bool := true
  recovery : Bool := false
  connected : Bool := true
  charged : Bool := false
  crystal : Bool := true
  bankOk : Bool := true
  /-- Causes of the stop in progress in the order granted, whether one of them latches, and whether a thermal trip has cut the
  rails (R403-R406). -/
  stopCauses : List LedgerEvent := []
  latch : Bool := false
  railsCut : Bool := false
  /-- When PGOOD last fell after EN went low (14 R369). -/
  pgoodLow : Option Nat := none
  pacePower : Nat := 0
  paceCurrent : Nat := 0
  /-- Whether the input current cap holds a permit below full, and whether tick calibration is ready (01 R25, R30). -/
  tickCal : Bool := false
  currentLimiting : Bool := false
  tap : Tap := .reset
  tapIr : Nat := 0
  tapShift : List Bool := []
  tdo : Bool := false
  /-- Events of 14 R375 that are counted and not ledgered, by input. -/
  inputCounts : AMap Nat := []
  deriving DecidableEq, Repr

/-- The state of the block. -/
structure State where
  /-- Commands waiting, first in, first out (the model's queue). -/
  pending : List Instr := []
  /-- Elapsed local ticks (the model's clock, DESIGN CHOICE, log entry 2). -/
  now : Nat := 0
  /-- Index of the next free value (the model's own, DESIGN CHOICE, log entry 4). -/
  free : Nat := 0
  mod : ModuleSt := {}
  hw : UnitSt := {}
  gz : GelozSt := {}
  mem : MemSt := {}
  /-- Matrix engines by unit ID. -/
  mm : AMap Engine := []
  /-- Watersheds by die. -/
  ws : AMap Watershed := []
  dir : DirSt := {}
  /-- Confluences by die. -/
  cf : AMap Confluence := []
  /-- Tensor records by 2^32 · context + TENSOR. -/
  ver : AMap TensorRec := []
  /-- Latest DMA commands by 256 · unit ID + context. -/
  dma : AMap DmaLast := []
  sig : SigSt := {}
  /-- Drovers by 64 · die + n. -/
  drv : AMap Drover := []
  /-- Open and waiting chains by die. -/
  chains : AMap (List Chain) := []
  link : LinkSt := {}
  grp : GroupSt := {}
  tr : TrustSt := {}
  /-- Snapshot rings by number. -/
  snap : AMap SnapRing := []
  flash : FlashSt := {}
  net : List NetMsg := []
  deriving DecidableEq, Repr

/-- The block after reset: the module switched off with EN low, every register at its reset value, no context, no function
ready, an empty queue. MODULE_START and BRINGUP_STEP take it from there (DEDUCED, log entry 3). -/
def State.reset : State := {}

end Sys2Proof.Machine
end

