-- ==== Sys2Proof/Machine/Ops.lean ====
section
/-! DEFINITION. The named operations over the state: bytes of memory, placement and poison, extents, counts, the ledger,
readiness and quarantine, signals, and messages. -/

namespace Sys2Proof.Machine

/-! ## Bytes -/

/-- The byte at an address: an address that is not listed reads 0 (DESIGN CHOICE, log entry 1). -/
def cellGet : List (Nat × Byte) → Nat → Byte
  | [], _ => 0
  | (k, w) :: m, a => if a = k then w else cellGet m a

/-- Write one byte, keeping the list sorted and free of zero bytes. -/
def cellSet : List (Nat × Byte) → Nat → Byte → List (Nat × Byte)
  | [], a, b => if b = 0 then [] else [(a, b)]
  | (k, w) :: m, a, b =>
    if a < k then (if b = 0 then (k, w) :: m else (a, b) :: (k, w) :: m)
    else if a = k then (if b = 0 then m else (a, b) :: m)
    else (k, w) :: cellSet m a b

/-- Write bytes at ascending addresses. -/
def cellWrite : List (Nat × Byte) → Nat → List Byte → List (Nat × Byte)
  | m, _, [] => m
  | m, a, b :: bs => cellWrite (cellSet m a b) (a + 1) bs

/-- Read n bytes at ascending addresses. -/
def cellRead (m : List (Nat × Byte)) (a : Nat) : Nat → List Byte
  | 0 => []
  | n + 1 => cellGet m a :: cellRead m (a + 1) n

/-- The canonical form of memory: addresses strictly rising, no zero byte listed. -/
def Memory.wf : List (Nat × Byte) → Bool
  | [] => true
  | [(_, b)] => b != 0
  | (k, b) :: (k', b') :: m => b != 0 && decide (k < k') && Memory.wf ((k', b') :: m)

/-! ## Who acts -/

/-- Who makes an access: its unit, its origin ID (13 R353), the context it acts for, the command it is part of, and the
command's ring (02 R52). -/
structure Who where
  unit : Nat
  origin : Nat
  ctx : Nat
  job : Nat
  ring : Nat
  deriving DecidableEq, Repr

/-! ## Counts of the status records -/

/-- Add n to a count of a unit's status record. -/
def count (s : State) (u off n : Nat) : State :=
  { s with hw := { s.hw with counts := amMod 0 s.hw.counts (256 * u + off) (· + n) } }

/-- A count of a unit's status record. -/
def countOf (s : State) (u off : Nat) : Nat := amGet 0 s.hw.counts (256 * u + off)

/-- Set a count of a unit's status record. -/
def setCount (s : State) (u off n : Nat) : State :=
  { s with hw := { s.hw with counts := amPut s.hw.counts (256 * u + off) n } }

/-- Keep the largest value seen. -/
def countMax (s : State) (u off n : Nat) : State :=
  { s with hw := { s.hw with counts := amMod 0 s.hw.counts (256 * u + off) (max n) } }

/-! ## The device physical map (08 R225) -/

/-- Where an address lies. -/
inductive Region where
  | side (unit off : Nat)
  | operand (die : Nat)
  | accBuf (die : Nat)
  | scratch (die n : Nat)
  | control (ctx : Nat)
  | unmapped
  deriving DecidableEq, Repr

/-- A stack side (08 R227). -/
def sideOf (s : State) (u : Nat) : Side := amGet {} s.mem.sides u

/-- The place of an address in the device physical map (08 R225); populated or not is for `mapped`. -/
def regionOf (a : Nat) : Region :=
  if a < 64 * 2 ^ 36 then
    let st := a / 2 ^ 36
    .side (uid 0xA (st / 8) (2 * (st % 8) + bits a 35 1)) (a % 2 ^ 35)
  else if 0x50000000000 ≤ a && a < 0x50000100000 then .control ((a - 0x50000000000) / 0x1000)
  else if 0x60000000000 ≤ a && a < 0x60080000000 then .operand ((a - 0x60000000000) / 0x10000000)
  else if 0x61000000000 ≤ a && a < 0x61020000000 then .accBuf ((a - 0x61000000000) / 0x4000000)
  else if 0x62000000000 ≤ a && a < 0x62020000000 then
    .scratch ((a - 0x62000000000) / 0x4000000) ((a - 0x62000000000) % 0x4000000 / 0x100000)
  else .unmapped

/-- Whether n bytes from a lie in one populated side, or in one SRAM window (08 R225, R236). -/
def mapped (s : State) (a n : Nat) : Bool :=
  let r := regionOf a
  match r with
  | .side u off => off + n ≤ (sideOf s u).populated
  | .operand d => a + n ≤ 0x60000000000 + (d + 1) * 0x10000000
  | .accBuf d => a + n ≤ 0x61000000000 + (d + 1) * 0x4000000
  | .scratch d k => a + n ≤ 0x62000000000 + d * 0x4000000 + (k + 1) * 0x100000
  | .control _ => false
  | .unmapped => false

/-- Whether a unit may reach a region through an extent (08 R225). -/
def reaches (u : Nat) (r : Region) : Bool :=
  match r with
  | .side _ _ => true
  | .operand d => uDie u = d
  | .accBuf d => uDie u = d && uKind u = 9
  | .scratch d n => uDie u = d && (uKind u = 9 || (uKind u = 3 && uInst u = n))
  | .control _ => false
  | .unmapped => false

/-- The first address of a stack side's window (08 R225). -/
def sideBase (u : Nat) : Nat := (8 * uDie u + uInst u / 2) * 2 ^ 36 + (uInst u % 2) * 2 ^ 35

/-! ## Placement (08 R228, R249) -/

/-- The idx-th channel in ascending order among those not in the sorted list `out`. -/
def nthIn : List Nat → Nat → Nat
  | [], c => c
  | x :: xs, c => if x ≤ c then nthIn xs (c + 1) else c

/-- Insert a channel into a sorted list. -/
def insertSorted (x : Nat) : List Nat → List Nat
  | [] => [x]
  | y :: ys => if x < y then x :: y :: ys else if x = y then y :: ys else y :: insertSorted x ys

/-- The channel within its side that holds a side offset: R228, and R249 below a re-stripe front. -/
def placeChan (sd : Side) (o : Nat) : Nat :=
  let out := match sd.front with
    | some fr => if o < fr then insertSorted sd.outgoing sd.out else sd.out
    | none => sd.out
  nthIn out (o / 256 % (512 - out.length))

/-- The row of the granule within its channel (08 R228). -/
def placeRow (sd : Side) (o : Nat) : Nat := o / 256 / (512 - sd.out.length)

/-- The unit ID of channel c of a side (01 R18). -/
def chanUnit (side c : Nat) : Nat := uid 0xB (uDie side) (512 * uInst side + c)

/-- The channel that holds an address of a stack side (08 R228). -/
def chanOf (s : State) (a : Nat) : Nat :=
  match regionOf a with
  | .side u off => chanUnit u (placeChan (sideOf s u) off)
  | _ => 0

/-- A channel (08 R223). -/
def chan (s : State) (ch : Nat) : Chan := amGet {} s.mem.chans ch

/-- Change a channel. -/
def modChan (s : State) (ch : Nat) (f : Chan → Chan) : State :=
  { s with mem := { s.mem with chans := amMod {} s.mem.chans ch f } }

/-- Change a stack side. -/
def modSide (s : State) (u : Nat) (f : Side → Side) : State :=
  { s with mem := { s.mem with sides := amMod {} s.mem.sides u f } }

/-- Whether a channel's granules are poisoned because it is or was lost (08 R241, R252). -/
def chanPoisoned (c : Chan) : Bool := c.state == .lost || (c.state == .returnable && c.wasLost)

/-- How many channels of a side are in one state. -/
def chansIn (s : State) (side : Nat) (p : Chan → Bool) : Nat :=
  (s.mem.chans.filter (fun e => channelSide e.1 == side && p e.2)).length

/-- Channels of a side that are in service (08 R223). -/
def inService (s : State) (side : Nat) : Nat := 512 - chansIn s side (fun c => c.state != .inService)

/-! ## Poison (08 R241) -/

/-- The lowest address of n granule steps from a that lies on a poisoned channel. -/
def lostScan (s : State) (a : Nat) : Nat → Option Nat
  | 0 => none
  | n + 1 => if chanPoisoned (chan s (chanOf s a)) then some a else lostScan s ((a / 256 + 1) * 256) n

/-- Whether a block is among those that a remap epoch has left poisoned (08 R252). -/
def keptHas (k : KeptPoison) (b : Nat) : Bool :=
  match regionOf (32 * b) with
  | .side u off => u == k.side && off < k.limit && k.chans.contains (placeChan k.place off) && !k.cleared.contains b
  | _ => false

/-- Whether a 32-byte block is poisoned itself, whatever its channel (08 R241, R252). -/
def blockPoisoned (s : State) (b : Nat) : Bool := s.mem.poison.contains b || s.mem.kept.any (fun k => keptHas k b)

/-- The lowest address of n blocks from block b that a remap epoch has left poisoned. -/
def keptScan (s : State) (b : Nat) : Nat → Option Nat
  | 0 => none
  | n + 1 => if s.mem.kept.any (fun k => keptHas k b) then some (32 * b) else keptScan s (b + 1) n

/-- The lower of two addresses. -/
def lower (a b : Option Nat) : Option Nat :=
  match a, b with
  | some x, some y => some (min x y)
  | some x, none => some x
  | none, y => y

/-- The lowest poisoned address of a range. -/
def poisonAddr (s : State) (a n : Nat) : Option Nat :=
  if n = 0 then none
  else
    let e := (s.mem.poison.find? (fun b => a / 32 ≤ b && b ≤ (a + n - 1) / 32)).map (fun b => max a (32 * b))
    match regionOf a with
    | .side u _ =>
      let e := if s.mem.kept.any (fun k => k.side == u) then
          lower e ((keptScan s (a / 32) ((a + n - 1) / 32 - a / 32 + 1)).map (max a))
        else e
      if s.mem.chans.any (fun c => channelSide c.1 == u && chanPoisoned c.2) then
        lower e (lostScan s a ((a + n - 1) / 256 - a / 256 + 1))
      else e
    | _ => e

/-- The channel of the first poisoned block of a range (08 R241): what DETAIL of MEMORY_POISONED holds. -/
def poisonIn (s : State) (a n : Nat) : Option Nat := (poisonAddr s a n).map (chanOf s)

/-! ## Reading -/

/-- The undefined region that an address lies in (02 R49). -/
def undefAt (s : State) (a : Nat) : Option (Nat × Nat × Nat) := s.mem.undef.find? (fun r => r.1 ≤ a && a < r.1 + r.2.1)

/-- The byte at an address as its channel holds it: in an undefined region a free value, which stands until it is written. -/
def byteAt (s : State) (a : Nat) : Byte :=
  match undefAt s a with
  | some r => Config.freeByte r.2.2 a
  | none => cellGet s.mem.cells a

/-- What a unit may see at an address over the writes that are not yet visible, newest first (02 R52, 10 R284). -/
def seeThrough (s : State) (u a : Nat) : List Unseen → Byte → Byte
  | [], v => v
  | e :: es, v =>
    if e.addr ≤ a && a < e.addr + e.old.length then
      if e.unit = u || Config.freeSees s.free (e.job * 2 ^ 44 + a) then v
      else seeThrough s u a es (e.old.getD (a - e.addr) 0)
    else seeThrough s u a es v

/-- The byte a unit reads at an address. -/
def byteFor (s : State) (u a : Nat) : Byte :=
  seeThrough s u a s.mem.unseen (byteAt s a)

/-- The n bytes a unit reads from an address. -/
def readBytes (s : State) (u a : Nat) : Nat → List Byte
  | 0 => []
  | n + 1 => byteFor s u a :: readBytes s u (a + 1) n

/-- The number a unit reads in n bytes from an address. -/
def readNat (s : State) (u a n : Nat) : Nat := leNat (readBytes s u a n)

/-- The n bytes at an address as their channels hold them. -/
def bytesAt (s : State) (a : Nat) : Nat → List Byte
  | 0 => []
  | n + 1 => byteAt s a :: bytesAt s (a + 1) n

/-- The value of a signal word at its channel (10 R278). -/
def word (s : State) (a : Nat) : Nat := leNat (bytesAt s a 8)

/-! ## Configuration items -/

/-- The reset value of a configuration item. -/
def itemReset (item : Nat) : Nat :=
  match item with
  | 0x0001 => 160
  | 0x0010 => 10 * 65536 + 32
  | 0x0020 => 65536
  | 0x0030 => 1024 * 65536 + 3072
  | 0x0050 => 4 * 65536 + 1000 * 2 + 1
  | 0x0090 => 65536 + 20
  | 0x0091 => 24 * 256 + 5
  | 0x0070 => 65536 + 256
  | _ => 0

/-- The value of a configuration item. -/
def item (s : State) (u it : Nat) : Nat := amGet (itemReset it) s.hw.items (65536 * u + it)

/-- Write a configuration item. -/
def setItem (s : State) (u it v : Nat) : State :=
  { s with hw := { s.hw with items := amPut s.hw.items (65536 * u + it) v } }

/-- The MD die block, unit ID 0x0C00_0000. -/
def mdBlock : Nat := 0x0C000000
/-- The pace governor, unit ID 0x0C00_0004. -/
def paceUnit : Nat := 0x0C000004

/-- This device's group position (12 R325). -/
def myPos (s : State) : Nat := bits (item s mdBlock 0x70) 0 4
/-- SIZE of the group (12 R325). -/
def groupSize (s : State) : Nat := bits (item s mdBlock 0x70) 16 5
/-- GROUP (12 R325). -/
def myGroup (s : State) : Nat := bits (item s mdBlock 0x70) 23 9
/-- The system device number, 16 · GROUP + POSITION (12 R325). -/
def myDevice (s : State) : Nat := 16 * myGroup s + myPos s

/-! ## Contexts -/

/-- A context (02 R33). -/
def ctxOf (s : State) (c : Nat) : Ctx := amGet {} s.gz.ctxs c

/-- Change a context. -/
def modCtx (s : State) (c : Nat) (f : Ctx → Ctx) : State :=
  { s with gz := { s.gz with ctxs := amMod {} s.gz.ctxs c f } }

/-- Extent permissions (08 R235). -/
def pRead : Nat := 1
def pWrite : Nat := 2
def pAtomic : Nat := 4
def pExec : Nat := 8
def pShare : Nat := 16

/-- Whether every permission of a mask is set. -/
def hasPerms (perms need : Nat) : Bool := perms &&& need == need

/-- Whether an extent holds a range and may be used by units of a die (08 R235, R237). -/
def extHit (e : Extent) (die a n : Nat) : Bool := e.limit != 0 && e.base ≤ a && a + n ≤ e.limit && bit e.aff die

/-- The check of an access against a context's extent table (08 R237; 02 R45 check 10, R63): the status of a failure. -/
def access (s : State) (c u a n need : Nat) : Option Nat :=
  let cx := ctxOf s c
  let hits := (cx.extents.map (·.2)).filter (fun e => extHit e (uDie u) a n)
  if hits.isEmpty || !mapped s a n || !reaches u (regionOf a) then some 0x22
  else if !hits.any (fun e => hasPerms e.perms need) then some 0x23
  else if cx.cls = 2 && hasPerms need pWrite &&
      (cx.extents.map (·.2)).any (fun e => bit e.perms 4 && e.base < a + n && a < e.limit) then some 0x23
  else none

/-- Whether a unit is granted to a context; a field through its engine, a channel through its side (02 R45 check 9). -/
def granted (s : State) (c u : Nat) : Bool :=
  let cx := ctxOf s c
  cx.allUnits || cx.units.contains u || (uKind u = 2 && cx.units.contains (fieldEngine u)) ||
    (uKind u = 0xB && cx.units.contains (channelSide u))

/-- Whether a context may use a granted field: contexts are compared by CREATED_SEQ (02 R55). The holder of the primary
grant of a unit. -/
def primaryHolder (s : State) (u : Nat) : Nat :=
  let cs := s.gz.ctxs.filter (fun e => e.1 != 0 && e.2.live && e.2.cls != 1 && granted s e.1 u)
  match cs with
  | [] => 0
  | c :: r => (r.foldl (fun b e => if e.2.chk.createdSeq < b.2.chk.createdSeq then e else b) c).1

/-! ## The ledger (13 R354-R360) -/

/-- Time of day in ns, 0 while unset (13 R362, R364). -/
def timeNow (s : State) : Nat := if s.tr.timeSet then s.tr.timeBase + (s.now - s.tr.timeAt) else 0

/-- The fields of a check record that a snapshot compares: its counts by record offset (05 R145, R146). -/
def chkOffsets : List Nat :=
  [0x08, 0x10, 0x18, 0x20, 0x28, 0x30, 0x38, 0x40, 0x48, 0x50, 0x58, 0x60, 0x68, 0x70, 0x78, 0x80, 0x88, 0x90]

/-- The snapshot entries of one context: one for each count that has changed since the last snapshot (05 R146). -/
def snapEvents (c : Nat) (cx : Ctx) : List LedgerEvent :=
  (chkOffsets.filter (fun o => amGet 0 cx.chk.cnt o != amGet 0 cx.snap o)).map (fun o =>
    { origin := 0x000C, refused := false, reason := 4, object := BitVec.ofNat 32 c, field := BitVec.ofNat 16 o,
      ctx := BitVec.ofNat 8 c, old := BitVec.ofNat 64 (amGet 0 cx.snap o), new := BitVec.ofNat 64 (amGet 0 cx.chk.cnt o),
      aux := 0 })

/-- Number an entry and put it on the open page (13 R357). -/
def numberEntry (s : State) (e : LedgerEvent) : State :=
  let n := s.tr.nextSeq
  let s := count s (uid 6 12 0) 0x30 1
  { s with
    tr := { s.tr with
      nextSeq := n + 1
      openPage := s.tr.openPage ++ [⟨n, timeNow s, !s.tr.timeSet, e⟩] }
    flash := { s.flash with seqBlock := max s.flash.seqBlock (n / 4096 + 1) } }

/-- The bytes of a ledger entry (13 R355). -/
def entryBytes (e : LedgerEntry) : List Byte :=
  leBytes 8 e.seq ++ leBytes 8 e.time ++ leBytes 2 e.ev.origin.toNat ++
  leBytes 1 (b2n e.timeUnset + 2 * b2n e.ev.refused) ++ leBytes 1 e.ev.reason.toNat ++ leBytes 4 e.ev.object.toNat ++
  leBytes 2 e.ev.field.toNat ++ leBytes 1 e.ev.ctx.toNat ++ leBytes 1 0 ++ leBytes 4 0 ++ leBytes 8 e.ev.old.toNat ++
  leBytes 8 e.ev.new.toNat ++ leBytes 8 e.ev.aux.toNat ++ leBytes 8 0

/-- The signed bytes 0x0000-0x3AFF of a page (13 R359). -/
def pageBody (p : Page) : List Byte :=
  leBytes 4 0x5A6F4C31 ++ leBytes 2 1 ++ leBytes 2 p.entries.length ++ leBytes 8 p.num ++
  leBytes 8 (match p.entries with | e :: _ => e.seq | [] => 0) ++ leBytes 8 p.sealTime ++ leBytes 1 p.reason ++
  leBytes 1 (b2n p.timeUnset + 2 * b2n p.firstAfterBoot) ++ leBytes 6 0 ++ leBytes 8 p.boots ++
  leBytes 64 p.prevDigest.toNat ++ leBytes 16 0 ++ (p.entries.map entryBytes).flatten ++
  List.replicate (14976 - 64 * p.entries.length) 0

/-- The whole page with its signature (13 R359). -/
def pageBytes (p : Page) : List Byte := pageBody p ++ leBytes 1280 (Config.signature (pageBody p)).toNat

/-- PAGE_DIGEST of a page (13 R359). -/
def pageDigest (p : Page) : BitVec 512 := digest (pageBytes p)

/-- Close the open page and hold it for signature and archive (13 R358, R360). An empty page is never sealed. -/
def closePage (reason : Nat) (s : State) : State :=
  match s.tr.openPage with
  | [] => s
  | es =>
    let prev := match s.tr.held.getLast? with | some p => pageDigest p | none => s.flash.lastDigest
    let p : Page := { num := s.flash.nextPage, entries := es, sealTime := timeNow s, reason := reason,
                      timeUnset := !s.tr.timeSet, firstAfterBoot := s.tr.firstPage, boots := s.flash.boots,
                      prevDigest := prev }
    { s with
      tr := { s.tr with openPage := [], firstPage := false, held := s.tr.held ++ [p] }
      flash := { s.flash with nextPage := s.flash.nextPage + 1 } }

/-- Put snapshot entries on the open page; a page they fill is sealed as full (13 R360). -/
def appendAll : List LedgerEvent → State → State
  | [], s => s
  | e :: es, s =>
    let s := numberEntry s e
    appendAll es (if s.tr.openPage.length ≥ 234 then closePage 0 s else s)

/-- Note that the counts of live contexts have been snapshotted (05 R146). -/
def snapMark (s : State) : State :=
  { s with gz := { s.gz with ctxs := s.gz.ctxs.map (fun e =>
      if e.2.live && !(snapEvents e.1 e.2).isEmpty then
        (e.1, { e.2 with snap := e.2.chk.cnt, chk := { e.2.chk with ledgerSeq := s.tr.nextSeq } })
      else e) } }

/-- The entries that a snapshot of every live context's check record writes (05 R146). -/
def snapAll (s : State) : List LedgerEvent :=
  ((s.gz.ctxs.filter (fun e => e.2.live)).map (fun e => snapEvents e.1 e.2)).flatten

/-- Seal the open page for a reason, with the snapshot of 05 R146. Entries go into the page while it has room; the rest open
the next page (13 R360). -/
def sealPage (reason : Nat) (s : State) : State :=
  if s.tr.openPage.isEmpty then s
  else
    let evs := snapAll s
    let room := 234 - s.tr.openPage.length
    appendAll (evs.drop room) (closePage reason ((evs.take room).foldl numberEntry (snapMark s)))

/-- Give an entry its number on MD; a page that becomes full is sealed (13 R357, R360). -/
def appendEntry (e : LedgerEvent) (s : State) : State :=
  let s := numberEntry s e
  if s.tr.openPage.length ≥ 234 then sealPage 0 s else s

/-- Whether the ledger can take an entry from a gate call (13 R358). -/
def ledgerRoom (s : State) : Bool := s.tr.held.length < 16

/-- An event that a rule ledgers, on the die where it arises: MD numbers its own at once, and an entry of another die is on
its way until it arrives (13 R357). -/
def ledgerEv (die : Nat) (e : LedgerEvent) (s : State) : State :=
  if die = 12 && s.tr.ledgerOpen then appendEntry e s
  else { s with tr := { s.tr with inTransit := s.tr.inTransit ++ [(die, e)] } }

/-- An entry of reason r from its parts (13 R355). -/
def mkEv (origin reason object field ctx old new aux : Nat) (refused : Bool := false) : LedgerEvent :=
  { origin := BitVec.ofNat 16 origin, refused := refused, reason := BitVec.ofNat 8 reason,
    object := BitVec.ofNat 32 object, field := BitVec.ofNat 16 field, ctx := BitVec.ofNat 8 ctx,
    old := BitVec.ofNat 64 old, new := BitVec.ofNat 64 new, aux := BitVec.ofNat 64 aux }

/-- Ledger an event on a die. -/
def ledger (die origin reason object field ctx old new aux : Nat) (s : State) : State :=
  ledgerEv die (mkEv origin reason object field ctx old new aux) s

/-- Origin class 0xF of a die: autonomous hardware (13 R353). -/
def hwOrigin (die : Nat) : Nat := 0xF000 + die
/-- Origin class 0x0 of a die: the trusted kernel (13 R353). -/
def kernelOrigin (die : Nat) : Nat := die

/-! ## Readiness (14 R370-R374) -/

/-- A unit's health. -/
def health (s : State) (u : Nat) : Health := amGet {} s.hw.health u

/-- Change a unit's health. -/
def modHealth (s : State) (u : Nat) (f : Health → Health) : State :=
  { s with hw := { s.hw with health := amMod {} s.hw.health u f } }

/-- A die. -/
def dieOf (s : State) (d : Nat) : DieSt := amGet {} s.hw.dies d

/-- Change a die. -/
def modDie (s : State) (d : Nat) (f : DieSt → DieSt) : State :=
  { s with hw := { s.hw with dies := amMod {} s.hw.dies d f } }

/-- A link port (12 R318). -/
def portOf (s : State) (u : Nat) : Port := amGet {} s.link.ports u

/-- Whether any field of an engine is ready (14 R370). -/
def anyField (s : State) (engine : Nat) : Nat → Bool
  | 0 => false
  | n + 1 => (health s (uid 2 (uDie engine) (16 * uInst engine + n))).ready || anyField s engine n

/-- Whether a unit is ready: an engine also needs a ready field (14 R370), a side 448 channels in service (08 R224), a
port state up (12 R318), and a channel is in service. -/
def unitReady (s : State) (u : Nat) : Bool :=
  match uKind u with
  | 0xD => (portOf s u).state = 2
  | 0xB => (health s (channelSide u)).ready && (chan s u).state == .inService
  | 0x1 => (health s u).ready && anyField s u 16
  | _ => (health s u).ready

/-- The origin of a readiness change (13 R353): the kernel where it decides, in quarantine, self-test, retirement and
probation; autonomous hardware for the other causes (14 R373, DEDUCED, log entry 40). -/
def causeOrigin (die cause : Nat) : Nat :=
  if cause = 2 || cause = 3 || cause = 4 || cause = 7 then kernelOrigin die else hwOrigin die

/-- Change whether a unit is ready: the readiness map's generation rises and the change is ledgered with its cause
(14 R372, R373). -/
def setReady (u : Nat) (r : Bool) (cause : Nat) (s : State) : State :=
  if (health s u).ready = r then s
  else
    let s := modHealth s u (fun h => { h with ready := r, lastCause := cause })
    let s := modDie s (uDie u) (fun d => { d with generation := d.generation + 1 })
    ledger (uDie u) (causeOrigin (uDie u) cause) 6 u (if r then 2 else 1) 0 (b2n (!r)) (b2n r) cause s

/-! ## Quarantine points (05 R135, R136) -/

/-- 2^(−num/den) scaled by 2^40, from below, by halving for the whole part and eleven squarings of the rest. -/
def exp2Neg (num den : Nat) : Nat :=
  let whole := num / den
  let rest := (num % den) * 2 ^ 40 / den
  -- 1 − x ln 2 + (x ln 2)^2/2 − … with ln 2 · 2^40 = 762123384785
  let y := rest * 762123384785 / 2 ^ 40
  let t2 := y * y / 2 ^ 40
  let t3 := t2 * y / 2 ^ 40
  let t4 := t3 * y / 2 ^ 40
  let t5 := t4 * y / 2 ^ 40
  let t6 := t5 * y / 2 ^ 40
  let t7 := t6 * y / 2 ^ 40
  let t8 := t7 * y / 2 ^ 40
  let e := (2 ^ 40 + t2 / 2 + t4 / 24 + t6 / 720 + t8 / 40320) - (y + t3 / 6 + t5 / 120 + t7 / 5040)
  e / 2 ^ whole

/-- A count c, in units of 2^-16, after `dt` ticks of decay with a half-life of `hl` seconds. The kernel's own rounding is
free within 0.1 % (05 R135, DESIGN CHOICE, log entry 17). -/
def decay (s : State) (u c dt hl : Nat) : Nat :=
  if c = 0 || dt = 0 || hl = 0 then c
  else
    let exact := c * exp2Neg dt (hl * 1000000000) / 2 ^ 40
    let r := Config.freeDecay s.free u
    if exact * 999 ≤ r * 1000 && r * 1000 ≤ exact * 1001 then r else exact

/-- The unit whose points an event at a unit charges: a field's engine, a channel's side (05 R135). -/
def chargedUnit (u : Nat) : Nat :=
  if uKind u = 2 then fieldEngine u else if uKind u = 0xB then channelSide u else u

/-- Whether a kind keeps a point count (05 R135). -/
def keepsPoints (u : Nat) : Bool := isCD (uDie u) && [1, 3, 7, 8, 9, 0xA].contains (uKind u)

/-! ## Safety actions on objects with open windows (02 R65, R67) -/

/-- Rank of an origin, highest first (02 R67). -/
def orderRank (origin : Nat) : Nat :=
  match origin / 4096 with
  | 0 => 1
  | 0xF => 2
  | 1 => 3
  | 9 => 4
  | 2 => 5
  | 3 => 6
  | _ => 7

/-- A kernel safety action or an autonomous protection action on an object whose window is open joins it as its winner
(02 R65). -/
def actOn (obj : OrderObj) (o : Order) (s : State) : State :=
  { s with gz := { s.gz with windows := s.gz.windows.map (fun w =>
      if w.obj == obj then { w with action := (match w.action with
        | some a => if orderRank o.origin < orderRank a.origin then some o else some a
        | none => some o) }
      else w) } }

/-- Quarantine a unit: its ledger entries and its readiness (05 R136). -/
def quarantine (u : Nat) (s : State) : State :=
  let d := uDie u
  let pts := (health s u).points / 65536
  let s := actOn (.unit (BitVec.ofNat 32 u)) ⟨kernelOrigin d, 0, 6, 0, none⟩ s
  let s := ledger d (kernelOrigin d) 6 u 0 0 0 0 pts s
  setReady u false 2 (modHealth s u (fun h => { h with quarantined := true, probation := false }))

/-- Charge points to a unit; at LIMIT the kernel quarantines it (05 R135). -/
def charge (u pts : Nat) (s : State) : State :=
  let u := chargedUnit u
  if pts = 0 || !keepsPoints u then s
  else
    let lim := item s (uid 0 (uDie u) 0) 0x10
    let h := health s u
    let p := decay s u h.points (s.now - h.chargedAt) (bits lim 16 8) + 65536 * pts
    let s := modHealth s u (fun h => { h with points := p, chargedAt := s.now })
    if 65536 * bits lim 0 16 ≤ p && !h.quarantined then quarantine u s else s

/-! ## Waiters and writes (10) -/

/-- COND of SIG_WAIT, SKIP_IF and sigwait: 0 EQ, 1 NE, 2 GE, 3 LT, unsigned (02 R56). -/
def condHolds (cond v w : Nat) : Bool :=
  match cond with
  | 0 => v = w
  | 1 => v != w
  | 2 => w ≤ v
  | _ => v < w

/-- A job in flight. -/
def jobOf (s : State) (id : Nat) : Option Job := s.gz.jobs.find? (fun j => j.id == id)

/-- Change a job in flight. -/
def modJob (s : State) (id : Nat) (f : Job → Job) : State :=
  { s with gz := { s.gz with jobs := s.gz.jobs.map (fun j => if j.id == id then f j else j) } }

/-- End a job in flight: its reply follows when the step settles. -/
def endJob (s : State) (id : Nat) (e : End) : State := modJob s id (fun j => { j with phase := .ending e })

/-- A drover (11). -/
def droverOf (s : State) (n : Nat) : Drover := amGet {} s.drv n

/-- Change a drover. -/
def modDrover (s : State) (n : Nat) (f : Drover → Drover) : State := { s with drv := amMod {} s.drv n f }

/-- Detach a waiter and complete it: its condition held on value v (10 R278, R282). -/
def meetWaiter (s : State) (w : Waiter) (v : Nat) : State :=
  let s := { s with sig := { s.sig with waiters := s.sig.waiters.filter (fun x => x != w) } }
  match w.who with
  | .job id => endJob s id { status := 0, detail := v % 2 ^ 32 }
  | .drover n => modDrover s n (fun d => { d with waiting := false, sigwait := 0, sigval := v })

/-- Test every attached waiter of a word against the value just written (10 R278). -/
def wake (s : State) (a : Nat) : State :=
  let v := word s a
  (s.sig.waiters.filter (fun w => w.addr == a && !w.polling && condHolds w.cond v w.value)).foldl
    (fun s w => meetWaiter s w v) s

/-- Update the table entry of a tracked word (10 R283). -/
def track (s : State) (w : Who) (a : Nat) : State :=
  let d := a / 2 ^ 36 / 8
  { s with sig := { s.sig with table := amMod [] s.sig.table d (fun es => es.map (fun e =>
      if e.addr == a then
        { e with value := word s a, lastOrigin := w.origin, lastUnit := w.unit,
                 writes := min 0xFFFFFFFF (e.writes + 1), stamp := s.now, poisoned := false }
      else e)) } }

/-- The aligned 8-byte words that a write touches. -/
def wordsIn (a : Nat) (n : Nat) : List Nat :=
  (List.range ((a + n + 7) / 8 - a / 8)).map (fun i => 8 * (a / 8 + i))

/-- Let the monitors see a write (10 R278): only words that are tracked or waited on matter. -/
def monitors (s : State) (w : Who) (a n : Nat) : State :=
  if s.sig.waiters.isEmpty && s.sig.table.isEmpty then s
  else (wordsIn a n).foldl (fun s x => wake (track s w x) x) s

/-- Cut a range out of the undefined regions: what is written is defined again. -/
def undefCut (a n : Nat) (l : List (Nat × Nat × Nat)) : List (Nat × Nat × Nat) :=
  (l.map (fun r =>
    if r.1 + r.2.1 ≤ a || a + n ≤ r.1 then [r]
    else (if r.1 < a then [(r.1, a - r.1, r.2.2)] else []) ++
      (if a + n < r.1 + r.2.1 then [(a + n, r.1 + r.2.1 - (a + n), r.2.2)] else []))).flatten

/-- Clear the ECC poison of the 32-byte blocks that a write covers whole (08 R241). -/
def unpoison (a n : Nat) (l : List Nat) : List Nat :=
  if l.isEmpty then l else l.filter (fun b => !(a ≤ 32 * b && 32 * b + 32 ≤ a + n))

/-- Clear what a remap epoch has left poisoned in the blocks that a write covers whole (08 R252). -/
def unkeep (a n : Nat) (l : List KeptPoison) : List KeptPoison :=
  l.map (fun k =>
    { k with cleared := ((List.range ((a + n) / 32 - (a + 31) / 32)).map (fun i => (a + 31) / 32 + i)).filter (keptHas k) ++ k.cleared })

/-- Break the reservations of drovers that a write meets (11 R286, RISC-V LR/SC). -/
def breakResv (s : State) (a n : Nat) : State :=
  if s.drv.any (fun d => d.2.resv.isSome) then
    { s with drv := s.drv.map (fun d => match d.2.resv with
        | some r => if a < r + 8 && r < a + n then (d.1, { d.2 with resv := none }) else d
        | none => d) }
  else s

/-- Store bytes, visible to every unit: the write reaches its channel, and the monitors see it. -/
def storeNow (s : State) (w : Who) (a : Nat) (bs : List Byte) : State :=
  let s := { s with mem := { s.mem with
    cells := cellWrite s.mem.cells a bs
    poison := unpoison a bs.length s.mem.poison
    kept := unkeep a bs.length s.mem.kept
    undef := undefCut a bs.length s.mem.undef } }
  monitors (breakResv s a bs.length) w a bs.length

/-- Store bytes that another unit need not see before a fence (02 R52, 10 R284). -/
def storeLazy (s : State) (w : Who) (a : Nat) (bs : List Byte) : State :=
  if bs.isEmpty then s
  else
    let old := bytesAt s a bs.length
    storeNow { s with mem := { s.mem with unseen := ⟨w.unit, w.job, w.ring, a, old⟩ :: s.mem.unseen } } w a bs

/-- The first block of a write that it would cover in part and that is poisoned (08 R241). -/
def partialPoison (s : State) (a n : Nat) : Option Nat :=
  if n = 0 then none
  else
    let head := if a % 32 = 0 && 32 ≤ n then none else poisonIn s (a / 32 * 32) 32
    let e := a + n
    let tail := if e % 32 = 0 then none else poisonIn s (e / 32 * 32) 32
    match head with
    | some c => some c
    | none => tail

/-- Mark regions, each a first byte and a length, undefined (02 R49, 08 R241). -/
def markUndef (s : State) (rs : List (Nat × Nat)) : State :=
  if rs.isEmpty then s else { s with mem := { s.mem with undef := rs.map (fun r => (r.1, r.2, s.free)) ++ s.mem.undef } }

/-- Make the writes of earlier commands of one ring, or of one context, visible (10 R284). -/
def fenceUpTo (s : State) (job : Nat) (p : Nat → Bool) : State :=
  { s with mem := { s.mem with unseen := s.mem.unseen.filter (fun e => !(e.job < job && p e.ring)) } }

/-- Waiters on a poisoned block end MEMORY_POISONED (10 R279). -/
def poisonWaiters (s : State) (block : Nat) : State :=
  let ws := s.sig.waiters.filter (fun w => w.addr / 32 == block)
  let s := { s with sig := { s.sig with
    waiters := s.sig.waiters.filter (fun w => w.addr / 32 != block)
    table := s.sig.table.map (fun e => (e.1, e.2.map (fun x => if x.addr / 32 == block then { x with poisoned := true } else x))) } }
  ws.foldl (fun s w => match w.who with
    | .job id => endJob s id { status := 0x42, detail := chanOf s (32 * block) }
    | .drover n => modDrover s n (fun d => { d with waiting := false, sigwait := 2 })) s

/-- Poison a 32-byte block and ledger it (08 R241). -/
def poisonBlock (s : State) (block : Nat) : State :=
  if blockPoisoned s block then s
  else
    let a := 32 * block
    let ch := chanOf s a
    let d := uDie ch
    let s := { s with mem := { s.mem with poison := insertSorted block s.mem.poison } }
    let s := ledger d (hwOrigin d) 8 ch 0 0 0 0 (a % 2 ^ 35) s
    poisonWaiters s block

/-! ## Performance counters (15) -/

/-- CNT_SELn of a unit (15 R390). -/
def cntSel (s : State) (u n : Nat) : Nat := item s u (0xA0 + n)

/-- Whether counter n of a unit counts an event of a context: mode, event, filter, and not stopped (15 R389, R390). -/
def counts (s : State) (u n code ctx mode : Nat) : Bool :=
  let v := cntSel s u n
  bits v 0 2 = mode && bits v 48 16 = code && (!bit v 23 || bits v 24 8 = ctx) && !s.hw.stopped.contains (8 * u + n)

/-- Add to counter n of a unit, modulo 2^64 (15 R387). -/
def addCounter (s : State) (u n k : Nat) : State :=
  { s with hw := { s.hw with counters := amMod 0 s.hw.counters (8 * u + n) (fun c => (c + k) % 2 ^ 64) } }

/-- k occurrences of an event for a context, over counters n, n − 1, …, 0 in mode 1 (15 R389). -/
def eventUpTo (u code ctx k : Nat) : Nat → State → State
  | 0, s => s
  | n + 1, s => eventUpTo u code ctx k n (if counts s u n code ctx 1 then addCounter s u n k else s)

/-- k occurrences of an event at a unit for a context (15 R388, R389). -/
def event (s : State) (u code ctx k : Nat) : State := if k = 0 then s else eventUpTo u code ctx k 8 s

/-- Keep what the filter of a context lets count. -/
def inCtx (f : Option Nat) (c : Nat) : Bool := match f with | none => true | some x => x = c

/-- The occupancy an event code names at a unit, of one context if the filter asks (15 R388). Work that the model does
within one command never waits, so drover loads and gather lists have occupancy 0. -/
def occupancy (s : State) (u code : Nat) (f : Option Nat) : Nat :=
  match code with
  | 0x1080 => ((amGet {} s.mm u).parts.map (fun p =>
      (p.2.queue.filter (fun id => s.gz.jobs.any (fun j => j.id == id && inCtx f (j.ring / 256)))).length)).foldl (· + ·) 0
  | 0x7080 => ((amGet {} s.ws (uDie u)).rounds.filter (fun r => inCtx f r.ctx)).length
  | 0x8080 => ((amGet {} s.cf (uDie u)).claims.filter (fun c => inCtx f c.ctx)).length
  | 0x9080 => (s.gz.jobs.filter (fun j => j.unit == u && inCtx f (j.ring / 256))).length
  | 0xA080 => ((s.mem.chans.filter (fun c => channelSide c.1 == u)).map (fun c =>
      (c.2.queue.filter (fun r => inCtx f r.1.ctx.toNat)).length)).foldl (· + ·) 0
  | 0xD080 => 512 - (portOf s u).credits.getD 1 512
  | _ => 0

/-- The filter of a counter's selection. -/
def cntFilter (v : Nat) : Option Nat := if bit v 23 then some (bits v 24 8) else none

/-- An arrival that finds an occupancy before it, over counters n − 1, …, 0 in mode 2 (15 R389). -/
def arrivalUpTo (u code ctx : Nat) : Nat → State → State
  | 0, s => s
  | n + 1, s =>
    let v := cntSel s u n
    arrivalUpTo u code ctx n
      (if counts s u n code ctx 2 && bits v 32 16 < occupancy s u code (cntFilter v) then addCounter s u n 1 else s)

/-- An arrival at an occupancy, before it is accepted (15 R389, mode 2). -/
def arrival (s : State) (u code ctx : Nat) : State := arrivalUpTo u code ctx 8 s

end Sys2Proof.Machine
end

