-- ==== Sys2Proof/Machine/Operands.lean ====
section
/-! DEFINITION. Geloz packets as bytes: the opcode table (02 R53), the header (02 R44), the parameter blocks (02 R54, R55,
R56; 09 R256), their reserved bits, and the reading of a command from its bytes. -/

namespace Sys2Proof.Machine

/-- OPCODE of a packet row (02 R53); none for a row that is not a packet. -/
def opcodeOf : Instr → Option Nat
  | .nop _ => some 0x0000
  | .queryReady _ _ => some 0x0001
  | .queryStatus _ _ => some 0x0002
  | .mmPartition _ _ => some 0x0100
  | .mmPass _ _ _ => some 0x0101
  | .mmDrain _ _ _ => some 0x0102
  | .mmAbort _ _ => some 0x0103
  | .rtTopk _ _ _ => some 0x0200
  | .rtCount _ _ _ => some 0x0201
  | .rtDispatch _ _ _ => some 0x0202
  | .rtReplay _ _ _ => some 0x0203
  | .rtCancel _ _ => some 0x0204
  | .cbCombine _ _ _ => some 0x0300
  | .cbReturnGrad _ _ _ => some 0x0301
  | .cbFactorFlush _ _ _ => some 0x0302
  | .dmaRun _ _ _ => some 0x0400
  | .dmaChain _ _ _ => some 0x0401
  | .sigSet _ _ => some 0x0500
  | .sigAdd _ _ => some 0x0501
  | .sigWait _ _ => some 0x0502
  | .fenceWrites _ _ => some 0x0503
  | .fenceAll _ _ => some 0x0504
  | .loopBegin _ _ => some 0x0600
  | .loopEnd _ => some 0x0601
  | .skipIf _ _ => some 0x0602
  | .drvLaunch _ _ => some 0x0700
  | .memAtomic _ _ _ => some 0x0800
  | .verPublish _ _ => some 0x0801
  | .verPin _ _ => some 0x0802
  | .verRetire _ _ => some 0x0803
  | .chainReduce _ _ _ => some 0x0900
  | .grpBarrier _ _ => some 0x0A00
  | .grpDirectoryUpdate _ _ => some 0x0A01
  | .selftestUnit _ _ _ => some 0x0E00
  | .calibrateChannel _ _ => some 0x0E01
  | .ctxCreate _ _ => some 0x0F00
  | .ctxDestroy _ _ => some 0x0F01
  | .cfgWrite _ _ => some 0x0F02
  | .mapOut _ _ => some 0x0F03
  | .remapEpoch _ _ => some 0x0F04
  | .fwLoad _ _ _ => some 0x0F05
  | .ledgerSeal _ => some 0x0F06
  | _ => none

/-- The header of a packet row (02 R44). -/
def hdrOf : Instr → Hdr
  | .nop h => h
  | .queryReady h _ => h
  | .queryStatus h _ => h
  | .mmPartition h _ => h
  | .mmPass h _ _ => h
  | .mmDrain h _ _ => h
  | .mmAbort h _ => h
  | .rtTopk h _ _ => h
  | .rtCount h _ _ => h
  | .rtDispatch h _ _ => h
  | .rtReplay h _ _ => h
  | .rtCancel h _ => h
  | .cbCombine h _ _ => h
  | .cbReturnGrad h _ _ => h
  | .cbFactorFlush h _ _ => h
  | .dmaRun h _ _ => h
  | .dmaChain h _ _ => h
  | .sigSet h _ => h
  | .sigAdd h _ => h
  | .sigWait h _ => h
  | .fenceWrites h _ => h
  | .fenceAll h _ => h
  | .loopBegin h _ => h
  | .loopEnd h => h
  | .skipIf h _ => h
  | .drvLaunch h _ => h
  | .memAtomic h _ _ => h
  | .verPublish h _ => h
  | .verPin h _ => h
  | .verRetire h _ => h
  | .chainReduce h _ _ => h
  | .grpBarrier h _ => h
  | .grpDirectoryUpdate h _ => h
  | .selftestUnit h _ _ => h
  | .calibrateChannel h _ => h
  | .ctxCreate h _ => h
  | .ctxDestroy h _ => h
  | .cfgWrite h _ => h
  | .mapOut h _ => h
  | .remapEpoch h _ => h
  | .fwLoad h _ _ => h
  | .ledgerSeal h => h
  | _ => ⟨0, 0, 0, false, false, false, 0, 0, 0, 0⟩

/-- The hardware faults a packet row carries. -/
def faultsOf : Instr → Faults
  | .mmPass _ _ f => f
  | .mmDrain _ _ f => f
  | .rtTopk _ _ f => f
  | .rtCount _ _ f => f
  | .rtDispatch _ _ f => f
  | .rtReplay _ _ f => f
  | .cbCombine _ _ f => f
  | .cbReturnGrad _ _ f => f
  | .cbFactorFlush _ _ f => f
  | .dmaRun _ _ f => f
  | .dmaChain _ _ f => f
  | .memAtomic _ _ f => f
  | .chainReduce _ _ f => f
  | .selftestUnit _ _ f => f
  | .fwLoad _ _ f => f
  | _ => {}

/-- The same command with other hardware faults. -/
def withFaults (f : Faults) : Instr → Instr
  | .mmPass h p _ => .mmPass h p f
  | .mmDrain h p _ => .mmDrain h p f
  | .rtTopk h p _ => .rtTopk h p f
  | .rtCount h p _ => .rtCount h p f
  | .rtDispatch h p _ => .rtDispatch h p f
  | .rtReplay h p _ => .rtReplay h p f
  | .cbCombine h p _ => .cbCombine h p f
  | .cbReturnGrad h p _ => .cbReturnGrad h p f
  | .cbFactorFlush h p _ => .cbFactorFlush h p f
  | .dmaRun h p _ => .dmaRun h p f
  | .dmaChain h p _ => .dmaChain h p f
  | .memAtomic h p _ => .memAtomic h p f
  | .chainReduce h p _ => .chainReduce h p f
  | .selftestUnit h p _ => .selftestUnit h p f
  | .fwLoad h p _ => .fwLoad h p f
  | i => i

/-- LEN of an opcode (02 R53): none when the opcode is not defined. NOP accepts any LEN. -/
def lenOf (op : Nat) : Option Nat :=
  match op with
  | 0x0000 => some 0
  | 0x0001 => some 1
  | 0x0002 => some 1
  | 0x0100 => some 1
  | 0x0101 => some 4
  | 0x0102 => some 2
  | 0x0103 => some 1
  | 0x0200 => some 3
  | 0x0201 => some 2
  | 0x0202 => some 2
  | 0x0203 => some 2
  | 0x0204 => some 1
  | 0x0300 => some 3
  | 0x0301 => some 2
  | 0x0302 => some 1
  | 0x0400 => some 5
  | 0x0401 => some 1
  | 0x0500 => some 1
  | 0x0501 => some 1
  | 0x0502 => some 2
  | 0x0503 => some 1
  | 0x0504 => some 1
  | 0x0600 => some 1
  | 0x0601 => some 0
  | 0x0602 => some 2
  | 0x0700 => some 2
  | 0x0800 => some 3
  | 0x0801 => some 2
  | 0x0802 => some 1
  | 0x0803 => some 1
  | 0x0900 => some 3
  | 0x0A00 => some 1
  | 0x0A01 => some 1
  | 0x0E00 => some 1
  | 0x0E01 => some 1
  | 0x0F00 => some 3
  | 0x0F01 => some 1
  | 0x0F02 => some 1
  | 0x0F03 => some 1
  | 0x0F04 => some 1
  | 0x0F05 => some 1
  | 0x0F06 => some 0
  | _ => none

/-! ## Bytes of a command -/

/-- The bytes of a descriptor (09 R256). -/
def descBytes (d : Desc) : List Byte :=
  leBytes 1 d.op.toNat ++ leBytes 1 d.fmtSrc.toNat ++ leBytes 1 d.fmtDst.toNat ++ leBytes 1 d.stats.toNat ++
  leBytes 1 d.layout.toNat ++ leBytes 1 d.flags.toNat ++ leBytes 2 d.statSlot.toNat ++ leBytes 8 d.srcAddr.toNat ++
  leBytes 8 d.dstAddr.toNat ++ leBytes 8 d.indexAddr.toNat ++ leBytes 4 d.rows.toNat ++ leBytes 4 d.rowElems.toNat ++
  leBytes 4 d.srcStride.toNat ++ leBytes 4 d.dstStride.toNat ++ leBytes 8 d.scaleSrc.toNat ++ leBytes 8 d.scaleDst.toNat

/-- A descriptor from its 64 bytes (09 R256). -/
def readDesc (b : List Byte) : Desc :=
  { op := BitVec.ofNat 8 (fld b 0 1), fmtSrc := BitVec.ofNat 8 (fld b 1 1), fmtDst := BitVec.ofNat 8 (fld b 2 1)
    stats := BitVec.ofNat 8 (fld b 3 1), layout := BitVec.ofNat 8 (fld b 4 1), flags := BitVec.ofNat 8 (fld b 5 1)
    statSlot := BitVec.ofNat 16 (fld b 6 2), srcAddr := BitVec.ofNat 64 (fld b 8 8), dstAddr := BitVec.ofNat 64 (fld b 16 8)
    indexAddr := BitVec.ofNat 64 (fld b 24 8), rows := BitVec.ofNat 32 (fld b 32 4), rowElems := BitVec.ofNat 32 (fld b 36 4)
    srcStride := BitVec.ofNat 32 (fld b 40 4), dstStride := BitVec.ofNat 32 (fld b 44 4)
    scaleSrc := BitVec.ofNat 64 (fld b 48 8), scaleDst := BitVec.ofNat 64 (fld b 56 8) }

/-- Zero bytes of a reserved field. -/
def rsvd (n : Nat) : List Byte := List.replicate n 0

/-- The parameter block of a packet row (02 R54-R56), with every reserved field zero. -/
def paramBytes : Instr → List Byte
  | .queryReady _ p => leBytes 8 p.destAddr.toNat ++ leBytes 4 p.dieMask.toNat ++ rsvd 4
  | .queryStatus _ p => leBytes 8 p.destAddr.toNat ++ leBytes 4 p.select.toNat ++ leBytes 4 p.unitId.toNat
  | .mmPartition _ p => leBytes 4 p.engine.toNat ++ leBytes 1 p.shape.toNat ++ rsvd 11
  | .mmPass _ p _ =>
    leBytes 4 p.engine.toNat ++ leBytes 1 p.part.toNat ++ leBytes 1 p.dataflow.toNat ++ leBytes 1 p.fmtA.toNat ++
    leBytes 1 p.fmtB.toNat ++ leBytes 8 p.aAddr.toNat ++ leBytes 8 p.bAddr.toNat ++ leBytes 4 p.aStride.toNat ++
    leBytes 4 p.bStride.toNat ++ leBytes 4 p.k.toNat ++ leBytes 4 p.t.toNat ++ leBytes 1 p.limb.toNat ++
    leBytes 1 p.acc.toNat ++ leBytes 2 p.statSlot.toNat ++ rsvd 4 ++ leBytes 8 p.scaleAddr.toNat ++ rsvd 8
  | .mmDrain _ p _ =>
    leBytes 4 p.engine.toNat ++ leBytes 1 p.part.toNat ++ leBytes 1 p.fmtOut.toNat ++ leBytes 1 p.mode.toNat ++
    leBytes 1 p.stats.toNat ++ leBytes 8 p.destAddr.toNat ++ leBytes 4 p.destStride.toNat ++
    leBytes 2 p.statSlot.toNat ++ rsvd 10
  | .mmAbort _ p => leBytes 4 p.engine.toNat ++ leBytes 1 p.part.toNat ++ rsvd 11
  | .rtTopk _ p _ =>
    leBytes 8 p.logitsAddr.toNat ++ leBytes 8 p.choiceAddr.toNat ++ leBytes 8 p.countAddr.toNat ++
    leBytes 4 p.tokens.toNat ++ leBytes 2 p.experts.toNat ++ leBytes 1 p.k.toNat ++ leBytes 1 p.fmtLogit.toNat ++
    leBytes 2 p.layer.toNat ++ rsvd 2 ++ leBytes 4 p.batchTag.toNat ++ rsvd 8
  | .rtCount _ p _ =>
    leBytes 8 p.countAddr.toNat ++ leBytes 8 p.quotaAddr.toNat ++ leBytes 4 p.batchTag.toNat ++
    leBytes 2 p.layer.toNat ++ leBytes 1 p.mode.toNat ++ rsvd 1 ++ leBytes 2 p.source.toNat ++
    leBytes 2 p.sources.toNat ++ rsvd 4
  | .rtDispatch _ p _ =>
    leBytes 8 p.rowsAddr.toNat ++ leBytes 8 p.routeAddr.toNat ++ leBytes 4 p.batchTag.toNat ++
    leBytes 4 p.rowBytes.toNat ++ leBytes 1 p.fmtRow.toNat ++ rsvd 7
  | .rtReplay _ p _ =>
    leBytes 8 p.routeAddr.toNat ++ leBytes 8 p.rowsAddr.toNat ++ leBytes 4 p.batchTag.toNat ++
    leBytes 4 p.records.toNat ++ leBytes 1 p.direction.toNat ++ leBytes 1 p.fmtRow.toNat ++ rsvd 2 ++
    leBytes 4 p.rowBytes.toNat
  | .rtCancel _ p => leBytes 4 p.batchTag.toNat ++ rsvd 12
  | .cbCombine _ p _ =>
    leBytes 8 p.routeAddr.toNat ++ leBytes 8 p.outAddr.toNat ++ leBytes 8 p.signalAddr.toNat ++
    leBytes 8 p.missingAddr.toNat ++ leBytes 4 p.batchTag.toNat ++ leBytes 4 p.tokens.toNat ++
    leBytes 4 p.rowBytes.toNat ++ leBytes 1 p.fmtOut.toNat ++ rsvd 3
  | .cbReturnGrad _ p _ =>
    leBytes 8 p.routeAddr.toNat ++ leBytes 8 p.dxAddr.toNat ++ leBytes 8 p.scalarAddr.toNat ++
    leBytes 4 p.batchTag.toNat ++ leBytes 1 p.recompute.toNat ++ leBytes 1 p.fmtOut.toNat ++ rsvd 2
  | .cbFactorFlush _ p _ =>
    leBytes 4 p.expert.toNat ++ leBytes 2 p.layer.toNat ++ leBytes 2 p.statSlot.toNat ++ rsvd 8
  | .dmaRun _ p _ => leBytes 4 p.engine.toNat ++ rsvd 12 ++ descBytes p.desc
  | .dmaChain _ p _ => leBytes 4 p.engine.toNat ++ leBytes 4 p.count.toNat ++ leBytes 8 p.descAddr.toNat
  | .sigSet _ p => leBytes 8 p.addr.toNat ++ leBytes 8 p.value.toNat
  | .sigAdd _ p => leBytes 8 p.addr.toNat ++ leBytes 8 p.value.toNat
  | .sigWait _ p => leBytes 8 p.addr.toNat ++ leBytes 8 p.value.toNat ++ leBytes 1 p.cond.toNat ++ rsvd 15
  | .fenceWrites _ p => leBytes 1 p.scope.toNat ++ rsvd 15
  | .fenceAll _ p => leBytes 1 p.scope.toNat ++ rsvd 15
  | .loopBegin _ p => leBytes 8 p.countAddr.toNat ++ leBytes 4 p.maxTrip.toNat ++ rsvd 4
  | .skipIf _ p =>
    leBytes 8 p.addr.toNat ++ leBytes 8 p.value.toNat ++ leBytes 1 p.cond.toNat ++ rsvd 1 ++ leBytes 2 p.skip.toNat ++
    rsvd 12
  | .drvLaunch _ p =>
    leBytes 8 p.entry.toNat ++ leBytes 8 p.argAddr.toNat ++ leBytes 1 p.first.toNat ++ leBytes 1 p.count.toNat ++
    rsvd 2 ++ leBytes 4 p.scratchBytes.toNat ++ rsvd 8
  | .memAtomic _ p _ =>
    leBytes 8 p.addr.toNat ++ leBytes 8 p.operand.toNat ++ leBytes 8 p.compare.toNat ++ leBytes 8 p.resultAddr.toNat ++
    leBytes 1 p.op.toNat ++ leBytes 1 p.type.toNat ++ rsvd 14
  | .verPublish _ p =>
    leBytes 4 p.tensor.toNat ++ leBytes 4 p.version.toNat ++ leBytes 8 p.dataAddr.toNat ++ leBytes 8 p.bytes.toNat ++
    rsvd 8
  | .verPin _ p => leBytes 4 p.tensor.toNat ++ leBytes 4 p.version.toNat ++ leBytes 4 p.microbatch.toNat ++ rsvd 4
  | .verRetire _ p => leBytes 4 p.tensor.toNat ++ leBytes 4 p.version.toNat ++ leBytes 4 p.microbatch.toNat ++ rsvd 4
  | .chainReduce _ p _ =>
    leBytes 8 p.srcAddr.toNat ++ leBytes 8 p.dstAddr.toNat ++ leBytes 8 p.chainAddr.toNat ++
    leBytes 4 p.elements.toNat ++ leBytes 4 p.chainId.toNat ++ leBytes 1 p.op.toNat ++ leBytes 1 p.fmt.toNat ++
    leBytes 2 p.position.toNat ++ leBytes 2 p.length.toNat ++ rsvd 10
  | .grpBarrier _ p => leBytes 4 p.barrierId.toNat ++ leBytes 2 p.members.toNat ++ rsvd 10
  | .grpDirectoryUpdate _ p => leBytes 8 p.entriesAddr.toNat ++ leBytes 4 p.count.toNat ++ rsvd 4
  | .selftestUnit _ p _ => leBytes 4 p.unitId.toNat ++ leBytes 1 p.level.toNat ++ rsvd 11
  | .calibrateChannel _ p => leBytes 4 p.channel.toNat ++ rsvd 12
  | .ctxCreate _ p =>
    leBytes 8 p.ringTable.toNat ++ leBytes 8 p.extentTable.toNat ++ leBytes 8 p.unitTable.toNat ++
    leBytes 4 p.defaultTimeout.toNat ++ leBytes 2 p.units.toNat ++ leBytes 1 p.ctx.toNat ++ leBytes 1 p.cls.toNat ++
    leBytes 2 p.rings.toNat ++ leBytes 1 p.perms.toNat ++ rsvd 13
  | .ctxDestroy _ p => leBytes 1 p.ctx.toNat ++ rsvd 15
  | .cfgWrite _ p => leBytes 4 p.unitId.toNat ++ leBytes 2 p.item.toNat ++ rsvd 2 ++ leBytes 8 p.value.toNat
  | .mapOut _ p => leBytes 4 p.channel.toNat ++ leBytes 1 p.mode.toNat ++ rsvd 11
  | .remapEpoch _ p => leBytes 4 p.epoch.toNat ++ rsvd 12
  | .fwLoad _ p _ => leBytes 8 p.imageAddr.toNat ++ leBytes 4 p.bytes.toNat ++ leBytes 1 p.slot.toNat ++ rsvd 3
  | _ => []

/-- The 32-byte header of a packet (02 R44). -/
def hdrBytes (op len : Nat) (h : Hdr) : List Byte :=
  leBytes 2 op ++ leBytes 1 len ++ leBytes 1 (b2n h.waitReady + 2 * b2n h.fenceBefore + 4 * b2n h.noReply) ++
  leBytes 1 h.ctx.toNat ++ leBytes 1 h.ring.toNat ++ leBytes 1 h.prio.toNat ++ rsvd 1 ++ leBytes 4 h.seq.toNat ++
  leBytes 4 h.timeout.toNat ++ leBytes 8 h.doneAddr.toNat ++ leBytes 8 h.doneValue.toNat

/-- The whole packet of a packet row, 32 + 16 · LEN bytes (02 R44). -/
def packetBytes (i : Instr) : List Byte :=
  match opcodeOf i with
  | some op => hdrBytes op ((lenOf op).getD 0) (hdrOf i) ++ paramBytes i
  | none => []

/-- The header fields in 32 bytes (02 R44). -/
def readHdr (b : List Byte) : Hdr :=
  { ctx := BitVec.ofNat 8 (fld b 4 1), ring := BitVec.ofNat 8 (fld b 5 1), prio := BitVec.ofNat 8 (fld b 6 1)
    waitReady := bit (fld b 3 1) 0, fenceBefore := bit (fld b 3 1) 1, noReply := bit (fld b 3 1) 2
    seq := BitVec.ofNat 32 (fld b 8 4), timeout := BitVec.ofNat 32 (fld b 12 4)
    doneAddr := BitVec.ofNat 64 (fld b 16 8), doneValue := BitVec.ofNat 64 (fld b 24 8) }

/-- The command that a defined opcode and a parameter block b spell (02 R53-R56); the packet strikes no hardware fault
until its dispatch brings one. -/
def readParams (op : Nat) (h : Hdr) (b : List Byte) : Option Instr :=
  let n1 (o : Nat) : Byte := BitVec.ofNat 8 (fld b o 1)
  let n2 (o : Nat) : Word16 := BitVec.ofNat 16 (fld b o 2)
  let n4 (o : Nat) : Word32 := BitVec.ofNat 32 (fld b o 4)
  let n8 (o : Nat) : Word64 := BitVec.ofNat 64 (fld b o 8)
  match op with
  | 0x0000 => some (.nop h)
  | 0x0001 => some (.queryReady h ⟨n8 0, n4 8⟩)
  | 0x0002 => some (.queryStatus h ⟨n8 0, n4 8, n4 12⟩)
  | 0x0100 => some (.mmPartition h ⟨n4 0, n1 4⟩)
  | 0x0101 => some (.mmPass h ⟨n4 0, n1 4, n1 5, n1 6, n1 7, n8 8, n8 16, n4 24, n4 28, n4 32, n4 36, n1 40, n1 41, n2 42,
      n8 48⟩ {})
  | 0x0102 => some (.mmDrain h ⟨n4 0, n1 4, n1 5, n1 6, n1 7, n8 8, n4 16, n2 20⟩ {})
  | 0x0103 => some (.mmAbort h ⟨n4 0, n1 4⟩)
  | 0x0200 => some (.rtTopk h ⟨n8 0, n8 8, n8 16, n4 24, n2 28, n1 30, n1 31, n2 32, n4 36⟩ {})
  | 0x0201 => some (.rtCount h ⟨n8 0, n8 8, n4 16, n2 20, n1 22, n2 24, n2 26⟩ {})
  | 0x0202 => some (.rtDispatch h ⟨n8 0, n8 8, n4 16, n4 20, n1 24⟩ {})
  | 0x0203 => some (.rtReplay h ⟨n8 0, n8 8, n4 16, n4 20, n1 24, n1 25, n4 28⟩ {})
  | 0x0204 => some (.rtCancel h ⟨n4 0⟩)
  | 0x0300 => some (.cbCombine h ⟨n8 0, n8 8, n8 16, n8 24, n4 32, n4 36, n4 40, n1 44⟩ {})
  | 0x0301 => some (.cbReturnGrad h ⟨n8 0, n8 8, n8 16, n4 24, n1 28, n1 29⟩ {})
  | 0x0302 => some (.cbFactorFlush h ⟨n4 0, n2 4, n2 6⟩ {})
  | 0x0400 => some (.dmaRun h ⟨n4 0, readDesc (b.drop 16)⟩ {})
  | 0x0401 => some (.dmaChain h ⟨n4 0, n4 4, n8 8⟩ {})
  | 0x0500 => some (.sigSet h ⟨n8 0, n8 8⟩)
  | 0x0501 => some (.sigAdd h ⟨n8 0, n8 8⟩)
  | 0x0502 => some (.sigWait h ⟨n8 0, n8 8, n1 16⟩)
  | 0x0503 => some (.fenceWrites h ⟨n1 0⟩)
  | 0x0504 => some (.fenceAll h ⟨n1 0⟩)
  | 0x0600 => some (.loopBegin h ⟨n8 0, n4 8⟩)
  | 0x0601 => some (.loopEnd h)
  | 0x0602 => some (.skipIf h ⟨n8 0, n8 8, n1 16, n2 18⟩)
  | 0x0700 => some (.drvLaunch h ⟨n8 0, n8 8, n1 16, n1 17, n4 20⟩)
  | 0x0800 => some (.memAtomic h ⟨n8 0, n8 8, n8 16, n8 24, n1 32, n1 33⟩ {})
  | 0x0801 => some (.verPublish h ⟨n4 0, n4 4, n8 8, n8 16⟩)
  | 0x0802 => some (.verPin h ⟨n4 0, n4 4, n4 8⟩)
  | 0x0803 => some (.verRetire h ⟨n4 0, n4 4, n4 8⟩)
  | 0x0900 => some (.chainReduce h ⟨n8 0, n8 8, n8 16, n4 24, n4 28, n1 32, n1 33, n2 34, n2 36⟩ {})
  | 0x0A00 => some (.grpBarrier h ⟨n4 0, n2 4⟩)
  | 0x0A01 => some (.grpDirectoryUpdate h ⟨n8 0, n4 8⟩)
  | 0x0E00 => some (.selftestUnit h ⟨n4 0, n1 4⟩ {})
  | 0x0E01 => some (.calibrateChannel h ⟨n4 0⟩)
  | 0x0F00 => some (.ctxCreate h ⟨n8 0, n8 8, n8 16, n4 24, n2 28, n1 30, n1 31, n2 32, n1 34⟩)
  | 0x0F01 => some (.ctxDestroy h ⟨n1 0⟩)
  | 0x0F02 => some (.cfgWrite h ⟨n4 0, n2 4, n8 8⟩)
  | 0x0F03 => some (.mapOut h ⟨n4 0, n1 4⟩)
  | 0x0F04 => some (.remapEpoch h ⟨n4 0⟩)
  | 0x0F05 => some (.fwLoad h ⟨n8 0, n4 8, n1 12⟩ {})
  | 0x0F06 => some (.ledgerSeal h)
  | _ => none

/-- The command in the bytes of a packet: header and parameter block (02 R44, R53-R56). -/
def readPacket (b : List Byte) : Option Instr := readParams (fld b 0 2) (readHdr b) (b.drop 32)

/-! ## Reserved bits (02 R9, R45 check 6) -/

/-- The fields of an opcode's parameter block as (offset, size); every other byte is reserved. -/
def fieldsOf (op : Nat) : List (Nat × Nat) :=
  match op with
  | 0x0001 => [(0, 12)]
  | 0x0002 => [(0, 16)]
  | 0x0100 => [(0, 5)]
  | 0x0101 => [(0, 44), (48, 8)]
  | 0x0102 => [(0, 22)]
  | 0x0103 => [(0, 5)]
  | 0x0200 => [(0, 34), (36, 4)]
  | 0x0201 => [(0, 23), (24, 4)]
  | 0x0202 => [(0, 25)]
  | 0x0203 => [(0, 26), (28, 4)]
  | 0x0204 => [(0, 4)]
  | 0x0300 => [(0, 45)]
  | 0x0301 => [(0, 30)]
  | 0x0302 => [(0, 8)]
  | 0x0400 => [(0, 4), (16, 64)]
  | 0x0401 => [(0, 16)]
  | 0x0500 => [(0, 16)]
  | 0x0501 => [(0, 16)]
  | 0x0502 => [(0, 17)]
  | 0x0503 => [(0, 1)]
  | 0x0504 => [(0, 1)]
  | 0x0600 => [(0, 12)]
  | 0x0602 => [(0, 17), (18, 2)]
  | 0x0700 => [(0, 18), (20, 4)]
  | 0x0800 => [(0, 34)]
  | 0x0801 => [(0, 24)]
  | 0x0802 => [(0, 12)]
  | 0x0803 => [(0, 12)]
  | 0x0900 => [(0, 38)]
  | 0x0A00 => [(0, 6)]
  | 0x0A01 => [(0, 12)]
  | 0x0E00 => [(0, 5)]
  | 0x0E01 => [(0, 4)]
  | 0x0F00 => [(0, 35)]
  | 0x0F01 => [(0, 1)]
  | 0x0F02 => [(0, 6), (8, 8)]
  | 0x0F03 => [(0, 5)]
  | 0x0F04 => [(0, 4)]
  | 0x0F05 => [(0, 13)]
  | _ => []

/-- Bytes of an operand of MEM_ATOMIC TYPE (08 R238). -/
def atomicSize (ty : Nat) : Nat :=
  match ty with
  | 0 => 4
  | 1 => 2
  | 2 => 2
  | 3 => 4
  | _ => 8

/-- Reserved ranges inside listed fields that depend on other fields: UNIT_ID of QUERY_STATUS (02 R54), INDEX_ADDR and the
formats of a descriptor (09 R256, R257), OPERAND and COMPARE of MEM_ATOMIC (08 R238, R239). -/
def dynRsvd (op : Nat) (b : List Byte) : List (Nat × Nat) :=
  match op with
  | 0x0002 => if fld b 8 4 = 1 then [] else [(12, 4)]
  | 0x0400 =>
    let o := fld b 16 1
    (if 7 ≤ o && o ≤ 9 then [(17, 2)] else []) ++ (if 1 ≤ o && o ≤ 3 then [] else [(40, 8)])
  | 0x0800 =>
    let n := atomicSize (fld b 33 1)
    let o := fld b 32 1
    [(8 + n, 8 - n)] ++
      (if o = 0 || o = 3 then [(16, 8)] else if o = 1 || o = 2 then [(20, 4)] else [(16 + n, 8 - n)])
  | _ => []

/-- Reserved bits of one byte of a parameter block, as a mask (02 R54-R56; 09 R256). -/
def bitRsvd (op i : Nat) : Nat :=
  match op with
  | 0x0001 => if i = 9 then 0xE0 else if i = 10 || i = 11 then 0xFF else 0
  | 0x0101 => if i = 41 then 0xFE else 0
  | 0x0102 => if i = 7 then 0xF8 else 0
  | 0x0200 => if i = 39 then 0xFF else 0
  | 0x0201 => if i = 19 then 0xFF else if i = 22 then 0xFC else 0
  | 0x0202 => if i = 19 then 0xFF else 0
  | 0x0203 => if i = 19 then 0xFF else 0
  | 0x0204 => if i = 3 then 0xFF else 0
  | 0x0300 => if i = 35 then 0xFF else 0
  | 0x0301 => if i = 27 then 0xFF else 0
  | 0x0400 => if i = 19 then 0xF0 else if i = 21 then 0xF8 else 0
  | 0x0F00 => if i = 34 then 0xF0 else 0
  | _ => 0

/-- The reserved bits of byte i of a parameter block. -/
def rsvdMask (op : Nat) (b : List Byte) (i : Nat) : Nat :=
  let within (l : List (Nat × Nat)) : Bool := l.any (fun f => f.1 ≤ i && i < f.1 + f.2)
  if !within (fieldsOf op) || within (dynRsvd op b) then 0xFF else bitRsvd op i

/-- The first offset at which a byte has a reserved bit set; NOP parameters are padding (02 R45 check 6). -/
def firstRsvd (op : Nat) (b : List Byte) (i : Nat) : List Byte → Option Nat
  | [] => none
  | x :: xs => if x.toNat &&& rsvdMask op b i != 0 then some (0x20 + i) else firstRsvd op b (i + 1) xs

/-- Packet offset of the first byte of the parameter block that breaks check 6. -/
def paramRsvd (op : Nat) (b : List Byte) : Option Nat := if op = 0 then none else firstRsvd op b 0 b

/-- Packet offset of the first header byte that breaks check 6: FLAGS [7:3] and byte 7 (02 R44). -/
def hdrRsvd (b : List Byte) : Option Nat :=
  if bits (fld b 3 1) 3 5 != 0 then some 3 else if fld b 7 1 != 0 then some 7 else none

end Sys2Proof.Machine
end

