-- ==== Sys2Proof/Machine/Flags.lean ====
section
/-! DEFINITION. How a command ends: origins, statuses and verdicts, the reply, DONE_VALUE, the check record, and the sweep
that writes the replies of every command that has ended. -/

namespace Sys2Proof.Machine

/-! ## Statuses (02 R68) -/

def DONE : Nat := 0x00
def DONE_WITH_DROPS : Nat := 0x01
def DONE_CLAMPED : Nat := 0x02
def NOT_READY : Nat := 0x10
def BUSY_DEFER : Nat := 0x11
def SUPERSEDED : Nat := 0x12
def CANCELLED : Nat := 0x13
def BAD_OPCODE : Nat := 0x20
def BAD_LENGTH : Nat := 0x21
def OUT_OF_RANGE : Nat := 0x22
def NO_PERMISSION : Nat := 0x23
def BAD_VERSION : Nat := 0x24
def BAD_STATE : Nat := 0x25
def TIMEOUT : Nat := 0x30
def LINK_LOST : Nat := 0x31
def PEER_LOST : Nat := 0x32
def CHECK_FAILED : Nat := 0x40
def UNIT_FAULT : Nat := 0x41
def MEMORY_POISONED : Nat := 0x42
def INCOMPLETE : Nat := 0x43

/-- DONE with nothing checked. -/
def done (detail : Nat := 0) : End := { status := DONE, detail := detail }

/-- A status of 0x10 or above: verdict NONE (02 R69). -/
def fails (status : Nat) (detail : Nat := 0) : End := { status := status, detail := detail }

/-- CHECK_FAILED: verdict FAILED, decided by the failing unit's die (02 R50, R69). -/
def checkFailed (unit : Nat) (checks : Nat := 0) (record : List (Nat × Nat) := []) : End :=
  { status := CHECK_FAILED, detail := unit, verdict := 5, origin := some (hwOrigin (uDie unit)), checks := checks, record := record }

/-- UNIT_FAULT: decided by the failing unit's die (02 R50). -/
def unitFault (unit : Nat) : End :=
  { status := UNIT_FAULT, detail := unit, origin := some (hwOrigin (uDie unit)) }

/-- The end of a later command of an invalidated result: the status and DETAIL of the end that invalidated it (04 R116, R119). -/
def spoiledEnd (status detail unit : Nat) : End :=
  { status := status, detail := detail, verdict := if status = CHECK_FAILED then 5 else 0, inherited := true
    origin := if status = UNIT_FAULT || status = CHECK_FAILED then some (hwOrigin (uDie unit)) else none }

/-- DONE after n checks counted at a record offset, with a verdict (05 R122, R143). -/
def doneChecked (verdict n off : Nat) (detail : Nat := 0) : End :=
  { status := DONE, detail := detail, verdict := verdict, checks := n, record := [(off, n)] }

/-! ## Origins (02 R36) -/

/-- The position of the active master as origins carry it: 0xFFF while none is seen (02 R36). -/
def masterField (s : State) : Nat := s.grp.master.getD 0xFFF

/-- The origin ID of a ring (02 R36). -/
def ringOrigin (s : State) (ctx ring : Nat) : Nat :=
  if ctx = 0 then
    match ring with
    | 0 => 0x3000
    | 1 => 0x1000
    | 2 => 0x2000 + masterField s
    | 3 => 0x9000
    | r => 0x3000 + r
  else 0x4000 + ctx

/-- The key of a ring: 256 · context + ring. -/
def ringKey (h : Hdr) : Nat := 256 * h.ctx.toNat + h.ring.toNat

/-- A ring's table entry and control block (02 R37-R39). -/
def ringOf (s : State) (key : Nat) : Ring := amGet {} s.gz.rings key

/-- Whether a ring exists. -/
def ringExists (s : State) (key : Nat) : Bool := (amFind s.gz.rings key).isSome

/-- Change a ring. -/
def modRing (s : State) (key : Nat) (f : Ring → Ring) : State :=
  { s with gz := { s.gz with rings := amMod {} s.gz.rings key f } }

/-- The control core that serves a ring: instance 0 of its home die. -/
def ringCore (s : State) (key : Nat) : Nat := uid 4 (ringOf s key).home 0

/-! ## Replies (02 R43, R50, R51) -/

/-- The 32 bytes of a reply (02 R50). CHECKS, CORRECTIONS and REPLAYS saturate (05 R122). -/
def replyBytes (seq : Nat) (origin ticks : Nat) (e : End) : List Byte :=
  leBytes 4 seq ++ leBytes 1 e.status ++ leBytes 1 e.verdict ++ leBytes 2 (e.origin.getD origin) ++ leBytes 4 e.detail ++
  leBytes 4 (min 0xFFFFFFFF e.checks) ++ leBytes 2 (min 0xFFFF e.corrections) ++ leBytes 2 (min 0xFFFF e.replays) ++
  leBytes 4 e.drops ++ leBytes 8 ticks

/-- Bytes of the reply ring. -/
def replySize (r : Ring) : Nat := 2 ^ r.replyLog2

/-- Replies written and not yet consumed (02 R43). -/
def repliesHeld (r : Ring) : Nat := (r.replyTail + replySize r - r.replyHead) % replySize r / 32

/-- Whether a reply slot can be reserved: the ring holds 2^REPLY_LOG2/32 − 1 replies (02 R43). -/
def slotFree (r : Ring) : Bool := repliesHeld r + r.reserved + 1 < replySize r / 32

/-- Write a reply at REPLY_TAIL (02 R43). -/
def writeReply (s : State) (key : Nat) (bs : List Byte) : State :=
  let r := ringOf s key
  let w : Who := ⟨ringCore s key, ringOrigin s (key / 256) (key % 256), key / 256, 0, key⟩
  let s := storeNow s w (r.replyBase + r.replyTail) bs
  modRing s key (fun r => { r with replyTail := (r.replyTail + 32) % replySize r })

/-- Whether an address obeys the rule of signal words: 8-byte aligned in a stack window (10 R274). -/
def signalOk (s : State) (a : Nat) : Bool :=
  a % 8 = 0 && mapped s a 8 && (match regionOf a with | .side _ _ => true | _ => false)

/-- Whether DONE_VALUE may be written at an address (02 R51). -/
def doneOk (s : State) (c core a : Nat) : Bool := signalOk s a && (access s c core a 8 pWrite).isNone

/-- Store a signal word at its channel, if its block is not poisoned (10 R275, R277). -/
def sigStore (s : State) (w : Who) (a v : Nat) : State :=
  if (poisonIn s (a / 32 * 32) 32).isSome then s else storeNow s w a (leBytes 8 v)

/-- DONE_VALUE of a packet (02 R51). -/
def writeDone (s : State) (key job : Nat) (h : Hdr) : State :=
  let a := h.doneAddr.toNat
  if a = 0 || !doneOk s (key / 256) (ringCore s key) a then s
  else sigStore s ⟨ringCore s key, ringOrigin s (key / 256) (key % 256), key / 256, job, key⟩ a h.doneValue.toNat

/-! ## The check record (05 R145) -/

/-- Record offset of the count of commands with a verdict (05 R145). -/
def verdictOff (v : Nat) : Nat := 0x20 + 8 * v

/-- The counts that the end of a command adds to its context's record (02 R50, 05 R145). -/
def recordAdds (e : End) : List (Nat × Nat) :=
  ((0x08, e.checks) :: (0x10, e.corrections) :: (0x18, e.replays) ::
    (if e.verdict = 0 then e.record else (verdictOff e.verdict, 1) :: e.record)).filter (fun p => p.2 != 0)

/-- Add to a check record. -/
def addCounts : List (Nat × Nat) → CheckRec → CheckRec
  | [], r => r
  | (o, n) :: l, r => addCounts l { r with cnt := amMod 0 r.cnt o (· + n) }

/-- The check record after a command ends (05 R145). -/
def recordEnd (h : Hdr) (e : End) (r : CheckRec) : CheckRec :=
  let r' := addCounts (recordAdds e) r
  let r' := if e.verdict = 5 then
      { r' with failSeq := h.seq.toNat, failRing := h.ring.toNat, failStatus := e.status, failUnit := e.detail }
    else r'
  if r' = r then r else { r' with updates := r.updates + 1 }

/-- Add counts to a context's record outside the end of a command, such as ECC corrections (05 R142). -/
def record (s : State) (c : Nat) (l : List (Nat × Nat)) : State :=
  let l := l.filter (fun p => p.2 != 0)
  if l.isEmpty then s
  else modCtx s c (fun x => { x with chk := { addCounts l x.chk with updates := x.chk.updates + 1 } })

/-! ## Completion -/

/-- Points that the end of a command charges to the unit its DETAIL names (05 R135): none where it repeats an earlier end's. -/
def endPoints (e : End) : Nat := if (e.status = CHECK_FAILED || e.status = UNIT_FAULT) && !e.inherited then 16 else 0

/-- Whether an end writes a reply: every end but DONE under NO_REPLY, and those of 02 R59 (02 R51). -/
def replies (h : Hdr) (e : End) : Bool := !(e.silent || (h.noReply && e.status = DONE))

/-- End a dispatched command: its reply, then DONE_VALUE; its counts and points; its reply slot is released. -/
def finish (s : State) (j : Job) (e : End) : State :=
  let h := hdrOf j.cmd
  let s := if replies h e then writeReply s j.ring (replyBytes h.seq.toNat j.origin (s.now - j.t0) e) else s
  let s := modRing s j.ring (fun r => { r with reserved := r.reserved - 1 })
  let s := writeDone s j.ring j.id h
  let s := modCtx s (j.ring / 256) (fun c => { c with chk := recordEnd h e c.chk })
  charge e.detail (endPoints e) s

/-- The end of a port's self-test: DONE once the port is up again, UNIT_FAULT when its retrain or probation fails (14 R382,
12 R318). -/
def portTestEnd (s : State) (j : Job) : Option End :=
  match j.cmd with
  | .selftestUnit _ p _ =>
    let st := (portOf s p.unitId.toNat).state
    if st = 2 then some (done 0) else if st = 3 || st = 4 then none else some (unitFault p.unitId.toNat)
  | _ => none

/-- The test of a port is ledgered as it passes or fails (14 R382). -/
def portTestNote (j : Job) (e : End) (s : State) : State :=
  match j.cmd, j.phase with
  | .selftestUnit _ p _, .retrain =>
    let d := uDie p.unitId.toNat
    ledger d (kernelOrigin d) 6 p.unitId.toNat 3 0 0 0 (if e.status = DONE then 0 else 1) s
  | _, _ => s

/-- The end a job has come to, if it has: its own, or DONE for a fence whose covered commands have all ended (10 R284). -/
def ended (s : State) (j : Job) : Option End :=
  match j.phase with
  | .ending e => some e
  | .retrain => portTestEnd s j
  | .fence all covers =>
    if covers.any (fun id => s.gz.jobs.any (fun k => k.id == id)) || (all && j.unacked != 0) then none
    else some (done 0)
  | _ => none

/-- The first job of a list that has ended. -/
def firstEnded (s : State) : List Job → Option (Job × End)
  | [] => none
  | j :: js => match ended s j with
    | some e => some (j, e)
    | none => firstEnded s js

/-- What a fence covers becomes visible when it completes (10 R284): SCOPE 0 its ring, SCOPE 1 its context. -/
def fenceDone (s : State) (j : Job) : State :=
  match j.cmd with
  | .fenceWrites _ p => fenceUpTo s j.id (fun r => if p.scope = 0 then r == j.ring else r / 256 == j.ring / 256)
  | .fenceAll _ p => fenceUpTo s j.id (fun r => if p.scope = 0 then r == j.ring else r / 256 == j.ring / 256)
  | _ => s

/-- Take one ended command out and write its reply; the orders that share its end end with it (02 R65). -/
def settleOne (s : State) : Option State :=
  match firstEnded s s.gz.jobs with
  | none => none
  | some (j, e) =>
    let s := { s with gz := { s.gz with jobs := s.gz.jobs.filter (fun k => k.id != j.id) } }
    let s := { s with gz := { s.gz with jobs := s.gz.jobs.map (fun k =>
      if k.phase == .follow j.id then { k with phase := .ending e } else k) } }
    some (finish (portTestNote j e (if e.status = DONE then fenceDone s j else s)) j e)

/-- Write the reply of every command that has ended; each round takes one job out. -/
def settleN : Nat → State → State
  | 0, s => s
  | n + 1, s => match settleOne s with
    | none => s
    | some s' => settleN n s'

/-- The end of every command of the block: replies of what has ended, and a fresh index for free values. -/
def settle (s : State) : State :=
  let s := settleN s.gz.jobs.length s
  { s with free := s.free + 1 }

end Sys2Proof.Machine
end

