-- ==== Sys2Proof/Machine/Rings.lean ====
section
/-! DEFINITION. How a packet is met: the pre-parser's checks (02 R45), pass-overs (02 R59, R60), holding and dispatch
(02 R46-R48), and what every family's packets share on their way to their executing unit. -/

namespace Sys2Proof.Machine

/-- What the pre-parser and the dispatcher need to know of a packet. -/
structure Pre where
  /-- Check 8: packet offset of a field, and whether it is within range. -/
  fields : List (Nat × Bool) := []
  /-- Check 9: packet offset and named unit. -/
  units : List (Nat × Nat) := []
  /-- Check 10: packet offset, first byte, bytes and permissions needed. -/
  ranges : List (Nat × Nat × Nat × Nat) := []
  /-- Limits of the context's class (02 R61, R63) and grants: whether met, status and DETAIL. Those of status OUT_OF_RANGE are met with
  check 8, the others after check 10. -/
  limits : List (Bool × Nat × Nat) := []
  /-- The executing unit, and the partition on it (02 R46, R53). -/
  unit : Nat
  part : Nat := 0
  /-- Units that must be ready (02 R48). -/
  ready : List Nat := []

/-- Packets that hold their ring until they complete (02 R46). -/
def holds : Instr → Bool
  | .sigWait _ _ => true
  | .fenceWrites _ _ => true
  | .fenceAll _ _ => true
  | .loopBegin _ _ => true
  | .loopEnd _ => true
  | .skipIf _ _ => true
  | _ => false

/-- LOOP_BEGIN and LOOP_END, before which a skip stops (02 R60). -/
def isLoop : Instr → Bool
  | .loopBegin _ _ => true
  | .loopEnd _ => true
  | _ => false

/-- DEBUG_CFG (13 R351). -/
def debugCfg (s : State) : Nat := item s mdBlock 0x100

/-- Whether ring 3 of context 0 accepts packets (02 R36, 13 R351). -/
def debugRing (s : State) : Bool := bit (debugCfg s) 0 && bit (debugCfg s) 3

/-- Check 5 of 02 R45: whether the opcode is allowed to the context. -/
def opcodeAllowed (s : State) (c op : Nat) : Bool :=
  let p := (ctxOf s c).perms
  if op / 256 = 0x0F then c = 0
  else if op = 0x0A00 then bit p 1
  else if op = 0x0A01 then bit p 1 && bit p 3
  else if op / 256 = 0x0E then bit p 2
  else true

/-- The packet offset of the first field that breaks check 8, DONE_ADDR among them (02 R45, 10 R274). -/
def badField (s : State) (h : Hdr) (pre : Pre) : Option Nat :=
  let d := h.doneAddr.toNat
  if d != 0 && !signalOk s d then some 0x10 else (pre.fields.find? (fun f => !f.2)).map (·.1)

/-- The DETAIL of the first limit of the context's class that is a range of values (02 R61). -/
def overLimit (pre : Pre) : Option Nat := (pre.limits.find? (fun l => !l.1 && l.2.1 == OUT_OF_RANGE)).map (·.2.2)

/-- The first range that breaks check 10: status and packet offset (02 R45). -/
def badRange (s : State) (c u : Nat) : List (Nat × Nat × Nat × Nat) → Option (Nat × Nat)
  | [] => none
  | (off, a, n, need) :: rs => match access s c u a n need with
    | some st => some (st, off)
    | none => badRange s c u rs

/-- The checks 4 to 10 of the pre-parser on a packet of a ring, in order (02 R45, with the class limits of R61 and R63). `rsv`
is the offset of the first byte that breaks check 6. -/
def preparseAt (s : State) (key : Nat) (pre : Pre) (i : Instr) (rsv : Option Nat) : Option End :=
  let h := hdrOf i
  let op := (opcodeOf i).getD 0
  let c := key / 256
  let d := h.doneAddr.toNat
  if ringKey h != key then some (fails NO_PERMISSION (if h.ctx.toNat != c then 0x04 else 0x05))
  else if key = 3 && !debugRing s then some (fails NO_PERMISSION 0x05)
  else if !opcodeAllowed s c op then some (fails NO_PERMISSION 0x00)
  else match rsv with
    | some off => some (fails OUT_OF_RANGE off)
    | none =>
      if 15 < h.prio.toNat then some (fails OUT_OF_RANGE 0x06)
      else if (ringOf s key).prioMax < h.prio.toNat then some (fails NO_PERMISSION 0x06)
      else match (badField s h pre).orElse (fun _ => overLimit pre) with
        | some off => some (fails OUT_OF_RANGE off)
        | none => match pre.units.find? (fun u => !granted s c u.2) with
          | some u => some (fails NO_PERMISSION u.1)
          | none => match (if d = 0 then none else access s c (ringCore s key) d 8 pWrite) with
            | some st => some (fails st 0x10)
            | none => match badRange s c pre.unit pre.ranges with
              | some (st, off) => some (fails st off)
              | none => (pre.limits.find? (fun l => !l.1)).map (fun l => fails l.2.1 l.2.2)

/-- The checks 4 to 10 on a command, whose reserved bytes outside its fields are zero. -/
def preparse (s : State) (key : Nat) (pre : Pre) (i : Instr) : Option End :=
  preparseAt s key pre i (paramRsvd ((opcodeOf i).getD 0) (paramBytes i))

/-- The stack sides that a packet's ranges lie on (08 R224). -/
def sidesOf (pre : Pre) : List Nat :=
  (pre.ranges.map (fun r => match regionOf r.2.1 with | .side u _ => [u] | _ => [])).flatten

/-- The first unit that a packet needs and that is not ready (02 R48, 08 R224). -/
def notReady (s : State) (pre : Pre) : Option Nat := (pre.ready ++ sidesOf pre).find? (fun u => !unitReady s u)

/-- Jobs of a ring in flight. -/
def ringJobs (s : State) (key : Nat) : List Job := s.gz.jobs.filter (fun j => j.ring == key)

/-- Whether the ring's next packet must wait (02 R43, R46). -/
def blocked (s : State) (key : Nat) (i : Instr) : Bool :=
  let js := ringJobs s key
  js.any (fun j => holds j.cmd) ||
    (((hdrOf i).fenceBefore || (opcodeOf i).getD 0 / 256 == 0x0F) && !js.isEmpty) || !slotFree (ringOf s key)

/-- Keep a job in flight in a phase. -/
def park (s : State) (j : Job) (ph : Phase) : State :=
  { s with gz := { s.gz with jobs := s.gz.jobs ++ [{ j with phase := ph, since := s.now }] } }

/-- Whether an earlier command of a unit is parked, so that a later one waits behind it (02 R46, 08 R244). -/
def behindParked (s : State) (j : Job) : Bool :=
  s.gz.jobs.any (fun k => k.unit == j.unit && k.id < j.id && k.phase == .parked)

/-- What running a packet on its unit comes to: its end, or the phase it waits in. -/
abbrev RunRes := State × (End ⊕ Phase)

/-- A packet that ends at once. -/
def ends (s : State) (e : End) : RunRes := (s, .inl e)
/-- A packet that stays in flight. -/
def waits (s : State) (ph : Phase) : RunRes := (s, .inr ph)

/-- Take the outcome of a run. -/
def conclude (j : Job) (r : RunRes) : State :=
  match r.2 with
  | .inl e => finish r.1 j e
  | .inr ph => park r.1 j ph

/-- Run a dispatched job when its units are ready; otherwise NOT_READY, or wait under WAIT_READY (02 R48). -/
def start (pre : Pre) (run : Job → State → RunRes) (j : Job) (s : State) : State :=
  match notReady s pre with
  | some u => if (hdrOf j.cmd).waitReady then park s j .waitReady else finish s j (fails NOT_READY u)
  | none => conclude j (run j s)

/-- A new job for a packet of a ring, with its reply slot reserved (02 R43, R46). -/
def newJob (s : State) (key : Nat) (pre : Pre) (i : Instr) (off next : Nat) : Job :=
  { id := s.gz.nextJob, cmd := i, ring := key, origin := ringOrigin s (key / 256) (key % 256), unit := pre.unit,
    part := pre.part, off := off, next := next, t0 := s.now, phase := .waitReady }

/-- Dispatch a packet: reserve its reply slot, let FENCE_BEFORE make earlier writes of the ring visible, and start it
(02 R43, R46; 10 R284). -/
def dispatch (pre : Pre) (run : Job → State → RunRes) (i : Instr) (key off next : Nat) (s : State) : State :=
  let j := newJob s key pre i off next
  let s := { s with gz := { s.gz with nextJob := s.gz.nextJob + 1 } }
  let s := modRing s key (fun r => { r with reserved := r.reserved + 1 })
  let s := if (hdrOf i).fenceBefore then fenceUpTo s j.id (fun r => r == key) else s
  start pre run j s

/-- A CFG_WRITE or FW_LOAD that the pre-parser refuses by its own fields is ledgered (02 R415 orders 1 and 2; 13 R346). -/
def rejectNote (i : Instr) (key : Nat) (e : End) (s : State) : State :=
  let d := (ringOf s key).home
  let o := ringOrigin s (key / 256) (key % 256)
  if e.status != OUT_OF_RANGE then s
  else match i with
    | .cfgWrite _ p =>
      if e.detail = 0x20 || e.detail = 0x24 then
        ledgerEv d (mkEv o 1 p.unitId.toNat p.item.toNat (key / 256) 0 p.value.toNat 0 true) s
      else s
    | .fwLoad _ p _ =>
      if e.detail = 0x28 || e.detail = 0x2C then ledgerEv d (mkEv o 0xB p.slot.toNat 1 (key / 256) 0 e.status 0 true) s else s
    | _ => s

/-- The reply of a rejected packet, written whatever NO_REPLY holds; then its DONE_VALUE (02 R45, R51). -/
def reject (i : Instr) (key : Nat) (e : End) (s : State) : State :=
  let h := hdrOf i
  let s := writeReply s key (replyBytes h.seq.toNat (ringOrigin s (key / 256) (key % 256)) 0 e)
  let s := count s (ringCore s key) 0x18 1
  rejectNote i key e (writeDone s key s.gz.nextJob h)

/-- A packet waits in its ring. -/
def keepWaiting (i : Instr) (key off next : Nat) (parsed : Bool) (s : State) : State :=
  modRing s key (fun r => { r with waiting := r.waiting ++ [⟨i, off, next, parsed⟩] })

/-- Take a packet that the pre-parser has judged: rejected, dispatched when its ring may dispatch it now, or kept waiting in
ring order (02 R45, R46). -/
def accept (pre : Pre) (run : Job → State → RunRes) (i : Instr) (key off next : Nat) (bad : Option End) (s : State) : State :=
  let s := count s (ringCore s key) 0x10 1
  match bad with
  | some e => reject i key e s
  | none =>
    if (ringOf s key).waiting.isEmpty && !blocked s key i then dispatch pre run i key off next s
    else keepWaiting i key off next true s

/-- Whether a ring meets no packet now: an earlier one waits for its dispatch or holds the ring, or no reply slot is free
(02 R43, R46). A pass-over goes on. -/
def stalled (s : State) (key : Nat) : Bool :=
  let r := ringOf s key
  !r.waiting.isEmpty ||
    (r.passOver.isNone && ((ringJobs s key).any (fun j => holds j.cmd) || !slotFree r))

/-- Let a packet that is to be passed over pass (02 R59, R60): the new state, and whether the packet is still to be met. -/
def passStep (i : Instr) (key : Nat) (s : State) : State × Bool :=
  match (ringOf s key).passOver with
  | none => (s, true)
  | some (.skip left n job) =>
    if isLoop i then
      (endJob (modRing s key (fun r => { r with passOver := none })) job (fails BAD_STATE n), true)
    else if left ≤ 1 then
      (endJob (modRing s key (fun r => { r with passOver := none })) job (done (n + 1)), false)
    else (modRing s key (fun r => { r with passOver := some (.skip (left - 1) (n + 1) job) }), false)
  | some (.zeroTrip depth) =>
    match i with
    | .loopBegin _ _ => (modRing s key (fun r => { r with passOver := some (.zeroTrip (depth + 1)) }), false)
    | .loopEnd _ =>
      (modRing s key (fun r => { r with passOver := if depth = 0 then none else some (.zeroTrip (depth - 1)) }), false)
    | _ => (s, false)

/-- Whether a ring meets packets: it exists, and is neither stopped nor closed. -/
def ringOpen (s : State) (key : Nat) : Bool :=
  ringExists s key && (ringOf s key).state != .stopped && (ringOf s key).state != .closed

/-- A packet is the next one its ring meets: passed over, rejected, dispatched, or kept waiting in ring order. -/
def meet (pre : Pre) (run : Job → State → RunRes) (i : Instr) (key off next : Nat) (s : State) : State :=
  if stalled s key then keepWaiting i key off next false s
  else
    let passing := (ringOf s key).passOver.isSome
    let (s, met) := passStep i key s
    if !met then s
    else
      let s := if passing then settle s else s
      if stalled s key then keepWaiting i key off next false s
      else accept pre run i key off next (preparse s key pre i) s

/-- The origin ID of a unit that has a class of its own, else the ring's (13 R353). -/
def unitOrigin (u ring : Nat) : Nat :=
  match uKind u with
  | 3 => 0x5000 + 64 * uDie u + uInst u
  | 7 => 0x7000 + uDie u
  | 8 => 0x8000 + uDie u
  | 9 => 0x6000 + 16 * uDie u + uInst u
  | _ => ring

/-- Who a job is as it reads and writes. -/
def whoOf (j : Job) : Who := ⟨j.unit, unitOrigin j.unit j.origin, j.ring / 256, j.id, j.ring⟩

/-- The ring that a packet's header names meets it, as if it stood at the ring's fetch position. -/
def arrive (pre : Pre) (run : Job → State → RunRes) (i : Instr) (s : State) : State :=
  let key := ringKey (hdrOf i)
  if ringOpen s key then meet pre run i key (ringOf s key).fetch (ringOf s key).fetch s else s

/-- A packet command of the table. -/
def issue (pre : Pre) (run : Job → State → RunRes) (i : Instr) (s : State) : State := settle (arrive pre run i s)

/-! ## Choosing among rings (02 R47) -/

/-- How far round-robin must go from the ring served last. -/
def rrDist (last ring : Nat) : Nat := (ring + 65536 - last - 1) % 65536

/-- Whether the first of two waiting packets comes before the second: class, PRIO, round-robin (02 R47). -/
def before (last : Nat) (a b : Nat × Bool × Nat) : Bool :=
  if a.2.1 != b.2.1 then !a.2.1
  else if a.2.2 != b.2.2 then b.2.2 < a.2.2
  else rrDist last a.1 < rrDist last b.1

/-- The first among (ring, of a bubble tenant, PRIO) by 02 R47. -/
def chooseRing (last : Nat) : List (Nat × Bool × Nat) → Option (Nat × Bool × Nat)
  | [] => none
  | a :: as => match chooseRing last as with
    | none => some a
    | some b => if before last b a then some b else some a

/-- Whether a context is a bubble tenant (02 R61). -/
def isTenant (s : State) (c : Nat) : Bool := (ctxOf s c).cls = 1

/-- What 02 R47 looks at in a packet of a ring. -/
def rank47 (s : State) (key : Nat) (i : Instr) : Nat × Bool × Nat := (key, isTenant s (key / 256), (hdrOf i).prio.toNat)

/-- The ring a unit's partition served last (02 R47). -/
def lastServed (s : State) (u part : Nat) : Nat := amGet 65535 s.gz.served (256 * u + part)

/-- Note that a unit's partition has served a ring. -/
def serve (s : State) (u part key : Nat) : State :=
  { s with gz := { s.gz with served := amPut s.gz.served (256 * u + part) key } }

end Sys2Proof.Machine
end

