-- ==== Sys2Proof/Machine/Ports.lean ====
section
/-! DEFINITION. Ports and messages (12 R308-R321, R327, R334): which port carries a message, the bytes of messages and Pass
frames, credits and the order of sending, and messages between devices and dies. -/

namespace Sys2Proof.Machine

/-! ## Ports -/

/-- The unit ID of port p of connector k of LDn (12 R308). -/
def portUnit (ld inst : Nat) : Nat := uid 0xD (8 + ld) inst

/-- Every port of the module, in ascending unit ID. -/
def allPorts : List Nat := (List.range 4).flatMap (fun n => (List.range 16).map (portUnit n))

/-- The ports of a port's connector (12 R308). -/
def connectorPorts (u : Nat) : List Nat := (List.range 4).map (fun p => uid 0xD (uDie u) (uInst u / 4 * 4 + p))

/-- PORT_CFG MODE of a port (12 R309). -/
def portMode (s : State) (u : Nat) : Nat := bits (item s u 0x71) 0 2
/-- PORT_CFG ROLE of a port (12 R309). -/
def portRole (s : State) (u : Nat) : Nat := bits (item s u 0x71) 2 2

/-- Change a port. -/
def modPort (s : State) (u : Nat) (f : Port → Port) : State :=
  { s with link := { s.link with ports := amMod {} s.link.ports u f } }

/-- PEER_DEVICE of a port: 0xFFFF for a switch, an ingest port or none (12 R337). -/
def peerDevice (p : Port) : Nat :=
  match p.partner with
  | some m => if m.isSwitch then 0xFFFF else m.device.toNat
  | none => 0xFFFF

/-- Whether a device number is in this device's group (12 R325). -/
def inGroup (s : State) (device : Nat) : Bool := device / 16 = myGroup s

/-- Whether a port is up and carries Pass traffic. -/
def carries (s : State) (u : Nat) : Bool := (portOf s u).state = 2 && portMode s u = 0

/-- The up ports that lead to a device: its own connector's, or the uplinks for another group (12 R320, R334). -/
def portsTo (s : State) (device : Nat) : List Nat :=
  allPorts.filter (fun u => carries s u &&
    (if inGroup s device then portRole s u = 0 && peerDevice (portOf s u) = device else portRole s u = 1))

/-- The port that carries a message between two dies (12 R320). -/
def pickPort (s : State) (srcDie dstDie device : Nat) : Option Nat :=
  let ps := portsTo s device
  if ps.isEmpty then none else ps[(srcDie + dstDie + device) % ps.length]?

/-- Whether a message to a device has a way: to this device itself always. -/
def reachable (s : State) (device : Nat) : Bool := device = myDevice s || !(portsTo s device).isEmpty

/-- The device number of a group position (12 R325). -/
def deviceOf (s : State) (pos : Nat) : Nat := 16 * myGroup s + pos

/-! ## Messages as bytes -/

/-- KIND of an exchange message (07 R185). -/
def kindNo : MsgKind → Nat
  | .fwdRow => 0
  | .gradRow => 1
  | .fwdContrib => 2
  | .gradContrib => 3

/-- Whether an exchange message is a contribution. -/
def isContribution : MsgKind → Bool
  | .fwdRow => false
  | .gradRow => false
  | .fwdContrib => true
  | .gradContrib => true

/-- An exchange message: its 32-byte header and its row (07 R185). -/
def rowMsgBytes (m : RowMsg) : List Byte :=
  leBytes 4 (m.tag.toNat + 2 ^ 24 * kindNo m.kind + 2 ^ 26 * b2n m.lookup) ++
  leBytes 4 (m.srcPos.toNat + 2 ^ 4 * m.srcDie.val + 2 ^ 8 * m.claim.toNat) ++
  leBytes 4 (m.token.toNat + 2 ^ 16 * m.rank.toNat) ++ leBytes 4 (m.slot.toNat + 2 ^ 20 * m.layer.toNat) ++
  leBytes 4 m.expert.toNat ++ leBytes 4 m.version.toNat ++ leBytes 4 m.word6.toNat ++
  leBytes 4 (if isContribution m.kind then m.chkAbs.toNat else 0) ++
  (if m.lookup && m.kind == .fwdRow then [] else m.row)

/-- The 48 bytes of a directory entry (06 R178). -/
def dirEntryBytes (e : DirEntry) : List Byte :=
  leBytes 2 e.layer.toNat ++ leBytes 2 e.index.toNat ++ leBytes 1 e.type.toNat ++ leBytes 1 e.ownerPos.toNat ++
  leBytes 1 e.ownerDie.toNat ++ leBytes 1 e.rsvd.toNat ++ leBytes 4 e.capacity.toNat ++ leBytes 4 e.version.toNat ++
  leBytes 8 e.slotBase.toNat ++ leBytes 8 e.rowFirst.toNat ++ leBytes 8 e.arriveSig.toNat ++ leBytes 8 e.rowLimit.toNat

/-- A group message: its 32-byte header, and the entries that follow DIR_PREPARE (12 R327). -/
def groupMsgBytes (kind : Nat) (m : GroupMsg) (es : List DirEntry) : List Byte :=
  leBytes 1 kind ++ leBytes 1 m.srcPos.toNat ++ leBytes 2 m.group.toNat ++ leBytes 4 m.term.toNat ++
  leBytes 4 m.dirEpoch.toNat ++ leBytes 4 m.remapEpoch.toNat ++ leBytes 4 m.arg0.toNat ++ leBytes 4 m.arg1.toNat ++
  leBytes 8 m.arg2.toNat ++ es.flatMap dirEntryBytes

/-! ## Pass frames (12 R310, R311) -/

/-- One bit into the CRC of 12 R311, most significant bit first. -/
def crcBit (c : Nat) (b : Bool) : Nat :=
  if bit c 63 != b then (2 * c % 2 ^ 64) ^^^ 0x42F0E1EBA9EA3693 else 2 * c % 2 ^ 64

/-- One byte into the CRC. -/
def crcByte (c : Nat) (b : Byte) : Nat := (List.range 8).foldl (fun c i => crcBit c (bit b.toNat (7 - i))) c

/-- CRC-64 of 12 R311 over bytes. -/
def crc64 (bs : List Byte) : Nat := 2 ^ 64 - 1 - bs.foldl crcByte (2 ^ 64 - 1)

/-- HDR0 of a frame (12 R310). -/
def hdr0 (fseq vc type : Nat) (som eom : Bool) (len : Nat) : Nat :=
  fseq + 2 ^ 16 * vc + 2 ^ 18 * type + 2 ^ 20 * b2n som + 2 ^ 21 * b2n eom + 2 ^ 22 * len

/-- HDR1: the port's current verdict (12 R310, R315, R316). -/
def hdr1 (p : Port) : Nat := (p.fseqRx + 65535) % 65536 + 2 ^ 16 * b2n p.nak + 2 ^ 17 * b2n p.accepted

/-- CREDITS: frames of each VC freed at this end, modulo 256 (12 R310, R314). -/
def creditWord (p : Port) : Nat := leNat (p.freed.map (fun n => BitVec.ofNat 8 n))

/-- The 256 bytes of a frame that a port sends (12 R310). -/
def frameBytes (p : Port) (fseq vc type : Nat) (som eom : Bool) (route : Nat) (payload : List Byte) : List Byte :=
  let body := leBytes 4 (hdr0 fseq vc type som eom payload.length) ++ leBytes 4 (hdr1 p) ++ leBytes 4 (creditWord p) ++
    leBytes 4 route ++ sub payload 0 232
  body ++ leBytes 8 (crc64 body)

/-- Put a frame on a port's lanes. -/
def emit (u : Nat) (bs : List Byte) (s : State) : State := { s with net := s.net ++ [.frame u bs] }

/-- An idle frame, which carries the port's verdict and credits (12 R310, R312, R315). -/
def sendIdle (u : Nat) (s : State) : State :=
  let p := portOf s u
  emit u (frameBytes p p.fseqTx 0 1 false false 0 []) s

/-- Frames that a message of n bytes occupies (12 R310). -/
def frameCount (n : Nat) : Nat := max 1 (ceilDiv n 232)

/-- Send the bytes of one data frame of a message. -/
def emitData (u : Nat) (t : TxFrame) (s : State) : State :=
  let p := portOf s u
  match p.msgs.find? (fun m => m.id == t.msg) with
  | none => s
  | some m => emit u (frameBytes p t.fseq m.vc 0 (t.idx == 0) (t.idx + 1 == frameCount m.bytes.length) m.route
      ((m.bytes.drop (232 * t.idx)).take 232)) s

/-- VC of a message in hand. -/
def vcOf (p : Port) (msg : Nat) : Nat := match p.msgs.find? (fun m => m.id == msg) with | some m => m.vc | none => 0

/-- The oldest frame of a VC that waits and holds a credit (12 R314). -/
def sendable (p : Port) (vc : Nat) : Option (Nat × Nat) :=
  if p.credits.getD vc 0 = 0 then none else p.queue.find? (fun f => vcOf p f.1 == vc)

/-- The VC that sends next: sync, then control, at most one slot in eight while exchange or bulk wait, which share three to one
(12 R313). -/
def nextVc (p : Port) : Option Nat :=
  let has (vc : Nat) : Bool := (sendable p vc).isSome
  let hi := if has 3 then some 3 else if has 0 then some 0 else none
  let lo := if has 1 && (!has 2 || p.exchRun < 3) then some 1 else if has 2 then some 2 else none
  match hi, lo with
  | some h, none => some h
  | some h, some l => if 7 ≤ p.slowRun then some h else some l
  | none, l => l

/-- Add to the entry of one VC. -/
def vcAdd (l : List Nat) (vc n : Nat) : List Nat := l.set vc (l.getD vc 0 + n)

/-- Send data frames while the port is up, its replay window has room and a frame has a credit (12 R313, R314, R316). -/
def pumpPort (u : Nat) : Nat → State → State
  | 0, s => s
  | n + 1, s =>
    let p := portOf s u
    if !carries s u || 1024 ≤ p.unacked.length then s
    else match nextVc p with
      | none => s
      | some vc => match sendable p vc with
        | none => s
        | some f =>
          let t : TxFrame := ⟨p.fseqTx, f.1, f.2, 1⟩
          let s := modPort s u (fun p => { p with
            fseqTx := (p.fseqTx + 1) % 65536, queue := p.queue.erase f, unacked := p.unacked ++ [t]
            credits := p.credits.set vc (p.credits.getD vc 0 - 1)
            slowRun := if vc = 0 || vc = 3 then 0 else min 7 (p.slowRun + 1)
            exchRun := if vc = 1 then p.exchRun + 1 else if vc = 2 then 0 else p.exchRun })
          pumpPort u n (event (count (emitData u t s) u 0x10 1) u 0xD001 0 1)

/-- Let a port send what it can. -/
def pumpPortAll (u : Nat) (s : State) : State := pumpPort u (portOf s u).queue.length s

/-- Give a message to a port (12 R310). -/
def enqueue (u vc route : Nat) (bs : List Byte) (m : NetMsg) (s : State) : State :=
  let id := s.link.nextMsg
  let s := { s with link := { s.link with nextMsg := id + 1 } }
  let s := arrival s u 0xD080 0
  pumpPortAll u (modPort s u (fun p => { p with
    msgs := p.msgs ++ [⟨id, vc, route, bs, m⟩]
    queue := p.queue ++ (List.range (frameCount bs.length)).map (fun i => (id, i)) }))

/-! ## Sending and receiving -/

/-- The exchange engine that carries a die's messages on a port's connector (12 R320). -/
def exchangeEngine (u srcDie : Nat) : Nat := uid 0xC (uDie u) (2 * (uInst u / 4) + srcDie % 2)

/-- MESSAGES of the exchange engine that sends a row over a port (14 R386). -/
def countRow (u src : Nat) (m : NetMsg) (s : State) : State :=
  match m with
  | .row _ _ _ => count s (exchangeEngine u src) 0x18 1
  | _ => s

/-- Where a message goes and comes from: device, destination die, source die. Acknowledgements of signal operations and frames
go over the port they name. -/
def destOf (s : State) : NetMsg → Option (Nat × Nat × Nat)
  | .count m pos die => some (deviceOf s pos, die, m.srcDie.val)
  | .quota m pos die => some (deviceOf s pos, die, m.ownerDie.val)
  | .row m pos die => some (deviceOf s pos, die, if isContribution m.kind then m.fromDie.val else m.srcDie.val)
  | .confirm _ pos die => some (deviceOf s pos, die, die)
  | .cancel m pos die => some (deviceOf s pos, die, m.srcDie.val)
  | .cancelAck m pos die => some (deviceOf s pos, die, m.ownerDie.val)
  | .chain _ dev die => some (dev, die, die)
  | .chainResend _ _ dev die => some (dev, die, die)
  | .chainAbort _ _ dev die => some (dev, die, die)
  | .sigAck _ _ _ => none
  | .group _ _ pos _ => some (deviceOf s pos, 0, 0)
  | .frame _ _ => none

/-- The VC and bytes of the messages whose layout the spec gives: exchange messages (07 R185) and group messages (12 R327). The
others are carried whole, without frames (DEDUCED, log entry 50). -/
def layoutOf : NetMsg → Option (Nat × List Byte)
  | .row m _ _ => some (1, rowMsgBytes m)
  | .group kind m _ es => some (0, groupMsgBytes kind m es)
  | _ => none

/-- ROUTE of a message's frames (12 R310). -/
def routeWord (s : State) (dev die src : Nat) : Nat := dev + 2 ^ 13 * die + 2 ^ 16 * myDevice s + 2 ^ 29 * src

/-- Put a message on its way to another device or die; one that has no port to carry it is lost (12 R320, R321). -/
def send (s : State) (m : NetMsg) : State :=
  let s' := { s with net := s.net ++ [m] }
  match destOf s m with
  | none => s'
  | some (dev, die, src) =>
    if dev = myDevice s then s'
    else match pickPort s src die dev with
      | none => s
      | some u => match layoutOf m with
        | some (vc, bs) => enqueue u vc (routeWord s dev die src) bs m (countRow u src m s')
        | none => s'

/-- Take a message that was sent off its way, if it was sent by this device. -/
def receive (s : State) (m : NetMsg) : State := { s with net := s.net.erase m }

end Sys2Proof.Machine
end

