-- ==== Sys2Proof/Machine/Control.lean ====
section
/-! DEFINITION. Control-core commands and ring control blocks: NOP, signals, fences, loops and skips (02 R38-R43, R53,
R59, R60; 10 R274-R284), and the signal operations of other agents. -/

namespace Sys2Proof.Machine

/-- A packet of the control core with its checks (02 R46: a packet that names no unit executes on the home die). -/
def preCore (h : Hdr) (s : State) : Pre := { unit := ringCore s (ringKey h) }

/-- NOP (02 R53): padding; replies DONE. -/
def runNop (_j : Job) (s : State) : RunRes := ends s (done 0)

/-- NOP (02 R53). -/
def execNop (h : Hdr) (s : State) : Host.Outcome State Fault Refusal := .next (issue (preCore h s) runNop (.nop h) s)

/-! ## Signal words -/

/-- Whether a request to a channel parks because the channel is retraining (08 R244). -/
def training (s : State) (a : Nat) : Bool :=
  match regionOf a with
  | .side _ _ => (chan s (chanOf s a)).training
  | _ => false

/-- Checks of SIG_SET, SIG_ADD: ADDR obeys R274 and is writable (10 R274). -/
def preSig (h : Hdr) (p : PSig) (s : State) : Pre :=
  { preCore h s with
    fields := [(0x20, signalOk s p.addr.toNat)]
    ranges := [(0x20, p.addr.toNat, 8, pWrite)] }

/-- One signal operation at the word's channel (10 R275, R277): poisoned blocks are not changed, and it parks behind a
retrain. -/
def runSignal (f : Nat → Nat) (a : Nat) (j : Job) (s : State) : RunRes :=
  match poisonIn s (a / 32 * 32) 32 with
  | some ch => ends s (fails MEMORY_POISONED ch)
  | none =>
    if training s a then waits s .parked
    else
      let v := f (word s a) % 2 ^ 64
      ends (storeNow s (whoOf j) a (leBytes 8 v)) (done (v % 2 ^ 32))

/-- SIG_SET stores VALUE (10 R275). -/
def runSigSet (p : PSig) : Job → State → RunRes := runSignal (fun _ => p.value.toNat) p.addr.toNat
/-- SIG_ADD adds VALUE, wrapping modulo 2^64 (10 R275). -/
def runSigAdd (p : PSig) : Job → State → RunRes := runSignal (fun old => old + p.value.toNat) p.addr.toNat

/-- SIG_SET (02 R53). -/
def execSigSet (h : Hdr) (p : PSig) (s : State) : Host.Outcome State Fault Refusal :=
  .next (issue (preSig h p s) (runSigSet p) (.sigSet h p) s)
/-- SIG_ADD (02 R53). -/
def execSigAdd (h : Hdr) (p : PSig) (s : State) : Host.Outcome State Fault Refusal :=
  .next (issue (preSig h p s) (runSigAdd p) (.sigAdd h p) s)

/-! ## Waiting (10 R278-R283) -/

/-- Whether an entry's word has attached waiters. -/
def hasWaiters (s : State) (a : Nat) : Bool := s.sig.waiters.any (fun w => w.addr == a && !w.polling)

/-- The position of the entry without waiters that was written longest ago (10 R281). -/
def oldestFree (s : State) : List SigEntry → Nat → Option (Nat × Nat) → Option (Nat × Nat)
  | [], _, best => best
  | e :: es, i, best =>
    if hasWaiters s e.addr then oldestFree s es (i + 1) best
    else match best with
      | some (_, st) => oldestFree s es (i + 1) (if e.stamp < st then some (i, e.stamp) else best)
      | none => oldestFree s es (i + 1) (some (i, e.stamp))

/-- Track a word on its die, taking a free entry or reclaiming one; none when every entry has waiters (10 R281). -/
def trackWord (s : State) (a : Nat) : Option State :=
  let d := a / 2 ^ 36 / 8
  let es := amGet [] s.sig.table d
  let new : SigEntry := ⟨a, word s a, 0, 0, false, 0, s.now⟩
  let set (l : List SigEntry) : State := { s with sig := { s.sig with table := amPut s.sig.table d l } }
  if es.any (fun e => e.addr == a) then some s
  else if es.length < 16384 then some (set (es ++ [new]))
  else match oldestFree s es 0 none with
    | some (i, _) => some (set (es.set i new))
    | none => none

/-- Attach a waiter, or hold it as a polling waiter when the die's table is full (10 R278, R281). -/
def attach (s : State) (w : Waiter) : State × Bool :=
  match trackWord s w.addr with
  | some s' => ({ s' with sig := { s'.sig with waiters := s'.sig.waiters ++ [{ w with polling := false }] } }, false)
  | none =>
    let s := event s (uid 0 (w.addr / 2 ^ 36 / 8) 0) 0x0002 0 1
    ({ s with sig := { s.sig with waiters := s.sig.waiters ++ [{ w with polling := true }] } }, true)

/-- Checks of SIG_WAIT (02 R56; 10 R274). -/
def preSigWait (h : Hdr) (p : PSigWait) (s : State) : Pre :=
  { preCore h s with
    fields := [(0x20, signalOk s p.addr.toNat), (0x30, p.cond.toNat < 4)]
    ranges := [(0x20, p.addr.toNat, 8, pRead)] }

/-- SIG_WAIT reads and tests the word in one operation, and completes or attaches a waiter (10 R278). -/
def runSigWait (p : PSigWait) (j : Job) (s : State) : RunRes :=
  let a := p.addr.toNat
  match poisonIn s (a / 32 * 32) 32 with
  | some ch => ends s (fails MEMORY_POISONED ch)
  | none =>
    if training s a then waits s .parked
    else
      let v := word s a
      if condHolds p.cond.toNat v p.value.toNat then ends s (done (v % 2 ^ 32))
      else
        let (s, poll) := attach s ⟨.job j.id, a, p.value.toNat, p.cond.toNat, false, j.unit, j.ring⟩
        waits s (.waitSignal poll)

/-- SIG_WAIT (02 R53). -/
def execSigWait (h : Hdr) (p : PSigWait) (s : State) : Host.Outcome State Fault Refusal :=
  .next (issue (preSigWait h p s) (runSigWait p) (.sigWait h p) s)

/-- Detach every waiter of a job. -/
def detach (s : State) (id : Nat) : State :=
  { s with sig := { s.sig with waiters := s.sig.waiters.filter (fun w => w.who != .job id) } }

/-- The waiter that polls. -/
def pollId : PollWho → WaiterId
  | .job id => .job id
  | .drover die n => .drover (64 * die.val + n.toNat)

/-- POLLING_WAITER_POLL: the waiter re-reads its word in class 0 (10 R281). -/
def execPollingWaiterPoll (who : PollWho) (s : State) : Host.Outcome State Fault Refusal :=
  match s.sig.waiters.find? (fun w => w.polling && w.who == pollId who) with
  | none => .next (settle s)
  | some w =>
    if (poisonIn s (w.addr / 32 * 32) 32).isSome then .next (settle (poisonWaiters s (w.addr / 32)))
    else
      let v := word s w.addr
      .next (settle (if condHolds w.cond v w.value then meetWaiter s w v else s))

/-! ## Fences (10 R284) -/

/-- Checks of the fences: SCOPE is 0 or 1 (02 R56). -/
def preFence (h : Hdr) (p : PFence) (s : State) : Pre := { preCore h s with fields := [(0x20, p.scope.toNat < 2)] }

/-- The commands a fence covers that have not ended: its ring's, or its context's on any ring (10 R284). -/
def fenceCovers (p : PFence) (j : Job) (s : State) : List Job :=
  s.gz.jobs.filter (fun k => if p.scope = 0 then k.ring == j.ring else k.ring / 256 == j.ring / 256)

/-- A fence completes when what it covers has ended; its writes are then visible (10 R284). A FENCE_ALL also waits for the
acknowledgements of signal operations that those packets sent to other devices. -/
def runFence (all : Bool) (p : PFence) (j : Job) (s : State) : RunRes :=
  let ks := fenceCovers p j s
  let un := if all then (ks.map (·.unacked)).foldl (· + ·) 0 else 0
  if ks.isEmpty && un = 0 then ends (fenceDone s j) (done 0)
  else waits s (.fence all (ks.map (·.id)))

/-- FENCE_WRITES (02 R53). -/
def execFenceWrites (h : Hdr) (p : PFence) (s : State) : Host.Outcome State Fault Refusal :=
  .next (issue (preFence h p s) (runFence false p) (.fenceWrites h p) s)
/-- FENCE_ALL (02 R53). -/
def execFenceAll (h : Hdr) (p : PFence) (s : State) : Host.Outcome State Fault Refusal :=
  .next (issue (preFence h p s) (runFence true p) (.fenceAll h p) s)

/-- SIGNAL_ACKNOWLEDGEMENT: the peer has answered one signal operation of a command (10 R284, 12 R319). -/
def execSignalAcknowledgement (job : Nat) (_refused : Bool) (s : State) : Host.Outcome State Fault Refusal :=
  let s := modJob s job (fun j => { j with unacked := j.unacked - 1 })
  let s := { s with gz := { s.gz with jobs := s.gz.jobs.map (fun k => match k.phase with
    | .fence true _ => { k with unacked := k.unacked - 1 }
    | _ => k) } }
  .next (settle s)

/-! ## Loops and skips (02 R59, R60) -/

/-- Checks of LOOP_BEGIN (02 R56; 10 R274). -/
def preLoopBegin (h : Hdr) (p : PLoopBegin) (s : State) : Pre :=
  { preCore h s with
    fields := [(0x20, signalOk s p.countAddr.toNat), (0x28, 1 ≤ p.maxTrip.toNat && p.maxTrip.toNat ≤ 16777216)]
    ranges := [(0x20, p.countAddr.toNat, 8, pRead)] }

/-- LOOP_BEGIN reads the count once; a fifth open loop ends BAD_STATE; no trip passes the body over (02 R59). -/
def runLoopBegin (p : PLoopBegin) (j : Job) (s : State) : RunRes :=
  let a := p.countAddr.toNat
  match poisonIn s (a / 32 * 32) 32 with
  | some ch => ends s (fails MEMORY_POISONED ch)
  | none =>
    if training s a then waits s .parked
    else if 4 ≤ (ringOf s j.ring).loops.length then ends s (fails BAD_STATE 0)
    else
      let v := word s a
      let n := min v p.maxTrip.toNat
      let s := if n = 0 then modRing s j.ring (fun r => { r with passOver := some (.zeroTrip 0) })
        else modRing s j.ring (fun r => { r with loops := ⟨j.off, j.next, 0, n, decide (p.maxTrip.toNat < v)⟩ :: r.loops })
      ends s (done (min v 0xFFFFFFFF))

/-- LOOP_BEGIN (02 R53). -/
def execLoopBegin (h : Hdr) (p : PLoopBegin) (s : State) : Host.Outcome State Fault Refusal :=
  .next (issue (preLoopBegin h p s) (runLoopBegin p) (.loopBegin h p) s)

/-- LOOP_END: another trip from the body's first packet, or the loop closes (02 R59). -/
def runLoopEnd (j : Job) (s : State) : RunRes :=
  match (ringOf s j.ring).loops with
  | [] => ends s (fails BAD_STATE 0)
  | l :: ls =>
    if l.trip + 1 < l.trips then
      (modRing s j.ring (fun r => { r with loops := { l with trip := l.trip + 1 } :: ls, fetch := l.bodyOff }),
        .inl { done 0 with silent := true })
    else
      ends (modRing s j.ring (fun r => { r with loops := ls }))
        (if l.clamped then { status := DONE_CLAMPED, detail := l.trips } else done 0)

/-- LOOP_END (02 R53). -/
def execLoopEnd (h : Hdr) (s : State) : Host.Outcome State Fault Refusal :=
  .next (issue (preCore h s) runLoopEnd (.loopEnd h) s)

/-- Checks of SKIP_IF (02 R56; 10 R274). -/
def preSkipIf (h : Hdr) (p : PSkipIf) (s : State) : Pre :=
  { preCore h s with
    fields := [(0x20, signalOk s p.addr.toNat), (0x30, p.cond.toNat < 4),
      (0x32, 1 ≤ p.skip.toNat && p.skip.toNat ≤ 1024)]
    ranges := [(0x20, p.addr.toNat, 8, pRead)] }

/-- SKIP_IF compares once; when true the next SKIP packets pass over before it replies (02 R60). -/
def runSkipIf (p : PSkipIf) (j : Job) (s : State) : RunRes :=
  let a := p.addr.toNat
  match poisonIn s (a / 32 * 32) 32 with
  | some ch => ends s (fails MEMORY_POISONED ch)
  | none =>
    if training s a then waits s .parked
    else if condHolds p.cond.toNat (word s a) p.value.toNat then
      waits (modRing s j.ring (fun r => { r with passOver := some (.skip p.skip.toNat 0 j.id) })) .passing
    else ends s (done 0)

/-- SKIP_IF (02 R53). -/
def execSkipIf (h : Hdr) (p : PSkipIf) (s : State) : Host.Outcome State Fault Refusal :=
  .next (issue (preSkipIf h p s) (runSkipIf p) (.skipIf h p) s)

/-! ## Ring control blocks (02 R38-R43) -/

/-- Whether an agent may write a ring's control block (02 R38). -/
def mayWrite (r : Ring) (ctx : Nat) : Agent → Bool
  | .ofCtx c => c.toNat = ctx
  | .peer => r.remote
  | .other => false

/-- Count an ignored control-block write; BAD_DB saturates at 63 (02 R38, R39). -/
def badWrite (s : State) (key : Nat) : State := modRing s key (fun r => { r with badDb := min 63 (r.badDb + 1) })

/-- Bytes of the command ring. -/
def ringSize (r : Ring) : Nat := 2 ^ r.cmdLog2

/-- CMD_HEAD, the offset of the oldest packet the ring still needs: the outermost open loop's LOOP_BEGIN, or one that waits to
open, else the fetch position (02 R39, R59). -/
def headOf (r : Ring) : Nat :=
  match r.loops.getLast? with
  | some l => l.beginOff
  | none => match r.waiting.find? (fun p => isLoop p.cmd) with
    | some p => p.off
    | none => r.fetch

/-- Whether a new TAIL advances by no more than the free space, 16 bytes staying empty (02 R40). -/
def tailOk (r : Ring) (t : Nat) : Bool :=
  t % 16 = 0 && t < ringSize r &&
    (t + ringSize r - r.tail) % ringSize r + 16 ≤ ringSize r - (r.tail + ringSize r - headOf r) % ringSize r

/-- A control-block write reaches an open ring: by an agent that may make it, and not closed (02 R38, R42). -/
def guardWrite (a : Agent) (ctx : Nat) (key : Nat) (f : Ring → Option Ring) (s : State) : State :=
  let r := ringOf s key
  if !ringExists s key || r.state == .closed then s
  else if !mayWrite r ctx a then badWrite s key
  else match f r with
    | some r' => modRing s key (fun _ => r')
    | none => badWrite s key

/-- The doorbell (02 R40): a ring that is idle runs. -/
def doorbell (t : Nat) (r : Ring) : Option Ring :=
  if tailOk r t then
    some { r with tail := t, state := if r.state == .idle && t != r.fetch then .running else r.state }
  else none

/-- CMD_TAIL with RESTART = 0 (02 R40). -/
def execCmdTail (a : Agent) (ctx ring : Byte) (tail : BitVec 24) (s : State) : Host.Outcome State Fault Refusal :=
  .next (settle (guardWrite a ctx.toNat (256 * ctx.toNat + ring.toNat) (doorbell tail.toNat) s))

/-- Whether a ring is idle: it runs nothing and has nothing left to fetch (02 R39). -/
def ringIdle (s : State) (key : Nat) : Bool :=
  let r := ringOf s key
  r.state == .idle || (r.state == .running && r.fetch = r.tail && r.waiting.isEmpty && r.loops.isEmpty && (ringJobs s key).isEmpty)

/-- RESTART (02 R42): accepted while idle or stopped; HEAD and TAIL take TAIL, BAD_DB clears, loops close. -/
def restart (idle : Bool) (t : Nat) (r : Ring) : Option Ring :=
  if (idle || r.state == .stopped) && t % 16 = 0 && t < ringSize r then
    some { r with tail := t, fetch := t, badDb := 0, state := .idle, loops := [], passOver := none }
  else none

/-- CMD_TAIL with RESTART = 1 (02 R42). -/
def execRingRestart (a : Agent) (ctx ring : Byte) (tail : BitVec 24) (s : State) : Host.Outcome State Fault Refusal :=
  let key := 256 * ctx.toNat + ring.toNat
  .next (settle (guardWrite a ctx.toNat key (restart (ringIdle s key) tail.toNat) s))

/-- The consumer's position (02 R43): a multiple of 32 that does not advance past REPLY_TAIL. -/
def consume (t : Nat) (r : Ring) : Option Ring :=
  let n := replySize r
  if t % 32 = 0 && t < n && (t + n - r.replyHead) % n ≤ (r.replyTail + n - r.replyHead) % n then
    some { r with replyHead := t }
  else none

/-- REPLY_HEAD (02 R43). -/
def execReplyHead (a : Agent) (ctx ring : Byte) (head : BitVec 24) (s : State) : Host.Outcome State Fault Refusal :=
  .next (settle (guardWrite a ctx.toNat (256 * ctx.toNat + ring.toNat) (consume head.toNat) s))

/-- A write of one control-block word (02 R38, R39): CMD_HEAD and RING_STATE are read-only and count in BAD_DB; the other
words act as their own writes do. -/
def execControlBlockWrite (a : Agent) (ctx ring : Byte) (w : Fin 4) (value : Word32) (s : State) :
    Host.Outcome State Fault Refusal :=
  let key := 256 * ctx.toNat + ring.toNat
  let v := bits value.toNat 0 24
  .next (settle (guardWrite a ctx.toNat key
    (match w with
      | 0 => if bit value.toNat 31 then restart (ringIdle s key) v else doorbell v
      | 2 => consume v
      | _ => fun _ => none) s))

/-! ## Signal operations of other agents (10 R275-R277) -/

/-- Apply a signal operation at the word's channel (10 R275, R277). -/
def applySignal (s : State) (w : Who) (a : Nat) (op : SigOp) : State :=
  let v := match op with
    | .store v => v.toNat
    | .add v => (word s a + v.toNat) % 2 ^ 64
  sigStore s w a v

/-- SIGNAL_OPERATION: an agent of context c signals a word that c reaches with WRITE (10 R275, R276). One that fails its
check is not made. -/
def execSignalOperation (w : SigBy) (addr : Word64) (op : SigOp) (s : State) : Host.Outcome State Fault Refusal :=
  let a := addr.toNat
  let c := w.ctx.toNat
  .next (settle (
    if signalOk s a && (access s c w.unit.toNat a 8 pWrite).isNone then
      applySignal s ⟨w.unit.toNat, w.origin.toNat, c, s.gz.nextJob, 256 * c⟩ a op
    else s))

/-- PEER_SIGNAL_OPERATION: checked against the context of the same number for the pass die that lands it; a refused one is
counted in the die's SIGNAL_REFUSED, and the sender is told (10 R276, 08 R237). -/
def execPeerSignalOperation (port : Word32) (pos : BitVec 4) (ctx : Byte) (addr : Word64) (op : SigOp) (s : State) :
    Host.Outcome State Fault Refusal :=
  let a := addr.toNat
  let c := ctx.toNat
  let p := port.toNat
  let ok := (ctxOf s c).live && signalOk s a && (access s c p a 8 pWrite).isNone
  let s' := if ok then applySignal s ⟨p, 0xA000 + pos.toNat, c, s.gz.nextJob, 256 * c⟩ a op
    else event (count s (uid 0 (uDie p) 0) 0x10 1) (uid 0 (uDie p) 0) 0x0003 0 1
  .next (settle (send s' (.sigAck p pos.toNat (!ok))))

end Sys2Proof.Machine
end

