-- ==== Sys2Proof/Machine/Stats.lean ====
section
/-! DEFINITION. Stat slots (11 R296-R299), and runs of packed rows in memory. -/

namespace Sys2Proof.Machine

/-- What a producer adds to a stat slot (11 R298): a sum of squares, a max-abs with the producer's unit, a count, and row
and column entries with the addresses of their first elements. -/
structure StatAdd where
  sumsq : Option FVal := none
  maxabs : Option (FVal × Nat) := none
  count : Nat := 0
  rows : List (Nat × FVal) := []
  cols : List (Nat × FVal) := []

/-- STAT_SLOT: 0 to 4,095, or 0xFFFF for none (09 R256, 11 R297). -/
def statSlotOk (n : Nat) : Bool := n < 4096 || n = 0xFFFF

/-- Address of a context's stat slot; none while the context has no table (11 R296). -/
def slotAddr (s : State) (c slot : Nat) : Option Nat :=
  let t := (ctxOf s c).statTable
  if t = 0 then none else some (t + 64 * slot)

/-- Whether a named slot has a table to lie in (11 R296). -/
def slotOk (s : State) (c slot : Nat) : Bool := slot = 0xFFFF || (slotAddr s c slot).isSome

/-- Count an adder result that saturated or is NaN at the stack side of its target (15 R388). -/
def adderEvent (s : State) (a ctx : Nat) (ev : ConvEvent) : State :=
  match regionOf a, ev with
  | .side u _, .saturated => event s u 0xA004 ctx 1
  | .side u _, .ofNan => event s u 0xA005 ctx 1
  | _, _ => s

/-- A memory-side FP32 ADD of a value rounded to FP32 (11 R298, 08 R238). -/
def addFp32 (s : State) (w : Who) (a : Nat) (v : FVal) : State :=
  let (r, ev) := ffFP32.round (fAdd (fp32Val (leNat (bytesAt s a 4))) (ffFP32.rnd v))
  adderEvent (storeLazy s w a (leBytes 4 (ffFP32.encode r))) a w.ctx ev

/-- A memory-side INT64 ADD (11 R298). -/
def addInt64 (s : State) (w : Who) (a n : Nat) : State :=
  if n = 0 then s else storeLazy s w a (leBytes 8 ((leNat (bytesAt s a 8) + n) % 2 ^ 64))

/-- A MAX_IDX on an FP32 pair (08 R238, R239): greater wins, a tie goes to the lower index, NaN never wins. -/
def maxPair (s : State) (w : Who) (a : Nat) (v : FVal) (idx : Nat) : State :=
  let v := ffFP32.rnd v
  let old := fp32Val (leNat (bytesAt s a 4))
  let oldIdx := leNat (bytesAt s (a + 4) 4)
  let wins := v != .nan && (old == .nan || fGt v old || (fEq v old && idx < oldIdx))
  if wins then storeLazy s w a (leBytes 4 (fp32Code v) ++ leBytes 4 idx) else s

/-- Whether a row or column entry lies in the slot's map, and its index (11 R298). -/
def mapIndex (s : State) (sl addr : Nat) (row : Bool) : Option Nat :=
  let base := leNat (bytesAt s (sl + 0x20) 8)
  let stride := leNat (bytesAt s (sl + 0x28) 4)
  let es := leNat (bytesAt s (sl + 0x34) 1)
  let n := leNat (bytesAt s (sl + (if row then 0x2C else 0x30)) 4)
  let arrays := leNat (bytesAt s (sl + 0x38) 8)
  if base = 0 || arrays = 0 || addr < base then none
  else
    let i := if row then (addr - base) / stride else (addr - base) % stride / es
    if i < n then some (arrays + 4 * (i + if row then 0 else leNat (bytesAt s (sl + 0x2C) 4))) else none

/-- Add row or column entries; one that maps outside the matrix raises OUTSIDE (11 R298). -/
def addEntries (w : Who) (sl : Nat) (row : Bool) : List (Nat × FVal) → State → State
  | [], s => s
  | (a, v) :: es, s =>
    addEntries w sl row es (match mapIndex s sl a row with
      | some x => addFp32 s w x v
      | none => addInt64 s w (sl + 0x18) 1)

/-- Add a producer's statistics to a slot of its context (11 R298, R299). A poisoned slot takes nothing (08 R239). -/
def statApply (s : State) (w : Who) (slot : Nat) (st : StatAdd) : State :=
  if slot = 0xFFFF then s
  else match slotAddr s w.ctx slot with
    | none => s
    | some sl =>
      if (poisonIn s sl 64).isSome then s
      else
        let s := match st.sumsq with | some v => addFp32 s w sl v | none => s
        let s := match st.maxabs with | some (v, u) => maxPair s w (sl + 8) v u | none => s
        let s := addInt64 s w (sl + 0x10) st.count
        let s := addEntries w sl true st.rows s
        addEntries w sl false st.cols s

/-- The largest magnitude of a list of values; NaN never wins (05, 11 R297). -/
def maxAbs (vs : List FVal) : FVal :=
  vs.foldl (fun a v => if v != .nan && fGt (fAbs v) a then fAbs v else a) fZero

/-- Sum of squares in W48 (03 R93). -/
def sumSquares (vs : List FVal) : FVal := vs.foldl (fun a v => w48Add a (ffW48.rnd (fMul v v))) fZero

/-- Columns of a list of rows. -/
def colsOf {α : Type} (d : α) (n : Nat) (rows : List (List α)) : List (List α) :=
  (List.range n).map (fun j => rows.map (fun r => r.getD j d))

/-! ## Packed rows -/

/-- The rows of n elements of a format that a unit reads from strided memory (03 R75-R77); `scale r` holds the scale bytes
of row r. -/
def readRows (s : State) (u : Nat) (c : FCode) (base stride rows n : Nat) (scale : Nat → List Byte) : List (List FVal) :=
  (List.range rows).map (fun r => rowVals c (readBytes s u (base + r * stride) (rowBytes c n)) (scale r) n)

/-- Bytes that a strided range spans from its base (02 R45, 09 R257). -/
def span (rows stride rb : Nat) : Nat := (rows - 1) * stride + rb

/-- The first poisoned block that strided rows touch (08 R241). -/
def rowsPoison (s : State) (base stride rb : Nat) : Nat → Option Nat
  | 0 => none
  | n + 1 => match rowsPoison s base stride rb n with
    | some c => some c
    | none => poisonIn s (base + n * stride) rb

/-- Write rows of bytes at strided addresses. -/
def writeRows (w : Who) (base stride : Nat) : Nat → List (List Byte) → State → State
  | _, [], s => s
  | r, b :: bs, s => writeRows w base stride (r + 1) bs (storeLazy s w (base + r * stride) b)

/-- The first poisoned block that strided writes would cover in part (08 R241). -/
def rowsPartial (s : State) (base stride rb : Nat) : Nat → Option Nat
  | 0 => none
  | n + 1 => match rowsPartial s base stride rb n with
    | some c => some c
    | none => partialPoison s (base + n * stride) rb

end Sys2Proof.Machine
end

