-- ==== Sys2Proof/Machine/Atomic.lean ====
section
/-! DEFINITION. The memory-side adders: MEM_ATOMIC (08 R238, R239) and the element additions that DMA SCATTER_ADD, lookup
gradients and stat slots make (09 R262, 06 R177, 11 R298). -/

namespace Sys2Proof.Machine

/-- The element of a MEM_ATOMIC TYPE (08 R238). -/
def typeElem (ty : Nat) : Elem :=
  match ty with
  | 0 => .flt ffFP32
  | 1 => .flt ffBF16
  | 2 => .flt ffFP16
  | 3 => .int 32
  | _ => .int 64

/-- old + x in a type: rounded once under 03 R85, or wrapping (08 R238). -/
def adderAdd (e : Elem) (old x : Nat) : Nat × ConvEvent :=
  match e with
  | .flt f =>
    let (r, ev) := f.round (fAdd (f.decode old) (f.decode x))
    (f.encode r, ev)
  | .int n => ((old + x) % 2 ^ n, .plain)

/-- The value of a code of a type, for comparison. -/
def typeVal (e : Elem) (c : Nat) : FVal :=
  match e with
  | .flt f => f.decode (c % 2 ^ f.width)
  | .int n => dyF (dyOf (toInt n c))

/-- Whether a candidate (value, index) wins over a stored pair (08 R238): a NaN never wins, anything else replaces a NaN. -/
def pairWins (mx : Bool) (v : FVal) (i : Nat) (old : FVal) (oi : Nat) : Bool :=
  v != .nan && (old == .nan || (if mx then fGt v old else fGt old v) || (fEq v old && i < oi))

/-- One memory-side ADD of n bytes at a: the element there becomes old + x (08 R238). -/
def sideAdd (s : State) (w : Who) (e : Elem) (n a x : Nat) : State :=
  let (r, ev) := adderAdd e (leNat (bytesAt s a n)) x
  adderEvent (storeLazy s w a (leBytes n r)) a w.ctx ev

/-- Bytes of the target of an operation: a pair for MAX_IDX and MIN_IDX (08 R239). -/
def atomicBytes (p : PMemAtomic) : Nat :=
  let n := atomicSize p.type.toNat
  if p.op = 1 || p.op = 2 then (if n = 8 then 16 else 8) else n

/-- Checks of MEM_ATOMIC (02 R56; 08 R235, R238, R239). -/
def preAtomic (h : Hdr) (p : PMemAtomic) (s : State) : Pre :=
  let a := p.addr.toNat
  let n := atomicBytes p
  { preCore h s with
    fields := [(0x20, a % n = 0 && (match regionOf a with | .side _ _ => true | _ => false)),
      (0x38, p.resultAddr.toNat % n = 0), (0x40, p.op.toNat ≤ 4), (0x41, p.type.toNat ≤ 4)]
    ranges := (0x20, a, n, pAtomic + pWrite) :: (if p.resultAddr = 0 then [] else [(0x38, p.resultAddr.toNat, n, pWrite)]) }

/-- What an operation writes over its target's bytes, if it writes, and DETAIL of DONE (08 R238, R239). -/
def atomicEffect (p : PMemAtomic) (old : List Byte) : Option (List Byte) × Nat × ConvEvent :=
  let ty := p.type.toNat
  let e := typeElem ty
  let n := atomicSize ty
  let ov := fld old 0 n
  let x := p.operand.toNat % 2 ^ (8 * n)
  match p.op.toNat with
  | 0 =>
    let (r, ev) := adderAdd e ov x
    (some (leBytes n r), 0, ev)
  | 3 => (some (leBytes n x), 0, .plain)
  | 4 => if ov = p.compare.toNat % 2 ^ (8 * n) then (some (leBytes n x), 1, .plain) else (none, 0, .plain)
  | op =>
    let io := if n = 8 then 8 else 4
    if pairWins (op = 1) (typeVal e x) (p.compare.toNat % 2 ^ 32) (typeVal e ov) (fld old io 4) then
      (some (leBytes n x ++ List.replicate (io - n) 0 ++ leBytes 4 (p.compare.toNat % 2 ^ 32) ++
        List.replicate (atomicBytes p - io - 4) 0), 1, .plain)
    else (none, 0, .plain)

/-- The stack side of an address, the unit that a failing memory-side adder names (05 R122). -/
def sideAt (a : Nat) : Nat := match regionOf a with | .side u _ => u | _ => 0

/-- MEM_ATOMIC: one operation of the target's memory-side adder (08 R238, R239). The duplicated adder re-executes once; a
second mismatch writes nothing (05 R122). -/
def runAtomic (p : PMemAtomic) (f : Faults) (j : Job) (s : State) : RunRes :=
  let a := p.addr.toNat
  let n := atomicBytes p
  let ra := p.resultAddr.toNat
  match poisonIn s (a / 32 * 32) 32 with
  | some ch => ends s (fails MEMORY_POISONED ch)
  | none =>
    if training s a then waits s .parked
    else if 2 ≤ f.mismatch then
      ends s { checkFailed (sideAt a) 1 [(0x78, 1)] with replays := 1 }
    else
      let old := bytesAt s a n
      let (new, d, ev) := atomicEffect p old
      let w := whoOf j
      let s := match new with | some b => storeLazy s w a b | none => s
      let s := adderEvent s a (j.ring / 256) ev
      let s := if f.mismatch = 0 then s else charge (sideAt a) 1 s
      if ra != 0 && (partialPoison s ra n).isSome then ends s (fails MEMORY_POISONED ((partialPoison s ra n).getD 0))
      else
        let s := if ra = 0 then s else storeLazy s w ra old
        ends s (if f.mismatch = 0 then doneChecked 1 1 0x78 d else { doneChecked 3 1 0x78 d with replays := 1 })

/-- MEM_ATOMIC (02 R53). -/
def execMemAtomic (h : Hdr) (p : PMemAtomic) (f : Faults) (s : State) : Host.Outcome State Fault Refusal :=
  .next (issue (preAtomic h p s) (runAtomic p f) (.memAtomic h p f) s)

end Sys2Proof.Machine
end

