-- ==== Sys2Proof/Machine/Matrix.lean ====
section
/-! DEFINITION. Matrix engines (04) and the checking of their results (05 R121-R134): shapes, passes, results, drains,
correction, replay, referee and abort. -/

namespace Sys2Proof.Machine

/-! ## Shapes (04 R96) -/

/-- Partitions, rows and columns of a SHAPE code (04 R96). -/
def shapeDims (sh : Nat) : Nat × Nat × Nat :=
  match sh with
  | 0 => (1, 256, 256)
  | 1 => (2, 128, 256)
  | 2 => (2, 256, 128)
  | 3 => (4, 128, 128)
  | 4 => (8, 64, 128)
  | 5 => (8, 128, 64)
  | _ => (16, 64, 64)

/-- The fields that partition p of a shape holds (04 R96). -/
def partFields (sh p : Nat) : List Nat :=
  match sh with
  | 0 => List.range 16
  | 1 => (List.range 8).map (8 * p + ·)
  | 2 => (List.range 4).flatMap (fun r => [2 * p + 4 * r, 2 * p + 4 * r + 1])
  | 3 => [8 * (p / 2) + 2 * (p % 2), 8 * (p / 2) + 2 * (p % 2) + 1, 8 * (p / 2) + 4 + 2 * (p % 2), 8 * (p / 2) + 4 + 2 * (p % 2) + 1]
  | 4 => [2 * p, 2 * p + 1]
  | 5 => [8 * (p / 4) + p % 4, 8 * (p / 4) + p % 4 + 4]
  | _ => [p]

/-- An engine (04). -/
def engineOf (s : State) (u : Nat) : Engine := amGet {} s.mm u
/-- A partition of an engine. -/
def partOf (s : State) (u p : Nat) : Part := amGet {} (engineOf s u).parts p
/-- Change an engine. -/
def modEngine (s : State) (u : Nat) (f : Engine → Engine) : State := { s with mm := amMod {} s.mm u f }
/-- Change a partition. -/
def modPart (s : State) (u p : Nat) (f : Part → Part) : State :=
  modEngine s u (fun e => { e with parts := amMod {} e.parts p f })
/-- SHAPE of an engine. -/
def shapeOf (s : State) (u : Nat) : Nat := (engineOf s u).shape

/-- Whether an engine is idle: nothing executing, queued or held, and no drain waiting for a borrowed partition (04 R98). -/
def engineIdle (s : State) (u : Nat) : Bool :=
  (engineOf s u).parts.all (fun p => p.2.exec.isNone && p.2.queue.isEmpty && p.2.x.isNone && p.2.y.isNone)

/-- A unit ID field that names a unit of one kind (01 R18). -/
def isKind (k u : Nat) : Bool := uidValid u && uKind u = k

/-! ## MM_PARTITION -/

/-- Checks of MM_PARTITION (02 R54, R55). -/
def prePartition (p : PMmPartition) : Pre :=
  let u := p.engine.toNat
  { fields := [(0x20, isKind 1 u), (0x24, p.shape.toNat ≤ 6)], units := [(0x20, u)], unit := u, ready := [u] }

/-- MM_PARTITION: only the primary holder, only while the engine is idle; ledgered (02 R55, 04 R98). -/
def runMmPartition (p : PMmPartition) (j : Job) (s : State) : RunRes :=
  let u := p.engine.toNat
  if primaryHolder s u != j.ring / 256 then ends s (fails NO_PERMISSION 0x20)
  else if !engineIdle s u then ends s (fails BAD_STATE 0x24)
  else
    let old := shapeOf s u
    let s := modEngine s u (fun _ => { shape := p.shape.toNat, parts := [] })
    ends (ledger (uDie u) j.origin 1 u 0 (j.ring / 256) old p.shape.toNat 0 s) (done 0)

/-- MM_PARTITION (02 R53). -/
def execMmPartition (h : Hdr) (p : PMmPartition) (s : State) : Host.Outcome State Fault Refusal :=
  .next (issue (prePartition p) (runMmPartition p) (.mmPartition h p) s)

/-! ## Operands of a pass (04 R100-R102; 03 R77, R78, R81) -/

/-- Significand bits of an element format, for the limb rule of 03 R81. -/
def sigBits (c : FCode) : Nat :=
  match c.elem with
  | .flt f => f.mb + 1
  | .int n => n

/-- Significand bits of the format a LIMB mode splits: FP16, FP32, FP64 (03 R81). -/
def limbSig (limb : Nat) : Nat :=
  match limb with
  | 1 => 11
  | 2 => 24
  | _ => 53

/-- Whether a format may be an operand at a LIMB (03 R73, R81). -/
def operandOk (limb fmt : Nat) : Bool :=
  matrixOperand fmt &&
    (match fmtOf fmt with
    | none => false
    | some c => if limb = 0 then fmt != 0 else sigBits c ≤ limbSig limb)

/-- The reduction length K of a pass; 0 means 2^32 (02 R54). -/
def passK (p : PMmPass) : Nat := if p.k = 0 then 2 ^ 32 else p.k.toNat

/-- Rows of A in memory: R, or T tokens in broadside mode (04 R100, R101). -/
def passRows (p : PMmPass) (r : Nat) : Nat := if p.dataflow = 0 then r else p.t.toNat

/-- Scale bytes of one row or column of K elements (03 R77). -/
def scaleBlocks (k : Nat) : Nat := ceilDiv k 32

/-- Whether a format code is block-scaled (03 R73). -/
def scaledFmt (fmt : Nat) : Bool := bit fmt 4

/-- Where the scales of B begin (03 R78). -/
def scaleB (p : PMmPass) (rows : Nat) : Nat :=
  p.scaleAddr.toNat + if scaledFmt p.fmtA.toNat then rows * scaleBlocks (passK p) else 0

/-- The largest T of a broadside pass (04 R105). -/
def tMax (sh : Nat) : Nat := let (n, _, c) := shapeDims sh; 2 ^ 18 / (n * c)

/-- Bytes of a row of n elements of a format code. -/
def fmtRow (fmt n : Nat) : Nat := match fmtOf fmt with | some c => rowBytes c n | none => 0

/-- Array time of a pass in beats, for the limits of bubble tenants (02 R61). -/
def arrayTime (p : PMmPass) (r : Nat) : Nat :=
  let passes := match p.limb.toNat with | 0 => 1 | 1 => 3 | 2 => 6 | _ => 36
  if p.dataflow = 0 then passes * max (passK p) r
  else
    let b8 := match fmtOf p.fmtB.toNat with | some c => c.bitsN | none => 8
    ceilDiv (passK p) r * max p.t.toNat b8

/-- The ranges a pass reads (04 R100-R102; 03 R78). -/
def passRanges (p : PMmPass) (sh : Nat) : List (Nat × Nat × Nat × Nat) :=
  let (_, r, c) := shapeDims sh
  let k := passK p
  let ra := passRows p r
  let nScale := (if scaledFmt p.fmtA.toNat then ra * scaleBlocks k else 0) +
    (if scaledFmt p.fmtB.toNat then scaleBlocks k * c else 0)
  [(0x28, p.aAddr.toNat, span ra p.aStride.toNat (fmtRow p.fmtA.toNat k), pRead),
   (0x30, p.bAddr.toNat, span k p.bStride.toNat (fmtRow p.fmtB.toNat c), pRead)] ++
    (if nScale = 0 then [] else [(0x50, p.scaleAddr.toNat, nScale, pRead)])

/-- The units a partition needs ready: its fields, then its engine (04 R99). -/
def partReady (s : State) (u p : Nat) : List Nat :=
  (partFields (shapeOf s u) p).map (fun f => uid 2 (uDie u) (16 * uInst u + f)) ++ [u]

/-- Checks of MM_PASS (02 R54, R61; 03 R73, R78, R81, R90; 11 R296). -/
def preMmPass (h : Hdr) (p : PMmPass) (s : State) : Pre :=
  let u := p.engine.toNat
  let sh := shapeOf s u
  let (n, r, _) := shapeDims sh
  let limb := p.limb.toNat
  let c := h.ctx.toNat
  { fields := [(0x20, isKind 1 u), (0x24, !isKind 1 u || p.part.toNat < n), (0x25, p.dataflow.toNat ≤ 1 && (limb = 0 || p.dataflow = 0)),
      (0x26, operandOk limb p.fmtA.toNat), (0x27, operandOk limb p.fmtB.toNat),
      (0x40, limb = 0 || passK p ≤ 2 ^ 20),
      (0x44, p.dataflow = 0 || (1 ≤ p.t.toNat && p.t.toNat ≤ tMax sh)),
      (0x48, limb ≤ 3), (0x49, limb = 0 || p.acc = 0), (0x4A, statSlotOk p.statSlot.toNat),
      (0x50, !(scaledFmt p.fmtA.toNat || scaledFmt p.fmtB.toNat) || p.scaleAddr != 0)]
    units := [(0x20, u)]
    ranges := passRanges p sh
    limits := [(!isTenant s c || (p.acc = 0 && arrayTime p r ≤ 65536), OUT_OF_RANGE, 0x40),
      (slotOk s c p.statSlot.toNat, BAD_STATE, 0x4A)]
    unit := u, part := p.part.toNat
    ready := partReady s u p.part.toNat }

/-- The scale bytes of one row of A (03 R78). -/
def aScales (s : State) (u : Nat) (p : PMmPass) (r : Nat) : List Byte :=
  if scaledFmt p.fmtA.toNat then
    readBytes s u (p.scaleAddr.toNat + r * scaleBlocks (passK p)) (scaleBlocks (passK p))
  else []

/-- Operand A as stored, with scales applied: R or T rows of K elements (04 R100, R101). -/
def loadA (s : State) (u : Nat) (p : PMmPass) (rows : Nat) : List (List FVal) :=
  match fmtOf p.fmtA.toNat with
  | none => []
  | some c => readRows s u c p.aAddr.toNat p.aStride.toNat rows (passK p) (aScales s u p)

/-- Operand B as stored, with scales applied: K rows of C elements, its blocks running down each column (03 R78). -/
def loadB (s : State) (u : Nat) (p : PMmPass) (rows cols : Nat) : List (List FVal) :=
  match fmtOf p.fmtB.toNat with
  | none => []
  | some c =>
    (List.range (passK p)).map (fun k =>
      let row := readBytes s u (p.bAddr.toNat + k * p.bStride.toNat) (rowBytes c cols)
      let sc := if c.scaled then readBytes s u (scaleB p rows + k / 32 * cols) cols else []
      (List.range cols).map (fun j =>
        let v := elemVal c (elemCode c row j)
        if c.scaled then scaleVal ((sc.getD j 127).toNat) v else v))

/-- The first poisoned block that a pass reads (08 R241). -/
def passPoison (s : State) (p : PMmPass) (sh : Nat) : Option Nat :=
  let (_, r, c) := shapeDims sh
  let k := passK p
  let ra := passRows p r
  match rowsPoison s p.aAddr.toNat p.aStride.toNat (fmtRow p.fmtA.toNat k) ra with
  | some ch => some ch
  | none => match rowsPoison s p.bAddr.toNat p.bStride.toNat (fmtRow p.fmtB.toNat c) k with
    | some ch => some ch
    | none =>
      if scaledFmt p.fmtA.toNat || scaledFmt p.fmtB.toNat then
        poisonIn s p.scaleAddr.toNat (scaleB p ra - p.scaleAddr.toNat + if scaledFmt p.fmtB.toNat then scaleBlocks k * c else 0)
      else none

/-! ## Exact results -/

/-- Add one product to an element: exact sum, sum of magnitudes, lowest exponent (03 R83, R93). -/
def accMul (a : Acc) (x y : FVal) : Acc :=
  let pr := fMul x y
  match pr with
  | .fin _ m e =>
    if m = 0 then { a with v := fAdd a.v pr }
    else { v := fAdd a.v pr, s := dyAdd a.s ⟨m, e⟩, g := if a.s.m = 0 then e else min a.g e }
  | _ => { a with v := fAdd a.v pr }

/-- The element of a row of A and a column of B. -/
def dot (xs ys : List FVal) : Acc := (xs.zip ys).foldl (fun a p => accMul a p.1 p.2) {}

/-- Join the sums of two passes of one element (04 R107). -/
def accJoin (a b : Acc) : Acc :=
  { v := fAdd a.v b.v, s := dyAdd a.s b.s, g := if a.s.m = 0 then b.g else if b.s.m = 0 then a.g else min a.g b.g }

/-- Magnitude of a value as an exact number; NaN and infinities as zero. -/
def magDy (v : FVal) : Dy := dyAbs (fDy v)
/-- Sum of magnitudes. -/
def magSum (vs : List FVal) : Dy := dySum (vs.map magDy)
/-- Largest magnitude. -/
def magMax (vs : List FVal) : Dy := vs.foldl (fun a v => dyMax a (magDy v)) dy0

/-! ## Limb modes (03 R87-R92) -/

/-- Limbs of a LIMB mode (03 R88). -/
def limbCount (limb : Nat) : Nat :=
  match limb with
  | 1 => 2
  | 2 => 3
  | _ => 7

/-- Whether a mode runs the limb pair (i, j) (03 R88). -/
def limbPair (limb i j : Nat) : Bool :=
  match limb with
  | 1 => i + j ≤ 3
  | 2 => i + j ≤ 4
  | _ => i + j ≤ 9 || (i = 4 && j = 6) || (i = 6 && j = 4)

/-- Anti-diagonals that are checked (05 R128). -/
def antiDiagonals (limb : Nat) : Nat :=
  match limb with
  | 1 => 2
  | 2 => 3
  | _ => 9

/-- ⌊log2 |x|⌋ of a nonzero exact number. -/
def dyLog2 (x : Dy) : Int := (Nat.log2 x.m.natAbs : Int) + x.e

/-- The shared exponent of a row or column (03 R87). -/
def sharedExp (vs : List FVal) : Option Int := let m := magMax vs; if m.m = 0 then none else some (dyLog2 m)

/-- x / 2^e rounded to the nearest integer, ties to even. -/
def roundOn (x : Dy) (e : Int) : Int :=
  let m := x.m.natAbs
  let r : Nat := if e ≤ x.e then m * 2 ^ (x.e - e).toNat else rneShift m (e - x.e).toNat
  if x.m < 0 then -(r : Int) else r

/-- The signed digits of an element, limbs i = 1 … L on the grids 2^(e + 2 − 9i) (03 R87). -/
def digits (e : Int) : Nat → Nat → Dy → List Int
  | 0, _, _ => []
  | n + 1, i, x =>
    let g := e + 2 - 9 * (i : Int)
    let d := roundOn x g
    d :: digits e n (i + 1) (dySub x ⟨d, g⟩)

/-- One element's digits in a row whose shared exponent is known. -/
def elemDigits (limb : Nat) (e : Option Int) (v : FVal) : List Int :=
  match e with
  | none => List.replicate (limbCount limb) 0
  | some e => digits e (limbCount limb) 1 (fDy v)

/-- The exact recombined sum of one element: every pair that the mode runs, scaled by its grids (03 R88, R89). -/
def limbDot (limb : Nat) (ea eb : Option Int) (xs ys : List (List Int)) : FVal :=
  match ea, eb with
  | some ea, some eb =>
    let l := limbCount limb
    let terms := (List.range l).flatMap (fun i => (List.range l).filterMap (fun j =>
      if limbPair limb (i + 1) (j + 1) then
        let sum := ((xs.zip ys).map (fun p => p.1.getD i 0 * p.2.getD j 0)).foldl (· + ·) 0
        some (Dy.mk sum (ea + eb + 4 - 9 * ((i : Int) + j + 2)))
      else none))
    dyF (dySum terms)
  | _, _ => fZero

/-- The limb-mode result of A and B: an infinity or NaN in a row or column makes NaN what it feeds (03 R92). -/
def limbResult (limb : Nat) (a b : List (List FVal)) (cols : Nat) : List (List FVal) :=
  let bc := (colsOf fZero cols b).map (fun c => let e := sharedExp c; (e, c.all fFinite, c.map (elemDigits limb e)))
  a.map (fun row =>
    let e := sharedExp row
    let ok := row.all fFinite
    let ds := row.map (elemDigits limb e)
    bc.map (fun c => if ok && c.2.1 then limbDot limb e c.1 ds c.2.2 else .nan))

/-! ## Running a pass -/

/-- A result with no pass in it yet. -/
def emptyRes (ctx order : Nat) (p : PMmPass) : Res :=
  { ctx := ctx, order := order, dataflow := p.dataflow.toNat, limb := p.limb.toNat, t := p.t.toNat, k := 0, log := [], passes := 0,
    vals := [], limbs := [], sA := dy0, sB := dy0, m := [], n := [], rW := dy0, sX := [], maxA := [], maxB := [],
    drain := none, bad := none, used := [], second := [] }

/-- Join two lists element by element; the longer one's tail stays. -/
def joinWith {α : Type} (f : α → α → α) : List α → List α → List α
  | [], ys => ys
  | xs, [] => xs
  | x :: xs, y :: ys => f x y :: joinWith f xs ys

/-- What operands a (rows of K elements) and b (K rows of C elements) add to a result: its elements and its check sums, formed
over the loaded values (05 R123, R126, R128: in limb mode over the digits of the first anti-diagonal, DEDUCED, log entry 18). -/
def addProduct (limb k c : Nat) (a b : List (List FVal)) (r : Res) : Res :=
  let la := if limb = 0 then a.map (·.map ao18) else a
  let lb := if limb = 0 then b.map (·.map ao18) else b
  let dig (vs : List FVal) : List FVal := let e := sharedExp vs; vs.map (fun v => dyF (dyOf ((elemDigits limb e v).getD 0 0)))
  let ca := if limb = 0 then la else la.map dig
  let cb := if limb = 0 then lb else colsOf fZero k ((colsOf fZero c lb).map dig)
  let cols := colsOf fZero c lb
  { r with
    k := r.k + k
    passes := r.passes + 1
    vals := if limb = 0 then joinWith (joinWith accJoin) r.vals (la.map (fun x => cols.map (fun y => dot x y))) else r.vals
    limbs := if limb = 0 then r.limbs else limbResult limb a b c
    sA := dyAdd r.sA (dySum (ca.map magSum))
    sB := dyAdd r.sB (dySum (cb.map magSum))
    m := joinWith dyMax r.m ((colsOf fZero c cb).map magMax)
    n := joinWith dyMax r.n (ca.map magMax)
    rW := (lb.map magSum).foldl dyMax r.rW
    sX := joinWith dyAdd r.sX (la.map magSum)
    maxA := joinWith dyMax r.maxA (a.map magMax)
    maxB := joinWith dyMax r.maxB ((colsOf fZero c b).map magMax) }

/-- What one pass adds to a result, with its entry in the pass log (04 R107, R117). -/
def passAdd (s : State) (u : Nat) (p : PMmPass) (sh : Nat) (r : Res) : Res :=
  let (_, rr, c) := shapeDims sh
  let rows := passRows p rr
  addProduct p.limb.toNat (passK p) c (loadA s u p rows) (loadB s u p rows c)
    { r with log := if r.passes < 1024 then r.log ++ [p] else r.log }

/-- 64-byte blocks of operands and scale bytes that the load converters take in one pass: the checks of MM_PASS (05 R122; log
entry 25). -/
def passChecks (p : PMmPass) (sh : Nat) : Nat :=
  let (_, r, c) := shapeDims sh
  let ra := passRows p r
  let k := passK p
  ceilDiv (ra * fmtRow p.fmtA.toNat k + k * fmtRow p.fmtB.toNat c + (if scaledFmt p.fmtA.toNat then ra * scaleBlocks k else 0) +
    (if scaledFmt p.fmtB.toNat then scaleBlocks k * c else 0)) 64

/-- Beats in which a pass streams operands (04 R103, R104, R120). -/
def streamBeats (p : PMmPass) (r : Nat) : Nat :=
  let passes := match p.limb.toNat with | 0 => 1 | 1 => 3 | 2 => 6 | _ => 36
  if p.dataflow = 0 then passes * passK p else ceilDiv (passK p) r * p.t.toNat

/-! ## Sets and halves (04 R107-R111) -/

/-- The result in set X (false) or Y (true). -/
def setOf (pt : Part) (y : Bool) : Option Res := if y then pt.y else pt.x
/-- Put a result into a set, or empty it. -/
def putSet (pt : Part) (y : Bool) (r : Option Res) : Part := if y then { pt with y := r } else { pt with x := r }

/-- First byte of a half in the accumulator buffer, as an offset (04 R110). -/
def halfOff (e n p : Nat) (y : Bool) : Nat := e * 0x400000 + p * (0x400000 / n) + if y then 0x200000 / n else 0

/-- Bytes in use of a half (04 R110). -/
def halfBytes (r : Res) (rows cols : Nat) : Nat :=
  if r.dataflow = 1 then r.t * cols * 8 else if r.limb = 0 then rows * cols * 8 else rows * cols * 16

/-- The in-use ranges of an engine's slot (04 R111). -/
def engineRanges (e : Nat × Engine) : List (Nat × Nat) :=
  let (n, r, c) := shapeDims e.2.shape
  e.2.parts.flatMap (fun p =>
    (match p.2.x with | some x => [(halfOff (uInst e.1) n p.1 false, halfBytes x r c)] | none => []) ++
    (match p.2.y with | some y => [(halfOff (uInst e.1) n p.1 true, halfBytes y r c)] | none => []))

/-- Whether a range of a die's accumulator buffer overlaps an in-use range (04 R111). -/
def inUse (s : State) (die off n : Nat) : Bool :=
  (s.mm.filter (fun e => uDie e.1 == die)).any (fun e =>
    (engineRanges e).any (fun r => off < r.1 + r.2 && r.1 < off + n))

/-- The context's oldest result that no drain has been dispatched for (02 R55, 04 R107). -/
def oldestUndrained (pt : Part) (c : Nat) : Option Bool :=
  let ok (r : Option Res) : Option Nat := match r with
    | some r => if r.ctx = c && r.drain.isNone then some r.order else none
    | none => none
  match ok pt.x, ok pt.y with
  | some a, some b => some (decide (b < a))
  | some _, none => some false
  | none, some _ => some true
  | none, none => none

/-- The context's newest result (04 R107). -/
def newestOf (pt : Part) (c : Nat) : Option Bool :=
  let ok (r : Option Res) : Option Nat := match r with
    | some r => if r.ctx = c then some r.order else none
    | none => none
  match ok pt.x, ok pt.y with
  | some a, some b => some (decide (a < b))
  | some _, none => some false
  | none, some _ => some true
  | none, none => none

/-- How the start of a queued pass comes out. -/
inductive StartRes where
  | started (s : State)
  | ended (s : State) (e : End)
  | wait

/-- The free set a new result opens in: the next in alternation, else the other (04 R107). -/
def freeSet (pt : Part) : Option Bool :=
  if (setOf pt pt.nextY).isNone then some pt.nextY
  else if (setOf pt (!pt.nextY)).isNone then some (!pt.nextY) else none

/-- Discard the tenants' results for which no drain has been dispatched: a normal context preempts them (02 R62). -/
def preemptTenants (s : State) (pt : Part) : Part :=
  let gone (r : Option Res) : List Nat := match r with
    | some r => if isTenant s r.ctx && r.drain.isNone then [r.ctx] else []
    | none => []
  let keep (r : Option Res) : Option Res := match r with
    | some r => if isTenant s r.ctx && r.drain.isNone then none else some r
    | none => none
  { pt with x := keep pt.x, y := keep pt.y, preempted := pt.preempted ++ gone pt.x ++ gone pt.y }

/-- Begin a pass on its partition (04 R107, R108): open a result, or find the one it adds to. -/
def startPass (s : State) (u pi : Nat) (j : Job) (p : PMmPass) : StartRes :=
  let c := j.ring / 256
  let pt := if isTenant s c then partOf s u pi else preemptTenants s (partOf s u pi)
  let others := [pt.x, pt.y].any (fun r => match r with | some r => r.ctx != c | none => false)
  if isTenant s c && others then .wait
  else if p.acc = 0 then
    match freeSet pt with
    | none =>
      if [pt.x, pt.y].any (fun r => match r with | some r => r.drain.isSome | none => false) then .wait
      else .ended s (fails BAD_STATE 0x49)
    | some y =>
      let r := emptyRes c pt.opened p
      let pt := putSet { pt with exec := some (j.id, y), nextY := !y, opened := pt.opened + 1 } y (some r)
      let (n, rr, cc) := shapeDims (shapeOf s u)
      let s := modPart s u pi (fun _ => pt)
      .started (markUndef s [(0x61000000000 + uDie u * 0x4000000 + halfOff (uInst u) n pi y, halfBytes r rr cc)])
  else match newestOf pt c with
    | none => .ended s (fails BAD_STATE 0x49)
    | some y => match setOf pt y with
      | none => .ended s (fails BAD_STATE 0x49)
      | some r =>
        if r.drain.isSome then .ended s (fails BAD_STATE 0x49)
        else if r.dataflow != p.dataflow.toNat then .ended s (fails BAD_STATE 0x25)
        else if r.dataflow = 1 && r.t != p.t.toNat then .ended s (fails BAD_STATE 0x44)
        else if 2 ^ 32 < r.k + passK p then .ended s (fails OUT_OF_RANGE 0x40)
        else match r.bad with
          | some (st, d) => .ended s (spoiledEnd st d u)
          | none => .started (modPart s u pi (fun _ => { pt with exec := some (j.id, y) }))

/-! ## Tolerances (05 R125, R127, R130, R132) -/

/-- n times an exact number. -/
def dyTimes (n : Nat) (x : Dy) : Dy := ⟨n * x.m, x.e⟩

/-- 2 · n · (u_acc · S · m + η_acc), with the checker's margin 1 + 2^-20 (05 R125, R127). -/
def tauOf (n : Nat) (sum mx : Dy) : Dy :=
  let core := dyAdd (dyMul ⟨1, -39⟩ (dyMul sum mx)) ⟨1, -293⟩
  dyMul (dyTimes (2 * n) core) ⟨2 ^ 20 + 1, -20⟩

/-- τ_col(j) (05 R125); K counts the pairs of the anti-diagonal in limb mode, one for the first (05 R128). -/
def tauCol (r : Res) (rows j : Nat) : Dy := tauOf (r.k + rows + 2) r.sA (r.m.getD j dy0)
/-- τ_row(i) (05 R125). -/
def tauRow (r : Res) (cols i : Nat) : Dy := tauOf (r.k + cols + 2) r.sB (r.n.getD i dy0)
/-- τ_ws(t) (05 R127). -/
def tauWs (r : Res) (cols t : Nat) : Dy := tauOf (r.k + cols + 2) (r.sX.getD t dy0) r.rW

/-- An injected error as an exact number. -/
def errDy (e : ElemErr) : Dy := ⟨e.mant, e.exp⟩
/-- The discrepancy that errors make in a column. -/
def colErr (es : List ElemErr) (j : Nat) : Dy := dySum ((es.filter (fun e => e.col == j)).map errDy)
/-- The discrepancy that errors make in a row. -/
def rowErr (es : List ElemErr) (i : Nat) : Dy := dySum ((es.filter (fun e => e.row == i)).map errDy)
/-- The error of one element. -/
def errAt (es : List ElemErr) (i j : Nat) : Dy := dySum ((es.filter (fun e => e.row == i && e.col == j)).map errDy)
/-- Keep the first of equal numbers. -/
def distinct : List Nat → List Nat
  | [] => []
  | x :: xs => x :: (distinct xs).filter (· != x)

/-- Columns whose check fails (05 R125). -/
def failCols (r : Res) (rows : Nat) (es : List ElemErr) : List Nat :=
  (distinct (es.map (·.col))).filter (fun j => dyLt (tauCol r rows j) (dyAbs (colErr es j)))
/-- Rows whose check fails (05 R125), or tokens of a broadside result (05 R127). -/
def failRows (r : Res) (cols : Nat) (es : List ElemErr) : List Nat :=
  (distinct (es.map (·.row))).filter (fun i =>
    dyLt (if r.dataflow = 1 then tauWs r cols i else tauRow r cols i) (dyAbs (rowErr es i)))

/-- Whether a result with these errors passes its check (05 R125, R127). -/
def checkClean (r : Res) (rows cols : Nat) (es : List ElemErr) : Bool :=
  (failRows r cols es).isEmpty && (r.dataflow = 1 || (failCols r rows es).isEmpty)

/-- The element that in-place correction replaces, when R130's conditions hold (05 R130). -/
def correctable (r : Res) (rows cols : Nat) (es : List ElemErr) : Option (Nat × Nat) :=
  if r.dataflow = 1 || 1024 < r.passes then none
  else match failRows r cols es, failCols r rows es with
    | [i], [j] =>
      let diff := dyAbs (dySub (colErr es j) (rowErr es i))
      if dyLe diff (dyAdd (tauCol r rows j) (tauRow r cols i)) then some (i, j) else none
    | _, _ => none

/-- The errors left after the element (i, j) is recomputed. -/
def without (i j : Nat) (es : List ElemErr) : List ElemErr := es.filter (fun e => !(e.row == i && e.col == j))

/-- γ(K) · S + K · η_acc scaled by 2^39 − K: the accumulation part of the LIMB 0 bound (03 R93). -/
def gammaBound (k : Nat) (sum : Dy) : Dy := dyAdd (dyTimes k sum) (dyMul (dyTimes (k * (2 ^ 39 - k)) ⟨1, -293⟩) (dyOf 1))

/-- δ_in of a pass, in units of 2^-16 (03 R93). -/
def deltaIn (p : PMmPass) : Nat :=
  let w (f : Nat) : Bool := f = 1 || f = 2
  if w p.fmtA.toNat && w p.fmtB.toNat then 2 ^ 9 + 1 else if w p.fmtA.toNat || w p.fmtB.toNat then 2 ^ 8 else 0

/-- Whether a difference lies within τ_ref(i, j) (05 R132), both sides scaled by 2^39 − K. -/
def withinRef (r : Res) (i j : Nat) (d : Dy) : Bool :=
  let mm := dyTimes r.k (dyMul (r.maxA.getD i dy0) (r.maxB.getD j dy0))
  let e := match r.limb with
    | 0 =>
      let dl := r.log.foldl (fun a p => max a (deltaIn p)) 0
      dyAdd (dyAdd (dyMul ⟨dl * (2 ^ 39 - r.k), -16⟩ mm) (dyMul ⟨r.k * (2 ^ 16 + dl), -16⟩ mm))
        (dyMul ⟨r.k * (2 ^ 39 - r.k), 0⟩ ⟨1, -293⟩)
    | 1 => dyMul ⟨2 ^ 39 - r.k, -15⟩ mm
    | 2 => dyMul ⟨2 ^ 39 - r.k, -23⟩ mm
    | _ => dyMul ⟨2 ^ 39 - r.k, -52⟩ mm
  dyLe (dyMul ⟨2 ^ 39 - r.k, 0⟩ (dyAbs d)) (dyAdd e (dyMul ⟨2 ^ 39 - r.k, -52⟩ mm))

/-- Whether two runs of a result agree element by element within τ_ref (05 R131, R132). -/
def agree (r : Res) (es fs : List ElemErr) : Bool :=
  (es ++ fs).all (fun e => withinRef r e.row e.col (dySub (errAt es e.row e.col) (errAt fs e.row e.col)))

/-! ## Values of a result -/

/-- Whether every partial sum of an element is exact in W48 in any order (03 R82-R84). -/
def exactFits (a : Acc) : Bool :=
  a.s.m = 0 || (dyLe a.s ⟨2 ^ 39, a.g⟩ && -292 ≤ a.g && dyLe a.s ffW48.maxDy)

/-- The W48 value of a LIMB 0 element: exact where every partial sum is; elsewhere free within the bound of 03 R93, and
anything where a partial sum may leave the W48 range (DESIGN CHOICE, log entry 7). -/
def elemW48 (free idx k : Nat) (a : Acc) : FVal :=
  match a.v with
  | .fin _ _ _ =>
    if exactFits a then ffW48.rnd a.v
    else
      let c := w48Val (Config.freeW48 free idx).toNat
      if !dyLe a.s ffW48.maxDy then c
      else if fFinite c && dyLe (dyTimes (2 ^ 39 - k) (dyAbs (dySub (fDy c) (fDy a.v)))) (gammaBound k a.s) then c
      else ffW48.rnd a.v
  | v => v

/-- Pair each element of a list with its index from i up. -/
def indexed {α : Type} : Nat → List α → List (Nat × α)
  | _, [] => []
  | i, x :: xs => (i, x) :: indexed (i + 1) xs

/-- The rows of a result before output rounding, with the errors that its checks let through (04 R114, R115). -/
def resRows (free : Nat) (r : Res) (es : List ElemErr) : List (List FVal) :=
  if r.limb = 0 then
    (indexed 0 r.vals).map (fun row => (indexed 0 row.2).map (fun x =>
      let v := elemW48 free (1024 * row.1 + x.1) r.k x.2
      if es.any (fun e => e.row == row.1 && e.col == x.1) then ffW48.rnd (fAdd v (dyF (errAt es row.1 x.1))) else v))
  else r.limbs

/-! ## Writing a drained result (04 R112-R115) -/

/-- Bytes and conversion counts of the output rows in FMT_OUT. -/
def outRows (c : FCode) (rows : List (List FVal)) : List (List Byte × List Byte × Nat × Nat) := rows.map (convRow c)

/-- INDEX of a MODE 3 candidate (04 R113). -/
def maxIndex (u part row col : Nat) : Nat :=
  bits row 8 2 * 2 ^ 28 + uDie u * 2 ^ 24 + uInst u * 2 ^ 20 + part * 2 ^ 16 + bits row 0 8 * 2 ^ 8 + col

/-- MODE 3: the greater value, or the lower INDEX between equals, stands (04 R113). -/
def maxEntry (s : State) (w : Who) (a : Nat) (v : FVal) (idx : Nat) : State :=
  let old := w48Val (leNat (bytesAt s a 8))
  let oi := leNat (bytesAt s (a + 8) 4)
  if v != .nan && (old == .nan || fGt v old || (fEq v old && idx < oi)) then
    storeLazy s w a (leBytes 8 (w48Code v) ++ leBytes 4 idx)
  else s

/-- Write one row into the accumulator buffer in MODE 1, 2 or 3 (04 R112). -/
def accRow (w : Who) (mode u part row : Nat) (base : Nat) : List (Nat × FVal) → State → State
  | [], s => s
  | (c, v) :: vs, s =>
    let s := match mode with
      | 1 => storeLazy s w (base + 8 * c) (leBytes 8 (w48Code v))
      | 2 => storeLazy s w (base + 8 * c) (leBytes 8 (w48Code (fAdd (w48Val (leNat (bytesAt s (base + 8 * c) 8))) v)))
      | _ => maxEntry s w (base + 16 * c) v (maxIndex u part row c)
    accRow w mode u part row base vs s

/-- Where a drain's output begins: memory, or the accumulator buffer's window (04 R110, R115). -/
def drainBase (u : Nat) (p : PMmDrain) : Nat :=
  if p.mode = 0 then p.destAddr.toNat else 0x61000000000 + uDie u * 0x4000000 + p.destAddr.toNat

/-- Statistics of a drain over the W48 values before output rounding (04 R115, 11 R298). -/
def drainStats (u : Nat) (p : PMmDrain) (eb : Nat) (rows : List (List FVal)) (cols : Nat) : StatAdd :=
  let st := p.stats.toNat
  let all := rows.flatten
  let base := drainBase u p
  let sq := bit st 0 || bit st 1
  { sumsq := if sq then some (sumSquares all) else none
    maxabs := if bit st 2 then some (maxAbs all, u) else none
    count := if sq then all.length else 0
    rows := if bit st 0 then (indexed 0 rows).map (fun r => (base + r.1 * p.destStride.toNat, sumSquares r.2)) else []
    cols := if bit st 1 then (indexed 0 (colsOf fZero cols rows)).map (fun c => (base + c.1 * eb, sumSquares c.2)) else [] }

/-- Bytes between columns of a drain's output (04 R112, R115). -/
def drainElem (p : PMmDrain) : Nat :=
  if p.mode = 3 then 16 else if p.mode != 0 then 8 else match fmtOf p.fmtOut.toNat with | some c => c.bitsN / 8 | none => 1

/-- Write a checked result to its destination (04 R112, R115), its statistics, and its conversion counts. -/
def writeOut (s : State) (w : Who) (u part cols : Nat) (p : PMmDrain) (rows : List (List FVal)) : State :=
  let base := drainBase u p
  let stride := p.destStride.toNat
  let s := if p.mode = 0 then
      match fmtOf p.fmtOut.toNat with
      | none => s
      | some c =>
        let out := outRows c rows
        let s := writeRows w base stride 0 (out.map (·.1)) s
        let s := if c.scaled then writeRows w (base + rows.length * stride) (ceilDiv cols 32) 0 (out.map (·.2.1)) s else s
        let s := event s u 0x1003 w.ctx ((out.map (·.2.2.1)).foldl (· + ·) 0)
        event s u 0x1004 w.ctx ((out.map (·.2.2.2)).foldl (· + ·) 0)
    else (indexed 0 rows).foldl (fun s r => accRow w p.mode.toNat u part r.1 (base + r.1 * stride) (indexed 0 r.2) s) s
  if p.stats = 0 then s else statApply s w p.statSlot.toNat (drainStats u p (drainElem p) rows cols)

/-! ## MM_DRAIN -/

/-- Bytes of one row of a drain's output. -/
def drainRowBytes (p : PMmDrain) (cols : Nat) : Nat :=
  if p.mode = 3 then 16 * cols else if p.mode != 0 then 8 * cols else fmtRow p.fmtOut.toNat cols

/-- Whether DEST_STRIDE fits MODE and format (04 R112, R115). -/
def drainStride (p : PMmDrain) (cols : Nat) : Bool :=
  let st := p.destStride.toNat
  drainRowBytes p cols ≤ st && (p.mode = 0 || st % (if p.mode = 3 then 16 else 8) = 0)

/-- Checks of MM_DRAIN (02 R54, R414; 03 R73, R86; 04 R112, R115; 11 R296). Results that a quarantined engine holds may still
be drained (05 R136). -/
def preMmDrain (h : Hdr) (p : PMmDrain) (s : State) : Pre :=
  let u := p.engine.toNat
  let (n, _, c) := shapeDims (shapeOf s u)
  { fields := [(0x20, isKind 1 u), (0x24, !isKind 1 u || p.part.toNat < n),
      (0x25, drainOutput p.fmtOut.toNat && (p.mode = 0 || 3 < p.mode.toNat || p.fmtOut = 0x0B)), (0x26, p.mode.toNat ≤ 3),
      (0x28, p.mode = 0 || p.destAddr.toNat + drainRowBytes p c ≤ 0x4000000),
      (0x30, drainStride p c), (0x34, statSlotOk p.statSlot.toNat)]
    units := [(0x20, u)]
    ranges := if p.mode = 0 then [(0x28, p.destAddr.toNat, drainElem p, pWrite)] else []
    limits := [(p.stats = 0 || slotOk s h.ctx.toNat p.statSlot.toNat, BAD_STATE, 0x34)]
    unit := u, part := p.part.toNat
    ready := (partFields (shapeOf s u) p.part.toNat).map (fun f => uid 2 (uDie u) (16 * uInst u + f)) ++
      (if (health s u).quarantined then [] else [u]) }

/-- Checks made once the drain is bound to its result (02 R414; 03 R91; 04 R111). -/
def drainChecks (s : State) (c u : Nat) (p : PMmDrain) (r : Res) (rows cols : Nat) : Option End :=
  let n := if r.dataflow = 1 then r.t else rows
  let f := p.fmtOut.toNat
  if r.limb != 0 && p.mode != 0 then some (fails BAD_STATE 0x26)
  else if (f = 0 && r.limb != 3) || (f = 0x0B && r.limb != 0) then some (fails BAD_STATE 0x25)
  else
    let len := span n p.destStride.toNat (drainRowBytes p cols)
    if p.mode = 0 then
      let len := if scaledFmt f then n * p.destStride.toNat + n * ceilDiv cols 32 else len
      (access s c u p.destAddr.toNat len pWrite).map (fun st => fails st 0x28)
    else if 0x4000000 < p.destAddr.toNat + len then some (fails OUT_OF_RANGE 0x28)
    else if inUse s (uDie u) p.destAddr.toNat len then some (fails BAD_STATE 0x28) else none

/-- Checks per evaluation of a result (05 R122). -/
def resChecks (r : Res) (rows cols : Nat) : Nat :=
  if r.dataflow = 1 then r.t else (rows + cols) * (if r.limb = 0 then 1 else antiDiagonals r.limb)

/-- Rebuild a result from its pass log with operands read anew (05 R131, 04 R117). -/
def replayRes (s : State) (u sh : Nat) (r : Res) : Res :=
  r.log.foldl (fun acc p => passAdd s u p sh acc)
    { r with k := 0, log := [], passes := 0, vals := [], limbs := [], sA := dy0, sB := dy0, m := [], n := [], rW := dy0,
             sX := [], maxA := [], maxB := [] }

/-- The first poisoned block that a replay would read (08 R241). -/
def replayPoison (s : State) (sh : Nat) (r : Res) : Option Nat :=
  r.log.foldl (fun a p => match a with | some c => some c | none => passPoison s p sh) none

/-- The end of a drain that wrote its result with a verdict (04 R115, R116). -/
def drainEnd (verdict checks corr reps : Nat) (extra : List (Nat × Nat)) : End :=
  { status := DONE, verdict := verdict, checks := checks, corrections := corr, replays := reps, record := (0x50, checks) :: extra }

/-- Free a set. -/
def freeRes (s : State) (u part : Nat) (y : Bool) : State := modPart s u part (fun pt => putSet pt y none)

/-- Write out the result of a drain and free its set (04 R114 order 8). A destination block that is poisoned and would be
written in part ends MEMORY_POISONED (08 R241). -/
def drainWrite (s : State) (j : Job) (p : PMmDrain) (y : Bool) (r : Res) (es : List ElemErr) (e : End) : State × End :=
  let u := j.unit
  let (_, rr, c) := shapeDims (shapeOf s u)
  let n := if r.dataflow = 1 then r.t else rr
  let s := freeRes s u j.part y
  match rowsPartial s (drainBase u p) p.destStride.toNat (drainRowBytes p c) n with
  | some ch => (s, fails MEMORY_POISONED ch)
  | none => (writeOut s (whoOf j) u j.part c p (resRows s.free r es), e)

/-- Ledger an event of the checker: 0 referee, 1 failed, 2 borrow (05 R134, 13 R356). -/
def checkEvent (s : State) (die engine field ctx : Nat) : State := ledger die (hwOrigin die) 5 engine field ctx 0 0 ctx s

/-- What a drain comes to. -/
abbrev DrainRes := State × (End ⊕ Phase)

/-- Put a drain's result back with a note, and wait for a borrowed partition (05 R133). -/
def drainBorrow (s : State) (j : Job) (y : Bool) (r : Res) (stage : Nat) : DrainRes :=
  (modPart s j.unit j.part (fun pt => putSet pt y (some { r with drain := some j.id })), .inr (.waitBorrow stage))

/-- The drain of a bound result: check, correct or replay, then write (04 R114, R115; 05 R125-R131). -/
def drainRun (s : State) (j : Job) (p : PMmDrain) (f : Faults) (y : Bool) (r : Res) : DrainRes :=
  let u := j.unit
  let sh := shapeOf s u
  let (_, rr, c) := shapeDims sh
  let ck := resChecks r rr c
  let write (s : State) (r : Res) (es : List ElemErr) (e : End) : DrainRes :=
    let (s, e) := drainWrite s j p y r es e
    (s, .inl e)
  if checkClean r rr c f.errs then write s r f.errs (drainEnd 1 ck 0 0 [])
  else
    let s := event s u 0x1005 (j.ring / 256) 1
    let fix := (correctable r rr c f.errs).filter (fun x => checkClean r rr c (without x.1 x.2 f.errs))
    match fix with
    | some (i, jj) =>
      let s := charge u 1 (count s u 0x28 1)
      let s := count (count s (uid 2 (uDie u) (16 * uInst u + i / 64 * 4 + jj / 64)) 0x18 1) (uid 2 (uDie u) (16 * uInst u + i / 64 * 4 + jj / 64)) 0x14 1
      write s r (without i jj f.errs) (drainEnd 2 (ck + 2) 1 0 [])
    | none =>
      if 1024 < r.passes then (freeRes (checkEvent s (uDie u) u 1 (j.ring / 256)) u j.part y, .inl (checkFailed u ck [(0x50, ck)]))
      else match replayPoison s sh r with
        | some ch => (freeRes s u j.part y, .inl (fails MEMORY_POISONED ch))
        | none =>
          if (health s u).quarantined then drainBorrow s j y { r with used := [u] } 2
          else
            let s := count s u 0x2C 1
            let r' := replayRes s u sh r
            if checkClean r' rr c f.errs1 then
              write (charge u 2 s) r' f.errs1 (drainEnd 3 (2 * ck) 0 1 [])
            else
              drainBorrow (charge u 8 s) j y { r' with used := [u, u] } 2

/-- MM_DRAIN at the front of its partition's queue: bind it to its result and run it (02 R55, 04 R107, R114). The result of a
bubble tenant that was preempted is gone (02 R62). -/
def startDrain (s : State) (u pi : Nat) (j : Job) (p : PMmDrain) (f : Faults) : Option DrainRes :=
  let c := j.ring / 256
  let pt := partOf s u pi
  match oldestUndrained pt c with
  | none =>
    if pt.preempted.contains c then
      some (modPart s u pi (fun pt => { pt with preempted := pt.preempted.erase c }), .inl (fails CANCELLED 0))
    else some (s, .inl (fails BAD_STATE 0x24))
  | some y =>
    if pt.exec.any (fun e => e.2 == y) then none
    else match setOf pt y with
      | none => some (s, .inl (fails BAD_STATE 0x24))
      | some r => match r.bad with
        | some (st, d) => some (freeRes s u pi y, .inl (spoiledEnd st d u))
        | none =>
          let (_, rr, cc) := shapeDims (shapeOf s u)
          match drainChecks s c u p r rr cc with
          | some e => some (s, .inl e)
          | none => some (drainRun s j p f y r)

/-! ## The partition's queue (02 R46, R47; 04 R97) -/

/-- The oldest queued job of each ring. -/
def queueHeads : List Job → List Job
  | [] => []
  | j :: js => j :: (queueHeads js).filter (fun k => k.ring != j.ring)

/-- The queued command that runs next (02 R47). -/
def nextQueued (s : State) (u pi : Nat) : Option Job :=
  let js := queueHeads ((partOf s u pi).queue.filterMap (jobOf s))
  match chooseRing (lastServed s u pi) (js.map (fun j => rank47 s j.ring j.cmd)) with
  | none => none
  | some x => js.find? (fun j => j.ring == x.1)

/-- Take a job out of its partition's queue. -/
def dequeue (s : State) (u pi id : Nat) : State := modPart s u pi (fun pt => { pt with queue := pt.queue.filter (· != id) })

/-- Take the outcome of a drain. -/
def drainOutcome (j : Job) (r : DrainRes) : State :=
  match r.2 with
  | .inl e => endJob r.1 j.id { e with replays := e.replays + j.replays }
  | .inr ph => modJob r.1 j.id (fun k => { k with phase := ph, replays := k.replays + 1 })

/-- Start what the partition's queue allows to start: the next command, while it can (02 R46, 04 R107, R114). -/
def pump (u pi : Nat) : Nat → State → State
  | 0, s => s
  | n + 1, s =>
    match nextQueued s u pi with
    | none => s
    | some j =>
      let s1 := serve (dequeue s u pi j.id) u pi j.ring
      match j.cmd with
      | .mmPass _ p _ =>
        if (partOf s u pi).exec.isSome then s
        else match startPass s1 u pi j p with
          | .wait => s
          | .started s2 => pump u pi n s2
          | .ended s2 e => pump u pi n (endJob s2 j.id e)
      | .mmDrain _ p f => match startDrain s1 u pi j p f with
        | none => s
        | some r => pump u pi n (drainOutcome j r)
      | _ => pump u pi n s1

/-- Let a partition go on, and write the replies of what ended. -/
def pumpPart (u pi : Nat) (s : State) : State := pump u pi ((partOf s u pi).queue.length + 1) s

/-- A pass or drain joins its partition's queue (04 R97); the queue's occupancy counts the arrival (15 R389). -/
def runQueued (j : Job) (s : State) : RunRes :=
  let s := arrival s j.unit 0x1080 (j.ring / 256)
  waits (modPart s j.unit j.part (fun pt => { pt with queue := pt.queue ++ [j.id] })) .inUnit

/-- MM_PASS (02 R53): it begins when its partition's queue reaches it; its completion token ends it. -/
def execMmPass (h : Hdr) (p : PMmPass) (f : Faults) (s : State) : Host.Outcome State Fault Refusal :=
  .next (settle (pumpPart p.engine.toNat p.part.toNat (arrive (preMmPass h p s) runQueued (.mmPass h p f) s)))

/-- MM_DRAIN (02 R53). -/
def execMmDrain (h : Hdr) (p : PMmDrain) (f : Faults) (s : State) : Host.Outcome State Fault Refusal :=
  .next (settle (pumpPart p.engine.toNat p.part.toNat (arrive (preMmDrain h p s) runQueued (.mmDrain h p f) s)))

/-! ## Completion and faults (04 R114, R116, R119) -/

/-- Invalidate a result (04 R109, R116, R119). -/
def spoil (st d : Nat) (r : Option Res) : Option Res := r.map (fun r => { r with bad := some (st, d) })

/-- A fault in a partition (04 R119): the executing pass ends UNIT_FAULT, both results are invalidated, a faulting field
leaves service. The points of UNIT_FAULT are charged once, with the pass or, where none executes, here (05 R135). -/
def partFault (s : State) (u pi hit : Nat) : State :=
  let pt := partOf s u pi
  let d := if uKind hit = 2 && fieldEngine hit = u && (partFields (shapeOf s u) pi).contains (uInst hit % 16) then hit else u
  let held := pt.x.isSome || pt.y.isSome
  let s := modPart s u pi (fun pt => { pt with exec := none, x := spoil UNIT_FAULT d pt.x, y := spoil UNIT_FAULT d pt.y })
  let s := match pt.exec with | some (id, _) => endJob s id (unitFault d) | none => charge d (if held then 16 else 0) s
  let s := count s u 0x30 1
  if d = u then s else setReady d false 10 (count s d 0x14 1)

/-- The last wavefront and the token have passed: the operands are in, the pass ends with the load side's verdict (04 R114,
R116; 05 R122). -/
def passDone (s : State) (u pi : Nat) (j : Job) (p : PMmPass) (f : Faults) (y : Bool) : State :=
  let sh := shapeOf s u
  let (_, rr, _) := shapeDims sh
  let clear (s : State) : State := modPart s u pi (fun pt => { pt with exec := none })
  let spoilSet (st d : Nat) (s : State) : State := modPart s u pi (fun pt => putSet pt y (spoil st d (setOf pt y)))
  let ck := passChecks p sh
  match passPoison s p sh with
  | some ch => endJob (spoilSet MEMORY_POISONED ch (clear s)) j.id (fails MEMORY_POISONED ch)
  | none =>
    if 2 ≤ f.mismatch then endJob (spoilSet CHECK_FAILED u (clear s)) j.id (checkFailed u ck [(0x78, ck)])
    else
      let s' := modPart s u pi (fun pt => putSet pt y ((setOf pt y).map (passAdd s u p sh)))
      let s' := count (count s' u 0x18 1) u 0x20 (streamBeats p rr)
      let s' := event s' u 0x1001 (j.ring / 256) (streamBeats p rr)
      let b := loadB s u p (passRows p rr) (shapeDims sh).2.2
      let s' := if p.statSlot.toNat = 0xFFFF then s' else
        statApply s' (whoOf j) p.statSlot.toNat
          { sumsq := some (sumSquares b.flatten), maxabs := some (maxAbs b.flatten, u), count := b.flatten.length }
      let s' := if f.mismatch = 1 then charge u 1 s' else s'
      endJob (clear s') j.id (doneChecked 1 (ck + min 1 f.mismatch) 0x78 0)

/-- COMPLETION_TOKEN: the token of the pass in execution reaches the drain edge, unless a fault of the partition comes first;
the queue goes on (04 R114, R119). -/
def execCompletionToken (engine : Word32) (part : Byte) (f : Faults) (s : State) : Host.Outcome State Fault Refusal :=
  let u := engine.toNat
  let pi := part.toNat
  .next (settle (match (partOf s u pi).exec with
    | none => s
    | some (id, y) => match jobOf s id with
      | none => modPart s u pi (fun pt => { pt with exec := none })
      | some j => match f.hit with
        | some hit => pumpPart u pi (partFault s u pi hit.toNat)
        | none => match j.cmd with
          | .mmPass _ p f0 => pumpPart u pi (passDone s u pi j p (if f = {} then f0 else f) y)
          | _ => s))

/-! ## Borrowed partitions (05 R131-R133) -/

/-- The first partition of an engine that can be borrowed: idle, with a free set, its fields ready (05 R133). -/
def borrowPart (s : State) (u sh : Nat) : Nat → Option Nat
  | 0 => none
  | n + 1 =>
    match borrowPart s u sh n with
    | some p => some p
    | none =>
      let pt := partOf s u n
      if pt.exec.isNone && (freeSet pt).isSome && (partReady s u n).all (unitReady s) then some n else none

/-- The first engine of a list with a partition to borrow (05 R133). -/
def borrowFrom (s : State) (sh : Nat) (used : List Nat) : List Nat → Option Nat
  | [] => none
  | u :: us =>
    if !used.contains u && shapeOf s u = sh && (borrowPart s u sh (shapeDims sh).1).isSome then some u
    else borrowFrom s sh used us

/-- The engines in the order the checker looks: its own die first (05 R133). -/
def borrowOrder (die : Nat) : List Nat :=
  (die :: (List.range 8).filter (· != die)).flatMap (fun d => (List.range 16).map (fun e => uid 1 d e))

/-- The second replay on a borrowed engine (05 R131): taken alone when the first was skipped, taken when it agrees with the
first, else the referee. -/
def secondReplay (s : State) (j : Job) (p : PMmDrain) (f : Faults) (y : Bool) (r : Res) (b : Nat) (errs1 : List ElemErr) :
    DrainRes :=
  let sh := shapeOf s j.unit
  let (_, rr, c) := shapeDims sh
  let ck := resChecks r rr c
  let skipped := r.used.length < 2
  let r' := replayRes s j.unit sh r
  let s := count s b 0x2C 1
  let r'' := { r' with used := b :: r.used, second := f.errs2 }
  if checkClean r' rr c f.errs2 then
    if skipped || agree r' errs1 f.errs2 then
      let (s, e) := drainWrite s j p y r' f.errs2 (drainEnd 3 ((if skipped then 2 else 3) * ck) 0 1 [])
      (s, .inl e)
    else drainBorrow s j y r'' 3
  else drainBorrow (charge b 8 s) j y r'' 3

/-- The referee on a third engine (05 R131): the second replay is taken when every element agrees, else the first, else the
drain ends CHECK_FAILED. A result is charged once, for its own check or for its rejection (05 R135). -/
def referee (s : State) (j : Job) (p : PMmDrain) (f : Faults) (y : Bool) (r : Res) (b : Nat) (errs1 : List ElemErr) :
    DrainRes :=
  let (_, rr, c) := shapeDims (shapeOf s j.unit)
  let ck := resChecks r rr c
  let d := uDie j.unit
  let ctx := j.ring / 256
  let two := match r.used with | e :: _ => e | [] => j.unit
  let skipped := r.used.length < 3
  let take (s : State) (es : List ElemErr) : DrainRes :=
    let s := checkEvent s d b 0 ctx
    let (s, e) := drainWrite s j p y r es (drainEnd 4 (3 * ck) 0 0 [(0x20, 1)])
    (s, .inl e)
  if agree r r.second f.errsRef then take s r.second
  else
    let s := charge two (if checkClean r rr c r.second then 8 else 0) s
    if !skipped && agree r errs1 f.errsRef then take s errs1
    else
      (freeRes (checkEvent s d b 1 ctx) j.unit j.part y, .inl (checkFailed b (3 * ck) [(0x50, 3 * ck), (0x20, 1)]))

/-- Fill the error lists that a borrowing event brings. -/
def joinFaults (f0 f : Faults) : Faults :=
  { f0 with errs2 := if f.errs2.isEmpty then f0.errs2 else f.errs2, errsRef := if f.errsRef.isEmpty then f0.errsRef else f.errsRef,
            borrowFault := f.borrowFault }

/-- The fault of a borrowed partition: its containment, and the job's note of the engine (05 R133, 04 R119). -/
def borrowFaulted (s : State) (j : Job) (stage b : Nat) (f : Faults) : State :=
  let sh := shapeOf s b
  let s := match borrowPart s b sh (shapeDims sh).1 with
    | some pi => partFault s b pi ((f.hit.map (·.toNat)).getD b)
    | none => s
  modJob s j.id (fun k => { k with faulted := b :: k.faulted, refFaults := if stage = 3 then k.refFaults + 1 else k.refFaults })

/-- BORROW_PARTITION for a drain: it takes the first qualifying partition, and its second replay or its referee runs there
(05 R131-R133). A borrowed partition that faults is contained as any partition is and its engine is not tried again; a second
fault during the same referee ends CHECK_FAILED. -/
def borrowDrain (j : Job) (stage : Nat) (p : PMmDrain) (f0 f : Faults) (s : State) : State :=
  let u := j.unit
  let pt := partOf s u j.part
  let y := pt.y.any (fun r => r.drain == some j.id)
  match setOf pt y with
  | none => s
  | some r => match borrowFrom s (shapeOf s u) (u :: r.used ++ j.faulted) (borrowOrder (uDie u)) with
    | none => s
    | some b =>
      let s := checkEvent s (uDie u) b 2 (j.ring / 256)
      let fl := joinFaults f0 f
      if fl.borrowFault then
        let s := borrowFaulted s j stage b f
        if stage = 3 && 1 ≤ j.refFaults then
          pumpPart u j.part (drainOutcome j (freeRes (checkEvent s (uDie u) b 1 (j.ring / 256)) u j.part y, .inl (checkFailed b)))
        else s
      else match replayPoison s (shapeOf s u) r with
        | some ch => pumpPart u j.part (drainOutcome j (freeRes s u j.part y, .inl (fails MEMORY_POISONED ch)))
        | none =>
          pumpPart u j.part (drainOutcome j (if stage = 2 then secondReplay s j p fl y r b fl.errs1 else referee s j p fl y r b fl.errs1))

/-! ## MM_ABORT (04 R118) -/

/-- Checks of MM_ABORT (02 R54, 04 R118). -/
def preMmAbort (p : PMmAbort) (s : State) : Pre :=
  let u := p.engine.toNat
  { fields := [(0x20, isKind 1 u), (0x24, !isKind 1 u || p.part = 0xFF || p.part.toNat < (shapeDims (shapeOf s u)).1)]
    units := [(0x20, u)], unit := u }

/-- Cancel a context's commands and results on one partition (04 R118). -/
def abortPart (c u pi : Nat) (e : End) (s : State) : State :=
  let pt := partOf s u pi
  let mine (id : Nat) : Bool := match jobOf s id with | some j => j.ring / 256 == c | none => true
  let drains := s.gz.jobs.filter (fun j => j.unit == u && j.part == pi && j.ring / 256 == c &&
    (match j.phase, j.cmd with
      | .waitBorrow _, _ => true
      | .waitReady, .mmPass _ _ _ => true
      | .waitReady, .mmDrain _ _ _ => true
      | _, _ => false))
  let gone := (match pt.exec with | some (id, _) => if mine id then [id] else [] | none => []) ++
    pt.queue.filter mine ++ drains.map (·.id)
  let keep (r : Option Res) : Option Res := match r with | some r => if r.ctx = c then none else some r | none => none
  let s := modPart s u pi (fun pt =>
    { pt with exec := match pt.exec with | some (id, y) => if mine id then none else some (id, y) | none => none
              queue := pt.queue.filter (fun id => !mine id), x := keep pt.x, y := keep pt.y, nextY := false
              preempted := pt.preempted.filter (· != c) })
  gone.foldl (fun s id => endJob s id e) s

/-- Do something on partitions n − 1 down to 0. -/
def eachPart (f : Nat → State → State) : Nat → State → State
  | 0, s => s
  | n + 1, s => f n (eachPart f n s)

/-- MM_ABORT acts on the issuing context's commands and results on the named partitions only (04 R118). -/
def runMmAbort (p : PMmAbort) (j : Job) (s : State) : RunRes :=
  let u := p.engine.toNat
  let c := j.ring / 256
  let e := fails CANCELLED 0x0103
  let n := (shapeDims (shapeOf s u)).1
  let s := if p.part = 0xFF then eachPart (fun i s => pumpPart u i (abortPart c u i e s)) n s
    else pumpPart u p.part.toNat (abortPart c u p.part.toNat e s)
  ends s (done 0)

/-- MM_ABORT (02 R53). -/
def execMmAbort (h : Hdr) (p : PMmAbort) (s : State) : Host.Outcome State Fault Refusal :=
  .next (issue (preMmAbort p s) (runMmAbort p) (.mmAbort h p) s)

/-! ## Tenant preemption (02 R62) -/

/-- TENANT_PREEMPT_TIMER: a tenant pass still running 36 µs after another context's packet became ready for its partition is
cancelled, its result discarded and a dispatched drain of it cancelled (02 R62). On a DMA engine the model's descriptors run
in one step, so none is ever running. -/
def execTenantPreemptTimer (unit : Word32) (part : Byte) (s : State) : Host.Outcome State Fault Refusal :=
  let u := unit.toNat
  let pi := part.toNat
  let pt := partOf s u pi
  .next (settle (match pt.exec with
    | none => s
    | some (id, y) => match jobOf s id with
      | none => s
      | some j =>
        let c := j.ring / 256
        let waiting := (pt.queue.filterMap (jobOf s)).any (fun k => !isTenant s (k.ring / 256))
        if isTenant s c && waiting then
          let drains := (pt.queue.filterMap (jobOf s)).filter (fun k =>
            k.ring / 256 == c && (match k.cmd with | .mmDrain _ _ _ => true | _ => false))
          let s := modPart s u pi (fun pt => putSet { pt with exec := none, queue := pt.queue.filter (fun q => !drains.any (fun k => k.id == q)) } y none)
          let s := drains.foldl (fun s k => endJob s k.id (fails CANCELLED 0)) (endJob s id (fails CANCELLED 0))
          pumpPart u pi s
        else s))

end Sys2Proof.Machine
end

