-- ==== Sys2Proof/Machine/Chains.lean ====
section
/-! DEFINITION. Chain reductions (11 R303-R305; 05 R141; 12 R336): a member's command, the pieces it receives and sends, and
aborts. -/

namespace Sys2Proof.Machine

/-! ## Values -/

/-- Formats of a chain (11 R304). -/
def chainFmt (c : Nat) : Bool := c = 1 || c = 2 || c = 3 || c = 9 || c = 0xA
/-- The element of a chain's format. -/
def chainElem (c : Nat) : Elem := addElemOf c
where
  /-- The element a format code stores. -/
  addElemOf (c : Nat) : Elem := match fmtOf c with | some f => f.elem | none => .int 64
/-- Bytes of an element of a chain's format. -/
def chainSize (c : Nat) : Nat := match fmtOf c with | some f => f.bitsN / 8 | none => 8
/-- Bytes of one pair of 08 R239. -/
def pairSize (c : Nat) : Nat := if c = 0xA then 16 else 8
/-- Bytes of one running value: a W48 container, an integer, or a pair (11 R304). -/
def runSize (op fmt : Nat) : Nat := if op = 0 then (if fmt = 9 then 4 else 8) else pairSize fmt
/-- Elements of a 64 KiB piece. -/
def pieceLen (op fmt : Nat) : Nat := 65536 / runSize op fmt
/-- Pieces of a chain. -/
def pieceCount (p : PChainReduce) : Nat := ceilDiv p.elements.toNat (pieceLen p.op.toNat p.fmt.toNat)

/-- Whether a chain sums floating-point values, which the checksum of 05 R141 covers. -/
def floatSum (p : PChainReduce) : Bool := p.op = 0 && p.fmt.toNat ≤ 3

/-- This member's contribution to a piece, as running values: W48 containers, integers, or pairs with its position. -/
def ownPiece (s : State) (u : Nat) (p : PChainReduce) (k : Nat) : List (Nat × Nat) :=
  let n := pieceLen p.op.toNat p.fmt.toNat
  let sz := chainSize p.fmt.toNat
  let cnt := min n (p.elements.toNat - k * n)
  (List.range cnt).map (fun i =>
    let c := readNat s u (p.srcAddr.toNat + (k * n + i) * sz) sz
    if floatSum p then (w48Code (typeVal (chainElem p.fmt.toNat) c), 0) else (c, p.position.toNat))

/-- One running value combined with this member's (11 R304). -/
def joinVal (p : PChainReduce) (x y : Nat × Nat) : Nat × Nat :=
  let e := chainElem p.fmt.toNat
  if floatSum p then (w48Code (fAdd (w48Val x.1) (w48Val y.1)), 0)
  else if p.op = 0 then ((adderAdd e x.1 y.1).1, 0)
  else if pairWins (p.op = 1) (typeVal e y.1) y.2 (typeVal e x.1) x.2 then y else x

/-- Running values as a message carries them. -/
def toVals (l : List (Nat × Nat)) : List (Word64 × Word32) := l.map (fun x => (BitVec.ofNat 64 x.1, BitVec.ofNat 32 x.2))
/-- Running values of a message. -/
def ofVals (l : List (Word64 × Word32)) : List (Nat × Nat) := l.map (fun x => (x.1.toNat, x.2.toNat))

/-- The element sum and the absolute element sum of W48 containers (05 R141). -/
def pieceSums (l : List (Nat × Nat)) : FVal × FVal :=
  (w48Sum (l.map (fun x => w48Val x.1)), w48Sum (l.map (fun x => fAbs (w48Val x.1))))

/-- τ_ch at position p over E elements with absolute sum A (05 R141). -/
def tauChain (p e : Nat) (a : Dy) : Dy := dyTimes (2 * (p + e + 2)) (dyAdd ⟨a.m, a.e - 39⟩ ⟨1, -293⟩)

/-- Whether the received running sum agrees with its checksum; sums that are not finite are not compared (05 R141). -/
def chainClean (p : PChainReduce) (got : List ChainMsg) : Bool :=
  !floatSum p || (match got.find? (fun m => m.piece + 1 == pieceCount p) with
    | none => true
    | some l =>
      let v := w48Sum ((got.flatMap (fun m => ofVals m.vals)).map (fun x => w48Val x.1))
      let c := w48Val l.chk.toNat
      let a := w48Val l.absSum.toNat
      !fFinite v || !fFinite c || !fFinite a ||
        dyLe (dyAbs (dySub (fDy v) (fDy c))) (tauChain p.position.toNat p.elements.toNat (dyAbs (fDy a))))

/-! ## Chains of a die -/

/-- The chains of a die. -/
def chainsOf (s : State) (die : Nat) : List Chain := amGet [] s.chains die
/-- Change the chains of a die. -/
def modChains (s : State) (die : Nat) (f : List Chain → List Chain) : State := { s with chains := amMod [] s.chains die f }
/-- The chain of an identifier that is open on a die. -/
def openChain (s : State) (die id : Nat) : Option Chain := (chainsOf s die).find? (fun c => c.cmd.chainId.toNat == id && !c.ended)
/-- Change a chain by its job. -/
def modChain (s : State) (die job : Nat) (f : Chain → Chain) : State :=
  modChains s die (fun l => l.map (fun c => if c.job == job then f c else c))

/-- Send a chain message to a member: to a die of this device, or over the links. -/
def toMember (m : Option (Nat × Nat)) (f : Nat → Nat → NetMsg) (s : State) : State :=
  match m with
  | some (d, die) => send s (f d die)
  | none => s

/-- Send a chain abort both ways along the chain: to every other member (11 R305). -/
def abortAll (c : Chain) (failed : Option Nat) (s : State) : State :=
  (indexed 0 c.members).foldl (fun s m =>
    if m.1 = c.cmd.position.toNat then s else send s (.chainAbort c.cmd.chainId.toNat failed m.2.1 m.2.2)) s

/-- The outgoing message of a piece (11 R304; 05 R141). The last piece carries the running checksum and absolute sum. -/
def outMsg (p : PChainReduce) (k : Nat) (vals : List (Nat × Nat)) (chk absSum : FVal) : ChainMsg :=
  let last := k + 1 = pieceCount p
  { chainId := p.chainId, op := p.op, fmt := p.fmt, elements := p.elements, length := p.length, fromPos := p.position
    piece := k, vals := toVals vals
    chk := if last && floatSum p then BitVec.ofNat 64 (w48Code chk) else 0
    absSum := if last && floatSum p then BitVec.ofNat 64 (w48Code absSum) else 0 }

/-! ## The member table (11 R303) -/

/-- The member table of a command as read from memory: header, then (DEVICE, DIE) of each member. -/
def tableBytes (s : State) (u : Nat) (p : PChainReduce) : List Byte := readBytes s u p.chainAddr.toNat (64 + 8 * p.length.toNat)

/-- The members of a table. -/
def tableMembers (b : List Byte) (n : Nat) : List (Nat × Nat) := (List.range n).map (fun i => (fld b (0x40 + 8 * i) 2, fld b (0x42 + 8 * i) 1))

/-- The offset of the first byte of a table that breaks 00 R9 or 11 R303. -/
def tableBad (b : List Byte) (n : Nat) : Option Nat :=
  if fld b 0x08 4 = 0 || 16777216 < fld b 0x08 4 then some 0x08
  else if !statSlotOk (fld b 0x0C 2) then some 0x0C
  else if 7 < fld b 0x0E 1 || (fld b 0x06 1 != 0 && fld b 0x0E 1 != 0) then some 0x0E
  else if fld b 0x0F 1 != 0 then some 0x0F
  else if fld b 0x10 8 % 64 != 0 then some 0x10
  else match (List.range 40).find? (fun i => fld b (0x18 + i) 1 != 0) with
    | some i => some (0x18 + i)
    | none => ((List.range n).findSome? (fun i =>
        if 8191 < fld b (0x40 + 8 * i) 2 then some (0x40 + 8 * i)
        else if 7 < fld b (0x42 + 8 * i) 1 then some (0x42 + 8 * i)
        else ((List.range 5).find? (fun k => fld b (0x43 + 8 * i + k) 1 != 0)).map (fun k => 0x43 + 8 * i + k)))

/-- The first disagreement of a command with its table (11 R305). -/
def tableDiffers (s : State) (die : Nat) (p : PChainReduce) (b : List Byte) : Option Nat :=
  let pos := p.position.toNat
  if fld b 0x08 4 != p.elements.toNat then some 0x38
  else if fld b 0 4 != p.chainId.toNat then some 0x3C
  else if fld b 0x06 1 != p.op.toNat then some 0x40
  else if fld b 0x07 1 != p.fmt.toNat then some 0x41
  else if fld b (0x40 + 8 * pos) 2 != myDevice s || fld b (0x42 + 8 * pos) 1 != die then some 0x42
  else if fld b 0x04 2 != p.length.toNat then some 0x44
  else none

/-! ## CHAIN_REDUCE -/

/-- Checks of CHAIN_REDUCE (02 R56; 11 R303, R304). -/
def preChainReduce (h : Hdr) (p : PChainReduce) (s : State) : Pre :=
  let n := p.elements.toNat
  let f := p.fmt.toNat
  let out := if p.op = 0 then n * chainSize f else n * pairSize f
  { preCore h s with
    fields := [(0x38, 1 ≤ n && n ≤ 16777216), (0x40, p.op.toNat ≤ 2), (0x41, chainFmt f),
      (0x42, p.position.toNat < p.length.toNat), (0x44, 2 ≤ p.length.toNat && p.length.toNat ≤ 8192)]
    ranges := [(0x20, p.srcAddr.toNat, n * chainSize f, pRead)] ++
      (if p.position.toNat + 1 = p.length.toNat then [(0x28, p.dstAddr.toNat, out, pWrite)] else []) ++
      [(0x30, p.chainAddr.toNat, 64 + 8 * p.length.toNat, pRead)] }

/-- Close a member's chain: its command ends, and its outgoing data is kept (05 R141). -/
def closeChain (die job : Nat) (e : End) (s : State) : State :=
  endJob (modChain s die job (fun c => { c with ended := true, got := [] })) job e

/-- The counts of a member's reply: one check per hop it has closed (05 R122). -/
def chainEnd (c : Chain) : End :=
  let n := if c.cmd.position = 0 then 0 else if c.resent then 2 else 1
  { doneChecked (if c.resent then 3 else 1) n 0x70 with replays := b2n c.resent }

/-- Send one outgoing piece to the next member and keep it (11 R304). -/
def sendPiece (die : Nat) (c : Chain) (m : ChainMsg) (s : State) : State :=
  let s := toMember (c.members[c.cmd.position.toNat + 1]?) (fun d x => .chain m d x) s
  modChain s die c.job (fun c => { c with sent := c.sent.filter (fun x => x.piece != m.piece) ++ [m] })

/-- The member at position 0 sends its own contribution, piece by piece (11 R304). -/
def sendOwn (die u : Nat) (c : Chain) (chk absSum : FVal) : Nat → State → State
  | 0, s => s
  | n + 1, s =>
    let k := pieceCount c.cmd - (n + 1)
    sendOwn die u c chk absSum n (sendPiece die c (outMsg c.cmd k (ownPiece s u c.cmd k) chk absSum) s)

/-- Every running value this member contributes. -/
def ownAll (s : State) (u : Nat) (p : PChainReduce) : List (Nat × Nat) :=
  (List.range (pieceCount p)).flatMap (ownPiece s u p)

/-- The unit ID that stands for a member: the die block of its compute die (01 R18). -/
def memberUnit (c : Chain) (pos : Nat) : Nat := uid 0 ((c.members[pos]?).getD (0, 0)).2 0

/-- Whether the hop to or from a neighbour has a way (11 R305, 12 R334). -/
def hopOk (s : State) (c : Chain) (pos : Nat) : Bool :=
  match c.members[pos]? with
  | some (d, _) => reachable s d
  | none => true

/-- Open a chain whose table agrees: the first member sends at once, the others wait for pieces (11 R304, R305). A hop over
links that are down ends LINK_LOST. -/
def openMember (die : Nat) (j : Job) (p : PChainReduce) (b : List Byte) (s : State) : State × Option End :=
  let c : Chain := { job := j.id, ctx := j.ring / 256, cmd := p, members := tableMembers b p.length.toNat
                     stats := fld b 0x0E 1, statSlot := fld b 0x0C 2, got := [], sent := [], resent := false, ended := false }
  let pos := p.position.toNat
  if !hopOk s c (pos + 1) || (pos != 0 && !hopOk s c (pos - 1)) then (s, some (fails LINK_LOST 0))
  else
    let s := modChains s die (fun l => l.filter (fun x => x.cmd.chainId != p.chainId || !x.ended) ++ [c])
    let s := markUndef s [(fld b 0x10 8, 16 * p.elements.toNat)]
    if pos != 0 then (s, none)
    else
      let (chk, ab) := pieceSums (ownAll s j.unit p)
      let s := sendOwn die j.unit c chk ab (pieceCount p) s
      (modChain s die j.id (fun c => { c with ended := true }), some (chainEnd c))

/-- CHAIN_REDUCE is checked against its table and opens, or waits its turn (11 R305). -/
def tryChain (p : PChainReduce) (j : Job) (s : State) : RunRes :=
  let die := uDie j.unit
  let u := j.unit
  if (openChain s die p.chainId.toNat).isSome || 16 ≤ ((chainsOf s die).filter (fun c => !c.ended)).length then
    waits s (.chain false)
  else match poisonIn s p.chainAddr.toNat (64 + 8 * p.length.toNat) with
    | some ch => ends s (fails MEMORY_POISONED ch)
    | none =>
      let b := tableBytes s u p
      let last := p.position.toNat + 1 = p.length.toNat
      match tableBad b p.length.toNat, tableDiffers s die p b with
      | some o, _ => ends s (fails OUT_OF_RANGE (0x80000000 + o))
      | none, some d => ends s (fails BAD_STATE d)
      | none, none => match access s (j.ring / 256) u (fld b 0x10 8) (16 * p.elements.toNat) pWrite with
        | some st => ends s (fails st 0x80000010)
        | none =>
          if last && fld b 0x0E 1 != 0 && !slotOk s (j.ring / 256) (fld b 0x0C 2) then ends s (fails BAD_STATE 0x8000000C)
          else match poisonIn s p.srcAddr.toNat (p.elements.toNat * chainSize p.fmt.toNat) with
            | some ch => ends s (fails MEMORY_POISONED ch)
            | none => match openMember die j p b s with
              | (s, some e) => ends s e
              | (s, none) => waits s (.chain true)

/-- Let the waiting chains of a die try again, oldest first, when one has ended (11 R305). -/
def pumpChains (die : Nat) : List Job → State → State
  | [], s => s
  | j :: js, s => match j.cmd, j.phase with
    | .chainReduce _ p _, .chain false =>
      if uDie j.unit != die then pumpChains die js s
      else match tryChain p j s with
        | (s, .inl e) => pumpChains die js (endJob s j.id e)
        | (s, .inr ph) => pumpChains die js (modJob s j.id (fun j => { j with phase := ph }))
    | _, _ => pumpChains die js s

/-- CHAIN_REDUCE (02 R53). -/
def runChainReduce (p : PChainReduce) (_f : Faults) (j : Job) (s : State) : RunRes := tryChain p j s

/-- CHAIN_REDUCE (02 R53). -/
def execChainReduce (h : Hdr) (p : PChainReduce) (f : Faults) (s : State) : Host.Outcome State Fault Refusal :=
  .next (issue (preChainReduce h p s) (runChainReduce p f) (.chainReduce h p f) s)

/-! ## Pieces -/

/-- What the last member writes: values rounded once to FMT, exact integers, or pairs (11 R304). -/
def lastBytes (p : PChainReduce) (l : List (Nat × Nat)) : List Byte :=
  let sz := chainSize p.fmt.toNat
  l.flatMap (fun x =>
    if floatSum p then
      match chainElem p.fmt.toNat with
      | .flt f => leBytes sz (f.conv (w48Val x.1))
      | .int _ => leBytes sz x.1
    else if p.op = 0 then leBytes sz x.1
    else if p.fmt = 0xA then leBytes 8 x.1 ++ leBytes 4 x.2 ++ rsvd 4
    else leBytes 4 x.1 ++ leBytes 4 x.2)

/-- The statistics of the last member over the values it writes, which are one row of ELEMENTS columns (11 R298, R303). -/
def chainStats (c : Chain) (u : Nat) (bs : List Byte) : StatAdd :=
  let p := c.cmd
  let sz := chainSize p.fmt.toNat
  let vs := (List.range p.elements.toNat).map (fun i => typeVal (chainElem p.fmt.toNat) (fld bs (i * sz) sz))
  let sq := bit c.stats 0 || bit c.stats 1
  { sumsq := if sq then some (sumSquares vs) else none
    maxabs := if bit c.stats 2 then some (maxAbs vs, u) else none
    count := if sq then vs.length else 0
    rows := if bit c.stats 0 then [(p.dstAddr.toNat, sumSquares vs)] else []
    cols := if bit c.stats 1 then (indexed 0 vs).map (fun x => (p.dstAddr.toNat + x.1 * sz, sumSquares [x.2])) else [] }

/-- The pieces a member has received, in order, once all are there. -/
def allPieces (c : Chain) : Option (List ChainMsg) :=
  (List.range (pieceCount c.cmd)).mapM (fun k => c.got.find? (fun m => m.piece == k))

/-- The outgoing piece k: the incoming one with this member's contribution (11 R304). -/
def outPiece (s : State) (u : Nat) (c : Chain) (m : ChainMsg) : List (Nat × Nat) :=
  ((ofVals m.vals).zip (ownPiece s u c.cmd m.piece)).map (fun x => joinVal c.cmd x.1 x.2)

/-- A member whose incoming sum failed its check for the second time: CHECK_FAILED for every member (05 R141). -/
def chainFailed (die : Nat) (c : Chain) (s : State) : State :=
  let u := memberUnit c (c.cmd.position.toNat - 1)
  closeChain die c.job { checkFailed u 2 [(0x70, 2)] with replays := 1 } (abortAll c (some u) s)

/-- Ask the previous member to resend, once (05 R141). -/
def askResend (die : Nat) (c : Chain) (s : State) : State :=
  let s := modChain s die c.job (fun c => { c with got := [], resent := true })
  (List.range (pieceCount c.cmd)).foldl (fun s k =>
    toMember (c.members[c.cmd.position.toNat - 1]?) (fun d x => .chainResend c.cmd.chainId.toNat k d x) s) s

/-- Close the hop when every piece is in: check, then forward the last piece or write the result (11 R304; 05 R141). -/
def closeHop (die u : Nat) (j : Job) (c : Chain) (ms : List ChainMsg) (bad : Bool) (s : State) : State :=
  let p := c.cmd
  if bad || !chainClean p ms then (if c.resent then chainFailed die c s else askResend die c s)
  else if p.position.toNat + 1 = p.length.toNat then
    let out := ms.flatMap (outPiece s u c)
    let bs := lastBytes p out
    match partialPoison s p.dstAddr.toNat bs.length with
    | some ch => closeChain die c.job (fails MEMORY_POISONED ch) s
    | none =>
      let s := storeLazy s (whoOf j) p.dstAddr.toNat bs
      let s := if c.stats = 0 then s else statApply s (whoOf j) c.statSlot (chainStats c u bs)
      closeChain die c.job (chainEnd c) s
  else
    match ms.getLast? with
    | none => s
    | some m =>
      let (own, ab) := pieceSums (ownAll s u p)
      let s := sendPiece die c (outMsg p m.piece (outPiece s u c m) (w48Add (w48Val m.chk.toNat) own)
        (w48Add (w48Val m.absSum.toNat) ab)) s
      closeChain die c.job (chainEnd c) s

/-- Whether a piece's header agrees with the receiving member's table (11 R305). -/
def pieceAgrees (p : PChainReduce) (m : ChainMsg) : Bool :=
  m.op == p.op && m.fmt == p.fmt && m.elements == p.elements && m.length == p.length &&
    m.fromPos.toNat + 1 == p.position.toNat

/-- CHAIN_PIECE (11 R304, R305; 05 R141): a piece is combined and forwarded; the last one closes the hop. A piece for a chain
that is not open here stays on its way. -/
def execChainPiece (die : CDie) (m : ChainMsg) (f : Faults) (s : State) : Host.Outcome State Fault Refusal :=
  let d := die.val
  match openChain s d m.chainId.toNat with
  | none => .next (settle s)
  | some c => match jobOf s c.job with
    | none => .next (settle s)
    | some j =>
      let s := receive s (.chain m (myDevice s) d)
      let p := c.cmd
      if !pieceAgrees p m then
        .next (settle (pumpChains d s.gz.jobs (closeChain d c.job (fails BAD_STATE 0x3C) (abortAll c none s))))
      else if pieceCount p ≤ m.piece then .next (settle s)
      else
        match poisonIn s p.srcAddr.toNat (p.elements.toNat * chainSize p.fmt.toNat) with
        | some ch => .next (settle (pumpChains d s.gz.jobs (closeChain d c.job (fails MEMORY_POISONED ch) s)))
        | none =>
          let c := { c with got := c.got.filter (fun x => x.piece != m.piece) ++ [m] }
          let s := modChain s d c.job (fun _ => c)
          let forward := p.position.toNat + 1 < p.length.toNat && m.piece + 1 < pieceCount p
          let s := if forward then sendPiece d c (outMsg p m.piece (outPiece s j.unit c m) fZero fZero) s else s
          match allPieces c with
          | none => .next (settle s)
          | some ms => .next (settle (pumpChains d s.gz.jobs (closeHop d j.unit j c ms (f.mismatch != 0) s)))

/-- CHAIN_RESEND_REQUEST: the previous member sends a piece of its outgoing data again (05 R141). -/
def execChainResendRequest (die : CDie) (chainId : Word32) (piece : Nat) (s : State) : Host.Outcome State Fault Refusal :=
  let d := die.val
  let s := receive s (.chainResend chainId.toNat piece (myDevice s) d)
  match (chainsOf s d).find? (fun c => c.cmd.chainId == chainId) with
  | none => .next (settle s)
  | some c => match c.sent.find? (fun m => m.piece == piece) with
    | none => .next (settle s)
    | some m => .next (settle (sendPiece d c m s))

/-- CHAIN_ABORT: the member that has dispatched the chain ends BAD_STATE, or CHECK_FAILED when the abort names the member
whose output failed (11 R305; 05 R141). -/
def execChainAbort (die : CDie) (chainId : Word32) (failed : Option Word32) (s : State) : Host.Outcome State Fault Refusal :=
  let d := die.val
  let s := receive s (.chainAbort chainId.toNat (failed.map (·.toNat)) (myDevice s) d)
  match openChain s d chainId.toNat with
  | none => .next (settle s)
  | some c =>
    let e := match failed with
      | some u => checkFailed u.toNat
      | none => fails BAD_STATE 0x3C
    .next (settle (pumpChains d s.gz.jobs (closeChain d c.job e s)))

end Sys2Proof.Machine
end

