-- ==== Sys2Proof/Machine/Dma.lean ====
section
/-! DEFINITION. DMA engines (09): descriptor checks, the ten operations, statistics, chains, and how a descriptor ends. -/

namespace Sys2Proof.Machine

/-! ## Shape of a descriptor (09 R256, R264) -/

/-- Bits of a unit of SWAPn. -/
def swapBits (op : Nat) : Nat := if op = 7 then 16 else if op = 8 then 32 else 64
/-- Whether OP is SWAP16, SWAP32 or SWAP64. -/
def isSwap (d : Desc) : Bool := 7 ≤ d.op.toNat && d.op.toNat ≤ 9
/-- Whether OP reads an index list. -/
def isIndexed (d : Desc) : Bool := 1 ≤ d.op.toNat && d.op.toNat ≤ 3
/-- LAYOUT of the source or the destination, 0 for every OP but RESHUFFLE. -/
def sideLayout (d : Desc) (dst : Bool) : Nat := if d.op = 6 then bits d.layout.toNat (if dst then 4 else 0) 4 else 0
/-- Format code of a side. -/
def sideFmt (d : Desc) (dst : Bool) : Nat := if dst then d.fmtDst.toNat else d.fmtSrc.toNat
/-- Rows of a side: a TRANSPOSE writes ROW_ELEMS rows. -/
def sideRows (d : Desc) (dst : Bool) : Nat := if dst && d.op = 4 then d.rowElems.toNat else d.rows.toNat
/-- Elements of a row of a side. -/
def sideElems (d : Desc) (dst : Bool) : Nat := if dst && d.op = 4 then d.rows.toNat else d.rowElems.toNat
/-- Row bytes of a side (09 R256, R264). -/
def sideRowBytes (d : Desc) (dst : Bool) : Nat :=
  if isSwap d then d.rowElems.toNat * (swapBits d.op.toNat / 8)
  else if sideLayout d dst = 1 then 32 * ceilDiv d.rowElems.toNat 64
  else if sideLayout d dst = 2 then d.rowElems.toNat / 2
  else fmtRow (sideFmt d dst) (sideElems d dst)
/-- Stride of a side. -/
def sideStride (d : Desc) (dst : Bool) : Nat := if dst then d.dstStride.toNat else d.srcStride.toNat
/-- Base address of a side. -/
def sideAddr (d : Desc) (dst : Bool) : Nat := if dst then d.dstAddr.toNat else d.srcAddr.toNat
/-- Bytes from the base to the end of a strided side. -/
def sideSpan (d : Desc) (dst : Bool) : Nat :=
  if sideLayout d dst = 2 then sideRows d dst * sideRowBytes d dst
  else span (sideRows d dst) (sideStride d dst) (sideRowBytes d dst)
/-- Alignment of a row base in bytes (09 R257). -/
def sideAlign (d : Desc) (dst : Bool) : Nat :=
  if isSwap d then swapBits d.op.toNat / 8
  else match fmtOf (sideFmt d dst) with
    | some c => max 1 (c.bitsN / 8)
    | none => 1
/-- Bytes of an index. -/
def indexSize (d : Desc) : Nat := if bit d.flags.toNat 0 then 8 else 4
/-- Blocks of 32 in a row of a side. -/
def sideBlocks (d : Desc) (dst : Bool) : Nat := ceilDiv (sideElems d dst) 32
/-- The larger of the bytes a descriptor reads and writes (02 R61). -/
def descMoves (d : Desc) : Nat := max (sideRows d false * sideRowBytes d false) (sideRows d true * sideRowBytes d true)

/-- Whether a format code is block-scaled. -/
def codeScaled (c : Nat) : Bool := match fmtOf c with | some f => f.scaled | none => false

/-! ## Checks (09 R257, R258, R262, R264-R266) -/

/-- Whether a side's stride holds its row, and keeps row bases aligned; only strided sides need room (09 R257, R260). -/
def strideOk (d : Desc) (dst : Bool) : Bool :=
  if sideLayout d dst = 2 then sideStride d dst = 0
  else
    let indexedSide := if dst then d.op = 2 || d.op = 3 else d.op = 1
    (indexedSide || d.rows = 1 || sideRowBytes d dst ≤ sideStride d dst) &&
      ((!indexedSide && sideRows d dst ≤ 1) || sideStride d dst % sideAlign d dst = 0)

/-- Whether the two bounding ranges keep apart where they must (09 R257). -/
def apart (d : Desc) : Bool :=
  isIndexed d ||
    sideAddr d false + sideSpan d false ≤ sideAddr d true || sideAddr d true + sideSpan d true ≤ sideAddr d false ||
    (isSwap d && d.srcAddr = d.dstAddr && d.srcStride = d.dstStride)

/-- Formats that SCATTER_ADD takes, the TYPE values of 08 R238 (09 R262). -/
def addFmt (c : Nat) : Bool := c = 1 || c = 2 || c = 3 || c = 9 || c = 0xA

/-- FMT_SRC is defined and accepted by OP (09 R257, R262, R264). -/
def srcFmtOk (d : Desc) : Bool :=
  let c := d.fmtSrc.toNat
  isSwap d || ((fmtOf c).isSome && (d.op != 3 || addFmt c) && (d.op != 6 || c = 6 || c = 8 || c = 0x16 || c = 0x18))

/-- The conditions on the fields of a descriptor, by descriptor offset from b (09 R257, R258, R262, R264). -/
def descFields (d : Desc) (b : Nat) : List (Nat × Bool) :=
  let op := d.op.toNat
  let tiled := sideLayout d false = 2 || sideLayout d true = 2
  [(b, op ≤ 9), (b + 1, srcFmtOk d),
    (b + 2, isSwap d || ((fmtOf d.fmtDst.toNat).isSome && (op = 4 || op = 5 || d.fmtDst = d.fmtSrc))),
    (b + 3, d.stats = 0 || (d.statSlot != 0xFFFF && !isSwap d)),
    (b + 4, if op = 6 then bits d.layout.toNat 0 4 ≤ 2 && bits d.layout.toNat 4 4 ≤ 2 else d.layout = 0),
    (b + 6, statSlotOk d.statSlot.toNat),
    (b + 8, d.srcAddr.toNat % sideAlign d false = 0),
    (b + 0x10, d.dstAddr.toNat % sideAlign d true = 0),
    (b + 0x18, !isIndexed d || d.indexAddr.toNat % indexSize d = 0),
    (b + 0x20, 1 ≤ d.rows.toNat && d.rows.toNat ≤ 16777216 && (!tiled || d.rows.toNat % 64 = 0)),
    (b + 0x24, 1 ≤ d.rowElems.toNat && d.rowElems.toNat ≤ 1048576 && (!tiled || d.rowElems.toNat % 64 = 0)),
    (b + 0x28, strideOk d false), (b + 0x2C, strideOk d true),
    (b + 0x30, codeScaled d.fmtSrc.toNat == (d.scaleSrc != 0)), (b + 0x38, codeScaled d.fmtDst.toNat == (d.scaleDst != 0)),
    (b + 0x10, apart d)]

/-- The strided ranges, the index list and the scale ranges of a descriptor with the permissions they need (09 R257, R263). -/
def descRanges (d : Desc) (b : Nat) : List (Nat × Nat × Nat × Nat) :=
  (if d.op = 1 then [] else [(b + 8, d.srcAddr.toNat, sideSpan d false, pRead)]) ++
  (if d.op = 2 || d.op = 3 then [] else [(b + 0x10, d.dstAddr.toNat, sideSpan d true, pWrite)]) ++
  (if isIndexed d then [(b + 0x18, d.indexAddr.toNat, d.rows.toNat * indexSize d, pRead)] else []) ++
  (if d.scaleSrc = 0 || d.op = 1 then [] else [(b + 0x30, d.scaleSrc.toNat, sideRows d false * sideBlocks d false, pRead)]) ++
  (if d.scaleDst = 0 || d.op = 2 then [] else [(b + 0x38, d.scaleDst.toNat, sideRows d true * sideBlocks d true, pWrite)])

/-- The traffic class of a descriptor, the stat table of its context, and a tenant's 64 MiB (09 R265; 11 R296; 02 R61). -/
def descLimits (s : State) (c : Nat) (d : Desc) (b : Nat) : List (Bool × Nat × Nat) :=
  [((!isSwap d || c = 0) && (d.op != 6 || c != 0), NO_PERMISSION, b),
    (!isTenant s c || descMoves d ≤ 0x4000000, OUT_OF_RANGE, b + 0x20),
    (slotOk s c d.statSlot.toNat, BAD_STATE, b + 6)]

/-- The first rule a chain's descriptor breaks, checked by the engine before it starts in the pre-parser's order (09 R257, R258):
reserved bits, fields and the tenant's limit, ranges, then class and slot. -/
def descBad (s : State) (c u : Nat) (d : Desc) (bytes : List Byte) (b : Nat) : Option (Nat × Nat) :=
  match paramRsvd 0x0400 (rsvd 16 ++ bytes) with
  | some o => some (OUT_OF_RANGE, b + (o - 0x30))
  | none => match (descFields d b).find? (fun f => !f.2) with
    | some f => some (OUT_OF_RANGE, f.1)
    | none => match (descLimits s c d b).find? (fun l => !l.1 && l.2.1 == OUT_OF_RANGE) with
      | some l => some l.2
      | none => match badRange s c u (descRanges d b) with
        | some e => some e
        | none => ((descLimits s c d b).find? (fun l => !l.1)).map (·.2)

/-! ## Moving rows -/

/-- What a descriptor has done so far, and why and where it has stopped: its end, the failing index and the first block not
written (09 R271, R273). -/
structure DmaRun where
  s : State
  blocks : Nat := 0
  adds : Nat := 0
  bytesRead : Nat := 0
  bytesWritten : Nat := 0
  sat : Nat := 0
  nan : Nat := 0
  /-- Destination rows for the statistics: address and values. -/
  rows : List (Nat × List FVal) := []
  stop : Option (End × Nat × Nat) := none

/-- The position that names no failing index (09 R273). -/
def noIndex : Nat := 0xFFFFFFFF

/-- Stop a descriptor; what it was writing is undefined (09 R271). -/
def dmaStop (r : DmaRun) (e : End) (idx addr : Nat) (undef : List (Nat × Nat)) : DmaRun :=
  { r with s := markUndef r.s undef, stop := some (e, idx, addr) }

/-- The pieces of row r of a side in memory: one run of bytes, or 32 bytes of each tile (09 R264). -/
def rowPieces (d : Desc) (dst : Bool) (r : Nat) : List (Nat × Nat) :=
  let e := d.rowElems.toNat
  if sideLayout d dst = 2 then
    (List.range (e / 64)).map (fun t => (sideAddr d dst + (r / 64 * (e / 64) + t) * 2048 + 32 * (r % 64), 32))
  else [(sideAddr d dst + r * sideStride d dst, sideRowBytes d dst)]

/-- The bytes of pieces as a unit reads them. -/
def readPieces (s : State) (u : Nat) : List (Nat × Nat) → List Byte
  | [] => []
  | (a, n) :: ps => readBytes s u a n ++ readPieces s u ps

/-- Write bytes into pieces. -/
def writePieces (w : Who) : List (Nat × Nat) → List Byte → State → State
  | [], _, s => s
  | (a, n) :: ps, bs, s => writePieces w ps (bs.drop n) (storeLazy s w a (bs.take n))

/-- The first poisoned address of pieces. -/
def piecesPoison (s : State) : List (Nat × Nat) → Option Nat
  | [] => none
  | (a, n) :: ps => match poisonAddr s a n with
    | some x => some x
    | none => piecesPoison s ps

/-- The first block of pieces that a write would cover in part and that is poisoned: its address. -/
def piecesPartial (s : State) : List (Nat × Nat) → Option Nat
  | [] => none
  | (a, n) :: ps =>
    if (partialPoison s a n).isSome then
      some (if a % 32 != 0 && (poisonIn s (a / 32 * 32) 32).isSome then a / 32 * 32 else (a + n - 1) / 32 * 32)
    else piecesPartial s ps

/-- Reverse the bytes of each n-byte unit of a row (09 R259). -/
def swapUnits (n : Nat) (bs : List Byte) : List Byte := ((chunks n bs.length bs).map List.reverse).flatten

/-- The 4-bit codes of a row in a layout (09 R264). -/
def layoutCodes (lay e : Nat) (bs : List Byte) : List Nat :=
  if lay = 1 then
    let pl := 8 * ceilDiv e 64
    (List.range e).map (fun n =>
      (List.range 4).foldl (fun v b => v + 2 ^ b * b2n (bit (bs.getD (b * pl + n / 8) 0).toNat (n % 8))) 0)
  else (List.range e).map (fun n => bits (bs.getD (n / 2) 0).toNat (4 * (n % 2)) 4)

/-- The bytes of a row of 4-bit codes in a layout; padding is zero (09 R264). -/
def layoutBytes (lay : Nat) (cs : List Nat) : List Byte :=
  if lay = 1 then
    let pl := 8 * ceilDiv cs.length 64
    (List.range (4 * pl)).map (fun i =>
      BitVec.ofNat 8 ((List.range 8).foldl (fun v k => v + 2 ^ k * b2n (bit (cs.getD (i % pl * 8 + k) 0) (i / pl))) 0))
  else packRow ⟨.int 4, 4, false⟩ cs

/-- A row in its destination's bytes, its scale bytes, and the conversions it saturated or took from NaN (09 R259, R263,
R264). -/
def moveRow (d : Desc) (row scales : List Byte) : List Byte × List Byte × Nat × Nat :=
  let n := d.rowElems.toNat
  if isSwap d then (swapUnits (swapBits d.op.toNat / 8) row, [], 0, 0)
  else if d.op = 6 then (layoutBytes (sideLayout d true) (layoutCodes (sideLayout d false) n row), scales, 0, 0)
  else if d.op = 5 then
    match fmtOf d.fmtSrc.toNat, fmtOf d.fmtDst.toNat with
    | some cs, some cd => convRow cd (rowVals cs row scales n)
    | _, _ => (row, scales, 0, 0)
  else (row, scales, 0, 0)

/-- Values of a destination row for the statistics (09 R268). -/
def destVals (d : Desc) (bytes scales : List Byte) : List FVal :=
  if d.stats = 0 then []
  else match fmtOf d.fmtDst.toNat with
    | some c => rowVals c (if sideLayout d true = 1 then packRow c (layoutCodes 1 d.rowElems.toNat bytes) else bytes) scales
        (sideElems d true)
    | none => []

/-- Whether a row of n bytes at a lies in a range of the accumulator buffer that is in use (09 R267, 04 R111). -/
def inUseAt (s : State) (a n : Nat) : Bool :=
  match regionOf a with
  | .accBuf k => inUse s k (a - (0x61000000000 + k * 0x4000000)) n
  | _ => false

/-- Read source pieces, convert, and write destination pieces and scales (09 R259, R263, R271). Row r names the index
position of an end. -/
def moveOne (j : Job) (d : Desc) (src dst : List (Nat × Nat)) (sScale dScale : Nat) (r : DmaRun) : DmaRun :=
  let s := r.s
  let u := j.unit
  let nbS := if codeScaled d.fmtSrc.toNat then sideBlocks d false else 0
  let nbD := if codeScaled d.fmtDst.toNat then sideBlocks d true else 0
  let da := (dst.headD (0, 0)).1
  let undef := dst ++ (if nbD = 0 then [] else [(dScale, nbD)])
  match piecesPoison s (src ++ (if nbS = 0 then [] else [(sScale, nbS)])) with
  | some pa =>
    let off := if (src.headD (0, 0)).1 ≤ pa then (pa - (src.headD (0, 0)).1) * sideRowBytes d true / max 1 (sideRowBytes d false) else 0
    dmaStop r (fails MEMORY_POISONED (chanOf s pa)) noIndex ((da + min off (sideRowBytes d true - 1)) / 64 * 64) undef
  | none =>
    match piecesPartial s (dst ++ (if nbD = 0 then [] else [(dScale, nbD)])) with
    | some pa => dmaStop r (fails MEMORY_POISONED (chanOf s pa)) noIndex (pa / 64 * 64) undef
    | none =>
      let (bs, sc, sat, nan) := moveRow d (readPieces s u src) (readBytes s u sScale nbS)
      let w := whoOf j
      let s := writePieces w dst bs s
      let s := if nbD = 0 then s else storeLazy s w dScale sc
      { r with s := s, sat := r.sat + sat, nan := r.nan + nan
               blocks := r.blocks + ceilDiv (max (sideRowBytes d false) (sideRowBytes d true)) 64
               bytesRead := r.bytesRead + sideRowBytes d false, bytesWritten := r.bytesWritten + bs.length
               rows := if d.stats = 0 then r.rows else r.rows ++ [(da, destVals d bs sc)] }

/-- A failed check of a row address that an index forms (09 R260, R267): the row is not moved. -/
def rowBad (j : Job) (d : Desc) (s : State) (dst : Bool) (a n sa nb : Nat) : Option Nat :=
  let need := if dst then pWrite else pRead
  match access s (j.ring / 256) j.unit a n need with
  | some st => some st
  | none =>
    if nb != 0 && (access s (j.ring / 256) j.unit sa nb need).isSome then access s (j.ring / 256) j.unit sa nb need
    else if d.op = 2 && inUseAt s a n then some BAD_STATE else none

/-- The elements of one 32-byte block of a SCATTER_ADD row, each added and rounded by itself (09 R262). -/
def addBlock (w : Who) (e : Elem) (n a : Nat) : List Nat → State → State
  | [], s => s
  | c :: cs, s => addBlock w e n (a + n) cs (sideAdd s w e n a c)

/-- The additions of one row, a memory-side operation per 32-byte block; a poisoned block ends them unchanged (09 R262). -/
def addRow (j : Job) (e : Elem) (n : Nat) : Nat → Nat → List Nat → DmaRun → DmaRun
  | 0, _, _, r => r
  | _ + 1, _, [], r => r
  | k + 1, a, cs, r =>
    let m := (32 - a % 32) / n
    match poisonIn r.s (a / 32 * 32) 32 with
    | some ch => dmaStop r (fails MEMORY_POISONED ch) noIndex (a / 32 * 32) []
    | none =>
      addRow j e n k (a + n * m) (cs.drop m)
        { r with s := addBlock (whoOf j) e n a (cs.take m) r.s, adds := r.adds + 1, bytesWritten := r.bytesWritten + n * min m cs.length }

/-- Element of a SCATTER_ADD format (09 R262). -/
def addElem (c : Nat) : Elem := match fmtOf c with | some f => f.elem | none => .int 64

/-- SCATTER_ADD of source row r into destination row k (09 R259, R261, R262). -/
def scatterAdd (j : Job) (d : Desc) (b k rr : Nat) (r : DmaRun) : DmaRun :=
  let sa := d.srcAddr.toNat + rr * d.srcStride.toNat
  let da := d.dstAddr.toNat + k * d.dstStride.toNat
  let n := d.rowElems.toNat
  let rb := sideRowBytes d true
  let sz := sideAlign d true
  let bad := match regionOf da with
    | .side _ _ => access r.s (j.ring / 256) j.unit da rb (pAtomic + pWrite)
    | _ => some OUT_OF_RANGE
  match bad with
  | some st => dmaStop r (fails st (b + 0x10)) rr 0 []
  | none => match poisonAddr r.s sa rb with
    | some pa => dmaStop r (fails MEMORY_POISONED (chanOf r.s pa)) noIndex (da / 64 * 64) []
    | none =>
      let bs := readBytes r.s j.unit sa rb
      let cs := (List.range n).map (fun i => fld bs (i * sz) sz)
      let r := addRow j (addElem d.fmtDst.toNat) sz (n + 1) da cs
        { r with blocks := r.blocks + ceilDiv rb 64, bytesRead := r.bytesRead + rb }
      if r.stop.isSome || d.stats = 0 then r else { r with rows := r.rows ++ [(da, destVals d bs [])] }

/-- Row r of a descriptor (09 R259-R264). -/
def dmaRow (j : Job) (d : Desc) (b rr : Nat) (r : DmaRun) : DmaRun :=
  let s := r.s
  let nbS := if codeScaled d.fmtSrc.toNat then sideBlocks d false else 0
  let nbD := if codeScaled d.fmtDst.toNat then sideBlocks d true else 0
  let sScale (k : Nat) := d.scaleSrc.toNat + k * nbS
  let dScale (k : Nat) := d.scaleDst.toNat + k * nbD
  if !isIndexed d then moveOne j d (rowPieces d false rr) (rowPieces d true rr) (sScale rr) (dScale rr) r
  else
    let sz := indexSize d
    let ia := d.indexAddr.toNat + rr * sz
    match poisonAddr s ia sz with
    | some pa => dmaStop r (fails MEMORY_POISONED (chanOf s pa)) rr ((d.dstAddr.toNat + rr * d.dstStride.toNat) / 64 * 64) []
    | none =>
      let idx := readNat s j.unit ia sz
      if bit d.flags.toNat 1 && idx = 2 ^ (8 * sz) - 1 then
        if d.op = 1 then
          let dst := rowPieces d true rr
          match piecesPartial s dst with
          | some pa => dmaStop r (fails MEMORY_POISONED (chanOf s pa)) noIndex (pa / 64 * 64) dst
          | none =>
            let rb := sideRowBytes d true
            let s := writePieces (whoOf j) dst (List.replicate rb 0) s
            let s := if nbD = 0 then s else storeLazy s (whoOf j) (dScale rr) (List.replicate nbD 127)
            { r with s := s, blocks := r.blocks + ceilDiv rb 64, bytesWritten := r.bytesWritten + rb
                     rows := if d.stats = 0 then r.rows
                       else r.rows ++ [((dst.headD (0, 0)).1, List.replicate (sideElems d true) fZero)] }
        else r
      else if d.op = 3 then scatterAdd j d b idx rr r
      else
        let dst := d.op = 2
        let a := sideAddr d dst + idx * sideStride d dst
        let sa := if dst then dScale idx else sScale idx
        match rowBad j d s dst a (sideRowBytes d dst) sa (if dst then nbD else nbS) with
        | some st => dmaStop r (fails st (b + 0x18)) rr 0 []
        | none =>
          moveOne j d (rowPieces d false (if dst then rr else idx)) (rowPieces d true (if dst then idx else rr))
            (sScale (if dst then rr else idx)) (dScale (if dst then idx else rr)) r

/-- The rows of a descriptor in ascending order, until one stops it (09 R261). -/
def dmaRows (j : Job) (d : Desc) (b : Nat) : Nat → Nat → DmaRun → DmaRun
  | 0, _, r => r
  | n + 1, rr, r => if r.stop.isSome then r else dmaRows j d b n (rr + 1) (dmaRow j d b rr r)

/-- TRANSPOSE (09 R259, R263): codes move unchanged between equal formats that are not block-scaled, else every element is
converted. -/
def dmaTranspose (j : Job) (d : Desc) (r : DmaRun) : DmaRun :=
  let s := r.s
  let u := j.unit
  let n := d.rowElems.toNat
  let rows := d.rows.toNat
  let nbS := if codeScaled d.fmtSrc.toNat then sideBlocks d false else 0
  let nbD := if codeScaled d.fmtDst.toNat then sideBlocks d true else 0
  let da := d.dstAddr.toNat
  let undef := [(da, sideSpan d true)]
  let poison := (rowsPoison s d.srcAddr.toNat d.srcStride.toNat (sideRowBytes d false) rows).orElse (fun _ =>
    (if nbS = 0 then none else poisonIn s d.scaleSrc.toNat (rows * nbS)).orElse (fun _ =>
      rowsPartial s da d.dstStride.toNat (sideRowBytes d true) n))
  match poison, fmtOf d.fmtSrc.toNat, fmtOf d.fmtDst.toNat with
  | some ch, _, _ => dmaStop r (fails MEMORY_POISONED ch) noIndex (da / 64 * 64) undef
  | none, some cs, some cd =>
    let src := (List.range rows).map (fun i => readBytes s u (d.srcAddr.toNat + i * d.srcStride.toNat) (sideRowBytes d false))
    let out : List (List Byte × List Byte × Nat × Nat) :=
      if d.fmtSrc = d.fmtDst && !cs.scaled then
        (List.range n).map (fun c => (packRow cs (src.map (fun row => elemCode cs row c)), [], 0, 0))
      else
        let vals := (indexed 0 src).map (fun x => rowVals cs x.2 (readBytes s u (d.scaleSrc.toNat + x.1 * nbS) nbS) n)
        (colsOf fZero n vals).map (convRow cd)
    let w := whoOf j
    let s := writeRows w da d.dstStride.toNat 0 (out.map (·.1)) s
    let s := if nbD = 0 then s else writeRows w d.scaleDst.toNat nbD 0 (out.map (·.2.1)) s
    { r with s := s, sat := (out.map (·.2.2.1)).foldl (· + ·) 0, nan := (out.map (·.2.2.2)).foldl (· + ·) 0
             blocks := ceilDiv (descMoves d) 64
             bytesRead := rows * sideRowBytes d false, bytesWritten := n * sideRowBytes d true
             rows := if d.stats = 0 then [] else
               (indexed 0 out).map (fun x => (da + x.1 * d.dstStride.toNat, destVals d x.2.1 x.2.2.1)) }
  | none, _, _ => r

/-! ## One descriptor -/

/-- The statistics of a descriptor over the destination values as written (09 R268; 11 R298). -/
def dmaStats (d : Desc) (u : Nat) (rows : List (Nat × List FVal)) : StatAdd :=
  let st := d.stats.toNat
  let all := (rows.map (·.2)).flatten
  let eb := match fmtOf d.fmtDst.toNat with | some c => c.bitsN | none => 8
  { sumsq := if bit st 0 then some (sumSquares all) else none
    maxabs := if bit st 1 then some (maxAbs all, u) else none
    count := all.length
    rows := if bit st 2 then rows.map (fun x => (x.1, w48Sum x.2)) else []
    cols := if bit st 3 then
        (indexed 0 (colsOf fZero (sideElems d true) (rows.map (·.2)))).map (fun c => (d.dstAddr.toNat + c.1 * eb / 8, w48Sum c.2))
      else [] }

/-- Whether the adder of SCATTER_ADD is what a mismatch strikes: the faults name a stack side (05 R122). -/
def adderHit (d : Desc) (f : Faults) : Option Nat :=
  match f.hit with
  | some u => if d.op = 3 && uKind u.toNat = 0xA then some u.toNat else none
  | none => none

/-- What a descriptor comes to: the state, its end, failing index and first block not written. -/
structure DescEnd where
  s : State
  e : End
  idx : Nat := noIndex
  addr : Nat := 0

/-- Run one descriptor whose fields and ranges have passed their checks (09 R259-R272). A second mismatch ends it before it
writes its first block. -/
def runDesc (j : Job) (d : Desc) (b : Nat) (f : Faults) (s : State) : DescEnd :=
  let u := j.unit
  let c := j.ring / 256
  let unit := (adderHit d f).getD u
  let strided := d.op != 2 && d.op != 3
  if strided && (inUseAt s d.dstAddr.toNat (sideSpan d true) ||
      (d.scaleDst != 0 && inUseAt s d.scaleDst.toNat (sideRows d true * sideBlocks d true))) then
    { s := s, e := fails BAD_STATE (b + 0x10) }
  else if 2 ≤ f.mismatch then
    let n := if unit = u then 1 else ceilDiv (sideRowBytes d true) 64 + 1
    { s := count s u 0x30 1, e := { checkFailed unit n [(0x78, n)] with replays := 1 }, addr := d.dstAddr.toNat / 64 * 64 }
  else
    let r := if d.op = 4 then dmaTranspose j d { s := s } else dmaRows j d b d.rows.toNat 0 { s := s }
    let s := count (count r.s u 0x18 r.bytesRead) u 0x20 r.bytesWritten
    let s := event (event (event s u 0x9002 c r.blocks) u 0x9003 c r.sat) u 0x9004 c r.nan
    let s := if f.mismatch = 0 then s else charge unit 1 (if unit = u then count s u 0x28 1 else s)
    let n := r.blocks + r.adds
    match r.stop with
    | some (e, idx, addr) => { s := s, e := { e with checks := n, record := [(0x78, n)], replays := f.mismatch }, idx := idx, addr := addr }
    | none =>
      let s := event (count s u 0x10 1) u 0x9001 c 1
      let s := if d.stats = 0 then s else statApply s (whoOf j) d.statSlot.toNat (dmaStats d u r.rows)
      { s := s, e := { doneChecked (if f.mismatch = 0 then 1 else 3) n 0x78 with replays := f.mismatch } }

/-! ## DMA_RUN -/

/-- The latest command of a context on an engine (09 R273). -/
def dmaNote (j : Job) (e : End) (done idx addr : Nat) (s : State) : State :=
  let x : DmaLast := ⟨e.status, (hdrOf j.cmd).seq.toNat, done, idx, addr⟩
  { s with dma := amPut s.dma (256 * j.unit + j.ring / 256) x }

/-- Checks of DMA_RUN (09 R257, R258). -/
def preDmaRun (h : Hdr) (p : PDmaRun) (s : State) : Pre :=
  let u := p.engine.toNat
  { fields := (0x20, isKind 9 u) :: descFields p.desc 0x30
    units := [(0x20, u)]
    ranges := descRanges p.desc 0x30
    limits := descLimits s h.ctx.toNat p.desc 0x30
    unit := u, ready := [u] }

/-- Whether a strided range touches a granule of a channel that is retraining (08 R244). -/
def trainScan (s : State) (a : Nat) : Nat → Bool
  | 0 => false
  | n + 1 => training s a || trainScan s ((a / 256 + 1) * 256) n

/-- Whether any of a packet's ranges touches a channel that is retraining. -/
def rangesTrain (s : State) (rs : List (Nat × Nat × Nat × Nat)) : Bool :=
  s.mem.chans.any (fun c => c.2.training) && rs.any (fun r => trainScan s r.2.1 ((r.2.1 + r.2.2.1 - 1) / 256 - r.2.1 / 256 + 1))

/-- DMA_RUN runs one descriptor; it parks behind a retrain (09 R254, R270, R271). -/
def runDmaRun (p : PDmaRun) (f : Faults) (j : Job) (s : State) : RunRes :=
  if behindParked s j || rangesTrain s (descRanges p.desc 0x30) then waits s .parked
  else
    let s := arrival s j.unit 0x9080 (j.ring / 256)
    let r := runDesc j p.desc 0x30 f s
    ends (dmaNote j r.e (if r.e.status = DONE then 1 else 0) r.idx r.addr r.s) r.e

/-- DMA_RUN (02 R53). -/
def execDmaRun (h : Hdr) (p : PDmaRun) (f : Faults) (s : State) : Host.Outcome State Fault Refusal :=
  .next (issue (preDmaRun h p s) (runDmaRun p f) (.dmaRun h p f) s)

/-! ## DMA_CHAIN (09 R269) -/

/-- Checks of DMA_CHAIN (02 R56, R61). -/
def preDmaChain (h : Hdr) (p : PDmaChain) (s : State) : Pre :=
  let u := p.engine.toNat
  { fields := [(0x20, isKind 9 u), (0x24, 1 ≤ p.count.toNat && p.count.toNat ≤ 65536), (0x28, p.descAddr.toNat % 64 = 0)]
    units := [(0x20, u)]
    ranges := [(0x28, p.descAddr.toNat, 64 * p.count.toNat, pRead)]
    limits := [(!isTenant s h.ctx.toNat || p.count.toNat ≤ 64, OUT_OF_RANGE, 0x24)]
    unit := u, ready := [u] }

/-- The chain's own writes become visible to every unit, as FENCE_PREV asks (09 R269, 10 R284). -/
def seeOwn (id : Nat) (s : State) : State :=
  { s with mem := { s.mem with unseen := s.mem.unseen.filter (fun e => e.job != id) } }

/-- The reads of a chain's next descriptor are not ordered behind its earlier writes (09 R269). -/
def looseOwn (id u : Nat) (s : State) : State :=
  { s with mem := { s.mem with unseen := s.mem.unseen.map (fun e => if e.job = id then { e with unit := u } else e) } }

/-- Join the counts of a chain's descriptors; the highest verdict stands (05 R143). -/
def joinEnds (a b : End) : End :=
  { b with checks := a.checks + b.checks, replays := a.replays + b.replays, record := a.record ++ b.record
           verdict := if 0x10 ≤ b.status then b.verdict else max a.verdict b.verdict }

/-- The descriptors of a chain from number i on, until one ends with a status of 0x10 or above (09 R269). The faults of the
command strike its first descriptor. -/
def chainLoop (j : Job) (p : PDmaChain) : Nat → Nat → Faults → End → State → DescEnd × Nat
  | 0, i, _, acc, s => ({ s := s, e := acc }, i)
  | n + 1, i, f, acc, s =>
    let a := p.descAddr.toNat + 64 * i
    let b := 0x80000000 + 64 * i
    match poisonIn s a 64 with
    | some ch => ({ s := s, e := joinEnds acc (fails MEMORY_POISONED ch) }, i)
    | none =>
      let bytes := readBytes s j.unit a 64
      let d := readDesc bytes
      match descBad s (j.ring / 256) j.unit d bytes b with
      | some (st, o) => ({ s := s, e := joinEnds acc (fails st o) }, i)
      | none =>
        let s := if bit d.flags.toNat 2 then seeOwn j.id s else looseOwn j.id 0xFFFFFFFF s
        let r := runDesc j d b f s
        let e := joinEnds acc r.e
        if 0x10 ≤ e.status then ({ r with e := e }, i) else chainLoop j p n (i + 1) {} e r.s

/-- DMA_CHAIN runs its descriptors in table order (09 R269, R270). -/
def runDmaChain (p : PDmaChain) (f : Faults) (j : Job) (s : State) : RunRes :=
  if behindParked s j || rangesTrain s [(0x28, p.descAddr.toNat, 64 * p.count.toNat, pRead)] then waits s .parked
  else
    let s := arrival s j.unit 0x9080 (j.ring / 256)
    let (r, n) := chainLoop j p p.count.toNat 0 f (done 0) s
    ends (dmaNote j r.e n r.idx r.addr (looseOwn j.id j.unit r.s)) r.e

/-- DMA_CHAIN (02 R53). -/
def execDmaChain (h : Hdr) (p : PDmaChain) (f : Faults) (s : State) : Host.Outcome State Fault Refusal :=
  .next (issue (preDmaChain h p s) (runDmaChain p f) (.dmaChain h p f) s)

end Sys2Proof.Machine
end

