-- ==== Sys2Proof/Machine/Units.lean ====
section
/-! DEFINITION. Units that execute one packet at a time (02 R46, R47), the expert directory as the data plane reads it
(06 R178, R181), and what routing and combine share: poison of ranges, and whether an owner can be reached. -/

namespace Sys2Proof.Machine

/-! ## One packet at a time -/

/-- Whether a job occupies its unit: it has begun and has not ended (02 R46). RT_CANCEL does not queue. -/
def occupies (j : Job) : Bool :=
  match j.phase with
  | .inUnit => false
  | .ending _ => false
  | .waitReady => false
  | .waitCancel => false
  | .inWindow => false
  | _ => true

/-- Whether a unit executes a packet. -/
def unitBusy (s : State) (u : Nat) : Bool := s.gz.jobs.any (fun j => j.unit == u && occupies j)

/-- Whether a job waits in its unit's queue. -/
def queued (j : Job) : Bool := match j.phase with | .inUnit => true | _ => false

/-- The queued packet a unit executes next (02 R47). -/
def nextIn (s : State) (u : Nat) : Option Job :=
  let js := queueHeads (s.gz.jobs.filter (fun j => j.unit == u && queued j))
  match chooseRing (lastServed s u 0) (js.map (fun j => rank47 s j.ring j.cmd)) with
  | none => none
  | some x => js.find? (fun j => j.ring == x.1)

/-- Take the outcome of a job in flight. -/
def outcome (j : Job) (r : RunRes) : State :=
  match r.2 with
  | .inl e => endJob r.1 j.id e
  | .inr ph => modJob r.1 j.id (fun k => { k with phase := ph, since := r.1.now })

/-- Whether a job waits for something that its unit tries again: a claim's place, or the end of a directory update. -/
def retries (j : Job) : Bool :=
  match j.phase with
  | .waitClaim => true
  | .waitDir => true
  | _ => false

/-- Let a unit go on: what it holds waiting is tried again, and when it is free the next packet begins (02 R46, R47). -/
def pumpUnit (run : Job → State → RunRes) (u : Nat) : Nat → State → State
  | 0, s => s
  | n + 1, s =>
    match s.gz.jobs.find? (fun j => j.unit == u && retries j) with
    | some j =>
      let s' := outcome j (run j s)
      if unitBusy s' u then s' else pumpUnit run u n s'
    | none =>
      if unitBusy s u then s
      else match nextIn s u with
        | none => s
        | some j => pumpUnit run u n (outcome j (run j (serve s u 0 j.ring)))

/-- A packet joins its unit's queue (02 R46). -/
def runInUnit (_j : Job) (s : State) : RunRes := waits s .inUnit

/-! ## The directory (06 R178, R181) -/

/-- Key of an entry: (LAYER << 16) + INDEX (06 R179). -/
def dirKey (layer index : Nat) : Nat := layer * 65536 + index

/-- The entry at a key. -/
def dirAt (s : State) (layer index : Nat) : Option DirEntry := amFind s.dir.entries (dirKey layer index)

/-- The entries of a layer, by ascending index. -/
def dirLayer (s : State) (layer : Nat) : List DirEntry := (s.dir.entries.filter (fun e => e.1 / 65536 == layer)).map (·.2)

/-- An owner as 8 · position + die. -/
def ownerOf (e : DirEntry) : Nat := 8 * e.ownerPos.toNat + e.ownerDie.toNat

/-- Whether a route record of an entry is fresh (06 R181). -/
def fresh (s : State) (layer index epoch8 : Nat) : Bool :=
  (dirAt s layer index).isSome && (epoch8 + 256 - amGet 0 s.dir.moved (dirKey layer index) % 256) % 256 ≤ 127

/-- Whether a layer's entries are staged by an open update (06 R179). -/
def layerStaged (s : State) (layer : Nat) : Bool :=
  s.dir.staged.any (fun st => st.entries.any (fun e => e.layer.toNat == layer))

/-! ## Reaching owners -/

/-- A peer as this device sees it (12 R327). -/
def peerOf (s : State) (pos : Nat) : Peer := amGet {} s.grp.peers pos

/-- The end of a command that needs an owner at a group position that cannot be reached (06 R161, R169; 12 R321, R328). -/
def ownerLost (s : State) (pos : Nat) : Option End :=
  if pos = myPos s then none
  else if !reachable s (deviceOf s pos) then some (fails LINK_LOST 0)
  else if !(peerOf s pos).live then some (fails PEER_LOST pos)
  else none

/-- The first end among owners. -/
def ownersLost (s : State) : List Nat → Option End
  | [] => none
  | o :: os => match ownerLost s (o / 8) with
    | some e => some e
    | none => ownersLost s os

/-! ## Ranges -/

/-- The first poisoned block of ranges that a command reads whole (08 R241). -/
def readPoison (s : State) : List (Nat × Nat) → Option Nat
  | [] => none
  | (a, n) :: rs => match poisonIn s a n with
    | some c => some c
    | none => readPoison s rs

/-- The first poisoned block that writes of ranges would cover in part (08 R241). -/
def writePoison (s : State) : List (Nat × Nat) → Option Nat
  | [] => none
  | (a, n) :: rs => match partialPoison s a n with
    | some c => some c
    | none => writePoison s rs

/-- What ranges say before a command touches them: parked behind a retrain (08 R244), or poisoned (08 R241). -/
def rangesStop (s : State) (reads writes : List (Nat × Nat)) : Option (End ⊕ Phase) :=
  if rangesTrain s ((reads ++ writes).map (fun r => (0, r.1, r.2, 0))) then some (.inr .parked)
  else match readPoison s reads with
    | some c => some (.inl (fails MEMORY_POISONED c))
    | none => (writePoison s writes).map (fun c => .inl (fails MEMORY_POISONED c))

/-- The first R414 range that is not allowed: its status and packet offset (02 R414). -/
def lateRange (s : State) (c u : Nat) (rs : List (Nat × Nat × Nat × Nat)) : Option End :=
  (badRange s c u rs).map (fun x => fails x.1 x.2)

/-- A run of u32 values as bytes. -/
def u32Bytes (vs : List Nat) : List Byte := (vs.map (leBytes 4)).flatten

end Sys2Proof.Machine
end

