-- ==== Sys2Proof/Machine/Windows.lean ====
section
/-! DEFINITION. Orders and intake windows (02 R64-R67): who holds an object, precedence, joining a window, and kernel safety
actions on an object whose window is open. -/

namespace Sys2Proof.Machine

/-- The kernel core of a die (01 R18). -/
def kernelCore (d : Nat) : Nat := uid 6 d 0

/-- The die whose kernel core holds an object's window (02 R66). -/
def holderDie : OrderObj → Nat
  | .item u _ => min (uDie u.toNat) 12
  | .unit u => min (uDie u.toNat) 12
  | .channel ch => min (uDie ch.toNat) 12
  | .ctx _ => 12
  | .slot _ => 12
  | .dirKey _ => 12
  | .device => 12

/-- Whether order b, which joined later, wins over order a (02 R67): rank, then the lower origin ID, then the one that
joined last. -/
def beats (a b : Order) : Bool :=
  if orderRank a.origin != orderRank b.origin then orderRank b.origin < orderRank a.origin else b.origin ≤ a.origin

/-- The winner among orders (02 R67). -/
def winnerOf : List Order → Option Order
  | [] => none
  | o :: os => some (os.foldl (fun a b => if beats a b then b else a) o)

/-- Whether two orders of one object have the same effect (02 R64). -/
def sameEffect (a b : Order) : Bool := a.kind == b.kind && a.value == b.value

/-- The open window of an object. -/
def windowOf (s : State) (obj : OrderObj) : Option Window := s.gz.windows.find? (fun w => w.obj == obj)

/-- An order joins its object's window, or opens one (02 R65, R66). -/
def joinWindow (obj : OrderObj) (o : Order) (s : State) : State :=
  match windowOf s obj with
  | some _ => { s with gz := { s.gz with windows := s.gz.windows.map (fun w =>
      if w.obj == obj then { w with orders := w.orders ++ [o] } else w) } }
  | none =>
    count { s with gz := { s.gz with windows := s.gz.windows ++ [⟨obj, [o], none⟩] } } (kernelCore (holderDie obj)) 0x20 1

/-- A call that the kernel gate of a die has taken or refused (13 R339; 14 R386). -/
def gateCount (d : Nat) (taken : Bool) (s : State) : State :=
  event (count s (kernelCore d) (if taken then 0x10 else 0x18) 1) (uid 0 d 0) 0x0004 0 1

/-- A call that the kernel gate refuses, other than a configuration write, is ledgered with its status (13 R339, R356). -/
def callRefused (die origin obj field ctx : Nat) (e : End) (s : State) : State :=
  ledgerEv die (mkEv origin 0x0D obj field ctx 0 0 e.status true) s

/-- The effect of a packet's order: its opcode and its parameters. -/
def effectOf (i : Instr) : Nat × Nat := ((opcodeOf i).getD 0, leNat (paramBytes i))

/-- A packet's order takes its place in the windows of its objects, or is turned away for want of room in the ledger
(13 R339 order 4, R358). -/
def joinAll (objs : List (OrderObj × Nat × Nat)) (j : Job) (s : State) : RunRes :=
  let d := (ringOf s j.ring).home
  let s := count s (uid 4 d 0) 0x28 1
  if !ledgerRoom s then ends (gateCount d false s) (fails BUSY_DEFER 4)
  else
    waits (objs.foldl (fun s o => joinWindow o.1 ⟨j.origin, j.ring / 256, o.2.1, o.2.2, some j.id⟩ s) (gateCount d true s)) .inWindow

/-- A packet's order on one object (02 R64, R65). -/
def runOrder (obj : OrderObj) (j : Job) (s : State) : RunRes :=
  joinAll [(obj, effectOf j.cmd)] j s

/-- Take a job's orders out of every window: it has ended. -/
def leaveWindows (id : Nat) (s : State) : State :=
  { s with gz := { s.gz with windows := s.gz.windows.map (fun w => { w with orders := w.orders.filter (fun o => o.job != some id) }) } }

end Sys2Proof.Machine
end

