-- ==== Sys2Proof/Machine/Channels.lean ====
section
/-! DEFINITION. Stacked memory (08): channel requests, patrols, retraining, map-out, re-stripe and remap epochs. -/

namespace Sys2Proof.Machine

/-- 48 MiB: what one channel holds (08 R223). -/
def chanBytes : Nat := 48 * 2 ^ 20

/-- Channels in a side's interleave (08 R228). -/
def interleaved (sd : Side) : Nat := 512 - sd.out.length

/-- The channel's number within its side (08 R223). -/
def chanNo (ch : Nat) : Nat := uInst ch % 512

/-- MAPOUT_POLICY of a side (08 R247). -/
def mapPolicy (s : State) (side : Nat) : Nat := item s side 0x50

/-! ## States of channels and sides -/

/-- Give a channel a state; flash keeps the channels that are not in service (14 R370). -/
def setChanState (ch : Nat) (c : ChanState) (s : State) : State :=
  let s := modChan s ch (fun x => { x with state := c })
  { s with flash := { s.flash with badChans :=
      (if c == .inService then amDel s.flash.badChans ch else amPut s.flash.badChans ch c) } }

/-- A side is ready while 448 channels are in service (08 R224): the change is ledgered under cause 8. -/
def sideCheck (side : Nat) (s : State) : State :=
  let h := health s side
  if inService s side < 448 then setReady side false 8 s
  else if !h.ready && h.lastCause = 8 then setReady side true 8 s
  else s

/-- The top 48 MiB of a side's populated range (08 R248). -/
def tailOf (s : State) (side : Nat) : Nat := sideBase side + (sideOf s side).populated - chanBytes

/-- Whether an extent of a live context overlaps a range (08 R236, R248). -/
def extentOver (s : State) (a n : Nat) : Bool :=
  s.gz.ctxs.any (fun c => c.2.live && c.2.extents.any (fun e => e.2.limit != 0 && e.2.base < a + n && a < e.2.limit))

/-- Whether a channel holds one of n granules from a. -/
def granuleOn (s : State) (ch a : Nat) : Nat → Bool
  | 0 => false
  | n + 1 => chanOf s a == ch || granuleOn s ch (a + 256) n

/-- Whether an extent holds granules of a channel (08 R250): 1,100 granules at either end meet every channel of each
interleave that the extent lies on. -/
def extentOnChan (s : State) (ch : Nat) (e : Extent) : Bool :=
  let n := (e.limit - e.base) / 256
  e.limit != 0 && regionOf e.base == .side (channelSide ch) (e.base - sideBase (channelSide ch)) &&
    (granuleOn s ch e.base (min n 1100) || granuleOn s ch (e.limit - 256 * min n 1100) (min n 1100))

/-! ## Map-out (08 R247-R251) -/

/-- The checks of a soft map-out, in order (08 R248). -/
def softStop (s : State) (ch : Nat) : Option End :=
  let side := channelSide ch
  if extentOver s (tailOf s side) chanBytes then some (fails BAD_STATE 0x20)
  else if (sideOf s side).front.isSome then some (fails BAD_STATE 0x20)
  else if (chan s ch).state != .inService then some (fails BAD_STATE 0x20)
  else if inService s side ≤ 448 then some (fails BAD_STATE 0x24)
  else none

/-- Set the re-stripe front (08 R249 order 3). -/
def softMapOut (ch origin : Nat) (s : State) : State :=
  let side := channelSide ch
  let s := modSide s side (fun d => { d with front := some 0, outgoing := chanNo ch, frozen := false, pendingSoft := none })
  ledger (uDie ch) origin 8 ch 1 0 0 1 0 s

/-- The kernel's map-out as an order that an open window of the channel meets (02 R65). -/
def mapOutAct (ch mode : Nat) (s : State) : State :=
  let e := effectOf (.mapOut ⟨0, 0, 0, false, false, false, 0, 0, 0, 0⟩ ⟨BitVec.ofNat 32 ch, BitVec.ofNat 8 mode⟩)
  actOn (.channel (BitVec.ofNat 32 ch)) ⟨kernelOrigin (uDie ch), 0, e.1, e.2, none⟩ s

/-- The kernel's own soft map-out: postponed and ledgered while the tail is occupied (08 R248). -/
def autoSoft (ch : Nat) (s : State) : State :=
  let side := channelSide ch
  match softStop s ch with
  | none => softMapOut ch (kernelOrigin (uDie ch)) (mapOutAct ch 0 s)
  | some _ =>
    if extentOver s (tailOf s side) chanBytes && (sideOf s side).front.isNone && (chan s ch).state == .inService &&
        (sideOf s side).pendingSoft.isNone then
      ledgerEv (uDie ch) (mkEv (kernelOrigin (uDie ch)) 8 ch 1 0 0 1 0 true)
        (modSide s side (fun d => { d with pendingSoft := some ch }))
    else s

/-- One ledger entry for each context that has extents on a channel (08 R250). -/
def reportContexts (ch origin : Nat) (s : State) : State :=
  (s.gz.ctxs.filter (fun c => c.2.live && c.2.extents.any (fun e => extentOnChan s ch e.2))).foldl
    (fun s c => ledger (uDie ch) origin 8 c.1 2 c.1 0 0 0 s) s

/-- The blocks of a channel that signal waiters wait on are poisoned with it (08 R241, 10 R279). -/
def losePoison (ch : Nat) (s : State) : State :=
  ((s.sig.waiters.filter (fun w => chanOf s w.addr == ch)).map (fun w => w.addr / 32)).foldl poisonWaiters s

/-- A hard map-out of a channel in service (08 R250, R251): its granules are poisoned, a re-stripe of its side freezes, and
the requests parked on it end. -/
def hardMapOut (ch origin : Nat) (s : State) : State :=
  let side := channelSide ch
  let s := setChanState ch .lost s
  let s := modChan s ch (fun c => { c with training := false, queue := [], wasLost := true })
  let s := modSide s side (fun d => { d with
    frozen := d.front.isSome
    pendingSoft := if d.pendingSoft = some ch then none else d.pendingSoft
    due := d.due.filter (· != ch)
    retraining := if d.retraining = some ch then none else d.retraining })
  let s := ledger (uDie ch) origin 8 ch 2 0 0 2 0 s
  sideCheck side (losePoison ch (reportContexts ch origin s))

/-- The kernel's own hard map-out (08 R245, R247). -/
def autoHard (ch : Nat) (s : State) : State := hardMapOut ch (kernelOrigin (uDie ch)) (mapOutAct ch 1 s)

/-- The end of a hard map-out as an order, and its effect (08 R250). A returnable channel answers as it did before its
calibration (DEDUCED, log entry 41). -/
def hardOrder (ch origin : Nat) (s : State) : State × End :=
  let c := chan s ch
  match c.state with
  | .inService => (hardMapOut ch origin s, done 0)
  | .softOut => (s, done 0)
  | .lost => (s, fails BAD_STATE 0x20)
  | .returnable => (s, if c.wasLost then fails BAD_STATE 0x20 else done 0)

/-- A MAP_OUT at the close of its window (08 R248, R250). A refused one is ledgered and changes nothing. -/
def mapOutApply (p : PMapOut) (origin : Nat) (s : State) : State × End :=
  let ch := p.channel.toNat
  if p.mode = 0 then
    match softStop s ch with
    | none => (softMapOut ch origin s, done 0)
    | some e => (callRefused (uDie ch) origin ch 1 0 e s, e)
  else
    let r := hardOrder ch origin s
    if r.2.status = DONE && (chan s ch).state == .inService then r
    else if r.2.status = DONE then (ledger (uDie ch) origin 8 ch 2 0 0 0 0 r.1, r.2)
    else (callRefused (uDie ch) origin ch 2 0 r.2 r.1, r.2)

/-- Checks of MAP_OUT (02 R54; 08 R248). -/
def preMapOut (h : Hdr) (p : PMapOut) (s : State) : Pre :=
  let ch := p.channel.toNat
  { preCore h s with
    fields := [(0x20, uidValid ch && uKind ch = 0xB), (0x24, p.mode.toNat < 2)]
    units := [(0x20, ch)] }

/-- MAP_OUT (02 R53): an order on its channel. -/
def execMapOut (h : Hdr) (p : PMapOut) (s : State) : Host.Outcome State Fault Refusal :=
  .next (issue (preMapOut h p s) (runOrder (.channel p.channel)) (.mapOut h p) s)

/-- MAPOUT_RETRY: the postponed soft map-out of a side is tried again (08 R248). -/
def execMapoutRetry (side : Word32) (s : State) : Host.Outcome State Fault Refusal :=
  let u := side.toNat
  .next (settle (match (sideOf s u).pendingSoft with
    | none => s
    | some ch => match softStop s ch with
      | none => softMapOut ch (kernelOrigin (uDie ch)) (mapOutAct ch 0 s)
      | some _ =>
        if (chan s ch).state != .inService then modSide s u (fun d => { d with pendingSoft := none }) else s))

/-! ## The re-stripe (08 R249) -/

/-- Poison the blocks of one granule: its old channel has lost them (08 R241). -/
def keepPoison (a : Nat) (s : State) : State :=
  { s with mem := { s.mem with poison := (List.range 8).foldl (fun l i => insertSorted (a / 32 + i) l) s.mem.poison } }

/-- Granules from a whose channel is lost keep their poison when they move. -/
def moveGranules (a : Nat) : Nat → State → State
  | 0, s => s
  | n + 1, s => moveGranules (a + 256) n (if chanPoisoned (chan s (chanOf s a)) then keepPoison a s else s)

/-- The re-stripe completes: the side shrinks by 48 MiB and the channel is out (08 R249 order 5). -/
def restripeDone (side : Nat) (s : State) : State :=
  let sd := sideOf s side
  let ch := chanUnit side sd.outgoing
  let p := sd.populated - chanBytes
  let s := setChanState ch .softOut s
  let s := modSide s side (fun d => { d with out := insertSorted d.outgoing d.out, populated := p, front := none, outgoing := 0 })
  sideCheck side (ledger (uDie side) (hwOrigin (uDie side)) 8 ch 3 0 sd.populated p 0 s)

/-- RESTRIPE_MOVE: one new stripe moves and the front advances, unless a retrain of the side pauses it or it is frozen
(08 R249, R251). -/
def execRestripeMove (side : Word32) (s : State) : Host.Outcome State Fault Refusal :=
  let u := side.toNat
  let sd := sideOf s u
  .next (settle (match sd.front with
    | none => s
    | some f =>
      if sd.frozen || sd.retraining.isSome then s
      else
        let n := interleaved sd - 1
        let s := if s.mem.chans.any (fun c => channelSide c.1 == u && chanPoisoned c.2) then moveGranules (sideBase u + f) n s else s
        let s := modSide s u (fun d => { d with front := some (f + 256 * n) })
        if sd.populated ≤ f + 256 * n + chanBytes then restripeDone u s else s))

/-! ## Requests (08 R232, R240, R241) -/

/-- Ticks of the last 10 s (08 R247). -/
def last10s (s : State) (l : List Nat) : List Nat := l.filter (fun t => s.now - t < 10000000000)

/-- A corrected block (08 R240, R247): counted at its side and channel, for the context that read it, and toward
CE_LIMIT. -/
def correctedBlock (ch : Nat) (ctx : Option Nat) (s : State) : State :=
  let side := channelSide ch
  let s := count (count s side 0x28 1) ch 0x20 1
  let s := match ctx with | some c => record s c [(0x80, 1)] | none => s
  let s := modChan s ch (fun c => { c with ce := s.now :: last10s s c.ce })
  let pol := mapPolicy s side
  if bit pol 0 && bits pol 1 15 ≤ (chan s ch).ce.length then autoSoft ch s else s

/-- An uncorrectable block (08 R241, R247): poisoned, counted, and toward UE_LIMIT. -/
def uncorrectableBlock (ch block : Nat) (ctx : Option Nat) (s : State) : State :=
  let side := channelSide ch
  let s := count (count s side 0x30 1) ch 0x28 1
  let s := match ctx with | some c => record s c [(0x90, 1)] | none => s
  let s := modChan s ch (fun c => { c with ue := s.now :: last10s s c.ue })
  let s := poisonBlock s block
  let pol := mapPolicy s side
  if bit pol 0 && bits pol 16 8 ≤ (chan s ch).ue.length && (chan s ch).state == .inService then autoHard ch s else s

/-- A block is read under its code (05 R142, 08 R240, R241). -/
def readBlock (ch block : Nat) (ctx : Option Nat) (e : Ecc) (s : State) : State :=
  match e with
  | .clean => s
  | .corrected => correctedBlock ch ctx s
  | .uncorrectable => uncorrectableBlock ch block ctx s

/-- Whether a block lies on a channel and is populated. -/
def onChannel (s : State) (ch block : Nat) : Bool := mapped s (32 * block) 32 && chanOf s (32 * block) == ch

/-- A channel serves a request (08 R232, R240, R241): a read, a full write, which clears an ECC poison, or a partial write,
merged by read-modify-write and not made on a poisoned block. A write to a lost channel is discarded. -/
def serveRequest (ch : Nat) (r : ChanReq) (e : Ecc) (s : State) : State :=
  let b := r.block.toNat / 32
  let c := r.ctx.toNat
  if !onChannel s ch b then s
  else
    let s := event s (channelSide ch) (0xA001 + r.cls.val) c 1
    let lost := chanPoisoned (chan s ch)
    let w : Who := ⟨r.unit.toNat, unitOrigin r.unit.toNat (0x4000 + c), c, s.gz.nextJob, 256 * c⟩
    match r.write with
    | none => if lost || blockPoisoned s b then s else readBlock ch b (some c) e s
    | some (off, bs) =>
      let bs := bs.take (32 - off)
      if bs.isEmpty then s
      else if off = 0 && bs.length = 32 then (if lost then s else storeNow s w (32 * b) bs)
      else if lost || blockPoisoned s b then s
      else
        let s := readBlock ch b (some c) e s
        if blockPoisoned s b || chanPoisoned (chan s ch) then s else storeNow s w (32 * b + off) bs

/-- CHANNEL_REQUEST: a channel in training parks the request; otherwise it is served (08 R232, R244). -/
def execChannelRequest (ch : Word32) (r : ChanReq) (e : Ecc) (s : State) : Host.Outcome State Fault Refusal :=
  let u := ch.toNat
  .next (settle (
    if !onChannel s u (r.block.toNat / 32) then s
    else
      let s := arrival s (channelSide u) 0xA080 r.ctx.toNat
      if (chan s u).training then modChan s u (fun c => { c with queue := c.queue ++ [(r, s.now)] })
      else serveRequest u r e s))

/-- Whether a block is the last one that a channel's patrol reads (08 R240). -/
def lastBlock (s : State) (block : Nat) : Bool :=
  match regionOf (32 * block) with
  | .side u off =>
    let sd := sideOf s u
    block % 8 = 7 && placeRow sd off + 1 = sd.populated / 256 / interleaved sd
  | _ => false

/-- PATROL_SCRUB: the channel's patrol reads a block it holds; the last block completes a patrol (08 R240). -/
def execPatrolScrub (ch : Word32) (block : Word64) (e : Ecc) (s : State) : Host.Outcome State Fault Refusal :=
  let u := ch.toNat
  let b := block.toNat / 32
  .next (settle (
    if !onChannel s u b || chanPoisoned (chan s u) then s
    else
      let s := event (count s u 0x30 (b2n (lastBlock s b))) (channelSide u) 0xA003 0 1
      if blockPoisoned s b then s else readBlock u b none e s))

/-! ## Retraining (08 R243-R246) -/

/-- Whether a CALIBRATE_CHANNEL waits for a channel's retrain. -/
def calibrating (s : State) (ch : Nat) : Bool :=
  s.gz.jobs.any (fun j => match j.cmd, j.phase with
    | .calibrateChannel _ p, .retrain => p.channel.toNat == ch
    | _, _ => false)

/-- A channel starts training (08 R244 order 1). -/
def trainChannel (ch : Nat) (s : State) : State :=
  modChan (modSide s (channelSide ch) (fun d => { d with retraining := some ch, due := d.due.filter (· != ch) })) ch
    (fun c => { c with training := true })

/-- A retrain falls due: it starts if its side trains no other channel, and queues otherwise; a CALIBRATE_CHANNEL goes before
the others (08 R243). -/
def dueRetrain (first : Bool) (ch : Nat) (s : State) : State :=
  let side := channelSide ch
  let sd := sideOf s side
  if sd.retraining = some ch then s
  else if sd.retraining.isNone then trainChannel ch s
  else if first then modSide s side (fun d =>
    let (cal, rest) := (d.due.filter (· != ch)).partition (fun c => calibrating s c)
    { d with due := cal ++ ch :: rest })
  else if sd.due.contains ch then s
  else modSide s side (fun d => { d with due := d.due ++ [ch] })

/-- RETRAIN_START: the base die retrains a channel in service, or one that a calibration names (08 R243). -/
def execRetrainStart (ch : Word32) (s : State) : Host.Outcome State Fault Refusal :=
  let u := ch.toNat
  .next (settle (
    if (chan s u).state == .inService || calibrating s u then dueRetrain (calibrating s u) u s else s))

/-- The next due channel of a side trains (08 R243). -/
def nextRetrain (side : Nat) (s : State) : State :=
  match (sideOf s side).due with
  | [] => s
  | c :: _ => if (sideOf s side).retraining.isNone then trainChannel c s else s

/-- The highest class that has a request waiting, a request that waited 2 µs before all (08 R232). -/
def nextRequest (q : List (ChanReq × Nat)) : Option (ChanReq × Nat) :=
  match q.find? (fun r => r.1.aged) with
  | some r => some r
  | none => match q.find? (fun r => r.1.cls.val = 0) with
    | some r => some r
    | none => match q.find? (fun r => r.1.cls.val = 1) with
      | some r => some r
      | none => q.head?

/-- Serve n parked requests, oldest of the highest class first; the code finds nothing in what they read (08 R244). -/
def serveQueue (ch : Nat) : Nat → State → State
  | 0, s => s
  | n + 1, s => match nextRequest (chan s ch).queue with
    | none => s
    | some r =>
      let s := countMax (countMax s (channelSide ch) 0x40 (s.now - r.2)) ch 0x38 (s.now - r.2)
      serveQueue ch n (serveRequest ch r.1 .clean (modChan s ch (fun c => { c with queue := c.queue.erase r })))

/-- End the calibrations of a channel. -/
def endCalibrations (ch : Nat) (e : End) (s : State) : State :=
  (s.gz.jobs.filter (fun j => match j.cmd, j.phase with
    | .calibrateChannel _ p, .retrain => p.channel.toNat == ch
    | _, _ => false)).foldl (fun s j => endJob s j.id e) s

/-- A channel's training ends (08 R244-R246): it returns to service and serves what is parked, is mapped out hard, becomes
returnable, or stays out. -/
def endTraining (ch : Nat) (passed : Bool) (s : State) : State :=
  let side := channelSide ch
  let c := chan s ch
  let s := count (count s side 0x38 1) ch 0x18 1
  let s := modSide s side (fun d => { d with retraining := none })
  let s := modChan s ch (fun c => { c with training := false })
  match c.state with
  | .inService =>
    if passed then serveQueue ch c.queue.length (endCalibrations ch (done 0) s)
    else autoHard ch (endCalibrations ch (unitFault ch) s)
  | .returnable => endCalibrations ch (done (b2n (!passed))) s
  | st =>
    if passed then
      endCalibrations ch (done 0) (setChanState ch .returnable (modChan s ch (fun c => { c with wasLost := st == .lost })))
    else endCalibrations ch (done 1) s

/-- Checks of CALIBRATE_CHANNEL (02 R54). -/
def preCalibrate (h : Hdr) (p : PCalibrate) (s : State) : Pre :=
  let ch := p.channel.toNat
  { preCore h s with
    fields := [(0x20, uidValid ch && uKind ch = 0xB)]
    units := [(0x20, ch)] }

/-- CALIBRATE_CHANNEL (02 R53): an order on its channel. -/
def execCalibrateChannel (h : Hdr) (p : PCalibrate) (s : State) : Host.Outcome State Fault Refusal :=
  .next (issue (preCalibrate h p s) (runOrder (.channel p.channel)) (.calibrateChannel h p) s)

/-! ## Remap epochs (08 R252) -/

/-- Whether a remap epoch affects a side (08 R252). -/
def affected (s : State) (side : Nat) : Bool :=
  (sideOf s side).front.isSome ||
    0 < chansIn s side (fun c => c.state == .lost || c.state == .returnable)

/-- Every stack side, in ascending unit ID. -/
def allSides : List Nat := (List.range 8).flatMap (fun d => (List.range 16).map (fun i => uid 0xA d i))

/-- The sides that a remap epoch affects. -/
def affectedSides (s : State) : List Nat := allSides.filter (affected s)

/-- What a side's lost channels leave poisoned at a remap epoch, at its offsets (08 R252). -/
def keptOf (s : State) (side : Nat) : List KeptPoison :=
  let sd := sideOf s side
  let chs := (List.range 512).filter (fun n => chanPoisoned (chan s (chanUnit side n)))
  if chs.isEmpty then [] else [⟨side, sd, chs, sd.populated, []⟩]

/-- Drop what lies on a side at or above an offset. -/
def dropAbove (side p : Nat) (s : State) : State :=
  let lo := sideBase side + p
  let hi := sideBase side + 2 ^ 35
  { s with mem := { s.mem with
    cells := s.mem.cells.filter (fun c => c.1 < lo || hi ≤ c.1)
    poison := s.mem.poison.filter (fun b => 32 * b < lo || hi ≤ 32 * b)
    kept := s.mem.kept.map (fun k => if k.side = side then { k with limit := min k.limit p } else k)
    undef := undefCut lo (2 ^ 35 - p) s.mem.undef } }

/-- A channel's state after its side's remap: returnable ones rejoin, an outgoing one is out (08 R252). -/
def remapChannel (out : Option Nat) (ch : Nat) (s : State) : State :=
  match (chan s ch).state with
  | .returnable => setChanState ch .inService (modChan s ch (fun c => { c with wasLost := false }))
  | .inService => if out = some (chanNo ch) then setChanState ch .softOut s else s
  | _ => s

/-- Re-stripe one side at a remap epoch: poison stays at its offsets, a grown side's new top reads zeros, a shrunk side
loses its top (08 R252). -/
def remapSide (epoch origin side : Nat) (s : State) : State :=
  let sd := sideOf s side
  let kept := keptOf s side
  let outgoing := if sd.front.isSome then some sd.outgoing else none
  let s := ((List.range 512).map (chanUnit side)).foldl (fun s ch => remapChannel outgoing ch s) s
  let out := (List.range 512).filter (fun n => (chan s (chanUnit side n)).state != .inService)
  let p := (512 - out.length) * chanBytes
  let s := { s with mem := { s.mem with kept := s.mem.kept ++ kept } }
  let s := dropAbove side (min p sd.populated) s
  let s := modSide s side (fun d => { d with out := out, populated := p, front := none, outgoing := 0, frozen := false, pendingSoft := none })
  sideCheck side (ledger (uDie side) origin 8 side 4 0 (512 - sd.out.length) (512 - out.length) epoch s)

/-- REMAP_EPOCH at the close of its window (08 R252). `busy` says that a context other than 0 has a dispatched command with
a checked range on an affected side. -/
def remapApply (p : PRemapEpoch) (busy : Bool) (origin : Nat) (s : State) : State × End :=
  let e := p.epoch.toNat
  let refuse (x : End) : State × End := (callRefused 12 origin 0 4 0 x s, x)
  if e ≤ s.grp.remapEpoch then refuse (fails BAD_STATE 0x20)
  else if busy then refuse (fails BUSY_DEFER 3)
  else
    let sides := affectedSides s
    let s' := { s with grp := { s.grp with remapEpoch := e } }
    if sides.isEmpty then (ledger 12 origin 8 0 4 0 s.grp.remapEpoch e e s', done 0)
    else (sides.foldl (fun s u => remapSide e origin u s) s', done sides.length)

/-- REMAP_EPOCH (02 R53): an order on the device. -/
def execRemapEpoch (h : Hdr) (p : PRemapEpoch) (s : State) : Host.Outcome State Fault Refusal :=
  .next (issue (preCore h s) (runOrder .device) (.remapEpoch h p) s)

end Sys2Proof.Machine
end

