-- ==== Sys2Proof/Machine/Claims.lean ====
section
/-! DEFINITION. Watersheds and Confluences as tables (06 R149, R150; 07 R191-R193, R215): open rounds, remembered tags,
claims and their place in the combine area, and route records (06 R170). -/

namespace Sys2Proof.Machine

/-! ## Watersheds -/

/-- Unit ID of a die's Watershed (01 R18). -/
def wsUnit (d : Nat) : Nat := uid 7 d 0
/-- Unit ID of a die's Confluence (01 R18). -/
def cfUnit (d : Nat) : Nat := uid 8 d 0

/-- A die's Watershed. -/
def wsOf (s : State) (d : Nat) : Watershed := amGet {} s.ws d
/-- Change a die's Watershed. -/
def modWs (s : State) (d : Nat) (f : Watershed → Watershed) : State := { s with ws := amMod {} s.ws d f }

/-- The open round of a tag. -/
def roundOf (s : State) (d tag : Nat) : Option Round := (wsOf s d).rounds.find? (fun r => r.tag == tag)
/-- Change the open round of a tag. -/
def modRound (s : State) (d tag : Nat) (f : Round → Round) : State :=
  modWs s d (fun w => { w with rounds := w.rounds.map (fun r => if r.tag == tag then f r else r) })
/-- Close the round of a tag (06 R149); the Watershed counts it. -/
def closeRound (s : State) (d tag : Nat) : State :=
  let s := count s (wsUnit d) 0x18 ((wsOf s d).rounds.countP (fun r => r.tag == tag))
  modWs s d (fun w => { w with rounds := w.rounds.filter (fun r => r.tag != tag) })

/-- A remembered tag (06 R150). -/
def tagOf (s : State) (d tag : Nat) : Option TagRec := (wsOf s d).tags.find? (fun r => r.tag == tag)
/-- Change a remembered tag. -/
def modTag (s : State) (d tag : Nat) (f : TagRec → TagRec) : State :=
  modWs s d (fun w => { w with tags := w.tags.map (fun r => if r.tag == tag then f r else r) })
/-- Remember a tag as the newest of 4,096 (06 R150). -/
def rememberTag (s : State) (d : Nat) (t : TagRec) : State := modWs s d (fun w => { w with tags := (t :: w.tags).take 4096 })

/-- Whether RT_COUNT, RT_DISPATCH and RT_REPLAY refuse a tag: unknown, or cancelled (02 R56, 06 R150). -/
def tagDead (t : Option TagRec) : Bool := match t with | none => true | some t => t.cancelled

/-- Note owners that were sent counts or rows of a tag (06 R173). -/
def noteOwners (s : State) (d tag : Nat) (os : List Nat) : State :=
  modTag s d tag (fun t => { t with owners := t.owners ++ distinct (os.filter (fun o => !t.owners.contains o)) })

/-! ## Claims (07 R191, R192, R215) -/

/-- A die's Confluence. -/
def cfOf (s : State) (d : Nat) : Confluence := amGet {} s.cf d
/-- Change a die's Confluence. -/
def modCf (s : State) (d : Nat) (f : Confluence → Confluence) : State := { s with cf := amMod {} s.cf d f }

/-- The open claim of a tag and direction. -/
def claimOf (s : State) (d tag : Nat) (grad : Bool) : Option Claim :=
  (cfOf s d).claims.find? (fun c => c.tag == tag && c.grad == grad)
/-- Change an open claim. -/
def modClaim (s : State) (d tag : Nat) (grad : Bool) (f : Claim → Claim) : State :=
  modCf s d (fun c => { c with claims := c.claims.map (fun x => if x.tag == tag && x.grad == grad then f x else x) })

/-- Rows of a claim whose check has been made (05 R140). -/
def rowsDone (c : Claim) : Nat := (c.rows.filter (fun r => r.2.final || r.2.failed)).length
/-- The end of a command bound to a claim that stops before its rows are done, with the checks and stale arrivals it has counted
(02 R50; 07 R194). -/
def boundEnd (s : State) (c : Claim) (id : Nat) (e : End) : End :=
  { e with checks := rowsDone c, record := [(0x68, rowsDone c)], drops := ((jobOf s id).map (·.drops)).getD 0 }

/-- COMBINE_AREA SIZE of a die's Confluence (07 R193). -/
def areaSize (s : State) (d : Nat) : Nat := bits (item s (cfUnit d) 0x30) 16 13
/-- COMBINE_AREA BASE of a die's Confluence (07 R193). -/
def areaBase (s : State) (d : Nat) : Nat := bits (item s (cfUnit d) 0x30) 0 13

/-- 64 KiB units in claims of a list. -/
def claimUnits (cs : List Claim) : Nat := (cs.map (·.units)).foldl (· + ·) 0

/-- Units of the combine area that TOKENS rows of E elements take (07 R192). -/
def unitsFor (tokens e : Nat) : Nat := ceilDiv (tokens * (4 * e + 16)) 65536

/-- Whether two claims may not be open together in SEQUENTIAL mode: a dispatch and a gradient replay (07 R215). -/
def sequentialClash (a b : Claim) : Bool := (a.dispatch && b.grad) || (a.grad && b.dispatch)

/-- Whether a claim must wait for its place (07 R191, R192, R215). -/
def claimWaits (s : State) (d : Nat) (c : Claim) : Bool :=
  let cs := (cfOf s d).claims
  cs.any (fun x => x.tag == c.tag && x.grad == c.grad) || 64 ≤ cs.length || areaSize s d < claimUnits cs + c.units ||
    (!(ctxOf s c.ctx).overlap && cs.any (fun x => x.ctx == c.ctx && sequentialClash x c))

/-- Open a claim: its number is one above the previous claim of the tag, the first being 0 (07 R191). -/
def openClaim (s : State) (d : Nat) (c : Claim) : State :=
  let n := match amFind (cfOf s d).lastNum c.tag with | some n => (n + 1) % 256 | none => 0
  let s := arrival s (cfUnit d) 0x8080 c.ctx
  let s := modCf s d (fun f => { f with claims := f.claims ++ [{ c with num := n }], lastNum := amPut f.lastNum c.tag n })
  let s := countMax s (cfUnit d) 0x12 (claimUnits (cfOf s d).claims)
  modCf s d (fun f => { f with ctxHwm := amMod 0 f.ctxHwm c.ctx (max (claimUnits (f.claims.filter (fun x => x.ctx == c.ctx)))) })

/-- A claim before it has its number. -/
def newClaim (ctx tag : Nat) (grad replay disp : Bool) (route k tokens rb fmt : Nat) : Claim :=
  let e := match fmtOf fmt with | some c => rb / (c.bitsN / 8) | none => 0
  { ctx := ctx, tag := tag, grad := grad, replay := replay, dispatch := disp, num := 0, route := route, k := k,
    tokens := tokens, rowBytes := rb, fmt := fmt, e := e, units := unitsFor tokens e, expect := [], rows := [], job := none,
    sink := false }

/-- Close a claim (07 R200): its unfinalised rows are gone, and what it had outstanding is no longer waited for. -/
def closeClaim (s : State) (d tag : Nat) (grad : Bool) : State :=
  let s := modCf s d (fun c => { c with claims := c.claims.filter (fun x => !(x.tag == tag && x.grad == grad)) })
  modTag s d tag (fun t => { t with outstanding := t.outstanding.filter (fun o => o.2.2 != grad) })

/-! ## Route records (06 R170) -/

/-- A route record's fields. -/
structure RouteRec where
  expert : Nat
  rank : Nat
  layer : Nat
  pad : Bool
  lookup : Bool
  admitted : Bool
  spilled : Bool
  /-- SLOT, or ROW_OFFSET of a lookup. -/
  slot : Nat
  ownerPos : Nat
  ownerDie : Nat
  weight : Nat
  tag : Nat
  epoch8 : Nat
  deriving DecidableEq, Repr

/-- The 16 bytes of a route record. -/
def recBytes (r : RouteRec) : List Byte :=
  let w0 := r.expert + 2 ^ 13 * r.rank + 2 ^ 16 * r.layer + 2 ^ 26 * b2n r.pad + 2 ^ 27 * b2n r.lookup +
    2 ^ 28 * b2n r.admitted + 2 ^ 29 * b2n r.spilled
  let w1 := if r.lookup then r.slot else r.slot + 2 ^ 20 * r.ownerDie + 2 ^ 24 * r.ownerPos
  let w2 := if r.lookup then r.ownerDie + 2 ^ 4 * r.ownerPos else r.weight
  let w1 := if r.pad then 0 else w1
  let w2 := if r.pad then 0 else w2
  u32Bytes [w0, w1, w2, r.tag + 2 ^ 24 * r.epoch8]

/-- The fields of a record's 16 bytes. The weight of a lookup is 1.0 when admitted, else 0. -/
def readRec (b : List Byte) : RouteRec :=
  let w0 := fld b 0 4
  let w1 := fld b 4 4
  let w2 := fld b 8 4
  let w3 := fld b 12 4
  let lk := bit w0 27
  { expert := bits w0 0 13, rank := bits w0 13 3, layer := bits w0 16 10, pad := bit w0 26, lookup := lk,
    admitted := bit w0 28, spilled := bit w0 29, slot := if lk then w1 else bits w1 0 20,
    ownerPos := if lk then bits w2 4 4 else bits w1 24 4, ownerDie := if lk then bits w2 0 3 else bits w1 20 3,
    weight := if lk then (if bit w0 28 then 0x3F800000 else 0) else w2, tag := bits w3 0 24, epoch8 := bits w3 24 8 }

/-- The first byte of a record with a reserved bit set (00 R9, 06 R170). -/
def recRsvd (b : List Byte) : Option Nat :=
  let bad (i m : Nat) : Option Nat := if fld b i 1 &&& m != 0 then some i else none
  let firstOf (l : List (Option Nat)) : Option Nat := l.findSome? id
  if bit (fld b 0 4) 27 then firstOf [bad 3 0xC0, bad 8 0x08, bad 9 0xFF, bad 10 0xFF, bad 11 0xFF]
  else firstOf [bad 3 0xC0, bad 6 0x80, bad 7 0xF0]

/-- The route records that a unit reads from an address, in order. -/
def readRecs (s : State) (u a n : Nat) : List (List Byte) := (List.range n).map (fun i => readBytes s u (a + 16 * i) 16)

/-- The first record of a list with a reserved bit set, as bit 31 and the byte offset from the first (00 R9). -/
def recsRsvd : Nat → List (List Byte) → Option Nat
  | _, [] => none
  | i, b :: bs => match recRsvd b with
    | some o => some (0x80000000 + 16 * i + o)
    | none => recsRsvd (i + 1) bs

end Sys2Proof.Machine
end

