-- ==== Sys2Proof/Machine/Routing.lean ====
section
/-! DEFINITION. The source side of routing (06): top-k selection and lookups, the count round, drops and spill, dispatch,
replay and cancellation. -/

namespace Sys2Proof.Machine

/-! ## Checks of the packets (02 R56; 06 R149-R183) -/

/-- Bytes of a row ID or logit of an FMT_LOGIT (06 R152). -/
def logitSize (fmt : Nat) : Nat :=
  match fmtOf fmt with
  | some c => c.bitsN / 8
  | none => 4

/-- Whether FMT_LOGIT selects lookup mode (06 R152). -/
def isLookup (fmt : Byte) : Bool := fmt = 9 || fmt = 0xA

/-- E′: experts, and the null column of a lookup (06 R155). -/
def ePrime (lookup : Bool) (experts : Nat) : Nat := if lookup then experts + 1 else experts

/-- The Watershed's own fields of a packet's checks: it runs on the home die (02 R46, R53). -/
def preWs (h : Hdr) (s : State) : Pre :=
  let u := wsUnit (ringOf s (ringKey h)).home
  { unit := u, ready := [u] }

/-- What RT_TOPK reads: the logits, or the row IDs (06 R152). -/
def topkIn (p : PRtTopk) : Nat × Nat :=
  (p.logitsAddr.toNat, p.tokens.toNat * (if isLookup p.fmtLogit then p.k.toNat else p.experts.toNat) * logitSize p.fmtLogit.toNat)
/-- What RT_TOPK writes: choices and counts (06 R155). -/
def topkOut (p : PRtTopk) : List (Nat × Nat) :=
  [(p.choiceAddr.toNat, 8 * p.tokens.toNat * p.k.toNat),
   (p.countAddr.toNat, 4 * p.k.toNat * ePrime (isLookup p.fmtLogit) p.experts.toNat)]

/-- Checks of RT_TOPK (02 R56; 06 R152, R183). -/
def preRtTopk (h : Hdr) (p : PRtTopk) (s : State) : Pre :=
  let t := p.tokens.toNat
  let pre := preWs h s
  { pre with
    fields := [(0x38, 1 ≤ t && t ≤ 65536 && t ≤ bits (item s pre.unit 0x20) 0 17), (0x3C, 1 ≤ p.experts.toNat && p.experts.toNat ≤ 8192),
      (0x3E, 1 ≤ p.k.toNat && p.k.toNat ≤ 8 && (isLookup p.fmtLogit || p.k.toNat ≤ p.experts.toNat)),
      (0x3F, [1, 2, 3, 9, 0xA].contains p.fmtLogit.toNat), (0x40, p.layer.toNat < 1024)]
    ranges := (0x20, (topkIn p).1, (topkIn p).2, pRead) ::
      ((topkOut p).zip [0x28, 0x30]).map (fun r => (r.2, r.1.1, r.1.2, pWrite)) }

/-- Checks of RT_COUNT (02 R56, R414). -/
def preRtCount (h : Hdr) (p : PRtCount) (s : State) : Pre :=
  { preWs h s with
    fields := [(0x34, p.layer.toNat < 1024), (0x3A, p.source.toNat < p.sources.toNat)]
    ranges := [(0x20, p.countAddr.toNat, 4, pRead), (0x28, p.quotaAddr.toNat, 4, pWrite)] }

/-- ROW_BYTES of an exchange (06 R167). -/
def rowBytesOk (rb fmt : Nat) : Bool :=
  rb % 32 = 0 && 32 ≤ rb && rb ≤ 1048576 && (match fmtOf fmt with | some c => rb % (c.bitsN / 8) = 0 | none => false)

/-- FMT_ROW of an exchange (06 R167). -/
def rowFmtOk (fmt : Nat) : Bool := 1 ≤ fmt && fmt ≤ 5

/-- Checks of RT_DISPATCH (06 R167; 02 R414). ROWS_ADDR 0, as a lookup has it, is left to the Watershed. -/
def preRtDispatch (h : Hdr) (p : PRtDispatch) (s : State) : Pre :=
  { preWs h s with
    fields := [(0x38, rowFmtOk p.fmtRow.toNat), (0x34, rowBytesOk p.rowBytes.toNat p.fmtRow.toNat)]
    ranges := (if p.rowsAddr = 0 then [] else [(0x20, p.rowsAddr.toNat, p.rowBytes.toNat, pRead)]) ++
      [(0x28, p.routeAddr.toNat, 16, pWrite)] }

/-- Checks of RT_REPLAY (06 R171; 02 R414). -/
def preRtReplay (h : Hdr) (p : PRtReplay) (s : State) : Pre :=
  { preWs h s with
    fields := [(0x34, p.records != 0), (0x38, p.direction.toNat ≤ 1), (0x39, rowFmtOk p.fmtRow.toNat),
      (0x3C, rowBytesOk p.rowBytes.toNat p.fmtRow.toNat)]
    ranges := (0x20, p.routeAddr.toNat, 16 * p.records.toNat, pRead) ::
      (if p.rowsAddr = 0 then [] else [(0x28, p.rowsAddr.toNat, p.rowBytes.toNat, pRead)]) }

/-- RT_CANCEL acts on the Watershed and the Confluence of its die (02 R53). -/
def preRtCancel (h : Hdr) (s : State) : Pre :=
  let d := (ringOf s (ringKey h)).home
  { unit := wsUnit d, ready := [wsUnit d, cfUnit d] }

/-! ## Top-k (06 R153, R154) -/

/-- Whether logit a of a lower expert index gives way to logit b of a higher one: b is greater, or a is NaN and b is not. -/
def outranks (b a : FVal) : Bool := (a == .nan && b != .nan) || fGt b a

/-- Put an expert into a ranking after every one that it does not outrank. -/
def rankInto (e : Nat) (v : FVal) : List (Nat × FVal) → List (Nat × FVal)
  | [] => [(e, v)]
  | x :: xs => if outranks v x.2 then (e, v) :: x :: xs else x :: rankInto e v xs

/-- The first n places of a row of logits (06 R153). -/
def ranking (n : Nat) (row : List FVal) : List (Nat × FVal) :=
  (indexed 0 row).foldl (fun best x => (rankInto x.1 x.2 best).take n) []

/-- exp(−x) scaled by 2^200 and truncated, for x ≥ 0: 40 terms of the series at x/256, squared eight times. -/
def expNeg (x : Dy) : Nat :=
  let y : Nat := if 0 ≤ x.e + 200 then x.m.natAbs * 2 ^ (x.e + 200).toNat else x.m.natAbs / 2 ^ (-(x.e + 200)).toNat
  if 200 * 2 ^ 200 < y then 0
  else
    let z := y / 256
    let t := ((List.range 40).reverse).foldl (fun acc k => 2 ^ 200 - z * acc / ((k + 1) * 2 ^ 200)) (2 ^ 200)
    (List.range 8).foldl (fun a _ => a * a / 2 ^ 200) t

/-- Softmax over the chosen logits, scaled by 2^200 (06 R154). -/
def softmax (ls : List FVal) : List Nat :=
  let l0 := match ls with | l :: _ => fDy l | [] => dy0
  let es := ls.map (fun l => expNeg (dySub l0 (fDy l)))
  let sum := es.foldl (· + ·) 0
  es.map (fun e => e * 2 ^ 200 / sum)

/-- Whether a value keeps the bound of 06 R154 to a weight scaled by 2^200; 2^-160 covers the approximation. -/
def weightOk (k w : Nat) (c : FVal) : Bool :=
  fFinite c && !fNeg c && dyLe (dyAbs (dySub (fDy c) ⟨w, -200⟩)) (dyAdd ⟨(k + 3) * w, -224⟩ (dyAdd ⟨1, -150⟩ ⟨1, -160⟩))

/-- The FP32 weight of one choice: free within the bound of 06 R154 (DESIGN CHOICE, log entry 12). -/
def weightOf (free idx k w : Nat) : Nat :=
  let c := (Config.freeFp32 free idx).toNat
  if weightOk k w (fp32Val c) then c else fp32Code (.fin false w (-200))

/-- The choices and spill candidates of one token's logits (06 R153, R154). -/
def routeToken (free t k : Nat) (row : List FVal) : List Place × List Nat :=
  let best := ranking (2 * k) row
  let top := best.take k
  let ws := softmax (top.map (·.2))
  let bad := top.any (fun x => !fFinite x.2)
  ((indexed 0 (top.zip ws)).map (fun x =>
      ⟨x.2.1.1, if bad then ffFP32.encode .nan else weightOf free (8 * t + x.1) k x.2.2, 0, false⟩),
    (best.drop k).map (·.1))

/-! ## Lookups (06 R175) -/

/-- The range that holds a row ID, and its offset; none for an ID outside every range (06 R175). -/
def rangeOf (ents : List DirEntry) (id : Nat) : Option (Nat × Nat) :=
  let below := (indexed 0 ents).filter (fun e => e.2.rowFirst.toNat ≤ id)
  match below.getLast? with
  | none => none
  | some (i, e) => if i + 1 = ents.length && e.rowLimit.toNat ≤ id then none else some (i, id - e.rowFirst.toNat)

/-- The places of a bag of row IDs, or the position of the first ID outside every range (06 R175). -/
def lookupBag (ents : List DirEntry) (ones : Nat) : Nat → List Nat → Nat ⊕ List Place
  | _, [] => .inr []
  | i, id :: ids =>
    if id = ones then (lookupBag ents ones (i + 1) ids).map (fun x => x) (fun ps => ⟨0, 0, 0, true⟩ :: ps)
    else match rangeOf ents id with
      | none => .inl i
      | some (e, off) => (lookupBag ents ones (i + 1) ids).map (fun x => x) (fun ps => ⟨e, 0x3F800000, off, false⟩ :: ps)

/-! ## RT_TOPK -/

/-- The choice word of 06 R155. -/
def choiceWord (r : Nat) (p : Place) : Nat := p.expert + 2 ^ 13 * r + 2 ^ 16 * b2n p.pad + 2 ^ 32 * p.weight

/-- The count vector: for each rank, the count of each expert, padding in the null column (06 R155, R175). -/
def countVector (k e' : Nat) (choices : List (List Place)) : List Nat :=
  (List.range k).flatMap (fun r => (List.range e').map (fun e =>
    choices.countP (fun ps => match ps[r]? with
      | some p => if p.pad then e + 1 = e' else p.expert = e
      | none => false)))

/-- The choices of every token, with the spill candidates; or the end of a lookup with an ID outside every range. -/
def topkChoices (s : State) (u : Nat) (p : PRtTopk) (ents : List DirEntry) : End ⊕ (List (List Place) × List (List Nat)) :=
  let k := p.k.toNat
  let sz := logitSize p.fmtLogit.toNat
  let t := p.tokens.toNat
  if isLookup p.fmtLogit then
    let ids := (List.range (t * k)).map (fun i => readNat s u (p.logitsAddr.toNat + i * sz) sz)
    match lookupBag ents (2 ^ (8 * sz) - 1) 0 ids with
    | .inl i => .inl (fails OUT_OF_RANGE (0x80000000 + i * sz))
    | .inr ps => .inr ((chunks k (t * k) ps), List.replicate t [])
  else
    match fmtOf p.fmtLogit.toNat with
    | none => .inl (fails OUT_OF_RANGE 0x3F)
    | some c =>
      let e := p.experts.toNat
      let rows := readRows s u c p.logitsAddr.toNat (e * sz) t e (fun _ => [])
      let out := (indexed 0 rows).map (fun r => routeToken s.free r.1 k r.2)
      .inr (out.map (·.1), out.map (·.2))

/-- What the Watershed's own checks come to (05 R139, 06 R174): one recomputation clears a failure, a second ends the command
CHECK_FAILED. -/
def wsVerdict (u checks : Nat) (f : Faults) (e : End) (s : State) : State × End :=
  if 2 ≤ f.mismatch then (count s u 0x40 1, { checkFailed u checks [(0x60, checks)] with replays := e.replays + 1 })
  else if f.mismatch = 1 then
    (charge u 1 (count s u 0x40 1), { e with verdict := 3, checks := e.checks + checks, replays := e.replays + 1, record := (0x60, checks) :: e.record })
  else (s, { e with verdict := max 1 e.verdict, checks := e.checks + checks, record := (0x60, checks) :: e.record })

/-- RT_TOPK (06 R149-R156, R175). -/
def runRtTopk (p : PRtTopk) (f : Faults) (j : Job) (s : State) : RunRes :=
  let d := uDie j.unit
  let tag := p.batchTag.toNat
  let layer := p.layer.toNat
  let lk := isLookup p.fmtLogit
  let need : Byte := if lk then 2 else 1
  if tag = 0 || (tagOf s d tag).isSome then ends s (fails BAD_STATE 0x44)
  else if layerStaged s layer then waits s .waitDir
  else if 16 ≤ (wsOf s d).rounds.length then ends s (fails BAD_STATE 0x44)
  else
    let found := (List.range p.experts.toNat).map (dirAt s layer)
    if found.any (fun e => match e with | some e => e.type != need | none => true) then ends s (fails BAD_STATE 0x3C)
    else match rangesStop s [topkIn p] (topkOut p) with
      | some x => (s, x)
      | none => match topkChoices s j.unit p (found.filterMap id) with
        | .inl e => ends s e
        | .inr (choices, spare) =>
          let c := j.ring / 256
          let k := p.k.toNat
          let e' := ePrime lk p.experts.toNat
          let s := arrival s j.unit 0x7080 c
          let r : Round := { tag := tag, ctx := c, layer := layer, k := k, tokens := p.tokens.toNat, experts := e', lookup := lk,
                             epoch := 0, choices := [], spare := spare, mode := 0, source := 0, sources := 0, spilling := false,
                             counted := false, owners := [], awaiting := [], quotas := [], spillQuotas := [], slots := [],
                             checks := 0, quotaAddr := 0, countJob := none }
          let s := setCount (modWs s d (fun w => { w with rounds := w.rounds ++ [r] })) j.unit 0x14 tag
          let s := rememberTag s d { tag := tag, ctx := c, layer := layer, k := k, tokens := p.tokens.toNat, lookup := lk,
                                     counted := false, cancelled := false, owners := [], outstanding := [], unlanded := [],
                                     landJob := none, cancelJob := none }
          let (s, e) := wsVerdict j.unit 2 f (done 0) s
          if e.status != DONE then ends s e
          else
            let w := whoOf j
            let s := storeLazy s w p.choiceAddr.toNat
              ((choices.map (fun ps => ((indexed 0 ps).map (fun x => leBytes 8 (choiceWord x.1 x.2))).flatten)).flatten)
            let s := storeLazy s w p.countAddr.toNat (u32Bytes (countVector k e' choices))
            let s := event (count s j.unit 0x20 (p.tokens.toNat * k)) j.unit 0x7001 c (p.tokens.toNat * k)
            ends (modRound s d tag (fun r => { r with choices := choices })) e

/-! ## The count round (06 R157-R165) -/

/-- A key of (rank, expert). -/
def reKey (r e : Nat) : Nat := 65536 * r + e

/-- The count message for one owner (06 R157): every (expert, rank) of the layer that it owns, zeros too. -/
def countMsg (s : State) (d : Nat) (r : Round) (spill : Bool) (cnt : AMap Nat) (o : Nat) : CountMsg :=
  let es := (dirLayer s r.layer).filter (fun e => ownerOf e == o)
  { ctx := BitVec.ofNat 8 r.ctx, tag := BitVec.ofNat 24 r.tag, layer := BitVec.ofNat 16 r.layer, k := BitVec.ofNat 8 r.k,
    lookup := r.lookup, mode := BitVec.ofNat 8 r.mode, source := BitVec.ofNat 16 r.source, sources := BitVec.ofNat 16 r.sources,
    epoch := BitVec.ofNat 32 r.epoch, srcPos := BitVec.ofNat 4 (myPos s), srcDie := Fin.ofNat 8 d, spill := spill,
    counts := es.flatMap (fun e => (List.range r.k).map (fun q =>
      (e.index, BitVec.ofNat 3 q, BitVec.ofNat 32 (amGet 0 cnt (reKey q e.index.toNat))))) }

/-- Send one round's count messages to every owner of the layer (06 R157). -/
def sendCounts (s : State) (d : Nat) (r : Round) (spill : Bool) (cnt : AMap Nat) : State :=
  r.owners.foldl (fun s o => send s (.count (countMsg s d r spill cnt o) (o / 8) (o % 8))) s

/-- The counts in a stored count vector (06 R155). -/
def readCounts (s : State) (u a k e' : Nat) : AMap Nat :=
  (List.range k).flatMap (fun r => (List.range e').map (fun e => (reKey r e, readNat s u (a + 4 * (r * e' + e)) 4)))

/-- RT_COUNT sends its counts and waits for quotas (06 R157, R161, R176). -/
def runRtCount (p : PRtCount) (j : Job) (s : State) : RunRes :=
  let d := uDie j.unit
  let tag := p.batchTag.toNat
  match roundOf s d tag with
  | none => ends s (fails BAD_STATE 0x30)
  | some r =>
    if tagDead (tagOf s d tag) || r.choices.isEmpty || r.counted || r.countJob.isSome then ends s (fails BAD_STATE 0x30)
    else if r.layer != p.layer.toNat then ends s (fails BAD_STATE 0x34)
    else if r.lookup && bit p.mode.toNat 1 then ends s (fails OUT_OF_RANGE 0x36)
    else
      let n := 4 * r.k * r.experts
      let qn := if bit p.mode.toNat 1 then 2 * n else n
      match lateRange s (j.ring / 256) j.unit [(0x20, p.countAddr.toNat, n, pRead), (0x28, p.quotaAddr.toNat, qn, pWrite)] with
      | some e => ends s e
      | none => match rangesStop s [(p.countAddr.toNat, n)] [(p.quotaAddr.toNat, qn)] with
        | some x => (s, x)
        | none =>
          let owners := distinct ((dirLayer s r.layer).map ownerOf)
          match ownersLost s owners with
          | some e => ends s e
          | none =>
            let cnt := readCounts s j.unit p.countAddr.toNat r.k r.experts
            let r' := { r with mode := p.mode.toNat, source := p.source.toNat, sources := p.sources.toNat, epoch := s.dir.epoch,
                               owners := owners, awaiting := owners, quotas := [], spillQuotas := [], spilling := false,
                               slots := [], checks := 0, quotaAddr := p.quotaAddr.toNat, countJob := some j.id }
            let s := modRound s d tag (fun _ => r')
            waits (sendCounts (noteOwners s d tag owners) d r' false cnt) .waitQuota

/-- Walk choices in token order, admitting the first quota slots of each (expert, rank) (06 R159): each choice, with the
slot it took. -/
def admitAll (q : AMap (Nat × Nat)) : AMap Nat → List (Nat × Nat × Nat) → List (Option Nat)
  | _, [] => []
  | used, (_, r, e) :: cs =>
    let key := reKey r e
    let n := amGet 0 used key
    let qb := amGet (0, 0) q key
    (if n < qb.1 then some (qb.2 + n) else none) :: admitAll q (amPut used key (n + 1)) cs

/-- The real choices of a round as (token, rank, expert), in token order. -/
def realChoices (r : Round) : List (Nat × Nat × Nat) :=
  (indexed 0 r.choices).flatMap (fun t => (indexed 0 t.2).filterMap (fun x => if x.2.pad then none else some (t.1, x.1, x.2.expert)))

/-- The slots after the first round (06 R159). Padding has no slot (06 R165). -/
def firstSlots (r : Round) : List Slot :=
  let cs := realChoices r
  (cs.zip (admitAll r.quotas [] cs)).map (fun x =>
    { token := x.1.1, rank := x.1.2.1, expert := x.1.2.2, admitted := x.2.isSome, spilled := false, slot := x.2.getD 0 })

/-- The offers of the spill round as (token, rank, candidate): the q-th dropped slot of a token goes to place K + q − 1
(06 R163). -/
def offers (r : Round) (slots : List Slot) : List (Nat × Nat × Nat) :=
  (indexed 0 r.spare).flatMap (fun t =>
    let dropped := slots.filter (fun x => x.token == t.1 && !x.admitted)
    (dropped.zip t.2).map (fun x => (t.1, x.1.rank, x.2)))

/-- How many offers name each (rank, expert). -/
def offerCounts (os : List (Nat × Nat × Nat)) : AMap Nat := os.foldl (fun m o => amMod 0 m (reKey o.2.1 o.2.2) (· + 1)) []

/-- The slots after the spill round (06 R163, R164). -/
def spillSlots (r : Round) (slots : List Slot) : List Slot :=
  let os := offers r slots
  let won := (os.zip (admitAll r.spillQuotas [] os)).filterMap (fun x => x.2.map (fun n => (x.1, n)))
  slots.map (fun x => match won.find? (fun w => w.1.1 == x.token && w.1.2.1 == x.rank) with
    | some w => if x.admitted then x else { x with expert := w.1.2.2, admitted := true, spilled := true, slot := w.2 }
    | none => x)

/-- Slots left without quota, and the tokens with at least one (06 R161). -/
def dropsOf (slots : List Slot) : Nat × Nat :=
  let ds := slots.filter (fun x => !x.admitted)
  (ds.length, (distinct (ds.map (·.token))).length)

/-- The end of RT_COUNT and RT_DISPATCH by their drops (06 R161, R169). -/
def dropEnd (slots : List Slot) : End :=
  let (n, t) := dropsOf slots
  if n = 0 then done 0 else { status := DONE_WITH_DROPS, detail := t, drops := n }

/-- Quotas in the layout of the count vector (06 R159, R163). -/
def quotaBytes (k e' : Nat) (q : AMap (Nat × Nat)) : List Byte :=
  u32Bytes ((List.range k).flatMap (fun r => (List.range e').map (fun e => (amGet (0, 0) q (reKey r e)).1)))

/-- A failed round of checks leaves the round uncounted; the command may be given again. -/
def uncount (s : State) (d tag : Nat) : State := modRound s d tag (fun r => { r with countJob := none, awaiting := [] })

/-- RT_COUNT completes: quotas are written and the tag is counted (06 R150, R161). -/
def countDone (d : Nat) (r : Round) (j : Job) (f : Faults) (s : State) : State :=
  let u := wsUnit d
  let spill := bit r.mode 1
  let slots := if spill then spillSlots r (firstSlots r) else firstSlots r
  let (s, e) := wsVerdict u (r.checks + if spill then 1 else 0) f { dropEnd slots with replays := j.replays, verdict := if j.replays = 0 then 1 else 3 } s
  if e.status = CHECK_FAILED then endJob (uncount s d r.tag) j.id e
  else
    let w := whoOf j
    let s := storeLazy s w r.quotaAddr (quotaBytes r.k r.experts r.quotas)
    let s := if spill then storeLazy s w (r.quotaAddr + 4 * r.k * r.experts) (quotaBytes r.k r.experts r.spillQuotas) else s
    let s := event (count s u 0x28 e.drops) u 0x7002 r.ctx e.drops
    let s := event (count s u 0x30 (slots.countP (·.spilled))) u 0x7003 r.ctx (slots.countP (·.spilled))
    let s := modRound s d r.tag (fun r => { r with slots := slots, counted := true, countJob := none, awaiting := [] })
    endJob (modTag s d r.tag (fun t => { t with counted := true })) j.id e

/-- Quotas of an answer, by (rank, expert). -/
def grantedMap (q : List (Word16 × BitVec 3 × Word32 × Word32)) (m : AMap (Nat × Nat)) : AMap (Nat × Nat) :=
  q.foldl (fun m x => amPut m (reKey x.2.1.toNat x.1.toNat) (x.2.2.1.toNat, x.2.2.2.toNat)) m

/-- A quota message is taken: the round goes on to its spill round or to its end (06 R159, R161, R163). -/
def takeQuota (d : Nat) (m : QuotaMsg) (f : Faults) (r : Round) (j : Job) (s : State) : State :=
  let u := wsUnit d
  let o := 8 * m.ownerPos.toNat + m.ownerDie.val
  match m.ans with
  | .refused dt => endJob (uncount s d r.tag) j.id (fails BAD_STATE dt.toNat)
  | .cancelled => endJob (uncount s d r.tag) j.id (fails CANCELLED 0x0204)
  | .failed => endJob (uncount s d r.tag) j.id (checkFailed (wsUnit m.ownerDie.val) r.checks [(0x60, r.checks)])
  | .granted q =>
    if 2 ≤ f.mismatch then endJob (uncount s d r.tag) j.id { checkFailed u (r.checks + 2) [(0x60, r.checks + 2)] with replays := j.replays + 1 }
    else
      let s := if f.mismatch = 1 then modJob (charge u 1 s) j.id (fun k => { k with replays := k.replays + 1 }) else s
      let r := { r with
        awaiting := r.awaiting.filter (· != o), checks := r.checks + 2
        quotas := if r.spilling then r.quotas else grantedMap q r.quotas
        spillQuotas := if r.spilling then grantedMap q r.spillQuotas else r.spillQuotas }
      let s := modRound s d r.tag (fun _ => r)
      if !r.awaiting.isEmpty then s
      else if bit r.mode 1 && !r.spilling then
        let r' := { r with spilling := true, awaiting := r.owners }
        sendCounts (modRound s d r.tag (fun _ => r')) d r' true (offerCounts (offers r (firstSlots r)))
      else match jobOf s j.id with
        | some j => countDone d r j (faultsOf j.cmd) s
        | none => s

/-! ## Dispatch (06 R162, R164, R166-R170) -/

/-- The weight of a slot in its route record (06 R162, R164): under DROP_RENORM the slots of a token with drops share its
admitted weight, summed in FP32 by rank. -/
def slotWeight (mode : Nat) (ws : List (Slot × Nat)) (x : Slot × Nat) : Nat :=
  if !x.1.admitted then 0
  else if bit mode 0 && ws.any (fun y => !y.1.admitted) then
    let sum := (ws.filter (fun y => y.1.admitted)).foldl (fun a y => fp32Add a (fp32Val y.2)) fZero
    fp32Code (fDiv (fp32Val x.2) sum)
  else x.2

/-- The route records of a round, in order (06 R170). -/
def routeRecs (s : State) (r : Round) : List RouteRec :=
  (indexed 0 r.choices).flatMap (fun t =>
    let mine := r.slots.filter (fun x => x.token == t.1)
    let ws := mine.map (fun x => (x, match t.2[x.rank]? with | some p => p.weight | none => 0))
    (indexed 0 t.2).map (fun p =>
      match ws.find? (fun x => x.1.rank == p.1) with
      | none =>
        { expert := 0, rank := p.1, layer := r.layer, pad := true, lookup := true, admitted := false, spilled := false, slot := 0,
          ownerPos := 0, ownerDie := 0, weight := 0, tag := r.tag, epoch8 := r.epoch % 256 }
      | some x =>
        let e := dirAt s r.layer x.1.expert
        { expert := x.1.expert, rank := p.1, layer := r.layer, pad := false, lookup := r.lookup, admitted := x.1.admitted,
          spilled := x.1.spilled, slot := if r.lookup then p.2.rowOff else x.1.slot,
          ownerPos := match e with | some e => e.ownerPos.toNat | none => 0,
          ownerDie := match e with | some e => e.ownerDie.toNat | none => 0,
          weight := slotWeight r.mode ws x, tag := r.tag, epoch8 := r.epoch % 256 }))

/-- The message that carries one row to its owner (07 R185). -/
def rowMsg (s : State) (d ctx : Nat) (grad : Bool) (claim token : Nat) (q : RouteRec) (fmt rb : Nat) (row : List Byte) : RowMsg :=
  { ctx := BitVec.ofNat 8 ctx, tag := BitVec.ofNat 24 q.tag, kind := if grad then .gradRow else .fwdRow, lookup := q.lookup,
    srcPos := BitVec.ofNat 4 (myPos s), srcDie := Fin.ofNat 8 d, claim := BitVec.ofNat 8 claim,
    token := BitVec.ofNat 16 token, rank := BitVec.ofNat 3 q.rank, slot := BitVec.ofNat 20 (if q.lookup then 0 else q.slot),
    layer := BitVec.ofNat 10 q.layer, expert := BitVec.ofNat 13 q.expert,
    version := match dirAt s q.layer q.expert with | some e => e.version | none => 0,
    word6 := BitVec.ofNat 32 (if q.lookup then q.slot else q.weight), chkAbs := 0, fromPos := 0, fromDie := 0,
    fmt := BitVec.ofNat 8 fmt, rowBytes := BitVec.ofNat 32 rb, epoch := BitVec.ofNat 32 s.dir.epoch, row := row }

/-- The exchange engines complete one gather list for each destination die on another device (06 R165; 12 R320). -/
def gatherLists (d : Nat) (dests : List Nat) (s : State) : State :=
  (distinct dests).foldl (fun s o =>
    match pickPort s d (o % 8) (deviceOf s (o / 8)) with
    | some u => if deviceOf s (o / 8) = myDevice s then s
      else event (count s (exchangeEngine u d) 0x10 1) (exchangeEngine u d) 0xC001 0 1
    | none => s) s

/-- Send a list of rows as (token, record, row), noting owners, what is to land and what is to come back. -/
def sendRows (d ctx tag : Nat) (grad : Bool) (claim fmt rb : Nat) (back : Bool) (l : List (Nat × RouteRec × List Byte)) (s : State) : State :=
  let keys := l.map (fun x => (x.1, x.2.1.rank, grad))
  let s := noteOwners s d tag (l.map (fun x => 8 * x.2.1.ownerPos + x.2.1.ownerDie))
  let s := modTag s d tag (fun t => { t with
    unlanded := keys
    outstanding := if back then t.outstanding ++ keys else t.outstanding
    rowsTo := t.rowsTo ++ keys.zip (l.map (fun x => 8 * x.2.1.ownerPos + x.2.1.ownerDie)) })
  let s := gatherLists d (l.map (fun x => 8 * x.2.1.ownerPos + x.2.1.ownerDie)) s
  l.foldl (fun s x => send s (.row (rowMsg s d ctx grad claim x.1 x.2.1 fmt rb x.2.2) x.2.1.ownerPos x.2.1.ownerDie)) s

/-- The admitted records with their tokens and rows. -/
def admittedRows (s : State) (u k rowsAddr rb : Nat) (lookup : Bool) (recs : List RouteRec) : List (Nat × RouteRec × List Byte) :=
  ((indexed 0 recs).filter (fun x => x.2.admitted)).map (fun x =>
    (x.1 / k, x.2, if lookup then [] else readBytes s u (rowsAddr + x.1 / k * rb) rb))

/-- RT_DISPATCH: claim, route records, then the rows (06 R166-R170; 07 R191, R192). -/
def runRtDispatch (p : PRtDispatch) (f : Faults) (j : Job) (s : State) : RunRes :=
  let d := uDie j.unit
  let tag := p.batchTag.toNat
  let c := j.ring / 256
  let rb := p.rowBytes.toNat
  match roundOf s d tag with
  | none => ends s (fails BAD_STATE 0x30)
  | some r =>
    if tagDead (tagOf s d tag) || !r.counted then ends s (fails BAD_STATE 0x30)
    else if r.lookup && p.rowsAddr != 0 then ends s (fails OUT_OF_RANGE 0x20)
    else
      let rows := if r.lookup then [] else [(p.rowsAddr.toNat, r.tokens * rb)]
      let route := (p.routeAddr.toNat, 16 * r.tokens * r.k)
      match lateRange s c j.unit (rows.map (fun x => (0x20, x.1, x.2, pRead)) ++ [(0x28, route.1, route.2, pWrite)]) with
      | some e => ends s e
      | none =>
        let cl := newClaim c tag false false true route.1 r.k r.tokens rb p.fmtRow.toNat
        if areaSize s d < cl.units then ends s (fails OUT_OF_RANGE 0x34)
        else if claimWaits s d cl then waits s .waitClaim
        else match rangesStop s rows [route] with
          | some x => (s, x)
          | none =>
            let recs := routeRecs s r
            let rowsOut := admittedRows s j.unit r.k p.rowsAddr.toNat rb r.lookup recs
            let granted := ((r.quotas ++ r.spillQuotas).map (fun q => q.2.1)).foldl (· + ·) 0
            let s := openClaim s d cl
            let num := match claimOf s d tag false with | some x => x.num | none => 0
            let f := if granted = rowsOut.length then f else { f with mismatch := 2 }
            let (s, e) := wsVerdict j.unit 3 f (dropEnd r.slots) s
            if e.status = CHECK_FAILED then ends (closeRound s d tag) e
            else
              let s := storeLazy s (whoOf j) route.1 ((recs.map recBytes).flatten)
              match ownersLost s (rowsOut.map (fun x => 8 * x.2.1.ownerPos + x.2.1.ownerDie)) with
              | some e => ends (closeRound s d tag) e
              | none =>
                let s := sendRows d c tag false num p.fmtRow.toNat rb true rowsOut s
                let s := modJob s j.id (fun k => { k with replays := e.replays })
                if rowsOut.isEmpty then ends (closeRound s d tag) e
                else waits (modTag s d tag (fun t => { t with landJob := some j.id })) .waitLand

/-! ## Replay (06 R171, R172, R177) -/

/-- The records up to the first that breaks a rule, and what it ends the command with (00 R9, 06 R172). -/
def replayScan (s : State) (tag : Nat) : Nat → List (List Byte) → List RouteRec × Option End
  | _, [] => ([], none)
  | i, b :: bs =>
    let q := readRec b
    match recRsvd b with
    | some o => ([], some (fails OUT_OF_RANGE (0x80000000 + 16 * i + o)))
    | none =>
      if q.tag != tag || !fresh s q.layer q.expert q.epoch8 then ([], some (fails BAD_STATE (0x80000000 + 16 * i)))
      else
        let (qs, e) := replayScan s tag (i + 1) bs
        (q :: qs, e)

/-- A gradient row: WEIGHT · dY, rounded once to FMT_ROW (06 R171). -/
def weighRow (fmt weight : Nat) (row : List Byte) : List Byte :=
  match fmtOf fmt with
  | none => row
  | some c =>
    let n := row.length / (c.bitsN / 8)
    packRow c ((rowVals c row [] n).map (fun v => (elemConv c (fMul (fp32Val weight) v)).1))

/-- RT_REPLAY (06 R171, R172, R177; 07 R191). -/
def runRtReplay (p : PRtReplay) (f : Faults) (j : Job) (s : State) : RunRes :=
  let d := uDie j.unit
  let tag := p.batchTag.toNat
  let c := j.ring / 256
  let rb := p.rowBytes.toNat
  let n := p.records.toNat
  let grad := p.direction = 1
  match tagOf s d tag with
  | none => ends s (fails BAD_STATE 0x30)
  | some t =>
    if t.cancelled || !t.counted then ends s (fails BAD_STATE 0x30)
    else
      let tokens := ceilDiv n t.k
      let noRows := t.lookup && !grad
      let rows := if noRows then [] else [(p.rowsAddr.toNat, tokens * rb)]
      match lateRange s c j.unit (rows.map (fun x => (0x28, x.1, x.2, pRead))) with
      | some e => ends s e
      | none =>
        let cl := newClaim c tag grad (!grad) false p.routeAddr.toNat t.k tokens rb p.fmtRow.toNat
        let opens := !(t.lookup && grad)
        if opens && areaSize s d < cl.units then ends s (fails OUT_OF_RANGE 0x3C)
        else if opens && claimWaits s d cl then waits s .waitClaim
        else match rangesStop s ((p.routeAddr.toNat, 16 * n) :: rows) [] with
          | some x => (s, x)
          | none =>
            let (recs, bad) := replayScan s tag 0 (readRecs s j.unit p.routeAddr.toNat n)
            let raw := admittedRows s j.unit t.k p.rowsAddr.toNat rb noRows recs
            let out := if grad && !t.lookup then raw.map (fun x => (x.1, x.2.1, weighRow p.fmtRow.toNat x.2.1.weight x.2.2)) else raw
            let s := if opens then openClaim s d cl else s
            let num := match claimOf s d tag grad with | some x => x.num | none => 0
            let (s, e) := wsVerdict j.unit 1 f (done 0) s
            if e.status = CHECK_FAILED then ends s e
            else match ownersLost s (out.map (fun x => 8 * x.2.1.ownerPos + x.2.1.ownerDie)) with
              | some e => ends s e
              | none =>
                let s := sendRows d c tag grad num p.fmtRow.toNat rb opens out s
                let s := modJob s j.id (fun k => { k with replays := e.replays })
                match bad with
                | some b => ends s b
                | none =>
                  if out.isEmpty then ends s e
                  else waits (modTag s d tag (fun t => { t with landJob := some j.id })) .waitLand

/-- The end of RT_DISPATCH or RT_REPLAY once every row has been confirmed landed (06 R169, R171). -/
def landEnd (s : State) (d : Nat) (j : Job) : State × End :=
  let fin (checks : Nat) (e : End) : End :=
    { e with verdict := if j.replays = 0 then 1 else 3, checks := checks, replays := j.replays, record := [(0x60, checks)] }
  match j.cmd with
  | .rtDispatch _ p _ => match roundOf s d p.batchTag.toNat with
    | some r => (closeRound s d p.batchTag.toNat, fin 3 (dropEnd r.slots))
    | none => (s, fin 3 (done 0))
  | _ => (s, fin 1 (done 0))

/-- A command whose rows are to land ends otherwise: what it sent is no longer waited for. -/
def landStop (d tag : Nat) (j : Job) (e : End) (s : State) : State :=
  let s := modTag s d tag (fun t => { t with landJob := none, unlanded := [] })
  let s := match j.cmd with | .rtDispatch _ _ _ => closeRound s d tag | _ => s
  endJob s j.id e

/-- Byte offset of a row's route record from ROUTE_ADDR, with bit 31 (06 R168). -/
def recDetail (k token rank : Nat) : Nat := 0x80000000 + 16 * (token * k + rank)

/-- A confirmation reaches the source (06 R168, R169; 07 R186, R202). -/
def takeConfirm (d : Nat) (m : Confirm) (t : TagRec) (s : State) : State :=
  let tag := t.tag
  let key := (m.token.toNat, m.rank.toNat, m.grad)
  let lost := match m.ans with | .lostByLink _ => true | _ => false
  let s := modTag s d tag (fun t => { t with
    unlanded := t.unlanded.erase key, outstanding := if lost then t.outstanding.erase key else t.outstanding })
  match t.landJob.bind (jobOf s) with
  | none => s
  | some j => match m.ans with
    | .landed =>
      if !t.unlanded.contains key || !(t.unlanded.erase key).isEmpty then s
      else
        let (s, e) := landEnd s d j
        endJob (modTag s d tag (fun t => { t with landJob := none })) j.id e
    | .noPermission => landStop d tag j (fails NO_PERMISSION (recDetail t.k m.token.toNat m.rank.toNat)) s
    | .badVersion tensor => landStop d tag j (fails BAD_VERSION tensor.toNat) s
    | .lostByLink port => landStop d tag j (fails LINK_LOST port.toNat) s

/-! ## Cancellation (06 R173; 07 R201, R202) -/

/-- The tag of a packet whose command RT_CANCEL ends (06 R173). -/
def roundTag (i : Instr) : Option Nat :=
  match i with
  | .rtTopk _ p _ => some p.batchTag.toNat
  | .rtCount _ p _ => some p.batchTag.toNat
  | .rtDispatch _ p _ => some p.batchTag.toNat
  | _ => none

/-- RT_CANCEL completes when nothing is outstanding (07 R202). -/
def cancelEnd (j : Job) : End :=
  { status := if j.drops = 0 then DONE else DONE_WITH_DROPS, verdict := 1, drops := j.drops }

/-- End the RT_CANCEL of a tag when every outstanding slot is accounted for (07 R202). -/
def tryCancelEnd (d tag : Nat) (s : State) : State :=
  match tagOf s d tag with
  | none => s
  | some t => match t.cancelJob.bind (jobOf s) with
    | none => s
    | some j => if t.outstanding.isEmpty then endJob (modTag s d tag (fun t => { t with cancelJob := none })) j.id (cancelEnd j) else s

/-- Close every claim of a cancelled tag; a command bound to one ends CANCELLED (07 R201). -/
def cancelClaims (d tag : Nat) (s : State) : State :=
  let cs := (cfOf s d).claims.filter (fun c => c.tag == tag)
  let s := cs.foldl (fun s c => match c.job with | some id => endJob s id (boundEnd s c id (fails CANCELLED 0x0204)) | none => s) s
  modCf s d (fun c => { c with claims := c.claims.filter (fun x => x.tag != tag) })

/-- RT_CANCEL (06 R173; 07 R201, R202). A tag that is not remembered is remembered as cancelled. -/
def runRtCancel (p : PRtCancel) (j : Job) (s : State) : RunRes :=
  let d := uDie j.unit
  let tag := p.batchTag.toNat
  let s := if (tagOf s d tag).isSome then s else
    rememberTag s d { tag := tag, ctx := j.ring / 256, layer := 0, k := 1, tokens := 0, lookup := false, counted := false,
                      cancelled := false, owners := [], outstanding := [], unlanded := [], landJob := none, cancelJob := none }
  let gone := s.gz.jobs.filter (fun k => k.unit == j.unit && roundTag k.cmd == some tag &&
    (match k.phase with | .ending _ => false | _ => true))
  let s := gone.foldl (fun s k => endJob s k.id (fails CANCELLED 0x0204)) s
  let s := closeRound s d tag
  let gonLand (t : TagRec) : Bool := t.landJob.any (fun id => gone.any (fun k => k.id == id))
  let s := modTag s d tag (fun t => { t with
    cancelled := true, cancelJob := some j.id, landJob := if gonLand t then none else t.landJob,
    unlanded := if gonLand t then [] else t.unlanded })
  let s := cancelClaims d tag s
  let owners := match tagOf s d tag with | some t => t.owners | none => []
  let note : CancelNote := { ctx := BitVec.ofNat 8 (j.ring / 256), tag := BitVec.ofNat 24 tag, srcPos := BitVec.ofNat 4 (myPos s), srcDie := Fin.ofNat 8 d }
  let s := owners.foldl (fun s o => send s (.cancel note (o / 8) (o % 8))) s
  if (tagOf s d tag).any (fun t => !t.outstanding.isEmpty) then waits s .waitCancel
  else ends (modTag s d tag (fun t => { t with cancelJob := none })) (cancelEnd j)

/-! ## The Watershed's queue -/

/-- Run a Watershed packet when its turn comes. -/
def wsRun (j : Job) (s : State) : RunRes :=
  match j.cmd with
  | .rtTopk _ p f => runRtTopk p f j s
  | .rtCount _ p _ => runRtCount p j s
  | .rtDispatch _ p f => runRtDispatch p f j s
  | .rtReplay _ p f => runRtReplay p f j s
  | _ => ends s (done 0)

/-- Let a die's Watershed go on. -/
def pumpWs (d : Nat) (s : State) : State := pumpUnit wsRun (wsUnit d) (s.gz.jobs.length + 1) s

/-- The home die of a packet's ring. -/
def homeOf (h : Hdr) (s : State) : Nat := (ringOf s (ringKey h)).home

/-- RT_TOPK (02 R53). -/
def execRtTopk (h : Hdr) (p : PRtTopk) (f : Faults) (s : State) : Host.Outcome State Fault Refusal :=
  .next (settle (pumpWs (homeOf h s) (arrive (preRtTopk h p s) runInUnit (.rtTopk h p f) s)))
/-- RT_COUNT (02 R53). -/
def execRtCount (h : Hdr) (p : PRtCount) (f : Faults) (s : State) : Host.Outcome State Fault Refusal :=
  .next (settle (pumpWs (homeOf h s) (arrive (preRtCount h p s) runInUnit (.rtCount h p f) s)))
/-- RT_DISPATCH (02 R53). -/
def execRtDispatch (h : Hdr) (p : PRtDispatch) (f : Faults) (s : State) : Host.Outcome State Fault Refusal :=
  .next (settle (pumpWs (homeOf h s) (arrive (preRtDispatch h p s) runInUnit (.rtDispatch h p f) s)))
/-- RT_REPLAY (02 R53). -/
def execRtReplay (h : Hdr) (p : PRtReplay) (f : Faults) (s : State) : Host.Outcome State Fault Refusal :=
  .next (settle (pumpWs (homeOf h s) (arrive (preRtReplay h p s) runInUnit (.rtReplay h p f) s)))

/-- QUOTA_MESSAGE: an owner's answer reaches a source (06 R159, R161). One for no waiting RT_COUNT has no effect. -/
def execQuotaMessage (die : CDie) (m : QuotaMsg) (f : Faults) (s : State) : Host.Outcome State Fault Refusal :=
  let d := die.val
  let s := receive s (.quota m (myPos s) d)
  let o := 8 * m.ownerPos.toNat + m.ownerDie.val
  .next (settle (pumpWs d (match roundOf s d m.tag.toNat with
    | none => s
    | some r =>
      if r.awaiting.contains o && r.spilling == m.spill then
        match r.countJob.bind (jobOf s) with
        | some j => takeQuota d m f r j s
        | none => s
      else s)))

/-- LANDING_CONFIRMATION: an owner's answer to one row reaches its source (06 R169). -/
def execLandingConfirmation (die : CDie) (m : Confirm) (s : State) : Host.Outcome State Fault Refusal :=
  let d := die.val
  let s := receive s (.confirm m (myPos s) d)
  .next (settle (pumpWs d (match tagOf s d m.tag.toNat with
    | some t => tryCancelEnd d t.tag (takeConfirm d m t s)
    | none => s)))

/-- CANCEL_ACK: an owner names slots it will not return, and its stale rows (07 R202). -/
def execCancelAck (die : CDie) (m : CancelAck) (s : State) : Host.Outcome State Fault Refusal :=
  let d := die.val
  let tag := m.tag.toNat
  let s := receive s (.cancelAck m (myPos s) d)
  let strike (o : List (Nat × Nat × Bool)) (x : Word16 × BitVec 3) : List (Nat × Nat × Bool) :=
    match o.find? (fun y => y.1 == x.1.toNat && y.2.1 == x.2.toNat) with | some y => o.erase y | none => o
  .next (settle (
    let s := match (tagOf s d tag).bind (fun t => t.cancelJob) with
      | some id => modJob s id (fun j => { j with drops := j.drops + m.stale.toNat })
      | none => s
    tryCancelEnd d tag (modTag s d tag (fun t => { t with outstanding := m.slots.foldl strike t.outstanding }))))

end Sys2Proof.Machine
end

