-- ==== Sys2Proof/Machine/Owner.lean ====
section
/-! DEFINITION. The owner side of routing (06 R151, R157-R160, R168, R169, R173, R176, R177, R180; 07 R186-R190, R202): count
messages and the fill, landing rows, arrival and return words, lookups and cancel notices. -/

namespace Sys2Proof.Machine

/-- An owner's record of a tag. -/
def ownOf (s : State) (d tag : Nat) : Option OwnTag := (wsOf s d).owned.find? (fun t => t.tag == tag)
/-- Change an owner's record of a tag. -/
def modOwn (s : State) (d tag : Nat) (f : OwnTag → OwnTag) : State :=
  modWs s d (fun w => { w with owned := w.owned.map (fun t => if t.tag == tag then f t else t) })
/-- A fresh record of a tag. -/
def newOwn (tag : Nat) : OwnTag :=
  { tag := tag, msgs := [], spills := [], refused := none, fills := [], filled := false, spillFilled := false, arrived := [],
    cancelled := false, stale := 0 }
/-- The same state with a record of a tag. -/
def withOwn (s : State) (d tag : Nat) : State :=
  if (ownOf s d tag).isSome then s else modWs s d (fun w => { w with owned := w.owned ++ [newOwn tag] })

/-- The Watershed of a die as it writes for a context: no ring's fence covers its writes, it fences itself (06 R169). -/
def wsWho (s : State) (d c : Nat) : Who := ⟨wsUnit d, 0x7000 + d, c, s.gz.nextJob, 0x10000⟩

/-- Make a Watershed's writes visible (06 R169). -/
def wsFence (s : State) (d : Nat) : State :=
  { s with mem := { s.mem with unseen := s.mem.unseen.filter (fun e => e.unit != wsUnit d) } }

/-- The entries of a layer that a die owns. -/
def ownedHere (s : State) (d layer : Nat) : List DirEntry := (dirLayer s layer).filter (fun e => ownerOf e == 8 * myPos s + d)

/-! ## Arrival words (06 R169) -/

/-- The arrival word, written where the context may write it. -/
def writeArrival (d c tag : Nat) (grad : Bool) (n : Nat) (e : DirEntry) (s : State) : State :=
  let a := e.arriveSig.toNat
  let s := wsFence s d
  if signalOk s a && (access s c (wsUnit d) a 8 pWrite).isNone then
    sigStore s (wsWho s d c) a (2 ^ 40 * tag + 2 ^ 39 * b2n grad + n)
  else s

/-- Whether the fills of a tag are final: no spill round is due (06 R163, R169). -/
def fillsFinal (t : OwnTag) : Bool :=
  t.filled && (t.spillFilled || t.msgs.all (fun m => !bit m.mode.toNat 1))

/-- Distinct slots landed in a half. -/
def landedCount (h : Half) : Nat := (distinct (h.rows.map (·.slot))).length

/-- Key of a half: 2 · key + gradient. -/
def halfKey (layer expert : Nat) (grad : Bool) : Nat := 2 * dirKey layer expert + b2n grad

/-- Write the arrival word of an expert whose rows have all landed (06 R169; the check of 06 R174 is this equality). -/
def tryArrive (d : Nat) (layer expert : Nat) (grad : Bool) (s : State) : State :=
  let key := halfKey layer expert grad
  match amFind (wsOf s d).halves key, dirAt s layer expert with
  | some h, some e =>
    match ownOf s d h.tag with
    | some t =>
      if !h.arrived && fillsFinal t && amGet 0 t.fills expert = landedCount h then
        let s := modWs s d (fun w => { w with halves := amPut w.halves key { h with arrived := true } })
        let s := if grad then s else modOwn s d h.tag (fun t => { t with arrived := expert :: t.arrived })
        writeArrival d h.ctx h.tag grad (landedCount h) e s
      else s
    | none => s
  | _, _ => s

/-- Once the fills of a tag are final: experts that admitted nothing get a word with COUNT 0, the others one when their rows
are in (06 R169). A lookup has no arrival words. -/
def arriveAll (d c tag layer : Nat) (s : State) : State :=
  match ownOf s d tag with
  | none => s
  | some t => (ownedHere s d layer).foldl (fun s e =>
      if e.type != 1 then s
      else if amGet 0 t.fills e.index.toNat = 0 then
        writeArrival d c tag false 0 e (modOwn s d tag (fun t => { t with arrived := e.index.toNat :: t.arrived }))
      else tryArrive d layer e.index.toNat false s) s

/-! ## Count messages (06 R151, R157, R158, R163, R173, R180) -/

/-- Send an owner's answer to one count message. -/
def answer (d : Nat) (m : CountMsg) (a : QuotaAns) (s : State) : State :=
  send s (.quota { ctx := m.ctx, tag := m.tag, ownerPos := BitVec.ofNat 4 (myPos s), ownerDie := Fin.ofNat 8 d, spill := m.spill, ans := a }
    m.srcPos.toNat m.srcDie.val)

/-- Packet offset of the first field in which a count message disagrees with the first of its tag (06 R151). -/
def disagrees (first m : CountMsg) (seen : List CountMsg) : Option Nat :=
  if m.layer != first.layer || m.k != first.k || m.lookup != first.lookup then some 0x34
  else if m.mode != first.mode then some 0x36
  else if seen.any (fun x => x.source == m.source) then some 0x38
  else if m.sources != first.sources then some 0x3A else none

/-- Count of (expert, rank) in a message. -/
def countIn (m : CountMsg) (e r : Nat) : Nat :=
  match m.counts.find? (fun x => x.1.toNat == e && x.2.1.toNat == r) with
  | some x => x.2.2.toNat
  | none => 0

/-- The fill of one expert (06 R158): for each (rank, source) in order, quota and base; and the slots used after. -/
def fillExpert (cap : Nat) : Nat → List (Nat × Nat × Nat) → List (Nat × Nat × Nat × Nat) × Nat
  | used, [] => ([], used)
  | used, (r, src, cnt) :: cs =>
    let q := min cnt (cap - used)
    let (l, u) := fillExpert cap (used + q) cs
    ((r, src, q, used) :: l, u)

/-- The counts of one expert in the order of the fill: rank by rank, source by source (06 R158). -/
def fillOrder (msgs : List CountMsg) (k sources e : Nat) : List (Nat × Nat × Nat) :=
  (List.range k).flatMap (fun r => (List.range sources).map (fun src =>
    (r, src, match msgs.find? (fun m => m.source.toNat == src) with | some m => countIn m e r | none => 0)))

/-- Fill every owned expert and answer every source (06 R158, R163). -/
def fillAll (d tag : Nat) (spill : Bool) (s : State) : State :=
  match ownOf s d tag with
  | none => s
  | some t =>
    let msgs := if spill then t.spills else t.msgs
    match msgs with
    | [] => s
    | m0 :: _ =>
      let es := ownedHere s d m0.layer.toNat
      let fills := es.map (fun e =>
        (e.index, fillExpert e.capacity.toNat (if spill then amGet 0 t.fills e.index.toNat else 0)
          (fillOrder msgs m0.k.toNat m0.sources.toNat e.index.toNat)))
      let s := modOwn s d tag (fun t => { t with
        fills := fills.foldl (fun m x => amPut m x.1.toNat x.2.2) t.fills, filled := true, spillFilled := spill || t.spillFilled })
      let s := msgs.foldl (fun s m => answer d m (.granted (fills.flatMap (fun x =>
        (x.2.1.filter (fun q => q.2.1 == m.source.toNat)).map (fun q =>
          (x.1, BitVec.ofNat 3 q.1, BitVec.ofNat 32 q.2.2.1, BitVec.ofNat 32 q.2.2.2))))) s) s
      match ownOf s d tag with
      | some t => if fillsFinal t then arriveAll d m0.ctx.toNat tag m0.layer.toNat s else s
      | none => s

/-- Refuse a round: every count message of the tag is answered with the offset (06 R151). -/
def refuseRound (d tag off : Nat) (m : CountMsg) (s : State) : State :=
  match ownOf s d tag with
  | none => s
  | some t =>
    let waiting := (if t.filled then [] else t.msgs) ++ (if t.spillFilled then [] else t.spills) ++ [m]
    waiting.foldl (fun s x => answer d x (.refused (BitVec.ofNat 32 off)) s)
      (modOwn s d tag (fun t => { t with refused := some off }))

/-- An owner takes a count message (06 R151, R158, R173, R180). -/
def takeCounts (d : Nat) (m : CountMsg) (s : State) : State :=
  let tag := m.tag.toNat
  let s := withOwn s d tag
  match ownOf s d tag with
  | none => s
  | some t =>
    if t.cancelled then answer d m .cancelled s
    else if m.epoch.toNat < s.dir.epoch then answer d m (.refused 0x30) s
    else match t.refused with
      | some off => answer d m (.refused (BitVec.ofNat 32 off)) s
      | none =>
        let seen := if m.spill then t.spills else t.msgs
        match (t.msgs ++ [m]).head?.bind (fun f => disagrees f m seen) with
        | some off => refuseRound d tag off m s
        | none =>
          let all := seen ++ [m]
          let s := modOwn s d tag (fun t => if m.spill then { t with spills := all } else { t with msgs := all })
          if all.length = m.sources.toNat then fillAll d tag m.spill s else s

/-- The owner's own checks fail twice: every waiting source of the tag is told (05 R139). -/
def failRound (d : Nat) (m : CountMsg) (s : State) : State :=
  let s := withOwn s d m.tag.toNat
  match ownOf s d m.tag.toNat with
  | none => s
  | some t =>
    let waiting := (if t.filled then [] else t.msgs) ++ (if t.spillFilled then [] else t.spills) ++ [m]
    waiting.foldl (fun s x => answer d x .failed s) (modOwn s d t.tag (fun t => { newOwn t.tag with cancelled := t.cancelled, stale := t.stale }))

/-- COUNT_MESSAGE: an owner holds one more source's counts (06 R158). One failure of the owner's own checks is recomputed from
the same counts and gives the same quotas; a second ends every RT_COUNT of the round (05 R139). -/
def execCountMessage (die : CDie) (m : CountMsg) (f : Faults) (s : State) : Host.Outcome State Fault Refusal :=
  let d := die.val
  let s := receive s (.count m (myPos s) d)
  .next (settle (if 2 ≤ f.mismatch then failRound d m s else takeCounts d m (if f.mismatch = 1 then charge (wsUnit d) 1 s else s)))

/-- Whether an owner's round of a tag has completed: its fills are final and every arrival word is written (06 R161). -/
def ownDone (s : State) (d : Nat) (t : OwnTag) : Bool :=
  fillsFinal t && (match t.msgs with
    | m :: _ => (ownedHere s d m.layer.toNat).all (fun e => e.type != 1 || t.arrived.contains e.index.toNat)
    | [] => false)

/-- COUNT_DISCARD_TIMER: 1 s after a tag's first count message, an owner discards its counts and fills unless the round has
completed (06 R161). -/
def execCountDiscardTimer (die : CDie) (_ctx : Byte) (tag : BitVec 24) (s : State) : Host.Outcome State Fault Refusal :=
  let d := die.val
  .next (settle (match ownOf s d tag.toNat with
    | none => s
    | some t =>
      if ownDone s d t then s
      else modOwn s d tag.toNat (fun t => { newOwn t.tag with cancelled := t.cancelled, stale := t.stale })))

/-! ## Landing rows (06 R168, R177; 07 R186, R187) -/

/-- Send an owner's confirmation of one row. -/
def confirmRow (m : RowMsg) (a : LandAns) (s : State) : State :=
  send s (.confirm { ctx := m.ctx, tag := m.tag, grad := m.kind == .gradRow, token := m.token, rank := m.rank, ans := a } m.srcPos.toNat m.srcDie.val)

/-- The current version of a tensor (07 R216). -/
def currentVersion (s : State) (c tensor : Nat) : Nat := (amGet {} s.ver (2 ^ 32 * c + tensor)).current

/-- Whether a row's version is too new for this device (07 R186). -/
def tooOld (s : State) (m : RowMsg) : Bool :=
  m.version != 0 && currentVersion s m.ctx.toNat (dirKey m.layer.toNat m.expert.toNat) < m.version.toNat

/-- A row of a cancelled tag is stale; the owner counts it and accounts for its slot (06 R173, 07 R202). -/
def staleRow (d : Nat) (m : RowMsg) (s : State) : State :=
  let s := modOwn s d m.tag.toNat (fun t => { t with stale := t.stale + 1 })
  send s (.cancelAck { ctx := m.ctx, tag := m.tag, ownerPos := BitVec.ofNat 4 (myPos s), ownerDie := Fin.ofNat 8 d,
                       slots := [(m.token, m.rank)], stale := 1 } m.srcPos.toNat m.srcDie.val)

/-- FP32 adds of a gradient row into the gradient shard (06 R177). -/
def addGrad (w : Who) (a i : Nat) : List FVal → State → State
  | [], s => s
  | v :: vs, s => addGrad w a (i + 1) vs (addFp32 s w (a + 4 * i) v)

/-- A bag's gradient row reaches the owner of a range (06 R177). -/
def landGradRow (d : Nat) (m : RowMsg) (e : DirEntry) (s : State) : State :=
  match fmtOf m.fmt.toNat with
  | none => confirmRow m .noPermission s
  | some c =>
    let n := m.row.length / (c.bitsN / 8)
    let a := e.arriveSig.toNat + m.word6.toNat * 4 * n
    match access s m.ctx.toNat (wsUnit d) a (4 * n) (pAtomic + pWrite) with
    | some _ => confirmRow m .noPermission s
    | none => confirmRow m .landed
        (if (poisonIn s a (4 * n)).isSome then s else addGrad (wsWho s d m.ctx.toNat) a 0 (rowVals c m.row [] n) s)

/-- An expert's row reaches its receive area (06 R168; 07 R186, R187). -/
def landExpertRow (d : Nat) (m : RowMsg) (e : DirEntry) (s : State) : State :=
  let grad := m.kind == .gradRow
  let key := halfKey m.layer.toNat m.expert.toNat grad
  let tag := m.tag.toNat
  let c := m.ctx.toNat
  let h := amFind (wsOf s d).halves key
  if h.any (fun h => h.tag != tag || h.claim != m.claim.toNat) then
    modWs s d (fun w => { w with heldRows := w.heldRows ++ [m] })
  else
    let rb := m.row.length
    let a := e.slotBase.toNat + ((if grad then e.capacity.toNat else 0) + m.slot.toNat) * rb
    match access s c (wsUnit d) a rb pWrite with
    | some _ => confirmRow m .noPermission s
    | none =>
      let s := storeLazy s (wsWho s d c) a m.row
      let row : Landed := ⟨m.slot.toNat, m.srcPos.toNat, m.srcDie.val, m.claim.toNat, m.token.toNat, m.rank.toNat⟩
      let h0 := h.getD { ctx := c, tag := tag, claim := m.claim.toNat, rows := [], fmt := m.fmt.toNat, rowBytes := rb, arrived := false }
      let h1 := { h0 with rows := h0.rows.filter (fun r => r.slot != row.slot) ++ [row] }
      let s := modWs s d (fun w => { w with halves := amPut w.halves key h1 })
      tryArrive d m.layer.toNat m.expert.toNat grad (confirmRow m .landed s)

/-- The rounded sums s and a of a row's elements (05 R140, 07 R190). -/
def rowSums (vs : List FVal) : Nat × Nat := (fp32Code (w48Sum vs), fp32Code (w48Sum (vs.map fAbs)))

/-- A contribution made of bytes that an owner reads (07 R185, R188, R190). -/
def contribution (s : State) (d : Nat) (m : RowMsg) (grad : Bool) (sigma : Nat) (row : List Byte) : RowMsg :=
  let vs := match fmtOf m.fmt.toNat with | some c => rowVals c row [] (row.length / (c.bitsN / 8)) | none => []
  let (sj, aj) := rowSums vs
  { m with kind := if grad then .gradContrib else .fwdContrib, version := BitVec.ofNat 32 sigma, word6 := BitVec.ofNat 32 sj,
           chkAbs := BitVec.ofNat 32 aj, fromPos := BitVec.ofNat 4 (myPos s), fromDie := Fin.ofNat 8 d, row := row }

/-- A lookup request: the owner reads the row of its table shard and returns it (06 R176). -/
def serveLookup (d : Nat) (m : RowMsg) (e : DirEntry) (s : State) : State :=
  let rb := m.rowBytes.toNat
  let a := e.slotBase.toNat + m.word6.toNat * rb
  match access s m.ctx.toNat (wsUnit d) a rb pRead with
  | some _ => confirmRow m .noPermission s
  | none =>
    let s := confirmRow m .landed s
    if (poisonIn s a rb).isSome then s
    else send s (.row (contribution s d m false 0 (readBytes s (wsUnit d) a rb)) m.srcPos.toNat m.srcDie.val)

/-- A row or request meets its owner: stale when its tag is cancelled, refused when its entry is gone or its version is not
here yet, else landed or served (06 R168, R173, R176, R177; 07 R186). -/
def ownerRow (d : Nat) (m : RowMsg) (s : State) : State :=
  if (ownOf s d m.tag.toNat).any (fun t => t.cancelled) then staleRow d m s
  else match dirAt s m.layer.toNat m.expert.toNat with
    | none => confirmRow m .noPermission s
    | some e =>
      if ownerOf e != 8 * myPos s + d || (e.type == 2) != m.lookup then confirmRow m .noPermission s
      else if tooOld s m then confirmRow m (.badVersion (BitVec.ofNat 32 (dirKey m.layer.toNat m.expert.toNat))) s
      else match m.lookup, m.kind with
        | false, .fwdRow => landExpertRow d m e s
        | false, .gradRow => landExpertRow d m e s
        | true, .fwdRow => serveLookup d m e s
        | true, .gradRow => landGradRow d m e s
        | _, _ => s

/-- EXCHANGE_ROW_ARRIVAL (06 R168). -/
def execExchangeRowArrival (die : CDie) (m : RowMsg) (s : State) : Host.Outcome State Fault Refusal :=
  .next (settle (ownerRow die.val m (receive s (.row m (myPos s) die.val))))

/-- LOOKUP_REQUEST (06 R176): a forward request of a lookup. Any other message is not one. -/
def execLookupRequest (die : CDie) (m : RowMsg) (s : State) : Host.Outcome State Fault Refusal :=
  .next (settle (if m.lookup && m.kind == .fwdRow then ownerRow die.val m (receive s (.row m (myPos s) die.val)) else s))

/-- HELD_HALF_RETRY: an exchange engine, or the die's own path, offers again the rows that held halves refused (07 R187). -/
def execHeldHalfRetry (die : CDie) (engine : Option Word32) (s : State) : Host.Outcome State Fault Refusal :=
  let d := die.val
  let mine (m : RowMsg) : Bool := (m.srcPos.toNat == myPos s) == engine.isNone
  let rows := (wsOf s d).heldRows
  let s := modWs s d (fun w => { w with heldRows := rows.filter (fun m => !mine m) })
  let s := match engine with | some x => count s x.toNat 0x20 (rows.countP mine) | none => s
  .next (settle ((rows.filter mine).foldl (fun s m => ownerRow d m s) s))

/-! ## Return words (07 R188, R189, R203) -/

/-- The expert owned here whose return word lies at an address (07 R188). -/
def returnEntry (s : State) (d a : Nat) : Option DirEntry :=
  (s.dir.entries.map (·.2)).find? (fun e => e.type == 1 && ownerOf e == 8 * myPos s + d && e.arriveSig.toNat + 8 == a)

/-- Return one landed slot to its source, if its row and its scalar can be read (07 R188, R189). -/
def returnSlot (d : Nat) (e : DirEntry) (h : Half) (grad : Bool) (r : Landed) (s : State) : State :=
  let u := wsUnit d
  let cap := e.capacity.toNat
  let a := e.slotBase.toNat + ((if grad then cap else 0) + r.slot) * h.rowBytes
  let tail := e.slotBase.toNat + 2 * cap * h.rowBytes + 4 * r.slot
  let ok (a n : Nat) : Bool := (access s h.ctx u a n pRead).isNone && (poisonIn s a n).isNone
  if !ok a h.rowBytes || (grad && !ok tail 4) then s
  else
    let m : RowMsg := { ctx := BitVec.ofNat 8 h.ctx, tag := BitVec.ofNat 24 h.tag, kind := .fwdContrib, lookup := false,
                        srcPos := BitVec.ofNat 4 r.srcPos, srcDie := Fin.ofNat 8 r.srcDie, claim := BitVec.ofNat 8 r.claim,
                        token := BitVec.ofNat 16 r.token, rank := BitVec.ofNat 3 r.rank, slot := BitVec.ofNat 20 r.slot,
                        layer := BitVec.ofNat 10 e.layer.toNat, expert := BitVec.ofNat 13 e.index.toNat, version := 0, word6 := 0,
                        chkAbs := 0, fromPos := 0, fromDie := 0, fmt := BitVec.ofNat 8 h.fmt, rowBytes := BitVec.ofNat 32 h.rowBytes,
                        epoch := BitVec.ofNat 32 s.dir.epoch, row := [] }
    send s (.row (contribution s d m grad (if grad then readNat s u tail 4 else 0) (readBytes s u a h.rowBytes)) r.srcPos r.srcDie)

/-- The landed rows of a half by ascending slot. -/
def insertLanded (r : Landed) : List Landed → List Landed
  | [] => [r]
  | x :: xs => if r.slot < x.slot then r :: x :: xs else x :: insertLanded r xs

/-- RETURN_WORD: the owner's Watershed sees a write of a return word (07 R188). The write itself is the runner's SIG_SET. For
a cancelled tag any word naming it releases the expert's halves of the tag, and nothing is sent (07 R202, R203). -/
def execReturnWord (die : CDie) (_ctx : Byte) (addr value : Word64) (s : State) : Host.Outcome State Fault Refusal :=
  let d := die.val
  let v := value.toNat
  let tag := bits v 40 24
  let grad := bit v 39
  let bad := event (count s (wsUnit d) 0x38 1) (wsUnit d) 0x7004 0 1
  .next (settle (match returnEntry s d addr.toNat with
    | none => s
    | some e =>
      let key := halfKey e.layer.toNat e.index.toNat grad
      let dead := (ownOf s d tag).any (fun t => t.cancelled)
      if dead then
        let keys := [false, true].map (halfKey e.layer.toNat e.index.toNat)
        let held := keys.any (fun k => (amFind (wsOf s d).halves k).any (fun h => h.tag == tag))
        if held then modWs s d (fun w => { w with halves := w.halves.filter (fun x => !(keys.contains x.1 && x.2.tag == tag)) }) else bad
      else match amFind (wsOf s d).halves key with
        | none => bad
        | some h =>
          if h.tag != tag || !h.arrived || bits v 0 20 != landedCount h then bad
          else
            let s := if bit v 38 then (h.rows.foldl (fun l r => insertLanded r l) []).foldl (fun s r => returnSlot d e h grad r s) s else s
            modWs s d (fun w => { w with halves := amDel w.halves key })))

/-! ## Cancel notices (06 R173; 07 R202) -/

/-- The slots of a source that an owner holds of a tag and has not returned (07 R202). -/
def heldSlots (s : State) (d tag pos die : Nat) : List (Word16 × BitVec 3) :=
  ((wsOf s d).halves.filter (fun h => h.2.tag == tag)).flatMap (fun h =>
    (h.2.rows.filter (fun r => r.srcPos == pos && r.srcDie == die)).map (fun r => (BitVec.ofNat 16 r.token, BitVec.ofNat 3 r.rank)))

/-- CANCEL_NOTICE: the owner discards the tag's counts and fills, answers the sources that wait, and acknowledges (06 R173;
07 R202). -/
def execCancelNotice (die : CDie) (m : CancelNote) (s : State) : Host.Outcome State Fault Refusal :=
  let d := die.val
  let tag := m.tag.toNat
  let s := withOwn (receive s (.cancel m (myPos s) d)) d tag
  .next (settle (match ownOf s d tag with
    | none => s
    | some t =>
      let waiting := (if t.filled || t.refused.isSome then [] else t.msgs) ++ (if t.spillFilled || t.refused.isSome then [] else t.spills)
      let s := waiting.foldl (fun s x => answer d x .cancelled s) s
      let s := modOwn s d tag (fun t => { newOwn tag with cancelled := true, stale := t.stale })
      send s (.cancelAck { ctx := m.ctx, tag := m.tag, ownerPos := BitVec.ofNat 4 (myPos s), ownerDie := Fin.ofNat 8 d,
                           slots := heldSlots s d tag m.srcPos.toNat m.srcDie.val, stale := BitVec.ofNat 32 t.stale }
        m.srcPos.toNat m.srcDie.val)))

end Sys2Proof.Machine
end

