-- ==== Sys2Proof/Machine/Combine.lean ====
section
/-! DEFINITION. The Confluence (07 R191-R207, R222; 05 R140): contributions, rows and their checks, CB_COMBINE, CB_RETURN_GRAD,
and cancellation of its claims. -/

namespace Sys2Proof.Machine

/-! ## Checks of the packets (02 R56, R414; 07 R196, R205) -/

/-- FMT_OUT of a combine: FP32, FP16 or BF16 (07 R196). -/
def combineFmt (f : Byte) : Bool := f = 1 || f = 2 || f = 3

/-- Bytes of an element of a format code. -/
def elemSize (f : Nat) : Nat := match fmtOf f with | some c => c.bitsN / 8 | none => 1

/-- The Confluence that a packet runs on: its ring's home die (02 R46, R53). -/
def preCf (h : Hdr) (s : State) : Pre :=
  let u := cfUnit (homeOf h s)
  { unit := u, ready := [u] }

/-- Checks of CB_COMBINE (07 R196 orders 1 and 2). -/
def preCbCombine (h : Hdr) (p : PCbCombine) (s : State) : Pre :=
  let sg := p.signalAddr.toNat
  let t := p.tokens.toNat
  { preCf h s with
    fields := [(0x4C, combineFmt p.fmtOut), (0x30, sg = 0 || signalOk s sg), (0x44, 1 ≤ t && t ≤ 65536)]
    ranges := [(0x20, p.routeAddr.toNat, 16, pRead), (0x28, p.outAddr.toNat, t * p.rowBytes.toNat, pWrite)] ++
      (if sg = 0 then [] else [(0x30, sg, 8, pWrite)]) ++ [(0x38, p.missingAddr.toNat, 16 + 64 * t, pWrite)] }

/-- Checks of CB_RETURN_GRAD (07 R205 orders 1 and 2). -/
def preCbReturnGrad (h : Hdr) (p : PCbReturnGrad) (s : State) : Pre :=
  { preCf h s with
    fields := [(0x3C, p.recompute.toNat ≤ 1), (0x3D, combineFmt p.fmtOut)]
    ranges := [(0x20, p.routeAddr.toNat, 16, pRead), (0x28, p.dxAddr.toNat, elemSize p.fmtOut.toNat, pWrite),
      (0x30, p.scalarAddr.toNat, 4, pWrite)] }

/-! ## Rows of a claim -/

/-- A row before any contribution. -/
def freshRow (e : Nat) : ClaimRow :=
  { buf := List.replicate e 0, chk := 0, absS := 0, got := [], sigma := [], final := false, failed := false }

/-- A row of a claim. -/
def rowAt (c : Claim) (t : Nat) : ClaimRow := amGet (freshRow c.e) c.rows t

/-- The route records of one token, read by the Confluence (07 R196). -/
def tokenRecs (s : State) (d : Nat) (c : Claim) (t : Nat) : List RouteRec :=
  (readRecs s (cfUnit d) (c.route + 16 * t * c.k) c.k).map readRec

/-- The expected count of a row: its records with ADMITTED set (07 R197). -/
def expectedOf (recs : List RouteRec) : Nat := recs.countP (·.admitted)

/-- Whether a token has a dropped slot: a record that is not admitted and not padding (07 R198). -/
def hasDrop (recs : List RouteRec) : Bool := recs.any (fun r => !r.admitted && !r.pad)

/-- τ_cf of 05 R140. -/
def tauCf (m e : Nat) (absS : FVal) : Dy := dyAdd (dyMul ⟨2 * m + 5, -24⟩ (fDy absS)) ⟨2 * m * e, -150⟩

/-- The row check of 05 R140: the W48 sum of the elements before output rounding against the checksum term. A difference that
is not a number does not exceed τ_cf. -/
def rowCheckOk (r : ClaimRow) (e : Nat) : Bool :=
  let sum := w48Sum (r.buf.map fp32Val)
  let chk := fp32Val r.chk
  !(fFinite sum && fFinite chk) || dyLe (dyAbs (dySub (fDy sum) (fDy chk))) (tauCf r.got.length e (fp32Val r.absS))

/-- One contribution applied to a row (07 R195): each product and each sum rounded once in FP32. -/
def applyRow (w : FVal) (vs : List FVal) (m : RowMsg) (r : ClaimRow) : ClaimRow :=
  { r with
    buf := (r.buf.zip vs).map (fun x => fp32Code (fAdd (fp32Val x.1) (fp32Mul w x.2)))
    chk := fp32Code (fAdd (fp32Val r.chk) (fp32Mul w (fp32Val m.word6.toNat)))
    absS := fp32Code (fAdd (fp32Val r.absS) (fp32Mul (fAbs w) (fp32Val m.chkAbs.toNat)))
    got := m.rank.toNat :: r.got
    sigma := amPut r.sigma m.rank.toNat m.version.toNat }

/-- Errors of the combine buffer in a row, by column (DEDUCED, log entry 9). -/
def spoilRow (es : List ElemErr) (r : ClaimRow) : ClaimRow :=
  if es.isEmpty then r
  else { r with buf := (indexed 0 r.buf).map (fun x =>
    if es.any (fun e => e.col == x.1) then fp32Code (fAdd (fp32Val x.2) (dyF (colErr es x.1))) else x.2) }

/-! ## Finalising rows (07 R197, R205, R206) -/

/-- Where a command writes output row t, and in which format. -/
def outPlace (i : Instr) (c : Claim) (t : Nat) : Nat × Nat :=
  match i with
  | .cbCombine _ p _ => (p.outAddr.toNat + t * p.rowBytes.toNat, p.fmtOut.toNat)
  | .cbReturnGrad _ p _ => (p.dxAddr.toNat + t * c.e * elemSize p.fmtOut.toNat, p.fmtOut.toNat)
  | _ => (0, 1)

/-- The scalar of one record (07 R206). -/
def scalarOf (r : ClaimRow) (q : RouteRec) : Nat :=
  if !q.admitted || q.pad then 0
  else match amFind r.sigma q.rank with
    | none => 0xFFFFFFFF
    | some sg =>
      let w := fp32Val q.weight
      if fEq w fZero then 0 else fp32Code (fDiv (fp32Val sg) w)

/-- The scalars of a token's records, written at SCALAR_ADDR (07 R205, R206). -/
def writeScalars (d : Nat) (w : Who) (p : PCbReturnGrad) (c : Claim) (t : Nat) (s : State) : State :=
  let vs := (tokenRecs s d c t).map (scalarOf (rowAt c t))
  count (storeLazy s w (p.scalarAddr.toNat + 4 * t * c.k) (u32Bytes vs)) (cfUnit d) 0x40 vs.length

/-- Write a row that passed its check: rounded once to FMT_OUT, made visible, and counted in the signal word (07 R197). -/
def writeRow (d : Nat) (j : Job) (c : Claim) (t : Nat) (r : ClaimRow) (s : State) : State :=
  let u := cfUnit d
  let (a, f) := outPlace j.cmd c t
  let s := match fmtOf f with
    | some fc =>
      let (bs, _, sat, nan) := convRow fc (r.buf.map fp32Val)
      storeNow (event (event s u 0x8003 c.ctx sat) u 0x8004 c.ctx nan) (whoOf j) a bs
    | none => s
  let s := count s u 0x20 1
  match j.cmd with
  | .cbCombine _ p _ =>
    let sg := p.signalAddr.toNat
    if sg = 0 then s else sigStore s (whoOf j) sg ((word s sg + 1) % 2 ^ 64)
  | _ => s

/-- Finalise a row (07 R197): check it, write it, and in the backward pass its scalars (R205). -/
def finaliseRow (d : Nat) (j : Job) (c : Claim) (t : Nat) (s : State) : State :=
  let r := spoilRow ((faultsOf j.cmd).errs.filter (fun e => e.row == t)) (rowAt c t)
  let ok := rowCheckOk r c.e
  let s := if ok then writeRow d j c t r s else count s (cfUnit d) 0x28 1
  let s := match j.cmd with | .cbReturnGrad _ p _ => writeScalars d (whoOf j) p c t s | _ => s
  modClaim s d c.tag c.grad (fun c => { c with rows := amPut c.rows t { r with final := ok, failed := !ok } })

/-- Rows of a bound claim whose count has reached the expected one and that are not finalised. -/
def readyRows (c : Claim) : List Nat :=
  (List.range c.tokens).filter (fun t => let r := rowAt c t; !r.final && !r.failed && c.expect.getD t 0 ≤ r.got.length)

/-- Rows short of their expected count. -/
def shortRows (c : Claim) : List Nat :=
  (List.range c.tokens).filter (fun t => let r := rowAt c t; !r.final && !r.failed)

/-- Rows that failed their check. -/
def failedRows (c : Claim) : List Nat := (List.range c.tokens).filter (fun t => (rowAt c t).failed)

/-! ## The end of a bound command (07 R198-R200, R207) -/

/-- One entry of the missing list (07 R199). -/
def missingEntry (t rank : Nat) (failed : Bool) (pos die : Nat) : List Byte :=
  leBytes 8 (t + 2 ^ 16 * rank + 2 ^ 19 * b2n failed + 2 ^ 32 * pos + 2 ^ 36 * die)

/-- The entries of one row: one for a failed row, one for each missing slot of a short row (07 R199). -/
def missingOf (s : State) (d : Nat) (c : Claim) (t : Nat) : List (List Byte) :=
  let r := rowAt c t
  if r.failed then [missingEntry t 0 true 0 0]
  else if r.final then []
  else ((tokenRecs s d c t).filter (fun q => q.admitted && !r.got.contains q.rank)).map
    (fun q => missingEntry t q.rank false q.ownerPos q.ownerDie)

/-- The missing list (07 R199). -/
def missingList (s : State) (d : Nat) (c : Claim) : List Byte :=
  let es := (List.range c.tokens).flatMap (missingOf s d c)
  leBytes 4 es.length ++ leBytes 4 (shortRows c).length ++ leBytes 4 (failedRows c).length ++ leBytes 4 0 ++ es.flatten

/-- The status of a bound command when it replies (07 R198). -/
def combineStatus (s : State) (d drops : Nat) (c : Claim) : End :=
  let short := (shortRows c).length
  let rows := rowsDone c
  let dropped := (List.range c.tokens).countP (fun t => hasDrop (tokenRecs s d c t))
  let rec' := [(0x68, rows)]
  if !(failedRows c).isEmpty then { checkFailed (cfUnit d) rows rec' with drops := drops }
  else if short != 0 then { fails INCOMPLETE short with checks := rows, drops := drops, record := rec' }
  else { status := if dropped != 0 || drops != 0 then DONE_WITH_DROPS else DONE, detail := dropped, verdict := 1, checks := rows,
         drops := drops, record := rec' }

/-- Close the replay claim of a CB_RETURN_GRAD with RECOMPUTE 1 (07 R207). -/
def closeSink (d tag : Nat) (s : State) : State :=
  if (claimOf s d tag false).any (·.sink) then closeClaim s d tag false else s

/-- A bound command replies: the list or the missing scalars are written, and its claims close (07 R198-R200, R206, R207). -/
def combineEnd (d : Nat) (j : Job) (c : Claim) (s : State) : State × End :=
  let drops := ((jobOf s j.id).getD j).drops
  let e := combineStatus s d drops c
  let s := match j.cmd with
    | .cbCombine _ p _ =>
      if e.status = CHECK_FAILED || e.status = INCOMPLETE then storeLazy s (whoOf j) p.missingAddr.toNat (missingList s d c) else s
    | .cbReturnGrad _ p _ => (shortRows c).foldl (fun s t => writeScalars d (whoOf j) p c t s) s
    | _ => s
  let s := closeClaim s d c.tag c.grad
  (if c.grad then closeSink d c.tag s else s, e)

/-- Finalise what is ready of a claim and end its command when every row is done. -/
def advance (d : Nat) (j : Job) (tag : Nat) (grad : Bool) (s : State) : RunRes :=
  match claimOf s d tag grad with
  | none => waits s .bound
  | some c =>
    let s := (readyRows c).foldl (fun s t => match claimOf s d tag grad with
      | some c => finaliseRow d j c t s
      | none => s) s
    match claimOf s d tag grad with
    | none => waits s .bound
    | some c =>
      if (shortRows c).isEmpty then let (s, e) := combineEnd d j c s; ends s e
      else waits s .bound

/-- Bind a command to its claim once its checks have passed: the expected counts come from the route records (07 R196, R197).
A record with a reserved bit set ends it, and the claim stays open (00 R9). -/
def bind (d : Nat) (j : Job) (c : Claim) (s : State) : RunRes :=
  match recsRsvd 0 (readRecs s (cfUnit d) c.route (c.tokens * c.k)) with
  | some off => ends s (fails OUT_OF_RANGE off)
  | none =>
    let ex := (List.range c.tokens).map (fun t => expectedOf (tokenRecs s d c t))
    advance d j c.tag c.grad (modClaim s d c.tag c.grad (fun c => { c with job := some j.id, expect := ex }))

/-- Addresses and sizes of a command's output rows. -/
def outRanges (i : Instr) (c : Claim) : List (Nat × Nat) :=
  (List.range c.tokens).map (fun t => let (a, f) := outPlace i c t; (a, c.e * elemSize f))

/-- What stops a command before it binds: a retrain it parks behind, or poison, with which it replies and closes its claim
(07 R200; 08 R241, R244). -/
def bindStop (d : Nat) (c : Claim) (x : End ⊕ Phase) (s : State) : RunRes :=
  match x with
  | .inl e => ends (closeClaim s d c.tag c.grad) e
  | .inr ph => waits s ph

/-- CB_COMBINE (07 R196-R199). -/
def runCbCombine (p : PCbCombine) (j : Job) (s : State) : RunRes :=
  let d := uDie j.unit
  match claimOf s d p.batchTag.toNat false with
  | none => ends s (fails BAD_STATE 0x40)
  | some c =>
    let recs := (c.route, 16 * c.tokens * c.k)
    if c.route != p.routeAddr.toNat then ends s (fails BAD_STATE 0x20)
    else if c.tokens != p.tokens.toNat then ends s (fails BAD_STATE 0x44)
    else if p.rowBytes.toNat < c.e * elemSize p.fmtOut.toNat then ends s (fails OUT_OF_RANGE 0x48)
    else match lateRange s (j.ring / 256) j.unit [(0x20, recs.1, recs.2, pRead)] with
      | some e => ends s e
      | none => match rangesStop s [recs] (outRanges j.cmd c) with
        | some x => bindStop d c x s
        | none => bind d j c s

/-- Whether the forward claim of a tag meets R207: open, a replay, with the same ROUTE_ADDR. -/
def recomputeOk (s : State) (d tag route : Nat) : Bool :=
  (claimOf s d tag false).any (fun c => c.replay && c.route == route)

/-- CB_RETURN_GRAD (07 R205-R207). The formation of the scalars is duplicated: a mismatch is formed again once, a second ends
the command CHECK_FAILED (05 R122, R140). -/
def runCbReturnGrad (p : PCbReturnGrad) (f : Faults) (j : Job) (s : State) : RunRes :=
  let d := uDie j.unit
  let tag := p.batchTag.toNat
  match claimOf s d tag true with
  | none => ends s (fails BAD_STATE 0x38)
  | some c =>
    let n := c.tokens * c.k
    let dx := c.tokens * c.e * elemSize p.fmtOut.toNat
    if c.route != p.routeAddr.toNat then ends s (fails BAD_STATE 0x20)
    else if p.recompute = 1 && !recomputeOk s d tag c.route then ends s (fails BAD_STATE 0x3C)
    else match lateRange s (j.ring / 256) j.unit
        [(0x20, c.route, 16 * n, pRead), (0x30, p.scalarAddr.toNat, 4 * n, pWrite), (0x28, p.dxAddr.toNat, dx, pWrite)] with
      | some e => ends s e
      | none => match rangesStop s [(c.route, 16 * n)] ((p.scalarAddr.toNat, 4 * n) :: outRanges j.cmd c) with
        | some x => bindStop d c x s
        | none =>
          let s := if p.recompute = 1 then modClaim s d tag false (fun c => { c with sink := true }) else s
          if 2 ≤ f.mismatch then ends (closeSink d tag (closeClaim s d tag true)) (checkFailed (cfUnit d))
          else bind d j c (if f.mismatch = 1 then charge (cfUnit d) 1 s else s)

/-! ## The Confluence's queue -/

/-- Run a Confluence packet when its turn comes. -/
def cfRun (j : Job) (s : State) : RunRes :=
  match j.cmd with
  | .cbCombine _ p _ => runCbCombine p j s
  | .cbReturnGrad _ p f => runCbReturnGrad p f j s
  | _ => ends s (done 0)

/-- Let a die's Confluence go on. -/
def pumpCf (d : Nat) (s : State) : State := pumpUnit cfRun (cfUnit d) (s.gz.jobs.length + 1) s

/-- Let a die's Confluence and Watershed go on: a claim that closes makes room for another. -/
def pumpDie (d : Nat) (s : State) : State := pumpWs d (pumpCf d s)

/-- CB_COMBINE (02 R53). -/
def execCbCombine (h : Hdr) (p : PCbCombine) (f : Faults) (s : State) : Host.Outcome State Fault Refusal :=
  .next (settle (pumpDie (homeOf h s) (arrive (preCbCombine h p s) runInUnit (.cbCombine h p f) s)))

/-- CB_RETURN_GRAD (02 R53). -/
def execCbReturnGrad (h : Hdr) (p : PCbReturnGrad) (f : Faults) (s : State) : Host.Outcome State Fault Refusal :=
  .next (settle (pumpDie (homeOf h s) (arrive (preCbReturnGrad h p s) runInUnit (.cbReturnGrad h p f) s)))

/-- RT_CANCEL (02 R53): it does not wait for the packets it cancels. -/
def execRtCancel (h : Hdr) (p : PRtCancel) (s : State) : Host.Outcome State Fault Refusal :=
  .next (settle (pumpDie (homeOf h s) (arrive (preRtCancel h s) (runRtCancel p) (.rtCancel h p) s)))

/-- The TIMEOUT of a bound command: rows still short are not written (07 R198, R206). -/
def combineExpire (d : Nat) (j : Job) (s : State) : State :=
  match (cfOf s d).claims.find? (fun c => c.job == some j.id) with
  | none => endJob s j.id (fails TIMEOUT 0)
  | some c => let (s, e) := combineEnd d j c s; endJob s j.id e

/-! ## Contributions (07 R194, R195, R201, R202) -/

/-- What a contribution meets at the claim table: a claim to be applied to with its record, or whether it is a repeat. -/
def meets (s : State) (d : Nat) (m : RowMsg) (grad : Bool) : (Claim × RouteRec) ⊕ Bool :=
  match claimOf s d m.tag.toNat grad with
  | none => .inr false
  | some c =>
    let t := m.token.toNat
    let r := m.rank.toNat
    let a := c.route + 16 * (t * c.k + r)
    if c.sink || c.num != m.claim.toNat || c.tokens ≤ t || c.k ≤ r || (poisonIn s a 16).isSome then .inr false
    else
      let q := readRec (readBytes s (cfUnit d) a 16)
      if !q.admitted || q.ownerPos != m.fromPos.toNat || q.ownerDie != m.fromDie.val then .inr false
      else if (rowAt c t).got.contains r then .inr true
      else .inl (c, q)

/-- A stale arrival: counted, and added to DROPS of the tag's open command on this Confluence (07 R194, R202). -/
def staleContribution (d : Nat) (m : RowMsg) (dup : Bool) (s : State) : State :=
  let u := cfUnit d
  let tag := m.tag.toNat
  let c := m.ctx.toNat
  let s := event (count s u 0x30 1) u 0x8002 c 1
  let s := if dup then count s u 0x38 1 else s
  let s := modCf s d (fun f => { f with ctxStale := amMod 0 f.ctxStale c (· + 1) })
  let bound := ((cfOf s d).claims.filter (fun x => x.tag == tag)).findSome? (·.job)
  match bound.or ((tagOf s d tag).bind (·.cancelJob)) with
  | some id => modJob s id (fun j => { j with drops := j.drops + 1 })
  | none => s

/-- Apply a contribution to its row (07 R195). -/
def applyContribution (d : Nat) (m : RowMsg) (f : Faults) (c : Claim) (q : RouteRec) (s : State) : State :=
  let u := cfUnit d
  let w := if c.grad then fp32Val 0x3F800000 else fp32Val q.weight
  let vs := match fmtOf c.fmt with | some fc => rowVals fc m.row [] c.e | none => []
  let t := m.token.toNat
  let s := event (count s u 0x18 1) u 0x8001 c.ctx 1
  modClaim s d c.tag c.grad (fun c => { c with rows := amMod (freshRow c.e) c.rows t (fun r => spoilRow f.errs (applyRow w vs m r)) })

/-- After a contribution, the claim's command goes on (07 R197). -/
def afterContribution (d tag : Nat) (grad : Bool) (s : State) : State :=
  match (claimOf s d tag grad).bind (fun c => c.job.bind (jobOf s)) with
  | some j => outcome j (advance d j tag grad s)
  | none => s

/-- CONTRIBUTION_ARRIVAL (07 R194, R195): a returned row reaches its Confluence. A message of another kind is none. -/
def execContributionArrival (die : CDie) (m : RowMsg) (f : Faults) (s : State) : Host.Outcome State Fault Refusal :=
  let d := die.val
  let s := receive s (.row m (myPos s) d)
  let tag := m.tag.toNat
  let grad := m.kind == .gradContrib
  .next (settle (
    if !grad && m.kind != .fwdContrib then s
    else
      let s := modTag s d tag (fun t => { t with outstanding := t.outstanding.erase (m.token.toNat, m.rank.toNat, grad) })
      let s := match meets s d m grad with
        | .inl (c, q) => afterContribution d tag grad (applyContribution d m f c q s)
        | .inr dup => staleContribution d m dup s
      pumpDie d (tryCancelEnd d tag s)))

end Sys2Proof.Machine
end

