-- ==== Sys2Proof/Machine/Drover.lean ====
section
/-! DEFINITION. Drovers (11): launches, their end, the memory checks of a drover's accesses, sinks and mirrors, and waits on
signal words. The instructions themselves are in Riscv and Vector. -/

namespace Sys2Proof.Machine

/-! ## A drover and its launch -/

/-- The key of a drover: 64 · die + n. -/
def drvKey (die n : Nat) : Nat := 64 * die + n
/-- The unit ID of a drover. -/
def drvUnit (n : Nat) : Nat := uid 3 (n / 64) (n % 64)
/-- Base of a drover's scratch window (08 R225). -/
def scratchBase (n : Nat) : Nat := 0x62000000000 + n / 64 * 0x4000000 + n % 64 * 0x100000

/-- The parameters of a launch. -/
def launchOf (j : Job) : Option PDrvLaunch :=
  match j.cmd with
  | .drvLaunch _ p => some p
  | _ => none

/-- The drovers of a launch on a die, ascending (11 R288). -/
def drvSet (die : Nat) (p : PDrvLaunch) : List Nat := (List.range p.count.toNat).map (fun i => drvKey die (p.first.toNat + i))

/-- The launch a drover runs for, if it runs. -/
def drvJob (s : State) (n : Nat) : Option Job := (droverOf s n).job.bind (jobOf s)

/-- Who a drover is as it reads and writes (13 R353). -/
def drvWho (n : Nat) (j : Job) : Who := ⟨drvUnit n, 0x5000 + n, j.ring / 256, j.id, j.ring⟩

/-! ## Sinks (11 R300) -/

/-- Add the running sink values to a slot and clear them (11 R298, R300). -/
def flushSink (n : Nat) (j : Job) (s : State) : State :=
  let d := droverOf s n
  let s := if d.sinkCount = 0 then s
    else statApply s (drvWho n j) (bits d.statsink 0 12)
      { sumsq := some d.sinkSq, maxabs := some (d.sinkMax, drvUnit n), count := d.sinkCount }
  modDrover s n (fun d => { d with sinkSq := fZero, sinkMax := fZero, sinkCount := 0 })

/-- Take FP32 elements into the sink: a sum of squares in W48, a max-abs and a count (11 R300). -/
def sinkAdd (n : Nat) (elems : List Nat) (s : State) : State :=
  let vs := elems.map fp32Val
  modDrover s n (fun d =>
    { d with
      sinkSq := w48Add d.sinkSq (sumSquares vs)
      sinkMax := maxAbs (d.sinkMax :: vs)
      sinkCount := d.sinkCount + elems.length })

/-! ## The end of a launch (11 R293, R294) -/

/-- Put a context's latest launch into a drover's record (11 R295). -/
def drvNote (x : DrvLast) (d : Drover) : Drover := { d with last := x :: d.last.filter (fun y => y.ctx != x.ctx) }

/-- Checked instructions of the drovers of a launch. -/
def launchChecks (s : State) (ns : List Nat) : Nat := (ns.map (fun n => (droverOf s n).checks)).foldl (· + ·) 0

/-- Free one drover of a launch that has ended: its record, its waiters and its reservation. -/
def freeDrover (j : Job) (status : Nat) (n : Nat) (s : State) : State :=
  let d := droverOf s n
  let kept := (d.last.find? (fun y => y.ctx == j.ring / 256 && y.seq == (hdrOf j.cmd).seq.toNat && d.finished)).getD {}
  let x : DrvLast := { ctx := j.ring / 256, status := status, seq := (hdrOf j.cmd).seq.toNat, exit := kept.exit }
  let s := { s with sig := { s.sig with waiters := s.sig.waiters.filter (fun w => w.who != .drover n) } }
  count (modDrover s n (fun d => { drvNote x d with job := none, waiting := false, resv := none })) (drvUnit n) 0x10
    (if status = DONE then 1 else 0)

/-- Free every drover of a launch. -/
def freeDrovers (j : Job) (status : Nat) : List Nat → State → State
  | [], s => s
  | n :: ns, s => freeDrovers j status ns (freeDrover j status n s)

/-- Set a drover as a launch starts it (11 R288). -/
def startDrover (j : Job) (p : PDrvLaunch) (i n : Nat) (s : State) : State :=
  let base := scratchBase n
  let sb := p.scratchBytes.toNat
  let x : AMap Nat := [(2, (base + sb) % 2 ^ 64), (10, p.argAddr.toNat), (11, i), (12, p.count.toNat), (13, base), (14, sb), (15, j.ring / 256)]
  modDrover s n (fun d => { ({} : Drover) with
    job := some j.id, index := i, scratch := sb, pc := p.entry.toNat, x := x, last := d.last })

/-- Start the drovers of a launch. -/
def startDrovers (j : Job) (p : PDrvLaunch) : Nat → List Nat → State → State
  | _, [], s => s
  | i, n :: ns, s => startDrovers j p (i + 1) ns (startDrover j p i n s)

/-- Whether every drover of a launch's set is free. -/
def setFree (s : State) (die : Nat) (p : PDrvLaunch) : Bool := (drvSet die p).all (fun n => (droverOf s n).job.isNone)

/-- Whether two launches of one die share a drover. -/
def setsMeet (p q : PDrvLaunch) : Bool :=
  p.first.toNat < q.first.toNat + q.count.toNat && q.first.toNat < p.first.toNat + p.count.toNat

/-- The queued launches of a die that may start: their set is free and no earlier launch of their ring shares a drover
(11 R288, 02 R46). -/
def launchReady (s : State) (die : Nat) : List (Job × PDrvLaunch) :=
  let qs := s.gz.jobs.filterMap (fun j => match j.phase, launchOf j with
    | .inUnit, some p => if uDie j.unit = die then some (j, p) else none
    | _, _ => none)
  qs.filter (fun q => setFree s die q.2 &&
    !qs.any (fun r => r.1.ring == q.1.ring && r.1.id < q.1.id && setsMeet r.2 q.2))

/-- Start the launch that 02 R47 chooses among those ready. -/
def pumpLaunch (die : Nat) : Nat → State → State
  | 0, s => s
  | k + 1, s =>
    let ls := launchReady s die
    let last := lastServed s (uid 3 die 0) 0
    match chooseRing last (ls.map (fun l => rank47 s l.1.ring l.1.cmd)) with
    | none => s
    | some c => match ls.find? (fun l => l.1.ring == c.1) with
      | none => s
      | some (j, p) =>
        let s := serve s (uid 3 die 0) 0 c.1
        let s := modJob s j.id (fun j => { j with phase := .launch })
        pumpLaunch die k (startDrovers j p 0 (drvSet die p) s)

/-- Start what may start on a die. -/
def pumpDrovers (die : Nat) (s : State) : State := pumpLaunch die (s.gz.jobs.length + 1) s

/-- End a launch: every drover of the set stops, and the checks they made are counted (11 R293, R294; 05 R138). -/
def endLaunch (j : Job) (e : End) (s : State) : State :=
  match launchOf j with
  | none => s
  | some p =>
    let die := uDie j.unit
    let ns := drvSet die p
    let n := launchChecks s ns
    let s := freeDrovers j e.status ns s
    let s := if e.status = DONE then ns.foldl (fun s n => count s (uid 3 die (n % 64)) 0x10 1) s else s
    let reps := ((jobOf s j.id).getD j).replays
    pumpDrovers die (endJob s j.id { e with checks := n, replays := reps, record := [(0x58, n)] })

/-- Stop a launch at a drover, with the cause, pc and address of the stop in its record (11 R294, R295). -/
def drvStop (n : Nat) (e : End) (cause addr : Nat) (s : State) : State :=
  match drvJob s n with
  | none => s
  | some j =>
    let pc := (droverOf s n).pc
    let s := endLaunch j e s
    modDrover s n (fun d => drvNote { ctx := j.ring / 256, status := e.status, seq := (hdrOf j.cmd).seq.toNat, cause := cause,
                                      pc := pc, addr := addr } d)

/-- A drover exits with a code; the launch replies when every drover has (11 R293). -/
def drvExit (n : Nat) (s : State) : State :=
  match drvJob s n with
  | none => s
  | some j =>
    let code := amGet 0 (droverOf s n).x 10
    let s := flushSink n j s
    let s := modDrover s n (fun d =>
      { drvNote { ctx := j.ring / 256, status := 0, seq := (hdrOf j.cmd).seq.toNat, exit := code } d with finished := true })
    match launchOf j with
    | none => s
    | some p =>
      let ns := drvSet (uDie j.unit) p
      if ns.all (fun k => (droverOf s k).finished) then
        let mx := (ns.map (fun k => amGet 0 (droverOf s k).x 10)).foldl max 0
        let reps := ((jobOf s j.id).getD j).replays
        endLaunch j { done (mx % 2 ^ 32) with verdict := if reps = 0 then 1 else 3 } s
      else s

/-! ## DRV_LAUNCH (11 R288, R289) -/

/-- Checks of DRV_LAUNCH that the pre-parser makes, and the drovers that must be ready (02 R56; 11 R289). -/
def preDrvLaunch (h : Hdr) (p : PDrvLaunch) (s : State) : Pre :=
  let u := ringCore s (ringKey h)
  { unit := u
    fields := [(0x30, p.first.toNat ≤ 63), (0x31, 1 ≤ p.count.toNat && p.first.toNat + p.count.toNat ≤ 64)]
    ready := (drvSet (uDie u) p).map drvUnit }

/-- The checks the control core makes before any drover starts (11 R289). -/
def launchBad (s : State) (c die : Nat) (p : PDrvLaunch) : Option (Nat × Nat) :=
  match access s c (drvUnit (drvKey die p.first.toNat)) p.entry.toNat 1 pExec with
  | some st => some (st, 0x20)
  | none =>
    let sb := p.scratchBytes.toNat
    if sb % 16 != 0 || 0x100000 < sb then some (OUT_OF_RANGE, 0x34)
    else if sb = 0 then none
    else ((drvSet die p).filterMap (fun n => access s c (drvUnit n) (scratchBase n) sb (pRead + pWrite))).head?.map (fun st => (st, 0x34))

/-- DRV_LAUNCH is checked and takes its place among the launches of its die (11 R288, R289). -/
def runDrvLaunch (p : PDrvLaunch) (j : Job) (s : State) : RunRes :=
  match launchBad s (j.ring / 256) (uDie j.unit) p with
  | some (st, d) => ends s (fails st d)
  | none => waits s .inUnit

/-- DRV_LAUNCH (02 R53). -/
def execDrvLaunch (h : Hdr) (p : PDrvLaunch) (s : State) : Host.Outcome State Fault Refusal :=
  .next (settle (pumpDrovers (uDie (ringCore s (ringKey h))) (arrive (preDrvLaunch h p s) (runDrvLaunch p) (.drvLaunch h p) s)))

/-! ## Accesses of a drover (11 R291, R294) -/

/-- Why an instruction stops its drover: the end of the launch, the RISC-V cause and the address. -/
structure Trap where
  e : End
  cause : Nat
  addr : Nat

/-- The end of a launch that BAD_STATE stops (11 R294). -/
def badState : End := fails BAD_STATE 0x20

/-- An illegal instruction (11 R294). -/
def illegal : Trap := ⟨badState, 2, 0⟩

/-- The RISC-V cause of a failed access: 1 fetch, 5 load, 7 store or AMO. -/
def accessCause (need : Nat) : Nat := if need = pExec then 1 else if need = pRead then 5 else 7
/-- The RISC-V cause of a misaligned access. -/
def alignCause (need : Nat) : Nat := if need = pRead then 4 else 6

/-- Check one access of n bytes: alignment where it crosses a 32-byte block, the extents, then poison (11 R291, 08 R241). A
write that covers its blocks whole does not meet their poison. -/
def drvCheck (s : State) (n : Nat) (j : Job) (a size need : Nat) (aligned : Bool) : Option Trap :=
  if a % size != 0 && (aligned || 32 < a % 32 + size) then some ⟨badState, alignCause need, a⟩
  else match access s (j.ring / 256) (drvUnit n) a size need with
    | some st => some ⟨fails st 0x20, accessCause need, a⟩
    | none =>
      match (if need = pWrite then partialPoison s a size else poisonIn s a size) with
      | some ch => some ⟨fails MEMORY_POISONED ch, accessCause need, a⟩
      | none => none

/-- Whether an address lies in the sink of a drover (11 R300). -/
def inSink (d : Drover) (n a : Nat) : Bool :=
  bit d.statsink 15 && scratchBase n + 0xFF000 ≤ a && a < scratchBase n + 0x100000

/-- Whether an access of n bytes touches the sink. -/
def meetsSink (d : Drover) (n a size : Nat) : Bool := inSink d n a || inSink d n (a + size - 1)

/-- Read size bytes for a load; the sink returns zeros (11 R291, R300). -/
def drvLoad (s : State) (n : Nat) (j : Job) (a size : Nat) (aligned : Bool) : Trap ⊕ Nat :=
  match drvCheck s n j a size pRead aligned with
  | some t => .inl t
  | none => .inr (if inSink (droverOf s n) n a then 0 else readNat s (drvUnit n) a size)

/-- Write a scalar store: one into the sink traps (11 R291, R300). -/
def drvStore (s : State) (n : Nat) (j : Job) (a size v : Nat) (aligned : Bool) : Trap ⊕ State :=
  if meetsSink (droverOf s n) n a size then .inl ⟨badState, 7, a⟩
  else match drvCheck s n j a size pWrite aligned with
    | some t => .inl t
    | none => .inr (storeLazy s (drvWho n j) a (leBytes size v))

/-- Go on at the instruction after one of `len` bytes, which retires (11 R295; 15 R388). -/
def drvNext (n : Nat) (j : Job) (len : Nat) (vec : Bool) (s : State) : State :=
  let u := drvUnit n
  let c := j.ring / 256
  let s := modDrover s n (fun d => { d with pc := (d.pc + len) % 2 ^ 64 })
  let s := event (count s u 0x18 1) u 0x3001 c 1
  if vec then event s u 0x3002 c 1 else s

/-! ## Vector stores: sink, mirror and memory (11 R300, R302) -/

/-- Whether the mirror is on. -/
def mirrorOn (d : Drover) : Bool := bit d.tmctl 63
/-- Bytes of the mirror window. -/
def mirrorBytes (d : Drover) : Nat := bits d.tmshape 32 32 * bits d.tmshape 0 32
/-- Element bytes of the mirror. -/
def mirrorSize (d : Drover) : Nat := 2 ^ bits d.tmctl 32 2

/-- The mirror address of an element (11 R302). -/
def mirrorAddr (d : Drover) (a : Nat) : Nat :=
  let rs := bits d.tmshape 0 32
  let sz := mirrorSize d
  let o := a - d.tmbase
  (d.tmdst + o % rs / sz * bits d.tmctl 0 32 + o / rs * sz) % 2 ^ 64

/-- Write the elements of a vector store one after the other, each with its mirror; the first that traps stops the rest and
leaves its number in vstart. -/
def storeElems (n : Nat) (j : Job) (size : Nat) (mirror : Bool) : Nat → List (Nat × Nat) → State → State × Option Trap
  | _, [], s => (s, none)
  | i, (a, v) :: es, s =>
    let d := droverOf s n
    let fail (t : Trap) := (modDrover s n (fun d => { d with vstart := i }), some t)
    match drvCheck s n j a size pWrite true with
    | some t => fail t
    | none =>
      if mirror then
        let m := mirrorAddr d a
        match drvCheck s n j m size pWrite true with
        | some t => fail t
        | none =>
          storeElems n j size mirror (i + 1) es (storeLazy (storeLazy s (drvWho n j) a (leBytes size v)) (drvWho n j) m (leBytes size v))
      else storeElems n j size mirror (i + 1) es (storeLazy s (drvWho n j) a (leBytes size v))

/-- A vector store of elements (address, value) of `size` bytes; `unit` says that it is unit-stride. A store into the sink
writes nothing with SEW 32 and traps otherwise; one wholly in the mirror window is mirrored, and one partly in it or of
another SEW traps (11 R300, R302). -/
def vecStore (n : Nat) (j : Job) (size : Nat) (unit : Bool) (es : List (Nat × Nat)) (s : State) : State × Option Trap :=
  let d := droverOf s n
  let a0 := (es.headD (0, 0)).1
  let inWin (a : Nat) : Bool := d.tmbase ≤ a && a < d.tmbase + mirrorBytes d
  let touched := es.any (fun e => inWin e.1 || inWin (e.1 + size - 1))
  let whole := es.all (fun e => inWin e.1 && inWin (e.1 + size - 1))
  if es.any (fun e => meetsSink d n e.1 size) then
    if size = 4 && es.all (fun e => inSink d n e.1 && inSink d n (e.1 + 3)) then
      match es.find? (fun e => e.1 % 4 != 0) with
      | some e => (s, some ⟨badState, 6, e.1⟩)
      | none => (sinkAdd n (es.map (·.2)) s, none)
    else (s, some ⟨badState, 7, a0⟩)
  else if mirrorOn d && unit && touched then
    if whole && mirrorSize d = size then storeElems n j size true 0 es s else (s, some ⟨badState, 7, a0⟩)
  else storeElems n j size false 0 es s

/-- Run a step of a drover that is in a launch, not finished and not waiting; a trap stops the launch. -/
def drvStep (n : Nat) (f : Job → State → State × Option Trap) (s : State) : State :=
  let d := droverOf s n
  match drvJob s n with
  | none => s
  | some j =>
    if d.finished || d.waiting then s
    else match f j s with
      | (s, none) => s
      | (s, some t) => drvStop n t.e t.cause t.addr s

/-- Elements at consecutive addresses. -/
def unitElems (a size : Nat) : List Nat → List (Nat × Nat)
  | [] => []
  | v :: vs => (a, v) :: unitElems (a + size) size vs

/-- SINK_STORE: a unit-stride vector store with SEW 32 into the top 4 KiB of the drover's scratch (11 R300). -/
def execSinkStore (die : CDie) (n : BitVec 6) (off : BitVec 12) (elems : List Word32) (s : State) :
    Host.Outcome State Fault Refusal :=
  let k := drvKey die.val n.toNat
  let a := scratchBase k + 0xFF000 + off.toNat
  .next (settle (drvStep k (fun j s => match vecStore k j 4 true (unitElems a 4 (elems.map (·.toNat))) s with
    | (s, none) => (drvNext k j 4 true s, none)
    | r => r) s))

/-- MIRROR_STORE: a unit-stride vector store of elements of 2^sew bytes (11 R302). -/
def execMirrorStore (die : CDie) (n : BitVec 6) (addr : Word64) (sew : Byte) (elems : List Word64) (s : State) :
    Host.Outcome State Fault Refusal :=
  let k := drvKey die.val n.toNat
  let size := 2 ^ (sew.toNat % 4)
  .next (settle (drvStep k (fun j s => match vecStore k j size true (unitElems addr.toNat size (elems.map (·.toNat))) s with
    | (s, none) => (drvNext k j 4 true s, none)
    | r => r) s))

/-! ## Exit, fences and waits -/

/-- DROVER_ECALL_EXIT: `ecall` with a7 = 0 ends the drover with exit code a0; with a7 ≠ 0 it stops the launch (11 R293,
R294). -/
def execDroverEcallExit (die : CDie) (n : BitVec 6) (s : State) : Host.Outcome State Fault Refusal :=
  let k := drvKey die.val n.toNat
  .next (settle (drvStep k (fun j s =>
    if amGet 0 (droverOf s k).x 17 = 0 then (drvExit k (drvNext k j 4 false s), none)
    else (s, some ⟨badState, 8, 0⟩)) s))

/-- Make every earlier store and AMO of a drover visible (10 R284). -/
def drvVisible (n : Nat) (s : State) : State :=
  { s with mem := { s.mem with unseen := s.mem.unseen.filter (fun e => e.unit != drvUnit n) } }

/-- DROVER_FENCE: a FENCE makes earlier writes visible when W is in its successor set (10 R284). -/
def execDroverFence (die : CDie) (n : BitVec 6) (succW : Bool) (s : State) : Host.Outcome State Fault Refusal :=
  let k := drvKey die.val n.toNat
  .next (settle (drvStep k (fun j s => (drvNext k j 4 false (if succW then drvVisible k s else s), none)) s))

/-- Write CSR sigwait: a reserved value traps; a refused address, a poisoned word and a condition that holds end the wait at
once; else a waiter attaches and the hart stalls (10 R278, R281, R282). -/
def writeSigwait (n : Nat) (j : Job) (v : Nat) (s : State) : State × Option Trap :=
  let d := droverOf s n
  let a := d.sigaddr
  let set (f : Drover → Drover) := (modDrover s n f, (none : Option Trap))
  if 3 < v then (s, some illegal)
  else if !signalOk s a || (access s (j.ring / 256) (drvUnit n) a 8 pRead).isSome then set (fun d => { d with sigwait := 3 })
  else if (poisonIn s (a / 32 * 32) 32).isSome then set (fun d => { d with sigwait := 2 })
  else if condHolds v (word s a) d.sigval then set (fun d => { d with sigwait := 0, sigval := word s a })
  else
    let (s, _) := attach s ⟨.drover n, a, d.sigval, v, false, drvUnit n, 0xFFFF⟩
    (modDrover s n (fun d => { d with waiting := true }), none)

/-- Write CSR statsink: flush the running values to the slot before the write (11 R292, R300). -/
def writeStatsink (n : Nat) (j : Job) (v : Nat) (s : State) : State × Option Trap :=
  if v % 4096 + 32768 * b2n (bit v 15) != v then (s, some illegal)
  else if bit v 15 && 1044480 < (droverOf s n).scratch then (s, some ⟨badState, 2, 0⟩)
  else (modDrover (flushSink n j s) n (fun d => { d with statsink := v }), none)

/-- SIGWAIT: a CSR write to sigwait (10 R282). -/
def execSigwait (die : CDie) (n : BitVec 6) (cond : Word64) (s : State) : Host.Outcome State Fault Refusal :=
  let k := drvKey die.val n.toNat
  .next (settle (drvStep k (fun j s => match writeSigwait k j cond.toNat s with
    | (s, none) => (drvNext k j 4 false s, none)
    | r => r) s))

/-- STATSINK: a CSR write to statsink (11 R300). -/
def execStatsink (die : CDie) (n : BitVec 6) (value : Word64) (s : State) : Host.Outcome State Fault Refusal :=
  let k := drvKey die.val n.toNat
  .next (settle (drvStep k (fun j s => match writeStatsink k j value.toNat s with
    | (s, none) => (drvNext k j 4 false s, none)
    | r => r) s))

/-- DROVER_WAIT_TIMEOUT: the wait reaches sigtmo; sigwait reads 1 (10 R282). -/
def execDroverWaitTimeout (die : CDie) (n : BitVec 6) (s : State) : Host.Outcome State Fault Refusal :=
  let k := drvKey die.val n.toNat
  .next (settle (
    if (droverOf s k).waiting then
      let s := { s with sig := { s.sig with waiters := s.sig.waiters.filter (fun w => w.who != .drover k) } }
      modDrover s k (fun d => { d with waiting := false, sigwait := 1 })
    else s))

end Sys2Proof.Machine
end

