-- ==== Sys2Proof/Machine/Factors.lean ====
section
/-! DEFINITION. The factor stash (07 R208-R213): CB_FACTOR_FLUSH forms weight gradients tile by tile; and BORROW_PARTITION, which
drains and flushes wait for (05 R133). -/

namespace Sys2Proof.Machine

/-- An entry of a factor table (07 R210), with its byte offset in the table. -/
structure Factor where
  off : Nat
  layer : Nat
  expert : Nat
  matrix : Nat
  mode : Nat
  mask : Nat
  engine : Nat
  fmtX : Nat
  fmtDy : Nat
  m : Nat
  n : Nat
  x : Nat
  dy : Nat
  dw : Nat
  count : Nat
  tile : Nat
  deriving DecidableEq, Repr

/-- An entry from its 64 bytes (07 R210). -/
def readFactor (off : Nat) (b : List Byte) : Factor :=
  { off := off, layer := fld b 0 2, expert := fld b 2 2, matrix := fld b 4 1, mode := fld b 5 1, mask := fld b 6 2, engine := fld b 8 4,
    fmtX := fld b 12 1, fmtDy := fld b 13 1, m := fld b 0x10 4, n := fld b 0x14 4, x := fld b 0x18 8, dy := fld b 0x20 8,
    dw := fld b 0x28 8, count := fld b 0x30 4, tile := fld b 0x34 4 }

/-- The factor table of a context on a die; 0 means none (07 R209). -/
def factorTable (s : State) (d c : Nat) : Nat := amGet 0 s.hw.factor (256 * d + c)

/-- Checks of CB_FACTOR_FLUSH (02 R54; 07 R210; 11 R296). It runs on its ring's home die. -/
def preCbFactorFlush (h : Hdr) (p : PCbFactorFlush) (s : State) : Pre :=
  { unit := uid 0 (homeOf h s) 0
    fields := [(0x20, p.expert.toNat < 8192 || p.expert.toNat = 0xFFFFFFFF), (0x24, p.layer.toNat < 1024), (0x26, statSlotOk p.statSlot.toNat)]
    limits := [(slotOk s h.ctx.toNat p.statSlot.toNat, BAD_STATE, 0x26)] }

/-- Partitions that PART_MASK selects, ascending (07 R210). -/
def maskParts (e : Factor) : List Nat := (List.range 16).filter (bit e.mask)

/-- The three ranges of an entry (07 R210): the stashes, read over COUNT rows, and dW. -/
def factorRanges (e : Factor) : List (Nat × Nat) × List (Nat × Nat) :=
  let sx := elemSize e.fmtX
  ([(e.x, (256 * (e.m - 1) + e.count) * sx), (e.dy, e.count * e.n * elemSize e.fmtDy)], [(e.dw, 4 * e.n * e.m)])

/-- Whether every field of an entry is within its range (07 R210). -/
def factorOk (s : State) (d : Nat) (e : Factor) : Bool :=
  e.layer < 1024 && e.expert < 8192 && e.matrix ≤ 3 && e.mode ≤ 1 && isKind 1 e.engine && uDie e.engine = d && e.mask != 0 &&
    e.mask < 2 ^ (shapeDims (shapeOf s e.engine)).1 && 1 ≤ e.fmtX && e.fmtX ≤ 5 && 1 ≤ e.fmtDy && e.fmtDy ≤ 5 &&
    1 ≤ e.m && e.m ≤ 65536 && 1 ≤ e.n && e.n ≤ 65536 && e.count ≤ 256

/-- The first reserved byte of an entry that is not zero (00 R9). -/
def factorRsvd (b : List Byte) : Option Nat := ([0x0E, 0x0F] ++ (List.range 8).map (0x38 + ·)).find? (fun i => fld b i 1 != 0)

/-- What ends a flush before any tile runs, for one entry (07 R212; 00 R9; 02 R45 check 10 over what the entry names). -/
def factorStop (s : State) (d c u : Nat) (b : List Byte) (e : Factor) : Option End :=
  let at_ (o : Nat) : Nat := 0x80000000 + o
  match factorRsvd b with
  | some o => some (fails OUT_OF_RANGE (at_ (e.off + o)))
  | none =>
    if !factorOk s d e then some (fails OUT_OF_RANGE (at_ e.off))
    else if e.count = 0 then none
    else
      let (rs, ws) := factorRanges e
      match (rs.filterMap (fun r => access s c u r.1 r.2 pRead)) ++
          (ws.filterMap (fun r => access s c u r.1 r.2 (if e.mode = 1 then pAtomic + pWrite else pWrite))) with
      | st :: _ => some (fails st (at_ e.off))
      | [] =>
        let ps := maskParts e
        if ps.any (fun p => (partOf s e.engine p).x.isSome || (partOf s e.engine p).y.isSome) then some (fails BAD_STATE (at_ e.off))
        else ((ps.flatMap (partReady s e.engine)).find? (fun x => !unitReady s x)).map (fun x => fails NOT_READY x)

/-! ## One tile (07 R212; 05 R123-R131) -/

/-- Tiles of a row of dW, and in all. -/
def tileCols (sh : Nat) (e : Factor) : Nat := ceilDiv e.n (shapeDims sh).2.2
/-- Tiles of an entry in row-major order. -/
def tileTotal (sh : Nat) (e : Factor) : Nat := ceilDiv e.m (shapeDims sh).2.1 * tileCols sh e

/-- First row and column of a tile. -/
def tileAt (sh : Nat) (e : Factor) (t : Nat) : Nat × Nat :=
  (t / tileCols sh e * (shapeDims sh).2.1, t % tileCols sh e * (shapeDims sh).2.2)

/-- The pass that a tile is, for its log (05 R131). -/
def tilePass (sh : Nat) (e : Factor) (part t : Nat) : PMmPass :=
  let (i, j) := tileAt sh e t
  let sx := elemSize e.fmtX
  let sy := elemSize e.fmtDy
  { engine := BitVec.ofNat 32 e.engine, part := BitVec.ofNat 8 part, dataflow := 0, fmtA := BitVec.ofNat 8 e.fmtX,
    fmtB := BitVec.ofNat 8 e.fmtDy, aAddr := BitVec.ofNat 64 (e.x + 256 * i * sx), bAddr := BitVec.ofNat 64 (e.dy + j * sy),
    aStride := BitVec.ofNat 32 (256 * sx), bStride := BitVec.ofNat 32 (e.n * sy), k := BitVec.ofNat 32 e.count, t := 0, limb := 0,
    acc := 0, statSlot := 0xFFFF, scaleAddr := 0 }

/-- Rows and columns of a tile that lie within M × N. -/
def tileClip (sh : Nat) (e : Factor) (t : Nat) : Nat × Nat :=
  let (i, j) := tileAt sh e t
  (min (shapeDims sh).2.1 (e.m - i), min (shapeDims sh).2.2 (e.n - j))

/-- Zeros beyond the matrix (07 R212). -/
def padRow (n : Nat) (vs : List FVal) : List FVal := vs ++ List.replicate (n - vs.length) fZero

/-- A tile's result: Xᵀ · DY over the rows stashed, zeros beyond M and N (07 R212). -/
def tileRes (s : State) (c sh : Nat) (e : Factor) (part t : Nat) : Res :=
  let p := tilePass sh e part t
  let (_, r, cc) := shapeDims sh
  let (mr, nc) := tileClip sh e t
  let u := e.engine
  let rd (f a stride rows n : Nat) : List (List FVal) := match fmtOf f with
    | some fc => readRows s u fc a stride rows n (fun _ => [])
    | none => []
  let a := rd e.fmtX p.aAddr.toNat p.aStride.toNat mr e.count
  let a := a ++ List.replicate (r - a.length) (List.replicate e.count fZero)
  let b := (rd e.fmtDy p.bAddr.toNat p.bStride.toNat e.count nc).map (padRow cc)
  addProduct 0 e.count cc a b { emptyRes c 0 p with log := [p] }

/-- The first poisoned block that a tile reads, or that its write would cover in part or add to (08 R239, R241). -/
def tilePoison (s : State) (sh : Nat) (e : Factor) (t : Nat) : Option Nat :=
  let p := tilePass sh e 0 t
  let (i, j) := tileAt sh e t
  let (mr, nc) := tileClip sh e t
  let out := e.dw + 4 * (e.n * i + j)
  match rowsPoison s p.aAddr.toNat p.aStride.toNat (fmtRow e.fmtX e.count) mr with
  | some c => some c
  | none => match rowsPoison s p.bAddr.toNat p.bStride.toNat (fmtRow e.fmtDy nc) e.count with
    | some c => some c
    | none => if e.mode = 0 then rowsPartial s out (4 * e.n) (4 * nc) mr else rowsPoison s out (4 * e.n) (4 * nc) mr

/-- Write a tile that has passed its check: stored or added, only within M × N, and its statistics (07 R212). -/
def writeTile (w : Who) (slot sh : Nat) (e : Factor) (t : Nat) (r : Res) (es : List ElemErr) (s : State) : State :=
  let (i, j) := tileAt sh e t
  let (mr, nc) := tileClip sh e t
  let rows := ((resRows s.free r es).take mr).map (·.take nc)
  let out := e.dw + 4 * (e.n * i + j)
  let u := e.engine
  let s := if e.mode = 0 then
      match fmtOf 1 with
      | some c =>
        let bs := outRows c rows
        let s := writeRows w out (4 * e.n) 0 (bs.map (·.1)) s
        event (event s u 0x1003 w.ctx ((bs.map (·.2.2.1)).foldl (· + ·) 0)) u 0x1004 w.ctx ((bs.map (·.2.2.2)).foldl (· + ·) 0)
      | none => s
    else (indexed 0 rows).foldl (fun s r => addGrad w (out + 4 * e.n * r.1) 0 r.2 s) s
  let all := rows.flatten
  let s := if slot = 0xFFFF then s else
    statApply s w slot { sumsq := some (sumSquares all), maxabs := some (maxAbs all, u), count := all.length }
  let s := event (count (count s u 0x18 1) u 0x20 e.count) u 0x1001 w.ctx e.count
  { s with free := s.free + 1 }

/-- Join what a tile counted to what the flush has counted. -/
def joinEnd (a b : End) : End :=
  { status := b.status, detail := b.detail, verdict := if b.verdict = 5 then 5 else max a.verdict b.verdict, origin := b.origin,
    checks := a.checks + b.checks, corrections := a.corrections + b.corrections, replays := a.replays + b.replays,
    record := a.record ++ b.record }

/-- What a tile comes to: written with its counts, ended, or waiting for a borrowed partition. -/
inductive TileRes where
  | written (s : State) (e : End)
  | ended (s : State) (e : End)
  | borrow (s : State) (stage : Nat)

/-- The replays of a tile that failed its check: on its own engine, then on a second, then the referee (05 R131-R133). `stage` 2
and 3 go on after a wait for a partition to borrow. -/
def tileReplay (j : Job) (slot sh : Nat) (e : Factor) (part t : Nat) (f : Faults) (stage : Nat) (s : State) : TileRes :=
  let u := e.engine
  let d := uDie u
  let c := j.ring / 256
  let (_, rr, cc) := shapeDims sh
  let r := tileRes s c sh e part t
  let ck := resChecks r rr cc
  let w : Who := { whoOf j with unit := u }
  let first := stage = 0 && !(health s u).quarantined
  let skipped := !first && f.errs1.isEmpty
  let take (s : State) (es : List ElemErr) (n v : Nat) (extra : List (Nat × Nat)) : TileRes :=
    .written (writeTile w slot sh e t r es s) (drainEnd v (n * ck) 0 1 extra)
  let s := if first then count s u 0x2C 1 else s
  if first && checkClean r rr cc f.errs1 then take (charge u 2 s) f.errs1 2 3 []
  else
    let s := if first then charge u 8 s else s
    match borrowFrom s sh (u :: j.faulted) (borrowOrder d) with
    | none => .borrow s 2
    | some b =>
      let s := if stage < 3 then count (checkEvent s d b 2 c) b 0x2C 1 else s
      let clean := checkClean r rr cc f.errs2
      if stage < 3 && clean && (skipped || agree r f.errs1 f.errs2) then take s f.errs2 3 3 []
      else
        let s := if stage < 3 && !clean then charge b 8 s else s
        match borrowFrom s sh (b :: u :: j.faulted) (borrowOrder d) with
        | none => .borrow s 3
        | some b2 =>
          let s := checkEvent s d b2 2 c
          if agree r f.errs2 f.errsRef then take (checkEvent s d b2 0 c) f.errs2 3 4 [(0x20, 1)]
          else if !skipped && agree r f.errs1 f.errsRef then
            take (checkEvent (charge b (if clean then 8 else 0) s) d b2 0 c) f.errs1 3 4 [(0x20, 1)]
          else .ended (checkEvent (charge b (if clean then 8 else 0) s) d b2 1 c) (checkFailed b2 (3 * ck) [(0x50, 3 * ck), (0x20, 1)])

/-- Run one tile (07 R212; 05 R125, R130, R131; 04 R119). -/
def runTile (j : Job) (slot sh : Nat) (e : Factor) (part t : Nat) (f : Faults) (stage : Nat) (s : State) : TileRes :=
  let u := e.engine
  let c := j.ring / 256
  let (_, rr, cc) := shapeDims sh
  match f.hit with
  | some hit =>
    let x := if uKind hit.toNat = 2 && fieldEngine hit.toNat = u then hit.toNat else u
    let s := count s u 0x30 1
    .ended (if x = u then s else setReady x false 10 (count s x 0x14 1)) (unitFault x)
  | none => match tilePoison s sh e t with
    | some ch => .ended s (fails MEMORY_POISONED ch)
    | none =>
      if stage != 0 then tileReplay j slot sh e part t f stage s
      else if 2 ≤ f.mismatch then .ended s (checkFailed u)
      else
        let s := if f.mismatch = 1 then charge u 1 s else s
        let r := tileRes s c sh e part t
        let ck := resChecks r rr cc
        let w : Who := { whoOf j with unit := u }
        if checkClean r rr cc f.errs then .written (writeTile w slot sh e t r f.errs s) (drainEnd 1 ck 0 0 [])
        else
          let s := event s u 0x1005 c 1
          match (correctable r rr cc f.errs).filter (fun x => checkClean r rr cc (without x.1 x.2 f.errs)) with
          | some (i, k) =>
            let fu := uid 2 (uDie u) (16 * uInst u + i / 64 * 4 + k / 64)
            let s := count (count (charge u 1 (count s u 0x28 1)) fu 0x18 1) fu 0x14 1
            .written (writeTile w slot sh e t r (without i k f.errs) s) (drainEnd 2 (ck + 2) 1 0 [])
          | none => tileReplay j slot sh e part t f 0 s

/-! ## The flush (07 R212, R213) -/

/-- Where a flush has come to: what it has counted, its state, the faults still to strike and the stage it resumes at. -/
structure FlushAt where
  s : State
  sofar : End
  f : Faults
  stage : Nat

/-- Write COUNT and TILE_NEXT of an entry. -/
def putEntry (w : Who) (table : Nat) (e : Factor) (cnt tile : Nat) (s : State) : State :=
  storeLazy s w (table + e.off + 0x30) (leBytes 4 cnt ++ leBytes 4 tile)

/-- Run an entry's tiles from one on; the partitions of PART_MASK take them in turn (07 R212). -/
def flushTiles (j : Job) (slot table sh : Nat) (e : Factor) (total : Nat) : Nat → Nat → FlushAt → FlushAt × Option (End ⊕ Phase)
  | 0, _, a => (a, none)
  | n + 1, t, a =>
    if total ≤ t then (a, none)
    else
      let ps := maskParts e
      let part := ps.getD ((t - e.tile) % ps.length) 0
      let stop (s : State) : State := putEntry (whoOf j) table e e.count t s
      match runTile j slot sh e part t a.f a.stage a.s with
      | .written s x => flushTiles j slot table sh e total n (t + 1) { s := s, sofar := joinEnd a.sofar x, f := {}, stage := 0 }
      | .ended s x => ({ a with s := stop s }, some (.inl (joinEnd a.sofar x)))
      | .borrow s st => ({ a with s := stop s }, some (.inr (.waitBorrow st)))

/-- Flush entries in table order; each that is whole has COUNT and TILE_NEXT set to 0 (07 R212). -/
def flushEntries (j : Job) (slot table : Nat) : List Factor → FlushAt → FlushAt × Option (End ⊕ Phase)
  | [], a => (a, none)
  | e :: es, a =>
    if e.count = 0 then flushEntries j slot table es a
    else
      let sh := shapeOf a.s e.engine
      let total := tileTotal sh e
      match flushTiles j slot table sh e total (total + 1) e.tile a with
      | (a, some x) => (a, some x)
      | (a, none) => flushEntries j slot table es { a with s := putEntry (whoOf j) table e 0 0 a.s }

/-- The entries a flush names, with their bytes (07 R212). -/
def flushNamed (p : PCbFactorFlush) (es : List (List Byte × Factor)) : List (List Byte × Factor) :=
  es.filter (fun e => e.2.layer == p.layer.toNat && (p.expert.toNat == 0xFFFFFFFF || e.2.expert == p.expert.toNat))

/-- CB_FACTOR_FLUSH (07 R212, R213), from its start or after a wait for a borrowed partition. -/
def runFlush (p : PCbFactorFlush) (f : Faults) (stage : Nat) (j : Job) (s : State) : RunRes :=
  let c := j.ring / 256
  let d := uDie j.unit
  let u := j.unit
  let table := factorTable s d c
  if table = 0 then ends s (fails BAD_STATE 0x20)
  else
    let n := readNat s u table 4
    let rs := ((List.range 60).find? (fun i => readNat s u (table + 4 + i) 1 != 0))
    match rangesStop s [(table, 64)] [] with
    | some x => (s, x)
    | none =>
      if n = 0 || 4096 < n then ends s (fails OUT_OF_RANGE 0x80000000)
      else match rs with
        | some i => ends s (fails OUT_OF_RANGE (0x80000004 + i))
        | none => match rangesStop s [(table, 64 * (n + 1))] [] with
          | some x => (s, x)
          | none =>
            let es := (List.range n).map (fun i => let b := readBytes s u (table + 64 * (i + 1)) 64; (b, readFactor (64 * (i + 1)) b))
            let named := flushNamed p es
            match (if stage = 0 then named.findSome? (fun e => factorStop s d c u e.1 e.2) else none) with
            | some e => ends s e
            | none =>
              let (a, x) := flushEntries j p.statSlot.toNat table (named.map (·.2)) ⟨s, j.sofar, f, stage⟩
              match x with
              | some (.inl e) => ends a.s e
              | some (.inr ph) => waits (modJob a.s j.id (fun k => { k with sofar := a.sofar })) ph
              | none => ends a.s { a.sofar with status := DONE }

/-- Run a flush when its turn comes; a die runs one at a time. -/
def flushRun (j : Job) (s : State) : RunRes :=
  match j.cmd with
  | .cbFactorFlush _ p f => runFlush p f 0 j s
  | _ => ends s (done 0)

/-- Let a die's flushes go on. -/
def pumpFlush (d : Nat) (s : State) : State := pumpUnit flushRun (uid 0 d 0) (s.gz.jobs.length + 1) s

/-- CB_FACTOR_FLUSH (02 R53). -/
def execCbFactorFlush (h : Hdr) (p : PCbFactorFlush) (f : Faults) (s : State) : Host.Outcome State Fault Refusal :=
  .next (settle (pumpFlush (homeOf h s) (arrive (preCbFactorFlush h p s) runInUnit (.cbFactorFlush h p f) s)))

/-- BORROW_PARTITION for a flush: the tile goes on where it waited; a borrowed partition that faults (the unit in `hit`) is
replaced, and a second fault during one referee ends the flush CHECK_FAILED (05 R133). -/
def borrowFlush (j : Job) (stage : Nat) (p : PCbFactorFlush) (f0 f : Faults) (s : State) : State :=
  let fl := joinFaults f0 f
  let d := uDie j.unit
  let s := if !fl.borrowFault then outcome j (runFlush p fl stage j s)
    else match f.hit with
      | none => s
      | some hit =>
        let b := if uKind hit.toNat = 2 then fieldEngine hit.toNat else hit.toNat
        let s := checkEvent s d b 2 (j.ring / 256)
        let s := borrowFaulted s j stage b f
        if stage = 3 && 1 ≤ j.refFaults then endJob (checkEvent s d b 1 (j.ring / 256)) j.id (checkFailed b) else s
  pumpFlush d s

/-- BORROW_PARTITION (05 R133): a waiting drain or flush takes the first qualifying partition. -/
def execBorrowPartition (id : Nat) (f : Faults) (s : State) : Host.Outcome State Fault Refusal :=
  .next (settle (match jobOf s id with
    | none => s
    | some j => match j.phase, j.cmd with
      | .waitBorrow stage, .mmDrain _ p f0 => borrowDrain j stage p f0 f s
      | .waitBorrow stage, .cbFactorFlush _ p f0 => borrowFlush j stage p f0 f s
      | _, _ => s))

end Sys2Proof.Machine
end

