-- ==== Sys2Proof/Machine/Versions.lean ====
section
/-! DEFINITION. Weight versions (07 R216-R221): VER_PUBLISH, VER_PIN and VER_RETIRE, and micro-batches in flight. -/

namespace Sys2Proof.Machine

/-- Key of a tensor's record: its context and TENSOR (07 R216). -/
def verKey (c tensor : Nat) : Nat := 2 ^ 32 * c + tensor

/-- A tensor's record. -/
def tensorOf (s : State) (c tensor : Nat) : TensorRec := amGet {} s.ver (verKey c tensor)

/-- Micro-batches in flight for a context: the distinct MICROBATCH values of its pins (07 R221). -/
def mbInFlight (s : State) (c : Nat) : Nat :=
  (distinct (s.ver.flatMap (fun t => t.2.live.flatMap (fun v => (v.pins.filter (fun p => p.1 == c)).map (·.2))))).length

/-- Raise a context's high-water marks (07 R221). -/
def noteInFlight (c : Nat) (s : State) : State :=
  let n := mbInFlight s c
  modCtx s c (fun x => { x with mbHwm := max x.mbHwm n, mbHwmRead := max x.mbHwmRead n })

/-- Whether the data of two versions overlap. -/
def dataOverlap (a n b m : Nat) : Bool := a < b + m && b < a + n

/-- Checks of VER_PUBLISH (02 R45 check 10, R63). It does not read the data, so its range needs no permission of its own. -/
def preVerPublish (h : Hdr) (p : PVerPublish) (s : State) : Pre :=
  { preCore h s with
    ranges := [(0x28, p.dataAddr.toNat, p.bytes.toNat, 0)]
    limits := [((ctxOf s h.ctx.toNat).cls != 2, NO_PERMISSION, 0)] }

/-- VER_PUBLISH (07 R217). -/
def runVerPublish (p : PVerPublish) (j : Job) (s : State) : RunRes :=
  let c := j.ring / 256
  let t := p.tensor.toNat
  let v := p.version.toNat
  let r := tensorOf s c t
  let a := p.dataAddr.toNat
  let n := p.bytes.toNat
  if v ≤ r.current then ends s (fails BAD_VERSION t)
  else if r.live.any (fun x => dataOverlap a n x.addr x.bytes) then ends s (fails OUT_OF_RANGE 0x28)
  else if 7 ≤ (r.live.filter (fun x => x.num != r.current)).length ||
      ((amFind s.ver (verKey c t)).isNone && 262144 ≤ s.ver.length) then ends s (fails BUSY_DEFER 1)
  else
    let gone := r.live.any (fun x => x.num == r.current && x.pins.isEmpty)
    let kept := if gone then r.live.filter (fun x => x.num != r.current) else r.live
    ends { s with ver := amPut s.ver (verKey c t) { current := v, live := kept ++ [⟨v, a, n, []⟩] } } (done (if gone then r.current else 0))

/-- VER_PUBLISH (02 R53). -/
def execVerPublish (h : Hdr) (p : PVerPublish) (s : State) : Host.Outcome State Fault Refusal :=
  .next (issue (preVerPublish h p s) (runVerPublish p) (.verPublish h p) s)

/-- VER_PIN (07 R218): VERSION 0 names the current version. -/
def runVerPin (p : PVer) (j : Job) (s : State) : RunRes :=
  let c := j.ring / 256
  let t := p.tensor.toNat
  let r := tensorOf s c t
  let v := if p.version = 0 then r.current else p.version.toNat
  let pin := (c, p.microbatch.toNat)
  match r.live.find? (fun x => x.num == v) with
  | none => ends s (fails BAD_VERSION t)
  | some x =>
    if x.pins.contains pin then ends s (done v)
    else if 64 ≤ x.pins.length then ends s (fails BUSY_DEFER 1)
    else
      let live := r.live.map (fun y => if y.num == v then { y with pins := y.pins ++ [pin] } else y)
      ends (noteInFlight c { s with ver := amPut s.ver (verKey c t) { r with live := live } }) (done v)

/-- VER_PIN (02 R53). -/
def execVerPin (h : Hdr) (p : PVer) (s : State) : Host.Outcome State Fault Refusal :=
  .next (issue (preCore h s) (runVerPin p) (.verPin h p) s)

/-- VER_RETIRE (07 R219): a retained version left with no pins is retired. -/
def runVerRetire (p : PVer) (j : Job) (s : State) : RunRes :=
  let c := j.ring / 256
  let t := p.tensor.toNat
  let r := tensorOf s c t
  let v := p.version.toNat
  let pin := (c, p.microbatch.toNat)
  if !r.live.any (fun x => x.num == v && x.pins.contains pin) then ends s (fails BAD_STATE 0x28)
  else
    let live := r.live.map (fun y => if y.num == v then { y with pins := y.pins.erase pin } else y)
    let gone := v != r.current && live.any (fun y => y.num == v && y.pins.isEmpty)
    let live := if gone then live.filter (fun y => y.num != v) else live
    ends { s with ver := amPut s.ver (verKey c t) { r with live := live } } (done (if gone then v else 0))

/-- VER_RETIRE (02 R53). -/
def execVerRetire (h : Hdr) (p : PVer) (s : State) : Host.Outcome State Fault Refusal :=
  .next (issue (preCore h s) (runVerRetire p) (.verRetire h p) s)

end Sys2Proof.Machine
end

