-- ==== Sys2Proof/Machine/Groups.lean ====
section
/-! DEFINITION. Groups (12 R325-R333; 06 R178-R182): heartbeats, the master, barriers, and directory updates. -/

namespace Sys2Proof.Machine

/-- Let every die's Confluence and Watershed go on. -/
def pumpDies (s : State) : State := (List.range 8).foldl (fun s d => pumpDie d s) s

/-! ## Peers and messages -/

/-- Positions of the group other than this device's. -/
def otherPos (s : State) : List Nat := (List.range (groupSize s)).filter (· != myPos s)

/-- Change a peer. -/
def modPeer (s : State) (pos : Nat) (f : Peer → Peer) : State :=
  { s with grp := { s.grp with peers := amMod {} s.grp.peers pos f } }

/-- Live peers (12 R328). -/
def livePeers (s : State) : List Nat := (otherPos s).filter (fun p => (peerOf s p).live)

/-- ELIGIBLE of this device (12 R325). -/
def eligible (s : State) : Bool := bit (item s mdBlock 0x70) 8

/-- Whether this device is the active master. -/
def isMaster (s : State) : Bool := s.grp.master = some (myPos s)

/-- A group message of this device (12 R327). -/
def groupMsg (s : State) (arg0 arg1 arg2 : Nat) : GroupMsg :=
  { srcPos := BitVec.ofNat 4 (myPos s), group := BitVec.ofNat 16 (myGroup s), term := BitVec.ofNat 32 s.grp.term,
    dirEpoch := BitVec.ofNat 32 s.dir.epoch, remapEpoch := BitVec.ofNat 32 (max s.grp.remapEpoch s.grp.remapSeen),
    arg0 := BitVec.ofNat 32 arg0, arg1 := BitVec.ofNat 32 arg1, arg2 := BitVec.ofNat 64 arg2 }

/-- Send a group message to a position. -/
def sendGroup (kind pos arg0 arg1 arg2 : Nat) (es : List DirEntry) (s : State) : State :=
  send s (.group kind (groupMsg s arg0 arg1 arg2) pos es)

/-- Send a group message to positions. -/
def sendGroups (kind : Nat) (ps : List Nat) (arg0 arg1 arg2 : Nat) (es : List DirEntry) (s : State) : State :=
  ps.foldl (fun s p => sendGroup kind p arg0 arg1 arg2 es s) s

/-- Whether a message comes from another position of this group. -/
def ofGroup (s : State) (m : GroupMsg) : Bool :=
  m.group.toNat = myGroup s && m.srcPos.toNat < groupSize s && m.srcPos.toNat != myPos s

/-- HEARTBEAT_SEND: to every up peer (12 R327). -/
def execHeartbeatSend (s : State) : Host.Outcome State Fault Refusal :=
  .next (settle (sendGroups 1 ((otherPos s).filter (fun p => reachable s (deviceOf s p)))
    (b2n (eligible s) + 16 * (s.grp.master.getD 0xF)) 0 s.grp.checkpoint [] s))

/-! ## Directory updates (06 R178-R181) -/

/-- Key of an entry (06 R179). -/
def keyOf (e : DirEntry) : Nat := dirKey e.layer.toNat e.index.toNat

/-- An entry from its 48 bytes (06 R178). -/
def readDirEntry (b : List Byte) : DirEntry :=
  { layer := BitVec.ofNat 16 (fld b 0 2), index := BitVec.ofNat 16 (fld b 2 2), type := BitVec.ofNat 8 (fld b 4 1)
    ownerPos := BitVec.ofNat 8 (fld b 5 1), ownerDie := BitVec.ofNat 8 (fld b 6 1), rsvd := BitVec.ofNat 8 (fld b 7 1)
    capacity := BitVec.ofNat 32 (fld b 8 4), version := BitVec.ofNat 32 (fld b 12 4), slotBase := BitVec.ofNat 64 (fld b 16 8)
    rowFirst := BitVec.ofNat 64 (fld b 24 8), arriveSig := BitVec.ofNat 64 (fld b 32 8), rowLimit := BitVec.ofNat 64 (fld b 40 8) }

/-- The ranges and alignments of an entry; of a removal the fields from OWNER_POS onward but RSVD are ignored (06 R178). -/
def entryOk (e : DirEntry) : Bool :=
  e.layer.toNat < 1024 && e.index.toNat < 8192 && e.type.toNat ≤ 2 && e.rsvd = 0 &&
  (e.type = 0 || (e.ownerPos.toNat < 16 && e.ownerDie.toNat < 8 && e.capacity.toNat < 1048576 && e.slotBase.toNat % 256 = 0)) &&
  (e.type != 1 || (e.arriveSig.toNat % 8 = 0 && e.rowFirst = 0 && e.rowLimit = 0))

/-- The directory with one entry changed. -/
def putEntryDir (m : AMap DirEntry) (e : DirEntry) : AMap DirEntry := if e.type = 0 then amDel m (keyOf e) else amPut m (keyOf e) e

/-- Whether the entries of a layer have one type, and its ranges are strictly increasing (06 R178). -/
def layerOk (es : List DirEntry) : Bool :=
  match es with
  | [] => true
  | e :: _ => es.all (fun x => x.type == e.type) &&
      (e.type != 2 || (es.zip es.tail).all (fun p => p.1.rowFirst.toNat < p.2.rowFirst.toNat))

/-- The position of the first entry that an update is rejected for (06 R178). -/
def updateBad (s : State) (es : List DirEntry) : Option Nat :=
  let ies := indexed 0 es
  match ies.find? (fun e => !entryOk e.2) with
  | some x => some x.1
  | none =>
    let final := es.foldl putEntryDir s.dir.entries
    let layer (l : Nat) : List DirEntry := (final.filter (fun e => e.1 / 65536 == l)).map (·.2)
    match ies.find? (fun e => !layerOk (layer e.2.layer.toNat)) with
    | some x => some x.1
    | none => if final.length ≤ 262144 then none else
        (ies.find? (fun e => 262144 < ((es.take (e.1 + 1)).foldl putEntryDir s.dir.entries).length)).map (·.1)

/-- The fields of an entry with their offsets (06 R178). -/
def entryFields (e : Option DirEntry) : List (Nat × Nat) :=
  match e with
  | none => [4, 5, 6, 8, 0xC, 0x10, 0x18, 0x20, 0x28].map (fun o => (o, 0))
  | some e => [(4, e.type.toNat), (5, e.ownerPos.toNat), (6, e.ownerDie.toNat), (8, e.capacity.toNat), (0xC, e.version.toNat),
      (0x10, e.slotBase.toNat), (0x18, e.rowFirst.toNat), (0x20, e.arriveSig.toNat), (0x28, e.rowLimit.toNat)]

/-- Apply one entry of a committed update: it is moved when it is new or its place changes, and each changed field is ledgered
(06 R179, R181). -/
def applyEntry (epoch : Nat) (e : DirEntry) (s : State) : State :=
  let k := keyOf e
  let old := amFind s.dir.entries k
  let new := if e.type = 0 then none else some e
  let moves := new.isSome && (match old with
    | none => true
    | some o => o.ownerPos != e.ownerPos || o.ownerDie != e.ownerDie || o.slotBase != e.slotBase)
  let s := { s with dir := { s.dir with
    entries := putEntryDir s.dir.entries e, moved := if moves then amPut s.dir.moved k epoch else s.dir.moved } }
  ((entryFields old).zip (entryFields new)).foldl (fun s p =>
    if p.1.2 = p.2.2 then s else ledger 12 (0x2000 + masterField s) 0xA k p.1.1 0 p.1.2 p.2.2 epoch s) s

/-- Commit the staged entries under an epoch (06 R179). -/
def commitStaged (epoch : Nat) (s : State) : State :=
  match s.dir.staged with
  | none => s
  | some st =>
    let s := { s with dir := { s.dir with staged := none } }
    let s := st.entries.foldl (fun s e => applyEntry epoch e s) s
    pumpDies { s with dir := { s.dir with epoch := epoch } }

/-- Discard the staged entries: routing of their layers resumes (06 R179). -/
def dropStaged (s : State) : State :=
  if s.dir.staged.isSome then pumpDies { s with dir := { s.dir with staged := none } } else s

/-- Whether a round of a layer that an update names is open here, as source or as owner (06 R179). -/
def roundOpen (s : State) (es : List DirEntry) : Bool :=
  let hit (l : Nat) : Bool := es.any (fun e => e.layer.toNat == l)
  (List.range 8).any (fun d =>
    (wsOf s d).rounds.any (fun r => hit r.layer) ||
    (wsOf s d).owned.any (fun t => !t.cancelled && t.refused.isNone && !ownDone s d t && t.msgs.any (fun m => hit m.layer.toNat)))

/-- The master begins an update: its members stage the entries (06 R179). -/
def sendPrepare (id : Nat) (es : List DirEntry) (s : State) : State :=
  let s := { s with dir := { s.dir with staged := some ⟨es, s.dir.epoch + 1, false⟩, acks := [], job := some id } }
  sendGroups 6 (livePeers s) es.length 0 0 es s

/-- The entries a GRP_DIRECTORY_UPDATE names. -/
def updateEntries (s : State) (u : Nat) (p : PGrpDirUpdate) : List DirEntry :=
  (List.range p.count.toNat).map (fun i => readDirEntry (readBytes s u (p.entriesAddr.toNat + 48 * i) 48))

/-- End an update on the master and begin the next that waits (06 R179; DEDUCED, log entry 51). -/
def nextUpdate : Nat → State → State
  | 0, s => s
  | n + 1, s =>
    if s.dir.job.isSome || s.dir.staged.isSome then s
    else match s.gz.jobs.find? (fun j => j.phase == .dirUpdate) with
      | none => s
      | some j => match j.cmd with
        | .grpDirectoryUpdate _ p =>
          let es := updateEntries s j.unit p
          match updateBad s es with
          | some i => nextUpdate n (endJob s j.id (fails OUT_OF_RANGE (0x80000000 + 48 * i)))
          | none => sendPrepare j.id es s
        | _ => s

/-- End the open update's command and let the next begin. -/
def closeUpdate (e : End) (s : State) : State :=
  match s.dir.job with
  | none => s
  | some id =>
    let s := endJob { s with dir := { s.dir with job := none, acks := [] } } id e
    nextUpdate (s.gz.jobs.length + 1) s

/-- The master commits when every live member, itself among them, has acknowledged (06 R179). -/
def tryCommit (s : State) : State :=
  match s.dir.job, s.dir.staged with
  | some _, some st =>
    if st.acked && (livePeers s).all (fun p => s.dir.acks.contains p) then
      closeUpdate (done 0) (commitStaged st.epoch (sendGroups 8 (livePeers s) st.epoch 0 0 [] s))
    else s
  | _, _ => s

/-- Acknowledge the staged update once no round of an affected layer is open (06 R179). -/
def tryAck (s : State) : State :=
  match s.dir.staged with
  | none => s
  | some st =>
    if st.acked || roundOpen s st.entries then s
    else
      let s := { s with dir := { s.dir with staged := some { st with acked := true } } }
      match s.grp.master with
      | some p => if p = myPos s then tryCommit s else sendGroup 7 p st.epoch 0 0 [] s
      | none => s

/-- The master gives up the open update: members discard it (06 R179). -/
def abortUpdate (e : End) (s : State) : State :=
  match s.dir.job with
  | none => s
  | some _ => closeUpdate e (dropStaged (sendGroups 9 (livePeers s) (s.dir.epoch + 1) 0 0 [] s))

/-- Checks of GRP_DIRECTORY_UPDATE (02 R54, R63). -/
def preGrpDirectoryUpdate (h : Hdr) (p : PGrpDirUpdate) (s : State) : Pre :=
  { preCore h s with
    fields := [(0x28, 1 ≤ p.count.toNat && p.count.toNat ≤ 262144)]
    ranges := [(0x20, p.entriesAddr.toNat, 48 * p.count.toNat, pRead)]
    limits := [((ctxOf s h.ctx.toNat).cls != 2, NO_PERMISSION, 0)] }

/-- GRP_DIRECTORY_UPDATE on the active master: its entries are checked, a rejected update is ledgered as a refused call, and its
orders join their windows (02 R57, R64; 06 R178, R182; 13 R339). -/
def runGrpDirectoryUpdate (p : PGrpDirUpdate) (j : Job) (s : State) : RunRes :=
  if !isMaster s then ends s (fails NO_PERMISSION (masterField s))
  else match rangesStop s [(p.entriesAddr.toNat, 48 * p.count.toNat)] [] with
    | some x => (s, x)
    | none =>
      let es := updateEntries s j.unit p
      match updateBad s es with
      | some i =>
        let e := fails OUT_OF_RANGE (0x80000000 + 48 * i)
        let d := (ringOf s j.ring).home
        ends (callRefused 12 j.origin (((es[i]?).map keyOf).getD 0) 0 (j.ring / 256) e (gateCount d false (count s (uid 4 d 0) 0x28 1))) e
      | none =>
        let last := es.foldl (fun m e => amPut m (keyOf e) e) ([] : AMap DirEntry)
        joinAll (last.map (fun e => (.dirKey (BitVec.ofNat 32 e.1), 0x0A01, leNat (dirEntryBytes e.2)))) j s

/-- GRP_DIRECTORY_UPDATE (02 R53). -/
def execGrpDirectoryUpdate (h : Hdr) (p : PGrpDirUpdate) (s : State) : Host.Outcome State Fault Refusal :=
  .next (issue (preGrpDirectoryUpdate h p s) (runGrpDirectoryUpdate p) (.grpDirectoryUpdate h p) s)

/-! ## Barriers (12 R332, R333) -/

/-- BARRIER_ID and MEMBERS of a GRP_BARRIER. -/
def barrierCmd (j : Job) : Option (Nat × Nat) :=
  match j.cmd, j.phase with
  | .grpBarrier _ p, .barrier => some (p.barrierId.toNat, p.members.toNat)
  | _, _ => none

/-- The commands of this device that wait at a barrier, oldest first. -/
def barrierJobs (s : State) (id : Nat) : List Job := s.gz.jobs.filter (fun j => (barrierCmd j).any (fun b => b.1 == id))

/-- This device's command at a barrier is released: DONE where its MEMBERS are those released, else BAD_STATE (12 R332,
R333). -/
def freeBarrier (id members : Nat) (s : State) : State :=
  match barrierJobs s id with
  | [] => s
  | j :: _ => endJob s j.id (if barrierCmd j == some (id, members) then done 0 else fails BAD_STATE 0x24)

/-- Positions of a mask. -/
def maskPos (m : Nat) : List Nat := (List.range 16).filter (bit m)

/-- The master tells positions that a barrier is released with MEMBERS, or closed with 0 because they disagree (12 R332, R333;
DEDUCED, log entry 52). -/
def tellRelease (id members inst : Nat) (ps : List Nat) (s : State) : State :=
  ps.foldl (fun s p => if p = myPos s then freeBarrier id members s else sendGroup 5 p id members inst [] s) s

/-- Take a barrier off the master's list. -/
def dropBarrier (id : Nat) (s : State) : State :=
  { s with grp := { s.grp with barriers := s.grp.barriers.filter (fun b => b.id != id) } }

/-- One arrival at the master (12 R332, R333). -/
def arriveAt (pos id members : Nat) (s : State) : State :=
  match s.grp.barriers.find? (fun b => b.id == id) with
  | some b =>
    if b.members != members then
      tellRelease id 0 0 (maskPos (b.members ||| members)) (dropBarrier id s)
    else
      let b := { b with arrived := if b.arrived.contains pos then b.arrived else b.arrived ++ [pos] }
      if (maskPos members).all (fun p => b.arrived.contains p) then
        let n := amGet 0 s.grp.instances id
        let s := dropBarrier id s
        tellRelease id members n (maskPos members) { s with grp := { s.grp with instances := amPut s.grp.instances id (n + 1) } }
      else { s with grp := { s.grp with barriers := s.grp.barriers.map (fun x => if x.id == id then b else x) } }
  | none =>
    if 64 ≤ s.grp.barriers.length then
      { s with grp := { s.grp with waiting := s.grp.waiting.filter (· != (pos, id, members)) ++ [(pos, id, members)] } }
    else if (maskPos members).all (fun p => p == pos) then
      let n := amGet 0 s.grp.instances id
      tellRelease id members n (maskPos members) { s with grp := { s.grp with instances := amPut s.grp.instances id (n + 1) } }
    else { s with grp := { s.grp with barriers := s.grp.barriers ++ [⟨id, members, [pos]⟩] } }

/-- Arrivals that wait take the room that has come free (12 R332). -/
def admitWaiting : Nat → State → State
  | 0, s => s
  | n + 1, s => match s.grp.waiting with
    | [] => s
    | w :: ws =>
      if 64 ≤ s.grp.barriers.length && !s.grp.barriers.any (fun b => b.id == w.2.1) then s
      else admitWaiting n (arriveAt w.1 w.2.1 w.2.2 { s with grp := { s.grp with waiting := ws } })

/-- An arrival at the master, and what room it makes. -/
def arriveMaster (pos id members : Nat) (s : State) : State :=
  let s := arriveAt pos id members s
  admitWaiting (s.grp.waiting.length + 1) s

/-- A member's command sends its arrival to the active master, once it is the oldest of its BARRIER_ID here (12 R332). -/
def sendArrival (j : Job) (s : State) : State :=
  match barrierCmd j, s.grp.master with
  | some (id, members), some p =>
    if ((barrierJobs s id).head?.map (·.id)) != some j.id then s
    else if p = myPos s then arriveMaster p id members s
    else sendGroup 4 p id members 0 [] s
  | _, _ => s

/-- Release a barrier here; the next command of its BARRIER_ID then sends its arrival. -/
def releaseHere (id members : Nat) (s : State) : State :=
  let s := freeBarrier id members s
  match barrierJobs s id with
  | [] => s
  | j :: _ => sendArrival j s

/-- Every open arrival of this device goes to the master (12 R330). -/
def resendArrivals (s : State) : State := s.gz.jobs.foldl (fun s j => sendArrival j s) s

/-- Checks of GRP_BARRIER (02 R54; 12 R332). -/
def preGrpBarrier (h : Hdr) (p : PGrpBarrier) (s : State) : Pre :=
  { preCore h s with fields := [(0x24, bit p.members.toNat (myPos s) && p.members.toNat < 2 ^ groupSize s)] }

/-- GRP_BARRIER waits for its release; a member that is lost ends it (12 R328, R332). -/
def runGrpBarrier (p : PGrpBarrier) (_j : Job) (s : State) : RunRes :=
  match (maskPos p.members.toNat).find? (fun m => m != myPos s && (peerOf s m).lost) with
  | some m => ends s (fails PEER_LOST m)
  | none => waits s .barrier

/-- After a GRP_BARRIER has come into its phase, its arrival is sent. -/
def sendNewArrival (n : Nat) (s : State) : State :=
  match s.gz.jobs.find? (fun j => n ≤ j.id && (barrierCmd j).isSome) with
  | some j => sendArrival j s
  | none => s

/-- GRP_BARRIER (02 R53). -/
def execGrpBarrier (h : Hdr) (p : PGrpBarrier) (s : State) : Host.Outcome State Fault Refusal :=
  .next (settle (sendNewArrival s.gz.nextJob (arrive (preGrpBarrier h p s) (runGrpBarrier p) (.grpBarrier h p) s)))

/-- BARRIER_ARRIVE: the master records a member's arrival (12 R332). -/
def execBarrierArrive (m : GroupMsg) (s : State) : Host.Outcome State Fault Refusal :=
  .next (settle (if ofGroup s m && isMaster s then arriveMaster m.srcPos.toNat m.arg0.toNat m.arg1.toNat s else s))

/-- BARRIER_RELEASE from the active master (12 R332). -/
def execBarrierRelease (m : GroupMsg) (s : State) : Host.Outcome State Fault Refusal :=
  .next (settle (if ofGroup s m && s.grp.master = some m.srcPos.toNat then releaseHere m.arg0.toNat m.arg1.toNat s else s))

/-! ## The master (12 R329-R331) -/

/-- A change of master: ledgered with class 0x2; a device that is no longer master lets its barriers and its update go
(12 R329). -/
def setMaster (m : Option Nat) (s : State) : State :=
  if s.grp.master = m then s
  else
    let old := s.grp.master
    let was := isMaster s
    let s := { s with grp := { s.grp with master := m } }
    let s := ledger 12 (0x2000 + m.getD 0xFFF) 0xA ((m.orElse (fun _ => old)).getD 0xFFF) 0 0 (old.getD 0xFFF) (m.getD 0xFFF) s.grp.term s
    if !was then s
    else
      let s := { s with grp := { s.grp with barriers := [], waiting := [] } }
      let s := closeUpdate (fails NO_PERMISSION (masterField s)) (dropStaged s)
      { s with gz := { s.gz with jobs := s.gz.jobs.map (fun j =>
          if j.phase == .dirUpdate then { j with phase := .ending (fails NO_PERMISSION (masterField s)) } else j) } }

/-- A group message is heard: the highest term is adopted, a master that hears a higher one steps down, and epoch numbers are
noted (12 R327, R329, R330). -/
def hear (m : GroupMsg) (s : State) : State :=
  let s := { s with grp := { s.grp with remapSeen := max s.grp.remapSeen m.remapEpoch.toNat } }
  let s := modPeer s m.srcPos.toNat (fun p => { p with dirEpoch := m.dirEpoch.toNat })
  if s.grp.term < m.term.toNat then
    let s := { s with grp := { s.grp with term := m.term.toNat } }
    if isMaster s then setMaster none s else s
  else s

/-- HEARTBEAT (12 R327, R328): its sender is live, what it says is noted, and a device that knows no master follows one that
says it is. -/
def execHeartbeat (m : GroupMsg) (s : State) : Host.Outcome State Fault Refusal :=
  let pos := m.srcPos.toNat
  .next (settle (
    if !ofGroup s m || !reachable s (deviceOf s pos) then s
    else
      let s := hear m s
      let a := m.arg0.toNat
      let s := modPeer s pos (fun p => { p with
        live := true, lost := false, eligible := bit a 0, liveSince := if p.live then p.liveSince else s.now, masterSeen := bits a 4 4 })
      let s := { s with grp := { s.grp with checkpoint := max s.grp.checkpoint m.arg2.toNat } }
      if s.grp.master.isNone && bits a 4 4 = pos && m.term.toNat = s.grp.term then resendArrivals (setMaster (some pos) s) else s))

/-- The conditions to claim the master role, leaving one position out of the live ones (12 R329). -/
def mayClaim (s : State) (without : Option Nat) : Bool :=
  let live := (livePeers s).filter (fun p => some p != without)
  let lowest := ((List.range (groupSize s)).find? (fun p => if p = myPos s then eligible s else (peerOf s p).eligible)).getD 16
  let n := live.length + 1
  eligible s && live.all (fun p => !(peerOf s p).eligible || myPos s < p) &&
    (groupSize s < 2 * n || (2 * n = groupSize s && (lowest = myPos s || live.contains lowest)))

/-- The live-position mask of this device. -/
def liveMask (s : State) : Nat := ((myPos s :: livePeers s).map (fun p => 2 ^ p)).foldl (· + ·) 0

/-- A member that is behind is sent the committed entries (12 R330). -/
def catchUp (pos : Nat) (s : State) : State :=
  if (peerOf s pos).dirEpoch < s.dir.epoch then
    let es := s.dir.entries.map (·.2)
    sendGroup 8 pos s.dir.epoch 0 0 [] (sendGroup 6 pos es.length 0 0 es s)
  else s

/-- Claim the master role at the next term and take over its duties (12 R329, R330). -/
def claimRole (s : State) : State :=
  let s := { s with grp := { s.grp with term := (s.grp.term + 1) % 2 ^ 32 } }
  let s := dropStaged (setMaster (some (myPos s)) s)
  let s := { s with dir := { s.dir with epoch := (livePeers s).foldl (fun e p => max e (peerOf s p).dirEpoch) s.dir.epoch } }
  let s := sendGroups 2 ((otherPos s).filter (fun p => reachable s (deviceOf s p))) (liveMask s) 0 0 [] s
  resendArrivals ((livePeers s).foldl (fun s p => catchUp p s) s)

/-- MASTER_CLAIM: without a master, an eligible device with a quorum claims, 100 ms after its first port came up or once every
peer is live (12 R329). -/
def execMasterClaim (s : State) : Host.Outcome State Fault Refusal :=
  let due := (livePeers s).length + 1 = groupSize s || s.grp.firstUp.any (fun t => t + 100000000 ≤ s.now)
  .next (settle (if s.grp.master.isNone && due && mayClaim s none then claimRole s else s))

/-- STANDBY_CLAIM: the standby has heard nothing from the master for 50 ms (12 R330). -/
def execStandbyClaim (s : State) : Host.Outcome State Fault Refusal :=
  .next (settle (if !isMaster s && mayClaim s s.grp.master then claimRole s else s))

/-- CLAIM: a claimant of a higher term, or of an equal term from a lower position, is followed (12 R329, R330). -/
def execClaim (m : GroupMsg) (s : State) : Host.Outcome State Fault Refusal :=
  let pos := m.srcPos.toNat
  .next (settle (
    if !ofGroup s m then s
    else
      let follows := s.grp.term < m.term.toNat ||
        (s.grp.term = m.term.toNat && (match s.grp.master with | some p => decide (pos < p) | none => true))
      let s := hear m s
      if follows then resendArrivals (setMaster (some pos) s) else s))

/-- Whether the active master may hand its role to a position (12 R331). -/
def mayHandOver (s : State) (pos : Nat) : Bool :=
  let p := peerOf s pos
  isMaster s && pos < myPos s && p.live && p.eligible && p.liveSince + 10000000000 ≤ s.now && p.dirEpoch = s.dir.epoch &&
    s.dir.job.isNone && s.dir.staged.isNone

/-- HANDOVER: the master sends it to a successor, or a successor that receives it claims (12 R331). -/
def execHandover (m : Option GroupMsg) (successor : BitVec 4) (s : State) : Host.Outcome State Fault Refusal :=
  .next (settle (match m with
    | none => if mayHandOver s successor.toNat then sendGroup 3 successor.toNat successor.toNat 0 0 [] s else s
    | some m =>
      if !ofGroup s m then s
      else
        let s := hear m s
        if s.grp.master = some m.srcPos.toNat && m.arg0.toNat = myPos s && eligible s then claimRole s else s))

/-! ## Directory messages (06 R179) -/

/-- Whether a message comes from the active master. -/
def fromMaster (s : State) (m : GroupMsg) : Bool := ofGroup s m && s.grp.master = some m.srcPos.toNat

/-- DIR_PREPARE: the entries are staged under the epoch after the master's, and acknowledged once no round of their layers is
open (06 R179). -/
def execDirPrepare (m : GroupMsg) (entries : List DirEntry) (s : State) : Host.Outcome State Fault Refusal :=
  .next (settle (
    if fromMaster s m && m.arg0.toNat = entries.length then
      let s := hear m s
      tryAck { s with dir := { s.dir with staged := some ⟨entries, m.dirEpoch.toNat + 1, false⟩ } }
    else s))

/-- DIR_ACK: a member has acknowledged the open update (06 R179). -/
def execDirAck (m : GroupMsg) (s : State) : Host.Outcome State Fault Refusal :=
  .next (settle (
    if ofGroup s m && isMaster s && s.dir.job.isSome && s.dir.staged.any (fun st => st.epoch == m.arg0.toNat) then
      tryCommit (tryAck { s with dir := { s.dir with acks := s.dir.acks.filter (· != m.srcPos.toNat) ++ [m.srcPos.toNat] } })
    else s))

/-- DIR_COMMIT: the staged entries and the new epoch take effect (06 R179). -/
def execDirCommit (m : GroupMsg) (s : State) : Host.Outcome State Fault Refusal :=
  .next (settle (if fromMaster s m then commitStaged m.arg0.toNat (hear m s) else s))

/-- DIR_ABORT: the staged entries are discarded (06 R179). -/
def execDirAbort (m : GroupMsg) (s : State) : Host.Outcome State Fault Refusal :=
  .next (settle (if fromMaster s m then dropStaged (hear m s) else s))

/-- DIR_PREPARE_EXPIRY: the bound of the open update has expired, and it ends TIMEOUT (06 R179, 02 R58). -/
def execDirPrepareExpiry (s : State) : Host.Outcome State Fault Refusal :=
  .next (settle (abortUpdate (fails TIMEOUT 0) s))

/-- DIR_STAGE_DISCARD: 50 ms after the master falls silent a member discards what it has staged (12 R330). -/
def execDirStageDiscard (s : State) : Host.Outcome State Fault Refusal :=
  .next (settle (if isMaster s then s else dropStaged s))

/-! ## Losing a peer (12 R321, R328, R333) -/

/-- End the RT_COUNTs that wait for quotas of a position's owners (06 R161). -/
def loseCounts (pos : Nat) (e : End) (s : State) : State :=
  (List.range 8).foldl (fun s d => (wsOf s d).rounds.foldl (fun s r =>
    match r.countJob with
    | some id => if r.awaiting.any (fun o => o / 8 == pos) then endJob (uncount s d r.tag) id e else s
    | none => s) s) s

/-- Whether rows of a tag that went to a position are among a list. -/
def wentTo (t : TagRec) (pos : Nat) (l : List (Nat × Nat × Bool)) : List (Nat × Nat × Bool) :=
  l.filter (fun k => t.rowsTo.any (fun x => x.1 == k && x.2 / 8 == pos))

/-- End a command bound to a claim: its claim closes as at its TIMEOUT, and it ends as given (07 R198; 12 R328). -/
def loseClaim (d : Nat) (c : Claim) (e : End) (s : State) : State :=
  match c.job.bind (jobOf s) with
  | none => s
  | some j =>
    let (s, x) := combineEnd d j c s
    endJob s j.id { e with drops := x.drops, checks := x.checks, record := x.record }

/-- End the commands bound to claims that wait for contributions from a position. -/
def loseClaims (pos : Nat) (e : End) (s : State) : State :=
  (List.range 8).foldl (fun s d => (cfOf s d).claims.foldl (fun s c =>
    match tagOf s d c.tag with
    | some t => if (wentTo t pos (t.outstanding.filter (fun k => k.2.2 == c.grad))).isEmpty then s else loseClaim d c e s
    | none => s) s) s

/-- End the commands that wait for rows to land at a position, or for its cancelled slots (06 R169; 07 R202; 12 R328). -/
def loseRows (pos : Nat) (e : End) (s : State) : State :=
  (List.range 8).foldl (fun s d => (wsOf s d).tags.foldl (fun s t =>
    let s := match t.landJob.bind (jobOf s) with
      | some j => if (wentTo t pos t.unlanded).isEmpty then s else landStop d t.tag j e s
      | none => s
    match t.cancelJob with
    | some id =>
      if (wentTo t pos t.outstanding).isEmpty then s else endJob (modTag s d t.tag (fun t => { t with cancelJob := none })) id e
    | none => s) s) s

/-- End the open chains with a neighbour on a device (11 R305). -/
def loseChains (dev : Nat) (e : End) (s : State) : State :=
  (List.range 8).foldl (fun s d =>
    let s := (chainsOf s d).foldl (fun s c =>
      let near (i : Nat) : Bool := (c.members[i]?).any (fun m => m.1 == dev)
      let p := c.cmd.position.toNat
      if !c.ended && (near (p + 1) || (p != 0 && near (p - 1))) then closeChain d c.job e s else s) s
    pumpChains d s.gz.jobs s) s

/-- End the barrier commands that a position is a member of (12 R333). -/
def loseBarriers (pos : Nat) (e : End) (s : State) : State :=
  let s := { s with grp := { s.grp with
    barriers := s.grp.barriers.filter (fun b => !bit b.members pos), waiting := s.grp.waiting.filter (fun w => !bit w.2.2 pos) } }
  let s := s.gz.jobs.foldl (fun s j => match barrierCmd j with
    | some (_, m) => if bit m pos then endJob s j.id e else s
    | none => s) s
  admitWaiting (s.grp.waiting.length + 1) s

/-- PEER_LOSS_TIMER: a peer unheard for 50 ms is lost; the commands that wait on it end PEER_LOST (12 R328, R333). -/
def execPeerLossTimer (pos : BitVec 4) (s : State) : Host.Outcome State Fault Refusal :=
  let p := pos.toNat
  .next (settle (
    if !(peerOf s p).live then s
    else
      let s := modPeer s p (fun x => { x with live := false, lost := true })
      let s := ledger 12 (hwOrigin 12) 0xA p 0 0 1 0 s.grp.term s
      let s := if s.grp.master = some p then setMaster none s else s
      let e := fails PEER_LOST p
      let s := loseBarriers p e (loseChains (deviceOf s p) e (loseRows p e (loseClaims p e (loseCounts p e s))))
      pumpDies (tryCommit s)))

end Sys2Proof.Machine
end

