-- ==== Sys2Proof/Machine/Links.lean ====
section
/-! DEFINITION. Pass ports (12 R307-R321, R326): their states, frames, verdicts and replay, and what is lost with a port; and
ingest (12 R322-R324). -/

namespace Sys2Proof.Machine

/-! ## Losing a port (12 R321) -/

/-- The slots of a die's tag that a lost connector carried are confirmed as lost (12 R321; 07 R202). -/
def loseTagRows (u pos d : Nat) (t : TagRec) (s : State) : State :=
  let keys := wentTo t pos (t.unlanded ++ t.outstanding.filter (fun k => !t.unlanded.contains k))
  let s := keys.foldl (fun s k =>
    let m : Confirm := { ctx := BitVec.ofNat 8 t.ctx, tag := BitVec.ofNat 24 t.tag, grad := k.2.2, token := BitVec.ofNat 16 k.1,
                         rank := BitVec.ofNat 3 k.2.1, ans := .lostByLink (BitVec.ofNat 32 u) }
    match tagOf s d t.tag with
    | some t => takeConfirm d m t (count s (exchangeEngine u d) 0x28 1)
    | none => s) s
  if keys.isEmpty then s else tryCancelEnd d t.tag s

/-- A device can no longer be reached: what waits on it ends LINK_LOST with the port (12 R321). -/
def loseDevice (u dev : Nat) (s : State) : State :=
  let e := fails LINK_LOST u
  let s := loseChains dev e s
  if !inGroup s dev then s
  else
    let pos := dev % 16
    let s := loseClaims pos e (loseCounts pos e s)
    (List.range 8).foldl (fun s d => (wsOf s d).tags.foldl (fun s t => loseTagRows u pos d t s) s) s

/-- A message that no port can carry is lost; the command whose message it was ends LINK_LOST (12 R321). -/
def loseMsg (u : Nat) (m : NetMsg) (s : State) : State :=
  let s := receive s m
  let e := fails LINK_LOST u
  match m with
  | .group 4 g _ _ => (barrierJobs s g.arg0.toNat).foldl (fun s j => endJob s j.id e) s
  | .group 6 _ _ _ => abortUpdate e s
  | _ => s

/-- Send a port's messages whole over another port of its set, or lose them (12 R321). -/
def moveMsgs (u : Nat) : List OutMsg → State → State
  | [], s => s
  | m :: ms, s =>
    let s := match pickPort s (bits m.route 29 3) (bits m.route 13 3) (bits m.route 0 13) with
      | some v => enqueue v m.vc m.route m.bytes m.what s
      | none => loseMsg u m.what s
    moveMsgs u ms s

/-- The other devices that open chains have neighbours on. -/
def chainDevices (s : State) : List Nat := (s.chains.flatMap (fun c => c.2.flatMap (fun x => x.members.map (·.1)))).eraseDups

/-- A Pass port has left state up (12 R321). -/
def portLeft (u : Nat) (s : State) : State :=
  let p := portOf s u
  let s := modPort s u (fun p => { p with msgs := [], queue := [], unacked := [], gather := [] })
  let s := moveMsgs u p.msgs s
  let gone := if portRole s u = 1 then (chainDevices s).filter (fun d => !inGroup s d) else [peerDevice p]
  pumpDies ((gone.filter (fun d => !reachable s d)).foldl (fun s d => loseDevice u d s) s)

/-! ## States (12 R318) -/

/-- A port comes up: its counts begin anew (12 R314, R316; DEDUCED, log entry 50). -/
def linkUp (u : Nat) (s : State) : State :=
  let s := modPort s u (fun p => { p with
    fseqTx := 0, msgs := [], queue := [], unacked := [], fseqRx := 0, nak := false, accepted := false
    credits := [64, 512, 512, 64], seenCredits := [0, 0, 0, 0], freed := [0, 0, 0, 0]
    slowRun := 7, exchRun := 0, crcRun := 0, misses := [], gather := [] })
  if s.grp.firstUp.isNone then { s with grp := { s.grp with firstUp := some s.now } } else s

/-- A port enters a state: readiness follows, degraded, failed and held are ledgered, and its traffic moves when it leaves up
(12 R318, R321; 14 R372). -/
def setPort (u st : Nat) (s : State) : State :=
  let p := portOf s u
  if p.state = st then s
  else
    let s := modPort s u (fun p => { p with
      state := st, attempts := 0, retraining := false, trained := false, partner := if st ≤ 1 || st = 7 then none else p.partner })
    let s := if p.state = 2 || st = 2 then modDie s (uDie u) (fun d => { d with generation := d.generation + 1 }) else s
    let s := if st = 3 || st = 5 || st = 6 then
        ledger (uDie u) (hwOrigin (uDie u)) 9 u st 0 p.state st (peerDevice p) s else s
    let s := if st = 3 then count s u 0x50 1 else s
    if st = 2 then linkUp u s
    else if p.state = 2 then
      let s := modPort s u (fun q => { q with partner := p.partner })
      modPort (portLeft u s) u (fun q => { q with partner := if st ≤ 1 || st = 7 then none else p.partner })
    else s

/-- A port stops Pass traffic for a write of its configuration, and trains again: off in MODE 2, else down (12 R309, R318). -/
def portReset (u : Nat) (s : State) : State := setPort u (if portMode s u = 2 then 7 else 0) s

/-- Whether a partner may come up on a port (12 R326). -/
def identityOk (s : State) (u : Nat) (m : LinkMgmt) : Bool :=
  if portRole s u = 1 then m.isSwitch
  else
    let dev := m.device.toNat
    !m.isSwitch && m.role.toNat = 0 && inGroup s dev && m.size.toNat = groupSize s && dev % 16 != myPos s &&
      allPorts.all (fun v => v = u || !carries s v || portRole s v != 0 ||
        ((connectorPorts u).contains v == (peerDevice (portOf s v) == dev)))

/-- A trained port whose partner is known comes up, or is held (12 R319, R326). -/
def settlePort (u : Nat) (s : State) : State :=
  match (portOf s u).partner with
  | none => s
  | some m => setPort u (if identityOk s u m && (portOf s u).delayNs ≤ 26 then 2 else 6) s

/-- PARTNER_DETECT: a port in state down finds a signal and trains (12 R318). -/
def execPartnerDetect (port : Word32) (s : State) : Host.Outcome State Fault Refusal :=
  let u := port.toNat
  .next (settle (if (portOf s u).state = 0 && portMode s u != 2 then setPort u 1 s else s))

/-- A training has failed: the third in a row fails the port (12 R317, R318). -/
def trainFailed (u : Nat) (s : State) : State :=
  let n := (portOf s u).attempts + 1
  if 3 ≤ n then setPort u 5 s else modPort s u (fun p => { p with attempts := n })

/-- TRAINING_COMPLETE (12 R317-R319): a first training leads to the identity check, an ingest port comes up, a port with too
long a cable is held, and a port that was degraded or failed goes to probation. -/
def execTrainingComplete (port : Word32) (r : TrainResult) (s : State) : Host.Outcome State Fault Refusal :=
  let u := port.toNat
  let p := portOf s u
  .next (settle (match r with
    | .failed =>
      if p.state = 1 || p.state = 3 then trainFailed u s
      else if p.state = 5 then modPort s u (fun p => { p with retraining := false })
      else s
    | .passed d rtt =>
      let note (s : State) : State := modPort s u (fun p => { p with delayNs := d, rtt := rtt.toNat })
      if p.state = 1 then
        let s := modPort (note s) u (fun p => { p with attempts := 0, trained := true })
        if portMode s u = 1 then setPort u 2 s
        else if 26 < d then setPort u 6 s
        else settlePort u s
      else if p.state = 3 || (p.state = 5 && p.retraining) then setPort u 4 (setCount (note s) u 0x48 0)
      else s))

/-- LINK_MGMT_FRAME: the partner's identity (12 R326). -/
def execLinkMgmtFrame (port : Word32) (m : LinkMgmt) (s : State) : Host.Outcome State Fault Refusal :=
  let u := port.toNat
  let p := portOf s u
  .next (settle (
    if portMode s u != 0 || p.state = 0 || p.state = 5 || p.state = 7 then s
    else
      let s' := modPort s u (fun p => { p with partner := some m })
      match p.state with
      | 1 => if p.trained then settlePort u s' else s'
      | 2 => if identityOk s u m then s' else setPort u 6 s'
      | 4 => if p.trained then settlePort u s' else s'
      | 6 => if p.partner = some m then s' else settlePort u s'
      | _ => s'))

/-- FAILED_PORT_RETRAIN: a failed port trains again every 10 s (12 R318). -/
def execFailedPortRetrain (port : Word32) (s : State) : Host.Outcome State Fault Refusal :=
  let u := port.toNat
  .next (settle (if (portOf s u).state = 5 then modPort s u (fun p => { p with retraining := true }) else s))

/-- PORT_PROBATION_COMPLETE: a clean count of 10^13 bits brings the port up, when its partner's identity allows it; an error
restarts the count (12 R318). -/
def execPortProbationComplete (port : Word32) (clean : Bool) (s : State) : Host.Outcome State Fault Refusal :=
  let u := port.toNat
  .next (settle (
    if (portOf s u).state != 4 then s
    else if !clean then setCount s u 0x48 0
    else if portMode s u = 1 then setPort u 2 s
    else settlePort u (modPort s u (fun p => { p with trained := true }))))

/-! ## Frames (12 R310-R317) -/

/-- Send every unacknowledged frame again; a frame replayed 16 times fails the port (12 R316, R317). -/
def replayAll (u : Nat) (s : State) : State :=
  let ts := (portOf s u).unacked.map (fun t => { t with sends := t.sends + 1 })
  let s := modPort s u (fun p => { p with unacked := ts })
  let s := ts.foldl (fun s t => emitData u t s) s
  let s := event (count s u 0x38 ts.length) u 0xD002 0 ts.length
  if ts.any (fun t => 16 < t.sends) then setPort u 5 s else s

/-- Release the frames that an ACK_SEQ covers, and the messages of which no frame is left (12 R316). -/
def release (ack : Nat) (p : Port) : Port :=
  if p.unacked.any (fun t => t.fseq == ack) then
    let left := (p.unacked.dropWhile (fun t => t.fseq != ack)).drop 1
    { p with unacked := left, msgs := p.msgs.filter (fun m => left.any (fun t => t.msg == m.id) || p.queue.any (fun q => q.1 == m.id)) }
  else p

/-- Credits from the partner's counts (12 R314). -/
def takeCredits (new : List Nat) (p : Port) : Port :=
  { p with
    credits := (p.credits.zip (new.zip p.seenCredits)).map (fun x => x.1 + (x.2.1 + 256 - x.2.2) % 256)
    seenCredits := new }

/-- A frame whose CRC, TYPE or LEN is bad: counted, and a NAK is due; 16 in a row lose lock (12 R311, R312, R316). -/
def badFrame (u : Nat) (s : State) : State :=
  let s := setCount (count s u 0x30 1) u 0x48 0
  let s := modPort s u (fun p => { p with nak := true, crcRun := p.crcRun + 1 })
  if 16 ≤ (portOf s u).crcRun then setPort u 1 s else if carries s u then sendIdle u s else s

/-- A message has been received whole (12 R310). -/
def deliver (u vc route : Nat) (bs : List Byte) (s : State) : State :=
  if bits route 0 13 = myDevice s then
    { s with link := { s.link with rx := s.link.rx ++ [⟨u, vc, bits route 16 13, bits route 29 3, bits route 13 3, bs⟩] } }
  else s

/-- A data frame in sequence is accepted and its buffer freed (12 R310, R314, R316). -/
def acceptData (u vc route : Nat) (som eom : Bool) (payload : List Byte) (s : State) : State :=
  let got := (if som then [] else amGet [] (portOf s u).gather vc) ++ payload
  let s := modPort s u (fun p => { p with
    fseqRx := (p.fseqRx + 1) % 65536, nak := false, accepted := true, freed := vcAdd p.freed vc 1
    gather := amPut p.gather vc (if eom then [] else got) })
  let s := count s u 0x18 1
  if eom then deliver u vc route got s else s

/-- A data frame: accepted in sequence; a repeat is discarded; a gap sets NAK. A verdict is returned at once (12 R315, R316). -/
def dataFrame (u fseq vc route : Nat) (som eom : Bool) (payload : List Byte) (s : State) : State :=
  let p := portOf s u
  let s := if fseq = p.fseqRx then acceptData u vc route som eom payload s
    else if (p.fseqRx + 65536 - fseq) % 65536 ≤ 1024 then s
    else modPort s u (fun p => { p with nak := true })
  sendIdle u s

/-- A good frame (12 R310, R314-R316). -/
def goodFrame (u : Nat) (b : List Byte) (s : State) : State :=
  let h0 := fld b 0 4
  let h1 := fld b 4 4
  let s := count s u 0x48 2048
  let s := modPort s u (fun p => { p with crcRun := 0 })
  if !carries s u then s
  else
    let s := modPort s u (takeCredits ((List.range 4).map (fun i => fld b (8 + i) 1)))
    let s := if bit h1 17 then modPort s u (release (bits h1 0 16)) else s
    let s := if bit h1 16 then replayAll u s else s
    if !carries s u then s
    else
      let s := if bits h0 18 2 = 0 then
          dataFrame u (bits h0 0 16) (bits h0 16 2) (fld b 12 4) (bit h0 20) (bit h0 21) (sub b 16 (bits h0 22 8)) s else s
      pumpPortAll u s

/-- PASS_FRAME: a port that is up or on probation receives a frame (12 R310-R316). -/
def execPassFrame (port : Word32) (bytes : List Byte) (s : State) : Host.Outcome State Fault Refusal :=
  let u := port.toNat
  let st := (portOf s u).state
  .next (settle (
    if (st != 2 && st != 4) || portMode s u != 0 then s
    else
      let h0 := fld bytes 0 4
      if crc64 (sub bytes 0 248) != fld bytes 248 8 || bits h0 18 2 = 3 || 232 < bits h0 22 8 then badFrame u s
      else goodFrame u bytes s))

/-- VERDICT_WINDOW_EXPIRY: a missed verdict is replayed; eight within 1 ms degrade the port (12 R317). -/
def execVerdictWindowExpiry (port : Word32) (s : State) : Host.Outcome State Fault Refusal :=
  let u := port.toNat
  .next (settle (
    if !carries s u || (portOf s u).unacked.isEmpty then s
    else
      let s := count s u 0x40 1
      let s := modPort s u (fun p => { p with misses := s.now :: p.misses.filter (fun t => s.now - t < 1000000) })
      if 8 ≤ (portOf s u).misses.length then setPort u 3 s else replayAll u s))

/-! ## Ingest (12 R322-R324) -/

/-- A number from bytes in network order. -/
def beNat (bs : List Byte) : Nat := leNat bs.reverse

/-- The MAC address of ingest interface i of LDn (13 R348). -/
def ingestMac (s : State) (die iface : Nat) : Nat := (beNat (sub s.flash.macBase 0 6) + 1 + 8 * (die - 8) + iface) % 2 ^ 48

/-- The port of an ingest interface (12 R322). -/
def ingestPort (die iface : Nat) : Nat := uid 0xD die (12 + iface / 2)

/-- The ones'-complement sum of 16-bit words in network order. -/
def onesSum (bs : List Byte) : Nat :=
  let n := (List.range ((bs.length + 1) / 2)).foldl (fun a i => a + beNat (sub bs (2 * i) 2)) 0
  let m := n % 65536 + n / 65536
  m % 65536 + m / 65536

/-- The UDP checksum over its pseudo-header (12 R322). -/
def udpOk (f : List Byte) (len : Nat) : Bool :=
  beNat (sub f 60 2) != 0 &&
    onesSum (sub f 22 32 ++ [0, 0] ++ (leBytes 2 len).reverse ++ [0, 0, 0, 17] ++ sub f 54 len) = 65535

/-- The first failing order of 12 R322 among 1 to 5, if any; a frame with its FCS left off. -/
def ingestBad (s : State) (die iface : Nat) (fcsOk : Bool) (t : IngestTable) (f : List Byte) : Bool :=
  let plen := beNat (sub f 18 2)
  let h := sub f 62 16
  !fcsOk || 9212 < f.length || beNat (sub f 0 6) != ingestMac s die iface ||
  beNat (sub f 12 2) != 0x86DD || beNat (sub f 14 1) / 16 != 6 || beNat (sub f 20 1) != 17 || sub f 38 16 != t.ip ||
  beNat (sub f 56 2) != t.udpPort || beNat (sub f 58 2) != plen || plen < 8 || f.length < 54 + plen || !udpOk f plen ||
  plen < 24 || fld h 0 2 != 0xA5C1 || fld h 2 1 != 1 || t.rings.length ≤ fld h 3 1 || fld h 12 2 + 24 != plen || fld h 14 2 != 0 ||
  (match t.rings[fld h 3 1]? with | some r => decide (2 ^ r.slotLog2 < fld h 12 2 + 32) | none => true)

/-- The whole blocks of a record, and its tail where that block is not poisoned (08 R241). -/
def recordStore (s : State) (w : Who) (a : Nat) (bs : List Byte) : State :=
  let n := bs.length / 32 * 32
  let s := storeNow s w a (bs.take n)
  if (poisonIn s (a + n) 1).isSome then s else storeNow s w (a + n) (bs.drop n)

/-- Write a record and then its count (12 R324). -/
def ingestRecord (die iface : Nat) (r : IngestRing) (f : List Byte) (s : State) : State × IngestRing :=
  let u := uid 0xE die 0
  let w : Who := ⟨u, hwOrigin die, 0, s.gz.nextJob, 0⟩
  let h := sub f 62 16
  let n := fld h 12 2
  let slots := 2 ^ (r.log2 - r.slotLog2)
  let bs := leBytes 2 n ++ leBytes 1 iface ++ leBytes 1 0 ++ sub h 4 4 ++ sub h 8 4 ++ leBytes 4 0 ++ sub f 22 16 ++ sub f 78 n
  let s := recordStore s w (r.base + r.written % slots * 2 ^ r.slotLog2) bs
  (sigStore (count s u 0x10 1) w r.tailAddr (r.written + 1), { r with written := r.written + 1 })

/-- INGEST_FRAME: dropped and counted at its first failing check, or written as a record (12 R322, R324). -/
def execIngestFrame (die : LDie) (iface : Fin 8) (fcsOk : Bool) (frame : List Byte) (s : State) : Host.Outcome State Fault Refusal :=
  let d := die.val + 8
  let port := ingestPort d iface.val
  let u := uid 0xE d 0
  let drop := count (count s u 0x18 1) port 0x58 1
  .next (settle (
    if portMode s port != 1 || (portOf s port).state != 2 then s
    else match amFind s.link.ingest d with
      | none => drop
      | some t =>
        if ingestBad s d iface.val fcsOk t frame then drop
        else match t.rings[fld frame 65 1]? with
          | none => drop
          | some r =>
            let full := count (count s u 0x20 1) port 0x60 1
            if (poisonIn s r.headAddr 8).isSome || 2 ^ (r.log2 - r.slotLog2) ≤ r.written - word s r.headAddr then full
            else
              let (s, r') := ingestRecord d iface.val r frame s
              { s with link := { s.link with ingest := amPut s.link.ingest d { t with rings := t.rings.set (fld frame 65 1) r' } } }))

/-- NEIGHBOR_SOLICITATION: the receiver answers for its configured address (12 R322). The advertisement is kept as the
interface, and the solicitor, the target and the MAC address it tells. -/
def execNeighborSolicitation (die : LDie) (iface : Fin 8) (target source : List Byte) (s : State) : Host.Outcome State Fault Refusal :=
  let d := die.val + 8
  let port := ingestPort d iface.val
  .next (settle (
    if portMode s port = 1 && (portOf s port).state = 2 && (amFind s.link.ingest d).any (fun t => t.ip == target) then
      { s with link := { s.link with adverts :=
          s.link.adverts ++ [(8 * d + iface.val, source ++ target ++ (leBytes 6 (ingestMac s d iface.val)).reverse)] } }
    else s))

end Sys2Proof.Machine
end

