-- ==== Sys2Proof/Machine/Trust.lean ====
section
/-! DEFINITION. Trust (13): identity, attestation, firmware images, the ledger's pages, the management port and time of
day. -/

namespace Sys2Proof.Machine

/-- The management port, 01 R18. -/
def mgmtUnit : Nat := uid 0 12 5

/-- Whether the kernel runs: the ledger is open (13 R344 order 6). -/
def kernelRuns (s : State) : Bool := s.mod.power == .running && s.tr.ledgerOpen

/-- Whether the management service answers: the kernel runs and the port is ready (13 R350, 14 R370). -/
def serving (s : State) : Bool := kernelRuns s && (health s mgmtUnit).ready

/-- Add to the counter of an input of 14 R375. -/
def inputCount (row : Nat) (s : State) : State :=
  { s with mod := { s.mod with inputCounts := amMod 0 s.mod.inputCounts row (· + 1) } }

/-! ## Identity and attestation (13 R347-R349) -/

/-- Zero-padded ASCII. -/
def ascii (n : Nat) (t : String) : List Byte := sub (t.toList.map (fun c => BitVec.ofNat 8 c.toNat)) 0 n

/-- The identity public key as bytes. -/
def publicKeyBytes : List Byte := leBytes 1793 Config.publicKey.toNat

/-- KEY_DIGEST (13 R348). -/
def keyDigest : List Byte := shake256 publicKeyBytes

/-- The device certificate (13 R347). -/
def certificate (s : State) : List Byte :=
  let body := leBytes 4 0x5A6F4331 ++ leBytes 2 1 ++ leBytes 2 Config.certKey.toNat ++ sub s.flash.serial 0 12 ++
    sub s.flash.dateCode 0 4 ++ rsvd 8 ++ publicKeyBytes ++ rsvd 7
  body ++ leBytes 1280 (Config.certSignature body).toNat

/-- FLAGS of the attestation report (13 R349, R351). -/
def attFlags (s : State) : Nat :=
  b2n s.tr.timeSet + 2 * b2n s.tr.timePtp + 4 * b2n s.tr.debugEver + 8 * b2n (bit (debugCfg s) 0)

/-- The identity record (13 R348). -/
def identityRecord (s : State) : List Byte :=
  ascii 16 "EVC-7364-LC" ++ ascii 4 "C1" ++ sub s.flash.dateCode 0 4 ++ sub s.flash.serial 0 12 ++ rsvd 4 ++
  sub s.flash.macBase 0 6 ++ rsvd 2 ++ leBytes 4 s.tr.fwVersion ++ leBytes 4 s.flash.security ++ leBytes 1 s.tr.bootSlot ++
  leBytes 1 (attFlags s) ++ leBytes 2 (myDevice s) ++ rsvd 4 ++ keyDigest ++ leBytes 8 s.tr.nextSeq ++ leBytes 8 s.flash.boots ++
  rsvd 112

/-- The last sealed page: the newest held one, else the newest archived one (13 R349). -/
def headPage (s : State) : Option Page := (s.tr.held.getLast?).orElse (fun _ => s.flash.archive.getLast?)

/-- The attestation report for a nonce (13 R349). -/
def report (s : State) (nonce : List Byte) : List Byte :=
  let body := leBytes 4 0x5A6F4131 ++ leBytes 2 1 ++ rsvd 2 ++ sub nonce 0 32 ++ sub s.flash.serial 0 12 ++
    leBytes 4 s.tr.fwVersion ++ leBytes 4 s.flash.security ++ leBytes 1 s.tr.bootSlot ++ leBytes 1 (attFlags s) ++
    leBytes 2 s.tr.dieMatch ++ keyDigest ++ leBytes 64 s.tr.kernelDigest.toNat ++ leBytes 64 s.tr.fwDigest.toNat ++
    (match headPage s with
      | some p => leBytes 64 (pageDigest p).toNat ++ leBytes 8 p.num
      | none => rsvd 72) ++
    leBytes 8 s.tr.nextSeq ++ leBytes 8 (timeNow s) ++ leBytes 8 s.flash.boots ++ rsvd 32
  body ++ leBytes 1280 (Config.signature body).toNat

/-- Send an answer from the management port. -/
def answerMgmt (r : MgmtReply) (s : State) : State := { s with tr := { s.tr with replies := s.tr.replies ++ [r] } }

/-- ATTEST: a report for a nonce, at most 100 in one second (13 R350). -/
def execAttest (nonce : List Byte) (s : State) : Host.Outcome State Fault Refusal :=
  let recent := s.tr.attests.filter (fun t => s.now - t < 1000000000)
  .next (settle (
    if !serving s then s
    else if 100 ≤ recent.length then answerMgmt .denied s
    else answerMgmt (.report (report s nonce)) { s with tr := { s.tr with attests := s.now :: recent } }))

/-! ## Addresses of the management port (13 R352) -/

/-- MGMT_NET (13 R352). -/
def mgmtNet (s : State) : Nat := item s mdBlock 0x101

/-- The modified EUI-64 interface identifier of MAC_BASE (13 R352). -/
def eui64 (s : State) : List Byte :=
  let m := sub s.flash.macBase 0 6
  [m.getD 0 0 ^^^ 2, m.getD 1 0, m.getD 2 0, 0xFF, 0xFE, m.getD 3 0, m.getD 4 0, m.getD 5 0]

/-- The link-local address of the port. -/
def linkLocal (s : State) : List Byte := [0xFE, 0x80] ++ rsvd 6 ++ eui64 s

/-- The addresses in use, in the layout of the address table (13 R350, R352): a static IPv6 address before one of SLAAC before
the link-local one; a static IPv4 address before one of DHCP. -/
def addresses (s : State) : List Byte :=
  let v := mgmtNet s
  let t := s.flash.mgmtTable
  let six := if bit v 49 then sub t 0 17 ++ rsvd 15 ++ sub t 0x20 16
    else match s.tr.slaac with
      | a :: _ => a ++ [64] ++ rsvd 31
      | [] => linkLocal s ++ [64] ++ rsvd 31
  let four := if bit v 51 then sub t 0x30 5 ++ rsvd 3 ++ sub t 0x38 4
    else match s.tr.dhcp4 with
      | some (a, g, p) => leBytes 4 a ++ leBytes 1 p ++ rsvd 3 ++ leBytes 4 g
      | none => rsvd 12
  six ++ four ++ rsvd 4

/-- IDENTITY (13 R350). -/
def execIdentity (s : State) : Host.Outcome State Fault Refusal :=
  .next (settle (if serving s then answerMgmt (.identity (identityRecord s) (certificate s) (addresses s)) s else s))

/-- ROUTER_ADVERTISEMENT: an address of a received prefix, while SLAAC is 1 (13 R352). -/
def execRouterAdvertisement (pfx : List Byte) (s : State) : Host.Outcome State Fault Refusal :=
  let a := sub pfx 0 8 ++ eui64 s
  .next (settle (
    if !serving s || !bit (mgmtNet s) 48 then s
    else { s with tr := { s.tr with slaac := s.tr.slaac.filter (· != a) ++ [a] } }))

/-- DHCPV4_MESSAGE: an IPv4 address, while DHCP4 is 1 (13 R352). -/
def execDhcpv4Message (addr gateway : Word32) (prefixLen : Byte) (s : State) : Host.Outcome State Fault Refusal :=
  .next (settle (
    if !serving s || !bit (mgmtNet s) 50 then s
    else { s with tr := { s.tr with dhcp4 := some (addr.toNat, gateway.toNat, prefixLen.toNat) } }))

/-! ## Sessions (13 R350) -/

/-- Whether an operator's session is open under a number. -/
def isOperator (s : State) (n : Nat) : Bool := s.tr.sessions.any (fun x => x.id == n && x.operator)

/-- MGMT_SESSION_OPEN: a session is an operator's when its certificate's chain ends at an anchor; a failed authentication is
ledgered (13 R350, 14 R375). -/
def execMgmtSessionOpen (session : Nat) (cert : CertState) (s : State) : Host.Outcome State Fault Refusal :=
  let good := cert == .valid && !s.flash.anchors.isEmpty
  let bad := cert != .absent && !good
  .next (settle (
    if !serving s then s
    else
      let s := { s with tr := { s.tr with sessions := s.tr.sessions.filter (fun x => x.id != session) ++ [⟨session, good⟩] } }
      if bad then ledgerEv 12 (mkEv 0x1000 0x0D mgmtUnit 0 0 0 0 NO_PERMISSION true) s else s))

/-- MGMT_SESSION_IDLE: a session idle for 300 s is closed and counted (14 R375). -/
def execMgmtSessionIdle (session : Nat) (s : State) : Host.Outcome State Fault Refusal :=
  .next (settle (
    if s.tr.sessions.any (fun x => x.id == session) then
      inputCount 12 { s with tr := { s.tr with sessions := s.tr.sessions.filter (fun x => x.id != session) } }
    else s))

/-- ORDER: an operator's packet is placed on ring 1 of context 0 and announced (13 R350). A packet for which the ring has no
room is not placed. -/
def execOrder (session : Nat) (packet : List Byte) (s : State) : Host.Outcome State Fault Refusal :=
  let r := ringOf s 1
  let t := (r.tail + packet.length) % ringSize r
  .next (settle (
    if !serving s then s
    else if !isOperator s session || !ringExists s 1 || packet.length % 16 != 0 || packet.length < 32 || ringSize r ≤ packet.length then
      answerMgmt .denied s
    else match doorbell t r with
      | none => answerMgmt .denied s
      | some r' =>
        let w : Who := ⟨kernelCore 12, kernelOrigin 12, 0, s.gz.nextJob, 1⟩
        let n := min packet.length (ringSize r - r.tail)
        let s := storeNow s w (r.cmdBase + r.tail) (packet.take n)
        let s := storeNow s w r.cmdBase (packet.drop n)
        answerMgmt .accepted (modRing s 1 (fun _ => r'))))

/-- ANCHOR_INSTALL: an operator, or anyone once while the list is empty, replaces the anchors; ledgered (13 R350; log
entry 61). -/
def execAnchorInstall (session : Nat) (anchors : List (List Byte)) (s : State) : Host.Outcome State Fault Refusal :=
  let old := s.flash.anchors
  .next (settle (
    if !serving s then s
    else if (!isOperator s session && !old.isEmpty) || 8 < anchors.length then answerMgmt .denied s
    else
      let s := { s with flash := { s.flash with anchors := anchors } }
      answerMgmt .accepted (ledger 12 0x1000 1 mgmtUnit 0 0 old.length anchors.length 0 s)))

/-- DEBUG_UART_RECEIVE: a byte feeds the debug protocol while debug access with UART is enabled; otherwise, or badly framed, it
is discarded and counted (13 R351, 14 R375). -/
def execDebugUartReceive (b : Byte) (framingOk : Bool) (s : State) : Host.Outcome State Fault Refusal :=
  .next (settle (
    if framingOk && bit (debugCfg s) 0 && bit (debugCfg s) 1 then { s with tr := { s.tr with uartRx := s.tr.uartRx ++ [b] } }
    else inputCount 16 s))

/-! ## Firmware images (13 R341-R346) -/

/-- The manifest's sizes (13 R342): the kernel at 0x1000, the general firmware at the next 4 KiB boundary. -/
def fwOffset (kernelBytes : Nat) : Nat := 0x1000 + ceilDiv kernelBytes 0x1000 * 0x1000

/-- Whether an image verifies (13 R343); `cryptoBad` says that its signature does not. -/
def imageOk (s : State) (b : List Byte) (cryptoBad : Bool) : Bool :=
  let k := fld b 0x14 4
  let f := fld b 0x18 4
  !cryptoBad && 4096 ≤ b.length && b.length ≤ 0x4000000 && fld b 0 4 = 0x5A6F4D31 && fld b 4 2 = 1 && fld b 6 2 < 4 &&
  !s.flash.revoked.contains (fld b 6 2) && sub b 8 4 == ascii 4 "C1" && fld b 0x10 4 ≤ 63 && s.flash.security ≤ fld b 0x10 4 &&
  1 ≤ k && k ≤ 262144 && fwOffset k + f ≤ b.length && fld b 0x1C 4 = 0 && sub b 0x5A0 2656 == rsvd 2656 &&
  shake256 (sub b 0x1000 k) == sub b 0x20 64 && shake256 (sub b (fwOffset k) f) == sub b 0x60 64

/-- A slot as an image's manifest describes it. -/
def slotOf (b : List Byte) (st : SlotState) : FwSlot :=
  { state := st, keyIndex := fld b 6 2, fwVersion := fld b 0xC 4, security := fld b 0x10 4
    kernelDigest := BitVec.ofNat 512 (fld b 0x20 64), fwDigest := BitVec.ofNat 512 (fld b 0x60 64) }

/-- A firmware slot. -/
def fwSlot (s : State) (n : Nat) : FwSlot := if n = 0 then s.flash.slot0 else s.flash.slot1

/-- Change a firmware slot. -/
def setSlot (n : Nat) (x : FwSlot) (s : State) : State :=
  { s with flash := if n = 0 then { s.flash with slot0 := x } else { s.flash with slot1 := x } }

/-- A slot is no longer marked next: it is valid (13 R344). -/
def unmark (x : FwSlot) : FwSlot := if x.state == .next then { x with state := .valid } else x

/-- Write an image to a slot and mark it, alone, next (13 R346). -/
def writeImage (n : Nat) (b : List Byte) (s : State) : State :=
  setSlot n (slotOf b .next) (setSlot (1 - n) (unmark (fwSlot s (1 - n))) s)

/-- FW_LOAD at the close of its window; each attempt is ledgered, a failed one with its status (13 R346). -/
def fwLoadApply (p : PFwLoad) (f : Faults) (j : Job) (origin : Nat) (s : State) : State × End :=
  let n := p.slot.toNat
  let fail (v : Nat) (e : End) : State × End :=
    (ledgerEv 12 (mkEv origin 0xB n 1 0 0 e.status v true) s, e)
  if s.tr.bootSlot = n then fail 0 (fails BAD_STATE 0x2C)
  else match poisonIn s p.imageAddr.toNat p.bytes.toNat with
    | some c => fail 0 (fails MEMORY_POISONED c)
    | none =>
      let b := readBytes s j.unit p.imageAddr.toNat p.bytes.toNat
      if !imageOk s b f.cryptoBad then fail (fld b 0xC 4) (fails BAD_STATE 0x20)
      else
        let old := (fwSlot s n).fwVersion
        (ledger 12 origin 0xB n 1 0 old (fld b 0xC 4) (fld b 0xC 4) (writeImage n b s), done 0)

/-- Checks of FW_LOAD (02 R54; 13 R346). -/
def preFwLoad (h : Hdr) (p : PFwLoad) (s : State) : Pre :=
  { preCore h s with
    fields := [(0x28, 4096 ≤ p.bytes.toNat && p.bytes.toNat ≤ 0x4000000), (0x2C, p.slot.toNat < 2)]
    ranges := [(0x20, p.imageAddr.toNat, p.bytes.toNat, pRead)] }

/-- FW_LOAD (02 R53): an order on its slot. -/
def execFwLoad (h : Hdr) (p : PFwLoad) (f : Faults) (s : State) : Host.Outcome State Fault Refusal :=
  .next (issue (preFwLoad h p s) (runOrder (.slot p.slot)) (.fwLoad h p f) s)

/-! ## The ledger's pages (13 R357-R361) -/

/-- LEDGER_ENTRY_ARRIVAL: the oldest entry on its way from a die is numbered and stamped on MD (13 R357). -/
def execLedgerEntryArrival (die : Die) (s : State) : Host.Outcome State Fault Refusal :=
  .next (settle (
    if !s.tr.ledgerOpen then s
    else match s.tr.inTransit.find? (fun e => e.1 == die.val) with
      | none => s
      | some e => appendEntry e.2 { (if die.val = 12 then s else count s (kernelCore die.val) 0x30 1) with tr := { s.tr with inTransit := s.tr.inTransit.erase e } }))

/-- PAGE_SEAL_TIMER: 60 s after its first entry the open page is sealed (13 R360). -/
def execPageSealTimer (s : State) : Host.Outcome State Fault Refusal := .next (settle (sealPage 2 s))

/-- SEQ of the last archived entry, 0 when none is archived. -/
def lastSeq (s : State) : Nat :=
  match s.flash.archive.getLast? with
  | some p => (match p.entries.getLast? with | some e => e.seq | none => 0)
  | none => 0

/-- Put a page into the archive; when its ring of 122,880 places wraps onto a page that has not been read, that page is lost
and the overwrite is ledgered (13 R361). -/
def archivePut (p : Page) (s : State) : State :=
  let s' := { s with flash := { s.flash with archive := s.flash.archive ++ [p], lastDigest := pageDigest p } }
  if s'.flash.archive.length ≤ 122880 then s'
  else match s'.flash.archive with
    | [] => s'
    | o :: rest =>
      let s' := { s' with flash := { s'.flash with archive := rest } }
      if o.num < s'.flash.readTo then s' else ledger 12 (kernelOrigin 12) 0x11 o.num 1 0 0 0 (lastSeq s') s'

/-- The LEDGER_SEALs that wait for a page reply (13 R360). -/
def sealed (num : Nat) (s : State) : State :=
  s.gz.jobs.foldl (fun s j => if j.phase == .sealing num then endJob s j.id (done (num % 2 ^ 32)) else s) s

/-- PAGE_ARCHIVE: the oldest held page is signed and written to flash, or stays held when the write fails, which is ledgered
(13 R358, R361). -/
def execPageArchive (ok : Bool) (s : State) : Host.Outcome State Fault Refusal :=
  .next (settle (match s.tr.held with
    | [] => s
    | p :: rest =>
      if ok then sealed p.num (archivePut p { s with tr := { s.tr with held := rest } })
      else ledger 12 (kernelOrigin 12) 0x11 p.num 2 0 0 0 (lastSeq s) s))

/-- Seal for LEDGER_SEAL: a snapshot, the open page, and the page that an overflowing snapshot opened (05 R146; 13 R360). -/
def sealNow (s : State) : State :=
  let s := if s.tr.openPage.isEmpty then closePage 1 (appendAll (snapAll s) (snapMark s)) else sealPage 1 s
  closePage 1 s

/-- LEDGER_SEAL replies once the last page it sealed is archived; with nothing to seal, at once (13 R360). -/
def runLedgerSeal (j : Job) (s : State) : RunRes :=
  let d := uDie j.unit
  let s := count s j.unit 0x28 1
  if !ledgerRoom s then ends (gateCount d false s) (fails BUSY_DEFER 4)
  else
    let s' := sealNow (gateCount d true s)
    if s'.flash.nextPage = s.flash.nextPage then
      ends s' (done ((match s.flash.archive.getLast? with | some p => p.num | none => 0) % 2 ^ 32))
    else waits s' (.sealing (s'.flash.nextPage - 1))

/-- LEDGER_SEAL (02 R53). -/
def execLedgerSeal (h : Hdr) (s : State) : Host.Outcome State Fault Refusal :=
  .next (issue (preCore h s) runLedgerSeal (.ledgerSeal h) s)

/-- LEDGER_READ: a sealed page from the archive, by number (13 R350, R361). -/
def execLedgerRead (page : Nat) (s : State) : Host.Outcome State Fault Refusal :=
  .next (settle (
    if !serving s then s
    else match s.flash.archive.find? (fun p => p.num == page) with
      | none => answerMgmt (.pages []) s
      | some p => answerMgmt (.pages [p]) { s with flash := { s.flash with readTo := max s.flash.readTo (page + 1) } }))

/-! ## Time of day (13 R362-R364) -/

/-- Set the time of day. -/
def setTime (t : Nat) (ptp : Bool) (s : State) : State :=
  { s with tr := { s.tr with timeSet := true, timePtp := ptp, timeBase := t % 2 ^ 64, timeAt := s.now } }

/-- PTP_SYNC: with PTP selected and its domain, time is stepped when it is unset or off by more than 1 ms, and otherwise steered
(13 R363). -/
def execPtpSync (domain : Byte) (time : Word64) (offset : Int) (s : State) : Host.Outcome State Fault Refusal :=
  let v := item s mdBlock 0x81
  .next (settle (
    if !serving s || !bit v 8 || bits v 0 8 != domain.toNat then s
    else
      let s := { s with tr := { s.tr with lastSync := s.now } }
      if !s.tr.timeSet || 1000000 < offset.natAbs then
        ledger 12 (kernelOrigin 12) 0x0C 0 1 0 (timeNow s) time.toNat 0 (setTime time.toNat true s)
      else { s with tr := { s.tr with timePtp := true } }))

end Sys2Proof.Machine
end

