-- ==== Sys2Proof/Machine/Stop.lean ====
section
/-! DEFINITION. How a command in flight is stopped (02 R49, R58; 05 R146): by its TIMEOUT, with its context, or with its unit;
and how every unit goes on when something has left it. -/

namespace Sys2Proof.Machine

/-- Let every partition of every engine go on. -/
def pumpEngines (s : State) : State :=
  s.mm.foldl (fun s e => e.2.parts.foldl (fun s p => pumpPart e.1 p.1 s) s) s

/-- Let every unit go on (02 R46, R47). -/
def pumpAll (s : State) : State :=
  (List.range 8).foldl (fun s d => pumpChains d s.gz.jobs (pumpDrovers d (pumpFlush d (pumpDie d s)))) (pumpEngines s)

/-- A pass in execution is stopped: the result it opened or added to is invalidated, and drains of it end as the pass did
(04 R109). -/
def stopPass (j : Job) (st : Nat) (s : State) : State :=
  modPart s j.unit j.part (fun pt => match pt.exec with
    | some (id, y) =>
      if id = j.id then putSet { pt with exec := none } y (spoil st 0 (setOf pt y))
      else { pt with queue := pt.queue.filter (· != j.id) }
    | none => { pt with queue := pt.queue.filter (· != j.id) })

/-- A drain that waits for a borrowed partition stops: its result counts again as undrained (05 R134). -/
def undrain (j : Job) (s : State) : State :=
  let back (r : Option Res) : Option Res := r.map (fun r =>
    if r.drain = some j.id then { r with drain := none, used := [], second := [] } else r)
  modPart s j.unit j.part (fun pt => { pt with x := back pt.x, y := back pt.y })

/-- The tag a routing or combine command names. -/
def tagIn : Instr → Nat
  | .rtTopk _ p _ => p.batchTag.toNat
  | .rtCount _ p _ => p.batchTag.toNat
  | .rtDispatch _ p _ => p.batchTag.toNat
  | .rtReplay _ p _ => p.batchTag.toNat
  | .rtCancel _ p => p.batchTag.toNat
  | .cbCombine _ p _ => p.batchTag.toNat
  | .cbReturnGrad _ p _ => p.batchTag.toNat
  | _ => 0

/-- A combine command bound to its claim stops: at its TIMEOUT as 07 R198 says, otherwise its claim closes. -/
def stopBound (j : Job) (e : End) (s : State) : State :=
  let d := uDie j.unit
  if e.status = TIMEOUT then combineExpire d j s
  else match (cfOf s d).claims.find? (fun c => c.job == some j.id) with
    | none => endJob s j.id e
    | some c => endJob (closeClaim s d c.tag c.grad) j.id (boundEnd s c j.id e)

/-- Stop a command in flight, which ends with e: every place it holds or waits in lets it go. A change that the kernel has
begun to apply is completed instead (02 R58). -/
def stopJob (j : Job) (e : End) (s : State) : State :=
  let d := uDie j.unit
  let tag := tagIn j.cmd
  match j.phase with
  | .ending _ => s
  | .sealing _ => s
  | .follow _ => s
  | .inWindow => endJob (leaveWindows j.id s) j.id e
  | .inUnit => match j.cmd with
    | .mmPass _ _ _ => endJob (stopPass j e.status s) j.id e
    | .mmDrain _ _ _ => endJob (dequeue s j.unit j.part j.id) j.id e
    | _ => endJob s j.id e
  | .waitBorrow _ => endJob (undrain j s) j.id e
  | .waitQuota => endJob (uncount s d tag) j.id e
  | .waitLand => landStop d tag j e s
  | .waitCancel => endJob (modTag s d tag (fun t => { t with cancelJob := none })) j.id e
  | .bound => stopBound j e s
  | .waitSignal _ => endJob (detach s j.id) j.id e
  | .passing => endJob (modRing s j.ring (fun r => { r with passOver := none })) j.id e
  | .launch => endLaunch j e s
  | .chain _ => closeChain d j.id e s
  | .dirUpdate => if s.dir.job = some j.id then abortUpdate e s else endJob s j.id e
  | _ => endJob s j.id e

/-- Stop every command of a list. -/
def stopJobs (e : End) : List Job → State → State
  | [], s => s
  | j :: js, s => stopJobs e js (match jobOf s j.id with | some k => stopJob k e s | none => s)

end Sys2Proof.Machine
end

