-- ==== Sys2Proof/Machine/Health.lean ====
section
/-! DEFINITION. Bring-up, sensors, calibration, delay gauges and margins, self-test, rotation and probation (14), the pace
governor (01 R29-R31), and watchdog expiries (01 R26-R28). -/

namespace Sys2Proof.Machine

/-! ## Bring-up (14 R370) -/

/-- Unit IDs of one kind on a die, by instance from 0. -/
def unitsOf (kind die n : Nat) : List Nat := (List.range n).map (uid kind die)

/-- The units that a die brings up; link ports come up by themselves (12 R318). -/
def dieUnits (d : Nat) : List Nat :=
  if isCD d then
    [uid 0 d 1, uid 0 d 2, uid 0 d 3] ++ unitsOf 1 d 16 ++ unitsOf 2 d 256 ++ unitsOf 3 d 64 ++ unitsOf 4 d 4 ++
      [uid 6 d 0, uid 7 d 0, uid 8 d 0] ++ unitsOf 9 d 16 ++ unitsOf 0xA d 16 ++
      ((List.range 10).filter (saddleOn d)).map (uid 0xF d)
  else if isLD d then [uid 0 d 3] ++ unitsOf 4 d 2 ++ [uid 6 d 0] ++ unitsOf 0xC d 8 ++ [uid 0xE d 0]
  else [uid 0 d 3, uid 0 d 4, uid 0 d 5, uid 0 d 6] ++ unitsOf 5 d 16 ++ [uid 6 d 0]

/-- STATE of a die becomes 2 when every one of its units has been brought up (14 R372). -/
def bringupDone (d : Nat) (s : State) : State :=
  if (dieOf s d).state = 1 && (dieUnits d).all (fun u => (health s u).brought) then modDie s d (fun x => { x with state := 2 })
  else s

/-- Initial training of a side's channels (14 R370): one that fails is soft mapped out; one that flash records as out stays out
and is returnable when it passes. -/
def trainSide (side : Nat) (bad : List Nat) (s : State) : State :=
  let one (s : State) (n : Nat) : State :=
    let ch := chanUnit side n
    let c := chan s ch
    if c.state == .inService then
      if bad.contains n then
        ledger (uDie side) (hwOrigin (uDie side)) 8 ch 1 0 0 1 0 (setChanState ch .softOut s)
      else s
    else if bad.contains n then s
    else setChanState ch .returnable (modChan s ch (fun x => { x with wasLost := c.state == .lost || c.wasLost }))
  let s := (List.range 512).foldl one s
  let out := (List.range 512).filter (fun n => (chan s (chanUnit side n)).state != .inService)
  modSide s side (fun x => { x with out := out, populated := (512 - out.length) * chanBytes })

/-- BRINGUP_STEP: a unit passes its step and is ready, or fails and stays not ready; a failure is ledgered with its test code
(14 R370, R373). -/
def execBringupStep (unit : Word32) (passed : Bool) (code : Word16) (badChannels : List Nat) (s : State) :
    Host.Outcome State Fault Refusal :=
  let u := unit.toNat
  let d := uDie u
  .next (settle (
    if !kernelRuns s || (dieOf s d).state != 1 || !(dieUnits d).contains u || (health s u).brought then s
    else
      let s := modHealth s u (fun h => { h with brought := true })
      let s := if uKind u = 0xA then trainSide u badChannels s else s
      let s := if passed then setReady u true 1 s
        else ledger d (kernelOrigin d) 6 u 3 0 0 0 code.toNat
          (modHealth s u (fun h => { h with failed := true, lastCause := 1, lastTest := code.toNat }))
      bringupDone d (if uKind u = 0xA then sideCheck u s else s)))

/-! ## Watchdogs (01 R26-R28) -/

/-- Whether a job is the operation its unit carries out now. -/
def executing (s : State) (j : Job) : Bool :=
  match j.cmd with
  | .mmPass _ _ _ => (partOf s j.unit j.part).exec.any (fun x => x.1 == j.id)
  | _ => occupies j

/-- The operation a unit's partition carries out. -/
def operationOf (s : State) (u part : Nat) : Option Job :=
  if uKind u = 3 then drvJob s (drvKey (uDie u) (uInst u))
  else s.gz.jobs.find? (fun j => j.unit == u && (uKind u != 1 || j.part == part) && executing s j)

/-- A receiver is reset after a handshake that timed out: it is not ready until then (01 R28). -/
def resetReceiver (u boundary r : Nat) (s : State) : State :=
  let s := { s with hw := { s.hw with abandoned := s.hw.abandoned.filter (· != (u, boundary, r)) ++ [(u, boundary, r)] } }
  if (health s r).ready then setReady r false 5 (modHealth s r (fun h => { h with resetting := true })) else s

/-- WATCHDOG_EXPIRY: the requesting unit ends its operation with TIMEOUT, decided by the silent side's die, and resets the
silent side (01 R28); a handshake into a field is a fault of its partition (04 R119, 14 R373). -/
def execWatchdogExpiry (unit : Word32) (part boundary : Byte) (silent : Word32) (s : State) : Host.Outcome State Fault Refusal :=
  let u := unit.toNat
  let r := silent.toNat
  let b := boundary.toNat
  let e : End := { fails TIMEOUT r with origin := some (hwOrigin (uDie r)) }
  .next (settle (pumpAll (
    if uKind u = 1 && 16 ≤ b && b < 32 then
      let f := uid 2 (uDie u) (16 * uInst u + (b - 16))
      resetReceiver u b f (partFault s u part.toNat f)
    else match operationOf s u part.toNat with
      | some j => resetReceiver u b r (stopJob j e s)
      | none => resetReceiver u b r s)))

/-- RECEIVER_RESET_EXPIRY: the receiver reports ready in time, or is marked failed, which is ledgered (01 R28, 16 R405). -/
def execReceiverResetExpiry (unit : Word32) (boundary : Byte) (completed : Bool) (s : State) : Host.Outcome State Fault Refusal :=
  let u := unit.toNat
  let b := boundary.toNat
  .next (settle (match s.hw.abandoned.find? (fun a => a.1 == u && a.2.1 == b) with
    | none => s
    | some (_, _, r) =>
      let s := { s with hw := { s.hw with abandoned := s.hw.abandoned.filter (· != (u, b, r)) } }
      let h := health s r
      if completed then
        if h.resetting && !s.hw.abandoned.any (fun a => a.2.2 == r) then
          let s := modHealth s r (fun h => { h with resetting := false })
          if h.failed || h.quarantined || h.retired || h.testing || h.probation then s else setReady r true 5 s
        else s
      else
        ledger (uDie r) (hwOrigin (uDie r)) 0xE r 14 0 0 b 0
          (modHealth s r (fun h => { h with failed := true, resetting := false }))))

/-- LATE_ACKNOWLEDGE: discarded and counted at its boundary, at the silent block and on the die (01 R28; 14 R386; 15 R388). -/
def execLateAcknowledge (unit : Word32) (boundary : Byte) (s : State) : Host.Outcome State Fault Refusal :=
  let u := unit.toNat
  let b := boundary.toNat
  let d := uDie u
  let s := { s with hw := { s.hw with lateAcks := amMod 0 s.hw.lateAcks (256 * u + b) (· + 1) } }
  let s := if uKind u = 0xF then count s u 0x18 1 else s
  let s := match s.hw.abandoned.find? (fun a => a.1 == u && a.2.1 == b) with
    | some (_, _, r) => if uKind r = 0 && uInst r != 0 then count s r 0x20 1 else s
    | none => s
  let s := if isLD d then count s (uid 0 d 0) 0x18 1 else s
  .next (settle (event s (uid 0 d 0) 0x0001 0 1))

/-! ## Pace governor (01 R29-R31) -/

/-- PACE_CAP in 0.1 kW (01 R30). -/
def paceCapOf (s : State) : Nat := bits (item s paceUnit 1) 0 16

/-- A full issue permit. -/
def fullPermit : Nat := 0x3FFF

/-- A permit below a bound, chosen by the governor (01 R29); the choice is free (DESIGN CHOICE, log entry 21). -/
def lowerPermit (s : State) (d p : Nat) : Nat := if p = 0 then 0 else min (p - 1) (Config.freePermit s.free d).toNat

/-- A permit above a bound, chosen by the governor (01 R29); the choice is free (DESIGN CHOICE, log entry 21). -/
def raisePermit (s : State) (d p : Nat) : Nat := min fullPermit (max (p + 1) (Config.freePermit s.free d).toNat)

/-- Give the compute and pass dies below number n new permits; a change is counted on MD (01 R29, 15 R388). -/
def permits (f : State → Nat → Nat → Nat) : Nat → State → State
  | 0, s => s
  | n + 1, s =>
    let s := permits f n s
    let p := (dieOf s n).permit
    let q := f s n p
    if q = p then s else event (modDie s n (fun d => { d with permit := q })) (uid 0 12 0) 0x0005 0 1

/-- Whether every permit is full. -/
def permitsFull (s : State) : Bool := (List.range 12).all (fun d => (dieOf s d).permit = fullPermit)

/-- PACE_SAMPLE: input power in 0.1 kW and current in 0.1 A. A sample over either cap lowers every permit; one below both raises
them (01 R29). -/
def execPaceSample (power current : Word16) (s : State) : Host.Outcome State Fault Refusal :=
  let p := power.toNat
  let i := current.toNat
  let s := { s with mod := { s.mod with pacePower := p, paceCurrent := i } }
  let s :=
    if paceCapOf s < p || 4000 < i then
      let s := permits lowerPermit 12 s
      if 4000 < i then { s with mod := { s.mod with currentLimiting := true } } else s
    else if p < paceCapOf s && i < 4000 then
      let s := permits raisePermit 12 s
      if permitsFull s then { s with mod := { s.mod with currentLimiting := false } } else s
    else s
  .next (settle s)

/-- Whether a compute die is held back (01 R31, 14 R375). -/
def held (s : State) (d : Nat) : Bool := (dieOf s d).thermalHold || (dieOf s d).junctionHold

/-- The permit a die runs at: the lower of the governor's and the hold's (01 R31). -/
def diePermit (s : State) (d : Nat) : Nat :=
  if held s d then lowerPermit s (d + 16) (dieOf s d).permit else (dieOf s d).permit

/-- PACE_STATUS (01 R30). -/
def paceStatus (s : State) : Nat :=
  let mn := ((List.range 12).map (diePermit s)).foldl min fullPermit
  let hold := (List.range 8).any (held s)
  2 ^ 31 * b2n (hold || mn < fullPermit) + 2 ^ 30 * b2n hold + 2 ^ 16 * mn + s.mod.pacePower

/-- PACE_CURRENT (01 R30). -/
def paceCurrent (s : State) : Nat := 2 ^ 31 * b2n s.mod.currentLimiting + s.mod.paceCurrent

/-! ## Temperature sensors (14 R375; 08 R242) -/

/-- A sensor. -/
def sensor (s : State) (k : Nat) : Sensor := amGet {} s.hw.sensors k

/-- Change a sensor. -/
def modSensor (s : State) (k : Nat) (f : Sensor → Sensor) : State :=
  { s with hw := { s.hw with sensors := amMod {} s.hw.sensors k f } }

/-- The filtered reading of a sensor: the median of its last three samples, the highest of fewer; none while it is ignored. -/
def reading (x : Sensor) : Option Int :=
  if x.ignored then none
  else match x.samples with
    | [] => none
    | [a] => some a
    | [a, b] => some (max a b)
    | a :: b :: c :: _ => some (max (min a b) (min (max a b) c))

/-- A sensor is ignored, or reads again: both are ledgered with the sensor's index (14 R375, 16 R405). -/
def setIgnored (k n unit : Nat) (v : Bool) (s : State) : State :=
  if (sensor s k).ignored = v then s
  else
    let s := modSensor s k (fun x => { x with ignored := v, samples := [], hot := 0 })
    ledger (uDie unit) (hwOrigin (uDie unit)) 0xE unit (if v then 12 else 13) 0 0 n 0 s

/-- Take one sample of a sensor: within range and not more than a step from the last, or the sensor is ignored (14 R375). -/
def takeSample (k n unit : Nat) (lo hi : Int) (jump : Option Nat) (v : Int) (s : State) : State :=
  let x := sensor s k
  let far := match jump, x.samples with
    | some j, a :: _ => j < (v - a).natAbs
    | _, _ => false
  if v < lo || hi < v || far then setIgnored k n unit true s
  else modSensor (setIgnored k n unit false s) k (fun x => { x with samples := (v :: x.samples).take 3 })

/-- Take the samples of consecutive sensors, numbered from n. -/
def takeSamples (key : Nat → Nat) (unit : Nat → Nat) (lo hi : Int) (jump : Option Nat) : Nat → List Int → State → State
  | _, [], s => s
  | n, v :: vs, s => takeSamples key unit lo hi jump (n + 1) vs (takeSample (key n) n (unit n) lo hi jump v s)

/-- The side that stands for a sensor of a stack: two sensors to each side (DEDUCED, log entry 22). -/
def stackSide (stack n : Nat) : Nat := uid 0xA (stack / 8) (2 * (stack % 8) + n / 2)

/-- Sensors of a stack. -/
def stackSensors (s : State) (stack : Nat) : List Sensor := (List.range 4).map (fun n => sensor s (16 * stack + n))

/-- The hottest sensor of a stack in 0.125 °C. -/
def stackTemp (s : State) (stack : Nat) : Option Int :=
  ((stackSensors s stack).filterMap reading).foldl (fun a v => match a with | none => some v | some x => some (max x v)) none

/-- A temperature in 0.125 °C. -/
def celsius (t : Int) : Int := 8 * t

/-- Whether a stack stands above a temperature: one with an ignored sensor is treated as above 105 °C (14 R375). -/
def stackAbove (s : State) (t : Int) (stack : Nat) : Bool :=
  ((stackSensors s stack).any (·.ignored) && t ≤ celsius 105) || (stackTemp s stack).any (fun v => t < v)

/-- The thermal hold of a die: from a stack above 105 °C until every stack stands at or below 103 °C (01 R31). -/
def thermalHold (d : Nat) (s : State) : State :=
  let own := (List.range 8).map (8 * d + ·)
  if own.any (stackAbove s (celsius 105)) then modDie s d (fun x => { x with thermalHold := true })
  else if !own.any (stackAbove s (celsius 103)) then modDie s d (fun x => { x with thermalHold := false })
  else s

/-- REFRESH of a side (08 R242): it rises as a threshold is crossed and falls 3 K below it. -/
def refreshOf (s : State) (stack old : Nat) : Nat :=
  let lvl (off : Int) : Nat :=
    if stackAbove s (celsius 105 - off) stack then 3 else if stackAbove s (celsius 95 - off) stack then 2
    else if stackAbove s (celsius 85 - off) stack then 1 else 0
  max (lvl 0) (min old (lvl 24))

/-- What follows from the sensors of a stack: the refresh rate, the hold of its die, and its sides' readiness (08 R242; 14
R375). -/
def stackFollows (stack : Nat) (s : State) : State :=
  let all := (stackSensors s stack).all (·.ignored)
  let one (s : State) (side : Nat) : State :=
    let s := modSide s side (fun x => { x with refresh := refreshOf s stack x.refresh })
    let h := health s side
    if all then setReady side false 9 s
    else if !h.ready && h.lastCause = 9 then setReady side true 9 s
    else s
  thermalHold (stack / 8) ([stackSide stack 0, stackSide stack 2].foldl one s)

/-- STACK_SENSOR_SAMPLE: one sample of the four sensors of a stack in 0.125 °C (14 R375; 08 R242). -/
def execStackSensorSample (stack : Fin 64) (readings : List Int) (s : State) : Host.Outcome State Fault Refusal :=
  let k := stack.val
  .next (settle (stackFollows k
    (takeSamples (fun n => 16 * k + n) (stackSide k) (celsius (-20)) (celsius 130) (some 80) 0 (readings.take 4) s)))

/-- Key of a junction sensor. -/
def junctionKey (d n : Nat) : Nat := 2048 + 16 * d + n

/-- Junction sensors of a die. -/
def junctions (s : State) (d : Nat) : List Sensor := (List.range 16).map (fun n => sensor s (junctionKey d n))

/-- The hottest junction sensor of a die. -/
def junctionTemp (s : State) (d : Nat) : Int :=
  ((junctions s d).filterMap reading).foldl max (celsius (-20))

/-- Count how long each sensor has stood above 110 °C, in samples 100 µs apart. -/
def countHot (d : Nat) (s : State) : State :=
  (List.range 16).foldl (fun s n => modSensor s (junctionKey d n) (fun x =>
    { x with hot := if (reading x).any (fun v => celsius 110 < v) then x.hot + 1 else 0 })) s

/-- The junction hold of a die: from a sensor above 110 °C for 1 ms, or an ignored one, until every sensor reads 105 °C or below;
its beginning and end are ledgered (14 R375, 16 R405). -/
def junctionHold (d : Nat) (s : State) : State :=
  let js := junctions s d
  let t := ofInt 64 (junctionTemp s d)
  let set (v : Bool) (code : Nat) : State :=
    ledger d (hwOrigin d) 0xE (uid 0 d 0) code 0 0 t 0 (modDie s d (fun x => { x with junctionHold := v }))
  if (dieOf s d).junctionHold then
    if js.any (·.ignored) || js.any (fun x => (reading x).any (fun v => celsius 105 < v)) then s else set false 11
  else if js.any (·.ignored) || js.any (fun x => 10 < x.hot) then set true 10
  else s

/-- JUNCTION_SENSOR_SAMPLE: one sample of the sixteen junction sensors of a compute die (14 R375). -/
def execJunctionSensorSample (die : CDie) (readings : List Int) (s : State) : Host.Outcome State Fault Refusal :=
  let d := die.val
  .next (settle (junctionHold d (countHot d
    (takeSamples (junctionKey d) (fun _ => uid 0 d 0) (celsius (-20)) (celsius 150) none 0 (readings.take 16) s))))

/-- SENSOR_TIMEOUT: a sensor without a reading for 1 ms is ignored (14 R375). -/
def execSensorTimeout (unit : Word32) (n : Fin 16) (s : State) : Host.Outcome State Fault Refusal :=
  let u := unit.toNat
  let d := uDie u
  .next (settle (
    if uKind u = 0xA && n.val < 4 then
      let k := 8 * d + uInst u / 2
      stackFollows k (setIgnored (16 * k + n.val) n.val (stackSide k n.val) true s)
    else if uKind u = 0 && isCD d then junctionHold d (setIgnored (junctionKey d n.val) n.val (uid 0 d 0) true s)
    else s))

/-! ## Tick calibration and the crystal (01 R23-R25) -/

/-- TICK_CALIBRATION: a die's kernel stores TICK_RATE and BEAT_PS of its blocks; a counter outside ±30 % makes its block not
ready (01 R23, R24). Without the crystal nothing is calibrated (R25). -/
def execTickCalibration (die : Die) (rates : List (Word32 × Word32 × Word16)) (s : State) : Host.Outcome State Fault Refusal :=
  let one (s : State) (r : Word32 × Word32 × Word16) : State :=
    let u := r.1.toNat
    let v := r.2.1.toNat
    if uDie u != die.val then s
    else
      let s := modHealth s u (fun h => { h with tickRate := v, beatPs := if uKind u = 1 then r.2.2.toNat else h.beatPs })
      if v < 700 * 65536 || 1300 * 65536 < v then setReady u false 6 s else s
  .next (settle (
    if !s.mod.crystal then s
    else
      let s := rates.foldl one s
      if die.val = 12 then { s with mod := { s.mod with tickCal := true } } else s))

/-- The LPDDR5X interface, 01 R18. -/
def lpddrUnit : Nat := uid 0 12 6

/-- CRYSTAL_LOSS: the LPDDR5X interface and all tick calibration are not ready; ledgered (01 R25, 16 R405). -/
def execCrystalLoss (s : State) : Host.Outcome State Fault Refusal :=
  .next (settle (
    if !s.mod.crystal then s
    else setReady lpddrUnit false 6 (ledger 12 (hwOrigin 12) 0xE mdBlock 15 0 0 0 0
      { s with mod := { s.mod with crystal := false, tickCal := false } })))

/-- CRYSTAL_RESTORE (01 R25, 16 R405). -/
def execCrystalRestore (s : State) : Host.Outcome State Fault Refusal :=
  .next (settle (
    if s.mod.crystal then s
    else
      let s := ledger 12 (hwOrigin 12) 0xE mdBlock 16 0 0 0 0 { s with mod := { s.mod with crystal := true, tickCal := true } }
      let h := health s lpddrUnit
      if !h.ready && h.lastCause = 6 then setReady lpddrUnit true 6 s else s))

/-! ## Delay gauges and margins (14 R376-R381) -/

/-- The 338 regions of a compute die (14 R376). -/
def regions (d : Nat) : List Nat := unitsOf 2 d 256 ++ unitsOf 3 d 64 ++ unitsOf 9 d 16 ++ [uid 7 d 0, uid 8 d 0]

/-- Whether a unit is a region of its die. -/
def isRegion (u : Nat) : Bool := uidValid u && [2, 3, 9, 7, 8].contains (uKind u)

/-- Tap setting of a region, kept in flash (14 R377, R379). -/
def tapOf (s : State) (u : Nat) : Nat := amGet 0 s.flash.taps u
/-- Core rail of a compute die in mV, kept in flash (14 R367, R377). -/
def railOf (s : State) (d : Nat) : Nat := amGet 720 s.flash.rails d

/-- A margin action on a unit joins an open window of the unit as its winner (02 R65; 14 R384). -/
def marginAct (u : Nat) (s : State) : State :=
  actOn (.unit (BitVec.ofNat 32 u)) ⟨kernelOrigin (uDie u), 0, 7, 0, none⟩ s

/-- Set a region's tap; ledgered and stored in flash (14 R378, R379). -/
def setTap (origin u v : Nat) (s : State) : State :=
  ledger (uDie u) origin 7 u 0 0 (tapOf s u) v 0
    (marginAct u { s with flash := { s.flash with taps := amPut s.flash.taps u v } })

/-- Set a die's core rail; ledgered and stored in flash (14 R379). -/
def setRail (origin d v : Nat) (s : State) : State :=
  ledger d origin 7 (uid 0 d 0) 1 0 (railOf s d) v 0 { s with flash := { s.flash with rails := amPut s.flash.rails d v } }

/-- Retire a region, or the die-level logic of a die, with which every unit of the die is not ready (14 R380). -/
def retire (origin u : Nat) (s : State) : State :=
  let d := uDie u
  if uKind u = 0 then
    let s := ledger d origin 7 u 2 0 0 1 0 (modDie s d (fun x => { x with dieRetired := true, state := 4 }))
    (dieUnits d).foldl (fun s v => setReady v false 4 s) s
  else setReady u false 4 (ledger d origin 7 u 2 0 0 1 0 (marginAct u (modHealth s u (fun h => { h with retired := true, probation := false }))))

/-- A gauge reads negative slack: the tap rises, or the region is retired (14 R378). -/
def gaugeTrip (u : Nat) (s : State) : State :=
  let o := kernelOrigin (uDie u)
  let s := count s (uid 0 (uDie u) 0) 0x48 1
  if tapOf s u < 7 then setTap o u (tapOf s u + 1) s else retire o u s

/-- Keep the lower slack. -/
def lowerSlack (v : Int) : Option Int → Option Int
  | none => some v
  | some x => some (min x v)

/-- One gauge reading: of a region, or of the die-level logic under the die block's unit ID (14 R376, R378). -/
def gaugeOne (d : Nat) (s : State) (r : Word32 × Int) : State :=
  let u := r.1.toNat
  if uDie u != d then s
  else if u = uid 0 d 0 then modDie s d (fun x => { x with dieSlack := lowerSlack r.2 x.dieSlack })
  else if !isRegion u || (health s u).retired then s
  else
    let s := modHealth s u (fun h => { h with minSlack := lowerSlack r.2 h.minSlack })
    if r.2 < 0 then gaugeTrip u s else s

/-- GAUGE_READ: the kernel reads gauges each 1 ms and keeps each region's minimum (14 R376, R378). -/
def execGaugeRead (die : CDie) (slack : List (Word32 × Int)) (s : State) : Host.Outcome State Fault Refusal :=
  .next (settle (slack.foldl (gaugeOne die.val) s))

/-- MARGIN_CFG of a die (14 R381). -/
def marginCfgOf (s : State) (d : Nat) : Nat := item s (uid 0 d 0) 0x90
/-- GUARD_PS. -/
def guardPs (s : State) (d : Nat) : Int := (bits (marginCfgOf s d) 0 8 : Nat)

/-- The origin of the margin planner's gate calls: general firmware on no ring of MD (13 R353, 14 R379). -/
def plannerOrigin : Nat := 0x380C

/-- The planner's tap steps on the short regions: a region stays short where its tap cannot rise (14 R379). -/
def planTaps (fpoint : List Nat) : List Nat → State → State × List Nat
  | [], s => (s, [])
  | g :: gs, s =>
    if tapOf s g < 7 && fpoint.contains g then planTaps fpoint gs (setTap plannerOrigin g (tapOf s g + 1) s)
    else
      let (s, l) := planTaps fpoint gs s
      (s, g :: l)

/-- Whether a slack is below a bound. -/
def slackBelow (b : Int) : Option Int → Bool
  | none => false
  | some v => v < b

/-- The actions of one plan (14 R379, R380). Retired regions are not planned for; die-level logic that is short has no tap. -/
def planActions (d : Nat) (fpoint : List Nat) (s : State) : State :=
  let g := guardPs s d
  let live := (regions d).filter (fun u => !(health s u).retired)
  let short := live.filter (fun u => slackBelow g (health s u).minSlack)
  let dieShort := !(dieOf s d).dieRetired && slackBelow g (dieOf s d).dieSlack
  let (s, left) := planTaps fpoint short s
  if !left.isEmpty || dieShort then
    if railOf s d < 800 then setRail plannerOrigin d (railOf s d + 5) s
    else
      let s := left.foldl (fun s u => retire plannerOrigin u s) s
      if dieShort then retire plannerOrigin (uid 0 d 0) s else s
  else if short.isEmpty && 6 ≤ (dieOf s d).calmPlans && 680 < railOf s d then setRail plannerOrigin d (railOf s d - 5) s
  else s

/-- Whether every region has at least three times the guard (14 R379). -/
def calm (s : State) (d : Nat) : Bool :=
  (regions d).all (fun u => (health s u).retired || match (health s u).minSlack with | none => false | some v => 3 * guardPs s d ≤ v)

/-- MARGIN_PLAN: one plan of a compute die, applied with AUTO 1 and only reported with AUTO 0 (14 R379, R381, R385). `fpointOk` are
the regions that keep their F-point ratings one tap higher, `lifeDays` the projected life. -/
def execMarginPlan (die : CDie) (fpointOk : List Word32) (lifeDays : Word16) (s : State) : Host.Outcome State Fault Refusal :=
  let d := die.val
  .next (settle (
    if !kernelRuns s then s
    else
      let c := if calm s d then (dieOf s d).calmPlans + 1 else 0
      let s := modDie s d (fun x => { x with calmPlans := c, lifeDays := lifeDays.toNat })
      let s := count s (uid 0 d 0) 0x14 1
      let s := if bit (marginCfgOf s d) 16 then planActions d (fpointOk.map (·.toNat)) s else s
      let s := (regions d).foldl (fun s u => modHealth s u (fun h => { h with minSlack := none })) s
      modDie s d (fun x => { x with dieSlack := none })))

/-! ## Self-test (14 R382) -/

/-- Whole device, unit ID 0x0C00_0000. -/
def wholeDevice : Nat := mdBlock

/-- The unit kinds SELFTEST_UNIT accepts (14 R382). -/
def testable (u : Nat) : Bool := uidValid u && (u = wholeDevice || [1, 2, 3, 9, 7, 8, 0xA, 0xD].contains (uKind u))

/-- Whether a partition holds and does nothing. -/
def partIdle (pt : Part) : Bool := pt.exec.isNone && pt.queue.isEmpty && pt.x.isNone && pt.y.isNone

/-- The partition that holds a field under its engine's shape (04 R98). -/
def fieldPart (s : State) (u : Nat) : Nat :=
  let e := fieldEngine u
  let sh := shapeOf s e
  ((List.range (shapeDims sh).1).find? (fun p => (partFields sh p).contains (uInst u % 16))).getD 0

/-- Whether a unit is idle: no command executing or queued, no result held, and for a drover no launch (14 R382). -/
def unitIdle (s : State) (u : Nat) : Bool :=
  match uKind u with
  | 1 => (engineOf s u).parts.all (fun p => partIdle p.2)
  | 2 => partIdle (partOf s (fieldEngine u) (fieldPart s u))
  | 3 => (droverOf s (drvKey (uDie u) (uInst u))).job.isNone
  | 0xA => true
  | 0xD => true
  | _ => !s.gz.jobs.any (fun j => j.unit == u && (match j.phase with | .ending _ => false | .waitReady => false | _ => true))

/-- Every unit that a whole-device test tests (14 R382). -/
def testedUnits : List Nat :=
  (List.range 8).flatMap (fun d =>
    unitsOf 1 d 16 ++ unitsOf 2 d 256 ++ unitsOf 3 d 64 ++ unitsOf 9 d 16 ++ [uid 7 d 0, uid 8 d 0] ++ unitsOf 0xA d 16)

/-- Make a range of memory read zero, its poison and undefined parts gone (11 R290). -/
def zeroRange (a n : Nat) (s : State) : State :=
  { s with mem := { s.mem with
    cells := s.mem.cells.filter (fun c => c.1 < a || a + n ≤ c.1)
    poison := s.mem.poison.filter (fun b => 32 * b + 32 ≤ a || a + n ≤ 32 * b)
    undef := undefCut a n s.mem.undef } }

/-- Ledger the start, pass or failure of a test (14 R382). -/
def testEntry (u code : Nat) (s : State) : State := ledger (uDie u) (kernelOrigin (uDie u)) 6 u 3 0 0 0 code s

/-- A unit passes its test: it is ready again, or enters probation; a retired one stays out (14 R380, R382, R385). -/
def testPassed (u : Nat) (was : Bool) (s : State) : State :=
  let s := testEntry u 0 s
  if was then setReady u true 3 s
  else if (health s u).retired then s
  else modHealth s u (fun h => { h with probation := true, shadow := 0, quarantined := false, failed := false })

/-- A unit fails its test, or a slice: the failure is counted and ledgered and the unit is quarantined (14 R382, R383). -/
def testFailed (u code : Nat) (s : State) : State :=
  let s := modHealth s u (fun h => { h with lastTest := code })
  let s := testEntry u code (count s (uid 0 (uDie u) 0) 0x40 1)
  quarantine u s

/-- Test one idle unit (14 R382). -/
def testUnit (full : Bool) (fails : List (Word32 × Word16)) (u : Nat) (s : State) : State :=
  let was := (health s u).ready
  let s := testEntry u 0 s
  let s := setReady u false 3 s
  let s := if full && uKind u = 3 then zeroRange (scratchBase (drvKey (uDie u) (uInst u))) 0x100000 s else s
  match fails.find? (fun f => f.1.toNat == u) with
  | some f => testFailed u f.2.toNat s
  | none => testPassed u was s

/-- The refusals of a self-test at the close of its window (14 R382; 02 R57). -/
def testStop (s : State) (u : Nat) (full : Bool) : Option End :=
  if u = wholeDevice then
    if s.gz.jobs.any (fun j => 256 ≤ j.ring) then some (fails BUSY_DEFER 2) else none
  else if uKind u = 3 && full && s.gz.ctxs.any (fun c => c.1 != 0 && c.2.live && c.2.extents.any (fun e =>
      let b := scratchBase (drvKey (uDie u) (uInst u))
      e.2.limit != 0 && e.2.base < b + 0x100000 && b < e.2.limit)) then some (fails BAD_STATE 0x20)
  else none

/-- Run a self-test whose unit is idle, or let it wait; a port retrains and then runs its probation (14 R382). -/
def runTest (p : PSelftest) (f : Faults) (s : State) : State × (End ⊕ Phase) :=
  let u := p.unitId.toNat
  let full := p.level = 1 || u = wholeDevice
  if u = wholeDevice then
    if !testedUnits.all (unitIdle s) then (s, .inr .waitIdle)
    else
      let s' := testedUnits.foldl (fun s v => testUnit true f.testFails v s) s
      (s', .inl (done (testedUnits.filter (fun v => f.testFails.any (fun x => x.1.toNat == v))).length))
  else if uKind u = 0xD then
    let st := (portOf s u).state
    let s := testEntry u 0 s
    if st = 0 || st = 1 || st = 7 then (testEntry u 1 s, .inl (unitFault u)) else (setPort u 3 s, .inr .retrain)
  else if !unitIdle s u then (s, .inr .waitIdle)
  else
    let s' := testUnit full f.testFails u s
    (s', .inl (if f.testFails.any (fun x => x.1.toNat == u) then unitFault u else done 0))

/-- A self-test at the close of its window (02 R57; 14 R382). -/
def selftestApply (p : PSelftest) (f : Faults) (origin : Nat) (s : State) : State × (End ⊕ Phase) :=
  let u := p.unitId.toNat
  match testStop s u (p.level = 1) with
  | some e => (callRefused (uDie u) origin u 0 0 e s, .inl e)
  | none => runTest p f s

/-- Let the self-tests that wait for an idle unit try again (14 R382). -/
def retryTests (s : State) : State :=
  s.gz.jobs.foldl (fun s j => match j.cmd, j.phase with
    | .selftestUnit _ p f, .waitIdle => outcome j (runTest p f s)
    | _, _ => s) s

/-- Checks of SELFTEST_UNIT (02 R54; 14 R382). -/
def preSelftest (h : Hdr) (p : PSelftest) (s : State) : Pre :=
  { preCore h s with
    fields := [(0x20, testable p.unitId.toNat), (0x24, p.level.toNat < 2)]
    units := [(0x20, p.unitId.toNat)] }

/-- SELFTEST_UNIT (02 R53): an order on its unit. -/
def execSelftestUnit (h : Hdr) (p : PSelftest) (f : Faults) (s : State) : Host.Outcome State Fault Refusal :=
  .next (issue (preSelftest h p s) (runOrder (.unit p.unitId)) (.selftestUnit h p f) s)

/-! ## Rotation and probation (14 R383, R385) -/

/-- INTERVAL of ROTATE_CFG in ticks (14 R383). -/
def rotateInterval (s : State) (d : Nat) : Nat := bits (item s (uid 0 d 0) 0x91) 8 8 * 3600000000000

/-- Whether no command executes on a unit at this moment: it stands at a pass or descriptor boundary. -/
def betweenOps (s : State) (u : Nat) : Bool := uKind u != 1 || (engineOf s u).parts.all (fun p => p.2.exec.isNone)

/-- Whether a whole-device test waits or runs, which suspends rotation (14 R383). -/
def rotationHeld (s : State) : Bool :=
  s.gz.jobs.any (fun j => match j.cmd, j.phase with
    | .selftestUnit _ p _, .waitIdle => p.unitId.toNat = wholeDevice
    | _, _ => false)

/-- Whether a unit can take a slice: it is idle, or at a boundary once no slice of it has run for twice INTERVAL (14 R383). -/
def sliceOk (s : State) (u : Nat) : Bool :=
  let us := if uKind u = 3 then (List.range 8).map (u + ·) else [u]
  us.all (unitIdle s) || (us.all (betweenOps s) && uKind u != 3 && 2 * rotateInterval s (uDie u) ≤ s.now - (health s u).slicedAt)

/-- ROTATION_SLICE: one slice of a unit's full test in rotation (14 R383). A drover group is named by its first drover. `last` says
that the slice completes the die's cycle. -/
def execRotationSlice (unit : Word32) (passed : Bool) (code : Word16) (last : Bool) (s : State) : Host.Outcome State Fault Refusal :=
  let u := unit.toNat
  let d := uDie u
  .next (settle (
    if !kernelRuns s || !isCD d || !uidValid u || !([1, 3, 7, 8, 9].contains (uKind u)) || rotationHeld s || !sliceOk s u then s
    else
      let s := modHealth (count s (uid 0 d 0) 0x30 1) u (fun h => { h with slicedAt := s.now })
      let s := if passed then s else testFailed u code.toNat s
      if last then count s (uid 0 d 0) 0x38 1 else s))

/-- The engine whose live pass a probation engine copies: the lowest-numbered ready one with a pass in execution (14 R385). -/
def shadowSource (s : State) (d : Nat) : Option Nat :=
  (unitsOf 1 d 16).find? (fun u => unitReady s u && (engineOf s u).parts.any (fun p => p.2.exec.isSome))

/-- PROBATION_SHADOW_OP: a shadow operation of a unit on probation matches or not (14 R385). The 1,000th match in a row makes the
unit ready; a mismatch restarts the count and charges 8 points. -/
def execProbationShadowOp (unit : Word32) (passed : Bool) (s : State) : Host.Outcome State Fault Refusal :=
  let u := unit.toNat
  .next (settle (
    if !(health s u).probation then s
    else
      let s := if uKind u = 1 then match shadowSource s (uDie u) with
          | some e => modEngine s u (fun x => { x with shape := shapeOf s e })
          | none => s
        else s
      if passed then
        let n := (health s u).shadow + 1
        if n < 1000 then modHealth s u (fun h => { h with shadow := n })
        else setReady u true 7 (modHealth s u (fun h => { h with shadow := 0, probation := false, points := 0, chargedAt := s.now }))
      else charge u 8 (modHealth s u (fun h => { h with shadow := 0 }))))

/-! ## Retraining ends (08 R244-R246) -/

/-- Take RETRAIN_COMPLETE's effect on its channel and side: training ends and the next due channel trains (08 R243, R244). -/
def retrainDone (ch : Nat) (passed : Bool) (s : State) : State :=
  let side := channelSide ch
  if (sideOf s side).retraining = some ch then nextRetrain side (endTraining ch passed s) else s

end Sys2Proof.Machine
end

