-- ==== Sys2Proof/Machine/Module.lean ====
section
/-! DEFINITION. The module (16): start and boot (13 R344, R345; 14 R367-R369), stops (13 R365, R366; 16 R402-R406), input
warnings, insertion and the test port. -/

namespace Sys2Proof.Machine

/-! ## The state at power-on -/

/-- Firmware area of compute die d: the second GiB of side A of MS(8d) (02 R34). -/
def fwArea (d : Nat) : Nat := 8 * d * 2 ^ 36 + 0x40000000

/-- Extent entry d of context 0 (02 R34). -/
def ctx0Extent (d : Nat) : Extent := { base := fwArea d, limit := fwArea d + 0x40000000, perms := 0xF, aff := 0x1FFF }

/-- Ring r of context 0, r ≤ 15 (02 R34). -/
def ctx0Ring (r : Nat) : Ring :=
  let b := fwArea (r % 8) + r * 0x20000
  { cmdBase := b, replyBase := b + 0x10000, cmdLog2 := 16, replyLog2 := 14, home := r % 8, prioMax := 15, remote := r = 2 }

/-- Context 0 as the kernel sets it up; `seq` is the SEQ of the boot entry (02 R34). -/
def ctx0 (seq : Nat) : Ctx :=
  { live := true, perms := 0xF, defTimeout := 100000, allUnits := true
    extents := (List.range 8).map (fun d => (d, ctx0Extent d)), chk := { createdSeq := seq } }

/-- The state with everything that power feeds at its reset value; flash, the module's pins, the clock and the queue stay. -/
def coldState (s : State) : State :=
  { pending := s.pending, now := s.now, free := s.free, mod := s.mod, flash := s.flash }

/-- The channels that flash records as out, as the stacks start with them (14 R370). -/
def coldMemory (s : State) : State :=
  let m (s : State) (c : Nat × ChanState) : State :=
    modSide (modChan s c.1 (fun x => { x with state := c.2 })) (channelSide c.1) (fun d =>
      let out := insertSorted (chanNo c.1) d.out
      { d with out := out, populated := (512 - out.length) * chanBytes })
  s.flash.badChans.foldl m s

/-! ## Boot (13 R344) -/

/-- The slots that the ROM tries, in order: the one marked next, then the active one (13 R344). -/
def bootSlots (s : State) : List Nat :=
  [0, 1].filter (fun n => (fwSlot s n).state == .next) ++ [0, 1].filter (fun n => (fwSlot s n).state == .active)

/-- A slot marked next that failed is valid again, and its fallback is to be ledgered (13 R344). -/
def fallBack (n : Nat) (s : State) : State :=
  if (fwSlot s n).state == .next then
    let s := setSlot n (unmark (fwSlot s n)) s
    { s with flash := { s.flash with fellBack := s.flash.fellBack ++ [n] } }
  else s

/-- The slot that boots becomes active and the other active one valid (13 R344). -/
def activate (n : Nat) (s : State) : State :=
  let o := fwSlot s (1 - n)
  let s := setSlot n { fwSlot s n with state := .active } s
  if o.state == .active then setSlot (1 - n) { o with state := .valid } s else s

/-- An entry of the kernel of MD. -/
def mdEntry (reason object field old new aux : Nat) (s : State) : State :=
  ledger 12 (kernelOrigin 12) reason object field 0 old new aux s

/-- Order 6: the ledger opens, its first entries record a recovery, the boot, a sequence gap, fallbacks and latched stop causes;
the slot is active and the fuse follows its security version (13 R343-R345, R357, R366; 14 R368). -/
def openLedger (s : State) : State :=
  let n := s.tr.bootSlot
  let last := lastSeq s
  let clean := s.flash.cleanStop
  let first := if clean then (if s.flash.archive.isEmpty then 0 else last + 1) else s.flash.seqBlock * 4096
  let fl := s.flash
  let s := { s with
    tr := { s.tr with ledgerOpen := true, booting := false, nextSeq := first }
    flash := { fl with boots := fl.boots + 1, cleanStop := false, recovered := false, latchedCauses := [], fellBack := [] } }
  let s := if fl.recovered then mdEntry 0xB n 5 0 1 s.tr.fwVersion s else s
  let boot := s.tr.nextSeq
  let s := mdEntry 0xB n 0 0 s.tr.dieMatch s.tr.fwVersion s
  let s := if clean then s else mdEntry 0x11 s.flash.nextPage 0 0 0 last s
  let s := fl.fellBack.foldl (fun s k => mdEntry 0xB k 2 0 0 (fwSlot s k).fwVersion s) s
  let s := fl.latchedCauses.foldl (fun s e => ledgerEv 12 e s) s
  let s := activate n s
  let sec := (fwSlot s n).security
  let s := if s.flash.security < sec then
      mdEntry 0xB n 3 s.flash.security sec s.tr.fwVersion { s with flash := { s.flash with security := sec } }
    else s
  let s := { s with gz := { s.gz with ctxs := [(0, ctx0 boot)], rings := (List.range 16).map (fun r => (r, ctx0Ring r)) } }
  let s := (List.range 13).foldl (fun s d => modDie s d (fun x => { x with state := if bit s.tr.dieMatch d then 1 else 3 })) s
  let s := setItem s mdBlock 0x101 s.flash.mgmtNet
  if s.mod.bankOk then s
  else ledger 12 (kernelOrigin 12) 6 (kernelCore 12) 3 0 0 0 0
    (modHealth s (kernelCore 12) (fun h => { h with brought := true, failed := true, lastCause := 1 }))

/-- The ROM has measured the kernel of a slot and starts it (13 R344 order 3). -/
def runSlot (n : Nat) (s : State) : State :=
  let x := fwSlot s n
  { s with tr := { s.tr with bootSlot := n, fwVersion := x.fwVersion, kernelDigest := x.kernelDigest, fwDigest := x.fwDigest } }

/-- No slot verifies: recovery mode, RUNNING with FAULT_N low (13 R345, 16 R402). -/
def enterRecovery (s : State) : State :=
  { s with
    mod := { s.mod with recovery := true, faultN := false }
    flash := { s.flash with recovered := true } }

/-- The ROM tries the slots of a list (13 R344 orders 2 and 3). -/
def tryBoot (b : BootReport) : List Nat → State → State
  | [], s => enterRecovery s
  | n :: ns, s =>
    if (if n = 0 then b.verify0 else b.verify1) then
      let s := runSlot n s
      if b.reached then openLedger s else { s with tr := { s.tr with booting := true } }
    else tryBoot b ns (fallBack n s)

/-- MODULE_START: EN high and VIN in range. The rails ramp, PGOOD rises and the ROM boots; a rail that fails latches the module
off (14 R367-R369; 13 R344). A rise of EN within 100 ms of PGOOD low is ignored. -/
def execModuleStart (b : BootReport) (s : State) : Host.Outcome State Fault Refusal :=
  let early := !s.mod.en && s.mod.pgoodLow.any (fun t => s.now - t < 100000000)
  .next (settle (
    if s.mod.power != .off || early then s
    else
      let s := coldState s
      let s := { s with mod := { s.mod with en := true, charged := true, connected := true, pgoodLow := none, bankOk := b.bankOk } }
      if !b.railsOk then
        { s with
          mod := { s.mod with power := .latched, faultN := false }
          flash := { s.flash with latchedCauses := s.flash.latchedCauses ++ [mkEv (hwOrigin 12) 0xE mdBlock 6 0 0 0 0] } }
      else
        let s := { s with
          mod := { s.mod with power := .running, pgood := true }
          tr := { s.tr with dieMatch := b.dieMatch.toNat } }
        tryBoot b (bootSlots s) (coldMemory s)))

/-- BOOT_FALLBACK_TIMEOUT: the kernel of a slot marked next has not reached order 6 within 10 s; the ROM falls back to the active
slot (13 R344). -/
def execBootFallbackTimeout (s : State) : Host.Outcome State Fault Refusal :=
  .next (settle (
    if !s.tr.booting || s.mod.power != .running then s
    else
      let n := s.tr.bootSlot
      if (fwSlot s n).state == .next then
        let s := fallBack n { s with tr := { s.tr with booting := false } }
        match bootSlots s with
        | a :: _ => openLedger (runSlot a s)
        | [] => enterRecovery s
      else enterRecovery { s with tr := { s.tr with booting := false } }))

/-- RECOVERY_IMAGE: in recovery mode the management port takes an image for a slot; one that verifies is written, and the module
restarts (13 R345). -/
def execRecoveryImage (slot : Fin 2) (image : List Byte) (cryptoBad : Bool) (s : State) : Host.Outcome State Fault Refusal :=
  .next (settle (
    if !s.mod.recovery || !imageOk s image cryptoBad then s
    else
      let s := writeImage slot.val image s
      coldState { s with mod := { s.mod with power := .off, pgood := false, recovery := false, faultN := true } }))

/-! ## Stops (13 R365; 16 R402-R406) -/

/-- The commands that report a cause of a stop. -/
def isStopCause : Instr → Bool
  | .railFault _ _ => true
  | .enLow => true
  | .vinUndervoltageStop _ => true
  | .vinOvervoltageDisconnect _ => true
  | .overcurrentStop _ => true
  | .thermalTrip _ _ => true
  | _ => false

/-- A stop's cause as its ledger entry (16 R405). -/
def causeEntry (code object : Nat) (v : Nat) : LedgerEvent := mkEv (hwOrigin 12) 0xE object code 0 0 v 0

/-- The stages keep a cause for the next boot that opens the ledger (14 R368, 16 R400). -/
def latchCause (e : LedgerEvent) (s : State) : State :=
  { s with flash := { s.flash with latchedCauses := s.flash.latchedCauses ++ [e] } }

/-- The module is off, or latched off: everything powered is at its reset value (16 R402). -/
def powerDown (latch : Bool) (s : State) : State :=
  let s := coldState s
  { s with mod := { s.mod with
    power := if latch then .latched else .off
    pgood := false
    faultN := !latch
    recovery := false
    tickCal := false
    currentLimiting := false
    pacePower := 0
    paceCurrent := 0
    stopCauses := []
    latch := false
    railsCut := false } }

/-- Order 1: every data-plane unit stops; nothing that was in flight goes on (13 R365). -/
def stopUnits (s : State) : State :=
  { s with
    gz := { s.gz with rings := [], jobs := [], served := [], windows := [] }
    mem := {}, mm := [], ws := [], dir := {}, cf := [], ver := [], dma := [], sig := {}, drv := [], chains := [], link := {},
    grp := {}, snap := [], net := [] }

/-- Write every held page to flash (13 R365 order 4). -/
def archiveHeld : List Page → State → State
  | [], s => s
  | p :: ps, s => archiveHeld ps (archivePut p { s with tr := { s.tr with held := ps } })

/-- Orders 2 to 5: the entries on their way reach MD, unless the rails were cut; the causes are ledgered in the order granted; the
page is sealed, every page archived, and PGOOD falls (13 R365, R366; 16 R404, R406). -/
def finishStop (s : State) : State :=
  let lost := s.mod.railsCut && !s.tr.inTransit.isEmpty
  let moving := if s.mod.railsCut then [] else s.tr.inTransit
  let s := { s with tr := { s.tr with inTransit := [] } }
  let s := moving.foldl (fun s e => appendEntry e.2 s) s
  let s := s.mod.stopCauses.foldl (fun s e => ledgerEv 12 e s) s
  let enOnly := s.mod.stopCauses.all (fun e => e.field.toNat = 7)
  let s := closePage (if enOnly then 4 else 3) (sealPage (if enOnly then 4 else 3) s)
  let s := archiveHeld s.tr.held s
  let s := { s with flash := { s.flash with cleanStop := !lost } }
  let s := if s.mod.en then s else { s with mod := { s.mod with pgoodLow := some s.now } }
  powerDown s.mod.latch s

/-- Whether another cause of a stop stands next in the queue: the two coincide (16 R406). -/
def coincides (s : State) : Bool := match s.pending with | c :: _ => isStopCause c | [] => false

/-- A cause stops the module (13 R365; 16 R402-R406). The sequence runs once, through all the causes that coincide. Before the
ledger opens, every rail is switched off and the stages keep the cause. -/
def stopModule (e : LedgerEvent) (latch cut : Bool) (s : State) : State :=
  match s.mod.power with
  | .off => if latch then powerDown true (latchCause e s) else s
  | .latched => s
  | p =>
    if !s.tr.ledgerOpen then
      let s := if s.mod.en then s else { s with mod := { s.mod with pgoodLow := some s.now } }
      powerDown latch (latchCause e s)
    else
      let s := if p == .running then stopUnits s else s
      let s := { s with mod := { s.mod with
        power := .stopping
        stopCauses := s.mod.stopCauses ++ [e]
        latch := s.mod.latch || latch
        railsCut := s.mod.railsCut || cut
        faultN := s.mod.faultN && !latch } }
      if coincides s then s else finishStop s

/-- RAIL_FAULT while running: the stages switch every rail off at once and keep the cause; nothing is sealed (14 R368, 16 R403). -/
def execRailFault (die : Die) (rail : Nat) (s : State) : Host.Outcome State Fault Refusal :=
  .next (settle (
    if s.mod.power == .off || s.mod.power == .latched then s
    else powerDown true (latchCause (causeEntry 6 (uid 0 die.val 0) rail) (s.mod.stopCauses.foldl (fun s e => latchCause e s) s))))

/-- EN_LOW: the stop sequence with SEAL_REASON 4; THERMTRIP_N is released (14 R369; 16 R398, R403). -/
def execEnLow (s : State) : Host.Outcome State Fault Refusal :=
  let s := { s with mod := { s.mod with en := false, thermtripN := true } }
  .next (settle (stopModule (causeEntry 7 mdBlock 0) false false s))

/-- VIN_UNDERVOLTAGE_WARNING: VIN below 39.0 V for 1 ms is ledgered (14 R375, 16 R405). -/
def execVinUndervoltageWarning (mv : Nat) (s : State) : Host.Outcome State Fault Refusal :=
  .next (settle (if s.tr.ledgerOpen then ledgerEv 12 (causeEntry 1 mdBlock mv) s else s))

/-- VIN_OVERVOLTAGE_WARNING: VIN above 48.0 V for 1 ms is ledgered (14 R375, 16 R405). -/
def execVinOvervoltageWarning (mv : Nat) (s : State) : Host.Outcome State Fault Refusal :=
  .next (settle (if s.tr.ledgerOpen then ledgerEv 12 (causeEntry 2 mdBlock mv) s else s))

/-- VIN_UNDERVOLTAGE_STOP: VIN below 37.0 V for 100 µs (14 R375, 16 R403). -/
def execVinUndervoltageStop (mv : Nat) (s : State) : Host.Outcome State Fault Refusal :=
  .next (settle (stopModule (causeEntry 3 mdBlock mv) false false s))

/-- VIN_OVERVOLTAGE_DISCONNECT: VIN above 52.0 V for 10 µs: the input is disconnected and the module stops, latched (14 R375, 16
R403). -/
def execVinOvervoltageDisconnect (mv : Nat) (s : State) : Host.Outcome State Fault Refusal :=
  let s := { s with mod := { s.mod with connected := false } }
  .next (settle (stopModule (causeEntry 4 mdBlock mv) true false s))

/-- OVERCURRENT_STOP: above 440 A for 100 µs, latched; the current in 0.1 A (14 R375, 16 R403). -/
def execOvercurrentStop (deciAmps : Nat) (s : State) : Host.Outcome State Fault Refusal :=
  .next (settle (if s.mod.power == .off then s else stopModule (causeEntry 5 mdBlock deciAmps) true false s))

/-- THERMAL_TRIP: the rails of every compute and pass die are cut, THERMTRIP_N falls, and MD stops on hold-up, latched (16 R403,
R404). -/
def execThermalTrip (unit : Word32) (temp : Int) (s : State) : Host.Outcome State Fault Refusal :=
  let u := unit.toNat
  .next (settle (
    if s.mod.power == .off || s.mod.power == .latched then s
    else
      let s := { s with mod := { s.mod with thermtripN := false } }
      stopModule (causeEntry (if uKind u = 0xA then 8 else 9) u (ofInt 64 temp)) true true s))

/-- MODULE_INSERTION: the input limiter charges the capacitance of a module inserted with EN low; no rail starts (16 R401). -/
def execModuleInsertion (s : State) : Host.Outcome State Fault Refusal :=
  .next (settle (if s.mod.en then s else { s with mod := { s.mod with charged := true } }))

/-- LATCHED_FAULT_CLEAR: EN has been low for 100 ms; the module is OFF and FAULT_N is released (16 R402, R403). -/
def execLatchedFaultClear (s : State) : Host.Outcome State Fault Refusal :=
  .next (settle (
    if s.mod.power != .latched then s
    else { s with mod := { s.mod with power := .off, en := false, faultN := true, thermtripN := true, connected := true } }))

/-! ## The test port (16 R398) -/

/-- IDCODE (16 R398). -/
def idcode : Nat := 0x17364B4B

/-- Instruction codes of the test port (IEEE 1149.1; PRESUMED, log entry 23): IDCODE and BYPASS. -/
def irIdcode : Nat := 1
def irBypass : Nat := 15

/-- The next state of the TAP controller (IEEE 1149.1). -/
def tapNext (t : Tap) (tms : Bool) : Tap :=
  match t, tms with
  | .reset, true => .reset
  | .reset, false => .idle
  | .idle, false => .idle
  | .idle, true => .selDr
  | .selDr, false => .capDr
  | .selDr, true => .selIr
  | .capDr, false => .shiftDr
  | .capDr, true => .exit1Dr
  | .shiftDr, false => .shiftDr
  | .shiftDr, true => .exit1Dr
  | .exit1Dr, false => .pauseDr
  | .exit1Dr, true => .updDr
  | .pauseDr, false => .pauseDr
  | .pauseDr, true => .exit2Dr
  | .exit2Dr, false => .shiftDr
  | .exit2Dr, true => .updDr
  | .updDr, false => .idle
  | .updDr, true => .selDr
  | .selIr, false => .capIr
  | .selIr, true => .reset
  | .capIr, false => .shiftIr
  | .capIr, true => .exit1Ir
  | .shiftIr, false => .shiftIr
  | .shiftIr, true => .exit1Ir
  | .exit1Ir, false => .pauseIr
  | .exit1Ir, true => .updIr
  | .pauseIr, false => .pauseIr
  | .pauseIr, true => .exit2Ir
  | .exit2Ir, false => .shiftIr
  | .exit2Ir, true => .updIr
  | .updIr, false => .idle
  | .updIr, true => .selDr

/-- The bits of a number, lowest first. -/
def bitsOf (n v : Nat) : List Bool := (List.range n).map (bit v)

/-- The number that bits spell, lowest first. -/
def ofBits (l : List Bool) : Nat := l.foldr (fun b n => b2n b + 2 * n) 0

/-- What a clock does to the registers of the test port in a state of its controller (IEEE 1149.1): only IDCODE and BYPASS are
offered (14 R375, 16 R398). -/
def tapAct (m : ModuleSt) (tdi : Bool) : ModuleSt :=
  match m.tap with
  | .reset => { m with tapIr := irIdcode }
  | .capDr => { m with tapShift := if m.tapIr = irIdcode then bitsOf 32 idcode else [false] }
  | .shiftDr => { m with tapShift := m.tapShift.drop 1 ++ [tdi] }
  | .capIr => { m with tapShift := bitsOf 4 1 }
  | .shiftIr => { m with tapShift := m.tapShift.drop 1 ++ [tdi] }
  | .updIr => { m with tapIr := if ofBits m.tapShift = irIdcode then irIdcode else irBypass }
  | _ => m

/-- TEST_PORT_CLOCK: one period of TCK with the levels of TMS, TDI and TRST_N (16 R398, 14 R375; PRESUMED, log entry 23). -/
def execTestPortClock (tms tdi trstN : Bool) (s : State) : Host.Outcome State Fault Refusal :=
  .next (settle (
    if !s.mod.pgood then s
    else if !trstN then { s with mod := { s.mod with tap := .reset, tapIr := irIdcode, tapShift := [], tdo := false } }
    else
      let m := tapAct s.mod tdi
      let t : Tap := tapNext m.tap tms
      let m := { m with tap := t, tapIr := if t == Tap.reset then irIdcode else m.tapIr }
      { s with mod := { m with tdo := if t == Tap.shiftDr || t == Tap.shiftIr then m.tapShift.headD false else false } }))

end Sys2Proof.Machine
end

