-- ==== Sys2Proof/Machine/Contexts.lean ====
section
/-! DEFINITION. CTX_CREATE and CTX_DESTROY (02 R33-R37, R416; 05 R146; 08 R235, R236): the three tables, and how a context
ends. -/

namespace Sys2Proof.Machine

/-- The offset bit of DETAIL that says a table of the command holds the offending field (02 R37, R416). -/
def inTable (off : Nat) : Nat := 0x80000000 + off

/-! ## The extent table (08 R235, R236) -/

/-- An extent table entry from its 32 bytes. -/
def readExtent (b : List Byte) : Extent := ⟨fld b 0 8, fld b 8 8, fld b 0x10 1, fld b 0x12 2⟩

/-- Whether an entry is in use (08 R235). -/
def usedExtent (e : Extent) : Bool := !(e.base = 0 && e.limit = 0)

/-- The fields of a used entry are within their ranges (08 R235). -/
def extentFields (b : List Byte) (e : Extent) : Bool :=
  e.base % 4096 = 0 && e.limit % 4096 = 0 && e.base < e.limit && e.perms < 32 && fld b 0x11 1 = 0 && e.aff < 0x2000 &&
    e.aff != 0 && fld b 0x14 4 = 0 && fld b 0x18 8 = 0

/-- Two ranges overlap. -/
def overlaps (a a' b b' : Nat) : Bool := a < b' && b < a'

/-- The kernel region of a compute die: the lowest GiB of side A of MS(8d) (08 R225). -/
def kernelRegion (d : Nat) : Nat := 8 * d * 2 ^ 36

/-- The combine area of a compute die (07 R193): its first byte and the byte after its last. -/
def combineRange (s : State) (d : Nat) : Nat × Nat :=
  let b := 0x60000000000 + d * 0x10000000 + 65536 * areaBase s d
  (b, b + 65536 * areaSize s d)

/-- A used entry of context c keeps clear of kernel regions and combine areas, and of the extents of other live contexts unless
both carry SHARE (08 R236, 07 R193). -/
def extentClear (s : State) (c : Nat) (e : Extent) : Bool :=
  (List.range 8).all (fun d =>
    !overlaps e.base e.limit (kernelRegion d) (kernelRegion d + 2 ^ 30) &&
    !overlaps e.base e.limit (combineRange s d).1 (combineRange s d).2) &&
  s.gz.ctxs.all (fun o => o.1 = c || !o.2.live || o.2.extents.all (fun x =>
    x.2.limit = 0 || !overlaps e.base e.limit x.2.base x.2.limit || (bit e.perms 4 && bit x.2.perms 4)))

/-- Whether an entry of context c obeys R235 and R236. -/
def extentOk (s : State) (c : Nat) (b : List Byte) : Bool :=
  let e := readExtent b
  !usedExtent e || (extentFields b e && mapped s e.base (e.limit - e.base) && extentClear s c e)

/-- The used entries of a table, by index. -/
def extentsOf (es : List (List Byte)) : AMap Extent :=
  ((List.range es.length).map (fun i => (i, readExtent (es.getD i [])))).filter (fun e => usedExtent e.2)

/-! ## The ring table (02 R37) -/

/-- A ring that a ring table entry describes. -/
def readRing (b : List Byte) : Ring :=
  { cmdBase := fld b 0 8, replyBase := fld b 8 8, cmdLog2 := fld b 0x10 1, replyLog2 := fld b 0x11 1, home := fld b 0x12 1,
    prioMax := fld b 0x13 1, remote := bit (fld b 0x14 1) 0 }

/-- Whether a ring of 2^log bytes lies whole in one extent that its home die may use with a permission (02 R37). -/
def ringFits (es : AMap Extent) (home a log need : Nat) : Bool :=
  !(12 ≤ log && log ≤ 24 && home < 8) || es.any (fun e => extHit e.2 home a (2 ^ log) && hasPerms e.2.perms need)

/-- The offset of the first field of an entry that breaks R37. -/
def ringBad (es : AMap Extent) (b : List Byte) : Option Nat :=
  let r := readRing b
  ([(0x00, r.cmdBase % 4096 = 0 && ringFits es r.home r.cmdBase r.cmdLog2 pRead),
    (0x08, r.replyBase % 4096 = 0 && ringFits es r.home r.replyBase r.replyLog2 pWrite),
    (0x10, 12 ≤ r.cmdLog2 && r.cmdLog2 ≤ 24), (0x11, 12 ≤ r.replyLog2 && r.replyLog2 ≤ 24), (0x12, r.home < 8),
    (0x13, r.prioMax < 16), (0x14, fld b 0x14 1 < 2), (0x15, fld b 0x15 8 = 0 && fld b 0x1D 3 = 0)].find? (fun x => !x.2)).map
    (fun x : Nat × Bool => x.1)

/-- The first offending field of a ring table, from entry i. -/
def ringsBad (es : AMap Extent) : Nat → List (List Byte) → Option Nat
  | _, [] => none
  | i, b :: bs => match ringBad es b with
    | some o => some (32 * i + o)
    | none => ringsBad es (i + 1) bs

/-! ## CTX_CREATE (02 R416) -/

/-- n entries of a table. -/
def entriesAt (s : State) (u a size n : Nat) : List (List Byte) :=
  (List.range n).map (fun i => readBytes s u (a + size * i) size)

/-- The first poisoned channel among the tables of a CTX_CREATE (08 R241). -/
def tablesPoison (p : PCtxCreate) (s : State) : Option Nat :=
  [(p.extentTable.toNat, 8192), (p.ringTable.toNat, 32 * p.rings.toNat), (p.unitTable.toNat, 4 * p.units.toNat)].findSome?
    (fun r => poisonIn s r.1 r.2)

/-- The unit IDs of a unit table. -/
def unitsAt (p : PCtxCreate) (u : Nat) (s : State) : List Nat :=
  (entriesAt s u p.unitTable.toNat 4 p.units.toNat).map leNat

/-- Orders 3 to 6 of R416: what the tables say. -/
def tablesStop (p : PCtxCreate) (u : Nat) (s : State) : Option End :=
  match tablesPoison p s with
  | some ch => some (fails MEMORY_POISONED ch)
  | none =>
    let es := entriesAt s u p.extentTable.toNat 32 256
    match (List.range 256).find? (fun i => !extentOk s p.ctx.toNat (es.getD i [])) with
    | some i => some (fails OUT_OF_RANGE (inTable (32 * i)))
    | none => match ringsBad (extentsOf es) 0 (entriesAt s u p.ringTable.toNat 32 p.rings.toNat) with
      | some o => some (fails OUT_OF_RANGE (inTable o))
      | none =>
        let us := unitsAt p u s
        match (List.range us.length).find? (fun i => !uidValid (us.getD i 0)) with
        | some i => some (fails OUT_OF_RANGE (inTable (4 * i)))
        | none => match (List.range us.length).find? (fun i =>
            p.cls = 1 && uKind (us.getD i 0) != 1 && uKind (us.getD i 0) != 9) with
          | some i => some (fails NO_PERMISSION (inTable (4 * i)))
          | none => none

/-- Set up a context and its rings (02 R33, R36, R37). -/
def openContext (p : PCtxCreate) (u : Nat) (s : State) : State :=
  let c := p.ctx.toNat
  let es := extentsOf (entriesAt s u p.extentTable.toNat 32 256)
  let rs := (entriesAt s u p.ringTable.toNat 32 p.rings.toNat).map readRing
  let us := unitsAt p u s
  let x : Ctx :=
    { live := true, cls := p.cls.toNat, perms := p.perms.toNat
      defTimeout := if p.defaultTimeout = 0 then 100000 else p.defaultTimeout.toNat
      units := us, extents := es, chk := { createdSeq := s.tr.nextSeq } }
  let old := s.gz.rings.filter (fun r => r.1 / 256 != c)
  let s := { s with gz := { s.gz with ctxs := amPut s.gz.ctxs c x, rings := old } }
  (List.range rs.length).foldl (fun s r => { s with gz := { s.gz with rings := amPut s.gz.rings (256 * c + r) (rs.getD r {}) } }) s

/-- CTX_CREATE at the close of its window (02 R416); the new context is ledgered (13 R356). -/
def ctxCreateApply (p : PCtxCreate) (j : Job) (origin : Nat) (s : State) : State × End :=
  let c := p.ctx.toNat
  let refuse (e : End) : State × End := (callRefused 12 origin c 0 c e s, e)
  if (ctxOf s c).live then refuse (fails BAD_STATE 0x3E)
  else match tablesStop p j.unit s with
    | some e => refuse e
    | none => (ledger 12 origin 3 c 0 c 0 0 (hdrOf j.cmd).seq.toNat (openContext p j.unit s), done 0)

/-- Checks of CTX_CREATE (02 R54; 08 R235). The module creates no context while its hold-up bank has failed its test
(16 R407). -/
def preCtxCreate (h : Hdr) (p : PCtxCreate) (s : State) : Pre :=
  { preCore h s with
    fields := [(0x28, p.extentTable.toNat % 32 = 0), (0x30, p.units != 0 || p.unitTable = 0), (0x3C, p.units.toNat ≤ 4096),
      (0x3E, p.ctx != 0), (0x3F, p.cls.toNat ≤ 2), (0x40, 1 ≤ p.rings.toNat && p.rings.toNat ≤ 256)]
    ranges := [(0x20, p.ringTable.toNat, 32 * p.rings.toNat, pRead), (0x28, p.extentTable.toNat, 8192, pRead)] ++
      (if p.units = 0 then [] else [(0x30, p.unitTable.toNat, 4 * p.units.toNat, pRead)])
    ready := [kernelCore 12] }

/-- A CTX_CREATE reaches the gate: tables that break a range turn it away before it joins a window (02 R65, R416). -/
def runCtxCreate (p : PCtxCreate) (j : Job) (s : State) : RunRes :=
  let c := p.ctx.toNat
  if (ctxOf s c).live then runOrder (.ctx p.ctx) j s
  else match tablesStop p j.unit s with
    | some e =>
      let d := (ringOf s j.ring).home
      ends (callRefused 12 j.origin c 0 c e (gateCount d false (count s (uid 4 d 0) 0x28 1))) e
    | none => runOrder (.ctx p.ctx) j s

/-- CTX_CREATE (02 R53): an order on its context number. -/
def execCtxCreate (h : Hdr) (p : PCtxCreate) (s : State) : Host.Outcome State Fault Refusal :=
  .next (issue (preCtxCreate h p s) (runCtxCreate p) (.ctxCreate h p) s)

/-! ## CTX_DESTROY -/

/-- The end of a command whose context is destroyed (02 R68). -/
def destroyed : End := fails CANCELLED 0x0F01

/-- End every command of a context (02 R58): those that run or wait stop, and those that share an order's end end with them. -/
def cancelJobs (c : Nat) (s : State) : State :=
  let s := stopJobs destroyed (s.gz.jobs.filter (fun j => j.ring / 256 == c)) s
  { s with gz := { s.gz with jobs := s.gz.jobs.map (fun j => match j.phase with
      | .follow _ => if j.ring / 256 == c then { j with phase := .ending destroyed } else j
      | _ => j) } }

/-- What a context holds in the engines is discarded. -/
def dropResults (c : Nat) (s : State) : State :=
  s.mm.foldl (fun s e => e.2.parts.foldl (fun s p => abortPart c e.1 p.1 destroyed s) s) s

/-- What a context holds in the routing and combine units goes: its rounds, claims (07 R200), the halves that its rows hold,
its version records, its factor tables and its latest DMA commands (DEDUCED, log entry 33). -/
def dropExchange (c : Nat) (s : State) : State :=
  let s := s.cf.foldl (fun s e => (e.2.claims.filter (fun x => x.ctx == c)).foldl (fun s x => closeClaim s e.1 x.tag x.grad) s) s
  let s := s.ws.foldl (fun s w => (w.2.rounds.filter (fun r => r.ctx == c)).foldl (fun s r => closeRound s w.1 r.tag) s) s
  { s with
    cf := s.cf.map (fun e => (e.1, { e.2 with ctxHwm := amDel e.2.ctxHwm c, ctxStale := amDel e.2.ctxStale c }))
    ws := s.ws.map (fun w => (w.1, { w.2 with
      halves := w.2.halves.filter (fun h => h.2.ctx != c)
      heldRows := w.2.heldRows.filter (fun m => m.ctx.toNat != c) }))
    ver := s.ver.filter (fun v => v.1 / 2 ^ 32 != c)
    dma := s.dma.filter (fun d => d.1 % 256 != c)
    hw := { s.hw with factor := s.hw.factor.filter (fun f => f.1 % 256 != c) } }

/-- Snapshot rings of a context are removed, their items set to 0, and this is ledgered (15 R391). -/
def dropSnapRings (c : Nat) (s : State) : State :=
  (s.snap.filter (fun r => r.2.ctx == c)).foldl (fun s r =>
    let old := item s mdBlock (0xC0 + r.1)
    ledger 12 (kernelOrigin 12) 1 mdBlock (0xC0 + r.1) c old 0 0
      (setItem { s with snap := amDel s.snap r.1 } mdBlock (0xC0 + r.1) 0)) s

/-- The counters whose filter names a context stop (15 R390). -/
def stopCounters (c : Nat) (s : State) : State :=
  let keys := (s.hw.items.filter (fun i => 0xA0 ≤ i.1 % 65536 && i.1 % 65536 < 0xA8 && bit i.2 23 && bits i.2 24 8 = c)).map
    (fun i => 8 * (i.1 / 65536) + (i.1 % 65536 - 0xA0))
  { s with hw := { s.hw with stopped := s.hw.stopped ++ keys.filter (fun k => !s.hw.stopped.contains k) } }

/-- Every drover's scratch window by number, 64 · die + n. -/
def scratchWindows : List Nat := List.range 512

/-- Scratch windows that the ended context's extents cover, and no live context's, are zeroed (11 R290). -/
def zeroScratch (es : AMap Extent) (s : State) : State :=
  (scratchWindows.filter (fun k =>
    let b := scratchBase k
    let meets (e : Extent) : Bool := e.limit != 0 && overlaps e.base e.limit b (b + 0x100000)
    es.any (fun e => meets e.2) && !s.gz.ctxs.any (fun c => c.2.live && c.2.extents.any (fun e => meets e.2)))).foldl
    (fun s k => zeroRange (scratchBase k) 0x100000 s) s

/-- A ring closes (02 R42): nothing of it is met again. -/
def closeRing (r : Ring) : Ring := { r with state := .closed, waiting := [], loops := [], passOver := none }

/-- The snapshot of one context (05 R146). -/
def snapOne (c : Nat) (s : State) : State :=
  let evs := snapEvents c (ctxOf s c)
  if evs.isEmpty then s
  else appendAll evs (modCtx s c (fun x => { x with snap := x.chk.cnt, chk := { x.chk with ledgerSeq := s.tr.nextSeq } }))

/-- End a context (02 R33, R42, R58): its commands end and reply, its record is snapshotted, and what it holds is released. -/
def closeContext (c : Nat) (s : State) : State :=
  let s := dropResults c (cancelJobs c s)
  let s := settleN s.gz.jobs.length s
  let s := stopCounters c (dropSnapRings c (dropExchange c (snapOne c s)))
  let es := (ctxOf s c).extents
  let s := { s with gz := { s.gz with
    ctxs := amDel s.gz.ctxs c
    rings := s.gz.rings.map (fun r => if r.1 / 256 == c then (r.1, closeRing r.2) else r) } }
  pumpAll (zeroScratch es s)

/-- CTX_DESTROY at the close of its window (02 R33). -/
def ctxDestroyApply (p : PCtxDestroy) (j : Job) (origin : Nat) (s : State) : State × End :=
  let c := p.ctx.toNat
  if !(ctxOf s c).live then
    let e := fails BAD_STATE 0x20
    (callRefused 12 origin c 1 c e s, e)
  else (ledger 12 origin 3 c 1 c 0 0 (hdrOf j.cmd).seq.toNat (closeContext c s), done 0)

/-- Checks of CTX_DESTROY (02 R54). -/
def preCtxDestroy (h : Hdr) (p : PCtxDestroy) (s : State) : Pre :=
  { preCore h s with fields := [(0x20, p.ctx != 0)] }

/-- CTX_DESTROY (02 R53): an order on its context number. -/
def execCtxDestroy (h : Hdr) (p : PCtxDestroy) (s : State) : Host.Outcome State Fault Refusal :=
  .next (issue (preCtxDestroy h p s) (runOrder (.ctx p.ctx)) (.ctxDestroy h p) s)

end Sys2Proof.Machine
end

