-- ==== Sys2Proof/Machine/Items.lean ====
section
/-! DEFINITION. Configuration items (02 R415): which unit holds which item, the fields that a write reaches, the checks on
arrival, and what a write does. -/

namespace Sys2Proof.Machine

/-! ## Placement -/

/-- ITEM codes. -/
def iPaceCap : Nat := 0x0001
def iWdog : Nat := 0x0002
def iPaceStatus : Nat := 0x0003
def iPaceCurrent : Nat := 0x0004
def iCheckLimit : Nat := 0x0010
def iCtx0Extent : Nat := 0x0011
def iCtx0Ring : Nat := 0x0012
def iSegLimit : Nat := 0x0020
def iCombineArea : Nat := 0x0030
def iOverlap : Nat := 0x0031
def iFactorTable : Nat := 0x0040
def iMapoutPolicy : Nat := 0x0050
def iStatTable : Nat := 0x0061
def iGroupCfg : Nat := 0x0070
def iPortCfg : Nat := 0x0071
def iIngestCfg : Nat := 0x0072
def iTimeOfDay : Nat := 0x0080
def iTodCfg : Nat := 0x0081
def iMarginCfg : Nat := 0x0090
def iRotateCfg : Nat := 0x0091
def iCntSel : Nat := 0x00A0
def iSnapRing : Nat := 0x00C0
def iDebugCfg : Nat := 0x0100
def iMgmtNet : Nat := 0x0101

/-- Items of the MD die block. -/
def onMd (it : Nat) : Bool :=
  [iCtx0Extent, iCtx0Ring, iOverlap, iStatTable, iGroupCfg, iTimeOfDay, iTodCfg, iDebugCfg, iMgmtNet].contains it ||
    (iSnapRing ≤ it && it < 0x0100)

/-- Whether a unit is a compute die's die block. -/
def isCdBlock (u : Nat) : Bool := uKind u = 0 && isCD (uDie u) && uInst u = 0

/-- Unit kinds that have counters (15 R388). -/
def hasCounters (u : Nat) : Bool := [1, 3, 7, 8, 9, 0xA, 0xC, 0xD].contains (uKind u) || (uKind u = 0 && uInst u = 0)

/-- Whether an item is defined for a unit (02 R415 order 2). WDOG_DELAY is defined for every unit: R27 refuses a boundary that
the kind does not have by its value. -/
def itemOn (u it : Nat) : Bool :=
  (it = iWdog) || ((it = iPaceCap || it = iPaceStatus || it = iPaceCurrent) && u = paceUnit) ||
  ((it = iCheckLimit || it = iFactorTable || it = iMarginCfg || it = iRotateCfg) && isCdBlock u) ||
  (it = iSegLimit && uKind u = 7) || (it = iCombineArea && uKind u = 8) || (it = iMapoutPolicy && uKind u = 0xA) ||
  (it = iPortCfg && uKind u = 0xD) || (it = iIngestCfg && uKind u = 0xE) ||
  (iCntSel ≤ it && it < iCntSel + 8 && hasCounters u) || (u = mdBlock && onMd it)

/-- Items whose every field is read-only (01 R30). -/
def itemReadOnly (it : Nat) : Bool := it = iPaceStatus || it = iPaceCurrent

/-- Bits hi to lo set. -/
def maskBits (hi lo : Nat) : Nat := 2 ^ (hi + 1) - 2 ^ lo

/-- The bits of an item that are not reserved (00 R9). -/
def itemMask (it : Nat) : Nat :=
  if it = iPaceCap then 0xFFFF
  else if it = iWdog then 0xFFFFFFFF
  else if it = iPaceStatus then 0xFFFFFFFF
  else if it = iPaceCurrent then 0x8000FFFF
  else if it = iCheckLimit then 0xFFFFFF
  else if it = iCtx0Extent || it = iFactorTable || it = iStatTable then maskBits 63 56 + maskBits 47 0
  else if it = iCtx0Ring then maskBits 63 56 + maskBits 48 0
  else if it = iSegLimit then 0xFFFFFFFF
  else if it = iCombineArea then maskBits 28 16 + maskBits 12 0
  else if it = iOverlap then 0xFF01
  else if it = iMapoutPolicy then 0xFFFFFF
  else if it = iGroupCfg then maskBits 31 23 + maskBits 20 16 + 0x10F
  else if it = iPortCfg then 0xF
  else if it = iIngestCfg then maskBits 47 0
  else if it = iTimeOfDay then maskBits 63 0
  else if it = iTodCfg then 0x1FF
  else if it = iMarginCfg then 0x100FF
  else if it = iRotateCfg then 0xFFFF
  else if it = iDebugCfg then 0xF
  else if it = iMgmtNet then maskBits 51 0
  else if iCntSel ≤ it && it < iCntSel + 8 then maskBits 63 23 + 7
  else if iSnapRing ≤ it && it < 0x0100 then maskBits 63 56 + maskBits 47 0
  else 0

/-! ## Watchdog boundaries (01 R26, R27) -/

/-- Class of a boundary of a unit: none, data plane (false) or Ridge plane (true) (01 R27). -/
def wdogClass (u b : Nat) : Option Bool :=
  match uKind u with
  | 0x1 => if b < 3 || (16 ≤ b && b < 32) then some false else none
  | 0x3 => if b < 3 then some false else none
  | 0x4 => if b < 4 then some false else none
  | 0x5 => if b < 2 then some true else none
  | 0x6 => if b = 0 then some false else if b = 1 || (b = 2 && uDie u = 12) then some true else none
  | 0x7 => if b < 4 then some false else none
  | 0x8 => if b < 2 then some false else none
  | 0x9 => if b < 4 then some false else none
  | 0xC => if b < 3 then some false else none
  | 0xD => if b = 0 then some false else none
  | 0xE => if b < 2 then some false else none
  | 0xF => if b = 0 then some false else if b = 1 then some true else none
  | _ => none

/-- The watchdog delay of a boundary, in µs on the data plane and ms on the Ridge plane (01 R26). -/
def wdogDelayOf (s : State) (u b : Nat) : Nat :=
  amGet (if wdogClass u b = some true then 50 else 10) s.hw.wdog (256 * u + b)

/-! ## Counter events (15 R388) -/

/-- Whether an event code is defined for a unit, and whether it can be restricted to one context. -/
def eventOf (u code : Nat) : Option Bool :=
  let has (l : List Nat) (ctx : Bool) : Option Bool := if l.contains code then some ctx else none
  match uKind u with
  | 0x1 => has [0x1001, 0x1002, 0x1003, 0x1004, 0x1005, 0x1080] true
  | 0x3 => has [0x3001, 0x3002, 0x3003, 0x3080] true
  | 0x7 => if code = 0x7004 then some false else has [0x7001, 0x7002, 0x7003, 0x7080] true
  | 0x8 => has [0x8001, 0x8002, 0x8003, 0x8004, 0x8080] true
  | 0x9 => has [0x9001, 0x9002, 0x9003, 0x9004, 0x9080] true
  | 0xA => if code = 0xA006 then some false else has [0xA001, 0xA002, 0xA003, 0xA004, 0xA005, 0xA080] true
  | 0xC => has [0xC001, 0xC080] false
  | 0xD => has [0xD001, 0xD002, 0xD080] false
  | 0x0 =>
    if code = 1 || code = 4 then some false
    else if (code = 2 && isCD (uDie u)) || (code = 3 && isLD (uDie u)) || (code = 5 && uDie u = 12) then some false
    else none
  | _ => none

/-- Whether a code is an occupancy (15 R388). -/
def isOccupancy (code : Nat) : Bool := bit code 7

/-- Whether a CNT_SEL value is within range (15 R390). -/
def cntSelOk (s : State) (u v : Nat) : Bool :=
  let mode := bits v 0 2
  let code := bits v 48 16
  match eventOf u code with
  | none => false
  | some ctx =>
    !(isOccupancy code && mode = 1) && !(!isOccupancy code && 2 ≤ mode) &&
      (!bit v 23 || (ctx && (ctxOf s (bits v 24 8)).live))

/-! ## Tables that items name -/

/-- Whether an extent of a context, whatever the die, holds a range with permissions. -/
def heldBy (s : State) (c a n need : Nat) : Bool :=
  (ctxOf s c).extents.any (fun e => e.2.limit != 0 && e.2.base ≤ a && a + n ≤ e.2.limit && hasPerms e.2.perms need)

/-- Whether the kernel of a die may read a range of context 0 (12 R323, 13 R352). -/
def inCtx0 (s : State) (core a n : Nat) : Bool := (access s 0 core a n pRead).isNone

/-- An ingest ring entry from its 32 bytes (12 R323). -/
def readIngestRing (b : List Byte) : IngestRing := ⟨fld b 0 8, fld b 8 1, fld b 9 1, fld b 0x10 8, fld b 0x18 8, 0⟩

/-- The ring entries of an ingest table. -/
def ingestEntries (s : State) (core a : Nat) : List (List Byte) :=
  entriesAt s core (a + 0x20) 32 (readNat s core (a + 0x12) 1)

/-- An ingest table at an address (12 R323). -/
def readIngest (s : State) (core a : Nat) : IngestTable :=
  { ip := readBytes s core a 16, udpPort := readNat s core (a + 0x10) 2, rings := (ingestEntries s core a).map readIngestRing }

/-- Whether an ingest table is within range (12 R323; TAIL_ADDR is a signal word, 10 R274). -/
def ingestOk (s : State) (core a : Nat) : Bool :=
  a % 4096 = 0 && inCtx0 s core a 0x20 &&
  (let n := readNat s core (a + 0x12) 1
   1 ≤ n && n ≤ 16 && readBytes s core (a + 0x13) 13 == List.replicate 13 0 && inCtx0 s core a (0x20 + 32 * n) &&
   (ingestEntries s core a).all (fun b =>
     let r := readIngestRing b
     r.base % 4096 = 0 && 16 ≤ r.log2 && r.log2 ≤ 30 && (r.slotLog2 = 13 || r.slotLog2 = 14) &&
       fld b 0xA 6 = 0 && signalOk s r.tailAddr && r.headAddr % 8 = 0))

/-- Whether an address table of the management port is within range (13 R352). -/
def mgmtTableOk (s : State) (core a : Nat) : Bool :=
  a % 64 = 0 && inCtx0 s core a 64 &&
  (let b := readBytes s core a 64
   let p6 := fld b 0x10 1
   let p4 := fld b 0x34 1
   1 ≤ p6 && p6 ≤ 128 && 1 ≤ p4 && p4 ≤ 32 && fld b 0x11 15 = 0 && fld b 0x35 3 = 0 && fld b 0x3C 4 = 0)

/-- A snapshot table at an address (15 R392), for context c. -/
def readSnap (s : State) (core c a : Nat) : SnapRing :=
  let b := readBytes s core a 0x20
  { ctx := c, base := fld b 0 8, log2 := fld b 8 1, interval := fld b 0xC 4, tailAddr := fld b 0x10 8, headAddr := fld b 0x18 8
    units := (entriesAt s core (a + 0x20) 4 (fld b 0xA 2)).map leNat, t := 0, skipped := 0 }

/-- Whether a range lies in an extent of a context with READ and WRITE that MD may use (15 R391). -/
def snapReach (s : State) (c core a n : Nat) : Bool := (access s c core a n (pRead + pWrite)).isNone

/-- The refusal of a snapshot ring (15 R391). -/
def snapStop (s : State) (core c a : Nat) : Option End :=
  let bad := some (fails OUT_OF_RANGE 0x28)
  if !(ctxOf s c).live then bad
  else if c != 0 && !bit (ctxOf s c).perms 0 then some (fails NO_PERMISSION 0x28)
  else if a = 0 then none
  else if a % 4096 != 0 || !snapReach s c core a 0x20 then bad
  else
    let r := readSnap s core c a
    let n := r.units.length
    if r.base % 4096 = 0 && 16 ≤ r.log2 && r.log2 ≤ 30 && readNat s core (a + 9) 1 = 0 && 1 ≤ n && n ≤ 1024 &&
        500 ≤ r.interval && r.interval ≤ 10000000 && snapReach s c core a (0x20 + 4 * n) && snapReach s c core r.base (2 ^ r.log2) &&
        signalOk s r.tailAddr && snapReach s c core r.tailAddr 8 && r.headAddr % 8 = 0 && snapReach s c core r.headAddr 8 &&
        r.units.all uidValid then none
    else bad

/-- Whether a context's stat table may lie at an address (11 R296). -/
def statTableOk (s : State) (c a : Nat) : Bool :=
  a % 4096 = 0 && (match regionOf a with | .side _ _ => true | _ => false) &&
  (ctxOf s c).extents.any (fun e => e.2.limit != 0 && e.2.base ≤ a && a + 0x40000 ≤ e.2.limit &&
    hasPerms e.2.perms (pRead + pWrite + pAtomic) && hasPerms e.2.aff 0xFF)

/-- The kernel core that holds an item's window (02 R66). -/
def itemCore (u : Nat) : Nat := kernelCore (uDie u)

/-- The 32-byte entry that CTX0_EXTENT or CTX0_RING names lies where R35 lets it. -/
def ctx0EntryOk (s : State) (a : Nat) : Bool := a % 32 = 0 && inCtx0 s (kernelCore 12) a 32

/-! ## Checks on arrival (02 R415 orders 3 to 5) -/

/-- The status of a value out of range, by the rules of each item; none when it is in range. -/
def itemRange (s : State) (u it v : Nat) : Option End :=
  let need (ok : Bool) : Option End := if ok then none else some (fails OUT_OF_RANGE 0x28)
  let within (x lo hi : Nat) : Bool := lo ≤ x && x ≤ hi
  let core := itemCore u
  let a := bits v 0 48
  if it = iPaceCap then need (within v 40 160)
  else if it = iWdog then
    need (match wdogClass u (bits v 24 8) with
      | some true => within (bits v 0 24) 1 10000
      | some false => within (bits v 0 24) 1 10000
      | none => false)
  else if it = iCheckLimit then need (within (bits v 16 8) 1 255 && within (bits v 0 16) 8 1024)
  else if it = iCtx0Extent then
    need (8 ≤ bits v 56 8 && ctx0EntryOk s a && extentOk s 0 (readBytes s core a 32))
  else if it = iCtx0Ring then
    need (16 ≤ bits v 56 8 && (bit v 48 || (ctx0EntryOk s a && (ringBad (ctxOf s 0).extents (readBytes s core a 32)).isNone)))
  else if it = iSegLimit then need (within v 1 65536)
  else if it = iCombineArea then
    need (bits v 16 13 ≤ 4096 && bits v 0 13 < 4096 && bits v 0 13 + bits v 16 13 ≤ 4096 &&
      (bits v 16 13 = 0 || !extentOver s (0x60000000000 + uDie u * 0x10000000 + 65536 * bits v 0 13) (65536 * bits v 16 13)))
  else if it = iOverlap then need (bits v 8 8 != 0 && (ctxOf s (bits v 8 8)).live)
  else if it = iFactorTable then
    need (bits v 56 8 != 0 && (a = 0 || (a % 4096 = 0 && (ctxOf s (bits v 56 8)).live && heldBy s (bits v 56 8) a 64 pWrite)))
  else if it = iStatTable then
    need (bits v 56 8 != 0 && (ctxOf s (bits v 56 8)).live && (a = 0 || statTableOk s (bits v 56 8) a))
  else if it = iMapoutPolicy then need (within (bits v 16 8) 1 255 && within (bits v 1 15) 1 32767)
  else if it = iGroupCfg then need (within (bits v 16 5) 1 16 && bits v 0 4 < bits v 16 5)
  else if it = iPortCfg then
    need (bits v 0 2 != 3 && bits v 2 2 < 2 && (bits v 0 2 != 1 || 12 ≤ uInst u))
  else if it = iIngestCfg then need (a = 0 || ingestOk s core a)
  else if it = iTimeOfDay then need (v != 0)
  else if it = iMarginCfg then need (within (bits v 0 8) 4 200)
  else if it = iRotateCfg then need (within (bits v 8 8) 1 168 && within (bits v 0 8) 1 10)
  else if it = iMgmtNet then need (if a = 0 then !bit v 49 && !bit v 51 else mgmtTableOk s core a)
  else if iCntSel ≤ it && it < iCntSel + 8 then need (cntSelOk s u v)
  else if iSnapRing ≤ it && it < 0x0100 then snapStop s core (bits v 56 8) a
  else none

/-- The range of a table that an item's value names, as the kernel first reads it (08 R241). -/
def itemTable (it v : Nat) : Option (Nat × Nat) :=
  let a := bits v 0 48
  if it = iCtx0Extent || (it = iCtx0Ring && !bit v 48) then some (a, 32)
  else if (it = iIngestCfg || (iSnapRing ≤ it && it < 0x0100)) && a != 0 then some (a, 32)
  else if it = iMgmtNet && a != 0 then some (a, 64)
  else none

/-- Orders 3 to 5 of R415 on a masked value. A poisoned table ends the write as any poisoned read does (08 R241). -/
def itemCheck (s : State) (origin u it v : Nat) : Option End :=
  if itemReadOnly it then some (fails NO_PERMISSION 0x24)
  else if it = iDebugCfg && origin / 4096 != 1 && origin / 4096 != 0 then some (fails NO_PERMISSION 0x28)
  else match (itemTable it v).bind (fun r => poisonIn s r.1 r.2) with
    | some ch => some (fails MEMORY_POISONED ch)
    | none => itemRange s u it v

/-! ## What an item holds -/

/-- What a read of an item answers (01 R30; 13 R339): its value as last written, or the governor's state. -/
def itemRead (s : State) (u it : Nat) : Nat :=
  if it = iPaceStatus then paceStatus s
  else if it = iPaceCurrent then paceCurrent s
  else if it = iTimeOfDay then timeNow s
  else if it = iWdog then wdogDelayOf s u 0
  else item s u it

/-- The value that an item's layout gives before a write of v: the boundary's delay or the context's entry, for items that hold
one value for each (13 R355). -/
def itemOld (s : State) (u it v : Nat) : Nat :=
  let c := bits v 56 8
  if it = iWdog then bits v 24 8 * 2 ^ 24 + wdogDelayOf s u (bits v 24 8)
  else if it = iOverlap then bits v 8 8 * 256 + b2n (ctxOf s (bits v 8 8)).overlap
  else if it = iFactorTable then c * 2 ^ 56 + factorTable s (uDie u) c
  else if it = iStatTable then c * 2 ^ 56 + (ctxOf s c).statTable
  else if it = iTimeOfDay then timeNow s
  else itemRead s u it

/-! ## What a write does -/

/-- Every Pass port trains again (12 R325). -/
def retrainPorts (s : State) : State :=
  (allPorts.filter (fun u => portMode s u = 0 && (portOf s u).state != 0 && (portOf s u).state != 7)).foldl (fun s u => setPort u 1 s) s

/-- The addresses that the management port holds (13 R352). -/
def mgmtAddrs (s : State) : List (List Byte) :=
  let v := mgmtNet s
  let t := s.flash.mgmtTable
  [linkLocal s] ++ s.tr.slaac ++ (if bit v 49 then [sub t 0 16] else []) ++ (if bit v 51 then [sub t 0x30 4] else []) ++
    (match s.tr.dhcp4 with | some a => [leBytes 4 a.1] | none => [])

/-- A new MGMT_NET (13 R352): kept in flash; when it removes an address, sessions are closed (DEDUCED, log entry 62). -/
def applyMgmtNet (v : Nat) (s : State) : State :=
  let a := bits v 0 48
  let t := if a = 0 then [] else readBytes s (kernelCore 12) a 64
  let old := mgmtAddrs s
  let s := setItem s mdBlock iMgmtNet v
  let s := { s with
    flash := { s.flash with mgmtNet := v, mgmtTable := t }
    tr := { s.tr with slaac := if bit v 48 then s.tr.slaac else [], dhcp4 := if bit v 50 then s.tr.dhcp4 else none } }
  if old.all (fun x => (mgmtAddrs s).contains x) then s else { s with tr := { s.tr with sessions := [] } }

/-- A new DEBUG_CFG (13 R351): the test port offers its full instruction set, and its TAP is taken out of reset, only while
ENABLE and TAP are 1. -/
def applyDebug (v : Nat) (s : State) : State :=
  let s := setItem s mdBlock iDebugCfg v
  let s := if bit v 0 then { s with tr := { s.tr with debugEver := true } } else s
  if bit v 0 && bit v 2 then s else { s with mod := { s.mod with tap := .reset, tapIr := 0, tapShift := [] } }

/-- A CNT_SEL write takes effect (15 R390, R393). -/
def applyCntSel (u n v : Nat) (s : State) : State :=
  let k := 8 * u + n
  let s := setItem s u (iCntSel + n) (v - v % 8 + v % 4)
  { s with hw := { s.hw with
    selGen := amMod 0 s.hw.selGen u (fun g => (g + 1) % 256)
    stopped := s.hw.stopped.filter (· != k)
    counters := if bit v 2 then amPut s.hw.counters k 0 else s.hw.counters } }

/-- A ring is added to context 0, or closed (02 R35). -/
def applyCtx0Ring (v : Nat) (s : State) : State :=
  let r := bits v 56 8
  if bit v 48 then modRing s r closeRing
  else { s with gz := { s.gz with rings := amPut s.gz.rings r (readRing (readBytes s (kernelCore 12) (bits v 0 48) 32)) } }

/-- An extent of context 0 is set or removed (02 R35). -/
def applyCtx0Extent (v : Nat) (s : State) : State :=
  let e := readExtent (readBytes s (kernelCore 12) (bits v 0 48) 32)
  let i := bits v 56 8
  modCtx s 0 (fun c => { c with extents := if usedExtent e then amPut c.extents i e else amDel c.extents i })

/-- A port's new configuration takes it down when MODE or ROLE changes (12 R309). -/
def applyPortCfg (u v : Nat) (s : State) : State :=
  let old := item s u iPortCfg
  let s := setItem s u iPortCfg v
  if old = v then s else portReset u s

/-- An ingest receiver reads its table, or is off (12 R323). -/
def applyIngest (u a : Nat) (s : State) : State :=
  let tables := if a = 0 then amDel s.link.ingest (uDie u) else amPut s.link.ingest (uDie u) (readIngest s (itemCore u) a)
  { s with link := { s.link with ingest := tables } }

/-- The reader reads a snapshot table, or the ring is off (15 R391). -/
def applySnap (n c a : Nat) (s : State) : State :=
  { s with snap := if a = 0 then amDel s.snap n else amPut s.snap n (readSnap s (kernelCore 12) c a) }

/-- An item takes a masked value (01 R22). -/
def applyItem (u it v : Nat) (s : State) : State :=
  let a := bits v 0 48
  let c := bits v 56 8
  if it = iWdog then { s with hw := { s.hw with wdog := amPut s.hw.wdog (256 * u + bits v 24 8) (bits v 0 24) } }
  else if it = iOverlap then modCtx s (bits v 8 8) (fun x => { x with overlap := bit v 0 })
  else if it = iFactorTable then { s with hw := { s.hw with factor := amPut s.hw.factor (256 * uDie u + c) a } }
  else if it = iStatTable then modCtx s c (fun x => { x with statTable := a })
  else if it = iCtx0Extent then setItem (applyCtx0Extent v s) u it v
  else if it = iCtx0Ring then setItem (applyCtx0Ring v s) u it v
  else if it = iGroupCfg then retrainPorts (setItem s u it v)
  else if it = iPortCfg then applyPortCfg u v s
  else if it = iIngestCfg then applyIngest u a (setItem s u it v)
  else if it = iTimeOfDay then setTime v false s
  else if it = iMgmtNet then applyMgmtNet v s
  else if it = iDebugCfg then applyDebug v s
  else if iCntSel ≤ it && it < iCntSel + 8 then applyCntSel u (it - iCntSel) v s
  else if iSnapRing ≤ it && it < 0x0100 then applySnap (it - iSnapRing) c a (setItem s u it v)
  else setItem s u it v

/-- The entries of a write that took effect (13 R351, R356; time of day also under reason 0x0C). -/
def itemLedger (origin ctx u it old v : Nat) (s : State) : State :=
  let d := min (uDie u) 12
  let s := if it = iDebugCfg then ledger d origin 0xF 0 0 ctx old v 0 s
    else ledger d origin 1 u it ctx old v 0 s
  if it = iTimeOfDay then ledger 12 origin 0xC 0 0 ctx old v 0 s else s

/-- A write that is refused: ledgered with REFUSED set, and nothing changes (02 R415). -/
def itemRefused (origin ctx u it v : Nat) (s : State) : State :=
  let d := min (uDie u) 12
  ledgerEv d (mkEv origin 1 u it ctx (itemOld s u it v) v 0 true) s

/-- A write takes effect and is ledgered with the old and the new value (00 R10). -/
def writeItem (origin ctx u it v : Nat) (s : State) : State :=
  let old := itemOld s u it v
  itemLedger origin ctx u it old v (applyItem u it v s)

/-! ## CFG_WRITE -/

/-- Checks of CFG_WRITE (02 R415 orders 1 and 2). -/
def preCfgWrite (h : Hdr) (p : PCfgWrite) (s : State) : Pre :=
  let u := p.unitId.toNat
  { preCore h s with
    fields := [(0x20, uidValid u), (0x24, itemOn u p.item.toNat)]
    units := [(0x20, u)] }

/-- The value that a CFG_WRITE asks for, its reserved bits left out (00 R9). -/
def cfgValue (p : PCfgWrite) : Nat := p.value.toNat &&& itemMask p.item.toNat

/-- A CFG_WRITE reaches the kernel that holds its item: orders 3 to 5 turn it away before it joins a window (02 R415). -/
def runCfgWrite (p : PCfgWrite) (j : Job) (s : State) : RunRes :=
  let u := p.unitId.toNat
  let it := p.item.toNat
  let v := cfgValue p
  match itemCheck s j.origin u it v with
  | some e =>
    let d := (ringOf s j.ring).home
    ends (itemRefused j.origin (j.ring / 256) u it v (gateCount d false (count s (uid 4 d 0) 0x28 1))) e
  | none => joinAll [(.item p.unitId p.item, 0x0F02, v)] j s

/-- CFG_WRITE (02 R53): an order on its item. -/
def execCfgWrite (h : Hdr) (p : PCfgWrite) (s : State) : Host.Outcome State Fault Refusal :=
  .next (issue (preCfgWrite h p s) (runCfgWrite p) (.cfgWrite h p) s)

end Sys2Proof.Machine
end

