-- ==== Sys2Proof/Machine/Query.lean ====
section
/-! DEFINITION. QUERY_READY and QUERY_STATUS (02 R53, R54; 14 R371, R372, R385, R386): the readiness map and the records. -/

namespace Sys2Proof.Machine

/-! ## Layouts -/

/-- Byte i of a structure whose fields are given as (offset, size, value); other bytes are reserved, and zero. -/
def layoutByte (fs : List (Nat × Nat × Nat)) (i : Nat) : Byte :=
  match fs.find? (fun f => f.1 ≤ i && i < f.1 + f.2.1) with
  | some f => BitVec.ofNat 8 (f.2.2 / 256 ^ (i - f.1))
  | none => 0

/-- n bytes of a structure. -/
def layout (n : Nat) (fs : List (Nat × Nat × Nat)) : List Byte := (List.range n).map (layoutByte fs)

/-- The number whose bit i says whether p holds of i, for i below n. -/
def bitmap (n : Nat) (p : Nat → Bool) : Nat := ((List.range n).map (fun i => b2n (p i) * 2 ^ i)).foldl (· + ·) 0

/-- The bytes of a signed 16-bit field. -/
def s16 (i : Int) : Nat := ofInt 16 i

/-! ## The readiness map (14 R371, R372) -/

/-- Whether instance i of a kind is ready on a die. -/
def readyAt (s : State) (k d i : Nat) : Bool := unitReady s (uid k d i)

/-- CORES of a die block (14 R372). -/
def coresOf (s : State) (d : Nat) : Nat :=
  (if isCD d then bitmap 4 (readyAt s 4 d) + 32 * b2n (readyAt s 7 d 0) + 64 * b2n (readyAt s 8 d 0)
    else if isLD d then bitmap 2 (readyAt s 4 d) + 32 * b2n (readyAt s 0xE d 0) else 0) + 16 * b2n (readyAt s 6 d 0)

/-- The fields of a die block by the die's kind (14 R372). -/
def dieFields (s : State) (d : Nat) : List (Nat × Nat × Nat) :=
  if isCD d then
    [(0x03, 1, bitmap 3 (fun i => readyAt s 0 d (i + 1))), (0x08, 2, bitmap 16 (readyAt s 1 d)), (0x0A, 2, bitmap 16 (readyAt s 9 d)),
     (0x0C, 2, bitmap 10 (fun n => saddleOn d n && readyAt s 0xF d n)), (0x10, 8, bitmap 64 (readyAt s 3 d)),
     (0x20, 32, bitmap 256 (readyAt s 2 d)),
     (0x40, 32, ((List.range 16).map (fun i =>
        (inService s (uid 0xA d i) + 2 ^ 15 * b2n (readyAt s 0xA d i)) * 2 ^ (16 * i))).foldl (· + ·) 0)]
  else if isLD d then
    [(0x03, 1, bitmap 8 (readyAt s 0xC d)), (0x08, 2, bitmap 16 (readyAt s 0xD d)),
     (0x10, 16, ((List.range 16).map (fun i => (portOf s (uid 0xD d i)).state * 256 ^ i)).foldl (· + ·) 0)]
  else
    [(0x03, 1, b2n (health s mgmtUnit).ready + 2 * b2n (health s lpddrUnit).ready + 4 * b2n s.mod.tickCal +
        8 * b2n (health s paceUnit).ready + 16 * b2n (bit (debugCfg s) 0) + 32 * b2n s.tr.ledgerOpen),
     (0x08, 2, bitmap 16 (readyAt s 5 d))]

/-- A die block of 128 bytes (14 R372). -/
def dieBlock (s : State) (d : Nat) : List Byte :=
  layout 128 ([(0x00, 1, d), (0x01, 1, (dieOf s d).state), (0x02, 1, coresOf s d), (0x04, 4, (dieOf s d).generation)] ++ dieFields s d)

/-- The dies that a mask selects, ascending. -/
def maskDies (m : Nat) : List Nat := (List.range 13).filter (bit m)

/-- The readiness map (14 R371). -/
def readinessMap (s : State) (m : Nat) : List Byte :=
  leBytes 4 m ++ leBytes 4 (maskDies m).length ++ List.replicate 24 0 ++ ((maskDies m).map (dieBlock s)).flatten

/-- Checks of QUERY_READY (02 R54; 14 R371). -/
def preQueryReady (h : Hdr) (p : PQueryReady) (s : State) : Pre :=
  { preCore h s with
    fields := [(0x28, p.dieMask != 0)]
    ranges := [(0x20, p.destAddr.toNat, 32 + 128 * (maskDies p.dieMask.toNat).length, pWrite)] }

/-- A record goes to its destination, unless that is parked or a poisoned block would be written in part (08 R241, R244). -/
def writeRecord (a : Nat) (bs : List Byte) (j : Job) (s : State) : RunRes :=
  match rangesStop s [] [(a, bs.length)] with
  | some x => (s, x)
  | none => ends (storeLazy s (whoOf j) a bs) (done 0)

/-- QUERY_READY writes the readiness map (14 R371). -/
def runQueryReady (p : PQueryReady) (j : Job) (s : State) : RunRes :=
  writeRecord p.destAddr.toNat (readinessMap s p.dieMask.toNat) j s

/-- QUERY_READY (02 R53). -/
def execQueryReady (h : Hdr) (p : PQueryReady) (s : State) : Host.Outcome State Fault Refusal :=
  .next (issue (preQueryReady h p s) (runQueryReady p) (.queryReady h p) s)

/-! ## Unit status records -/

/-- STATE of a unit (14 R386). -/
def stateByte (s : State) (u : Nat) : Nat :=
  let h := health s u
  b2n (unitReady s u) + 2 * b2n h.quarantined + 4 * b2n h.testing + 8 * b2n h.probation

/-- A count of a unit's own record, as a field. -/
def cnt (s : State) (u off size : Nat) : Nat × Nat × Nat := (off, size, countOf s u off)

/-- A count that no command of the table makes (DESIGN CHOICE, log entry 34). -/
def freeCnt (s : State) (u off : Nat) : Nat × Nat × Nat := (off, 8, (Config.freeCount s.free u off).toNat)

/-- UNIT_ID and TICK_RATE of a record. -/
def headFields (s : State) (u : Nat) : List (Nat × Nat × Nat) := [(0, 4, u), (8, 4, (health s u).tickRate)]

/-- Results that a partition holds. -/
def held2 (p : Part) : Nat := b2n p.x.isSome + b2n p.y.isSome

/-- Whether a partition executes a pass or a drain (04 R120). -/
def partBusy (s : State) (u p : Nat) : Bool :=
  (partOf s u p).exec.isSome ||
    s.gz.jobs.any (fun j => j.unit == u && j.part == p && (match j.phase with | .waitBorrow _ => true | _ => false))

/-- An engine's record (04 R120). -/
def engineRecord (s : State) (u : Nat) : List (Nat × Nat × Nat) :=
  headFields s u ++
  [(0x04, 2, (health s u).beatPs), (0x06, 1, shapeOf s u), (0x07, 1, stateByte s u),
   (0x0C, 2, bitmap 16 (fun f => readyAt s 2 (uDie u) (16 * uInst u + f))), (0x0E, 2, bitmap 16 (partBusy s u)),
   (0x10, 4, ((List.range 16).map (fun p => held2 (partOf s u p) * 4 ^ p)).foldl (· + ·) 0),
   cnt s u 0x18 8, cnt s u 0x20 8, cnt s u 0x28 4, cnt s u 0x2C 4, cnt s u 0x30 4]

/-- A Confluence's record for a context (07 R222). -/
def confluenceRecord (s : State) (u c : Nat) : List (Nat × Nat × Nat) :=
  let d := uDie u
  let cf := cfOf s d
  headFields s u ++
  [(0x04, 1, stateByte s u), (0x05, 1, cf.claims.length), (0x0C, 2, areaBase s d), (0x0E, 2, areaSize s d),
   (0x10, 2, claimUnits cf.claims), cnt s u 0x12 2, cnt s u 0x18 8, cnt s u 0x20 8, cnt s u 0x28 8, cnt s u 0x30 8, cnt s u 0x38 8,
   cnt s u 0x40 8, (0x50, 1, c), (0x51, 1, b2n (ctxOf s c).overlap), (0x52, 2, mbInFlight s c), (0x54, 2, (ctxOf s c).mbHwm),
   (0x56, 2, (ctxOf s c).mbHwmRead), (0x58, 2, claimUnits (cf.claims.filter (fun x => x.ctx == c))), (0x5A, 2, amGet 0 cf.ctxHwm c),
   (0x60, 8, amGet 0 cf.ctxStale c)]

/-- A stack side's record for a context (08 R253). -/
def sideRecord (s : State) (u c : Nat) : List (Nat × Nat × Nat) :=
  let sd := sideOf s u
  let is (st : ChanState) (x : Chan) : Bool := x.state == st
  let lost := (s.mem.chans.filter (fun x => channelSide x.1 == u && chanPoisoned x.2)).map (·.1)
  headFields s u ++
  [(0x04, 1, b2n (unitReady s u) + 2 * b2n (health s u).quarantined + 4 * b2n sd.retraining.isSome + 8 * b2n sd.front.isSome +
      16 * b2n (chansIn s u (is .lost) != 0) + 32 * b2n sd.pendingSoft.isSome + 64 * b2n (chansIn s u (is .returnable) != 0)),
   (0x05, 1, sd.refresh), (0x06, 2, inService s u), (0x0C, 2, s16 ((stackTemp s (8 * uDie u + uInst u / 2)).getD 0)),
   (0x0E, 2, match sd.retraining with | some ch => chanNo ch | none => 0xFFFF), (0x10, 2, chansIn s u (is .softOut)),
   (0x12, 2, chansIn s u (is .lost)), (0x14, 4, s.grp.remapEpoch), (0x18, 8, sd.populated),
   (0x20, 8, sd.front.getD 0xFFFFFFFFFFFFFFFF), cnt s u 0x28 8, cnt s u 0x30 8, cnt s u 0x38 8, cnt s u 0x40 8,
   (0x50, 64, bitmap 512 (fun n => (chan s (chanUnit u n)).state == .inService)),
   (0x90, 32, bitmap 256 (fun x => match amFind (ctxOf s c).extents x with
      | some e => lost.any (fun ch => extentOnChan s ch e)
      | none => false))]

/-- A DMA engine's record for a context (09 R273). -/
def dmaRecord (s : State) (u c : Nat) : List (Nat × Nat × Nat) :=
  let l := amGet {} s.dma (256 * u + c)
  headFields s u ++
  [(0x04, 1, stateByte s u), cnt s u 0x10 8, cnt s u 0x18 8, cnt s u 0x20 8, cnt s u 0x28 8, cnt s u 0x30 4, (0x38, 1, c),
   (0x39, 1, l.status), (0x3C, 4, l.seq), (0x40, 4, l.done), (0x44, 4, l.failIndex), (0x48, 8, l.failAddr)]

/-- A drover's record for a context (11 R295). -/
def droverRecord (s : State) (u c : Nat) : List (Nat × Nat × Nat) :=
  let d := droverOf s (drvKey (uDie u) (uInst u))
  let l := (d.last.find? (fun l => l.ctx == c)).getD {}
  headFields s u ++
  [(0x04, 1, stateByte s u + 16 * b2n d.job.isSome), cnt s u 0x10 8, cnt s u 0x18 8, cnt s u 0x20 8, cnt s u 0x28 8, (0x38, 1, c),
   (0x39, 1, l.status), (0x3A, 2, l.cause), (0x3C, 4, l.seq), (0x40, 8, l.pc), (0x48, 8, l.addr), (0x50, 8, l.exit)]

/-- A port's record (12 R337). -/
def portRecord (s : State) (u : Nat) : List (Nat × Nat × Nat) :=
  let p := portOf s u
  let dev := match p.partner with
    | some m => if m.isSwitch || portMode s u = 1 then none else some m.device.toNat
    | none => none
  headFields s u ++
  [(0x04, 1, p.state), (0x05, 1, item s u 0x71), (0x06, 2, dev.getD 0xFFFF), (0x0C, 1, match dev with | some x => x % 16 | none => 0xFF),
   (0x0D, 1, s.grp.master.getD 0xFF), (0x0E, 2, p.rtt), cnt s u 0x10 8, cnt s u 0x18 8, freeCnt s u 0x20, freeCnt s u 0x28,
   cnt s u 0x30 8, cnt s u 0x38 8, cnt s u 0x40 8, cnt s u 0x48 8, cnt s u 0x50 4, (0x54, 4, s.grp.term), cnt s u 0x58 8, cnt s u 0x60 8]

/-- The lowest slack read on a die since the last plan; 0 before any reading. -/
def dieMinSlack (s : State) (d : Nat) : Int :=
  let l := (regions d).filterMap (fun u => (health s u).minSlack) ++ (match (dieOf s d).dieSlack with | some x => [x] | none => [])
  match l with
  | [] => 0
  | x :: xs => xs.foldl min x

/-- A compute die block's record (14 R385). -/
def cdRecord (s : State) (u : Nat) : List (Nat × Nat × Nat) :=
  let d := uDie u
  let out (k : Nat) (i : Nat) : Bool := (health s (uid k d i)).retired
  let rs := regions d
  headFields s u ++
  [(0x04, 1, (dieOf s d).state), (0x06, 2, railOf s d), (0x0C, 2, (guardPs s d).toNat), (0x0E, 2, s16 (dieMinSlack s d)),
   (0x10, 2, (dieOf s d).lifeDays), (0x12, 2, rs.countP (fun g => (health s g).retired)), cnt s u 0x14 4,
   (0x18, 16, ((List.range 8).map (fun t => rs.countP (fun g => tapOf s g == t) * 2 ^ (16 * t))).foldl (· + ·) 0),
   (0x28, 4, 0xFFFFFFFF), cnt s u 0x30 8, cnt s u 0x38 8, cnt s u 0x40 8, cnt s u 0x48 8, (0x50, 32, bitmap 256 (out 2)),
   (0x70, 8, bitmap 64 (out 3)), (0x78, 2, bitmap 16 (out 9)),
   (0x7A, 1, b2n (out 7 0) + 2 * b2n (out 8 0) + 4 * b2n (dieOf s d).dieRetired)]

/-- The common header of the other records (14 R386). -/
def commonFields (s : State) (u : Nat) : List (Nat × Nat × Nat) :=
  let h := health s u
  headFields s u ++ [(0x04, 1, stateByte s u + 16 * b2n h.retired), (0x05, 1, h.lastCause), (0x06, 2, h.lastTest)]

/-- The number that CSTATE holds (08 R223, 14 R386). -/
def cstateNo : ChanState → Nat
  | .inService => 0
  | .softOut => 1
  | .lost => 2
  | .returnable => 3

/-- The fields of the other records by kind (14 R386). -/
def kindFields (s : State) (u : Nat) : List (Nat × Nat × Nat) :=
  let d := uDie u
  match uKind u with
  | 0x2 =>
    [(0x10, 1, fieldPart s u), (0x11, 1, tapOf s u), (0x12, 2, s16 ((health s u).minSlack.getD 0)), cnt s u 0x14 4, cnt s u 0x18 8]
  | 0x4 =>
    [cnt s u 0x10 8, cnt s u 0x18 8,
     (0x20, 2, if uInst u = 0 && isCD d then s.gz.rings.countP (fun r => r.2.home == d && r.2.state != .closed) else 0), cnt s u 0x28 8]
  | 0x5 => [cnt s u 0x10 8, freeCnt s u 0x18]
  | 0x6 => [cnt s u 0x10 8, cnt s u 0x18 8, cnt s u 0x20 8, cnt s u 0x28 8, cnt s u 0x30 8]
  | 0x7 =>
    [(0x10, 1, (wsOf s d).rounds.length), cnt s u 0x14 4, cnt s u 0x18 8, cnt s u 0x20 8, cnt s u 0x28 8, cnt s u 0x30 8,
     cnt s u 0x38 8, cnt s u 0x40 8, (0x48, 4, s.dir.epoch)]
  | 0xB =>
    [(0x10, 1, cstateNo (chan s u).state), (0x11, 1, b2n (chan s u).training), (0x14, 4, (chan s u).queue.length), cnt s u 0x18 8,
     cnt s u 0x20 8, cnt s u 0x28 8, cnt s u 0x30 8, cnt s u 0x38 8]
  | 0xC => [cnt s u 0x10 8, cnt s u 0x18 8, cnt s u 0x20 8, cnt s u 0x28 8]
  | 0xE =>
    [cnt s u 0x10 8, cnt s u 0x18 8, cnt s u 0x20 8, (0x28, 1, match amFind s.link.ingest d with | some t => t.rings.length | none => 0)]
  | 0xF => [freeCnt s u 0x10, cnt s u 0x18 8]
  | 0x0 =>
    if uInst u != 0 then [cnt s u 0x10 8, cnt s u 0x18 8, cnt s u 0x20 8]
    else if isLD d then
      [cnt s u 0x10 8, cnt s u 0x18 8, (0x20, 1, (List.range 16).countP (fun i => (portOf s (uid 0xD d i)).state == 2))]
    else
      [(0x10, 8, s.tr.nextSeq), (0x18, 1, s.tr.held.length), (0x19, 1, debugCfg s), (0x1C, 4, paceStatus s),
       (0x20, 4, item s paceUnit 0x01), (0x24, 4, paceCurrent s)]
  | _ => []

/-- A unit's 256-byte status record, for a context (14 R386 names the rule of each kind). -/
def statusRecord (s : State) (u c : Nat) : List Byte :=
  layout 256 (match uKind u with
    | 0x1 => engineRecord s u
    | 0x3 => droverRecord s u c
    | 0x8 => confluenceRecord s u c
    | 0x9 => dmaRecord s u c
    | 0xA => sideRecord s u c
    | 0xD => portRecord s u
    | _ => if isCdBlock u then cdRecord s u else commonFields s u ++ kindFields s u)

/-! ## QUERY_STATUS -/

/-- A context's check record (05 R145). -/
def checkRecord (s : State) (c : Nat) : List Byte :=
  let x := ctxOf s c
  let r := x.chk
  layout 256 ([(0, 1, c), (1, 1, x.cls)] ++ chkOffsets.map (fun o => (o, 8, amGet 0 r.cnt o)) ++
    [(0x98, 4, r.failSeq), (0x9C, 1, r.failRing), (0x9D, 1, r.failStatus), (0xA0, 4, r.failUnit), (0xA8, 8, r.updates),
     (0xB0, 8, r.ledgerSeq), (0xB8, 8, r.createdSeq)])

/-- Checks of QUERY_STATUS (02 R54; 14 R386). -/
def preQueryStatus (h : Hdr) (p : PQueryStatus) (s : State) : Pre :=
  let u := p.unitId.toNat
  { preCore h s with
    fields := [(0x28, p.select.toNat < 3), (0x2C, p.select != 1 || uidValid u)]
    units := if p.select = 1 then [(0x2C, u)] else []
    ranges := [(0x20, p.destAddr.toNat, 256, pWrite)] }

/-- The record that SELECT names. -/
def selected (p : PQueryStatus) (c : Nat) (s : State) : List Byte :=
  match p.select.toNat with
  | 0 => identityRecord s
  | 1 => statusRecord s p.unitId.toNat c
  | _ => checkRecord s c

/-- QUERY_STATUS writes one record; a Confluence's starts the high-water mark of the context's reads anew (07 R221, R222). -/
def runQueryStatus (p : PQueryStatus) (j : Job) (s : State) : RunRes :=
  let c := j.ring / 256
  let r := writeRecord p.destAddr.toNat (selected p c s) j s
  match r.2 with
  | .inl e =>
    if e.status = DONE && p.select = 1 && uKind p.unitId.toNat = 8 then
      ends (modCtx r.1 c (fun x => { x with mbHwmRead := mbInFlight r.1 c })) e
    else r
  | .inr _ => r

/-- QUERY_STATUS (02 R53). -/
def execQueryStatus (h : Hdr) (p : PQueryStatus) (s : State) : Host.Outcome State Fault Refusal :=
  .next (issue (preQueryStatus h p s) (runQueryStatus p) (.queryStatus h p) s)

end Sys2Proof.Machine
end

