-- ==== Sys2Proof/Machine/Pres.lean ====
section
/-! DEFINITION. Every packet's checks and run, as its ring and its unit need them (02 R45-R48). -/

namespace Sys2Proof.Machine

/-- What the pre-parser and the dispatcher need to know of a packet. -/
def preOf (s : State) (i : Instr) : Pre :=
  match i with
  | .nop h => preCore h s
  | .queryReady h p => preQueryReady h p s
  | .queryStatus h p => preQueryStatus h p s
  | .mmPartition _ p => prePartition p
  | .mmPass h p _ => preMmPass h p s
  | .mmDrain h p _ => preMmDrain h p s
  | .mmAbort _ p => preMmAbort p s
  | .rtTopk h p _ => preRtTopk h p s
  | .rtCount h p _ => preRtCount h p s
  | .rtDispatch h p _ => preRtDispatch h p s
  | .rtReplay h p _ => preRtReplay h p s
  | .rtCancel h _ => preRtCancel h s
  | .cbCombine h p _ => preCbCombine h p s
  | .cbReturnGrad h p _ => preCbReturnGrad h p s
  | .cbFactorFlush h p _ => preCbFactorFlush h p s
  | .dmaRun h p _ => preDmaRun h p s
  | .dmaChain h p _ => preDmaChain h p s
  | .sigSet h p => preSig h p s
  | .sigAdd h p => preSig h p s
  | .sigWait h p => preSigWait h p s
  | .fenceWrites h p => preFence h p s
  | .fenceAll h p => preFence h p s
  | .loopBegin h p => preLoopBegin h p s
  | .loopEnd h => preCore h s
  | .skipIf h p => preSkipIf h p s
  | .drvLaunch h p => preDrvLaunch h p s
  | .memAtomic h p _ => preAtomic h p s
  | .verPublish h p => preVerPublish h p s
  | .verPin h _ => preCore h s
  | .verRetire h _ => preCore h s
  | .chainReduce h p _ => preChainReduce h p s
  | .grpBarrier h p => preGrpBarrier h p s
  | .grpDirectoryUpdate h p => preGrpDirectoryUpdate h p s
  | .selftestUnit h p _ => preSelftest h p s
  | .calibrateChannel h p => preCalibrate h p s
  | .ctxCreate h p => preCtxCreate h p s
  | .ctxDestroy h p => preCtxDestroy h p s
  | .cfgWrite h p => preCfgWrite h p s
  | .mapOut h p => preMapOut h p s
  | .remapEpoch h _ => preCore h s
  | .fwLoad h p _ => preFwLoad h p s
  | .ledgerSeal h => preCore h s
  | _ => { unit := 0 }

/-- What a packet does when it is dispatched. -/
def runOf (i : Instr) : Job → State → RunRes :=
  match i with
  | .queryReady _ p => runQueryReady p
  | .queryStatus _ p => runQueryStatus p
  | .mmPartition _ p => runMmPartition p
  | .mmPass _ _ _ => runQueued
  | .mmDrain _ _ _ => runQueued
  | .mmAbort _ p => runMmAbort p
  | .rtTopk _ _ _ => runInUnit
  | .rtCount _ _ _ => runInUnit
  | .rtDispatch _ _ _ => runInUnit
  | .rtReplay _ _ _ => runInUnit
  | .rtCancel _ p => runRtCancel p
  | .cbCombine _ _ _ => runInUnit
  | .cbReturnGrad _ _ _ => runInUnit
  | .cbFactorFlush _ _ _ => runInUnit
  | .dmaRun _ p f => runDmaRun p f
  | .dmaChain _ p f => runDmaChain p f
  | .sigSet _ p => runSigSet p
  | .sigAdd _ p => runSigAdd p
  | .sigWait _ p => runSigWait p
  | .fenceWrites _ p => runFence false p
  | .fenceAll _ p => runFence true p
  | .loopBegin _ p => runLoopBegin p
  | .loopEnd _ => runLoopEnd
  | .skipIf _ p => runSkipIf p
  | .drvLaunch _ p => runDrvLaunch p
  | .memAtomic _ p f => runAtomic p f
  | .verPublish _ p => runVerPublish p
  | .verPin _ p => runVerPin p
  | .verRetire _ p => runVerRetire p
  | .chainReduce _ p f => runChainReduce p f
  | .grpBarrier _ p => runGrpBarrier p
  | .grpDirectoryUpdate _ p => runGrpDirectoryUpdate p
  | .selftestUnit _ p _ => runOrder (.unit p.unitId)
  | .calibrateChannel _ p => runOrder (.channel p.channel)
  | .ctxCreate _ p => runCtxCreate p
  | .ctxDestroy _ p => runOrder (.ctx p.ctx)
  | .cfgWrite _ p => runCfgWrite p
  | .mapOut _ p => runOrder (.channel p.channel)
  | .remapEpoch _ _ => runOrder .device
  | .fwLoad _ p _ => runOrder (.slot p.slot)
  | .ledgerSeal _ => runLedgerSeal
  | _ => runNop

/-- What a packet does when its unit goes on with it: for one that queued, what its turn brings. -/
def workOf (i : Instr) : Job → State → RunRes :=
  match i with
  | .rtTopk _ _ _ => wsRun
  | .rtCount _ _ _ => wsRun
  | .rtDispatch _ _ _ => wsRun
  | .rtReplay _ _ _ => wsRun
  | .cbCombine _ _ _ => cfRun
  | .cbReturnGrad _ _ _ => cfRun
  | .cbFactorFlush _ _ _ => flushRun
  | _ => runOf i

end Sys2Proof.Machine
end

