-- ==== Sys2Proof/Machine/Orders.lean ====
section
/-! DEFINITION. What the kernel does with orders: the state conditions of configuration items, the writes of items, the close
of an intake window (02 R64-R67, R415), and calls of the kernel gate (13 R339). -/

namespace Sys2Proof.Machine

/-! ## State conditions of items (02 R415 order 6) -/

/-- Whether a dispatched command of context 0 has a checked range in an extent (02 R35). -/
def extentInUse (s : State) (e : Extent) : Bool :=
  s.gz.jobs.any (fun j => j.ring < 256 &&
    (preOf s j.cmd).ranges.any (fun r => e.limit != 0 && r.2.1 < e.limit && e.base < r.2.1 + r.2.2.1))

/-- Whether a new extent shrinks or removes an old one. -/
def shrinks (old new : Extent) : Bool :=
  usedExtent old && (!usedExtent new || old.base < new.base || new.limit < old.limit)

/-- Order 6 of R415: the state conditions of the items that have them (02 R35; 07 R192; 12 R325; 13 R362). -/
def itemState (s : State) (u it v : Nat) : Option End :=
  let bad := some (fails BAD_STATE 0x28)
  let busy := some (fails BUSY_DEFER 2)
  let r := bits v 56 8
  if it = iCombineArea then (if (cfOf s (uDie u)).claims.isEmpty then none else busy)
  else if it = iCtx0Extent then
    let old := amGet (⟨0, 0, 0, 0⟩ : Extent) (ctxOf s 0).extents r
    let new := readExtent (readBytes s (kernelCore 12) (bits v 0 48) 32)
    if shrinks old new && extentInUse s old then busy else none
  else if it = iCtx0Ring then
    let here := ringExists s r && (ringOf s r).state != .closed
    if bit v 48 then (if !here then bad else if ringIdle s r then none else busy)
    else if here then bad else none
  else if it = iGroupCfg then (if s.gz.ctxs.any (fun c => c.1 != 0 && c.2.live) then bad else none)
  else if it = iTimeOfDay then (if bit (item s mdBlock iTodCfg) 8 then bad else none)
  else none

/-- The kernel applies a write of an item: it takes effect, or it is refused; both are ledgered (02 R415). -/
def applyWrite (origin ctx u it v : Nat) (s : State) : State × End :=
  match (itemCheck s origin u it v).orElse (fun _ => itemState s u it v) with
  | some e => (itemRefused origin ctx u it v s, e)
  | none => (writeItem origin ctx u it v s, done 0)

/-! ## The item commands -/

/-- A write of item `it` by an origin, applied by the kernel: the commands of the configuration items. The value is `v` with
reserved bits left out (00 R9). -/
def writeCmd (it : Nat) (w : ItemWrite) (v : Nat) (s : State) : Host.Outcome State Fault Refusal :=
  let u := w.unit.toNat
  let o := w.origin.toNat
  let c := w.ctx.toNat
  let v := v &&& itemMask it
  .next (settle (
    if !uidValid u || !itemOn u it then itemRefused o c u it v s
    else if !ledgerRoom s then s
    else pumpAll (applyWrite o c u it v s).1))

/-- PACE_CAP (01 R30). -/
def execPaceCap (w : ItemWrite) (s : State) : Host.Outcome State Fault Refusal := writeCmd iPaceCap w w.value.toNat s
/-- WDOG_DELAY (01 R26). -/
def execWdogDelay (w : ItemWrite) (s : State) : Host.Outcome State Fault Refusal := writeCmd iWdog w w.value.toNat s
/-- CTX0_EXTENT (02 R35). -/
def execCtx0Extent (w : ItemWrite) (s : State) : Host.Outcome State Fault Refusal := writeCmd iCtx0Extent w w.value.toNat s
/-- CTX0_RING with REMOVE 0 (02 R35). -/
def execCtx0Ring (w : ItemWrite) (s : State) : Host.Outcome State Fault Refusal :=
  writeCmd iCtx0Ring w (w.value.toNat - b2n (bit w.value.toNat 48) * 2 ^ 48) s
/-- CTX0_RING with REMOVE 1 (02 R35). -/
def execCtx0RingRemove (w : ItemWrite) (s : State) : Host.Outcome State Fault Refusal :=
  writeCmd iCtx0Ring w (w.value.toNat ||| 2 ^ 48) s
/-- CHECK_LIMIT (05 R135). -/
def execCheckLimit (w : ItemWrite) (s : State) : Host.Outcome State Fault Refusal := writeCmd iCheckLimit w w.value.toNat s
/-- SEG_LIMIT (06 R183). -/
def execSegLimit (w : ItemWrite) (s : State) : Host.Outcome State Fault Refusal := writeCmd iSegLimit w w.value.toNat s
/-- COMBINE_AREA (07 R192). -/
def execCombineArea (w : ItemWrite) (s : State) : Host.Outcome State Fault Refusal := writeCmd iCombineArea w w.value.toNat s
/-- FACTOR_TABLE (07 R209). -/
def execFactorTable (w : ItemWrite) (s : State) : Host.Outcome State Fault Refusal := writeCmd iFactorTable w w.value.toNat s
/-- OVERLAP (07 R214). -/
def execOverlap (w : ItemWrite) (s : State) : Host.Outcome State Fault Refusal := writeCmd iOverlap w w.value.toNat s
/-- STAT_TABLE (11 R296). -/
def execStatTable (w : ItemWrite) (s : State) : Host.Outcome State Fault Refusal := writeCmd iStatTable w w.value.toNat s
/-- MAPOUT_POLICY (08 R247). -/
def execMapoutPolicy (w : ItemWrite) (s : State) : Host.Outcome State Fault Refusal := writeCmd iMapoutPolicy w w.value.toNat s
/-- PORT_CFG (12 R309). -/
def execPortCfg (w : ItemWrite) (s : State) : Host.Outcome State Fault Refusal := writeCmd iPortCfg w w.value.toNat s
/-- INGEST_CFG (12 R323). -/
def execIngestCfg (w : ItemWrite) (s : State) : Host.Outcome State Fault Refusal := writeCmd iIngestCfg w w.value.toNat s
/-- GROUP_CFG (12 R325). -/
def execGroupCfg (w : ItemWrite) (s : State) : Host.Outcome State Fault Refusal := writeCmd iGroupCfg w w.value.toNat s
/-- DEBUG_CFG (13 R351). -/
def execDebugCfg (w : ItemWrite) (s : State) : Host.Outcome State Fault Refusal := writeCmd iDebugCfg w w.value.toNat s
/-- MGMT_NET (13 R352). -/
def execMgmtNet (w : ItemWrite) (s : State) : Host.Outcome State Fault Refusal := writeCmd iMgmtNet w w.value.toNat s
/-- TIME_OF_DAY (13 R362). -/
def execTimeOfDay (w : ItemWrite) (s : State) : Host.Outcome State Fault Refusal := writeCmd iTimeOfDay w w.value.toNat s
/-- TOD_CFG (13 R362). -/
def execTodCfg (w : ItemWrite) (s : State) : Host.Outcome State Fault Refusal := writeCmd iTodCfg w w.value.toNat s
/-- MARGIN_CFG (14 R381). -/
def execMarginCfg (w : ItemWrite) (s : State) : Host.Outcome State Fault Refusal := writeCmd iMarginCfg w w.value.toNat s
/-- ROTATE_CFG (14 R383). -/
def execRotateCfg (w : ItemWrite) (s : State) : Host.Outcome State Fault Refusal := writeCmd iRotateCfg w w.value.toNat s
/-- CNT_SELn, its CLEAR bit as the value has it (15 R390). -/
def execCntSel (w : ItemWrite) (n : Fin 8) (s : State) : Host.Outcome State Fault Refusal :=
  writeCmd (iCntSel + n.val) w w.value.toNat s
/-- CNT_SELn with CLEAR 1: the counter is set to zero when the write takes effect (15 R390). -/
def execCntClear (w : ItemWrite) (n : Fin 8) (s : State) : Host.Outcome State Fault Refusal :=
  writeCmd (iCntSel + n.val) w (w.value.toNat ||| 4) s
/-- SNAP_RINGn (15 R391). -/
def execSnapRing (w : ItemWrite) (n : Fin 64) (s : State) : Host.Outcome State Fault Refusal :=
  writeCmd (iSnapRing + n.val) w w.value.toNat s

/-! ## The close of an intake window (02 R65-R67) -/

/-- OBJECT and FIELD of an order that lost its window (13 R356). -/
def objectOf : OrderObj → Nat × Nat
  | .item u it => (u.toNat, it.toNat)
  | .unit u => (u.toNat, 0)
  | .channel ch => (ch.toNat, 0)
  | .ctx c => (c.toNat, 0)
  | .slot n => (n.toNat, 0)
  | .dirKey k => (k.toNat, 0)
  | .device => (0, 0)

/-- The value before an order took effect: an item's, else 0. -/
def oldOf (s : State) (obj : OrderObj) (o : Order) : Nat :=
  match obj with
  | .item u it => itemOld s u.toNat it.toNat o.value
  | _ => 0

/-- The value an order asks for: an item's, else 0. -/
def newOf (obj : OrderObj) (o : Order) : Nat := match obj with | .item _ _ => o.value | _ => 0

/-- The entry of an order that lost its window (02 R65, 13 R356 reason 2). -/
def lostEvent (obj : OrderObj) (o : Order) (old winner : Nat) : LedgerEvent :=
  mkEv o.origin 2 (objectOf obj).1 (objectOf obj).2 o.ctx old (newOf obj o) winner true

/-- Reason and FIELD of an order that shares its winner's end, as the winner's own entry has them (02 R65, 13 R356). -/
def sharedReason (obj : OrderObj) (kind value : Nat) : Nat × Nat :=
  match obj with
  | .item _ it => (1, it.toNat)
  | .unit _ => (6, 3)
  | .channel _ => if kind = 0x0F03 then (8, 1 + bits value 32 8) else (6, 3)
  | .ctx _ => (3, if kind = 0x0F00 then 0 else 1)
  | .slot _ => (0xB, 1)
  | .dirKey _ => (0xA, 0)
  | .device => (8, 4)

/-- AUX of such an entry: the packet's SEQ, the FW_VERSION of the slot, or the epoch (13 R356). -/
def sharedAux (s : State) (obj : OrderObj) (o : Order) : Nat :=
  match obj with
  | .ctx _ => ((o.job.bind (jobOf s)).map (fun j => (hdrOf j.cmd).seq.toNat)).getD 0
  | .slot n => (fwSlot s n.toNat).fwVersion
  | .device => o.value % 2 ^ 32
  | _ => 0

/-- The entry of an order that shares its winner's end; with a refused winner it is refused with it. -/
def sharedEvent (s : State) (obj : OrderObj) (o : Order) (old : Nat) (refusal : Option End) : LedgerEvent :=
  let r := sharedReason obj o.kind o.value
  match refusal with
  | none => mkEv o.origin r.1 (objectOf obj).1 r.2 o.ctx old (newOf obj o) (sharedAux s obj o)
  | some e =>
    if r.1 = 1 || r.1 = 0xB then mkEv o.origin r.1 (objectOf obj).1 r.2 o.ctx old (newOf obj o) 0 true
    else mkEv o.origin 0xD (objectOf obj).1 r.2 o.ctx 0 0 e.status true

/-- Whether a context other than 0 has a dispatched command with a checked range on a side that a remap epoch affects
(08 R252). -/
def remapBusy (s : State) : Bool :=
  let sides := affectedSides s
  s.gz.jobs.any (fun j => 256 ≤ j.ring && (sidesOf (preOf s j.cmd)).any (fun u => sides.contains u))

/-- Both sets of hardware faults of an order: those of its packet, and those that its application strikes. -/
def orderFaults (a b : Faults) : Faults :=
  { b with testFails := a.testFails ++ b.testFails, cryptoBad := a.cryptoBad || b.cryptoBad }

/-- The kernel applies a packet's order at the close of its window. -/
def applyOrder (f : Faults) (o : Order) (j : Job) (s : State) : State × (End ⊕ Phase) :=
  let now (r : State × End) : State × (End ⊕ Phase) := (r.1, .inl r.2)
  match j.cmd with
  | .cfgWrite _ p => now (applyWrite o.origin o.ctx p.unitId.toNat p.item.toNat o.value s)
  | .mapOut _ p => now (mapOutApply p o.origin s)
  | .remapEpoch _ p => now (remapApply p (remapBusy s) o.origin s)
  | .ctxCreate _ p => now (ctxCreateApply p j o.origin s)
  | .ctxDestroy _ p => now (ctxDestroyApply p j o.origin s)
  | .fwLoad _ p g => now (fwLoadApply p (orderFaults g f) j o.origin s)
  | .selftestUnit _ p g => selftestApply p (orderFaults g f) o.origin s
  | .calibrateChannel _ p =>
    let ch := p.channel.toNat
    (ledger (uDie ch) o.origin 6 ch 3 o.ctx 0 0 0 (dueRetrain true ch s), .inr .retrain)
  | _ => (s, .inl (done 0))

/-- Apply a window's winner: a packet's order, or a write that came through the kernel gate. -/
def applyWinner (obj : OrderObj) (f : Faults) (o : Order) (s : State) : State × (End ⊕ Phase) :=
  match o.job.bind (jobOf s) with
  | some j =>
    let g := match j.cmd with
      | .selftestUnit h p k => Instr.selftestUnit h p (orderFaults k f)
      | i => i
    let j := { j with cmd := g }
    let r := applyOrder f o j (modJob s j.id (fun k => { k with cmd := g }))
    (outcome j r, r.2)
  | none => match obj with
    | .item u it =>
      let r := applyWrite o.origin o.ctx u.toNat it.toNat o.value s
      (r.1, .inl r.2)
    | _ => (s, .inl (done 0))

/-- An order in conflict with the winner ends SUPERSEDED and is ledgered (02 R65). -/
def supersede (obj : OrderObj) (old winner : Nat) (o : Order) (s : State) : State :=
  let d := holderDie obj
  let s := ledgerEv d (lostEvent obj o old winner) (count s (kernelCore d) 0x28 1)
  match o.job with
  | some id => endJob (leaveWindows id s) id { fails SUPERSEDED winner with origin := some winner }
  | none => s

/-- An order of the winner's effect ends as the winner does (02 R65). -/
def share (obj : OrderObj) (old : Nat) (winner : Option Nat) (r : End ⊕ Phase) (o : Order) (s : State) : State :=
  let refusal := match r with | .inl e => (if e.status = DONE then none else some e) | .inr _ => none
  let s := ledgerEv (holderDie obj) (sharedEvent s obj o old refusal) s
  match o.job with
  | none => s
  | some id => match r, winner with
    | .inl e, _ => endJob s id e
    | .inr _, some w => modJob s id (fun k => { k with phase := .follow w })
    | .inr _, none => endJob s id (done 0)

/-- Every order of a window but its winner takes its end. -/
def settleOrders (obj : OrderObj) (w : Order) (r : End ⊕ Phase) (s0 : State) : List Order → State → State
  | [], s => s
  | o :: os, s =>
    let old := oldOf s0 obj o
    settleOrders obj w r s0 os
      (if sameEffect w o then share obj old w.job r o s else supersede obj old w.origin o s)

/-- An update whose orders have all left their windows is made by the master (06 R179). -/
def updatesDue (s : State) : State :=
  let s := { s with gz := { s.gz with jobs := s.gz.jobs.map (fun j => match j.cmd, j.phase with
    | .grpDirectoryUpdate _ _, .inWindow =>
      if s.gz.windows.any (fun w => w.orders.any (fun o => o.job == some j.id)) then j else { j with phase := .dirUpdate }
    | _, _ => j) } }
  nextUpdate (s.gz.jobs.length + 1) s

/-- The window of a directory entry closes: orders in conflict with the winner are superseded with their whole update, the
others go on (02 R65; 06 R179). -/
def closeEntryWindow (obj : OrderObj) (w : Order) (os : List Order) (s : State) : State :=
  updatesDue (settleOrders obj w (.inl (done 0)) s (os.filter (fun o => !sameEffect w o)) s)

/-- An open window closes (02 R65-R67). -/
def closeWindow (w : Window) (f : Faults) (s : State) : State :=
  let s := { s with gz := { s.gz with windows := s.gz.windows.filter (fun x => x.obj != w.obj) } }
  match w.action with
  | some a => settleOrders w.obj a (.inl (done 0)) s w.orders s
  | none => match winnerOf w.orders with
    | none => s
    | some o => match w.obj with
      | .dirKey _ => closeEntryWindow w.obj o w.orders s
      | _ =>
        let r := applyWinner w.obj f o s
        settleOrders w.obj o r.2 s (w.orders.erase o) r.1

/-- INTAKE_WINDOW_CLOSE: 10 µs after it opened an object's window closes (02 R65). -/
def execIntakeWindowClose (obj : OrderObj) (f : Faults) (s : State) : Host.Outcome State Fault Refusal :=
  .next (settle (match windowOf s obj with
    | none => s
    | some w => pumpAll (closeWindow w f s)))

/-! ## The kernel gate (13 R339) -/

/-- Order 1: the kind is defined and the caller's origin class may use it. -/
def gateAllows (k : GateKind) (origin : Nat) : Bool :=
  let c := origin / 4096
  match k with
  | .read => [0, 1, 2, 3, 9].contains c
  | .write => [0, 1, 2, 3, 9].contains c
  | .undefinedKind _ => false
  | _ => c = 0 || c = 3

/-- Order 2: the object exists, and the field is one that the kind reads or writes: an item, or a FIELD code of a margin
action (13 R356). -/
def gateTarget (k : GateKind) (u field : Nat) : Bool :=
  match k with
  | .read => uidValid u && itemOn u field
  | .write => uidValid u && itemOn u field && !itemReadOnly field
  | .tap => isRegion u && field = 0
  | .rail => isCdBlock u && field = 1
  | .retire => (isRegion u || isCdBlock u) && field = 2
  | .append => field = 0
  | .undefinedKind _ => false

/-- The value of a call: an item's without its reserved bits. -/
def gateValue (c : GateCall) : Nat :=
  match c.kind with
  | .write => c.value.toNat &&& itemMask c.field.toNat
  | _ => c.value.toNat

/-- Order 3: the value lies within the field's range (02 R415; 14 R367, R377). -/
def gateRange (s : State) (c : GateCall) : Option End :=
  let v := gateValue c
  match c.kind with
  | .write => itemCheck s c.origin.toNat c.object.toNat c.field.toNat v
  | .tap => if v < 8 then none else some (fails OUT_OF_RANGE 0)
  | .rail => if 680 ≤ v && v ≤ 800 && v % 5 = 0 then none else some (fails OUT_OF_RANGE 0)
  | _ => none

/-- The first check that a call fails (13 R339). -/
def gateCheck (s : State) (c : GateCall) : Option End :=
  if !gateAllows c.kind c.origin.toNat then some (fails NO_PERMISSION 0)
  else if !gateTarget c.kind c.object.toNat c.field.toNat then
    some (fails NO_PERMISSION (if c.kind == .write then 0x24 else 0))
  else match gateRange s c with
    | some e => some e
    | none => if c.kind != .read && !ledgerRoom s then some (fails BUSY_DEFER 4) else none

/-- What a call of kind read reads: an item, and with CNT_SELn also its counter. -/
def gateRead (s : State) (u field : Nat) : List Nat :=
  [itemRead s u field] ++
    (if iCntSel ≤ field && field < iCntSel + 8 then [amGet 0 s.hw.counters (8 * u + (field - iCntSel))] else [])

/-- An accepted call takes effect (13 R339): an order joins its window. -/
def gateAct (c : GateCall) (s : State) : State :=
  let o := c.origin.toNat
  let u := c.object.toNat
  match c.kind with
  | .write => joinWindow (.item c.object c.field) ⟨o, c.ctx.toNat, 0x0F02, gateValue c, none⟩ s
  | .tap => setTap o u c.value.toNat s
  | .rail => setRail o (uDie u) c.value.toNat s
  | .retire => retire o u s
  | .append => ledger 12 o 0x10 u 0 c.ctx.toNat 0 0 c.value.toNat s
  | _ => s

/-- The entry of a refused call (13 R339, R356). -/
def gateRefused (die : Nat) (c : GateCall) (e : End) (s : State) : State :=
  match c.kind with
  | .write =>
    if e.status = BUSY_DEFER then s
    else itemRefused c.origin.toNat c.ctx.toNat c.object.toNat c.field.toNat (gateValue c) s
  | _ => if e.status = BUSY_DEFER then s else callRefused die c.origin.toNat c.object.toNat c.field.toNat c.ctx.toNat e s

/-- Keep what a gate answered. -/
def gateAnswer (die : Nat) (e : End) (read : List Nat) (s : State) : State :=
  { s with tr := { s.tr with gate := amPut s.tr.gate die (e.status, e.detail, read) } }

/-- KERNEL_GATE_CALL: the kernel of a die checks a call in order, and applies or refuses it (13 R339). -/
def execKernelGateCall (die : Die) (call : GateCall) (s : State) : Host.Outcome State Fault Refusal :=
  let d := die.val
  let s := if d = 12 then count s (uid 5 12 0) 0x10 1 else if isCD d then count s (uid 4 d 0) 0x28 1 else s
  .next (settle (match gateCheck s call with
    | some e => gateAnswer d e [] (gateRefused d call e (gateCount d false s))
    | none =>
      let r := if call.kind == .read then gateRead s call.object.toNat call.field.toNat else []
      gateAnswer d (done 0) r (gateAct call (gateCount d true s))))

end Sys2Proof.Machine
end

