-- ==== Sys2Proof/Machine/Float.lean ====
section
/-! DEFINITION. Scalar operations of the drovers' instruction set on codes of FP16, FP32 and FP64: results rounded to nearest even
(03 R71) with the exception flags of RISC-V F and D, and integer operations of M (11 R286; DEDUCED, log entry 70). -/

namespace Sys2Proof.Machine

/-! ## Exception flags -/

/-- NV, DZ, OF, UF, NX of fflags. -/
def flNV : Nat := 16
def flDZ : Nat := 8
def flOF : Nat := 4
def flUF : Nat := 2
def flNX : Nat := 1

/-- A flag when a condition holds. -/
def flagIf (b : Bool) (f : Nat) : Nat := if b then f else 0

/-- Whether a code is a NaN. -/
def isNan (f : FFmt) (c : Nat) : Bool := f.decode c == .nan
/-- Whether a code is a signaling NaN. -/
def isSNan (f : FFmt) (c : Nat) : Bool := isNan f c && !bit c (f.mb - 1)

/-- Whether a magnitude is tiny after rounding: below the least normal number with an unbounded exponent. -/
def tiny (f : FFmt) (m : Nat) (e : Int) : Bool :=
  let r := ({ f with bias := f.bias + 100000 } : FFmt).roundMag m e
  m != 0 && dyLt ⟨r.1, r.2⟩ (dyPow2 (1 - (f.bias : Int)))

/-- Round a value to a format: its code and the flags of the rounding. -/
def fRound (f : FFmt) (v : FVal) : Nat × Nat :=
  match v with
  | .fin _ m e =>
    let r := f.round v
    if r.2 == .saturated then (f.encode r.1, flOF + flNX)
    else if dyEq (fDy v) (fDy r.1) then (f.encode r.1, 0)
    else (f.encode r.1, flNX + flagIf (tiny f m e) flUF)
  | w => (f.encode w, 0)

/-- An operation of two codes. -/
def fOp2 (f : FFmt) (op : FVal → FVal → FVal) (a b : Nat) : Nat × Nat :=
  let x := f.decode a
  let y := f.decode b
  let v := op x y
  let r := fRound f v
  (r.1, r.2 ||| flagIf (isSNan f a || isSNan f b || (v == .nan && x != .nan && y != .nan)) flNV)

/-- a + b. -/
def fpAdd (f : FFmt) : Nat → Nat → Nat × Nat := fOp2 f fAdd
/-- a − b. -/
def fpSub (f : FFmt) : Nat → Nat → Nat × Nat := fOp2 f (fun x y => fAdd x (fNegate y))
/-- a · b. -/
def fpMul (f : FFmt) : Nat → Nat → Nat × Nat := fOp2 f fMul

/-- Whether a value is zero. -/
def fIsZero : FVal → Bool
  | .fin _ m _ => m = 0
  | _ => false

/-- a / b. -/
def fpDiv (f : FFmt) (a b : Nat) : Nat × Nat :=
  let x := f.decode a
  let r := fOp2 f fDiv a b
  (r.1, r.2 ||| flagIf (fFinite x && !fIsZero x && fIsZero (f.decode b)) flDZ)

/-- √a. -/
def fpSqrt (f : FFmt) (a : Nat) : Nat × Nat :=
  let x := f.decode a
  let v := fSqrt x
  let r := fRound f v
  (r.1, r.2 ||| flagIf (isSNan f a || (v == .nan && x != .nan)) flNV)

/-- ±(a · b) ± c, rounded once. -/
def fpFma (f : FFmt) (negProd negAdd : Bool) (a b c : Nat) : Nat × Nat :=
  let x := f.decode a
  let y := f.decode b
  let z := f.decode c
  let p := fMul x y
  let v := fAdd (if negProd then fNegate p else p) (if negAdd then fNegate z else z)
  let r := fRound f v
  let bad := isSNan f a || isSNan f b || isSNan f c || (p == .nan && x != .nan && y != .nan) ||
    (v == .nan && p != .nan && z != .nan)
  (r.1, r.2 ||| flagIf bad flNV)

/-- The sign-injection operations: 0 sign of b, 1 its opposite, 2 the exclusive or. -/
def fpSgnj (f : FFmt) (k : Nat) (a b : Nat) : Nat :=
  let w := f.width - 1
  let s := if k = 0 then bit b w else if k = 1 then !bit b w else bit a w != bit b w
  a % 2 ^ w + b2n s * 2 ^ w

/-- minimumNumber and maximumNumber. -/
def fpMinMax (f : FFmt) (mx : Bool) (a b : Nat) : Nat × Nat :=
  let x := f.decode a
  let y := f.decode b
  let fl := flagIf (isSNan f a || isSNan f b) flNV
  let lt := fCmp x y < 0 || (fCmp x y == 0 && fNeg x && !fNeg y)
  if x == .nan then (if y == .nan then f.encode .nan else b, fl)
  else if y == .nan then (a, fl)
  else (if lt != mx then a else b, fl)

/-- Comparisons: 2 equal (quiet), 1 less, 0 less or equal (signaling). -/
def fpCmp (f : FFmt) (k : Nat) (a b : Nat) : Bool × Nat :=
  let x := f.decode a
  let y := f.decode b
  if x == .nan || y == .nan then (false, flagIf (k != 2 || isSNan f a || isSNan f b) flNV)
  else (if k = 2 then fCmp x y == 0 else if k = 1 then fCmp x y < 0 else fCmp x y ≤ 0, 0)

/-- The class of a code, one bit of ten. -/
def fpClass (f : FFmt) (a : Nat) : Nat :=
  match f.decode a with
  | .nan => if isSNan f a then 2 ^ 8 else 2 ^ 9
  | .inf n => if n then 2 ^ 0 else 2 ^ 7
  | .fin n m _ =>
    if m = 0 then (if n then 2 ^ 3 else 2 ^ 4)
    else if m < 2 ^ f.mb then (if n then 2 ^ 2 else 2 ^ 5)
    else if n then 2 ^ 1 else 2 ^ 6

/-- A code of one format in another. -/
def fpConv (from' to' : FFmt) (a : Nat) : Nat × Nat :=
  let r := fRound to' (from'.decode a)
  (r.1, r.2 ||| flagIf (isSNan from' a) flNV)

/-- m · 2^e rounded to an integer: 0 nearest even, 1 toward zero, 2 down, 3 up, 4 nearest with ties away; and whether that is
inexact. -/
def roundInt (rm : Nat) (neg : Bool) (m : Nat) (e : Int) : Int × Bool :=
  if 0 ≤ e then
    let r : Nat := m * 2 ^ e.toNat
    (if neg then -(r : Int) else r, false)
  else
    let d := (-e).toNat
    let q := m / 2 ^ d
    let rest := m % 2 ^ d
    let up := match rm with
      | 0 => decide (2 ^ d < 2 * rest) || (decide (2 * rest = 2 ^ d) && q % 2 == 1)
      | 1 => false
      | 2 => neg && rest != 0
      | 3 => !neg && rest != 0
      | _ => decide (2 ^ d ≤ 2 * rest)
    let r : Nat := q + b2n up
    (if neg then -(r : Int) else r, rest != 0)

/-- A code as an integer of n bits: out of range or NaN gives the nearest bound, or the largest for NaN, with NV. -/
def fpToInt (f : FFmt) (rm n : Nat) (signed : Bool) (a : Nat) : Nat × Nat :=
  let lo : Int := if signed then -(2 ^ (n - 1) : Nat) else 0
  let hi : Int := (if signed then 2 ^ (n - 1) else 2 ^ n : Nat) - 1
  match f.decode a with
  | .nan => (ofInt n hi, flNV)
  | .inf s => (ofInt n (if s then lo else hi), flNV)
  | .fin s m e =>
    let r := roundInt rm s m e
    if r.1 < lo then (ofInt n lo, flNV) else if hi < r.1 then (ofInt n hi, flNV) else (ofInt n r.1, flagIf r.2 flNX)

/-- An integer of n bits as a code. -/
def fpOfInt (f : FFmt) (n : Nat) (signed : Bool) (a : Nat) : Nat × Nat :=
  fRound f (dyF (dyOf (if signed then toInt n a else ((a % 2 ^ n : Nat) : Int))))

/-! ## The 7-bit estimates of V -/

/-- a / b rounded to nearest. -/
def nearDiv (a b : Nat) : Nat := (2 * a + b) / (2 * b)

/-- The reciprocal estimate of a normalised significand of 7 fraction bits. -/
def rec7 (i : Nat) : Nat := nearDiv (2 ^ 16) (2 * i + 257) - 128

/-- The reciprocal square root estimate: odd says that the exponent is odd, i is the top 6 fraction bits. -/
def rsqrt7 (odd : Bool) (i : Nat) : Nat :=
  -- 256 / √x with x = (i + 64.5) / 64, or twice that: 256 · √(128 / (2 i + 129)) over √1 or √2
  let num := 2 ^ 16 * 128 * 2 ^ 20
  let den := (2 * i + 129) * (if odd then 2 else 1)
  let r := isqrtAux 24 (num / den) 0
  nearDiv r (2 ^ 10) - 128

/-- vfrec7.v. -/
def fpRec7 (f : FFmt) (a : Nat) : Nat × Nat :=
  match f.decode a with
  | .nan => (f.encode .nan, flagIf (isSNan f a) flNV)
  | .inf n => (f.encode (.fin n 0 0), 0)
  | .fin n m _ =>
    if m = 0 then (f.encode (.inf n), flDZ)
    else
      let e := bits a f.mb f.eb
      let sh := if e = 0 then f.mb - Nat.log2 m else 0
      if e = 0 && 3 ≤ sh then
        -- too small: the result overflows; round to nearest gives infinity
        (f.encode (.inf n), flOF + flNX)
      else
        let sig := if e = 0 then m * 2 ^ sh % 2 ^ f.mb else m % 2 ^ f.mb
        let ne : Int := if e = 0 then 1 - (sh : Int) else e
        let oe : Int := 2 * (f.bias : Int) - 1 - ne
        let os := rec7 (sig / 2 ^ (f.mb - 7)) * 2 ^ (f.mb - 7)
        let s := b2n n * 2 ^ (f.eb + f.mb)
        if oe = 0 then (s + (os + 2 ^ f.mb) / 2, 0)
        else if oe = -1 then (s + (os + 2 ^ f.mb) / 4, 0)
        else (s + oe.toNat * 2 ^ f.mb + os, 0)

/-- vfrsqrt7.v. -/
def fpRsqrt7 (f : FFmt) (a : Nat) : Nat × Nat :=
  match f.decode a with
  | .nan => (f.encode .nan, flagIf (isSNan f a) flNV)
  | .inf n => if n then (f.encode .nan, flNV) else (0, 0)
  | .fin n m _ =>
    if m = 0 then (f.encode (.inf n), flDZ)
    else if n then (f.encode .nan, flNV)
    else
      let e := bits a f.mb f.eb
      let sh := if e = 0 then f.mb - Nat.log2 m else 0
      let sig := if e = 0 then m * 2 ^ sh % 2 ^ f.mb else m % 2 ^ f.mb
      let ne : Int := if e = 0 then 1 - (sh : Int) else e
      let oe : Int := (3 * (f.bias : Int) - 1 - ne) / 2
      (oe.toNat * 2 ^ f.mb + rsqrt7 (ne % 2 == 0) (sig / 2 ^ (f.mb - 6)) * 2 ^ (f.mb - 7), 0)

/-! ## Integer operations of n bits -/

/-- Signed quotient: toward zero; −1 by zero; the most negative number by −1 wraps. -/
def sdiv (n a b : Nat) : Nat :=
  let x := toInt n a
  let y := toInt n b
  if y = 0 then 2 ^ n - 1 else ofInt n (x.tdiv y)
/-- Unsigned quotient: all ones by zero. -/
def udiv (n a b : Nat) : Nat := if b % 2 ^ n = 0 then 2 ^ n - 1 else a % 2 ^ n / (b % 2 ^ n)
/-- Signed remainder, with the sign of the dividend. -/
def srem (n a b : Nat) : Nat :=
  let y := toInt n b
  if y = 0 then a % 2 ^ n else ofInt n ((toInt n a).tmod y)
/-- Unsigned remainder. -/
def urem (n a b : Nat) : Nat := if b % 2 ^ n = 0 then a % 2 ^ n else a % 2 ^ n % (b % 2 ^ n)
/-- The high half of a product. -/
def mulHigh (n : Nat) (x y : Int) : Nat := ofInt n (x * y / (2 ^ n : Nat))
/-- a + b, a − b, modulo 2^n. -/
def addW (n a b : Nat) : Nat := (a + b) % 2 ^ n
def subW (n a b : Nat) : Nat := (a + 2 ^ n - b % 2 ^ n) % 2 ^ n
/-- Shifts by the low bits of b. -/
def shlW (n a b : Nat) : Nat := a * 2 ^ (b % n) % 2 ^ n
def shrW (n a b : Nat) : Nat := a % 2 ^ n / 2 ^ (b % n)
def sarW (n a b : Nat) : Nat := ofInt n (toInt n a / (2 ^ (b % n) : Nat))
/-- Sign extension from n bits to w. -/
def sext (n w a : Nat) : Nat := ofInt w (toInt n a)

end Sys2Proof.Machine
end

