-- ==== Sys2Proof/Machine/Riscv.lean ====
section
/-! DEFINITION. The scalar instructions of a drover (11 R286): RV64I, M, A, F, D, C, Zicsr, Zifencei, Zicntr and Zfh, with the
rounding of 03 R71, the CSRs of 10 R282 and 11 R292, and the residue checks of 05 R138. What the instructions do is presumed
from the ratified RISC-V specifications, which 11 R286 names (DEDUCED, log entry 70). -/

namespace Sys2Proof.Machine

/-- What an instruction comes to: the state, and why it traps. -/
abbrev DRes := State × Option Trap

/-- An instruction traps. -/
def traps (s : State) (t : Trap) : DRes := (s, some t)
/-- An instruction is illegal (11 R294). -/
def bad (s : State) : DRes := traps s illegal

/-- Register x r. -/
def xr (d : Drover) (r : Nat) : Nat := if r = 0 then 0 else amGet 0 d.x r
/-- Write register x r; x0 stays zero. -/
def setX (n r v : Nat) (s : State) : State :=
  if r = 0 then s else modDrover s n (fun d => { d with x := amPut d.x r (v % 2 ^ 64) })
/-- Register f r, 64 bits. -/
def fr (d : Drover) (r : Nat) : Nat := amGet 0 d.f r
/-- Write register f r: a narrower value is NaN-boxed. -/
def setF (n w r v : Nat) (s : State) : State :=
  modDrover s n (fun d => { d with f := amPut d.f r (v % 2 ^ w + (2 ^ 64 - 2 ^ w)) })
/-- The code of a format in register f r: the canonical NaN where the register is not NaN-boxed. -/
def frAs (d : Drover) (f : FFmt) (r : Nat) : Nat :=
  let v := fr d r
  if v / 2 ^ f.width = 2 ^ (64 - f.width) - 1 then v % 2 ^ f.width else f.encode .nan
/-- Raise exception flags. -/
def setFlags (n fl : Nat) (s : State) : State := modDrover s n (fun d => { d with fflags := d.fflags ||| fl })

/-! ## Fields of an instruction -/

def rdOf (i : Nat) : Nat := bits i 7 5
def rs1Of (i : Nat) : Nat := bits i 15 5
def rs2Of (i : Nat) : Nat := bits i 20 5
def f3Of (i : Nat) : Nat := bits i 12 3
def f7Of (i : Nat) : Nat := bits i 25 7
/-- The I, S, B, U and J immediates, as 64-bit numbers. -/
def immI (i : Nat) : Nat := sext 12 64 (bits i 20 12)
def immS (i : Nat) : Nat := sext 12 64 (bits i 25 7 * 32 + bits i 7 5)
def immB (i : Nat) : Nat := sext 13 64 (bits i 31 1 * 4096 + bits i 7 1 * 2048 + bits i 25 6 * 32 + bits i 8 4 * 2)
def immU (i : Nat) : Nat := sext 32 64 (bits i 12 20 * 4096)
def immJ (i : Nat) : Nat :=
  sext 21 64 (bits i 31 1 * 2 ^ 20 + bits i 12 8 * 4096 + bits i 20 1 * 2048 + bits i 21 10 * 2)

/-! ## Compressed instructions, as the instructions they stand for -/

def encI (imm rs1 f3 rd op : Nat) : Nat := imm % 4096 * 2 ^ 20 + rs1 * 2 ^ 15 + f3 * 2 ^ 12 + rd * 2 ^ 7 + op
def encR (f7 rs2 rs1 f3 rd op : Nat) : Nat := f7 * 2 ^ 25 + rs2 * 2 ^ 20 + rs1 * 2 ^ 15 + f3 * 2 ^ 12 + rd * 2 ^ 7 + op
def encS (imm rs2 rs1 f3 op : Nat) : Nat := encR (bits imm 5 7) rs2 rs1 f3 (bits imm 0 5) op
def encB (imm rs1 f3 : Nat) : Nat :=
  encR (bits imm 12 1 * 64 + bits imm 5 6) 0 rs1 f3 (bits imm 1 4 * 2 + bits imm 11 1) 0x63
def encJ (imm rd : Nat) : Nat :=
  bits imm 20 1 * 2 ^ 31 + bits imm 1 10 * 2 ^ 21 + bits imm 11 1 * 2 ^ 20 + bits imm 12 8 * 2 ^ 12 + rd * 2 ^ 7 + 0x6F

/-- Quadrant 0. -/
def expand0 (c : Nat) : Option Nat :=
  let rd := 8 + bits c 2 3
  let rs := 8 + bits c 7 3
  let dw := bits c 10 3 * 8 + bits c 5 2 * 64
  let ww := bits c 10 3 * 8 + bits c 6 1 * 4 + bits c 5 1 * 64
  match bits c 13 3 with
  | 0 =>
    let imm := bits c 11 2 * 16 + bits c 7 4 * 64 + bits c 6 1 * 4 + bits c 5 1 * 8
    if imm = 0 then none else some (encI imm 2 0 rd 0x13)
  | 1 => some (encI dw rs 3 rd 0x07)
  | 2 => some (encI ww rs 2 rd 0x03)
  | 3 => some (encI dw rs 3 rd 0x03)
  | 5 => some (encS dw rd rs 3 0x27)
  | 6 => some (encS ww rd rs 2 0x23)
  | 7 => some (encS dw rd rs 3 0x23)
  | _ => none

/-- The arithmetic group of quadrant 1. -/
def expandAlu (c : Nat) : Option Nat :=
  let rd := 8 + bits c 7 3
  let rs := 8 + bits c 2 3
  let sh := bits c 12 1 * 32 + bits c 2 5
  let imm := sext 6 64 sh
  match bits c 10 2 with
  | 0 => some (encI sh rd 5 rd 0x13)
  | 1 => some (encI (1024 + sh) rd 5 rd 0x13)
  | 2 => some (encI imm rd 7 rd 0x13)
  | _ =>
    match bits c 12 1 * 4 + bits c 5 2 with
    | 0 => some (encR 32 rs rd 0 rd 0x33)
    | 1 => some (encR 0 rs rd 4 rd 0x33)
    | 2 => some (encR 0 rs rd 6 rd 0x33)
    | 3 => some (encR 0 rs rd 7 rd 0x33)
    | 4 => some (encR 32 rs rd 0 rd 0x3B)
    | 5 => some (encR 0 rs rd 0 rd 0x3B)
    | _ => none

/-- Quadrant 1. -/
def expand1 (c : Nat) : Option Nat :=
  let rd := bits c 7 5
  let imm6 := bits c 12 1 * 32 + bits c 2 5
  let imm := sext 6 64 imm6
  let j := bits c 12 1 * 2048 + bits c 11 1 * 16 + bits c 9 2 * 256 + bits c 8 1 * 1024 + bits c 7 1 * 64 + bits c 6 1 * 128 +
    bits c 3 3 * 2 + bits c 2 1 * 32
  let b := bits c 12 1 * 256 + bits c 10 2 * 8 + bits c 5 2 * 64 + bits c 3 2 * 2 + bits c 2 1 * 32
  match bits c 13 3 with
  | 0 => some (encI imm rd 0 rd 0x13)
  | 1 => if rd = 0 then none else some (encI imm rd 0 rd 0x1B)
  | 2 => some (encI imm 0 0 rd 0x13)
  | 3 =>
    if imm6 = 0 then none
    else if rd = 2 then
      some (encI (sext 10 64 (bits c 12 1 * 512 + bits c 6 1 * 16 + bits c 5 1 * 64 + bits c 3 2 * 128 + bits c 2 1 * 32)) 2 0 2 0x13)
    else some (imm % 2 ^ 20 * 4096 + rd * 128 + 0x37)
  | 4 => expandAlu c
  | 5 => some (encJ (sext 12 64 j) 0)
  | 6 => some (encB (sext 9 64 b) (8 + bits c 7 3) 0)
  | _ => some (encB (sext 9 64 b) (8 + bits c 7 3) 1)

/-- Quadrant 2. -/
def expand2 (c : Nat) : Option Nat :=
  let rd := bits c 7 5
  let rs := bits c 2 5
  let dl := bits c 12 1 * 32 + bits c 5 2 * 8 + bits c 2 3 * 64
  let wl := bits c 12 1 * 32 + bits c 4 3 * 4 + bits c 2 2 * 64
  let ds := bits c 10 3 * 8 + bits c 7 3 * 64
  let ws := bits c 9 4 * 4 + bits c 7 2 * 64
  match bits c 13 3 with
  | 0 => some (encI (bits c 12 1 * 32 + rs) rd 1 rd 0x13)
  | 1 => some (encI dl 2 3 rd 0x07)
  | 2 => if rd = 0 then none else some (encI wl 2 2 rd 0x03)
  | 3 => if rd = 0 then none else some (encI dl 2 3 rd 0x03)
  | 4 =>
    if bit c 12 then
      if rs = 0 then (if rd = 0 then some 0x00100073 else some (encI 0 rd 0 1 0x67)) else some (encR 0 rs rd 0 rd 0x33)
    else if rs = 0 then (if rd = 0 then none else some (encI 0 rd 0 0 0x67))
    else some (encR 0 rs 0 0 rd 0x33)
  | 5 => some (encS ds rs 2 3 0x27)
  | 6 => some (encS ws rs 2 2 0x23)
  | _ => some (encS ds rs 2 3 0x23)

/-- The instruction that a compressed one stands for; none for a reserved encoding. -/
def expand (c : Nat) : Option Nat :=
  match c % 4 with
  | 0 => expand0 c
  | 1 => expand1 c
  | _ => expand2 c

/-! ## Integer instructions -/

/-- OP and OP-IMM at n bits: funct3, and whether funct7 bit 5 is set. -/
def aluOp (n f3 : Nat) (alt : Bool) (a b : Nat) : Nat :=
  match f3 with
  | 0 => if alt then subW n a b else addW n a b
  | 1 => shlW n a b
  | 2 => b2n (toInt n a < toInt n b)
  | 3 => b2n (a % 2 ^ n < b % 2 ^ n)
  | 4 => a ^^^ b
  | 5 => if alt then sarW n a b else shrW n a b
  | 6 => a ||| b
  | _ => a &&& b

/-- The M extension at n bits. -/
def mulOp (n f3 a b : Nat) : Nat :=
  let ua : Int := ((a % 2 ^ n : Nat) : Int)
  let ub : Int := ((b % 2 ^ n : Nat) : Int)
  match f3 with
  | 0 => a * b % 2 ^ n
  | 1 => mulHigh n (toInt n a) (toInt n b)
  | 2 => mulHigh n (toInt n a) ub
  | 3 => mulHigh n ua ub
  | 4 => sdiv n a b
  | 5 => udiv n a b
  | 6 => srem n a b
  | _ => urem n a b

/-- Whether a branch is taken; none for a reserved funct3. -/
def branchTaken (f3 a b : Nat) : Option Bool :=
  match f3 with
  | 0 => some (a = b)
  | 1 => some (a != b)
  | 4 => some (toInt 64 a < toInt 64 b)
  | 5 => some (toInt 64 b ≤ toInt 64 a)
  | 6 => some (a < b)
  | 7 => some (b ≤ a)
  | _ => none

/-- Register and immediate arithmetic: OP-IMM, OP-IMM-32, OP, OP-32; the value, or none for a reserved encoding. -/
def intOp (d : Drover) (i : Nat) : Option Nat :=
  let a := xr d (rs1Of i)
  let b := xr d (rs2Of i)
  let f3 := f3Of i
  let f7 := f7Of i
  match i % 128 with
  | 0x13 =>
    let sh := bits i 20 6
    let f6 := bits i 26 6
    if f3 = 1 then (if f6 = 0 then some (shlW 64 a sh) else none)
    else if f3 = 5 then (if f6 = 0 then some (shrW 64 a sh) else if f6 = 16 then some (sarW 64 a sh) else none)
    else some (aluOp 64 f3 false a (immI i))
  | 0x1B =>
    let sh := bits i 20 5
    if f3 = 0 then some (sext 32 64 (a + immI i))
    else if f3 = 1 && f7 = 0 then some (sext 32 64 (shlW 32 a sh))
    else if f3 = 5 && f7 = 0 then some (sext 32 64 (shrW 32 a sh))
    else if f3 = 5 && f7 = 32 then some (sext 32 64 (sarW 32 a sh))
    else none
  | 0x33 =>
    if f7 = 1 then some (mulOp 64 f3 a b)
    else if f7 = 0 then some (aluOp 64 f3 false a b)
    else if f7 = 32 && (f3 = 0 || f3 = 5) then some (aluOp 64 f3 true a b)
    else none
  | _ =>
    if f7 = 1 && (f3 = 0 || 4 ≤ f3) then some (sext 32 64 (mulOp 32 f3 a b))
    else if f7 = 0 && (f3 = 0 || f3 = 1 || f3 = 5) then some (sext 32 64 (aluOp 32 f3 false a b))
    else if f7 = 32 && (f3 = 0 || f3 = 5) then some (sext 32 64 (aluOp 32 f3 true a b))
    else none

/-! ## Loads, stores and atomics -/

/-- An uncorrectable word of the drover's own scratch, as the hardware reports it (11 R294, 05 R142). -/
def scratchLost (n a : Nat) (f : Faults) : Bool := f.hit.isSome && scratchBase n ≤ a && a < scratchBase n + 0x100000

/-- The end of a launch whose check fails at a drover (05 R138, 11 R294). -/
def drvFailed (n : Nat) : End := checkFailed (drvUnit n)

/-- A scalar load of `size` bytes into a register by `put`. -/
def execLoad (n : Nat) (j : Job) (f : Faults) (a size : Nat) (put : Nat → State → State) (s : State) : DRes :=
  if scratchLost n a f then traps s ⟨drvFailed n, 5, a⟩
  else match drvLoad s n j a size false with
    | .inl t => traps s t
    | .inr v => (put v s, none)

/-- A scalar store. -/
def execStore (n : Nat) (j : Job) (a size v : Nat) (s : State) : DRes :=
  match drvStore s n j a size v false with
  | .inl t => traps s t
  | .inr s' => (s', none)

/-- What an AMO leaves in its word; none for a reserved funct5. AMOCAS.D alone of Zacas (10 R275). -/
def amoOp (k n old x : Nat) : Option Nat :=
  match k with
  | 0 => some (addW n old x)
  | 1 => some (x % 2 ^ n)
  | 4 => some ((old ^^^ x) % 2 ^ n)
  | 8 => some ((old ||| x) % 2 ^ n)
  | 12 => some ((old &&& x) % 2 ^ n)
  | 16 => some (if toInt n x < toInt n old then x % 2 ^ n else old)
  | 20 => some (if toInt n old < toInt n x then x % 2 ^ n else old)
  | 24 => some (min old (x % 2 ^ n))
  | 28 => some (max old (x % 2 ^ n))
  | _ => none

/-- Check an atomic access: a stack window needs ATOMIC and WRITE, and own scratch READ and WRITE; no other window executes one
(11 R291; 08 R235). -/
def atomicCheck (s : State) (n : Nat) (j : Job) (a size need : Nat) : Option Trap :=
  if a % size != 0 then some ⟨badState, 6, a⟩
  else if meetsSink (droverOf s n) n a size then some ⟨badState, 7, a⟩
  else match regionOf a with
    | .operand _ => some ⟨badState, 7, a⟩
    | .accBuf _ => some ⟨badState, 7, a⟩
    | .side _ _ =>
      match drvCheck s n j a size need true with
      | some t => some { t with cause := 7 }
      | none => none
    | _ =>
      match drvCheck s n j a size (if need = pRead then pRead else pRead + pWrite) true with
      | some t => some { t with cause := 7 }
      | none => none

/-- An atomic store at the word: at the adder of its channel, visible at once, or in own scratch (10 R275, 11 R291). -/
def atomicStore (n : Nat) (j : Job) (a size v : Nat) (s : State) : State := storeNow s (drvWho n j) a (leBytes size v)

/-- LR, SC, AMOs and AMOCAS.D. With rl set earlier writes become visible first (10 R284). -/
def amo (n : Nat) (j : Job) (i : Nat) (s : State) : DRes :=
  let d := droverOf s n
  let a := xr d (rs1Of i)
  let x := xr d (rs2Of i)
  let rd := rdOf i
  let w := if f3Of i = 2 then 32 else 64
  let k := bits i 27 5
  let s := if bit i 25 then drvVisible n s else s
  if f3Of i != 2 && f3Of i != 3 then bad s
  else if k = 2 then
    if rs2Of i != 0 then bad s
    else match atomicCheck s n j a (w / 8) pRead with
      | some t => traps s { t with cause := if t.cause = 6 then 4 else 5 }
      | none =>
        (setX n rd (sext w 64 (readNat s (drvUnit n) a (w / 8))) (modDrover s n (fun d => { d with resv := some (a / 8 * 8) })), none)
  else match atomicCheck s n j a (w / 8) (pAtomic + pWrite) with
    | some t => traps s t
    | none =>
      let old := readNat s (drvUnit n) a (w / 8)
      if k = 3 then
        let ok := d.resv = some (a / 8 * 8)
        let s := modDrover s n (fun d => { d with resv := none })
        (setX n rd (b2n (!ok)) (if ok then atomicStore n j a (w / 8) x s else s), none)
      else if k = 5 && w = 64 then
        (setX n rd old (if old = xr d rd then atomicStore n j a 8 x s else s), none)
      else match amoOp k w old x with
        | none => bad s
        | some v => (setX n rd (sext w 64 old) (atomicStore n j a (w / 8) v s), none)

/-! ## Floating point -/

/-- The format of a funct7 fmt field: S, D, H. -/
def fmtField (k : Nat) : Option FFmt :=
  match k with
  | 0 => some ffFP32
  | 1 => some ffFP64
  | 2 => some ffFP16
  | _ => none

/-- A floating-point result and its flags. -/
def putF (n : Nat) (f : FFmt) (rd : Nat) (r : Nat × Nat) (s : State) : State := setFlags n r.2 (setF n f.width rd r.1 s)
/-- An integer result and its flags. -/
def putX (n rd : Nat) (r : Nat × Nat) (s : State) : State := setFlags n r.2 (setX n rd r.1 s)

/-- The rounding mode of a conversion to an integer: a static mode, and nearest even for the dynamic one (03 R71). -/
def intMode (rm : Nat) : Option Nat := if rm = 7 then some 0 else if rm < 5 then some rm else none

/-- OP-FP. -/
def fpOp (n i : Nat) (s : State) : DRes :=
  let d := droverOf s n
  let rd := rdOf i
  let r1 := rs1Of i
  let r2 := rs2Of i
  let rm := f3Of i
  match fmtField (bits i 25 2) with
  | none => bad s
  | some f =>
    let a := frAs d f r1
    let b := frAs d f r2
    let ok (r : Nat × Nat) : DRes := (putF n f rd r s, none)
    match bits i 27 5 with
    | 0x00 => ok (fpAdd f a b)
    | 0x01 => ok (fpSub f a b)
    | 0x02 => ok (fpMul f a b)
    | 0x03 => ok (fpDiv f a b)
    | 0x0B => if r2 = 0 then ok (fpSqrt f a) else bad s
    | 0x04 => if rm < 3 then ok (fpSgnj f rm a b, 0) else bad s
    | 0x05 => if rm < 2 then ok (fpMinMax f (rm = 1) a b) else bad s
    | 0x08 => match (if r2 < 4 && r2 != bits i 25 2 then fmtField r2 else none) with
      | some g => ok (fpConv g f (frAs d g r1))
      | none => bad s
    | 0x14 =>
      if rm < 3 then
        let r := fpCmp f rm a b
        (putX n rd (b2n r.1, r.2) s, none)
      else bad s
    | 0x18 => match intMode rm with
      | none => bad s
      | some m =>
        if r2 < 4 then
          let w := if r2 < 2 then 32 else 64
          let r := fpToInt f m w (r2 % 2 == 0) a
          (putX n rd (sext w 64 r.1, r.2) s, none)
        else bad s
    | 0x1A => if r2 < 4 then ok (fpOfInt f (if r2 < 2 then 32 else 64) (r2 % 2 == 0) (xr d r1)) else bad s
    | 0x1C =>
      if r2 != 0 then bad s
      else if rm = 0 then (setX n rd (sext f.width 64 (fr d r1)) s, none)
      else if rm = 1 then (setX n rd (fpClass f a) s, none)
      else bad s
    | 0x1E => if r2 = 0 && rm = 0 then (setF n f.width rd (xr d r1) s, none) else bad s
    | _ => bad s

/-- FMADD, FMSUB, FNMSUB, FNMADD. -/
def fmaOp (n i : Nat) (s : State) : DRes :=
  let d := droverOf s n
  match fmtField (bits i 25 2) with
  | none => bad s
  | some f =>
    let k := bits i 2 2
    (putF n f (rdOf i) (fpFma f (2 ≤ k) (k = 1 || k = 3) (frAs d f (rs1Of i)) (frAs d f (rs2Of i)) (frAs d f (bits i 27 5))) s, none)

/-! ## CSRs -/

/-- Read a CSR; none where it does not exist (11 R286, R292; 10 R282; 03 R71). -/
def csrRead (s : State) (n k : Nat) : Option Nat :=
  let d := droverOf s n
  match k with
  | 0x001 => some d.fflags
  | 0x002 => some 0
  | 0x003 => some d.fflags
  | 0x008 => some d.vstart
  | 0x009 => some (d.vcsr % 2)
  | 0x00A => some (bits d.vcsr 1 2)
  | 0x00F => some d.vcsr
  | 0x8C0 => some d.sigaddr
  | 0x8C1 => some d.sigval
  | 0x8C2 => some d.sigwait
  | 0x8C3 => some d.sigtmo
  | 0x8C4 => some (health s (drvUnit n)).tickRate
  | 0x8C5 => some (drvUnit n)
  | 0x8C6 => some d.statsink
  | 0x8C8 => some d.tmbase
  | 0x8C9 => some d.tmshape
  | 0x8CA => some d.tmdst
  | 0x8CB => some d.tmctl
  | 0xC00 => some s.now
  | 0xC01 => some s.now
  | 0xC02 => some (countOf s (drvUnit n) 0x18)
  | 0xC20 => some d.vl
  | 0xC21 => some d.vtype
  | 0xC22 => some 128
  | _ => none

/-- Write a CSR: a reserved bit or value, or a read-only register, is illegal (11 R292; 10 R282). -/
def csrWrite (n : Nat) (j : Job) (k v : Nat) (s : State) : DRes :=
  let set (f : Drover → Drover) : DRes := (modDrover s n f, none)
  match k with
  | 0x001 => set (fun d => { d with fflags := v % 32 })
  | 0x002 => (s, none)
  | 0x003 => set (fun d => { d with fflags := v % 32 })
  | 0x008 => set (fun d => { d with vstart := v % 1024 })
  | 0x009 => set (fun d => { d with vcsr := d.vcsr / 2 * 2 + v % 2 })
  | 0x00A => set (fun d => { d with vcsr := v % 4 * 2 + d.vcsr % 2 })
  | 0x00F => set (fun d => { d with vcsr := v % 8 })
  | 0x8C0 => set (fun d => { d with sigaddr := v })
  | 0x8C1 => set (fun d => { d with sigval := v })
  | 0x8C2 => writeSigwait n j v s
  | 0x8C3 => if 1 ≤ v && v ≤ 16777215 then set (fun d => { d with sigtmo := v }) else bad s
  | 0x8C6 => writeStatsink n j v s
  | 0x8C8 => set (fun d => { d with tmbase := v })
  | 0x8C9 => set (fun d => { d with tmshape := v })
  | 0x8CA => set (fun d => { d with tmdst := v })
  | 0x8CB =>
    let size := bits v 32 2
    if bits v 34 29 != 0 || size = 3 || (bit v 63 && size = 0) then bad s else set (fun d => { d with tmctl := v })
  | _ => bad s

/-- CSRRW, CSRRS, CSRRC and their immediate forms. -/
def csrOp (n : Nat) (j : Job) (i : Nat) (s : State) : DRes :=
  let k := bits i 20 12
  let f3 := f3Of i
  let src := if 4 ≤ f3 then rs1Of i else xr (droverOf s n) (rs1Of i)
  let writes := f3 % 4 = 1 || rs1Of i != 0
  match csrRead s n k with
  | none => bad s
  | some old =>
    let v := match f3 % 4 with
      | 1 => src
      | 2 => old ||| src
      | _ => old - (old &&& src)
    if !writes then (setX n (rdOf i) old s, none)
    else match csrWrite n j k v s with
      | (s', none) => (setX n (rdOf i) old s', none)
      | r => r

/-! ## Scalar execution -/

/-- How an instruction goes on: at the next one, at a target, or not at all, after a trap. -/
inductive Flow where
  | next
  | jump (pc : Nat)
  | exit
  deriving DecidableEq, Repr

/-- One scalar instruction of `len` bytes; none where its opcode is not a scalar one. -/
def scalar (n : Nat) (j : Job) (f : Faults) (i len : Nat) (s : State) : Option (DRes × Flow) :=
  let d := droverOf s n
  let rd := rdOf i
  let a := xr d (rs1Of i)
  let pc := d.pc
  let go (r : DRes) : Option (DRes × Flow) := some (r, .next)
  match i % 128 with
  | 0x37 => go (setX n rd (immU i) s, none)
  | 0x17 => go (setX n rd (pc + immU i) s, none)
  | 0x6F => some ((setX n rd (pc + len) s, none), .jump ((pc + immJ i) % 2 ^ 64))
  | 0x67 => if f3Of i = 0 then some ((setX n rd (pc + len) s, none), .jump ((a + immI i) % 2 ^ 64 / 2 * 2)) else go (bad s)
  | 0x63 => match branchTaken (f3Of i) a (xr d (rs2Of i)) with
    | none => go (bad s)
    | some t => some ((s, none), if t then .jump ((pc + immB i) % 2 ^ 64) else .next)
  | 0x03 =>
    let k := f3Of i
    let size := 2 ^ (k % 4)
    if k = 7 then go (bad s)
    else go (execLoad n j f ((a + immI i) % 2 ^ 64) size (fun v => setX n rd (if k < 4 then sext (8 * size) 64 v else v)) s)
  | 0x23 =>
    if f3Of i < 4 then go (execStore n j ((a + immS i) % 2 ^ 64) (2 ^ f3Of i) (xr d (rs2Of i)) s) else go (bad s)
  | 0x13 => go (match intOp d i with | some v => (setX n rd v s, none) | none => bad s)
  | 0x1B => go (match intOp d i with | some v => (setX n rd v s, none) | none => bad s)
  | 0x33 => go (match intOp d i with | some v => (setX n rd v s, none) | none => bad s)
  | 0x3B => go (match intOp d i with | some v => (setX n rd v s, none) | none => bad s)
  | 0x0F =>
    if f3Of i = 0 then go (if bit i 20 then drvVisible n s else s, none)
    else if f3Of i = 1 then go (s, none)
    else go (bad s)
  | 0x73 =>
    if f3Of i = 0 then
      if i = 0x00000073 then
        if xr d 17 = 0 then some ((s, none), .exit) else go (traps s ⟨badState, 8, 0⟩)
      else if i = 0x00100073 then go (traps s ⟨badState, 3, 0⟩)
      else go (bad s)
    else if f3Of i = 4 then go (bad s)
    else go (csrOp n j i s)
  | 0x2F => go (amo n j i s)
  | 0x43 => go (fmaOp n i s)
  | 0x47 => go (fmaOp n i s)
  | 0x4B => go (fmaOp n i s)
  | 0x4F => go (fmaOp n i s)
  | 0x53 => go (fpOp n i s)
  | 0x07 =>
    let k := f3Of i
    if 1 ≤ k && k ≤ 3 then
      go (execLoad n j f ((a + immI i) % 2 ^ 64) (2 ^ k) (setF n (8 * 2 ^ k) rd) s)
    else none
  | 0x27 =>
    let k := f3Of i
    if 1 ≤ k && k ≤ 3 then go (execStore n j ((a + immS i) % 2 ^ 64) (2 ^ k) (fr d (rs2Of i)) s) else none
  | 0x57 => none
  | _ => go (bad s)

/-- Whether a scalar instruction makes a checked add or multiply (05 R138). -/
def scalarChecked (i : Nat) : Bool :=
  match i % 128 with
  | 0x13 => f3Of i = 0
  | 0x1B => f3Of i = 0
  | 0x33 => (f7Of i = 1 && f3Of i < 4) || (f7Of i != 1 && f3Of i = 0)
  | 0x3B => f3Of i = 0
  | 0x43 => true
  | 0x47 => true
  | 0x4B => true
  | 0x4F => true
  | 0x53 => bits i 27 5 ≤ 2
  | _ => false

end Sys2Proof.Machine
end

