-- ==== Sys2Proof/Machine/Run.lean ====
section
/-! DEFINITION. Rings at work: packets fetched from memory (02 R40, R45, R417), chosen by their units (02 R46-R48), and stopped at
their TIMEOUT (02 R49); retrains that end (08 R244); snapshot records (15 R393). -/

namespace Sys2Proof.Machine

/-! ## PACKET_FETCH -/

/-- The address of an offset of a ring: packets wrap past its end (02 R40). -/
def ringAddr (r : Ring) (o : Nat) : Nat := r.cmdBase + o % ringSize r

/-- The n bytes of a ring from an offset, as its control core reads them. -/
def ringBytes (s : State) (key o n : Nat) : List Byte :=
  let r := ringOf s key
  (List.range n).map (fun i => byteFor s (ringCore s key) (ringAddr r (o + i)))

/-- The channel of the first poisoned block of n bytes of a ring from an offset (02 R417). -/
def ringPoison (s : State) (r : Ring) (o n : Nat) : Option Nat :=
  let o := o % ringSize r
  let m := min n (ringSize r - o)
  (poisonIn s (r.cmdBase + o) m).orElse (fun _ => poisonIn s r.cmdBase (n - m))

/-- Bytes announced and not yet fetched. -/
def announced (r : Ring) : Nat := (r.tail + ringSize r - r.fetch) % ringSize r

/-- A pass-over ends just before a packet whose LEN cannot be read (02 R60): SKIP_IF replies DONE with the packets passed. -/
def endPass (key : Nat) (s : State) : State :=
  match (ringOf s key).passOver with
  | none => s
  | some (.skip _ n job) => settle (endJob (modRing s key (fun r => { r with passOver := none })) job (done n))
  | some (.zeroTrip _) => modRing s key (fun r => { r with passOver := none })

/-- The ring stops at a packet whose LEN it cannot read (02 R42, R45, R417). A poisoned header writes one reply with SEQ 0 and no
DONE_VALUE. -/
def stopRing (key : Nat) (h : Hdr) (bad : End) (poisoned : Bool) (s : State) : State :=
  let s := endPass key s
  if !slotFree (ringOf s key) then s
  else
    let s := count s (ringCore s key) 0x10 1
    let s := if poisoned then
        count (writeReply s key (replyBytes 0 (ringOrigin s (key / 256) (key % 256)) 0 bad)) (ringCore s key) 0x18 1
      else reject (.nop h) key bad s
    modRing s key (fun r => { r with state := .stopped })

/-- The pre-parser's judgement of a packet's bytes: checks 2 to 10, behind poisoned parameters (02 R45, R417). -/
def judge (s : State) (key : Nat) (i : Instr) (b : List Byte) (poison : Option Nat) : Option End :=
  let op := fld b 0 2
  match poison with
  | some ch => some (fails MEMORY_POISONED ch)
  | none => match lenOf op with
    | none => some (fails BAD_OPCODE op)
    | some n =>
      if op != 0 && fld b 2 1 != n then some (fails BAD_LENGTH n)
      else preparseAt s key (preOf s i) i ((hdrRsvd b).orElse (fun _ => paramRsvd op (b.drop 32)))

/-- The packet at the fetch position is the ring's next: it is fetched, and passed over or judged (02 R45, R59, R60). -/
def fetchPacket (key : Nat) (b : List Byte) (poison : Option Nat) (s : State) : State :=
  let off := (ringOf s key).fetch
  let next := (off + b.length) % ringSize (ringOf s key)
  let h := readHdr b
  let i := (readPacket b).getD (.nop h)
  let s := modRing s key (fun r => { r with fetch := next })
  let passing := (ringOf s key).passOver.isSome
  let (s, met) := passStep i key s
  if !met then s
  else
    let s := if passing then settle s else s
    if stalled s key then modRing s key (fun r => { r with fetch := off })
    else accept (preOf s i) (runOf i) i key off next (judge s key i b poison) s

/-- A ring fetches its next packet, if it lies whole before TAIL. -/
def fetchNext (key : Nat) (s : State) : State :=
  let r := ringOf s key
  if !ringOpen s key || stalled s key || announced r < 32 then s
  else match ringPoison s r r.fetch 32 with
    | some ch => stopRing key ⟨0, 0, 0, false, false, false, 0, 0, 0, 0⟩ (fails MEMORY_POISONED ch) true s
    | none =>
      let hb := ringBytes s key r.fetch 32
      let len := fld hb 2 1
      if len = 255 then stopRing key (readHdr hb) (fails BAD_LENGTH 255) false s
      else if announced r < 32 + 16 * len then s
      else fetchPacket key (ringBytes s key r.fetch (32 + 16 * len)) (ringPoison s r (r.fetch + 32) (16 * len)) s

/-- Every unit goes on after a packet has met its ring, and a new barrier arrival is sent. -/
def goOn (job : Nat) (s : State) : State := settle (pumpAll (sendNewArrival job s))

/-- PACKET_FETCH: a ring's control core fetches and pre-parses one packet (02 R45). -/
def execPacketFetch (ctx ring : Byte) (s : State) : Host.Outcome State Fault Refusal :=
  .next (goOn s.gz.nextJob (fetchNext (256 * ctx.toNat + ring.toNat) s))

/-! ## PACKET_DISPATCH -/

/-- Whether the first waiting packet of a ring may be met or dispatched now (02 R43, R46). -/
def headFree (s : State) (key : Nat) (p : Pkt) : Bool :=
  if p.parsed then !blocked s key p.cmd else !stalled (modRing s key (fun r => { r with waiting := [] })) key

/-- The rings whose first waiting packet a unit's partition could take (02 R47). -/
def waitingFor (s : State) (u part : Nat) : List (Nat × Bool × Nat) :=
  (s.gz.rings.filterMap (fun r => match r.2.waiting with
    | [] => none
    | p :: _ =>
      let pre := preOf s p.cmd
      if pre.unit = u && pre.part = part && headFree s r.1 p then some (rank47 s r.1 p.cmd) else none))

/-- The first waiting packet of a ring is met again, or dispatched, with the hardware faults that strike it. -/
def dispatchHead (key : Nat) (f : Faults) (s : State) : State :=
  match (ringOf s key).waiting with
  | [] => s
  | p :: rest =>
    let i := if f = {} then p.cmd else withFaults f p.cmd
    let s := modRing s key (fun r => { r with waiting := [] })
    let s := if p.parsed then dispatch (preOf s i) (runOf i) i key p.off p.next s
      else meet (preOf s i) (runOf i) i key p.off p.next s
    modRing s key (fun r => { r with waiting := r.waiting ++ rest })

/-- PACKET_DISPATCH: a unit takes the next waiting packet across rings (02 R46, R47). -/
def execPacketDispatch (unit : Word32) (part : Byte) (f : Faults) (s : State) : Host.Outcome State Fault Refusal :=
  let u := unit.toNat
  .next (match chooseRing (lastServed s u part.toNat) (waitingFor s u part.toNat) with
    | none => goOn s.gz.nextJob s
    | some x => goOn s.gz.nextJob (dispatchHead x.1 f (serve s u part.toNat x.1)))

/-! ## COMMAND_TIMEOUT (02 R48, R49) -/

/-- The unit that a command of its TIMEOUT awaited, where its chapter names one: an owner Watershed from which RT_COUNT awaits
quotas (06 R161). -/
def awaited (s : State) (j : Job) : Nat :=
  match j.phase with
  | .waitQuota => match (wsOf s (uDie j.unit)).rounds.find? (fun r => r.tag == tagIn j.cmd) with
    | some r => match r.awaiting with
      | o :: _ => uid 7 (o % 8) 0
      | [] => 0
    | none => 0
  | _ => 0

/-- The end of a command whose TIMEOUT expires. -/
def expiry (s : State) (j : Job) : End :=
  match j.phase with
  | .waitReady => fails NOT_READY ((notReady s (preOf s j.cmd)).getD j.unit)
  | _ => fails TIMEOUT (awaited s j)

/-- COMMAND_TIMEOUT: a command in flight stops and ends TIMEOUT, or NOT_READY under WAIT_READY (02 R48, R49, R58). -/
def execCommandTimeout (job : Nat) (s : State) : Host.Outcome State Fault Refusal :=
  .next (match jobOf s job with
    | none => settle s
    | some j => goOn s.gz.nextJob (stopJob j (expiry s j) s))

/-! ## WAIT_READY_DISPATCH (14 R374) -/

/-- A job that waits for readiness goes to its unit once every unit it needs is ready. -/
def startReady (f : Faults) (s : State) (j : Job) : State :=
  let pre := preOf s j.cmd
  if j.phase != .waitReady || (notReady s pre).isSome then s
  else
    let i := if f = {} then j.cmd else withFaults f j.cmd
    let j := { j with cmd := i }
    outcome j (runOf i j (modJob s j.id (fun k => { k with cmd := i })))

/-- WAIT_READY_DISPATCH: the commands that wait for a unit are dispatched to it in their dispatch order (14 R374). -/
def execWaitReadyDispatch (unit : Word32) (f : Faults) (s : State) : Host.Outcome State Fault Refusal :=
  let js := s.gz.jobs.filter (fun j => j.phase == .waitReady &&
    (let pre := preOf s j.cmd
     (pre.ready ++ sidesOf pre).contains unit.toNat || j.unit = unit.toNat))
  .next (goOn s.gz.nextJob (js.foldl (startReady f) s))

/-! ## RETRAIN_COMPLETE (08 R244, R245) -/

/-- Commands parked behind retrains go on, oldest first; what no longer meets a retrain runs (08 R244). -/
def resumeParked (s : State) : State :=
  (s.gz.jobs.filter (fun j => j.phase == .parked)).foldl (fun s j => match jobOf s j.id with
    | some k => if k.phase == .parked then
        (match workOf k.cmd k s with
          | (_, .inr .parked) => s
          | r => outcome k r)
      else s
    | none => s) s

/-- How long the longest of the commands parked until now has waited, at the side and the channel (08 R253). -/
def noteParked (ch : Nat) (s : State) : State :=
  let w := (s.gz.jobs.filter (fun j => j.phase == .parked)).foldl (fun m j => max m (s.now - j.since)) 0
  countMax (countMax s (channelSide ch) 0x40 w) ch 0x38 w

/-- RETRAIN_COMPLETE: the channel returns to service and what is parked is served, or it is mapped out hard (08 R244-R246). -/
def execRetrainComplete (ch : Word32) (passed : Bool) (s : State) : Host.Outcome State Fault Refusal :=
  let u := ch.toNat
  .next (
    if (sideOf s (channelSide u)).retraining = some u then
      goOn s.gz.nextJob (resumeParked (retrainDone u passed (if passed then noteParked u s else s)))
    else settle s)

/-! ## SNAPSHOT_READ (15 R393, R394) -/

/-- The central reader as it reads and writes: the trusted kernel on MD. -/
def reader (c : Nat) : Who := ⟨kernelCore 12, kernelOrigin 12, c, 0, 256 * c⟩

/-- Bytes of a snapshot record (15 R393). -/
def recordBytes (units : Nat) : Nat := ceilDiv (32 + 80 * units) 64 * 64

/-- One unit's 80 bytes of a record, taken in one operation (15 R394). -/
def unitRecord (s : State) (u : Nat) : List Byte :=
  let on (n : Nat) : Nat := if bits (cntSel s u n) 0 2 = 0 then 0 else 2 ^ n
  leBytes 4 u ++ leBytes 1 (((List.range 8).map on).foldl (· + ·) 0) ++ leBytes 1 (amGet 0 s.hw.selGen u) ++ rsvd 2 ++
    leBytes 8 s.now ++ ((List.range 8).map (fun n => leBytes 8 (amGet 0 s.hw.counters (8 * u + n)))).flatten

/-- A snapshot record (15 R393). -/
def snapRecord (s : State) (r : SnapRing) : List Byte :=
  let b := leBytes 8 r.t ++ leBytes 8 (timeNow s) ++ leBytes 2 r.units.length ++
    leBytes 2 (b2n (r.skipped != 0) + 2 * b2n (!s.tr.timeSet)) ++ leBytes 4 (min r.skipped 0xFFFFFFFF) ++ rsvd 8 ++
    (r.units.map (unitRecord s)).flatten
  b ++ rsvd (recordBytes r.units.length - b.length)

/-- Write record t of a ring, or skip it while the ring is full or HEAD cannot be read (15 R393). -/
def snapOnce (n : Nat) (r : SnapRing) (s : State) : State :=
  let places := 2 ^ r.log2 / recordBytes r.units.length
  let head := readNat s (kernelCore 12) r.headAddr 8
  let w := reader r.ctx
  if (poisonIn s r.headAddr 8).isNone && r.t - head < places then
    let s' := storeNow s w (r.base + recordBytes r.units.length * (r.t % places)) (snapRecord s r)
    let s' := sigStore s' w r.tailAddr (r.t + 1)
    { s' with snap := amPut s'.snap n { r with t := r.t + 1, skipped := 0 } }
  else { s with snap := amPut s.snap n { r with skipped := r.skipped + 1 } }

/-- SNAPSHOT_READ: the central reader serves one snapshot ring (15 R394). -/
def execSnapshotRead (n : Fin 64) (s : State) : Host.Outcome State Fault Refusal :=
  .next (settle (match amFind s.snap n.val with
    | none => s
    | some r => snapOnce n.val r s))

end Sys2Proof.Machine
end

