-- ==== Sys2Proof/Machine/Vector.lean ====
section
/-! DEFINITION. The vector instructions of a drover (11 R286): V 1.0 with VLEN 1,024 and ELEN 64, Zvfh, Zvfbfmin and Zvfbfwma, with
the rounding of 03 R71, and DROVER_INSTRUCTION. What the instructions do is presumed from the ratified RISC-V specifications
(DEDUCED, log entry 70). -/

namespace Sys2Proof.Machine

/-! ## Vector registers -/

/-- LMUL · 8 of a vlmul field; 0 for the reserved one. -/
def lmul8 (k : Nat) : Nat :=
  match k with
  | 0 => 8
  | 1 => 16
  | 2 => 32
  | 3 => 64
  | 5 => 1
  | 6 => 2
  | 7 => 4
  | _ => 0

/-- Whether a vtype is supported. -/
def vtypeOk (v : Nat) : Bool :=
  v < 256 && bits v 3 3 ≤ 3 && lmul8 (bits v 0 3) != 0 && 8 * 2 ^ bits v 3 3 ≤ 8 * lmul8 (bits v 0 3)

/-- What vtype, vl and vstart say. -/
structure VEnv where
  sew : Nat
  mul8 : Nat
  vl : Nat
  vstart : Nat
  vta : Bool
  vma : Bool

/-- The vector environment of a drover; none while vill is set. -/
def venv (d : Drover) : Option VEnv :=
  if 2 ^ 63 ≤ d.vtype then none
  else some ⟨8 * 2 ^ bits d.vtype 3 3, lmul8 (bits d.vtype 0 3), d.vl, d.vstart, bit d.vtype 6, bit d.vtype 7⟩

/-- Elements of w bits in a group of LMUL · 8 = m8. -/
def vlmaxOf (m8 w : Nat) : Nat := m8 * 128 / w

/-- Element i of w bits of the group at register r. -/
def vget (d : Drover) (r w i : Nat) : Nat := bits (amGet 0 d.v ((r + i * w / 1024) % 32)) (i * w % 1024) w

/-- Write element i of w bits of the group at register r. -/
def vput (r w i v : Nat) (d : Drover) : Drover :=
  let k := (r + i * w / 1024) % 32
  let o := i * w % 1024
  let old := amGet 0 d.v k
  { d with v := amPut d.v k (old - bits old o w * 2 ^ o + v % 2 ^ w * 2 ^ o) }

/-- Mask bit i. -/
def vmask (d : Drover) (r i : Nat) : Bool := bit (amGet 0 d.v r) i

/-- Whether element i is active: vm set, or its bit of v0. -/
def active (d : Drover) (vm : Bool) (i : Nat) : Bool := vm || vmask d 0 i

/-- What an agnostic element becomes: its old value, or all ones; which is open. -/
def agnostic (s : State) (on : Bool) (r i w old : Nat) : Nat :=
  if on && (Config.freeElem s.free (4096 * r + i)).getLsbD 0 then 2 ^ w - 1 else old

/-- Whether a register is aligned to its group. -/
def groupOk (r m8 : Nat) : Bool := m8 != 0 && m8 ≤ 64 && (m8 ≤ 8 || r % (m8 / 8) = 0)

/-- Whether a destination group of dw-bit elements may overlap a source group of sw-bit elements. -/
def overlapOk (vd dm dw vs sm sw : Nat) : Bool :=
  let dn := max 1 (dm / 8)
  let sn := max 1 (sm / 8)
  vd + dn ≤ vs || vs + sn ≤ vd || dw = sw || (dw < sw && vd = vs) || (sw < dw && 8 ≤ sm && vs + sn = vd + dn)

/-- Set vxsat (flag bit 5) and fflags (bits 4 to 0), and clear vstart. -/
def vdone (n fl : Nat) (s : State) : State :=
  modDrover s n (fun d => { d with fflags := d.fflags ||| fl % 32, vcsr := d.vcsr ||| fl / 32, vstart := 0 })

/-- Write a group element by element: active body elements take their values and flags, inactive and tail elements follow vma
and vta. -/
def vwrite (n : Nat) (e : VEnv) (vm : Bool) (vd w m8 : Nat) (g : Nat → Nat × Nat) (s : State) : DRes :=
  if e.vl ≤ e.vstart then (vdone n 0 s, none)
  else
    let d := droverOf s n
    let total := max (vlmaxOf m8 w) (1024 / w)
    let body := (List.range e.vl).filter (fun i => e.vstart ≤ i && active d vm i)
    let vals := body.map (fun i => (i, g i))
    let fl := vals.foldl (fun x r => x ||| r.2.2) 0
    let d' := vals.foldl (fun d' r => vput vd w r.1 r.2.1 d') d
    let rest := (List.range total).filter (fun i => e.vl ≤ i || (e.vstart ≤ i && !active d vm i))
    let d' := rest.foldl (fun d' i =>
      vput vd w i (agnostic s (if e.vl ≤ i then e.vta else e.vma) vd i w (vget d vd w i)) d') d'
    (vdone n fl (modDrover s n (fun _ => d')), none)

/-- Write a mask register bit by bit; its tail is always agnostic. -/
def vwriteMask (n : Nat) (e : VEnv) (vm : Bool) (vd : Nat) (g : Nat → Bool × Nat) (s : State) : DRes :=
  if e.vl ≤ e.vstart then (vdone n 0 s, none)
  else
    let d := droverOf s n
    let val (i : Nat) : Nat :=
      let old := b2n (vmask d vd i)
      if i < e.vstart then old
      else if e.vl ≤ i then agnostic s true vd i 1 old
      else if active d vm i then b2n (g i).1
      else agnostic s e.vma vd i 1 old
    let fl := ((List.range e.vl).filter (fun i => e.vstart ≤ i && active d vm i)).foldl (fun x i => x ||| (g i).2) 0
    let word := ((List.range 1024).map (fun i => val i * 2 ^ i)).foldl (· + ·) 0
    (vdone n fl (modDrover s n (fun d => { d with v := amPut d.v vd word })), none)

/-! ## Configuration -/

/-- vl for an AVL: open between half the AVL and VLMAX where the AVL lies between VLMAX and twice it. -/
def newVl (s : State) (avl mx : Nat) : Nat :=
  if avl ≤ mx then avl
  else if 2 * mx ≤ avl then mx
  else
    let c := (Config.freeElem s.free avl).toNat
    if ceilDiv avl 2 ≤ c && c ≤ mx then c else mx

/-- vsetvli, vsetivli and vsetvl. -/
def vsetOp (n i : Nat) (s : State) : DRes :=
  let d := droverOf s n
  let rd := rdOf i
  let r1 := rs1Of i
  let cfg : Option (Nat × Bool) :=
    if !bit i 31 then some (bits i 20 11, false)
    else if bit i 30 then some (bits i 20 10, true)
    else if bits i 25 6 = 0 then some (xr d (rs2Of i), false)
    else none
  match cfg with
  | none => bad s
  | some (vt, imm) =>
    if !vtypeOk vt then
      (setX n rd 0 (modDrover s n (fun d => { d with vtype := 2 ^ 63, vl := 0, vstart := 0 })), none)
    else
      let mx := vlmaxOf (lmul8 (bits vt 0 3)) (8 * 2 ^ bits vt 3 3)
      let vl := if imm then newVl s r1 mx
        else if r1 != 0 then newVl s (xr d r1) mx
        else if rd != 0 then mx
        else min d.vl mx
      (setX n rd vl (modDrover s n (fun d => { d with vtype := vt, vl := vl, vstart := 0 })), none)

/-! ## Fixed point -/

/-- A shift right by d bits rounded by vxrm: up, nearest even, down, to odd. -/
def roundoff (mode : Nat) (v : Int) (d : Nat) : Int :=
  if d = 0 then v
  else
    let q := v / (2 ^ d : Nat)
    let rest := v % (2 ^ d : Nat)
    let half : Int := (2 ^ (d - 1) : Nat)
    let up := match mode with
      | 0 => decide (half ≤ rest)
      | 1 => decide (half < rest) || (decide (rest = half) && decide (q % 2 = 1))
      | 2 => false
      | _ => decide (rest ≠ 0) && decide (q % 2 = 0)
    q + b2n up

/-- Clip to n bits, with vxsat. -/
def clip (n : Nat) (signed : Bool) (v : Int) : Nat × Nat :=
  let lo : Int := if signed then -(2 ^ (n - 1) : Nat) else 0
  let hi : Int := (if signed then 2 ^ (n - 1) else 2 ^ n : Nat) - 1
  if v < lo then (ofInt n lo, 32) else if hi < v then (ofInt n hi, 32) else (ofInt n v, 0)

/-- An element as an integer. -/
def asInt (signed : Bool) (n a : Nat) : Int := if signed then toInt n a else ((a % 2 ^ n : Nat) : Int)

/-! ## Integer element operations -/

/-- OPIVV, OPIVX, OPIVI of one width: a from vs2, b the other operand. -/
def viElem (f6 w rm a b : Nat) : Option (Nat × Nat) :=
  let v (x : Nat) : Option (Nat × Nat) := some (x % 2 ^ w, 0)
  match f6 with
  | 0 => v (a + b)
  | 2 => v (subW w a b)
  | 3 => v (subW w b a)
  | 4 => v (min (a % 2 ^ w) (b % 2 ^ w))
  | 5 => v (if toInt w a < toInt w b then a else b)
  | 6 => v (max (a % 2 ^ w) (b % 2 ^ w))
  | 7 => v (if toInt w a < toInt w b then b else a)
  | 9 => v (a &&& b)
  | 10 => v (a ||| b)
  | 11 => v (a ^^^ b)
  | 32 => some (clip w false (asInt false w a + asInt false w b))
  | 33 => some (clip w true (toInt w a + toInt w b))
  | 34 => some (clip w false (asInt false w a - asInt false w b))
  | 35 => some (clip w true (toInt w a - toInt w b))
  | 37 => v (shlW w a b)
  | 39 => some (clip w true (roundoff rm (toInt w a * toInt w b) (w - 1)))
  | 40 => v (shrW w a b)
  | 41 => v (sarW w a b)
  | 42 => v (ofInt w (roundoff rm (asInt false w a) (b % w)))
  | 43 => v (ofInt w (roundoff rm (toInt w a) (b % w)))
  | _ => none

/-- Integer comparisons. -/
def viCmp (f6 w a b : Nat) : Option Bool :=
  match f6 with
  | 24 => some (a % 2 ^ w = b % 2 ^ w)
  | 25 => some (a % 2 ^ w != b % 2 ^ w)
  | 26 => some (a % 2 ^ w < b % 2 ^ w)
  | 27 => some (toInt w a < toInt w b)
  | 28 => some (a % 2 ^ w ≤ b % 2 ^ w)
  | 29 => some (toInt w a ≤ toInt w b)
  | 30 => some (b % 2 ^ w < a % 2 ^ w)
  | 31 => some (toInt w b < toInt w a)
  | _ => none

/-- OPMVV, OPMVX of one width; c from vd. -/
def vmElem (f6 w rm a b c : Nat) : Option (Nat × Nat) :=
  let v (x : Nat) : Option (Nat × Nat) := some (x % 2 ^ w, 0)
  match f6 with
  | 8 => v (ofInt w (roundoff rm (asInt false w a + asInt false w b) 1))
  | 9 => v (ofInt w (roundoff rm (toInt w a + toInt w b) 1))
  | 10 => v (ofInt w (roundoff rm (asInt false w a - asInt false w b) 1))
  | 11 => v (ofInt w (roundoff rm (toInt w a - toInt w b) 1))
  | 32 => v (udiv w a b)
  | 33 => v (sdiv w a b)
  | 34 => v (urem w a b)
  | 35 => v (srem w a b)
  | 36 => v (mulHigh w (asInt false w a) (asInt false w b))
  | 37 => v (a * b)
  | 38 => v (mulHigh w (toInt w a) (asInt false w b))
  | 39 => v (mulHigh w (toInt w a) (toInt w b))
  | 41 => v (b * c + a)
  | 43 => v (subW w a (b * c))
  | 45 => v (b * a + c)
  | 47 => v (subW w c (b * a))
  | _ => none

/-- Widening operations: operands of w bits, or for f6 52 to 55 a of 2 w; result of 2 w bits. -/
def vwElem (f6 w a b c : Nat) : Option Nat :=
  let ua := asInt false w a
  let ub := asInt false w b
  let sa := toInt w a
  let sb := toInt w b
  let r (x : Int) : Option Nat := some (ofInt (2 * w) x)
  match f6 with
  | 48 => r (ua + ub)
  | 49 => r (sa + sb)
  | 50 => r (ua - ub)
  | 51 => r (sa - sb)
  | 52 => r ((a : Int) + ub)
  | 53 => r ((a : Int) + sb)
  | 54 => r ((a : Int) - ub)
  | 55 => r ((a : Int) - sb)
  | 56 => r (ua * ub)
  | 58 => r (sa * ub)
  | 59 => r (sa * sb)
  | 60 => r (ub * ua + c)
  | 61 => r (sb * sa + c)
  | 62 => r (ub * sa + c)
  | 63 => r (sb * ua + c)
  | _ => none

/-- Reductions of one width. -/
def vredElem (f6 w a b : Nat) : Nat :=
  match f6 with
  | 0 => addW w a b
  | 1 => a &&& b
  | 2 => a ||| b
  | 3 => a ^^^ b
  | 4 => min a b
  | 5 => if toInt w a < toInt w b then a else b
  | 6 => max a b
  | _ => if toInt w a < toInt w b then b else a

/-! ## What the operands of an instruction are -/

/-- vm of an instruction. -/
def vmOf (i : Nat) : Bool := bit i 25
/-- The second operand of an element: vs1's element, the scalar, or the immediate, sign-extended. -/
def opnd (d : Drover) (i w k : Nat) : Nat :=
  match f3Of i with
  | 0 => vget d (rs1Of i) w k
  | 2 => vget d (rs1Of i) w k
  | 3 => sext 5 64 (rs1Of i) % 2 ^ w
  | _ => xr d (rs1Of i) % 2 ^ w

/-- Whether the second operand is a vector. -/
def vecOpnd (i : Nat) : Bool := f3Of i = 0 || f3Of i = 1 || f3Of i = 2

/-- Whether a masked instruction leaves v0 as a destination. -/
def maskFree (i : Nat) : Bool := vmOf i || rdOf i != 0

/-- Element e of the group that vs2 − or vs1 − names is legal with a destination of dw-bit elements. -/
def srcOk (vd dm dw vs sm sw : Nat) : Bool := groupOk vs sm && overlapOk vd dm dw vs sm sw

/-- The scalar result of a reduction goes to element 0 of vd. -/
def vscalar (n : Nat) (e : VEnv) (vd w : Nat) (r : Nat × Nat) (s : State) : DRes :=
  if e.vl = 0 then (vdone n 0 s, none) else vwrite n { e with vl := 1 } true vd w 8 (fun _ => r) s

/-! ## Permutations -/

/-- Slides: f6 14 up and 15 down by an offset. -/
def vslide (n : Nat) (e : VEnv) (i off : Nat) (s : State) : DRes :=
  let d := droverOf s n
  let vs := rs2Of i
  let w := e.sew
  let mx := vlmaxOf e.mul8 w
  if bits i 26 6 = 14 then
    if !overlapOk (rdOf i) e.mul8 1 vs e.mul8 2 || rdOf i = vs then bad s
    else vwrite n { e with vstart := max e.vstart off } (vmOf i) (rdOf i) w e.mul8 (fun k => (vget d vs w (k - off), 0)) s
  else vwrite n e (vmOf i) (rdOf i) w e.mul8 (fun k => (if k + off < mx then vget d vs w (k + off) else 0, 0)) s

/-- Gathers by an index for each element. -/
def vgather (n : Nat) (e : VEnv) (i : Nat) (idx : Nat → Nat) (s : State) : DRes :=
  let d := droverOf s n
  let vs := rs2Of i
  let mx := vlmaxOf e.mul8 e.sew
  if !overlapOk (rdOf i) e.mul8 1 vs e.mul8 2 || rdOf i = vs then bad s
  else vwrite n e (vmOf i) (rdOf i) e.sew e.mul8 (fun k => (if idx k < mx then vget d vs e.sew (idx k) else 0, 0)) s

/-! ## OPIVV, OPIVX, OPIVI -/

/-- Narrowing shifts and clips. -/
def vnarrow (n : Nat) (e : VEnv) (i : Nat) (s : State) : DRes :=
  let d := droverOf s n
  let w := e.sew
  let ww := 2 * w
  let rm := bits d.vcsr 1 2
  let vs := rs2Of i
  let sh (k : Nat) : Nat := (if f3Of i = 3 then rs1Of i else opnd d i w k) % ww
  let g (k : Nat) : Nat × Nat :=
    let a := vget d vs ww k
    match bits i 26 6 with
    | 44 => (a / 2 ^ sh k % 2 ^ w, 0)
    | 45 => (ofInt w (toInt ww a / (2 ^ sh k : Nat)), 0)
    | 46 => clip w false (roundoff rm (asInt false ww a) (sh k))
    | _ => clip w true (roundoff rm (toInt ww a) (sh k))
  if w = 64 || !srcOk (rdOf i) e.mul8 w vs (2 * e.mul8) ww || (vecOpnd i && !groupOk (rs1Of i) e.mul8) then bad s
  else vwrite n e (vmOf i) (rdOf i) w e.mul8 g s

/-- vadc, vsbc, vmadc and vmsbc: with vm clear the mask bit is the carry. -/
def vcarry (n : Nat) (e : VEnv) (i : Nat) (s : State) : DRes :=
  let d := droverOf s n
  let w := e.sew
  let vs := rs2Of i
  let f6 := bits i 26 6
  let cin (k : Nat) : Int := b2n (!vmOf i && vmask d 0 k)
  let a (k : Nat) : Int := asInt false w (vget d vs w k)
  let b (k : Nat) : Int := asInt false w (opnd d i w k)
  let r (k : Nat) : Int := if f6 ≤ 17 then a k + b k + cin k else a k - b k - cin k
  if f6 = 16 || f6 = 18 then
    if vmOf i || rdOf i = 0 then bad s else vwrite n e true (rdOf i) w e.mul8 (fun k => (ofInt w (r k), 0)) s
  else if !overlapOk (rdOf i) 8 1 vs e.mul8 w || (vecOpnd i && !overlapOk (rdOf i) 8 1 (rs1Of i) e.mul8 w) then bad s
  else vwriteMask n e true (rdOf i) (fun k => (decide (r k < 0 ∨ (2 ^ w : Nat) ≤ r k), 0)) s

/-- vmerge and vmv.v. -/
def vmergeOp (n : Nat) (e : VEnv) (i : Nat) (b : Nat → Nat) (s : State) : DRes :=
  let d := droverOf s n
  if vmOf i then
    if rs2Of i != 0 then bad s else vwrite n e true (rdOf i) e.sew e.mul8 (fun k => (b k, 0)) s
  else if rdOf i = 0 || !groupOk (rs2Of i) e.mul8 then bad s
  else vwrite n e true (rdOf i) e.sew e.mul8 (fun k => (if vmask d 0 k then b k else vget d (rs2Of i) e.sew k, 0)) s

/-- vmv1r, vmv2r, vmv4r, vmv8r. -/
def vmoveRegs (n i : Nat) (s : State) : DRes :=
  let k := rs1Of i + 1
  if !(k = 1 || k = 2 || k = 4 || k = 8) || !vmOf i || rdOf i % k != 0 || rs2Of i % k != 0 then bad s
  else
    let d := droverOf s n
    (vdone n 0 (modDrover s n (fun x => (List.range k).foldl (fun x r =>
      { x with v := amPut x.v (rdOf i + r) (amGet 0 d.v (rs2Of i + r)) }) x)), none)

/-- Which f6 codes of OPI each operand form has. -/
def viForm (f3 f6 : Nat) : Bool :=
  if f6 = 2 || f6 = 18 || f6 = 19 || f6 = 26 || f6 = 27 || f6 = 34 || f6 = 35 then f3 != 3
  else if 4 ≤ f6 && f6 ≤ 7 then f3 != 3
  else if f6 = 3 || f6 = 15 || f6 = 30 || f6 = 31 then f3 != 0
  else if f6 = 48 || f6 = 49 then f3 = 0
  else true

/-- OPIVV, OPIVX and OPIVI. -/
def vopi (n : Nat) (e : VEnv) (i : Nat) (s : State) : DRes :=
  let d := droverOf s n
  let w := e.sew
  let f6 := bits i 26 6
  let f3 := f3Of i
  let vs := rs2Of i
  let rm := bits d.vcsr 1 2
  let shifts := f6 = 37 || f6 = 40 || f6 = 41 || f6 = 42 || f6 = 43
  let b (k : Nat) : Nat := if shifts && f3 = 3 then rs1Of i else opnd d i w k
  let off := if f3 = 3 then rs1Of i else xr d (rs1Of i)
  let srcs := groupOk vs e.mul8 && (!vecOpnd i || groupOk (rs1Of i) e.mul8)
  if !viForm f3 f6 then bad s
  else if f6 = 39 && f3 = 3 then vmoveRegs n i s
  else if f6 = 48 || f6 = 49 then
    -- vwredsumu, vwredsum
    if e.vstart != 0 || w = 64 || !groupOk vs e.mul8 then bad s
    else
      let ks := (List.range e.vl).filter (active d (vmOf i))
      let r := ks.foldl (fun x k => addW (2 * w) x (if f6 = 48 then vget d vs w k else sext w (2 * w) (vget d vs w k))) (vget d (rs1Of i) (2 * w) 0)
      vscalar n e (rdOf i) (2 * w) (r, 0) s
  else if 44 ≤ f6 && f6 ≤ 47 then (if groupOk (rdOf i) e.mul8 && maskFree i then vnarrow n e i s else bad s)
  else if f6 = 17 || f6 = 19 then (if srcs then vcarry n e i s else bad s)
  else if 24 ≤ f6 && f6 ≤ 31 then
    if !srcs || !overlapOk (rdOf i) 8 1 vs e.mul8 w || (vecOpnd i && !overlapOk (rdOf i) 8 1 (rs1Of i) e.mul8 w) then bad s
    else vwriteMask n e (vmOf i) (rdOf i) (fun k => ((viCmp f6 w (vget d vs w k) (b k)).getD false, 0)) s
  else if !groupOk (rdOf i) e.mul8 then bad s
  else if f6 = 23 then vmergeOp n e i b s
  else if !groupOk vs e.mul8 then bad s
  else if f6 = 16 || f6 = 18 then (if srcs then vcarry n e i s else bad s)
  else if !maskFree i then bad s
  else if f6 = 14 && f3 = 0 then
    -- vrgatherei16: indexes of 16 bits
    let m := e.mul8 * 16 / w
    if !groupOk (rs1Of i) m || !overlapOk (rdOf i) e.mul8 1 (rs1Of i) m 2 || rdOf i = rs1Of i then bad s
    else vgather n e i (fun k => vget d (rs1Of i) 16 k) s
  else if f6 = 14 || f6 = 15 then vslide n e i off s
  else if f6 = 12 then
    if f3 = 0 then
      if !srcs || !overlapOk (rdOf i) e.mul8 1 (rs1Of i) e.mul8 2 || rdOf i = rs1Of i then bad s
      else vgather n e i (fun k => vget d (rs1Of i) w k) s
    else vgather n e i (fun _ => off) s
  else if !srcs || (viElem f6 w rm 0 0).isNone then bad s
  else vwrite n e (vmOf i) (rdOf i) w e.mul8 (fun k => (viElem f6 w rm (vget d vs w k) (b k)).getD (0, 0)) s

/-! ## OPMVV, OPMVX -/

/-- Logic of mask registers. -/
def maskLogic (f6 : Nat) (a b : Bool) : Bool :=
  match f6 with
  | 24 => a && !b
  | 25 => a && b
  | 26 => a || b
  | 27 => a != b
  | 28 => a || !b
  | 29 => !(a && b)
  | 30 => !(a || b)
  | _ => a == b

/-- The first active set bit of a mask below vl. -/
def vfirst (d : Drover) (e : VEnv) (vm : Bool) (vs : Nat) : Option Nat :=
  (List.range e.vl).find? (fun k => active d vm k && vmask d vs k)

/-- vmsbf, vmsof, vmsif, viota and vid. -/
def vmunary (n : Nat) (e : VEnv) (i : Nat) (s : State) : DRes :=
  let d := droverOf s n
  let vs := rs2Of i
  let vd := rdOf i
  let f := vfirst d e (vmOf i) vs
  let below (k : Nat) : Bool := match f with | some x => k < x | none => true
  let apart := vd != vs && maskFree i && e.vstart = 0
  match rs1Of i with
  | 1 => if apart then vwriteMask n e (vmOf i) vd (fun k => (below k, 0)) s else bad s
  | 2 => if apart then vwriteMask n e (vmOf i) vd (fun k => (f = some k, 0)) s else bad s
  | 3 => if apart then vwriteMask n e (vmOf i) vd (fun k => (below k || f = some k, 0)) s else bad s
  | 16 =>
    if e.vstart != 0 || !groupOk vd e.mul8 || !maskFree i || !overlapOk vd e.mul8 e.sew vs 8 1 then bad s
    else vwrite n e (vmOf i) vd e.sew e.mul8 (fun k => (((List.range k).filter (fun j => active d (vmOf i) j && vmask d vs j)).length, 0)) s
  | 17 =>
    if vs != 0 || !groupOk vd e.mul8 || !maskFree i then bad s
    else vwrite n e (vmOf i) vd e.sew e.mul8 (fun k => (k, 0)) s
  | _ => bad s

/-- vzext and vsext. -/
def vxunary (n : Nat) (e : VEnv) (i : Nat) (s : State) : DRes :=
  let d := droverOf s n
  let r1 := rs1Of i
  let div := if r1 = 2 || r1 = 3 then 8 else if r1 = 4 || r1 = 5 then 4 else if r1 = 6 || r1 = 7 then 2 else 0
  let sw := if div = 0 then 0 else e.sew / div
  let sm := if div = 0 then 0 else e.mul8 / div
  if sw < 8 || sm = 0 || !groupOk (rdOf i) e.mul8 || !maskFree i || !srcOk (rdOf i) e.mul8 e.sew (rs2Of i) sm sw then bad s
  else vwrite n e (vmOf i) (rdOf i) e.sew e.mul8 (fun k =>
    (if r1 % 2 = 1 then sext sw e.sew (vget d (rs2Of i) sw k) else vget d (rs2Of i) sw k, 0)) s

/-- vcompress. -/
def vcompress (n : Nat) (e : VEnv) (i : Nat) (s : State) : DRes :=
  let d := droverOf s n
  let vd := rdOf i
  let ks := (List.range e.vl).filter (fun k => vmask d (rs1Of i) k)
  if e.vstart != 0 || !vmOf i || !groupOk vd e.mul8 || !groupOk (rs2Of i) e.mul8 ||
      !overlapOk vd e.mul8 1 (rs2Of i) e.mul8 2 || vd = rs2Of i || !overlapOk vd e.mul8 2 (rs1Of i) 8 4 || vd = rs1Of i then bad s
  else if e.vl = 0 then (vdone n 0 s, none)
  else vwrite n { e with vl := ks.length } true vd e.sew e.mul8 (fun k => (vget d (rs2Of i) e.sew (ks.getD k 0), 0)) s

/-- OPMVV and OPMVX. -/
def vopm (n : Nat) (e : VEnv) (i : Nat) (s : State) : DRes :=
  let d := droverOf s n
  let w := e.sew
  let f6 := bits i 26 6
  let vv := f3Of i = 2
  let vs := rs2Of i
  let vd := rdOf i
  let rm := bits d.vcsr 1 2
  let b (k : Nat) : Nat := opnd d i w k
  let srcs := groupOk vs e.mul8 && (!vv || groupOk (rs1Of i) e.mul8)
  if f6 < 8 then
    if !vv || e.vstart != 0 || !groupOk vs e.mul8 then bad s
    else
      let ks := (List.range e.vl).filter (active d (vmOf i))
      vscalar n e vd w (ks.foldl (fun x k => vredElem f6 w x (vget d vs w k)) (vget d (rs1Of i) w 0), 0) s
  else if f6 = 14 || f6 = 15 then
    if vv || !groupOk vd e.mul8 || !groupOk vs e.mul8 || !maskFree i || (f6 = 14 && (!overlapOk vd e.mul8 1 vs e.mul8 2 || vd = vs)) then bad s
    else vwrite n e (vmOf i) vd w e.mul8 (fun k =>
      (if f6 = 14 then (if k = 0 then b 0 else vget d vs w (k - 1)) else if k + 1 = e.vl then b 0 else vget d vs w (k + 1), 0)) s
  else if f6 = 16 then
    if vv then
      match rs1Of i with
      | 0 => if vmOf i then (setX n vd (sext w 64 (vget d vs w 0)) (vdone n 0 s), none) else bad s
      | 16 =>
        if e.vstart != 0 then bad s
        else (setX n vd ((List.range e.vl).filter (fun k => active d (vmOf i) k && vmask d vs k)).length (vdone n 0 s), none)
      | 17 =>
        if e.vstart != 0 then bad s
        else (setX n vd (match vfirst d e (vmOf i) vs with | some k => k | none => 2 ^ 64 - 1) (vdone n 0 s), none)
      | _ => bad s
    else if vs != 0 || !vmOf i then bad s
    else vscalar n e vd w (b 0, 0) s
  else if f6 = 18 then (if vv then vxunary n e i s else bad s)
  else if f6 = 20 then (if vv then vmunary n e i s else bad s)
  else if f6 = 23 then (if vv then vcompress n e i s else bad s)
  else if 24 ≤ f6 && f6 ≤ 31 then
    if !vv || !vmOf i then bad s
    else vwriteMask n e true vd (fun k => (maskLogic f6 (vmask d vs k) (vmask d (rs1Of i) k), 0)) s
  else if !maskFree i then bad s
  else if 48 ≤ f6 then
    let wide := 52 ≤ f6 && f6 ≤ 55
    let sm := if wide then 2 * e.mul8 else e.mul8
    let sw := if wide then 2 * w else w
    if w = 64 || 64 < 2 * e.mul8 || (vwElem f6 w 0 0 0).isNone || (f6 = 62 && vv) || !groupOk vd (2 * e.mul8) ||
        !srcOk vd (2 * e.mul8) (2 * w) vs sm sw || (vv && !srcOk vd (2 * e.mul8) (2 * w) (rs1Of i) e.mul8 w) then bad s
    else vwrite n e (vmOf i) vd (2 * w) (2 * e.mul8) (fun k =>
      ((vwElem f6 w (vget d vs sw k) (b k) (vget d vd (2 * w) k)).getD 0, 0)) s
  else if !srcs || !groupOk vd e.mul8 || (vmElem f6 w rm 0 0 0).isNone then bad s
  else vwrite n e (vmOf i) vd w e.mul8 (fun k => (vmElem f6 w rm (vget d vs w k) (b k) (vget d vd w k)).getD (0, 0)) s

/-! ## OPFVV, OPFVF -/

/-- The format of a vector element width. -/
def vfmt (w : Nat) : Option FFmt :=
  match w with
  | 16 => some ffFP16
  | 32 => some ffFP32
  | 64 => some ffFP64
  | _ => none

/-- Element operations of one width; a from vs2, b the other operand, c from vd. -/
def vfElem (f : FFmt) (f6 a b c : Nat) : Option (Nat × Nat) :=
  match f6 with
  | 0 => some (fpAdd f a b)
  | 2 => some (fpSub f a b)
  | 4 => some (fpMinMax f false a b)
  | 6 => some (fpMinMax f true a b)
  | 8 => some (fpSgnj f 0 a b, 0)
  | 9 => some (fpSgnj f 1 a b, 0)
  | 10 => some (fpSgnj f 2 a b, 0)
  | 32 => some (fpDiv f a b)
  | 33 => some (fpDiv f b a)
  | 36 => some (fpMul f a b)
  | 39 => some (fpSub f b a)
  | 40 => some (fpFma f false false b c a)
  | 41 => some (fpFma f true true b c a)
  | 42 => some (fpFma f false true b c a)
  | 43 => some (fpFma f true false b c a)
  | 44 => some (fpFma f false false b a c)
  | 45 => some (fpFma f true true b a c)
  | 46 => some (fpFma f false true b a c)
  | 47 => some (fpFma f true false b a c)
  | _ => none

/-- A wider copy of a code, exact, with the flag of a signaling NaN. -/
def widen (f g : FFmt) (a : Nat) : Nat × Nat := fpConv f g a

/-- Widening element operations, from format f to g; a is already wide for f6 52 and 54. -/
def vfwElem (f g : FFmt) (f6 a b c : Nat) : Option (Nat × Nat) :=
  let wa := widen f g a
  let wb := widen f g b
  let fl (r : Nat × Nat) : Option (Nat × Nat) := some (r.1, r.2 ||| wa.2 ||| wb.2)
  let flb (r : Nat × Nat) : Option (Nat × Nat) := some (r.1, r.2 ||| wb.2)
  match f6 with
  | 48 => fl (fpAdd g wa.1 wb.1)
  | 50 => fl (fpSub g wa.1 wb.1)
  | 52 => flb (fpAdd g a wb.1)
  | 54 => flb (fpSub g a wb.1)
  | 56 => fl (fpMul g wa.1 wb.1)
  | 59 => fl (fpFma g false false wb.1 wa.1 c)
  | 60 => fl (fpFma g false false wb.1 wa.1 c)
  | 61 => fl (fpFma g true true wb.1 wa.1 c)
  | 62 => fl (fpFma g false true wb.1 wa.1 c)
  | 63 => fl (fpFma g true false wb.1 wa.1 c)
  | _ => none

/-- Comparisons: vmfeq, vmfle, vmflt, vmfne, vmfgt, vmfge. -/
def vfCmp (f : FFmt) (f6 a b : Nat) : Option (Bool × Nat) :=
  match f6 with
  | 24 => some (fpCmp f 2 a b)
  | 25 => some (fpCmp f 0 a b)
  | 27 => some (fpCmp f 1 a b)
  | 28 => some (!(fpCmp f 2 a b).1, (fpCmp f 2 a b).2)
  | 29 => some (fpCmp f 1 b a)
  | 31 => some (fpCmp f 0 b a)
  | _ => none

/-- VFUNARY0 between formats: element widths of the source and destination, and the operation; none for a reserved code. The
rounding of .rod is nearest even (03 R71). -/
def vfunary0 (w k : Nat) : Option (Nat × Nat × (Nat → Nat × Nat)) :=
  let toI (f : Option FFmt) (sw dw rm : Nat) (sg : Bool) : Option (Nat × Nat × (Nat → Nat × Nat)) :=
    f.map (fun f => (sw, dw, fpToInt f rm dw sg))
  let ofI (f : Option FFmt) (sw dw : Nat) (sg : Bool) : Option (Nat × Nat × (Nat → Nat × Nat)) :=
    f.map (fun f => (sw, dw, fpOfInt f sw sg))
  let conv (f g : Option FFmt) (sw dw : Nat) : Option (Nat × Nat × (Nat → Nat × Nat)) :=
    match f, g with
    | some f, some g => some (sw, dw, fpConv f g)
    | _, _ => none
  let ww := 2 * w
  match k with
  | 0 => toI (vfmt w) w w 0 false
  | 1 => toI (vfmt w) w w 0 true
  | 2 => ofI (vfmt w) w w false
  | 3 => ofI (vfmt w) w w true
  | 6 => toI (vfmt w) w w 1 false
  | 7 => toI (vfmt w) w w 1 true
  | 8 => if w ≤ 32 then toI (vfmt w) w ww 0 false else none
  | 9 => if w ≤ 32 then toI (vfmt w) w ww 0 true else none
  | 10 => ofI (vfmt ww) w ww false
  | 11 => ofI (vfmt ww) w ww true
  | 12 => conv (vfmt w) (vfmt ww) w ww
  | 13 => if w = 16 then conv (some ffBF16) (some ffFP32) w ww else none
  | 14 => if w ≤ 32 then toI (vfmt w) w ww 1 false else none
  | 15 => if w ≤ 32 then toI (vfmt w) w ww 1 true else none
  | 16 => toI (vfmt ww) ww w 0 false
  | 17 => toI (vfmt ww) ww w 0 true
  | 18 => if w ≤ 32 then ofI (vfmt w) ww w false else none
  | 19 => if w ≤ 32 then ofI (vfmt w) ww w true else none
  | 20 => conv (vfmt ww) (vfmt w) ww w
  | 21 => conv (vfmt ww) (vfmt w) ww w
  | 22 => toI (vfmt ww) ww w 1 false
  | 23 => toI (vfmt ww) ww w 1 true
  | 29 => if w = 16 then conv (some ffFP32) (some ffBF16) ww w else none
  | _ => none

/-- VFUNARY1. -/
def vfunary1 (f : FFmt) (k a : Nat) : Option (Nat × Nat) :=
  match k with
  | 0 => some (fpSqrt f a)
  | 4 => some (fpRsqrt7 f a)
  | 5 => some (fpRec7 f a)
  | 16 => some (fpClass f a, 0)
  | _ => none

/-- Floating-point reductions: 1 unordered sum, 3 ordered sum, 5 min, 7 max. An unordered sum of more than one element has an open
order, and its value is free. -/
def vfred (n : Nat) (e : VEnv) (i : Nat) (f : FFmt) (conv : Nat → Nat × Nat) (sw f6 : Nat) (s : State) : DRes :=
  let d := droverOf s n
  let ks := (List.range e.vl).filter (active d (vmOf i))
  let x0 := vget d (rs1Of i) f.width 0
  let op (a b : Nat) : Nat × Nat := match f6 with
    | 5 => fpMinMax f false a b
    | 7 => fpMinMax f true a b
    | _ => fpAdd f a b
  let r := ks.foldl (fun (x : Nat × Nat) k =>
    let c := conv (vget d (rs2Of i) sw k)
    let y := op x.1 c.1
    (y.1, x.2 ||| y.2 ||| c.2)) (x0, 0)
  let r := if f6 = 1 && 2 ≤ ks.length then ((Config.freeElem s.free (rdOf i)).toNat, r.2) else r
  if e.vstart != 0 || !groupOk (rs2Of i) e.mul8 then bad s else vscalar n e (rdOf i) f.width r s

/-- OPFVV and OPFVF on a format. -/
def vopfOn (n : Nat) (e : VEnv) (i : Nat) (f : FFmt) (s : State) : DRes :=
  let d := droverOf s n
  let w := e.sew
  let f6 := bits i 26 6
  let vv := f3Of i = 1
  let vs := rs2Of i
  let vd := rdOf i
  let sc := frAs d (if f6 = 59 then ffBF16 else f) (rs1Of i)
  let b (k : Nat) : Nat := if vv then vget d (rs1Of i) w k else sc
  let srcs := groupOk vs e.mul8 && (!vv || groupOk (rs1Of i) e.mul8)
  let g := vfmt (2 * w)
  if vv && (f6 = 1 || f6 = 3 || f6 = 5 || f6 = 7) then vfred n e i f (fun a => (a, 0)) w f6 s
  else if vv && (f6 = 49 || f6 = 51) then
    match g with
    | none => bad s
    | some g => vfred n e i g (fpConv f g) w (f6 - 48) s
  else if f6 = 16 then
    if vv then (if rs1Of i = 0 && vmOf i then (setF n w vd (vget d vs w 0) (vdone n 0 s), none) else bad s)
    else if vs = 0 && vmOf i then vscalar n e vd w (sc, 0) s
    else bad s
  else if 24 ≤ f6 && f6 ≤ 31 then
    if !srcs || (vfCmp f f6 0 0).isNone || (vv && (f6 = 29 || f6 = 31)) || !overlapOk vd 8 1 vs e.mul8 w ||
        (vv && !overlapOk vd 8 1 (rs1Of i) e.mul8 w) then bad s
    else vwriteMask n e (vmOf i) vd (fun k => (vfCmp f f6 (vget d vs w k) (b k)).getD (false, 0)) s
  else if f6 = 23 then (if vv || !groupOk vd e.mul8 then bad s else vmergeOp n e i (fun _ => sc) s)
  else if !maskFree i then bad s
  else if f6 = 14 || f6 = 15 then
    if vv || !srcs || !groupOk vd e.mul8 || (f6 = 14 && (!overlapOk vd e.mul8 1 vs e.mul8 2 || vd = vs)) then bad s
    else vwrite n e (vmOf i) vd w e.mul8 (fun k =>
      (if f6 = 14 then (if k = 0 then sc else vget d vs w (k - 1)) else if k + 1 = e.vl then sc else vget d vs w (k + 1), 0)) s
  else if f6 = 19 then
    if !vv || !groupOk vs e.mul8 || !groupOk vd e.mul8 || (vfunary1 f (rs1Of i) 0).isNone then bad s
    else vwrite n e (vmOf i) vd w e.mul8 (fun k => (vfunary1 f (rs1Of i) (vget d vs w k)).getD (0, 0)) s
  else if 48 ≤ f6 then
    match g with
    | none => bad s
    | some g =>
      let wide := f6 = 52 || f6 = 54
      let sm := if wide then 2 * e.mul8 else e.mul8
      let sw := if wide then 2 * w else w
      let f' := if f6 = 59 then ffBF16 else f
      if (vfwElem f g f6 0 0 0).isNone || (f6 = 59 && w != 16) || 64 < 2 * e.mul8 || !groupOk vd (2 * e.mul8) ||
          !srcOk vd (2 * e.mul8) (2 * w) vs sm sw || (vv && !srcOk vd (2 * e.mul8) (2 * w) (rs1Of i) e.mul8 w) then bad s
      else vwrite n e (vmOf i) vd (2 * w) (2 * e.mul8) (fun k =>
        (vfwElem f' g f6 (vget d vs sw k) (b k) (vget d vd (2 * w) k)).getD (0, 0)) s
  else if !srcs || !groupOk vd e.mul8 || (vfElem f f6 0 0 0).isNone || (vv && (f6 = 33 || f6 = 39)) then bad s
  else vwrite n e (vmOf i) vd w e.mul8 (fun k => (vfElem f f6 (vget d vs w k) (b k) (vget d vd w k)).getD (0, 0)) s

/-- VFUNARY0 conversions. -/
def vconvert (n : Nat) (e : VEnv) (i : Nat) (s : State) : DRes :=
  let d := droverOf s n
  match vfunary0 e.sew (rs1Of i) with
  | none => bad s
  | some (sw, dw, op) =>
    let sm := e.mul8 * sw / e.sew
    let dm := e.mul8 * dw / e.sew
    if !maskFree i || !groupOk (rdOf i) dm || !srcOk (rdOf i) dm dw (rs2Of i) sm sw then bad s
    else vwrite n e (vmOf i) (rdOf i) dw dm (fun k => op (vget d (rs2Of i) sw k)) s

/-- OPFVV and OPFVF. -/
def vopf (n : Nat) (e : VEnv) (i : Nat) (s : State) : DRes :=
  if bits i 26 6 = 18 then (if f3Of i = 1 then vconvert n e i s else bad s)
  else match vfmt e.sew with
    | none => bad s
    | some f => vopfOn n e i f s

/-- OP-V. -/
def vopv (n i : Nat) (s : State) : DRes :=
  let d := droverOf s n
  if f3Of i = 7 then vsetOp n i s
  else match venv d with
    | none => bad s
    | some e =>
      if f3Of i = 2 || f3Of i = 6 then vopm n e i s
      else if f3Of i = 1 || f3Of i = 5 then vopf n e i s
      else vopi n e i s

/-! ## Vector loads and stores -/

/-- How a vector memory instruction addresses: element width in memory, fields, the element count, the register group of one field,
and the address of field f of element k. -/
structure VMem where
  w : Nat
  nf : Nat
  evl : Nat
  m8 : Nat
  unit : Bool
  addr : Nat → Nat → Nat
  masked : Bool
  faultFirst : Bool
  /-- Whether the instruction moves whole registers or masks, which take no part in the environment's masking and tail. -/
  whole : Bool

/-- Bits of the element width code of a vector memory instruction. -/
def vwidth (f3 : Nat) : Nat :=
  match f3 with
  | 0 => 8
  | 5 => 16
  | 6 => 32
  | _ => 64

/-- Decode a vector load or store; none for a reserved encoding. -/
def vmemOf (d : Drover) (i : Nat) (load : Bool) : Option VMem :=
  let w := vwidth (f3Of i)
  let nf := bits i 29 3 + 1
  let base := xr d (rs1Of i)
  let at' (o : Nat) : Nat := (base + o) % 2 ^ 64
  let mop := bits i 26 2
  let lum := rs2Of i
  if bit i 28 then none
  else if mop = 0 && lum = 8 then
    if !vmOf i || !(nf = 1 || nf = 2 || nf = 4 || nf = 8) || (!load && w != 8) || rdOf i % nf != 0 then none
    else some ⟨w, 1, nf * 1024 / w, 8 * nf, true, fun k _ => at' (k * (w / 8)), false, false, true⟩
  else match venv d with
    | none => none
    | some e =>
      let m8 := e.mul8 * w / e.sew
      if mop = 0 && lum = 11 then
        if !vmOf i || nf != 1 || w != 8 then none
        else some ⟨8, 1, ceilDiv e.vl 8, 8, true, fun k _ => at' k, false, false, true⟩
      else
        let dw := if mop % 2 = 1 then e.sew else w
        let dm := if mop % 2 = 1 then e.mul8 else m8
        if dm = 0 || !groupOk (rdOf i) dm || 64 < nf * max 8 dm || 32 < rdOf i + nf * max 1 (dm / 8) || (load && !maskFree i) then none
        else if mop = 0 then
          if lum != 0 && !(lum = 16 && load) then none
          else some ⟨w, nf, e.vl, dm, nf = 1, fun k f => at' ((k * nf + f) * (w / 8)), !vmOf i, lum = 16, false⟩
        else if mop = 2 then
          let st := xr d (rs2Of i)
          some ⟨w, nf, e.vl, dm, false, fun k f => at' (k * st + f * (w / 8)), !vmOf i, false, false⟩
        else if m8 = 0 || !groupOk (rs2Of i) m8 || (load && nf = 1 && !overlapOk (rdOf i) dm dw (rs2Of i) m8 w) then none
        else some ⟨dw, nf, e.vl, dm, false, fun k f => at' (vget d (rs2Of i) w k + f * (dw / 8)), !vmOf i, false, false⟩

/-- The register of field f. -/
def fieldReg (i f m8 : Nat) : Nat := rdOf i + f * max 1 (m8 / 8)

/-- Load elements one by one; the first that traps stops the instruction, or trims vl for a fault-only-first load. -/
def vloadElems (n : Nat) (j : Job) (f : Faults) (i : Nat) (m : VMem) : List (Nat × Nat) → State → State × Option (Nat × Trap)
  | [], s => (s, none)
  | (k, fl) :: es, s =>
    let a := m.addr k fl
    if scratchLost n a f then (s, some (k, ⟨drvFailed n, 5, a⟩))
    else match drvLoad s n j a (m.w / 8) true with
      | .inl t => (s, some (k, t))
      | .inr v => vloadElems n j f i m es (modDrover s n (vput (fieldReg i fl m.m8) m.w k v))

/-- The elements that an instruction touches, in order. -/
def vtouched (d : Drover) (m : VMem) : List (Nat × Nat) :=
  ((List.range m.evl).filter (fun k => d.vstart ≤ k && (!m.masked || vmask d 0 k))).flatMap
    (fun k => (List.range m.nf).map (fun f => (k, f)))

/-- What is agnostic of a loaded group. -/
def vloadRest (n : Nat) (i : Nat) (m : VMem) (d0 : Drover) (s : State) : State :=
  match m.whole, venv d0 with
  | false, some e =>
    if e.vl ≤ e.vstart then s
    else
      let total := max (vlmaxOf m.m8 m.w) (1024 / m.w)
      let ks := (List.range total).filter (fun k => e.vl ≤ k || (e.vstart ≤ k && m.masked && !vmask d0 0 k))
      (List.range m.nf).foldl (fun s f => ks.foldl (fun s k =>
        let r := fieldReg i f m.m8
        modDrover s n (vput r m.w k (agnostic s (if e.vl ≤ k then e.vta else e.vma) r k m.w (vget d0 r m.w k)))) s) s
  | _, _ => s

/-- A vector load. -/
def vload (n : Nat) (j : Job) (f : Faults) (i : Nat) (s : State) : DRes :=
  let d := droverOf s n
  match vmemOf d i true with
  | none => bad s
  | some m =>
    match vloadElems n j f i m (vtouched d m) s with
    | (s', none) => (vdone n 0 (vloadRest n i m d s'), none)
    | (s', some (k, t)) =>
      if m.faultFirst && k != 0 then (vdone n 0 (modDrover s' n (fun d => { d with vl := k })), none)
      else (modDrover s' n (fun d => { d with vstart := k }), some t)

/-- A vector store (11 R300, R302). -/
def vstore (n : Nat) (j : Job) (i : Nat) (s : State) : DRes :=
  let d := droverOf s n
  match vmemOf d i false with
  | none => bad s
  | some m =>
    let es := (vtouched d m).map (fun x => (m.addr x.1 x.2, vget d (fieldReg i x.2 m.m8) m.w x.1))
    match vecStore n j (m.w / 8) m.unit es s with
    | (s', none) => (vdone n 0 s', none)
    | r => r

/-! ## DROVER_INSTRUCTION -/

/-- Whether a vector instruction makes checked adds or multiplies (05 R138). -/
def vecChecked (i : Nat) : Bool :=
  i % 128 = 0x57 &&
  (let f6 := bits i 26 6
   match f3Of i with
   | 7 => false
   | 1 => f6 ≤ 3 || (36 ≤ f6 && f6 ≤ 63)
   | 5 => f6 = 0 || f6 = 2 || (36 ≤ f6 && f6 ≤ 63)
   | 2 => f6 = 0 || (8 ≤ f6 && f6 ≤ 11) || 36 ≤ f6
   | 6 => (8 ≤ f6 && f6 ≤ 11) || 36 ≤ f6
   | _ => f6 = 0 || f6 = 2 || f6 = 3 || (16 ≤ f6 && f6 ≤ 19) || (32 ≤ f6 && f6 ≤ 35) || f6 = 39 || f6 = 48 || f6 = 49)

/-- Whether an instruction is a vector instruction. -/
def isVector (i : Nat) : Bool :=
  let k := f3Of i
  i % 128 = 0x57 || ((i % 128 = 0x07 || i % 128 = 0x27) && !(1 ≤ k && k ≤ 3))

/-- Fetch an instruction: its word, expanded, and its length; or why it traps (11 R291, R294). -/
def drvFetch (s : State) (n : Nat) (j : Job) : Trap ⊕ (Nat × Nat) :=
  let pc := (droverOf s n).pc
  match (if pc % 2 != 0 then some ⟨badState, 0, pc⟩ else drvCheck s n j pc 2 pExec false) with
  | some t => .inl t
  | none =>
    let lo := readNat s (drvUnit n) pc 2
    if lo % 4 != 3 then
      match expand lo with
      | some i => .inr (i, 2)
      | none => .inl illegal
    else match drvCheck s n j ((pc + 2) % 2 ^ 64) 2 pExec false with
      | some t => .inl t
      | none => .inr (lo + 2 ^ 16 * readNat s (drvUnit n) ((pc + 2) % 2 ^ 64) 2, 4)

/-- Run one fetched instruction: vector or scalar. -/
def drvRun (n : Nat) (j : Job) (f : Faults) (i len : Nat) (s : State) : DRes × Flow :=
  match scalar n j f i len s with
  | some r => r
  | none =>
    (match i % 128 with
      | 0x57 => vopv n i s
      | 0x07 => if isVector i && f3Of i != 4 then vload n j f i s else bad s
      | _ => if isVector i && f3Of i != 4 then vstore n j i s else bad s, .next)

/-- A checked instruction and what residue mismatches make of it: one is re-executed, a second stops the launch (05 R138). -/
def residue (n : Nat) (j : Job) (f : Faults) (s : State) : DRes :=
  let s := count (modDrover s n (fun d => { d with checks := d.checks + 1 })) (drvUnit n) 0x28 1
  if f.mismatch = 0 then (s, none)
  else if f.mismatch = 1 then
    (charge (drvUnit n) 1 (modJob (count s (drvUnit n) 0x20 1) j.id (fun k => { k with replays := k.replays + 1 })), none)
  else traps (modJob (count s (drvUnit n) 0x20 1) j.id (fun k => { k with replays := k.replays + 1 })) ⟨drvFailed n, 0xFFFF, 0⟩

/-- Retire an instruction: counts, and where the drover goes on. -/
def drvRetire (n : Nat) (j : Job) (len : Nat) (vec : Bool) (fl : Flow) (s : State) : State :=
  let s := drvNext n j len vec s
  match fl with
  | .next => s
  | .jump pc => modDrover s n (fun d => { d with pc := pc })
  | .exit => drvExit n s

/-- One instruction of a drover. -/
def drvInstr (n : Nat) (f : Faults) (j : Job) (s : State) : DRes :=
  match drvFetch s n j with
  | .inl t => traps s t
  | .inr (i, len) =>
    let chk := scalarChecked i || vecChecked i
    match (if chk then residue n j f s else (s, none)) with
    | (s', some t) => traps s' t
    | (s', none) =>
      match drvRun n j f i len s' with
      | ((s'', some t), _) => traps s'' t
      | ((s'', none), fl) => (drvRetire n j len (isVector i) fl s'', none)

/-- DROVER_INSTRUCTION: a drover fetches, checks and executes the instruction at its pc (11 R286, R291; 05 R138). -/
def execDroverInstruction (die : CDie) (n : BitVec 6) (f : Faults) (s : State) : Host.Outcome State Fault Refusal :=
  let k := drvKey die.val n.toNat
  .next (settle (drvStep k (drvInstr k f) s))

end Sys2Proof.Machine
end

