-- ==== Sys2Proof/Machine/Dispatch.lean ====
section
/-! DEFINITION. The meaning of every command: one arm per constructor of `Instr`. -/

namespace Sys2Proof.Machine

/-- The effect of a command on everything but the queue. -/
def exec (i : Instr) (s : State) : Host.Outcome State Fault Refusal :=
  match i with
  | .nop h => Sys2Proof.Machine.execNop h s
  | .queryReady h p => Sys2Proof.Machine.execQueryReady h p s
  | .queryStatus h p => Sys2Proof.Machine.execQueryStatus h p s
  | .mmPartition h p => Sys2Proof.Machine.execMmPartition h p s
  | .mmPass h p f => Sys2Proof.Machine.execMmPass h p f s
  | .mmDrain h p f => Sys2Proof.Machine.execMmDrain h p f s
  | .mmAbort h p => Sys2Proof.Machine.execMmAbort h p s
  | .rtTopk h p f => Sys2Proof.Machine.execRtTopk h p f s
  | .rtCount h p f => Sys2Proof.Machine.execRtCount h p f s
  | .rtDispatch h p f => Sys2Proof.Machine.execRtDispatch h p f s
  | .rtReplay h p f => Sys2Proof.Machine.execRtReplay h p f s
  | .rtCancel h p => Sys2Proof.Machine.execRtCancel h p s
  | .cbCombine h p f => Sys2Proof.Machine.execCbCombine h p f s
  | .cbReturnGrad h p f => Sys2Proof.Machine.execCbReturnGrad h p f s
  | .cbFactorFlush h p f => Sys2Proof.Machine.execCbFactorFlush h p f s
  | .dmaRun h p f => Sys2Proof.Machine.execDmaRun h p f s
  | .dmaChain h p f => Sys2Proof.Machine.execDmaChain h p f s
  | .sigSet h p => Sys2Proof.Machine.execSigSet h p s
  | .sigAdd h p => Sys2Proof.Machine.execSigAdd h p s
  | .sigWait h p => Sys2Proof.Machine.execSigWait h p s
  | .fenceWrites h p => Sys2Proof.Machine.execFenceWrites h p s
  | .fenceAll h p => Sys2Proof.Machine.execFenceAll h p s
  | .loopBegin h p => Sys2Proof.Machine.execLoopBegin h p s
  | .loopEnd h => Sys2Proof.Machine.execLoopEnd h s
  | .skipIf h p => Sys2Proof.Machine.execSkipIf h p s
  | .drvLaunch h p => Sys2Proof.Machine.execDrvLaunch h p s
  | .memAtomic h p f => Sys2Proof.Machine.execMemAtomic h p f s
  | .verPublish h p => Sys2Proof.Machine.execVerPublish h p s
  | .verPin h p => Sys2Proof.Machine.execVerPin h p s
  | .verRetire h p => Sys2Proof.Machine.execVerRetire h p s
  | .chainReduce h p f => Sys2Proof.Machine.execChainReduce h p f s
  | .grpBarrier h p => Sys2Proof.Machine.execGrpBarrier h p s
  | .grpDirectoryUpdate h p => Sys2Proof.Machine.execGrpDirectoryUpdate h p s
  | .selftestUnit h p f => Sys2Proof.Machine.execSelftestUnit h p f s
  | .calibrateChannel h p => Sys2Proof.Machine.execCalibrateChannel h p s
  | .ctxCreate h p => Sys2Proof.Machine.execCtxCreate h p s
  | .ctxDestroy h p => Sys2Proof.Machine.execCtxDestroy h p s
  | .cfgWrite h p => Sys2Proof.Machine.execCfgWrite h p s
  | .mapOut h p => Sys2Proof.Machine.execMapOut h p s
  | .remapEpoch h p => Sys2Proof.Machine.execRemapEpoch h p s
  | .fwLoad h p f => Sys2Proof.Machine.execFwLoad h p f s
  | .ledgerSeal h => Sys2Proof.Machine.execLedgerSeal h s
  | .cmdTail a ctx ring tail => Sys2Proof.Machine.execCmdTail a ctx ring tail s
  | .ringRestart a ctx ring tail => Sys2Proof.Machine.execRingRestart a ctx ring tail s
  | .replyHead a ctx ring head => Sys2Proof.Machine.execReplyHead a ctx ring head s
  | .controlBlockWrite a ctx ring word value => Sys2Proof.Machine.execControlBlockWrite a ctx ring word value s
  | .packetFetch ctx ring => Sys2Proof.Machine.execPacketFetch ctx ring s
  | .packetDispatch unit part f => Sys2Proof.Machine.execPacketDispatch unit part f s
  | .commandTimeout job => Sys2Proof.Machine.execCommandTimeout job s
  | .waitReadyDispatch unit f => Sys2Proof.Machine.execWaitReadyDispatch unit f s
  | .watchdogExpiry unit part boundary silent => Sys2Proof.Machine.execWatchdogExpiry unit part boundary silent s
  | .receiverResetExpiry unit boundary completed => Sys2Proof.Machine.execReceiverResetExpiry unit boundary completed s
  | .lateAcknowledge unit boundary => Sys2Proof.Machine.execLateAcknowledge unit boundary s
  | .intakeWindowClose obj f => Sys2Proof.Machine.execIntakeWindowClose obj f s
  | .kernelGateCall die call => Sys2Proof.Machine.execKernelGateCall die call s
  | .completionToken engine part f => Sys2Proof.Machine.execCompletionToken engine part f s
  | .borrowPartition job f => Sys2Proof.Machine.execBorrowPartition job f s
  | .tenantPreemptTimer unit part => Sys2Proof.Machine.execTenantPreemptTimer unit part s
  | .countMessage die m f => Sys2Proof.Machine.execCountMessage die m f s
  | .quotaMessage die m f => Sys2Proof.Machine.execQuotaMessage die m f s
  | .countDiscardTimer die ctx tag => Sys2Proof.Machine.execCountDiscardTimer die ctx tag s
  | .exchangeRowArrival die m => Sys2Proof.Machine.execExchangeRowArrival die m s
  | .heldHalfRetry die engine => Sys2Proof.Machine.execHeldHalfRetry die engine s
  | .lookupRequest die m => Sys2Proof.Machine.execLookupRequest die m s
  | .returnWord die ctx addr value => Sys2Proof.Machine.execReturnWord die ctx addr value s
  | .contributionArrival die m f => Sys2Proof.Machine.execContributionArrival die m f s
  | .cancelNotice die m => Sys2Proof.Machine.execCancelNotice die m s
  | .cancelAck die m => Sys2Proof.Machine.execCancelAck die m s
  | .signalOperation w addr op => Sys2Proof.Machine.execSignalOperation w addr op s
  | .peerSignalOperation port pos ctx addr op => Sys2Proof.Machine.execPeerSignalOperation port pos ctx addr op s
  | .pollingWaiterPoll who => Sys2Proof.Machine.execPollingWaiterPoll who s
  | .droverInstruction die n f => Sys2Proof.Machine.execDroverInstruction die n f s
  | .droverEcallExit die n => Sys2Proof.Machine.execDroverEcallExit die n s
  | .droverFence die n succW => Sys2Proof.Machine.execDroverFence die n succW s
  | .sigwait die n cond => Sys2Proof.Machine.execSigwait die n cond s
  | .statsink die n value => Sys2Proof.Machine.execStatsink die n value s
  | .sinkStore die n off elems => Sys2Proof.Machine.execSinkStore die n off elems s
  | .mirrorStore die n addr sew elems => Sys2Proof.Machine.execMirrorStore die n addr sew elems s
  | .chainPiece die m f => Sys2Proof.Machine.execChainPiece die m f s
  | .chainResendRequest die chainId piece => Sys2Proof.Machine.execChainResendRequest die chainId piece s
  | .chainAbort die chainId failed => Sys2Proof.Machine.execChainAbort die chainId failed s
  | .channelRequest ch r e => Sys2Proof.Machine.execChannelRequest ch r e s
  | .patrolScrub ch block e => Sys2Proof.Machine.execPatrolScrub ch block e s
  | .retrainStart ch => Sys2Proof.Machine.execRetrainStart ch s
  | .retrainComplete ch passed => Sys2Proof.Machine.execRetrainComplete ch passed s
  | .restripeMove side => Sys2Proof.Machine.execRestripeMove side s
  | .mapoutRetry side => Sys2Proof.Machine.execMapoutRetry side s
  | .stackSensorSample stack readings => Sys2Proof.Machine.execStackSensorSample stack readings s
  | .junctionSensorSample die readings => Sys2Proof.Machine.execJunctionSensorSample die readings s
  | .sensorTimeout unit sensor => Sys2Proof.Machine.execSensorTimeout unit sensor s
  | .paceSample power current => Sys2Proof.Machine.execPaceSample power current s
  | .tickCalibration die rates => Sys2Proof.Machine.execTickCalibration die rates s
  | .crystalLoss => Sys2Proof.Machine.execCrystalLoss s
  | .crystalRestore => Sys2Proof.Machine.execCrystalRestore s
  | .gaugeRead die slack => Sys2Proof.Machine.execGaugeRead die slack s
  | .marginPlan die fpointOk lifeDays => Sys2Proof.Machine.execMarginPlan die fpointOk lifeDays s
  | .rotationSlice unit passed code last => Sys2Proof.Machine.execRotationSlice unit passed code last s
  | .probationShadowOp unit passed => Sys2Proof.Machine.execProbationShadowOp unit passed s
  | .bringupStep unit passed code badChannels => Sys2Proof.Machine.execBringupStep unit passed code badChannels s
  | .snapshotRead n => Sys2Proof.Machine.execSnapshotRead n s
  | .ledgerEntryArrival die => Sys2Proof.Machine.execLedgerEntryArrival die s
  | .pageSealTimer => Sys2Proof.Machine.execPageSealTimer s
  | .pageArchive ok => Sys2Proof.Machine.execPageArchive ok s
  | .partnerDetect port => Sys2Proof.Machine.execPartnerDetect port s
  | .trainingComplete port r => Sys2Proof.Machine.execTrainingComplete port r s
  | .linkMgmtFrame port m => Sys2Proof.Machine.execLinkMgmtFrame port m s
  | .passFrame port bytes => Sys2Proof.Machine.execPassFrame port bytes s
  | .verdictWindowExpiry port => Sys2Proof.Machine.execVerdictWindowExpiry port s
  | .failedPortRetrain port => Sys2Proof.Machine.execFailedPortRetrain port s
  | .portProbationComplete port clean => Sys2Proof.Machine.execPortProbationComplete port clean s
  | .heartbeatSend => Sys2Proof.Machine.execHeartbeatSend s
  | .heartbeat m => Sys2Proof.Machine.execHeartbeat m s
  | .peerLossTimer pos => Sys2Proof.Machine.execPeerLossTimer pos s
  | .masterClaim => Sys2Proof.Machine.execMasterClaim s
  | .claim m => Sys2Proof.Machine.execClaim m s
  | .standbyClaim => Sys2Proof.Machine.execStandbyClaim s
  | .handover m successor => Sys2Proof.Machine.execHandover m successor s
  | .barrierArrive m => Sys2Proof.Machine.execBarrierArrive m s
  | .barrierRelease m => Sys2Proof.Machine.execBarrierRelease m s
  | .dirPrepare m entries => Sys2Proof.Machine.execDirPrepare m entries s
  | .dirAck m => Sys2Proof.Machine.execDirAck m s
  | .dirCommit m => Sys2Proof.Machine.execDirCommit m s
  | .dirAbort m => Sys2Proof.Machine.execDirAbort m s
  | .dirPrepareExpiry => Sys2Proof.Machine.execDirPrepareExpiry s
  | .dirStageDiscard => Sys2Proof.Machine.execDirStageDiscard s
  | .ingestFrame die iface fcsOk frame => Sys2Proof.Machine.execIngestFrame die iface fcsOk frame s
  | .neighborSolicitation die iface target source => Sys2Proof.Machine.execNeighborSolicitation die iface target source s
  | .attest nonce => Sys2Proof.Machine.execAttest nonce s
  | .identity => Sys2Proof.Machine.execIdentity s
  | .ledgerRead page => Sys2Proof.Machine.execLedgerRead page s
  | .order session packet => Sys2Proof.Machine.execOrder session packet s
  | .anchorInstall session anchors => Sys2Proof.Machine.execAnchorInstall session anchors s
  | .recoveryImage slot image cryptoBad => Sys2Proof.Machine.execRecoveryImage slot image cryptoBad s
  | .mgmtSessionIdle session => Sys2Proof.Machine.execMgmtSessionIdle session s
  | .ptpSync domain time offset => Sys2Proof.Machine.execPtpSync domain time offset s
  | .moduleStart b => Sys2Proof.Machine.execModuleStart b s
  | .bootFallbackTimeout => Sys2Proof.Machine.execBootFallbackTimeout s
  | .railFault die rail => Sys2Proof.Machine.execRailFault die rail s
  | .enLow => Sys2Proof.Machine.execEnLow s
  | .vinUndervoltageWarning mv => Sys2Proof.Machine.execVinUndervoltageWarning mv s
  | .vinUndervoltageStop mv => Sys2Proof.Machine.execVinUndervoltageStop mv s
  | .vinOvervoltageWarning mv => Sys2Proof.Machine.execVinOvervoltageWarning mv s
  | .vinOvervoltageDisconnect mv => Sys2Proof.Machine.execVinOvervoltageDisconnect mv s
  | .overcurrentStop deciAmps => Sys2Proof.Machine.execOvercurrentStop deciAmps s
  | .thermalTrip unit temp => Sys2Proof.Machine.execThermalTrip unit temp s
  | .moduleInsertion => Sys2Proof.Machine.execModuleInsertion s
  | .paceCap w => Sys2Proof.Machine.execPaceCap w s
  | .wdogDelay w => Sys2Proof.Machine.execWdogDelay w s
  | .ctx0Extent w => Sys2Proof.Machine.execCtx0Extent w s
  | .ctx0Ring w => Sys2Proof.Machine.execCtx0Ring w s
  | .ctx0RingRemove w => Sys2Proof.Machine.execCtx0RingRemove w s
  | .checkLimit w => Sys2Proof.Machine.execCheckLimit w s
  | .segLimit w => Sys2Proof.Machine.execSegLimit w s
  | .combineArea w => Sys2Proof.Machine.execCombineArea w s
  | .factorTable w => Sys2Proof.Machine.execFactorTable w s
  | .overlap w => Sys2Proof.Machine.execOverlap w s
  | .statTable w => Sys2Proof.Machine.execStatTable w s
  | .mapoutPolicy w => Sys2Proof.Machine.execMapoutPolicy w s
  | .portCfg w => Sys2Proof.Machine.execPortCfg w s
  | .ingestCfg w => Sys2Proof.Machine.execIngestCfg w s
  | .groupCfg w => Sys2Proof.Machine.execGroupCfg w s
  | .debugCfg w => Sys2Proof.Machine.execDebugCfg w s
  | .mgmtNet w => Sys2Proof.Machine.execMgmtNet w s
  | .timeOfDay w => Sys2Proof.Machine.execTimeOfDay w s
  | .todCfg w => Sys2Proof.Machine.execTodCfg w s
  | .marginCfg w => Sys2Proof.Machine.execMarginCfg w s
  | .rotateCfg w => Sys2Proof.Machine.execRotateCfg w s
  | .cntSel w n => Sys2Proof.Machine.execCntSel w n s
  | .cntClear w n => Sys2Proof.Machine.execCntClear w n s
  | .snapRing w n => Sys2Proof.Machine.execSnapRing w n s
  | .landingConfirmation die m => Sys2Proof.Machine.execLandingConfirmation die m s
  | .signalAcknowledgement job refused => Sys2Proof.Machine.execSignalAcknowledgement job refused s
  | .latchedFaultClear => Sys2Proof.Machine.execLatchedFaultClear s
  | .droverWaitTimeout die n => Sys2Proof.Machine.execDroverWaitTimeout die n s
  | .routerAdvertisement pfx => Sys2Proof.Machine.execRouterAdvertisement pfx s
  | .dhcpv4Message addr gateway prefixLen => Sys2Proof.Machine.execDhcpv4Message addr gateway prefixLen s
  | .mgmtSessionOpen session cert => Sys2Proof.Machine.execMgmtSessionOpen session cert s
  | .debugUartReceive b framingOk => Sys2Proof.Machine.execDebugUartReceive b framingOk s
  | .testPortClock tms tdi trstN => Sys2Proof.Machine.execTestPortClock tms tdi trstN s

end Sys2Proof.Machine
end

