-- ==== Sys2Proof/Machine/Tick.lean ====
section
/-! DEFINITION. The model's clock: what one local tick does. -/

namespace Sys2Proof.Machine

/-- The selections of counters, as (unit, counter, value) (15 R390). -/
def selections (s : State) : List (Nat × Nat × Nat) :=
  (s.hw.items.filter (fun i => 0xA0 ≤ i.1 % 65536 && i.1 % 65536 < 0xA8)).map
    (fun i => (i.1 / 65536, i.1 % 65536 - 0xA0, i.2))

/-- Counters in mode 3 count a tick in which their occupancy exceeds THRESH (15 R389). -/
def countTick (s : State) : State :=
  ((selections s).filter (fun x => bits x.2.2 0 2 = 3 && !s.hw.stopped.contains (8 * x.1 + x.2.1) &&
    bits x.2.2 32 16 < occupancy s x.1 (bits x.2.2 48 16) (cntFilter x.2.2))).foldl (fun s x => addCounter s x.1 x.2.1 1) s

/-- The sides of which a channel holds a parked request. -/
def parkedSides (s : State) : List Nat :=
  ((s.mem.chans.filter (fun c => !c.2.queue.isEmpty ||
    (c.2.training && s.gz.jobs.any (fun j => j.phase == .parked)))).map (fun c => channelSide c.1)).eraseDups

/-- One local tick passes (00, Units of time; DESIGN CHOICE, log entry 2): counters that count ticks count (15 R388, R389), a staged directory
update is acknowledged once its rounds have closed (06 R179), and self-tests that wait for an idle unit try again (14 R382). -/
def tick (s : State) : State :=
  let s := { s with now := s.now + 1 }
  let s := (parkedSides s).foldl (fun s u => event s u 0xA006 0 1) (countTick s)
  settle (retryTests (tryAck s))

end Sys2Proof.Machine
end

