-- ==== Sys2Proof/Safety.lean ====
section
/-! DEFINITION. What counts as a safe step, and the terms in which claims speak of a packet that its ring accepts. -/

namespace Sys2Proof.Machine

/-- The outcome is a next state. -/
def Goes (o : Host.Outcome State Fault Refusal) : Prop := ∃ t, o = .next t

/-- No command that has ended still waits for its reply. -/
abbrev Quiet (s : State) : Prop := firstEnded s s.gz.jobs = none

/-- No command is in flight. -/
abbrev Idle (s : State) : Prop := s.gz.jobs = []

/-- The state after a command that ends none: the model's index of free values has moved on. -/
def passed (s : State) : State := { s with free := s.free + 1 }

/-- The ring that a packet names meets the packet now and may dispatch it: the ring is open, passes nothing over, no earlier
packet waits or holds it, a reply slot is free, and a packet with FENCE_BEFORE or a kernel packet finds no earlier command of
the ring in flight (02 R43, R46). -/
abbrev ringFree (s : State) (i : Instr) : Prop :=
  let key := ringKey (hdrOf i)
  ringOpen s key = true ∧ (ringOf s key).passOver = none ∧ stalled s key = false ∧ blocked s key i = false

/-- A packet is accepted and starts at once: its ring is free, the pre-parser's checks pass and its units are ready (02 R45, R46,
R48). -/
abbrev Accepts (s : State) (pre : Pre) (i : Instr) : Prop :=
  ringFree s i ∧ preparse s (ringKey (hdrOf i)) pre i = none ∧ notReady s pre = none

/-- The job of a packet that its ring accepts. -/
def jobFor (s : State) (pre : Pre) (i : Instr) : Job :=
  let key := ringKey (hdrOf i)
  newJob s key pre i (ringOf s key).fetch (ringOf s key).fetch

/-- The state in which an accepted packet runs: it is counted, its job has a number and a reserved reply slot, and with
FENCE_BEFORE the earlier writes of its ring are visible (02 R43, R46). -/
def begun (s : State) (i : Instr) : State :=
  let key := ringKey (hdrOf i)
  let id := s.gz.nextJob
  let s := count s (ringCore s key) 0x10 1
  let s := { s with gz := { s.gz with nextJob := id + 1 } }
  let s := modRing s key (fun r => { r with reserved := r.reserved + 1 })
  if (hdrOf i).fenceBefore then fenceUpTo s id (fun r => r == key) else s

/-- The next state when an accepted packet ends at once with e, after its run has left the state t. -/
def replied (s : State) (pre : Pre) (i : Instr) (t : State) (e : End) : State := settle (finish t (jobFor s pre i) e)

/-! ## What a claim says of a next state -/

/-- The addresses, as first byte and length, that the end of a job may write: its reply slot and its DONE_ADDR word (02 R43, R51). -/
def replyWrites (s : State) (j : Job) : List (Nat × Nat) :=
  let r := ringOf s j.ring
  let d := (hdrOf j.cmd).doneAddr.toNat
  (r.replyBase + r.replyTail, 32) :: (if d = 0 then [] else [(d, 8)])

/-- Every byte outside the listed ranges reads in t as in s. -/
def MemSame (s t : State) (ranges : List (Nat × Nat)) : Prop :=
  ∀ x, (∀ r ∈ ranges, ¬(r.1 ≤ x ∧ x < r.1 + r.2)) → byteAt t x = byteAt s x

/-- The ranges do not meet one another. -/
abbrev Apart (l k : List (Nat × Nat)) : Prop := ∀ a ∈ l, ∀ b ∈ k, a.1 + a.2 ≤ b.1 ∨ b.1 + b.2 ≤ a.1

/-- A job that was in flight, or that began, in s has ended in t with e: it is no longer in flight, and when it replies the
reply ring has moved on by one slot, which, while no DONE_ADDR is written after it, holds the reply (02 R43, R50). -/
def Answered (s t : State) (j : Job) (e : End) : Prop :=
  let h := hdrOf j.cmd
  let r := ringOf s j.ring
  jobOf t j.id = none ∧
  (replies h e = true → (ringOf t j.ring).replyTail = (r.replyTail + 32) % replySize r ∧
    (h.doneAddr = 0 → bytesAt t (r.replyBase + r.replyTail) 32 = replyBytes h.seq.toNat j.origin (s.now - j.t0) e))

/-- Nothing in flight but the jobs listed, memory in its canonical form, and no waiter on any word: a state in which an end
writes its reply and nothing else goes on. -/
abbrev Calm (s : State) (js : List Job) : Prop := s.gz.jobs = js ∧ Memory.wf s.mem.cells = true ∧ s.sig.waiters = []

/-- A drover executes for a launch: the launch is in flight, and the drover has not exited and waits on no word (11 R288). -/
abbrev Runs (s : State) (n : Nat) (j : Job) : Prop :=
  drvJob s n = some j ∧ (droverOf s n).finished = false ∧ (droverOf s n).waiting = false

/-- The data-plane units are as before. -/
def SameEngines (s t : State) : Prop :=
  t.mm = s.mm ∧ t.ws = s.ws ∧ t.cf = s.cf ∧ t.dir = s.dir ∧ t.ver = s.ver ∧ t.dma = s.dma ∧ t.chains = s.chains

/-- The ports, the group, the ledger, flash, the module and the snapshot rings are as before. -/
def SameModule (s t : State) : Prop :=
  t.link = s.link ∧ t.grp = s.grp ∧ t.tr = s.tr ∧ t.flash = s.flash ∧ t.mod = s.mod ∧ t.snap = s.snap ∧ t.net = s.net

/-- Items, readiness, dies and the queue are as before. -/
def SameUnits (s t : State) : Prop :=
  t.hw.items = s.hw.items ∧ t.hw.health = s.hw.health ∧ t.hw.dies = s.hw.dies ∧ t.hw.wdog = s.hw.wdog ∧ t.pending = s.pending ∧
  t.now = s.now

/-- Every ring but one and every context but its own are as before. -/
def SameRings (s t : State) (key : Nat) : Prop :=
  (∀ k, k ≠ key → ringOf t k = ringOf s k) ∧ (∀ c, c ≠ key / 256 → ctxOf t c = ctxOf s c)

/-! ## Orders (02 R64-R67) -/

/-- The packets that are orders (02 R64). -/
def isOrder : Instr → Bool
  | .selftestUnit _ _ _ => true
  | .calibrateChannel _ _ => true
  | .ctxCreate _ _ => true
  | .ctxDestroy _ _ => true
  | .cfgWrite _ _ => true
  | .mapOut _ _ => true
  | .remapEpoch _ _ => true
  | .fwLoad _ _ _ => true
  | .grpDirectoryUpdate _ _ => true
  | _ => false

/-- The objects of an order, with its effect on each as kind and value (02 R64): of a directory update the last entry that it
gives for each key. -/
def ordersOf (s : State) (j : Job) : List (OrderObj × Nat × Nat) :=
  match j.cmd with
  | .selftestUnit _ p _ => [(.unit p.unitId, effectOf j.cmd)]
  | .calibrateChannel _ p => [(.channel p.channel, effectOf j.cmd)]
  | .ctxCreate _ p => [(.ctx p.ctx, effectOf j.cmd)]
  | .ctxDestroy _ p => [(.ctx p.ctx, effectOf j.cmd)]
  | .cfgWrite _ p => [(.item p.unitId p.item, 0x0F02, cfgValue p)]
  | .mapOut _ p => [(.channel p.channel, effectOf j.cmd)]
  | .remapEpoch _ _ => [(.device, effectOf j.cmd)]
  | .fwLoad _ p _ => [(.slot p.slot, effectOf j.cmd)]
  | .grpDirectoryUpdate _ p =>
    ((updateEntries s j.unit p).foldl (fun m e => amPut m (keyOf e) e) ([] : AMap DirEntry)).map
      (fun e => (.dirKey (BitVec.ofNat 32 e.1), 0x0A01, leNat (dirEntryBytes e.2)))
  | _ => []

/-- The end of an order that the gate turns away before it joins a window: a configuration write by 02 R415 orders 3 to 5, a
CTX_CREATE by its tables (02 R416), a directory update off the master, or by its entries (06 R178, R182). -/
def orderStop (s : State) (j : Job) : Option End :=
  match j.cmd with
  | .cfgWrite _ p => itemCheck s j.origin p.unitId.toNat p.item.toNat (cfgValue p)
  | .ctxCreate _ p => if (ctxOf s p.ctx.toNat).live then none else tablesStop p j.unit s
  | .grpDirectoryUpdate _ p =>
    if !isMaster s then some (fails NO_PERMISSION (masterField s))
    else match poisonIn s p.entriesAddr.toNat (48 * p.count.toNat) with
      | some ch => some (fails MEMORY_POISONED ch)
      | none => (updateBad s (updateEntries s j.unit p)).map (fun i => fails OUT_OF_RANGE (0x80000000 + 48 * i))
  | _ => none

/-- No engine, Watershed or Confluence holds anything and no chain is open: units of which nothing goes on by itself. -/
abbrev Bare (s : State) : Prop := s.mm = [] ∧ s.ws = [] ∧ s.cf = [] ∧ s.chains = []

/-- One command is in flight, an order of one object whose window holds it, on an open ring. -/
abbrev Waits (s : State) (j : Job) (obj : OrderObj) (os : List Order) : Prop :=
  Calm s [j] ∧ Bare s ∧ j.phase = .inWindow ∧ windowOf s obj = some ⟨obj, os, none⟩ ∧ ringOpen s j.ring = true

/-! ## Ports (12 R319, R326) -/

/-- The state that the identity check and the cable give a trained port whose partner is m: up, or held (12 R319, R326). -/
def settled (s : State) (u : Nat) (m : LinkMgmt) (delay : Nat) : Nat := if identityOk s u m = true ∧ delay ≤ 26 then 2 else 6

/-! ## Configuration items (02 R415) -/

/-- The item, its write and its value of the commands that write configuration items. -/
def writeOf : Instr → Option (Nat × ItemWrite × Nat)
  | .paceCap w => some (iPaceCap, w, w.value.toNat)
  | .wdogDelay w => some (iWdog, w, w.value.toNat)
  | .ctx0Extent w => some (iCtx0Extent, w, w.value.toNat)
  | .ctx0Ring w => some (iCtx0Ring, w, w.value.toNat - b2n (bit w.value.toNat 48) * 2 ^ 48)
  | .ctx0RingRemove w => some (iCtx0Ring, w, w.value.toNat ||| 2 ^ 48)
  | .checkLimit w => some (iCheckLimit, w, w.value.toNat)
  | .segLimit w => some (iSegLimit, w, w.value.toNat)
  | .combineArea w => some (iCombineArea, w, w.value.toNat)
  | .factorTable w => some (iFactorTable, w, w.value.toNat)
  | .overlap w => some (iOverlap, w, w.value.toNat)
  | .statTable w => some (iStatTable, w, w.value.toNat)
  | .mapoutPolicy w => some (iMapoutPolicy, w, w.value.toNat)
  | .portCfg w => some (iPortCfg, w, w.value.toNat)
  | .ingestCfg w => some (iIngestCfg, w, w.value.toNat)
  | .groupCfg w => some (iGroupCfg, w, w.value.toNat)
  | .debugCfg w => some (iDebugCfg, w, w.value.toNat)
  | .mgmtNet w => some (iMgmtNet, w, w.value.toNat)
  | .timeOfDay w => some (iTimeOfDay, w, w.value.toNat)
  | .todCfg w => some (iTodCfg, w, w.value.toNat)
  | .marginCfg w => some (iMarginCfg, w, w.value.toNat)
  | .rotateCfg w => some (iRotateCfg, w, w.value.toNat)
  | .cntSel w n => some (iCntSel + n.val, w, w.value.toNat)
  | .cntClear w n => some (iCntSel + n.val, w, w.value.toNat ||| 4)
  | .snapRing w n => some (iSnapRing + n.val, w, w.value.toNat)
  | _ => none

/-- Items that hold one value for each boundary or context, or a value that runs, and so are not read back as written. -/
def spread (it : Nat) : Bool := [iWdog, iOverlap, iFactorTable, iStatTable, iTimeOfDay].contains it

/-- An item has taken a value v: what its own rule says a write sets (01 R26; 02 R35; 07 R209, R214; 11 R296; 12 R323;
13 R351, R352, R362; 15 R390, R391), and the item reads as written, but for a counter's CLEAR bit. -/
def ItemTook (s t : State) (u it v : Nat) : Prop :=
  let a := bits v 0 48
  let c := bits v 56 8
  let k := 8 * u + (it - iCntSel)
  let counter := iCntSel ≤ it ∧ it < iCntSel + 8
  (spread it = false → item t u it = if iCntSel ≤ it ∧ it < iCntSel + 8 then v - v % 8 + v % 4 else v) ∧
  (it = iWdog → wdogDelayOf t u (bits v 24 8) = bits v 0 24) ∧
  (it = iOverlap → (ctxOf t (bits v 8 8)).overlap = bit v 0) ∧
  (it = iFactorTable → factorTable t (uDie u) c = a) ∧
  (it = iStatTable → (ctxOf t c).statTable = a) ∧
  (it = iCtx0Extent → (amFind (ctxOf t 0).extents c =
    (let e := readExtent (readBytes s (kernelCore 12) a 32); if usedExtent e then some e else none))) ∧
  (it = iCtx0Ring → ringOf t c =
    if bit v 48 then closeRing (ringOf s c) else readRing (readBytes s (kernelCore 12) a 32)) ∧
  (it = iIngestCfg → amFind t.link.ingest (uDie u) = if a = 0 then none else some (readIngest s (itemCore u) a)) ∧
  (it = iTimeOfDay → t.tr.timeSet = true ∧ t.tr.timePtp = false ∧ timeNow t = v % 2 ^ 64) ∧
  (it = iMgmtNet → t.flash.mgmtNet = v ∧ t.flash.mgmtTable = if a = 0 then [] else readBytes s (kernelCore 12) a 64) ∧
  (it = iDebugCfg → bit v 0 = true → t.tr.debugEver = true) ∧
  (it = iPortCfg → item s u it ≠ v → (portOf t u).state = if bits v 0 2 = 2 then 7 else 0) ∧
  (counter → amGet 0 t.hw.counters k = (if bit v 2 then 0 else amGet 0 s.hw.counters k) ∧
    amGet 0 t.hw.selGen u = (amGet 0 s.hw.selGen u + 1) % 256 ∧ k ∉ t.hw.stopped) ∧
  (iSnapRing ≤ it → it < 0x0100 → amFind t.snap (it - iSnapRing) = if a = 0 then none else some (readSnap s (kernelCore 12) c a))

/-- Every other item, delay, table address, counter, snapshot ring, ring and ingest table is as before, and memory too: the frame of
an item whose write retrains no port. -/
def ItemsElse (s t : State) (u it v : Nat) : Prop :=
  (∀ u' it', it' < 65536 → ¬(u' = u ∧ it' = it) → item t u' it' = item s u' it') ∧
  (∀ k, ¬(it = iWdog ∧ k = 256 * u + bits v 24 8) → amFind t.hw.wdog k = amFind s.hw.wdog k) ∧
  (∀ k, ¬(it = iFactorTable ∧ k = 256 * uDie u + bits v 56 8) → amFind t.hw.factor k = amFind s.hw.factor k) ∧
  (∀ k, ¬(iCntSel ≤ it ∧ it < iCntSel + 8 ∧ k = 8 * u + (it - iCntSel)) → amFind t.hw.counters k = amFind s.hw.counters k) ∧
  (∀ n, n < 64 → it ≠ iSnapRing + n → amFind t.snap n = amFind s.snap n) ∧
  (∀ key, ¬(it = iCtx0Ring ∧ key = bits v 56 8) → ringOf t key = ringOf s key) ∧
  (it ≠ iIngestCfg → t.link.ingest = s.link.ingest) ∧ t.mem.cells = s.mem.cells ∧
  (∀ c, (ctxOf t c).cls = (ctxOf s c).cls ∧ (ctxOf t c).live = (ctxOf s c).live ∧
    (¬(it = iCtx0Extent ∧ c = 0) → (ctxOf t c).extents = (ctxOf s c).extents) ∧
    (¬(it = iOverlap ∧ c = bits v 8 8) → (ctxOf t c).overlap = (ctxOf s c).overlap) ∧
    (¬(it = iStatTable ∧ c = bits v 56 8) → (ctxOf t c).statTable = (ctxOf s c).statTable))

end Sys2Proof.Machine
end

