-- ==== Sys2Proof/Certificates/Slice0/Obligations.lean ====
section
/-! DEFINITION. The statements for the provers. -/

open Sys2Proof Sys2Proof.Machine

/-! ## The queue, the tick and reset -/

/-- The command at the front of the queue runs on the state with the queue's rest. -/
def Obligations.FrontCommandRuns : Prop :=
  ∀ (c : Instr) (rest : List Instr) (s : State), s.pending = c :: rest → step s = exec c { s with pending := rest }

/-- On an empty queue a step passes one local tick of the model's clock (DESIGN CHOICE, log entry 2): the step goes, the clock reads one more,
and the queue stays empty. -/
def Obligations.EmptyQueueTicks : Prop :=
  ∀ s : State, s.pending = [] → ∃ t, step s = .next t ∧ t.now = s.now + 1 ∧ t.pending = []

/-- What reset leaves: no command waits or is in flight, no context lives, no ring exists, no unit is ready, memory
lists nothing and has its canonical form, and the items CHECK_LIMIT (05 R137) and DEBUG_CFG (13 R351) hold their reset values.
Where the rules leave a point open it follows the model's readings: DESIGN CHOICE, log entry 1; DEDUCED, log entry 3. -/
def Obligations.ResetLeaves : Prop :=
  State.reset.pending = [] ∧ State.reset.gz.jobs = [] ∧ State.reset.mem.cells = [] ∧
  (∀ c, (ctxOf State.reset c).live = false) ∧
  (∀ u, unitReady State.reset u = false) ∧
  (∀ d, bits (item State.reset (uid 0 d 0) 0x10) 0 16 = 32 ∧ bits (item State.reset (uid 0 d 0) 0x10) 16 8 = 10) ∧
  item State.reset mdBlock 0x100 = 0 ∧
  (∀ k, ringExists State.reset k = false) ∧ Memory.wf State.reset.mem.cells = true

/-- Every step keeps memory's canonical form, from every state that has it. -/
def Obligations.StepKeepsMemoryCanonical : Prop :=
  ∀ s t : State, Memory.wf s.mem.cells = true → step s = .next t → Memory.wf t.mem.cells = true

/-! ## What a ring does with a packet (02 R45-R51) -/

/-- A packet that fails a check of the pre-parser is not executed: a SIG_SET or SIG_ADD of any operands that is refused writes
its reply, whatever NO_REPLY holds, and its DONE_VALUE where that may be written, and changes no other byte of memory.
Where the rules leave a point open it follows the model's readings: DESIGN CHOICE, log entry 5; DEDUCED, log entry 16. -/
def Obligations.RejectedPacketStoresNothingElse : Prop :=
  ∀ (h : Hdr) (p : PSig) (add : Bool) (s t : State) (e : End),
    let i : Instr := if add then .sigAdd h p else .sigSet h p
    let key := ringKey h
    let r := ringOf s key
    let a := r.replyBase + r.replyTail
    Idle s → Memory.wf s.mem.cells = true → s.sig.waiters = [] → ringOpen s key = true → r.passOver = none → stalled s key = false →
    preparse s key (preSig h p s) i = some e →
    exec i s = .next t →
    (∀ x, ¬(a ≤ x ∧ x < a + 32) → ¬(h.doneAddr.toNat ≤ x ∧ x < h.doneAddr.toNat + 8) → byteAt t x = byteAt s x) ∧
    (h.doneAddr = 0 → bytesAt t a 32 = replyBytes h.seq.toNat (ringOrigin s (key / 256) (key % 256)) 0 e) ∧
    (ringOf t key).replyTail = (r.replyTail + 32) % replySize r

/-- 02 R48: a command to a unit that is not ready ends NOT_READY at once; with WAIT_READY it waits for the unit instead; if its
TIMEOUT expires first it ends NOT_READY; DETAIL holds the unit ID. -/
def Obligations.NotReadyEndsOrWaits : Prop :=
  (∀ (pre : Pre) (run : Job → State → RunRes) (j : Job) (s : State) (u : Nat), notReady s pre = some u →
    start pre run j s =
      if (hdrOf j.cmd).waitReady then park s j .waitReady else finish s j (fails NOT_READY u)) ∧
  (∀ (s : State) (j : Job) (u : Nat), jobOf s j.id = some j → j.phase = .waitReady → notReady s (preOf s j.cmd) = some u →
    exec (.commandTimeout j.id) s = .next (goOn s.gz.nextJob (endJob s j.id (fails NOT_READY u))))

/-- NOP replies DONE (02 R53).
SKIP_IF compares once: when the comparison holds the ring passes over the next SKIP packets, and SKIP_IF stays in flight until
it has; otherwise it replies DONE with DETAIL 0 (02 R60).
LOOP_BEGIN reads the word once and opens a loop of min(word, MAX_TRIP) trips, or passes its body over when that is 0; it
replies DONE with the value read, saturated. A fifth open loop ends BAD_STATE (02 R59).
LOOP_END goes back to the body's first packet while trips are left, writing no reply; its last one closes the loop and replies
DONE, or DONE_CLAMPED with the trip count when the value read exceeded MAX_TRIP; with no open loop it ends BAD_STATE (02 R59).
Where the rules leave a point open it follows the model's readings: DESIGN CHOICE, log entry 5. -/
def Obligations.SkipsAndLoopsControlTheRing : Prop :=
  ((∀ (h : Hdr) (s : State), let i : Instr := .nop h
        Accepts s (preCore h s) i → exec i s = .next (replied s (preCore h s) i (begun s i) (done 0))) ∧
    (∀ (h : Hdr) (p : PSkipIf) (s : State), let i : Instr := .skipIf h p
        let pre := preSkipIf h p s
        let a := p.addr.toNat
        let j := jobFor s pre i
        Accepts s pre i → poisonIn s (a / 32 * 32) 32 = none → training s a = false →
        (condHolds p.cond.toNat (word s a) p.value.toNat = true →
          exec i s = .next (settle (park (modRing (begun s i) (ringKey h) (fun r => { r with passOver := some (.skip p.skip.toNat 0 j.id) }))
            j .passing))) ∧
        (condHolds p.cond.toNat (word s a) p.value.toNat = false →
          exec i s = .next (replied s pre i (begun s i) (done 0))))) ∧
  ((∀ (h : Hdr) (p : PLoopBegin) (s : State), let i : Instr := .loopBegin h p
        let pre := preLoopBegin h p s
        let a := p.countAddr.toNat
        let v := word s a
        let n := min v p.maxTrip.toNat
        let j := jobFor s pre i
        Accepts s pre i → poisonIn s (a / 32 * 32) 32 = none → training s a = false →
        (4 ≤ (ringOf s (ringKey h)).loops.length → exec i s = .next (replied s pre i (begun s i) (fails BAD_STATE 0))) ∧
        ((ringOf s (ringKey h)).loops.length < 4 → n = 0 →
          exec i s = .next (replied s pre i (modRing (begun s i) (ringKey h) (fun r => { r with passOver := some (.zeroTrip 0) }))
            (done (min v 0xFFFFFFFF)))) ∧
        ((ringOf s (ringKey h)).loops.length < 4 → n ≠ 0 →
          exec i s = .next (replied s pre i
            (modRing (begun s i) (ringKey h) (fun r => { r with loops := ⟨j.off, j.next, 0, n, decide (p.maxTrip.toNat < v)⟩ :: r.loops }))
            (done (min v 0xFFFFFFFF))))) ∧
    (∀ (h : Hdr) (s : State), let i : Instr := .loopEnd h
        let pre := preCore h s
        let r := ringOf s (ringKey h)
        Accepts s pre i →
        (r.loops = [] → exec i s = .next (replied s pre i (begun s i) (fails BAD_STATE 0))) ∧
        (∀ l ls, r.loops = l :: ls → l.trip + 1 < l.trips →
          exec i s = .next (replied s pre i
            (modRing (begun s i) (ringKey h) (fun r => { r with loops := { l with trip := l.trip + 1 } :: ls, fetch := l.bodyOff }))
            { done 0 with silent := true })) ∧
        (∀ l ls, r.loops = l :: ls → ¬(l.trip + 1 < l.trips) →
          exec i s = .next (replied s pre i (modRing (begun s i) (ringKey h) (fun r => { r with loops := ls }))
            (if l.clamped then { status := DONE_CLAMPED, detail := l.trips } else done 0)))))

/-! ## Signal words, waits and fences (10) -/

/-- SIG_SET leaves VALUE in the word and SIG_ADD old + VALUE modulo 2^64, as one store at the word's channel, and reply DONE with
the low 32 bits of the new value; on a poisoned block both end MEMORY_POISONED and store nothing, and at a channel that
retrains they park (10 R275, R277).
Where the rules leave a point open it follows the model's readings: DEDUCED, log entry 10. -/
def Obligations.SignalPacketsWriteTheWord : Prop :=
  ∀ (h : Hdr) (p : PSig) (s : State),
    let a := p.addr.toNat
    let pre := preSig h p s
    let done' (i : Instr) (v : Nat) : State :=
      replied s pre i (storeNow (begun s i) (whoOf (jobFor s pre i)) a (leBytes 8 v)) (done (v % 2 ^ 32))
    (Accepts s pre (.sigSet h p) → training s a = false → poisonIn s (a / 32 * 32) 32 = none →
      exec (.sigSet h p) s = .next (done' (.sigSet h p) p.value.toNat)) ∧
    (Accepts s pre (.sigAdd h p) → training s a = false → poisonIn s (a / 32 * 32) 32 = none →
      exec (.sigAdd h p) s = .next (done' (.sigAdd h p) ((word s a + p.value.toNat) % 2 ^ 64))) ∧
    (∀ add : Bool, let i : Instr := if add then .sigAdd h p else .sigSet h p;
      (∀ ch, Accepts s pre i → poisonIn s (a / 32 * 32) 32 = some ch →
        exec i s = .next (replied s pre i (begun s i) (fails MEMORY_POISONED ch))) ∧
      (Accepts s pre i → training s a = true → poisonIn s (a / 32 * 32) 32 = none →
        exec i s = .next (passed (park (begun s i) (jobFor s pre i) .parked))))

/-- The frame of SIG_SET and SIG_ADD: with nothing else in flight and no waiter, every byte of memory outside the word, the reply
slot and the DONE_ADDR word reads as before; every other ring and context, every item, every unit's health, and the engines,
Watersheds, Confluences, versions, chains, ports, group, ledger and module are as before. -/
def Obligations.SignalPacketsFrame : Prop :=
  ∀ (h : Hdr) (p : PSig) (add : Bool) (s t : State),
    let i : Instr := if add then .sigAdd h p else .sigSet h p
    let key := ringKey h
    let r := ringOf s key
    let a := r.replyBase + r.replyTail
    Idle s → Memory.wf s.mem.cells = true → s.sig.waiters = [] → Accepts s (preSig h p s) i → training s p.addr.toNat = false →
    exec i s = .next t →
    (∀ x, ¬(p.addr.toNat ≤ x ∧ x < p.addr.toNat + 8) → ¬(a ≤ x ∧ x < a + 32) →
      ¬(h.doneAddr.toNat ≤ x ∧ x < h.doneAddr.toNat + 8) → byteAt t x = byteAt s x) ∧
    (∀ k, k ≠ key → ringOf t k = ringOf s k) ∧
    (∀ c, c ≠ key / 256 → ctxOf t c = ctxOf s c) ∧ (∀ u it, item t u it = item s u it) ∧ (∀ u, health t u = health s u) ∧
    t.mm = s.mm ∧ t.ws = s.ws ∧ t.cf = s.cf ∧ t.ver = s.ver ∧ t.dma = s.dma ∧ t.chains = s.chains ∧ t.link = s.link ∧
    t.grp = s.grp ∧ t.tr = s.tr ∧ t.dir = s.dir ∧ t.mod = s.mod ∧ t.flash = s.flash ∧ t.pending = s.pending

/-- An agent's signal operation on a word that its context reaches with WRITE leaves the stored value or the sum; one that fails
its check is not made (10 R275, R276).
A link peer's signal operation is checked against the context of the same number: one that passes is stored, one that fails
is not made, is counted in the pass die's signal-error counter, and in both cases the sender is told (10 R276).
Where the rules leave a point open it follows the model's readings: DEDUCED, log entry 10. -/
def Obligations.SignalsOfOtherAgents : Prop :=
  (∀ (w : SigBy) (addr : Word64) (op : SigOp) (s : State),
      let a := addr.toNat
      let c := w.ctx.toNat
      let v := match op with | .store v => v.toNat | .add v => (word s a + v.toNat) % 2 ^ 64
      Idle s → s.sig.waiters = [] →
      (signalOk s a = true → access s c w.unit.toNat a 8 pWrite = none → poisonIn s (a / 32 * 32) 32 = none →
        exec (.signalOperation w addr op) s =
          .next (passed (storeNow s ⟨w.unit.toNat, w.origin.toNat, c, s.gz.nextJob, 256 * c⟩ a (leBytes 8 v)))) ∧
      (access s c w.unit.toNat a 8 pWrite ≠ none → exec (.signalOperation w addr op) s = .next (passed s))) ∧
  (∀ (port : Word32) (pos : BitVec 4) (ctx : Byte) (addr : Word64) (op : SigOp) (s : State),
      let a := addr.toNat
      let c := ctx.toNat
      let d := uid 0 (uDie port.toNat) 0
      let v := match op with | .store v => v.toNat | .add v => (word s a + v.toNat) % 2 ^ 64
      let ok := (ctxOf s c).live && signalOk s a && (access s c port.toNat a 8 pWrite).isNone
      Idle s → s.sig.waiters = [] → poisonIn s (a / 32 * 32) 32 = none →
      (ok = true → exec (.peerSignalOperation port pos ctx addr op) s =
        .next (settle (send (storeNow s ⟨port.toNat, 0xA000 + pos.toNat, c, s.gz.nextJob, 256 * c⟩ a (leBytes 8 v))
          (.sigAck port.toNat pos.toNat false)))) ∧
      (ok = false → exec (.peerSignalOperation port pos ctx addr op) s =
        .next (settle (send (event (count s d 0x10 1) d 0x0003 0 1) (.sigAck port.toNat pos.toNat true)))))

/-- SIG_WAIT reads and tests the word in one operation (10 R278): when the condition holds it replies DONE at once with the low 32
bits of the value; otherwise it stays in flight with a waiter attached, or polling when its die's table is full (10 R281). A
waiter that polls ends when the condition holds at a poll. -/
def Obligations.WaitsTestTheWord : Prop :=
  (∀ (h : Hdr) (p : PSigWait) (s : State), let i : Instr := .sigWait h p
    let pre := preSigWait h p s
    let a := p.addr.toNat
    let j := jobFor s pre i
    Accepts s pre i → poisonIn s (a / 32 * 32) 32 = none → training s a = false →
    (condHolds p.cond.toNat (word s a) p.value.toNat = true →
      exec i s = .next (replied s pre i (begun s i) (done (word s a % 2 ^ 32)))) ∧
    (condHolds p.cond.toNat (word s a) p.value.toNat = false →
      Idle s → ∃ poll t, exec i s = .next t ∧ (jobOf t j.id).map (·.phase) = some (.waitSignal poll) ∧
        ⟨.job j.id, a, p.value.toNat, p.cond.toNat, poll, j.unit, j.ring⟩ ∈ t.sig.waiters)) ∧
  (∀ (who : PollWho) (s : State) (w : Waiter),
    s.sig.waiters.find? (fun w => w.polling && w.who == pollId who) = some w → poisonIn s (w.addr / 32 * 32) 32 = none →
    exec (.pollingWaiterPoll who) s =
      .next (settle (if condHolds w.cond (word s w.addr) w.value then meetWaiter s w (word s w.addr) else s)))

/-- The fences (10 R284): a fence that covers no command in flight replies DONE with DETAIL 0, and the earlier writes of its ring,
or of its context for SCOPE 1, are then visible; one that covers commands in flight waits for them. An acknowledgement of a
signal operation to another device counts down what a FENCE_ALL waits for.
Where the rules leave a point open it follows the model's readings: DEDUCED, log entry 10. -/
def Obligations.FencesWaitForWhatTheyCover : Prop :=
  (∀ (h : Hdr) (p : PFence) (s : State) (all : Bool),
    let i : Instr := if all then .fenceAll h p else .fenceWrites h p
    let pre := preFence h p s
    let j := jobFor s pre i
    let ks := s.gz.jobs.filter (fun k => if p.scope = 0 then k.ring == j.ring else k.ring / 256 == j.ring / 256)
    Accepts s pre i →
    (ks = [] → exec i s = .next (replied s pre i (fenceDone (begun s i) j) (done 0))) ∧
    (ks ≠ [] → exec i s = .next (settle (park (begun s i) j (.fence all (ks.map (·.id))))))) ∧
  (∀ (job : Nat) (refused : Bool) (s : State) (j : Job), s.gz.jobs = [j] → j.id = job → j.phase = .waitLand →
    exec (.signalAcknowledgement job refused) s =
      .next (passed { s with gz := { s.gz with jobs := [{ j with unacked := j.unacked - 1 }] } }))

/-! ## Control blocks (02 R38-R43) -/

/-- CMD_TAIL is accepted exactly when TAIL is a multiple of 16, below the ring size, and advances by no more than the free space
(02 R40); a refused write, or one from an agent that may not write the block, only counts in BAD_DB. RESTART is accepted while
the ring is idle or stopped, sets both positions, clears BAD_DB, closes the loops and leaves the ring idle (02 R42).
REPLY_HEAD is accepted when it is a multiple of 32, below the reply ring's size, and does not pass REPLY_TAIL (02 R43). The
control block's words: CMD_TAIL and REPLY_HEAD act as their own writes do; a write of CMD_HEAD or RING_STATE only counts in BAD_DB,
whichever agent makes it (02 R38, R39). -/
def Obligations.ControlBlockWrites : Prop :=
  (∀ (a : Agent) (ctx ring : Byte) (tail : BitVec 24) (s : State),
      let key := 256 * ctx.toNat + ring.toNat
      let r := ringOf s key
      let t := tail.toNat
      let bad : State := passed (modRing s key (fun r => { r with badDb := min 63 (r.badDb + 1) }))
      Quiet s → ringExists s key = true → r.state ≠ .closed →
      (mayWrite r ctx.toNat a = true → tailOk r t = true →
        exec (.cmdTail a ctx ring tail) s = .next (passed (modRing s key (fun r =>
          { r with tail := t, state := if r.state == .idle && t != r.fetch then .running else r.state })))) ∧
      (mayWrite r ctx.toNat a = false ∨ tailOk r t = false → exec (.cmdTail a ctx ring tail) s = .next bad) ∧
      (mayWrite r ctx.toNat a = true → (ringIdle s key = true ∨ r.state = .stopped) → t % 16 = 0 → t < ringSize r →
        exec (.ringRestart a ctx ring tail) s = .next (passed (modRing s key (fun r =>
          { r with tail := t, fetch := t, badDb := 0, state := .idle, loops := [], passOver := none })))) ∧
      (mayWrite r ctx.toNat a = false ∨ (ringIdle s key = false ∧ r.state ≠ .stopped) ∨ t % 16 ≠ 0 ∨ ringSize r ≤ t →
        exec (.ringRestart a ctx ring tail) s = .next bad)) ∧
  (∀ (a : Agent) (ctx ring : Byte) (s : State),
      let key := 256 * ctx.toNat + ring.toNat
      let r := ringOf s key
      let n := replySize r
      let bad : State := passed (modRing s key (fun r => { r with badDb := min 63 (r.badDb + 1) }))
      Quiet s → ringExists s key = true → r.state ≠ .closed →
      (∀ head : BitVec 24, mayWrite r ctx.toNat a = true → head.toNat % 32 = 0 → head.toNat < n →
        (head.toNat + n - r.replyHead) % n ≤ (r.replyTail + n - r.replyHead) % n →
        exec (.replyHead a ctx ring head) s = .next (passed (modRing s key (fun r => { r with replyHead := head.toNat })))) ∧
      (∀ head : BitVec 24, head.toNat % 32 ≠ 0 ∨ n ≤ head.toNat → exec (.replyHead a ctx ring head) s = .next bad) ∧
      (∀ v : Word32, exec (.controlBlockWrite a ctx ring 1 v) s = .next bad ∧ exec (.controlBlockWrite a ctx ring 3 v) s = .next bad) ∧
      (∀ v : Word32, v.toNat < 2 ^ 31 → exec (.controlBlockWrite a ctx ring 0 v) s = exec (.cmdTail a ctx ring (v.setWidth 24)) s) ∧
      (∀ v : Word32, 2 ^ 31 ≤ v.toNat → exec (.controlBlockWrite a ctx ring 0 v) s = exec (.ringRestart a ctx ring (v.setWidth 24)) s) ∧
      (∀ v : Word32, exec (.controlBlockWrite a ctx ring 2 v) s = exec (.replyHead a ctx ring (v.setWidth 24)) s))


/-! ## The frame of every packet that ends at once -/

/-- The frame of a reply: when a packet ends at once after its run has left t, with no other job in flight, no waiter, and an
end that charges no points, nothing changes but its own ring and its own context's check record, the reply slot, the DONE_ADDR
word and what a store may always touch (poison, undefined regions, monitors' entries, broken reservations). With `begun`, which
only counts the packet, numbers the job and reserves the reply slot, it is the frame of every statement below that concludes a
next state `replied`.
Where the rules leave a point open it follows the model's readings: DEDUCED, log entry 10. -/
def Obligations.ReplyFrame : Prop :=
  ∀ (s : State) (pre : Pre) (i : Instr) (t : State) (e : End),
    let j := jobFor s pre i
    let u := replied s pre i t e
    Calm t [] → endPoints e = 0 →
    MemSame t u (replyWrites t j) ∧ SameEngines t u ∧ SameModule t u ∧ SameUnits t u ∧ SameRings t u (ringKey (hdrOf i)) ∧
    u.hw = t.hw ∧ u.gz.jobs = [] ∧ u.gz.windows = t.gz.windows ∧ u.sig.waiters = [] ∧
    (begun s i).mem.cells = s.mem.cells ∧ SameEngines s (begun s i) ∧ SameModule s (begun s i) ∧ SameUnits s (begun s i) ∧
    SameRings s (begun s i) (ringKey (hdrOf i)) ∧ (begun s i).gz.jobs = s.gz.jobs ∧ (begun s i).gz.windows = s.gz.windows ∧
    (begun s i).sig = s.sig ∧ (begun s i).drv = s.drv

/-- What an answered packet leaves in its ring and its context (02 R43, R50, R51; 05 R145): unless it is silent or DONE under
NO_REPLY, REPLY_TAIL moves on by 32 and the slot holds the 32 bytes of the reply; the slot's reservation is given up; the
context's check record takes the end's counts. -/
def Obligations.RepliesAndCheckRecords : Prop :=
  ∀ (s : State) (pre : Pre) (i : Instr) (t : State) (e : End),
    let j := jobFor s pre i
    let u := replied s pre i t e
    let r := ringOf t j.ring
    let c := j.ring / 256
    Calm t [] → endPoints e = 0 → t.now = s.now →
    (replies (hdrOf i) e = true → (ringOf u j.ring).replyTail = (r.replyTail + 32) % replySize r) ∧
    (replies (hdrOf i) e = true → (hdrOf i).doneAddr = 0 →
      bytesAt u (r.replyBase + r.replyTail) 32 = replyBytes (hdrOf i).seq.toNat j.origin 0 e) ∧
    (replies (hdrOf i) e = false → (ringOf u j.ring).replyTail = r.replyTail) ∧
    (ringOf u j.ring).reserved = r.reserved - 1 ∧
    (ctxOf u c).chk = recordEnd (hdrOf i) e (ctxOf t c).chk

/-! ## Queries (14 R371, R386) -/

/-- QUERY_READY writes the readiness map and QUERY_STATUS one 256-byte record, when the destination is neither behind a retrain
nor would cover a poisoned block in part. The map is its mask, the number of selected dies, 24 zero bytes, and one 128-byte block
for each selected die in ascending order, which begins with the die's number, state, cores and generation (14 R371, R372).
Where the rules leave a point open it follows the model's readings: DEDUCED, log entry 49. -/
def Obligations.QueriesWriteTheirRecords : Prop :=
  (∀ (h : Hdr) (p : PQueryReady) (s : State), let i : Instr := .queryReady h p
    let pre := preQueryReady h p s
    let b := begun s i
    let m := readinessMap b p.dieMask.toNat
    Accepts s pre i → rangesStop b [] [(p.destAddr.toNat, m.length)] = none →
    exec i s = .next (replied s pre i (storeLazy b (whoOf (jobFor s pre i)) p.destAddr.toNat m) (done 0))) ∧
  (∀ (h : Hdr) (p : PQueryStatus) (s : State), let i : Instr := .queryStatus h p
    let pre := preQueryStatus h p s
    let b := begun s i
    let c := ringKey h / 256
    let r := match p.select.toNat with
      | 0 => identityRecord b
      | 1 => statusRecord b p.unitId.toNat c
      | _ => checkRecord b c
    let t := storeLazy b (whoOf (jobFor s pre i)) p.destAddr.toNat r
    Accepts s pre i → rangesStop b [] [(p.destAddr.toNat, r.length)] = none →
    (¬(p.select = 1 ∧ uKind p.unitId.toNat = 8) → exec i s = .next (replied s pre i t (done 0))) ∧
    (p.select = 1 → uKind p.unitId.toNat = 8 →
      exec i s = .next (replied s pre i (modCtx t c (fun x => { x with mbHwmRead := mbInFlight t c })) (done 0)))) ∧
  (∀ (s : State) (m : Nat),
    (readinessMap s m).length = 32 + 128 * (maskDies m).length ∧
    leNat (sub (readinessMap s m) 0 4) = m % 2 ^ 32 ∧ leNat (sub (readinessMap s m) 4 4) = (maskDies m).length ∧
    (∀ n d, (maskDies m)[n]? = some d →
      sub (readinessMap s m) (32 + 128 * n) 128 = dieBlock s d ∧ leNat (sub (dieBlock s d) 0 1) = d ∧
      leNat (sub (dieBlock s d) 4 4) = (dieOf s d).generation % 2 ^ 32))

/-! ## Matrix engines (04) -/

/-- MM_PARTITION sets the shape of an idle engine for the context that holds its primary grant, empties its partitions, and is
ledgered; another context ends NO_PERMISSION and a busy engine BAD_STATE (02 R55, 04 R98). -/
def Obligations.PartitionSetsTheShape : Prop :=
  ∀ (h : Hdr) (p : PMmPartition) (s : State), let i : Instr := .mmPartition h p
    let pre := prePartition p
    let b := begun s i
    let u := p.engine.toNat
    let c := ringKey h / 256
    Accepts s pre i →
    (primaryHolder s u = c → engineIdle s u = true →
      exec i s = .next (replied s pre i
        (ledger (uDie u) (ringOrigin s c (ringKey h % 256)) 1 u 0 c (shapeOf s u) p.shape.toNat 0
          { b with mm := amPut s.mm u { shape := p.shape.toNat, parts := [] } }) (done 0))) ∧
    (primaryHolder s u ≠ c → exec i s = .next (replied s pre i b (fails NO_PERMISSION 0x20))) ∧
    (primaryHolder s u = c → engineIdle s u = false → exec i s = .next (replied s pre i b (fails BAD_STATE 0x24)))

/-- MM_PASS with ACC 0 on a free partition opens a result in the next set and executes; its command stays in flight (04 R107). At
its completion token the result takes the exact sums of the pass over the operands as memory holds them then, the set stays, and
the pass ends DONE with verdict CLEAN and its checks (04 R114, R116). No byte of memory changes but the half that the new
result makes undefined, the reply and the DONE_ADDR word.
Where the rules leave a point open it follows the model's readings: DESIGN CHOICE, log entry 7; DEDUCED, log entry 13; DEDUCED, log entry 20; DEDUCED, log entry 25. -/
def Obligations.PassesOpenAndFillResults : Prop :=
  (∀ (h : Hdr) (p : PMmPass) (f : Faults) (s : State), let i : Instr := .mmPass h p f
    let pre := preMmPass h p s
    let u := p.engine.toNat
    let pi := p.part.toNat
    let c := ringKey h / 256
    let pt := partOf s u pi
    let j := jobFor s pre i
    let d := shapeDims (shapeOf s u)
    Idle s → Accepts s pre i → p.acc = 0 → pt.exec = none → pt.queue = [] → pt.x = none → pt.y = none →
    ∃ t, exec i s = .next t ∧ (partOf t u pi).exec = some (j.id, pt.nextY) ∧ (partOf t u pi).queue = [] ∧
      setOf (partOf t u pi) pt.nextY = some (emptyRes c pt.opened p) ∧ setOf (partOf t u pi) (!pt.nextY) = none ∧
      (partOf t u pi).nextY = !pt.nextY ∧ t.gz.jobs = [{ j with phase := .inUnit, since := s.now }] ∧
      MemSame s t [(0x61000000000 + uDie u * 0x4000000 + halfOff (uInst u) d.1 pi pt.nextY,
        halfBytes (emptyRes c pt.opened p) d.2.1 d.2.2)]) ∧
  (∀ (engine : Word32) (part : Byte) (s : State) (j : Job) (h : Hdr) (p : PMmPass) (y : Bool) (r : Res),
    let u := engine.toNat
    let pi := part.toNat
    let sh := shapeOf s u
    Calm s [j] → j.cmd = .mmPass h p {} → j.phase = .inUnit → (partOf s u pi).exec = some (j.id, y) → (partOf s u pi).queue = [] →
    setOf (partOf s u pi) y = some r → passPoison s p sh = none → p.statSlot = 0xFFFF →
    ∃ t, exec (.completionToken engine part {}) s = .next t ∧ (partOf t u pi).exec = none ∧
      setOf (partOf t u pi) y = some (passAdd s u p sh r) ∧ setOf (partOf t u pi) (!y) = setOf (partOf s u pi) (!y) ∧
      Answered s t j (doneChecked 1 (passChecks p sh) 0x78) ∧ MemSame s t (replyWrites s j))

/-- MM_DRAIN in MODE 0 of a checked result that no error strikes writes its rows in FMT_OUT at DEST_ADDR, one for each
DEST_STRIDE, frees the set, and ends DONE with verdict CLEAN and the checks of one evaluation (04 R112-R116; 05 R122). No other
byte of memory changes but the reply slot and the DONE_ADDR word.
Where the rules leave a point open it follows the model's readings: DESIGN CHOICE, log entry 7; DEDUCED, log entry 9; DEDUCED, log entry 20. -/
def Obligations.DrainsWriteTheRows : Prop :=
  ∀ (h : Hdr) (p : PMmDrain) (s : State) (r : Res) (cf : FCode), let i : Instr := .mmDrain h p {}
    let pre := preMmDrain h p s
    let u := p.engine.toNat
    let pi := p.part.toNat
    let c := ringKey h / 256
    let pt := partOf s u pi
    let j := jobFor s pre i
    let d := shapeDims (shapeOf s u)
    let n := if r.dataflow = 1 then r.t else d.2.1
    let rows := (resRows s.free r []).map (convRow cf)
    let a := p.destAddr.toNat
    Calm s [] → Accepts s pre i → pt.exec = none → pt.queue = [] → pt.x = some r → pt.y = none →
    r.ctx = c → r.drain = none → r.bad = none → p.mode = 0 → p.stats = 0 → fmtOf p.fmtOut.toNat = some cf → cf.scaled = false →
    drainChecks s c u p r d.2.1 d.2.2 = none → checkClean r d.2.1 d.2.2 [] = true →
    rowsPartial s a p.destStride.toNat (drainRowBytes p d.2.2) n = none →
    rows.length = n → (∀ row ∈ rows, row.1.length = drainRowBytes p d.2.2) →
    Apart (replyWrites s j) [(a, n * p.destStride.toNat)] →
    ∃ t, exec i s = .next t ∧ (partOf t u pi).x = none ∧ (partOf t u pi).y = none ∧
      Answered s t j (drainEnd 1 (resChecks r d.2.1 d.2.2) 0 0 []) ∧
      (∀ k row, rows[k]? = some row → bytesAt t (a + k * p.destStride.toNat) row.1.length = row.1) ∧
      MemSame s t ((a, n * p.destStride.toNat) :: replyWrites s j)

/-- The second replay of a waiting drain (05 R131): BORROW_PARTITION on the first engine that qualifies rebuilds the result from
its pass log; when its check is clean and it agrees with the first replay, or no first was made, the drain ends DONE with verdict
RECOVERED and frees its set. Where no partition can be borrowed the drain goes on waiting.
Where the rules leave a point open it follows the model's readings: DEDUCED, log entry 9; DEDUCED, log entry 30. -/
def Obligations.BorrowedReplaysRecover : Prop :=
  ∀ (id : Nat) (f : Faults) (s : State) (j : Job) (h : Hdr) (p : PMmDrain) (f0 : Faults) (r : Res),
    let u := j.unit
    let sh := shapeOf s u
    let d := shapeDims sh
    let fl := joinFaults f0 f
    let r' := replayRes s u sh r
    let b := borrowFrom s sh (u :: r.used ++ j.faulted) (borrowOrder (uDie u))
    Calm s [j] → id = j.id → j.cmd = .mmDrain h p f0 → j.phase = .waitBorrow 2 → (partOf s u j.part).queue = [] →
    (partOf s u j.part).y = none → (partOf s u j.part).x = some r →
    (b = none → exec (.borrowPartition id f) s = .next (passed s)) ∧
    (b.isSome = true → isCD (uDie u) = true → fl.borrowFault = false → replayPoison s sh r = none → checkClean r' d.2.1 d.2.2 fl.errs2 = true →
      (r.used.length < 2 ∨ agree r' fl.errs1 fl.errs2 = true) → p.mode = 0 → p.stats = 0 →
      rowsPartial s p.destAddr.toNat p.destStride.toNat (drainRowBytes p d.2.2) (if r'.dataflow = 1 then r'.t else d.2.1) = none →
      ∃ t e, exec (.borrowPartition id f) s = .next t ∧ jobOf t id = none ∧ (partOf t u j.part).x = none ∧
        e = drainEnd 3 ((if r.used.length < 2 then 2 else 3) * resChecks r d.2.1 d.2.2) 0 (1 + j.replays) [] ∧
        (replies h e = true → (ringOf t j.ring).replyTail = ((ringOf s j.ring).replyTail + 32) % replySize (ringOf s j.ring)))

/-- MM_ABORT discards the results of the issuing context on the partition it names, and no other context's (04 R118). A tenant's
pass that another context's pass waits behind is cancelled by the preemption timer, its result discarded, and the waiting pass
executes (02 R62).
Where the rules leave a point open it follows the model's readings: DEDUCED, log entry 31. -/
def Obligations.AbortAndPreemption : Prop :=
  (∀ (h : Hdr) (p : PMmAbort) (s : State) (r : Res), let i : Instr := .mmAbort h p
    let pre := preMmAbort p s
    let u := p.engine.toNat
    let pi := p.part.toNat
    let c := ringKey h / 256
    Calm s [] → Accepts s pre i → p.part ≠ 0xFF → (partOf s u pi).exec = none → (partOf s u pi).queue = [] →
    (partOf s u pi).x = some r → (partOf s u pi).y = none →
    ∃ t, exec i s = .next t ∧ (partOf t u pi).x = (if r.ctx = c then none else some r) ∧
      Answered s t (jobFor s pre i) (done 0) ∧ MemSame s t (replyWrites s (jobFor s pre i)) ∧
      (∀ v q, v ≠ u ∨ q ≠ pi → partOf t v q = partOf s v q)) ∧
  (∀ (unit : Word32) (part : Byte) (s : State) (j k : Job) (y : Bool) (h : Hdr) (p : PMmPass) (f : Faults),
    let u := unit.toNat
    let pi := part.toNat
    Calm s [j, k] → j.id ≠ k.id → (partOf s u pi).exec = some (j.id, y) → (partOf s u pi).queue = [k.id] →
    setOf (partOf s u pi) (!y) = none → k.cmd = .mmPass h p f → p.acc = 0 → k.phase = .inUnit →
    isTenant s (j.ring / 256) = true → isTenant s (k.ring / 256) = false →
    ∃ t, exec (.tenantPreemptTimer unit part) s = .next t ∧ Answered s t j (fails CANCELLED 0) ∧
      (partOf t u pi).exec.map (·.1) = some k.id ∧ jobOf t k.id = some k)

/-! ## DMA engines and memory-side adders (09; 08 R238) -/

/-- A COPY of strided rows, alone or as the one descriptor of a chain, stores each source row, as the engine reads it, at its
destination row, and no other byte but the reply slot and the DONE_ADDR word; it ends DONE, and the engine remembers the command
(09 R259, R269, R273).
Where the rules leave a point open it follows the model's readings: DEDUCED, log entry 19. -/
def Obligations.CopiesMoveRows : Prop :=
  ∀ (h : Hdr) (s : State) (engine : Word32) (d : Desc) (chain : Option Word64),
    let i : Instr := match chain with
      | none => .dmaRun h ⟨engine, d⟩ {}
      | some a => .dmaChain h ⟨engine, 1, a⟩ {}
    let pre := preOf s i
    let u := engine.toNat
    let n := fmtRow d.fmtSrc.toNat d.rowElems.toNat
    let src := d.srcAddr.toNat
    let dst := d.dstAddr.toNat
    let j := jobFor s pre i
    let c := ringKey h / 256
    let b := begun s i
    Calm s [] → Accepts s pre i → (∀ e ∈ s.mem.unseen, e.job < s.gz.nextJob) → d.op = 0 → d.stats = 0 → codeScaled d.fmtSrc.toNat = false →
    (∀ a, chain = some a → readDesc (readBytes b u a.toNat 64) = d ∧ bit d.flags.toNat 2 = false ∧
      descBad s c u d (readBytes b u a.toNat 64) 0x80000000 = none) →
    s.mem.poison = [] → s.mem.kept = [] → s.mem.chans = [] → inUseAt s dst (sideSpan d true) = false →
    Apart (replyWrites s j) [(dst, sideSpan d true)] →
    ∃ t, exec i s = .next t ∧
      (∀ r k, r < d.rows.toNat → k < n →
        byteAt t (dst + r * d.dstStride.toNat + k) = byteFor b u (src + r * d.srcStride.toNat + k)) ∧
      MemSame s t ((dst, sideSpan d true) :: replyWrites s j) ∧
      Answered s t j (doneChecked 1 (d.rows.toNat * ceilDiv n 64) 0x78) ∧
      t.dma = amPut s.dma (256 * u + c) ⟨DONE, h.seq.toNat, 1, noIndex, 0⟩

/-- MEM_ATOMIC is one operation of the target's adder on the old bytes (08 R238, R239): SWAP stores the operand; CAS stores it
when the old bytes equal COMPARE and answers DETAIL 1, else it stores nothing and answers 0; an integer ADD stores the sum modulo
the type's width. RESULT_ADDR, when given, takes the old bytes. Each ends DONE with one check.
The frame of MEM_ATOMIC: every byte outside the target, the RESULT_ADDR range, the reply slot and the DONE_ADDR word reads as
before, and engines, items, readiness, ports, ledger and every other ring and context are as before.
Where the rules leave a point open it follows the model's readings: DEDUCED, log entry 20; DEDUCED, log entry 47. -/
def Obligations.AtomicsOperateOnOldBytes : Prop :=
  (∀ (h : Hdr) (p : PMemAtomic) (s : State), let i : Instr := .memAtomic h p {}
      let pre := preAtomic h p s
      let b := begun s i
      let a := p.addr.toNat
      let n := atomicSize p.type.toNat
      let old := bytesAt s a n
      let x := p.operand.toNat % 2 ^ (8 * n)
      let w := whoOf (jobFor s pre i)
      let keep (t : State) : State := if p.resultAddr = 0 then t else storeLazy t w p.resultAddr.toNat old
      Accepts s pre i → s.mem.poison = [] → s.mem.kept = [] → s.mem.chans = [] →
      (p.op = 3 → exec i s = .next (replied s pre i (keep (storeLazy b w a (leBytes n x))) (doneChecked 1 1 0x78 0))) ∧
      (p.op = 4 → leNat old = p.compare.toNat % 2 ^ (8 * n) →
        exec i s = .next (replied s pre i (keep (storeLazy b w a (leBytes n x))) (doneChecked 1 1 0x78 1))) ∧
      (p.op = 4 → leNat old ≠ p.compare.toNat % 2 ^ (8 * n) → exec i s = .next (replied s pre i (keep b) (doneChecked 1 1 0x78 0))) ∧
      (p.op = 0 → 3 ≤ p.type.toNat →
        exec i s = .next (replied s pre i (keep (storeLazy b w a (leBytes n ((leNat old + x) % 2 ^ (8 * n))))) (doneChecked 1 1 0x78 0)))) ∧
  (∀ (h : Hdr) (p : PMemAtomic) (s t : State), let i : Instr := .memAtomic h p {}
      let pre := preAtomic h p s
      let n := atomicBytes p
      Calm s [] → Accepts s pre i → s.mem.chans = [] → exec i s = .next t →
      MemSame s t ((p.addr.toNat, n) :: (p.resultAddr.toNat, if p.resultAddr = 0 then 0 else n) :: replyWrites s (jobFor s pre i)) ∧
      SameEngines s t ∧ SameModule s t ∧ SameUnits s t ∧ SameRings s t (ringKey h))

/-! ## Weight versions (07 R216-R221) -/

/-- VER_PUBLISH of a version above the current one makes it the current version and a live one, retires the current version
before it when that has no pins (DETAIL its number), and keeps it otherwise; a version not above the current one ends
BAD_VERSION, data that overlap a live version's OUT_OF_RANGE, and with 7 versions retained or the table full it ends
BUSY_DEFER (07 R217). VER_PIN adds the pin of the issuing context and the micro-batch to a live version, VERSION 0 naming the
current one, and answers the version; a pin already there is left, a version that is not live ends BAD_VERSION, and a 65th pin
BUSY_DEFER (07 R218).
VER_RETIRE removes one pin; a version other than the current one that is left with no pins is retired and named in DETAIL; a
pin that does not exist ends BAD_STATE (07 R219). -/
def Obligations.VersionsArePublishedPinnedRetired : Prop :=
  ((∀ (h : Hdr) (p : PVerPublish) (s : State), let i : Instr := .verPublish h p
      let pre := preVerPublish h p s
      let b := begun s i
      let c := ringKey h / 256
      let k := verKey c p.tensor.toNat
      let r := tensorOf s c p.tensor.toNat
      let v : Version := ⟨p.version.toNat, p.dataAddr.toNat, p.bytes.toNat, []⟩
      let laps := r.live.any (fun x => dataOverlap v.addr v.bytes x.addr x.bytes)
      let retained := (r.live.filter (fun x => x.num != r.current)).length
      let full := decide (7 ≤ retained) || ((amFind s.ver k).isNone && decide (262144 ≤ s.ver.length))
      Accepts s pre i →
      (r.current < p.version.toNat → laps = false → full = false →
        (r.live.any (fun x => x.num == r.current && x.pins.isEmpty) = true →
          exec i s = .next (replied s pre i
            { b with ver := amPut s.ver k { current := v.num, live := r.live.filter (fun x => x.num != r.current) ++ [v] } } (done r.current))) ∧
        (r.live.any (fun x => x.num == r.current && x.pins.isEmpty) = false →
          exec i s = .next (replied s pre i { b with ver := amPut s.ver k { current := v.num, live := r.live ++ [v] } } (done 0)))) ∧
      (r.current < p.version.toNat → laps = true → exec i s = .next (replied s pre i b (fails OUT_OF_RANGE 0x28))) ∧
      (r.current < p.version.toNat → laps = false → full = true → exec i s = .next (replied s pre i b (fails BUSY_DEFER 1))) ∧
      (p.version.toNat ≤ r.current → exec i s = .next (replied s pre i b (fails BAD_VERSION p.tensor.toNat)))) ∧
    (∀ (h : Hdr) (p : PVer) (s : State) (x : Version), let i : Instr := .verPin h p
      let pre := preCore h s
      let b := begun s i
      let c := ringKey h / 256
      let k := verKey c p.tensor.toNat
      let r := tensorOf s c p.tensor.toNat
      let v := if p.version = 0 then r.current else p.version.toNat
      let pin := (c, p.microbatch.toNat)
      let pinned := r.live.map (fun y => if y.num == v then { y with pins := y.pins ++ [pin] } else y)
      Accepts s pre i →
      (r.live.find? (fun y => y.num == v) = none → exec i s = .next (replied s pre i b (fails BAD_VERSION p.tensor.toNat))) ∧
      (r.live.find? (fun y => y.num == v) = some x →
      (x.pins.contains pin = true → exec i s = .next (replied s pre i b (done v))) ∧
      (x.pins.contains pin = false → x.pins.length < 64 →
        exec i s = .next (replied s pre i (noteInFlight c { b with ver := amPut s.ver k { r with live := pinned } }) (done v))) ∧
      (x.pins.contains pin = false → 64 ≤ x.pins.length → exec i s = .next (replied s pre i b (fails BUSY_DEFER 1)))))) ∧
  (∀ (h : Hdr) (p : PVer) (s : State), let i : Instr := .verRetire h p
      let pre := preCore h s
      let b := begun s i
      let c := ringKey h / 256
      let k := verKey c p.tensor.toNat
      let r := tensorOf s c p.tensor.toNat
      let v := p.version.toNat
      let pin := (c, p.microbatch.toNat)
      let left := r.live.map (fun y => if y.num == v then { y with pins := y.pins.erase pin } else y)
      Accepts s pre i →
      (r.live.any (fun x => x.num == v && x.pins.contains pin) = false →
        exec i s = .next (replied s pre i b (fails BAD_STATE 0x28))) ∧
      (r.live.any (fun x => x.num == v && x.pins.contains pin) = true →
        (v ≠ r.current → left.any (fun y => y.num == v && y.pins.isEmpty) = true →
          exec i s = .next (replied s pre i
            { b with ver := amPut s.ver k { r with live := left.filter (fun y => y.num != v) } } (done v))) ∧
        (v = r.current ∨ left.any (fun y => y.num == v && y.pins.isEmpty) = false →
          exec i s = .next (replied s pre i { b with ver := amPut s.ver k { r with live := left } } (done 0)))))


/-! ## Routing (06) -/

/-- The ranking of a row of logits (06 R153): its n places, or the whole row if that is shorter, hold distinct experts with their
own logits; of two places the first has the greater logit, or an equal one and the lower index; and every expert left out comes
after every place. A NaN comes after every number.
RT_TOPK of a layer of experts opens a round of its tag with the choices of every token, writes the choice words and the
count vector, remembers the tag and ends DONE with the Watershed's two checks (06 R149, R150, R155; 05 R139). The choice
words and the counts change, the reply slot and the DONE_ADDR word, and no other byte.
Where the rules leave a point open it follows the model's readings: DESIGN CHOICE, log entry 12; DEDUCED, log entry 37. -/
def Obligations.TopkRanksAndOpensARound : Prop :=
  (∀ (n : Nat) (row : List FVal),
      let l := ranking n row
      let before (x y : Nat × FVal) : Prop := outranks x.2 y.2 = true ∨ (outranks y.2 x.2 = false ∧ x.1 < y.1)
      l.length = min n row.length ∧ l.Pairwise before ∧ (∀ x ∈ l, row[x.1]? = some x.2) ∧
      (∀ i v, row[i]? = some v → (i, v) ∉ l → ∀ x ∈ l, before x (i, v))) ∧
  (∀ (h : Hdr) (p : PRtTopk) (s : State) (cf : FCode), let i : Instr := .rtTopk h p {}
      let pre := preRtTopk h p s
      let d := homeOf h s
      let j := jobFor s pre i
      let b := begun s i
      let tag := p.batchTag.toNat
      let e := p.experts.toNat
      let rows := readRows b (wsUnit d) cf p.logitsAddr.toNat (e * logitSize p.fmtLogit.toNat) p.tokens.toNat e (fun _ => [])
      let choices := (indexed 0 rows).map (fun r => (routeToken s.free r.1 p.k.toNat r.2).1)
      let words := ((choices.map (fun ps => ((indexed 0 ps).map (fun x => leBytes 8 (choiceWord x.1 x.2))).flatten)).flatten)
      let counts := u32Bytes (countVector p.k.toNat e choices)
      Calm s [] → Accepts s pre i → d < 8 → tag ≠ 0 → tagOf s d tag = none → roundOf s d tag = none → layerStaged s p.layer.toNat = false →
      (wsOf s d).rounds.length < 16 → isLookup p.fmtLogit = false → fmtOf p.fmtLogit.toNat = some cf →
      (∀ x, x < e → (dirAt s p.layer.toNat x).map (·.type) = some 1) → rangesStop b [topkIn p] (topkOut p) = none →
      Apart (replyWrites s j) (topkOut p) → Apart [(p.choiceAddr.toNat, words.length)] [(p.countAddr.toNat, counts.length)] →
      words.length ≤ 8 * p.tokens.toNat * p.k.toNat →
      ∃ t r, exec i s = .next t ∧ roundOf t d tag = some r ∧ r.choices = choices ∧ r.ctx = ringKey h / 256 ∧ r.layer = p.layer.toNat ∧
        r.k = p.k.toNat ∧ r.counted = false ∧ (tagOf t d tag).isSome = true ∧
        bytesAt t p.choiceAddr.toNat words.length = words ∧ bytesAt t p.countAddr.toNat counts.length = counts ∧
        Answered s t j (doneChecked 1 2 0x60) ∧ MemSame s t (topkOut p ++ replyWrites s j))

/-- Admission (06 R159): a choice takes a slot exactly when fewer earlier choices than the quota name the same expert and rank, and
then the slot is the base plus the number of those. -/
def Obligations.AdmissionFollowsQuotas : Prop :=
  ∀ (q : AMap (Nat × Nat)) (cs : List (Nat × Nat × Nat)) (i : Nat) (x : Nat × Nat × Nat),
    cs[i]? = some x →
    let key := reKey x.2.1 x.2.2
    let n := ((cs.take i).filter (fun y => reKey y.2.1 y.2.2 == key)).length
    let qb := amGet (0, 0) q key
    (admitAll q [] cs)[i]? = some (if n < qb.1 then some (qb.2 + n) else none)

/-- The fill (06 R158): over the counts in rank and source order an expert's quotas are the counts until its capacity is spent,
each base is the slots given before it, and what is given never passes the capacity. -/
def Obligations.FillsShareTheCapacity : Prop :=
  ∀ (cap used : Nat) (cs : List (Nat × Nat × Nat)), used ≤ cap →
    let f := fillExpert cap used cs
    f.2 ≤ cap ∧ f.2 = min cap (used + (cs.map (·.2.2)).sum) ∧ f.1.length = cs.length ∧
    (∀ i x, f.1[i]? = some x → ∃ c, cs[i]? = some c ∧ x.1 = c.1 ∧ x.2.1 = c.2.1 ∧
      x.2.2.2 = min cap (used + ((cs.take i).map (·.2.2)).sum) ∧ x.2.2.1 = min c.2.2 (cap - x.2.2.2))

/-- RT_COUNT sends one count message to every owner of the layer and stays in flight until all have answered (06 R157, R161). The
last quota message settles the slots by the quotas, writes the quota vector, counts the round, and ends it DONE, or
DONE_WITH_DROPS with the tokens that lost a slot (06 R159, R161). Owners here are on this device.
Where the rules leave a point open it follows the model's readings: DEDUCED, log entry 37. -/
def Obligations.CountRound : Prop :=
  (∀ (h : Hdr) (p : PRtCount) (s : State) (r : Round), let i : Instr := .rtCount h p {}
    let pre := preRtCount h p s
    let d := homeOf h s
    let j := jobFor s pre i
    let b := begun s i
    let tag := p.batchTag.toNat
    let n := 4 * r.k * r.experts
    let owners := distinct ((dirLayer s r.layer).map ownerOf)
    Calm s [] → Accepts s pre i → d < 8 → roundOf s d tag = some r → tagDead (tagOf s d tag) = false → r.choices ≠ [] → r.counted = false →
    r.countJob = none → r.layer = p.layer.toNat → r.lookup = false → bit p.mode.toNat 1 = false →
    lateRange s (ringKey h / 256) (wsUnit d) [(0x20, p.countAddr.toNat, n, pRead), (0x28, p.quotaAddr.toNat, n, pWrite)] = none →
    rangesStop b [(p.countAddr.toNat, n)] [(p.quotaAddr.toNat, n)] = none → (∀ o ∈ owners, o / 8 = myPos s) →
    ∃ t r', exec i s = .next t ∧ t.gz.jobs = [{ j with phase := .waitQuota, since := s.now }] ∧ roundOf t d tag = some r' ∧
      r'.awaiting = owners ∧ r'.countJob = some j.id ∧ r'.choices = r.choices ∧ r'.source = p.source.toNat ∧
      r'.sources = p.sources.toNat ∧ r'.epoch = s.dir.epoch ∧
      t.net = s.net ++ owners.map (fun o =>
        .count (countMsg s d r' false (readCounts b (wsUnit d) p.countAddr.toNat r.k r.experts) o) (o / 8) (o % 8)) ∧
      t.mem.cells = s.mem.cells) ∧
  (∀ (die : CDie) (m : QuotaMsg) (s : State) (r : Round) (j : Job) (h : Hdr) (p : PRtCount) (q : List (Word16 × BitVec 3 × Word32 × Word32)),
    let d := die.val
    let tag := m.tag.toNat
    let r' := { r with quotas := grantedMap q r.quotas }
    let slots := firstSlots r'
    let qb := quotaBytes r.k r.experts r'.quotas
    Calm s [j] → j.cmd = .rtCount h p {} → j.phase = .waitQuota → j.replays = 0 → roundOf s d tag = some r → r.tag = tag →
    r.awaiting = [8 * m.ownerPos.toNat + m.ownerDie.val] → r.spilling = false → m.spill = false → r.countJob = some j.id →
    bit r.mode 1 = false → m.ans = .granted q → Apart (replyWrites s j) [(r.quotaAddr, qb.length)] →
    ∃ t rt, exec (.quotaMessage die m {}) s = .next t ∧ roundOf t d tag = some rt ∧ rt.slots = slots ∧ rt.counted = true ∧
      rt.countJob = none ∧ bytesAt t r.quotaAddr qb.length = qb ∧
      Answered s t j { dropEnd slots with verdict := 1, checks := r.checks + 2, record := [(0x60, r.checks + 2)] } ∧
      MemSame s t ((r.quotaAddr, qb.length) :: replyWrites s j))

/-- RT_DISPATCH opens the tag's claim, writes the route records and sends one row message for each admitted slot; RT_REPLAY in the
forward direction opens a replay claim and sends the rows of the records it reads. Both stay in flight until every row has
been confirmed (06 R166-R172; 07 R191). The last confirmation ends them: a dispatch with the drops of its round, which closes, a
replay DONE (06 R169). Owners here are on this device.
Where the rules leave a point open it follows the model's readings: DEDUCED, log entry 37; DEDUCED, log entry 39. -/
def Obligations.RowsGoOutAndLand : Prop :=
  (∀ (h : Hdr) (p : PRtDispatch) (s : State) (r : Round), let i : Instr := .rtDispatch h p {}
    let pre := preRtDispatch h p s
    let d := homeOf h s
    let j := jobFor s pre i
    let b := begun s i
    let c := ringKey h / 256
    let tag := p.batchTag.toNat
    let rb := p.rowBytes.toNat
    let recs := routeRecs s r
    let out := admittedRows b (wsUnit d) r.k p.rowsAddr.toNat rb false recs
    let cl := newClaim c tag false false true p.routeAddr.toNat r.k r.tokens rb p.fmtRow.toNat
    let route := (recs.map recBytes).flatten
    let rows := [(p.rowsAddr.toNat, r.tokens * rb)]
    Calm s [] → Accepts s pre i → d < 8 → roundOf s d tag = some r → tagDead (tagOf s d tag) = false → r.counted = true → r.lookup = false →
    lateRange s c (wsUnit d) [(0x20, p.rowsAddr.toNat, r.tokens * rb, pRead), (0x28, p.routeAddr.toNat, 16 * r.tokens * r.k, pWrite)] = none →
    cl.units ≤ areaSize s d → claimWaits s d cl = false → rangesStop b rows [(p.routeAddr.toNat, 16 * r.tokens * r.k)] = none →
    ((r.quotas ++ r.spillQuotas).map (fun q => q.2.1)).foldl (· + ·) 0 = out.length → out ≠ [] → (∀ x ∈ out, x.2.1.ownerPos = myPos s) →
    ∃ t x, exec i s = .next t ∧ t.gz.jobs = [{ j with phase := .waitLand, since := s.now }] ∧ claimOf t d tag false = some x ∧
      x = { cl with num := x.num } ∧ bytesAt t p.routeAddr.toNat route.length = route ∧
      t.net = s.net ++ out.map (fun y => .row (rowMsg s d c false x.num y.1 y.2.1 p.fmtRow.toNat rb y.2.2) y.2.1.ownerPos y.2.1.ownerDie) ∧
      MemSame s t [(p.routeAddr.toNat, route.length)]) ∧
  (∀ (h : Hdr) (p : PRtReplay) (s : State) (tg : TagRec) (recs : List RouteRec), let i : Instr := .rtReplay h p {}
    let pre := preRtReplay h p s
    let d := homeOf h s
    let j := jobFor s pre i
    let b := begun s i
    let c := ringKey h / 256
    let tag := p.batchTag.toNat
    let rb := p.rowBytes.toNat
    let n := p.records.toNat
    let tokens := ceilDiv n tg.k
    let out := admittedRows b (wsUnit d) tg.k p.rowsAddr.toNat rb false recs
    let cl := newClaim c tag false true false p.routeAddr.toNat tg.k tokens rb p.fmtRow.toNat
    Calm s [] → Accepts s pre i → d < 8 → tagOf s d tag = some tg → tg.cancelled = false → tg.counted = true → tg.lookup = false → p.direction = 0 →
    lateRange s c (wsUnit d) [(0x28, p.rowsAddr.toNat, tokens * rb, pRead)] = none → cl.units ≤ areaSize s d → claimWaits s d cl = false →
    rangesStop b [(p.routeAddr.toNat, 16 * n), (p.rowsAddr.toNat, tokens * rb)] [] = none →
    replayScan s tag 0 (readRecs b (wsUnit d) p.routeAddr.toNat n) = (recs, none) → out ≠ [] → (∀ x ∈ out, x.2.1.ownerPos = myPos s) →
    ∃ t x, exec i s = .next t ∧ t.gz.jobs = [{ j with phase := .waitLand, since := s.now }] ∧ claimOf t d tag false = some x ∧
      x = { cl with num := x.num } ∧
      t.net = s.net ++ out.map (fun y => .row (rowMsg s d c false x.num y.1 y.2.1 p.fmtRow.toNat rb y.2.2) y.2.1.ownerPos y.2.1.ownerDie) ∧
      t.mem.cells = s.mem.cells) ∧
  (∀ (die : CDie) (m : Confirm) (s : State) (tg : TagRec) (j : Job),
    let d := die.val
    let tag := m.tag.toNat
    let key := (m.token.toNat, m.rank.toNat, m.grad)
    Calm s [j] → j.phase = .waitLand → j.replays = 0 → tagOf s d tag = some tg → tg.unlanded = [key] → tg.landJob = some j.id →
    tg.cancelJob = none → m.ans = .landed →
    (∀ h p, j.cmd = .rtReplay h p {} → ∃ t, exec (.landingConfirmation die m) s = .next t ∧ Answered s t j (doneChecked 1 1 0x60) ∧
      (tagOf t d tag).map (·.unlanded) = some [] ∧ MemSame s t (replyWrites s j)) ∧
    (∀ h p r, j.cmd = .rtDispatch h p {} → p.batchTag.toNat = tag → roundOf s d tag = some r →
      ∃ t, exec (.landingConfirmation die m) s = .next t ∧ roundOf t d tag = none ∧
        Answered s t j { dropEnd r.slots with verdict := 1, checks := 3, record := [(0x60, 3)] } ∧ MemSame s t (replyWrites s j)))

/-- Cancelling a tag (06 R173; 07 R201, R202): RT_CANCEL marks the tag cancelled, closes its round and its claims, tells the owners,
and ends DONE once no slot is outstanding; a cancel acknowledgement that names the last outstanding slot ends it.
Where the rules leave a point open it follows the model's readings: DEDUCED, log entry 39. -/
def Obligations.CancelEndsTheTag : Prop :=
  (∀ (h : Hdr) (p : PRtCancel) (s : State) (tg : TagRec), let i : Instr := .rtCancel h p
    let pre := preRtCancel h s
    let d := homeOf h s
    let j := jobFor s pre i
    let tag := p.batchTag.toNat
    Calm s [] → Accepts s pre i → d < 8 → tagOf s d tag = some tg → (∀ c ∈ (cfOf s d).claims, c.job = none) → (∀ o ∈ tg.owners, o / 8 = myPos s) →
    ∃ t, exec i s = .next t ∧ (tagOf t d tag).map (·.cancelled) = some true ∧ roundOf t d tag = none ∧
      claimOf t d tag false = none ∧ claimOf t d tag true = none ∧
      t.net = s.net ++ tg.owners.map (fun o => .cancel ⟨BitVec.ofNat 8 (ringKey h / 256), BitVec.ofNat 24 tag, BitVec.ofNat 4 (myPos s),
        Fin.ofNat 8 d⟩ (o / 8) (o % 8)) ∧
      (tg.outstanding = [] → Answered s t j { status := DONE, verdict := 1 }) ∧
      (tg.outstanding ≠ [] → t.gz.jobs = [{ j with phase := .waitCancel, since := s.now }])) ∧
  (∀ (die : CDie) (m : CancelAck) (s : State) (tg : TagRec) (j : Job) (x : Word16) (k : BitVec 3) (grad : Bool),
    let d := die.val
    let tag := m.tag.toNat
    Calm s [j] → j.phase = .waitCancel → tagOf s d tag = some tg → tg.cancelJob = some j.id → tg.outstanding = [(x.toNat, k.toNat, grad)] →
    m.slots = [(x, k)] →
    ∃ t, exec (.cancelAck die m) s = .next t ∧ (tagOf t d tag).map (·.outstanding) = some [] ∧
      Answered s t j (cancelEnd { j with drops := j.drops + m.stale.toNat }))

/-! ## The owner's side (06 R151, R157, R158, R161, R168, R173, R176; 07 R186-R189, R202) -/

/-- An owner holds the counts of a tag until every source has sent its own, then fills and answers every source (06 R157, R158). A
round that has not completed is discarded by its timer (06 R161). A cancel notice discards what the owner holds of the tag,
makes the tag cancelled, and is acknowledged with the slots the source still has there and the stale rows (06 R173; 07 R202).
Sources here are on this device.
Where the rules leave a point open it follows the model's readings: DEDUCED, log entry 38. -/
def Obligations.OwnersHoldCounts : Prop :=
  (∀ (die : CDie) (m : CountMsg) (s : State) (t0 : OwnTag),
    let d := die.val
    let tag := m.tag.toNat
    let all := t0.msgs ++ [m]
    let es := ownedHere s d m.layer.toNat
    let grants (x : CountMsg) : List (Word16 × BitVec 3 × Word32 × Word32) := es.flatMap (fun e =>
      ((fillExpert e.capacity.toNat 0 (fillOrder all m.k.toNat m.sources.toNat e.index.toNat)).1.filter (fun q => q.2.1 == x.source.toNat)).map
        (fun q => (e.index, BitVec.ofNat 3 q.1, BitVec.ofNat 32 q.2.2.1, BitVec.ofNat 32 q.2.2.2)))
    Calm s [] → ownOf s d tag = some t0 → t0.cancelled = false → t0.refused = none → s.dir.epoch ≤ m.epoch.toNat → m.spill = false →
    all.head?.bind (fun f => disagrees f m t0.msgs) = none →
    (all.length ≠ m.sources.toNat →
      exec (.countMessage die m {}) s = .next (passed (modOwn (receive s (.count m (myPos s) d)) d tag (fun t => { t with msgs := all })))) ∧
    (all.length = m.sources.toNat → (∀ x ∈ all, x.srcPos.toNat = myPos s ∧ x.layer = m.layer ∧ x.k = m.k ∧ x.sources = m.sources) →
      ∃ t, exec (.countMessage die m {}) s = .next t ∧ (ownOf t d tag).map (·.filled) = some true ∧
        t.net = s.net.erase (.count m (myPos s) d) ++ all.map (fun x => .quota ⟨x.ctx, x.tag, BitVec.ofNat 4 (myPos s), Fin.ofNat 8 d, x.spill,
          .granted (grants x)⟩ x.srcPos.toNat x.srcDie.val))) ∧
  (∀ (die : CDie) (ctx : Byte) (tag : BitVec 24) (s : State) (t0 : OwnTag),
    Quiet s → ownOf s die.val tag.toNat = some t0 →
    (ownDone s die.val t0 = false → exec (.countDiscardTimer die ctx tag) s =
      .next (passed (modOwn s die.val tag.toNat (fun t => { newOwn t.tag with cancelled := t.cancelled, stale := t.stale })))) ∧
    (ownDone s die.val t0 = true → exec (.countDiscardTimer die ctx tag) s = .next (passed s))) ∧
  (∀ (die : CDie) (m : CancelNote) (s : State) (t0 : OwnTag),
    let d := die.val
    let tag := m.tag.toNat
    Quiet s → ownOf s d tag = some t0 → t0.msgs = [] → t0.spills = [] → m.srcPos.toNat = myPos s →
    ∃ t, exec (.cancelNotice die m) s = .next t ∧ (ownOf t d tag).map (·.cancelled) = some true ∧
      (ownOf t d tag).map (·.stale) = some t0.stale ∧
      t.net = s.net.erase (.cancel m (myPos s) d) ++ [.cancelAck ⟨m.ctx, m.tag, BitVec.ofNat 4 (myPos s), Fin.ofNat 8 d,
        heldSlots s d tag m.srcPos.toNat m.srcDie.val, BitVec.ofNat 32 t0.stale⟩ m.srcPos.toNat m.srcDie.val])

/-- A row that reaches the owner of its expert is stored at its slot of the receive area, held in the expert's half and confirmed
landed (06 R168, R169; 07 R186, R187); while a half of another tag or claim is held it waits, and HELD_HALF_RETRY lands it once
the half is free. A row of a cancelled tag is stale and is not stored (06 R173). Sources here are on this device, and the tag's
fills are not final yet.
Where the rules leave a point open it follows the model's readings: DEDUCED, log entry 38. -/
def Obligations.RowsLandInHalves : Prop :=
  ∀ (die : CDie) (m : RowMsg) (s : State) (e : DirEntry),
    let d := die.val
    let key := halfKey m.layer.toNat m.expert.toNat false
    let c := m.ctx.toNat
    let a := e.slotBase.toNat + m.slot.toNat * m.row.length
    let landed : Landed := ⟨m.slot.toNat, m.srcPos.toNat, m.srcDie.val, m.claim.toNat, m.token.toNat, m.rank.toNat⟩
    let told (ans : LandAns) : NetMsg := .confirm ⟨m.ctx, m.tag, false, m.token, m.rank, ans⟩ m.srcPos.toNat m.srcDie.val
    Calm s [] → m.lookup = false → m.kind = .fwdRow → m.srcPos.toNat = myPos s → dirAt s m.layer.toNat m.expert.toNat = some e →
    ownerOf e = 8 * myPos s + d → e.type = 1 → tooOld s m = false →
    ((ownOf s d m.tag.toNat).all (fun t => !t.cancelled && !fillsFinal t) = true → access s c (wsUnit d) a m.row.length pWrite = none →
      (amFind (wsOf s d).halves key = none →
        ∃ t x, exec (.exchangeRowArrival die m) s = .next t ∧ bytesAt t a m.row.length = m.row ∧ MemSame s t [(a, m.row.length)] ∧
          amFind (wsOf t d).halves key = some x ∧ x.rows = [landed] ∧ x.tag = m.tag.toNat ∧ x.ctx = c ∧ x.arrived = false ∧
          t.net = s.net.erase (.row m (myPos s) d) ++ [told .landed]) ∧
      ((wsOf s d).heldRows = [m] → amFind (wsOf s d).halves key = none →
        ∃ t x, exec (.heldHalfRetry die none) s = .next t ∧ bytesAt t a m.row.length = m.row ∧ (wsOf t d).heldRows = [] ∧
          amFind (wsOf t d).halves key = some x ∧ x.rows = [landed] ∧ t.net = s.net ++ [told .landed]) ∧
      (∀ x, amFind (wsOf s d).halves key = some x → x.tag ≠ m.tag.toNat →
        exec (.exchangeRowArrival die m) s = .next (passed (modWs (receive s (.row m (myPos s) d)) d
          (fun w => { w with heldRows := w.heldRows ++ [m] }))))) ∧
    (∀ t0, ownOf s d m.tag.toNat = some t0 → t0.cancelled = true →
      ∃ t, exec (.exchangeRowArrival die m) s = .next t ∧ (∀ x, byteAt t x = byteAt s x) ∧
        (ownOf t d m.tag.toNat).map (·.stale) = some (t0.stale + 1))

/-- A lookup request is answered with the row of the owner's table shard at the request's offset, as a contribution with its
checksum, after a confirmation (06 R176; 07 R190). A return word with SEND that names the tag and the count of a half of one row
sends that row back as a contribution and frees the half; one that names another count changes no half and is counted (07 R188,
R189).
Where the rules leave a point open it follows the model's readings: DEDUCED, log entry 38. -/
def Obligations.OwnersReturnRows : Prop :=
  (∀ (die : CDie) (m : RowMsg) (s : State) (e : DirEntry),
    let d := die.val
    let rb := m.rowBytes.toNat
    let a := e.slotBase.toNat + m.word6.toNat * rb
    let row := readBytes s (wsUnit d) a rb
    Quiet s → m.lookup = true → m.kind = .fwdRow → m.srcPos.toNat = myPos s → (ownOf s d m.tag.toNat).all (fun t => !t.cancelled) = true →
    dirAt s m.layer.toNat m.expert.toNat = some e → ownerOf e = 8 * myPos s + d → e.type = 2 → tooOld s m = false →
    access s m.ctx.toNat (wsUnit d) a rb pRead = none → poisonIn s a rb = none →
    exec (.lookupRequest die m) s = .next (passed { receive s (.row m (myPos s) d) with
      net := s.net.erase (.row m (myPos s) d) ++
        [.confirm ⟨m.ctx, m.tag, false, m.token, m.rank, .landed⟩ m.srcPos.toNat m.srcDie.val,
         .row (contribution s d m false 0 row) m.srcPos.toNat m.srcDie.val] })) ∧
  (∀ (die : CDie) (ctx : Byte) (addr value : Word64) (s : State) (e : DirEntry) (x : Half) (r : Landed),
    let d := die.val
    let v := value.toNat
    let tag := bits v 40 24
    let key := halfKey e.layer.toNat e.index.toNat false
    let a := e.slotBase.toNat + r.slot * x.rowBytes
    Quiet s → returnEntry s d addr.toNat = some e → (ownOf s d tag).all (fun t => !t.cancelled) = true → bit v 39 = false →
    amFind (wsOf s d).halves key = some x → x.tag = tag → x.arrived = true → x.rows = [r] →
    (bits v 0 20 = 1 → bit v 38 = true → r.srcPos < 16 → r.srcPos = myPos s → access s x.ctx (wsUnit d) a x.rowBytes pRead = none →
      poisonIn s a x.rowBytes = none →
      ∃ t c, exec (.returnWord die ctx addr value) s = .next t ∧ amFind (wsOf t d).halves key = none ∧
        t.net = s.net ++ [.row c r.srcPos r.srcDie] ∧ c.kind = .fwdContrib ∧ c.row = readBytes s (wsUnit d) a x.rowBytes ∧
        c.tag.toNat = tag % 2 ^ 24 ∧ c.token = BitVec.ofNat 16 r.token ∧ c.rank = BitVec.ofNat 3 r.rank ∧ t.mem = s.mem) ∧
    (bits v 0 20 ≠ 1 → ∃ t, exec (.returnWord die ctx addr value) s = .next t ∧ t.ws = s.ws ∧ t.net = s.net ∧ t.mem = s.mem ∧
      countOf t (wsUnit d) 0x38 = countOf s (wsUnit d) 0x38 + 1))

/-! ## The Confluence (07 R191-R207) -/

/-- A contribution that meets its claim is multiplied by its record's weight and added to its row in FP32, with its checksum and
absolute-sum terms, and its rank is noted (07 R195); one that meets none is stale: it is counted and changes no row
(07 R194).
Where the rules leave a point open it follows the model's readings: DEDUCED, log entry 42. -/
def Obligations.ContributionsAccumulate : Prop :=
  ∀ (die : CDie) (m : RowMsg) (s : State),
    let d := die.val
    let tag := m.tag.toNat
    let rest (s : State) : State := modTag (receive s (.row m (myPos s) d)) d tag (fun t => { t with
      outstanding := t.outstanding.erase (m.token.toNat, m.rank.toNat, false) })
    Calm s [] → m.kind = .fwdContrib → (∀ g ∈ (wsOf s d).tags, g.cancelJob = none) →
    (∀ c q fc, meets s d m false = .inl (c, q) → c.job = none → fmtOf c.fmt = some fc →
      ∃ t x, exec (.contributionArrival die m {}) s = .next t ∧ claimOf t d tag false = some x ∧
        rowAt x m.token.toNat = applyRow (fp32Val q.weight) (rowVals fc m.row [] c.e) m (rowAt c m.token.toNat) ∧
        (∀ k, k ≠ m.token.toNat → rowAt x k = rowAt c k) ∧ x.expect = c.expect ∧ x.job = none ∧ t.mem = s.mem ∧ t.ws = (rest s).ws) ∧
    (∀ dup, meets s d m false = .inr dup → (∀ c ∈ (cfOf s d).claims, c.job = none) →
      ∃ t, exec (.contributionArrival die m {}) s = .next t ∧ (cfOf t d).claims = (cfOf s d).claims ∧
        countOf t (cfUnit d) 0x30 = countOf s (cfUnit d) 0x30 + 1 ∧ t.mem = s.mem)

/-- CB_COMBINE of a claim of one token whose rows have all arrived checks its row, writes it in FMT_OUT at OUT_ADDR and ends DONE,
closing the claim; while every row of a claim is short it stays bound to the claim with the expected counts of the route records
(07 R196-R200). CB_RETURN_GRAD stays bound to the gradient claim in the same way (07 R205).
Where the rules leave a point open it follows the model's readings: DEDUCED, log entry 42. -/
def Obligations.CombineBindsAndWrites : Prop :=
  (∀ (h : Hdr) (p : PCbCombine) (s : State) (c : Claim) (fc : FCode), let i : Instr := .cbCombine h p {}
    let pre := preCbCombine h p s
    let d := homeOf h s
    let j := jobFor s pre i
    let b := begun s i
    let tag := p.batchTag.toNat
    let recs := readRecs b (cfUnit d) c.route (c.tokens * c.k)
    let ex := (List.range c.tokens).map (fun t => expectedOf (tokenRecs b d c t))
    let row := rowAt c 0
    let out := (convRow fc (row.buf.map fp32Val)).1
    let a := p.outAddr.toNat
    Calm s [] → Accepts s pre i → d < 8 → claimOf s d tag false = some c → c.route = p.routeAddr.toNat → c.tokens = p.tokens.toNat →
    c.e * elemSize p.fmtOut.toNat ≤ p.rowBytes.toNat → fmtOf p.fmtOut.toNat = some fc →
    lateRange s (ringKey h / 256) (cfUnit d) [(0x20, c.route, 16 * c.tokens * c.k, pRead)] = none →
    rangesStop b [(c.route, 16 * c.tokens * c.k)] (outRanges i c) = none → recsRsvd 0 recs = none →
    ((∀ t, t < c.tokens → (rowAt c t).final = false ∧ (rowAt c t).failed = false ∧ (rowAt c t).got.length < ex.getD t 0) →
      ∃ t x, exec i s = .next t ∧ t.gz.jobs = [{ j with phase := .bound, since := s.now }] ∧ claimOf t d tag false = some x ∧
        x.job = some j.id ∧ x.expect = ex ∧ t.mem.cells = s.mem.cells) ∧
    (c.tokens = 1 → row.final = false → row.failed = false → ex.getD 0 0 ≤ row.got.length → rowCheckOk row c.e = true → p.signalAddr = 0 →
      hasDrop (tokenRecs b d c 0) = false → Apart (replyWrites s j) [(a, out.length)] → Apart [(c.route, 16 * c.k)] [(a, out.length)] →
      rowsDone c = 0 →
      ∃ t, exec i s = .next t ∧ claimOf t d tag false = none ∧ bytesAt t a out.length = out ∧ MemSame s t ((a, out.length) :: replyWrites s j) ∧
        Answered s t j { status := DONE, verdict := 1, checks := 1, record := [(0x68, 1)] })) ∧
  (∀ (h : Hdr) (p : PCbReturnGrad) (s : State) (c : Claim), let i : Instr := .cbReturnGrad h p {}
    let pre := preCbReturnGrad h p s
    let d := homeOf h s
    let j := jobFor s pre i
    let b := begun s i
    let tag := p.batchTag.toNat
    let n := c.tokens * c.k
    let dx := c.tokens * c.e * elemSize p.fmtOut.toNat
    let ex := (List.range c.tokens).map (fun t => expectedOf (tokenRecs b d c t))
    Calm s [] → Accepts s pre i → d < 8 → claimOf s d tag true = some c → c.route = p.routeAddr.toNat → p.recompute = 0 → c.tokens ≠ 0 →
    lateRange s (ringKey h / 256) (cfUnit d)
      [(0x20, c.route, 16 * n, pRead), (0x30, p.scalarAddr.toNat, 4 * n, pWrite), (0x28, p.dxAddr.toNat, dx, pWrite)] = none →
    rangesStop b [(c.route, 16 * n)] ((p.scalarAddr.toNat, 4 * n) :: outRanges i c) = none →
    recsRsvd 0 (readRecs b (cfUnit d) c.route n) = none →
    (∀ t, t < c.tokens → (rowAt c t).final = false ∧ (rowAt c t).failed = false ∧ (rowAt c t).got.length < ex.getD t 0) →
    ∃ t x, exec i s = .next t ∧ t.gz.jobs = [{ j with phase := .bound, since := s.now }] ∧ claimOf t d tag true = some x ∧
      x.job = some j.id ∧ x.expect = ex ∧ t.mem.cells = s.mem.cells)

/-- CB_FACTOR_FLUSH without a table ends BAD_STATE; of one entry of one tile in MODE 0 that no error strikes it writes
the tile of Xᵀ · DY within M × N at dW, sets COUNT and TILE_NEXT to zero, and ends DONE with verdict CLEAN and the tile's
checks (07 R208-R213).
Where the rules leave a point open it follows the model's readings: DEDUCED, log entry 43. -/
def Obligations.FlushWritesItsTile : Prop :=
  ∀ (h : Hdr) (p : PCbFactorFlush) (s : State) (e : Factor) (fc : FCode), let i : Instr := .cbFactorFlush h p {}
    let pre := preCbFactorFlush h p s
    let d := homeOf h s
    let u := uid 0 d 0
    let j := jobFor s pre i
    let b := begun s i
    let c := ringKey h / 256
    let table := factorTable s d c
    let sh := shapeOf s e.engine
    let dims := shapeDims sh
    let part := (maskParts e).getD 0 0
    let r := tileRes b c sh e part 0
    let clip := tileClip sh e 0
    let rows := (((resRows s.free r []).take clip.1).map (·.take clip.2)).map (convRow fc)
    Calm s [] → Accepts s pre i → d < 8 →
    (table = 0 → ∃ t, exec i s = .next t ∧ Answered s t j (fails BAD_STATE 0x20) ∧ MemSame s t (replyWrites s j)) ∧
    (table ≠ 0 → rangesStop b [(table, 128)] [] = none → readNat b u table 4 = 1 → (∀ k, k < 60 → readNat b u (table + 4 + k) 1 = 0) →
      e = readFactor 64 (readBytes b u (table + 64) 64) → e.layer = p.layer.toNat → e.expert = p.expert.toNat →
      factorStop b d c u (readBytes b u (table + 64) 64) e = none → e.count ≠ 0 → e.mode = 0 → tileTotal sh e = 1 → e.tile = 0 →
      p.statSlot = 0xFFFF → tilePoison b sh e 0 = none → checkClean r dims.2.1 dims.2.2 [] = true → fmtOf 1 = some fc →
      Apart [(e.dw, 4 * e.n * clip.1)] ((table + 0x70, 8) :: replyWrites s j) → Apart [(table + 0x70, 8)] (replyWrites s j) →
      ∃ t, exec i s = .next t ∧ (∀ k row, rows[k]? = some row → bytesAt t (e.dw + 4 * e.n * k) row.1.length = row.1) ∧
        bytesAt t (table + 0x70) 8 = List.replicate 8 0 ∧ Answered s t j (drainEnd 1 (resChecks r dims.2.1 dims.2.2) 0 0 []) ∧
        MemSame s t ((e.dw, 4 * e.n * clip.1) :: (table + 0x70, 8) :: replyWrites s j))

/-! ## Drovers (11 R286-R302; 10 R282) -/

/-- DRV_LAUNCH is checked, and each drover of its free set starts at ENTRY with the registers of 11 R288: a0 to a5 and sp, every
other register zero, vill set and the custom CSRs at reset; no other drover and no byte of memory changes. A launch that fails
a check replies with it and starts none (11 R289).
Where the rules leave a point open it follows the model's readings: DEDUCED, log entry 71. -/
def Obligations.LaunchStartsItsDrovers : Prop :=
  ∀ (h : Hdr) (p : PDrvLaunch) (s : State), let i : Instr := .drvLaunch h p
    let pre := preDrvLaunch h p s
    let c := ringKey h / 256
    let die := uDie pre.unit
    let j := jobFor s pre i
    Idle s → Accepts s pre i →
    (∀ st d, launchBad s c die p = some (st, d) → exec i s = .next (replied s pre i (begun s i) (fails st d))) ∧
    (launchBad s c die p = none → setFree s die p = true → ∃ t, exec i s = .next t ∧
      (jobOf t j.id).map (·.phase) = some .launch ∧
      (∀ k < p.count.toNat,
        let n := drvKey die (p.first.toNat + k)
        let d := droverOf t n
        Runs t n { j with phase := .launch, since := s.now } ∧ d.index = k ∧ d.pc = p.entry.toNat ∧
        xr d 10 = p.argAddr.toNat ∧ xr d 11 = k ∧ xr d 12 = p.count.toNat ∧ xr d 13 = scratchBase n ∧
        xr d 14 = p.scratchBytes.toNat ∧ xr d 15 = c ∧ xr d 2 = (scratchBase n + p.scratchBytes.toNat) % 2 ^ 64 ∧
        (∀ r, r ≠ 2 → r < 10 ∨ 15 < r → xr d r = 0) ∧ d.f = [] ∧ d.v = [] ∧ d.fflags = 0 ∧ d.vl = 0 ∧ d.vstart = 0 ∧
        d.vtype = 2 ^ 63 ∧ d.statsink = 0 ∧ d.tmbase = 0 ∧ d.tmshape = 0 ∧ d.tmdst = 0 ∧ d.tmctl = 0) ∧
      (∀ n, n ∉ drvSet die p → droverOf t n = droverOf s n) ∧ MemSame s t [])

/-- A drover that runs fetches the instruction at its pc and executes it. ADDI and ADD write their sum modulo 2^64, LD the eight
bytes at its address, SD stores them, a branch goes to its target when it is taken; each retires, and all but a taken branch go
on at the next instruction. A fetch that fails, or a compressed encoding of no extension of 11 R286, stops the launch.
Where the rules leave a point open it follows the model's readings: DEDUCED, log entry 70. -/
def Obligations.DroversExecuteInstructions : Prop :=
  ∀ (die : CDie) (n : BitVec 6) (f : Faults) (s : State) (j : Job),
    let k := drvKey die.val n.toNat
    let d := droverOf s k
    let cmd : Instr := .droverInstruction die n f
    let checked (s : State) : State := count (modDrover s k (fun d => { d with checks := d.checks + 1 })) (drvUnit k) 0x28 1
    Runs s k j → Quiet s → s.sig.waiters = [] → f.mismatch = 0 → f.hit = none →
    (∀ i len, drvFetch s k j = .inr (i, len) →
      (i % 128 = 0x13 → f3Of i = 0 → exec cmd s = .next (passed (drvNext k j len false
        (setX k (rdOf i) ((xr d (rs1Of i) + immI i) % 2 ^ 64) (checked s))))) ∧
      (i % 128 = 0x33 → f3Of i = 0 → f7Of i = 0 → exec cmd s = .next (passed (drvNext k j len false
        (setX k (rdOf i) ((xr d (rs1Of i) + xr d (rs2Of i)) % 2 ^ 64) (checked s))))) ∧
      (∀ v, i % 128 = 0x03 → f3Of i = 3 → drvLoad s k j ((xr d (rs1Of i) + immI i) % 2 ^ 64) 8 false = .inr v →
        exec cmd s = .next (passed (drvNext k j len false (setX k (rdOf i) v s)))) ∧
      (i % 128 = 0x23 → f3Of i = 3 →
        let a := (xr d (rs1Of i) + immS i) % 2 ^ 64
        meetsSink d k a 8 = false → drvCheck s k j a 8 pWrite false = none →
        exec cmd s = .next (passed (drvNext k j len false (storeLazy s (drvWho k j) a (leBytes 8 (xr d (rs2Of i))))))) ∧
      (i % 128 = 0x63 → f3Of i = 0 → exec cmd s = .next (passed (
        if xr d (rs1Of i) = xr d (rs2Of i) then
          modDrover (drvNext k j len false s) k (fun x => { x with pc := (d.pc + immB i) % 2 ^ 64 })
        else drvNext k j len false s)))) ∧
    (∀ tr p, drvFetch s k j = .inl tr → Calm s [j] → j.phase = .launch → launchOf j = some p →
      ∃ t, exec cmd s = .next t ∧
        Answered s t j { tr.e with checks := launchChecks s (drvSet (uDie j.unit) p), replays := j.replays,
                                   record := [(0x58, launchChecks s (drvSet (uDie j.unit) p))] } ∧
        ((droverOf t k).last.head?.map (fun x => (x.cause, x.pc, x.addr))) = some (tr.cause, d.pc, tr.addr))

/-- `ecall` with a7 = 0 ends its drover with exit code a0, and the last drover of the launch ends it: DONE with the largest exit
code (11 R293); with a7 not 0 it stops the launch BAD_STATE (11 R294). FENCE makes the drover's writes visible when W is in its
successor set (10 R284).
A write of CSR sigwait tests the word at sigaddr in one operation: when its condition holds the wait ends at once with sigwait 0
and the value in sigval; otherwise a waiter is attached and the hart waits, until the condition holds or sigtmo passes, which
leaves 1 in sigwait; 2 is left for a poisoned word and 3 for an address that fails its check (10 R278, R282). A write of statsink
first adds the running values to their slot (11 R300).
Where the rules leave a point open it follows the model's readings: DEDUCED, log entry 70; DEDUCED, log entry 71. -/
def Obligations.DroversExitFenceAndWait : Prop :=
  (∀ (die : CDie) (n : BitVec 6) (succW : Bool) (s : State) (j : Job) (p : PDrvLaunch),
      let k := drvKey die.val n.toNat
      let d := droverOf s k
      let ns := drvSet (uDie j.unit) p
      let s1 := flushSink k j (drvNext k j 4 false s)
      Runs s k j → Calm s [j] → j.phase = .launch → launchOf j = some p → k ∈ ns →
      (xr d 17 = 0 → ns.all (fun m => m == k || (droverOf s m).finished) = false →
        ∃ t, exec (.droverEcallExit die n) s = .next t ∧ jobOf t j.id = some j ∧ (droverOf t k).finished = true ∧
          ((droverOf t k).last.find? (fun x => x.ctx == j.ring / 256)).map (·.exit) = some (xr d 10) ∧
          (∀ x, byteAt t x = byteAt s1 x)) ∧
      (xr d 17 = 0 → ns.all (fun m => m == k || (droverOf s m).finished) = true →
        ∃ t, exec (.droverEcallExit die n) s = .next t ∧
          Answered s1 t j { status := DONE, verdict := if j.replays = 0 then 1 else 3, checks := launchChecks s ns,
                            replays := j.replays, record := [(0x58, launchChecks s ns)]
                            detail := (ns.map (fun m => xr (droverOf s m) 10)).foldl max 0 % 2 ^ 32 } ∧
          (∀ m ∈ ns, (droverOf t m).job = none)) ∧
      (xr d 17 ≠ 0 → ∃ t, exec (.droverEcallExit die n) s = .next t ∧
        Answered s t j { status := BAD_STATE, detail := 0x20, checks := launchChecks s ns, replays := j.replays,
                         record := [(0x58, launchChecks s ns)] } ∧
        ((droverOf t k).last.head?.map (fun x => (x.cause, x.pc))) = some (8, d.pc)) ∧
      exec (.droverFence die n succW) s = .next (passed (drvNext k j 4 false
        (if succW then { s with mem := { s.mem with unseen := s.mem.unseen.filter (fun e => e.unit != drvUnit k) } } else s)))) ∧
  (∀ (die : CDie) (n : BitVec 6) (cond value : Word64) (s : State) (j : Job),
      let k := drvKey die.val n.toNat
      let d := droverOf s k
      let a := d.sigaddr
      let v := word s a
      let cmd : Instr := .sigwait die n cond
      let left (x : Nat) : State := passed (drvNext k j 4 false (modDrover s k (fun d => { d with sigwait := x })))
      Quiet s →
      (Runs s k j → cond.toNat ≤ 3 →
        (signalOk s a = false ∨ access s (j.ring / 256) (drvUnit k) a 8 pRead ≠ none → exec cmd s = .next (left 3)) ∧
        (signalOk s a = true → access s (j.ring / 256) (drvUnit k) a 8 pRead = none →
          (poisonIn s (a / 32 * 32) 32 ≠ none → exec cmd s = .next (left 2)) ∧
          (poisonIn s (a / 32 * 32) 32 = none →
            (condHolds cond.toNat v d.sigval = true → exec cmd s =
              .next (passed (drvNext k j 4 false (modDrover s k (fun d => { d with sigwait := 0, sigval := v }))))) ∧
            (condHolds cond.toNat v d.sigval = false → ∃ t, exec cmd s = .next t ∧ (droverOf t k).waiting = true ∧
              (droverOf t k).pc = (d.pc + 4) % 2 ^ 64 ∧ (∃ poll, ⟨.drover k, a, d.sigval, cond.toNat, poll, drvUnit k, 0xFFFF⟩ ∈ t.sig.waiters) ∧
              MemSame s t [])))) ∧
      (d.waiting = true → exec (.droverWaitTimeout die n) s = .next (passed (modDrover
        { s with sig := { s.sig with waiters := s.sig.waiters.filter (fun w => w.who != .drover k) } } k
        (fun d => { d with waiting := false, sigwait := 1 })))) ∧
      (Runs s k j → s.sig.waiters = [] → value.toNat % 4096 + 32768 * b2n (bit value.toNat 15) = value.toNat →
        (bit value.toNat 15 = true → d.scratch ≤ 1044480) →
        exec (.statsink die n value) s =
          .next (passed (drvNext k j 4 false (modDrover (flushSink k j s) k (fun d => { d with statsink := value.toNat }))))))

/-- A vector store with SEW 32 into the sink of a drover whose statsink is enabled writes no memory: its elements' sum of squares,
max-abs and count join the running values (11 R300). A vector store wholly in the mirror window writes each element and its
mirror at tmdst + column · DST_STRIDE + row · size (11 R302); one outside both windows writes its elements.
Where the rules leave a point open it follows the model's readings: DEDUCED, log entry 70; DEDUCED, log entry 71. -/
def Obligations.VectorStoresFillSinkAndMirror : Prop :=
  ∀ (die : CDie) (n : BitVec 6) (s : State) (j : Job),
    let k := drvKey die.val n.toNat
    let d := droverOf s k
    let w := drvWho k j
    Runs s k j → Quiet s → s.sig.waiters = [] →
    (∀ (off : BitVec 12) (elems : List Word32), bit d.statsink 15 = true → off.toNat % 4 = 0 → elems ≠ [] →
      off.toNat + 4 * elems.length ≤ 4096 →
      let vs := elems.map (fun e => fp32Val e.toNat)
      exec (.sinkStore die n off elems) s = .next (passed (drvNext k j 4 true (modDrover s k (fun d => { d with
        sinkSq := w48Add d.sinkSq (sumSquares vs), sinkMax := maxAbs (d.sinkMax :: vs), sinkCount := d.sinkCount + elems.length }))))) ∧
    (∀ (addr : Word64) (sew : Byte) (elems : List Word64),
      let size := 2 ^ (sew.toNat % 4)
      let es := unitElems addr.toNat size (elems.map (·.toNat))
      let rs := bits d.tmshape 0 32
      let mirror (a : Nat) : Nat :=
        (d.tmdst + (a - d.tmbase) % rs / size * bits d.tmctl 0 32 + (a - d.tmbase) / rs * size) % 2 ^ 64
      let inWin (a : Nat) : Prop := d.tmbase ≤ a ∧ a < d.tmbase + bits d.tmshape 32 32 * rs
      (∀ e ∈ es, meetsSink d k e.1 size = false ∧ drvCheck s k j e.1 size pWrite true = none) →
      (bit d.tmctl 63 = true → size = 2 ^ bits d.tmctl 32 2 →
        (∀ e ∈ es, inWin e.1 ∧ inWin (e.1 + size - 1) ∧ drvCheck s k j (mirror e.1) size pWrite true = none) →
        exec (.mirrorStore die n addr sew elems) s = .next (passed (drvNext k j 4 true
          (es.foldl (fun s e => storeLazy (storeLazy s w e.1 (leBytes size e.2)) w (mirror e.1) (leBytes size e.2)) s)))) ∧
      (bit d.tmctl 63 = false ∨ (∀ e ∈ es, ¬inWin e.1 ∧ ¬inWin (e.1 + size - 1)) →
        exec (.mirrorStore die n addr sew elems) s = .next (passed (drvNext k j 4 true
          (es.foldl (fun s e => storeLazy s w e.1 (leBytes size e.2)) s)))))

/-! ## Chains (11 R303-R305; 05 R141) -/

/-- CHAIN_REDUCE whose table agrees with it opens its chain: the member at position 0 sends its own contribution to the next member
piece by piece and replies, and any other member waits for pieces (11 R304). A table that differs ends it BAD_STATE (11 R305).
CHAIN_RESEND_REQUEST makes the previous member send a piece it has kept again. CHAIN_ABORT ends the member's command: BAD_STATE,
or CHECK_FAILED with the unit the abort names (11 R305; 05 R141).
Where the rules leave a point open it follows the model's readings: DEDUCED, log entry 46. -/
def Obligations.ChainsOpenResendAndAbort : Prop :=
  (∀ (h : Hdr) (p : PChainReduce) (f : Faults) (s : State), let i : Instr := .chainReduce h p f
      let pre := preChainReduce h p s
      let j := jobFor s pre i
      let s1 := begun s i
      let die := uDie j.unit
      let b := tableBytes s1 j.unit p
      let ms := tableMembers b p.length.toNat
      let pos := p.position.toNat
      Calm s [] → Accepts s pre i → chainsOf s die = [] → poisonIn s p.chainAddr.toNat (64 + 8 * p.length.toNat) = none →
      tableBad b p.length.toNat = none →
      (∀ d, tableDiffers s1 die p b = some d → ∃ t, exec i s = .next t ∧ Answered s t j (fails BAD_STATE d)) ∧
      (tableDiffers s1 die p b = none → access s (j.ring / 256) j.unit (fld b 0x10 8) (16 * p.elements.toNat) pWrite = none →
        poisonIn s p.srcAddr.toNat (p.elements.toNat * chainSize p.fmt.toNat) = none →
        (∀ m ∈ ms, m.1 = myDevice s) →
        (pos = 0 → ∀ dev x, ms[1]? = some (dev, x) →
          let s2 := markUndef s1 [(fld b 0x10 8, 16 * p.elements.toNat)]
          let (chk, ab) := pieceSums (ownAll s2 j.unit p)
          ∃ t, exec i s = .next t ∧ Answered s t j (doneChecked 1 0 0x70) ∧
            t.net = s.net ++ (List.range (pieceCount p)).map (fun k => .chain (outMsg p k (ownPiece s2 j.unit p k) chk ab) dev x)) ∧
        (pos ≠ 0 → pos + 1 < p.length.toNat ∨ fld b 0x0E 1 = 0 →
          ∃ t, exec i s = .next t ∧ (jobOf t j.id).map (·.phase) = some (.chain true) ∧
            (openChain t die p.chainId.toNat).map (fun c => (c.job, c.cmd, c.members, c.got, c.sent)) = some (j.id, p, ms, [], []) ∧
            t.net = s.net))) ∧
  (∀ (die : CDie) (id : Word32) (s : State) (c : Chain),
      let d := die.val
      (∀ piece m dev x, Quiet s → (chainsOf s d).find? (fun c => c.cmd.chainId == id) = some c →
        c.sent.find? (fun m => m.piece == piece) = some m → c.members[c.cmd.position.toNat + 1]? = some (dev, x) → dev = myDevice s →
        ∃ t, exec (.chainResendRequest die id piece) s = .next t ∧
          t.net = s.net.erase (.chainResend id.toNat piece (myDevice s) d) ++ [.chain m dev x] ∧ t.mem = s.mem ∧ t.gz = s.gz) ∧
      (∀ (failed : Option Word32) (j : Job), Calm s [j] → openChain s d id.toNat = some c → j.id = c.job → j.phase = .chain true →
        ∃ t, exec (.chainAbort die id failed) s = .next t ∧
          Answered s t j (match failed with | some u => checkFailed u.toNat | none => fails BAD_STATE 0x3C) ∧
          (openChain t d id.toNat).map (·.job) ≠ some c.job))

/-- CHAIN_PIECE: a member combines a piece with its own contribution and sends it on; the last member, when every piece is in and its
check passes, writes the result and replies; a second failure of its check ends the chain CHECK_FAILED with the previous member's
unit, and a piece that does not agree with the table ends it BAD_STATE (11 R304, R305; 05 R141).
Where the rules leave a point open it follows the model's readings: DEDUCED, log entry 46. -/
def Obligations.ChainPiecesAreCombined : Prop :=
  ∀ (die : CDie) (m : ChainMsg) (f : Faults) (s : State) (j : Job) (c : Chain),
    let d := die.val
    let p := c.cmd
    let got := c.got.filter (fun x => x.piece != m.piece) ++ [m]
    let net := s.net.erase (.chain m (myDevice s) d)
    Calm s [j] → openChain s d m.chainId.toNat = some c → j.id = c.job → j.phase = .chain true →
    (∀ x ∈ c.members, x.1 = myDevice s) →
    (pieceAgrees p m = false → ∃ t, exec (.chainPiece die m f) s = .next t ∧ Answered s t j (fails BAD_STATE 0x3C)) ∧
    (pieceAgrees p m = true → m.piece < pieceCount p →
      poisonIn s p.srcAddr.toNat (p.elements.toNat * chainSize p.fmt.toNat) = none →
      (allPieces { c with got := got } = none → ∀ dev x, c.members[p.position.toNat + 1]? = some (dev, x) →
        m.piece + 1 < pieceCount p → p.position.toNat + 1 < p.length.toNat →
        ∃ t, exec (.chainPiece die m f) s = .next t ∧ jobOf t j.id = some j ∧
          t.net = net ++ [.chain (outMsg p m.piece (outPiece s j.unit c m) fZero fZero) dev x]) ∧
      (∀ ms, allPieces { c with got := got } = some ms →
        (f.mismatch = 0 → chainClean p ms = true → p.position.toNat + 1 = p.length.toNat → c.stats = 0 →
          let bs := lastBytes p (ms.flatMap (outPiece s j.unit c))
          partialPoison s p.dstAddr.toNat bs.length = none → Apart [(p.dstAddr.toNat, bs.length)] (replyWrites s j) →
          ∃ t, exec (.chainPiece die m f) s = .next t ∧ Answered s t j (chainEnd c) ∧ t.net = net ∧
            bytesAt t p.dstAddr.toNat bs.length = bs ∧
            MemSame s t ((p.dstAddr.toNat, bs.length) :: replyWrites s j)) ∧
        (f.mismatch ≠ 0 → c.resent = true → p.position.toNat + 1 = p.length.toNat →
          ∃ t, exec (.chainPiece die m f) s = .next t ∧
            Answered s t j { checkFailed (memberUnit c (p.position.toNat - 1)) 2 [(0x70, 2)] with replays := 1 })))


/-! ## Groups (12 R327-R333; 06 R179) -/

/-- Heartbeats and the master role. HEARTBEAT_SEND goes to every position that an up port reaches. A heartbeat makes its sender
live and is noted; a message of a higher term is adopted, and a master that hears one steps down; a peer unheard for 50 ms is
lost, and with it the master that it was (12 R327, R328). An eligible device with a quorum claims the role at the next term when
no master is known, or when the standby no longer hears it; the claim of a higher term, or of an equal term from a lower
position, is followed; a handover moves the role to the successor, which claims it (12 R329-R331).
Where the rules leave a point open it follows the model's readings: DEDUCED, log entry 53. -/
def Obligations.GroupsElectAMaster : Prop :=
  ∀ (m : GroupMsg) (s : State),
    let pos := m.srcPos.toNat
    let me := myPos s
    let a := m.arg0.toNat
    let term := max s.grp.term m.term.toNat
    let claimed (t : State) (n : Nat) : Prop := t.grp.term = (n + 1) % 2 ^ 32 ∧ t.grp.master = some me ∧ t.dir.staged = none
    Idle s →
    exec .heartbeatSend s = .next (passed (sendGroups 1 ((otherPos s).filter (fun p => reachable s (deviceOf s p)))
      (b2n (eligible s) + 16 * s.grp.master.getD 0xF) 0 s.grp.checkpoint [] s)) ∧
    (ofGroup s m = true → reachable s (deviceOf s pos) = true →
      let kept := if s.grp.term < m.term.toNat ∧ s.grp.master = some me then none else s.grp.master
      ∃ t, exec (.heartbeat m) s = .next t ∧ t.grp.term = term ∧
        t.grp.master = (if kept = none ∧ bits a 4 4 = pos ∧ m.term.toNat = term then some pos else kept) ∧
        peerOf t pos = { live := true, lost := false, eligible := bit a 0, dirEpoch := m.dirEpoch.toNat, masterSeen := bits a 4 4,
                         liveSince := if (peerOf s pos).live then (peerOf s pos).liveSince else s.now } ∧
        (∀ q, q ≠ pos → peerOf t q = peerOf s q) ∧ t.grp.checkpoint = max s.grp.checkpoint m.arg2.toNat ∧
        t.grp.remapSeen = max s.grp.remapSeen m.remapEpoch.toNat) ∧
    (∀ q : BitVec 4,
      ((peerOf s q.toNat).live = true → ∃ t, exec (.peerLossTimer q) s = .next t ∧
        (peerOf t q.toNat).live = false ∧ (peerOf t q.toNat).lost = true ∧ (∀ r, r ≠ q.toNat → peerOf t r = peerOf s r) ∧
        t.grp.master = (if s.grp.master = some q.toNat then none else s.grp.master) ∧
        (∀ b ∈ t.grp.barriers, bit b.members q.toNat = false)) ∧
      ((peerOf s q.toNat).live = false → exec (.peerLossTimer q) s = .next (passed s))) ∧
    (s.grp.master = none →
      ((livePeers s).length + 1 = groupSize s ∨ s.grp.firstUp.any (fun t => t + 100000000 ≤ s.now) = true) →
      mayClaim s none = true → ∃ t, exec .masterClaim s = .next t ∧ claimed t s.grp.term) ∧
    (s.grp.master ≠ none ∨ mayClaim s none = false → exec .masterClaim s = .next (passed s)) ∧
    (s.grp.master ≠ some me → mayClaim s s.grp.master = true → ∃ t, exec .standbyClaim s = .next t ∧ claimed t s.grp.term) ∧
    (s.grp.master = some me ∨ mayClaim s s.grp.master = false → exec .standbyClaim s = .next (passed s)) ∧
    (ofGroup s m = true → ∃ t, exec (.claim m) s = .next t ∧ t.grp.term = term ∧
      t.grp.master = (if s.grp.term < m.term.toNat ∨
          (s.grp.term = m.term.toNat ∧ (s.grp.master = none ∨ ∃ p, s.grp.master = some p ∧ pos < p)) then some pos
        else s.grp.master)) ∧
    (∀ successor : BitVec 4, exec (.handover none successor) s = .next (passed (if mayHandOver s successor.toNat then
        sendGroup 3 successor.toNat successor.toNat 0 0 [] s else s))) ∧
    (∀ successor : BitVec 4, ofGroup s m = true → s.grp.master = some pos → a = me → eligible s = true →
      ∃ t, exec (.handover (some m) successor) s = .next t ∧ claimed t term)

/-- Barriers: GRP_BARRIER waits, its arrival goes to the active master, and it replies DONE when every member has arrived, or
BAD_STATE when the members disagree; it ends PEER_LOST when a member is lost (12 R328, R332, R333). Directory updates: a prepared
update is staged and acknowledged once no round of its layers is open; the master commits when every live member has
acknowledged; an update that is aborted, or whose bound expires, is discarded, and its command ends TIMEOUT (06 R179).
Where the rules leave a point open it follows the model's readings: DEDUCED, log entry 51; DEDUCED, log entry 52. -/
def Obligations.BarriersAndDirectoryUpdates : Prop :=
  (∀ (h : Hdr) (p : PGrpBarrier) (s : State), let i : Instr := .grpBarrier h p
    let pre := preGrpBarrier h p s
    let j := jobFor s pre i
    let id := p.barrierId.toNat
    let mem := p.members.toNat
    let me := myPos s
    let lost := (maskPos mem).find? (fun x => x != me && (peerOf s x).lost)
    Calm s [] → Accepts s pre i →
    (∀ x, lost = some x → exec i s = .next (replied s pre i (begun s i) (fails PEER_LOST x))) ∧
    (lost = none →
      (s.grp.master = none → exec i s = .next (passed (park (begun s i) j .barrier))) ∧
      (∀ q, s.grp.master = some q → q ≠ me →
        exec i s = .next (passed (sendGroup 4 q id mem 0 [] (park (begun s i) j .barrier)))) ∧
      (s.grp.master = some me → s.grp.barriers = [] → s.grp.waiting = [] →
        (mem = 2 ^ me → ∃ t, exec i s = .next t ∧ Answered s t j (done 0)) ∧
        (mem ≠ 2 ^ me → ∃ t, exec i s = .next t ∧ (jobOf t j.id).map (·.phase) = some .barrier ∧
          t.grp.barriers = [⟨id, mem, [me]⟩])))) ∧
  (∀ (m : GroupMsg) (s : State),
    let pos := m.srcPos.toNat
    let id := m.arg0.toNat
    let mem := m.arg1.toNat
    let me := myPos s
    ofGroup s m = true →
    (isMaster s = true → s.grp.waiting = [] →
      (Idle s → s.grp.barriers.find? (fun b => b.id == id) = none → s.grp.barriers.length < 64 →
        (maskPos mem).all (fun p => p == pos) = false →
        exec (.barrierArrive m) s = .next (passed { s with grp := { s.grp with barriers := s.grp.barriers ++ [⟨id, mem, [pos]⟩] } })) ∧
      (∀ j b, Calm s [j] → s.grp.barriers.find? (fun b => b.id == id) = some b →
        (barrierCmd j = some (id, mem) → b.members = mem → bit mem me = true →
          (maskPos mem).all (fun p => p == pos || b.arrived.contains p) = true →
          ∃ t, exec (.barrierArrive m) s = .next t ∧ Answered s t j (done 0) ∧
            t.grp.barriers = s.grp.barriers.filter (fun b => b.id != id) ∧
            amGet 0 t.grp.instances id = amGet 0 s.grp.instances id + 1) ∧
        (∀ n, barrierCmd j = some (id, n) → n ≠ 0 → b.members ≠ mem → bit (b.members ||| mem) me = true →
          ∃ t, exec (.barrierArrive m) s = .next t ∧ Answered s t j (fails BAD_STATE 0x24)))) ∧
    (∀ j n, s.grp.master = some pos → Calm s [j] → barrierCmd j = some (id, n) →
      ∃ t, exec (.barrierRelease m) s = .next t ∧ Answered s t j (if n = mem then done 0 else fails BAD_STATE 0x24))) ∧
  (∀ (q : BitVec 4) (s : State) (j : Job) (id mem : Nat), Calm s [j] → s.ws = [] → s.cf = [] → s.chains = [] → s.dir.job = none →
    q.toNat ≠ myPos s → (peerOf s q.toNat).live = true → barrierCmd j = some (id, mem) → bit mem q.toNat = true →
    ∃ t, exec (.peerLossTimer q) s = .next t ∧ Answered s t j (fails PEER_LOST q.toNat)) ∧
  (∀ (m : GroupMsg) (es : List DirEntry) (s : State),
    let pos := m.srcPos.toNat
    let staged (a : Bool) : State := { hear m s with dir := { (hear m s).dir with staged := some ⟨es, m.dirEpoch.toNat + 1, a⟩ } }
    let final (st : Staged) (t : State) (e : Nat) : Prop :=
      t.dir.staged = none ∧ t.dir.epoch = e ∧ t.dir.entries = st.entries.foldl putEntryDir s.dir.entries
    (Idle s → fromMaster s m = true →
      (m.arg0.toNat = es.length → exec (.dirPrepare m es) s = .next (passed (if roundOpen s es then staged false
        else sendGroup 7 pos (m.dirEpoch.toNat + 1) 0 0 [] (staged true)))) ∧
      (∀ st, s.dir.staged = some st → ∃ t, exec (.dirCommit m) s = .next t ∧ final st t m.arg0.toNat) ∧
      (∃ t, exec (.dirAbort m) s = .next t ∧ t.dir.staged = none ∧ t.dir.epoch = s.dir.epoch ∧ t.dir.entries = s.dir.entries)) ∧
    (Idle s → ∃ t, exec .dirStageDiscard s = .next t ∧ t.dir.staged = (if isMaster s then s.dir.staged else none) ∧
      t.dir.epoch = s.dir.epoch ∧ t.dir.entries = s.dir.entries) ∧
    (∀ j, Calm s [j] → j.phase = .dirUpdate → s.dir.job = some j.id →
      (∀ st, ofGroup s m = true → isMaster s = true → s.dir.staged = some st → st.acked = true → st.epoch = m.arg0.toNat →
        ((livePeers s).all (fun p => p == pos || s.dir.acks.contains p) = true →
          ∃ t, exec (.dirAck m) s = .next t ∧ Answered s t j (done 0) ∧ final st t st.epoch) ∧
        ((livePeers s).all (fun p => p == pos || s.dir.acks.contains p) = false →
          exec (.dirAck m) s = .next (passed { s with dir := { s.dir with acks := s.dir.acks.filter (· != pos) ++ [pos] } }))) ∧
      (∃ t, exec .dirPrepareExpiry s = .next t ∧ Answered s t j (fails TIMEOUT 0) ∧ t.dir.staged = none ∧
        t.dir.entries = s.dir.entries)))

/-! ## Orders and configuration items (02 R64-R67, R415; 13 R339) -/

/-- Orders join their windows. An accepted order that its kernel turns away (02 R415, R416; 06 R178, R182), or for whose entry the
ledger has no room (BUSY_DEFER, 13 R358), ends at once and opens no window; any other stays in flight with its effect in the
window of each of its objects, opened with it or already open (02 R64-R66). In each case no item, no unit, no engine and no
byte of memory outside its reply changes.
Where the rules leave a point open it follows the model's readings: DEDUCED, log entry 24; DEDUCED, log entry 28. -/
def Obligations.OrdersJoinTheirWindows : Prop :=
  ∀ (i : Instr) (s : State), isOrder i = true →
    let pre := preOf s i
    let j := jobFor s pre i
    let b := begun s i
    let rest (t : State) : Prop := t.hw.items = s.hw.items ∧ t.hw.health = s.hw.health ∧ SameEngines s t ∧ t.pending = s.pending ∧
      MemSame s t (replyWrites s j)
    Calm s [] → Accepts s pre i →
    (∀ h p, i = .grpDirectoryUpdate h p → rangesTrain s [(0, p.entriesAddr.toNat, 48 * p.count.toNat, 0)] = false) →
    (∀ e, orderStop b j = some e → ∃ t, exec i s = .next t ∧ Answered s t j e ∧ t.gz.windows = s.gz.windows ∧ rest t) ∧
    (orderStop b j = none → ledgerRoom s = false →
      ∃ t, exec i s = .next t ∧ Answered s t j (fails BUSY_DEFER 4) ∧ t.gz.windows = s.gz.windows ∧ rest t) ∧
    (orderStop b j = none → ledgerRoom s = true →
      ∃ t, exec i s = .next t ∧ (jobOf t j.id).map (·.phase) = some .inWindow ∧ rest t ∧
        (∀ o ∈ ordersOf b j, ∃ w, windowOf t o.1 = some w ∧ ⟨j.origin, j.ring / 256, o.2.1, o.2.2, some j.id⟩ ∈ w.orders) ∧
        (∀ obj, (∀ o ∈ ordersOf b j, o.1 ≠ obj) → windowOf t obj = windowOf s obj))

/-- A window closes on its winner. The winner has the highest rank, among those the lowest origin ID, and among those joined last
(02 R67). The winner of an item's window is applied or refused; a packet that lost in conflict ends SUPERSEDED with the
winner's origin, one with the winner's effect ends as the winner does (02 R65). A context's window creates it from its tables
or destroys it (02 R33, R416), a channel's maps it out or trains it (08 R246, R248, R250), the device's applies a remap epoch (08 R252), a
slot's writes the image that verifies (13 R346), a unit's tests it (14 R382), and a directory entry's lets its update be prepared
(06 R179).
Where the rules leave a point open it follows the model's readings: DEDUCED, log entry 24; DEDUCED, log entry 28. -/
def Obligations.WindowsCloseOnTheirWinner : Prop :=
  (∀ (os : List Order), (os = [] ↔ winnerOf os = none) ∧
    (∀ w, winnerOf os = some w → w ∈ os ∧
      (∀ o ∈ os, orderRank w.origin ≤ orderRank o.origin ∧ (orderRank w.origin = orderRank o.origin → w.origin ≤ o.origin)) ∧
      (∀ pre o, os = pre ++ [o] → o.origin = w.origin → o = w))) ∧
  (∀ (obj : OrderObj) (f : Faults) (s : State), Idle s →
    (windowOf s obj = none → exec (.intakeWindowClose obj f) s = .next (passed s)) ∧
    (∀ os u it w, Bare s → obj = .item u it → itemOn u.toNat it.toNat = true → (∀ o ∈ os, o.job = none) → windowOf s obj = some ⟨obj, os, none⟩ → winnerOf os = some w →
      ((itemCheck s w.origin u.toNat it.toNat w.value).orElse (fun _ => itemState s u.toNat it.toNat w.value) = none →
        ∃ t, exec (.intakeWindowClose obj f) s = .next t ∧ windowOf t obj = none ∧ ItemTook s t u.toNat it.toNat w.value) ∧
      (∀ e, (itemCheck s w.origin u.toNat it.toNat w.value).orElse (fun _ => itemState s u.toNat it.toNat w.value) = some e →
        ∃ t, exec (.intakeWindowClose obj f) s = .next t ∧ windowOf t obj = none ∧ t.hw.items = s.hw.items))) ∧
  (∀ (f : Faults) (s : State) (j : Job) (o : Order), o.job = some j.id →
    let closes (obj : OrderObj) (e : End) (P : State → Prop) : Prop :=
      Waits s j obj [o] → ∃ t, exec (.intakeWindowClose obj f) s = .next t ∧ windowOf t obj = none ∧ Answered s t j e ∧ P t
    let c := j.ring / 256
    (∀ h p, j.cmd = .cfgWrite h p → let u := p.unitId.toNat
      let it := p.item.toNat
      let stop := (itemCheck s o.origin u it o.value).orElse (fun _ => itemState s u it o.value)
      (itemOn u it = true → (it = iCtx0Ring → bits o.value 56 8 ≠ j.ring) → stop = none →
        closes (.item p.unitId p.item) (done 0) (fun t => ItemTook s t u it o.value)) ∧
      (∀ e, stop = some e → closes (.item p.unitId p.item) e (fun t => t.hw.items = s.hw.items)) ∧
      (∀ w : Order, w.job = none → winnerOf [o, w] = some w → sameEffect w o = false →
        Waits s j (.item p.unitId p.item) [o, w] → ∃ t, exec (.intakeWindowClose (.item p.unitId p.item) f) s = .next t ∧
          Answered s t j { fails SUPERSEDED w.origin with origin := some w.origin })) ∧
    (∀ h p, j.cmd = .ctxCreate h p → let x := p.ctx.toNat
      c ≠ x → p.rings.toNat ≤ 256 → (ctxOf s x).live = false → tablesStop p j.unit s = none → closes (.ctx p.ctx) (done 0) (fun t =>
        (ctxOf t x).live = true ∧ (ctxOf t x).cls = p.cls.toNat ∧ (ctxOf t x).perms = p.perms.toNat ∧
        (ctxOf t x).defTimeout = (if p.defaultTimeout = 0 then 100000 else p.defaultTimeout.toNat) ∧
        (ctxOf t x).units = unitsAt p j.unit s ∧
        (ctxOf t x).extents = extentsOf (entriesAt s j.unit p.extentTable.toNat 32 256) ∧
        ∀ r < p.rings.toNat, ringOf t (256 * x + r) = readRing (readBytes s j.unit (p.ringTable.toNat + 32 * r) 32))) ∧
    (∀ h p, j.cmd = .ctxDestroy h p → let x := p.ctx.toNat
      ((ctxOf s x).live = false → closes (.ctx p.ctx) (fails BAD_STATE 0x20) (fun t => (ctxOf t x).live = false)) ∧
      (c ≠ x → (ctxOf s x).live = true → closes (.ctx p.ctx) (done 0) (fun t =>
        (ctxOf t x).live = false ∧ ∀ k, k / 256 = x → ringExists s k = true → (ringOf t k).state = .closed))) ∧
    (∀ h p, j.cmd = .mapOut h p → let ch := p.channel.toNat
      (p.mode = 0 → softStop s ch = none → closes (.channel p.channel) (done 0) (fun t =>
        (sideOf t (channelSide ch)).front = some 0 ∧ (sideOf t (channelSide ch)).outgoing = chanNo ch)) ∧
      (∀ e, p.mode = 0 → softStop s ch = some e → closes (.channel p.channel) e (fun t => t.mem.sides = s.mem.sides)) ∧
      (p.mode ≠ 0 → (chan s ch).state = .inService → closes (.channel p.channel) (done 0) (fun t => (chan t ch).state = .lost)) ∧
      (p.mode ≠ 0 → (chan s ch).state = .lost → closes (.channel p.channel) (fails BAD_STATE 0x20) (fun t => (chan t ch).state = .lost))) ∧
    (∀ h p, j.cmd = .remapEpoch h p →
      (p.epoch.toNat ≤ s.grp.remapEpoch → closes .device (fails BAD_STATE 0x20) (fun t => t.grp.remapEpoch = s.grp.remapEpoch)) ∧
      (s.grp.remapEpoch < p.epoch.toNat → closes .device (done (affectedSides s).length) (fun t => t.grp.remapEpoch = p.epoch.toNat))) ∧
    (∀ h p g, j.cmd = .fwLoad h p g → let n := p.slot.toNat
      let b := readBytes s j.unit p.imageAddr.toNat p.bytes.toNat
      let ok := imageOk s b (g.cryptoBad || f.cryptoBad)
      (s.tr.bootSlot = n → closes (.slot p.slot) (fails BAD_STATE 0x2C) (fun t => t.flash.slot0 = s.flash.slot0 ∧ t.flash.slot1 = s.flash.slot1)) ∧
      (s.tr.bootSlot ≠ n → poisonIn s p.imageAddr.toNat p.bytes.toNat = none →
        (ok = true → closes (.slot p.slot) (done 0) (fun t => fwSlot t n = slotOf b .next ∧ fwSlot t (1 - n) = unmark (fwSlot s (1 - n)))) ∧
        (ok = false → closes (.slot p.slot) (fails BAD_STATE 0x20) (fun t => t.flash.slot0 = s.flash.slot0 ∧ t.flash.slot1 = s.flash.slot1)))) ∧
    (∀ h p g, j.cmd = .selftestUnit h p g → let u := p.unitId.toNat
      let bad := (g.testFails ++ f.testFails).find? (fun x => x.1.toNat == u)
      u ≠ wholeDevice → uKind u ≠ 0xD → unitIdle s u = true → testStop s u (p.level = 1) = none →
      (bad = none → closes (.unit p.unitId) (done 0) (fun t => ((health s u).ready = true → (health t u).ready = true) ∧
        ((health s u).ready = false → (health s u).retired = false → (health t u).probation = true))) ∧
      (∀ x, bad = some x → closes (.unit p.unitId) (unitFault u) (fun t =>
        (health t u).ready = false ∧ (health t u).quarantined = true ∧ (health t u).lastTest = x.2.toNat))) ∧
    (∀ h p, j.cmd = .calibrateChannel h p → let ch := p.channel.toNat
      Waits s j (.channel p.channel) [o] → ∃ t, exec (.intakeWindowClose (.channel p.channel) f) s = .next t ∧
        (jobOf t j.id).map (·.phase) = some .retrain ∧
        ((sideOf s (channelSide ch)).retraining = none → (chan t ch).training = true)) ∧
    (∀ h p k, j.cmd = .grpDirectoryUpdate h p → let es := updateEntries s j.unit p
      s.dir.job = none → s.dir.staged = none → updateBad s es = none →
      (∀ w ∈ s.gz.windows, w.obj ≠ .dirKey k → ∀ x ∈ w.orders, x.job ≠ some j.id) →
      Waits s j (.dirKey k) [o] → ∃ t, exec (.intakeWindowClose (.dirKey k) f) s = .next t ∧
        (jobOf t j.id).map (·.phase) = some .dirUpdate ∧ t.dir.job = some j.id ∧ t.dir.staged = some ⟨es, s.dir.epoch + 1, false⟩ ∧
        t.dir.entries = s.dir.entries))

/-- The kernel gate checks a call in order (13 R339): its kind and caller, its object and field, its value, and room for its
ledger entry; the first check it fails is its answer and nothing else changes. An accepted read answers the item; a write joins the
item's window; a tap, a rail or a retirement is set; an append is ledgered.
A write of a configuration item takes effect when the item is defined for its unit, its value passes its checks, its state
conditions hold and the ledger has room (02 R415): the item then holds the value without its reserved bits, and what its own
rule says a write sets is set; the other items are as before. A write that is refused changes no item, and one for whose
entry the ledger has no room changes nothing. The writes are the rows PACE_CAP, WDOG_DELAY, CTX0_EXTENT, CTX0_RING, its
removal, CHECK_LIMIT, SEG_LIMIT, COMBINE_AREA, FACTOR_TABLE, OVERLAP, STAT_TABLE, MAPOUT_POLICY, PORT_CFG, INGEST_CFG,
GROUP_CFG, DEBUG_CFG, MGMT_NET, TIME_OF_DAY, TOD_CFG, MARGIN_CFG, ROTATE_CFG, CNT_SEL, its clear, and SNAP_RING.
Where the rules leave a point open it follows the model's readings: DEDUCED, log entry 26; DEDUCED, log entry 27. -/
def Obligations.GateAndItemWrites : Prop :=
  (∀ (die : Die) (c : GateCall) (s : State), Idle s →
      let d := die.val
      let o := c.origin.toNat
      let u := c.object.toNat
      let fld := c.field.toNat
      let v := gateValue c
      let answers (e : End) (read : List Nat) (P : State → Prop) : Prop :=
        ∃ t, exec (.kernelGateCall die c) s = .next t ∧ amFind t.tr.gate d = some (e.status, e.detail, read) ∧ P t
      let refused (e : End) : Prop := answers e [] (fun t => t.hw.items = s.hw.items ∧ t.hw.health = s.hw.health ∧
        t.gz.windows = s.gz.windows ∧ t.flash.taps = s.flash.taps ∧ t.flash.rails = s.flash.rails ∧ t.mem = s.mem)
      (gateAllows c.kind o = false → refused (fails NO_PERMISSION 0)) ∧
      (gateAllows c.kind o = true → gateTarget c.kind u fld = false → refused (fails NO_PERMISSION (if c.kind = .write then 0x24 else 0))) ∧
      (gateAllows c.kind o = true → gateTarget c.kind u fld = true →
        (∀ e, gateRange s c = some e → refused e) ∧
        (gateRange s c = none →
          (c.kind ≠ .read → ledgerRoom s = false → refused (fails BUSY_DEFER 4)) ∧
          (c.kind = .read → answers (done 0) (gateRead s u fld) (fun t => t.hw.items = s.hw.items ∧ t.mem = s.mem)) ∧
          (ledgerRoom s = true →
            (c.kind = .write → answers (done 0) [] (fun t => t.hw.items = s.hw.items ∧
              ∃ w, windowOf t (.item c.object c.field) = some w ∧ ⟨o, c.ctx.toNat, 0x0F02, v, none⟩ ∈ w.orders)) ∧
            (c.kind = .tap → answers (done 0) [] (fun t => tapOf t u = c.value.toNat ∧ ∀ x, x ≠ u → tapOf t x = tapOf s x)) ∧
            (c.kind = .rail → answers (done 0) [] (fun t => railOf t (uDie u) = c.value.toNat ∧
              ∀ x, x ≠ uDie u → railOf t x = railOf s x)) ∧
            (c.kind = .retire → answers (done 0) [] (fun t =>
              (isRegion u = true → (health t u).retired = true ∧ (health t u).ready = false) ∧
              (isCdBlock u = true → (dieOf t (uDie u)).dieRetired = true ∧ (dieOf t (uDie u)).state = 4 ∧
                ∀ x ∈ dieUnits (uDie u), (health t x).ready = false))) ∧
            (c.kind = .append → answers (done 0) [] (fun t => t.hw.items = s.hw.items ∧
              (s.tr.ledgerOpen = true → s.tr.nextSeq < t.tr.nextSeq))))))) ∧
  (∀ (i : Instr) (it : Nat) (w : ItemWrite) (x : Nat) (s : State), writeOf i = some (it, w, x) → Idle s → Bare s →
      let u := w.unit.toNat
      let v := x &&& itemMask it
      let defined := uidValid u && itemOn u it
      let stop := (itemCheck s w.origin.toNat u it v).orElse (fun _ => itemState s u it v)
      let same (t : State) : Prop := t.hw.items = s.hw.items ∧ t.hw.wdog = s.hw.wdog ∧ t.hw.factor = s.hw.factor ∧
        t.hw.counters = s.hw.counters ∧ t.snap = s.snap ∧ t.gz.rings = s.gz.rings ∧ t.link = s.link ∧ t.mem = s.mem
      (defined = true → ledgerRoom s = true → stop = none → ∃ t, exec i s = .next t ∧ ItemTook s t u it v ∧
        (it ≠ iPortCfg → it ≠ iGroupCfg → ItemsElse s t u it v)) ∧
      (defined = false ∨ (ledgerRoom s = true ∧ stop ≠ none) → ∃ t, exec i s = .next t ∧ same t) ∧
      (defined = true → ledgerRoom s = false → exec i s = .next (passed s)))


/-! ## Rings at work (02 R40, R45-R47; 14 R374) -/

/-- A ring fetches the packet at its FETCH position (02 R40, R45): with less than a whole packet announced nothing happens; a
poisoned header or LEN 255 stops the ring with its reply (R42, R417); a packet that fails a check is answered with it, and
one that passes is dispatched, or waits while the ring is blocked (R46); FETCH moves past it. A unit takes, across the rings that wait for
it, first a ring of no bubble tenant, then the highest PRIO, then the nearest after the ring it served last (R47). A command that
waits for readiness goes to its unit once its units are ready (14 R374).
Where the rules leave a point open it follows the model's readings: DEDUCED, log entry 29. -/
def Obligations.RingsFetchAndDispatch : Prop :=
  (∀ (c r : Byte) (s : State),
    let key := 256 * c.toNat + r.toNat
    let ring := ringOf s key
    let a := ring.replyBase + ring.replyTail
    let header := ringBytes s key ring.fetch 32
    let len := fld header 2 1
    let b := ringBytes s key ring.fetch (32 + 16 * len)
    let next := (ring.fetch + b.length) % ringSize ring
    let i := (readPacket b).getD (.nop (readHdr b))
    let s1 := modRing s key (fun x => { x with fetch := next })
    let bad := judge s1 key i b (ringPoison s ring (ring.fetch + 32) (16 * len))
    let answers (seq : Nat) (e : End) (t : State) : Prop := (ringOf t key).replyTail = (ring.replyTail + 32) % replySize ring ∧
      ((hdrOf i).doneAddr = 0 → bytesAt t a 32 = replyBytes seq (ringOrigin s c.toNat r.toNat) 0 e)
    let e := exec (.packetFetch c r) s
    (Calm s [] ∨ ∃ j, Calm s [j] ∧ j.phase = .inWindow) → Bare s → ringOpen s key = true → stalled s key = false →
    ring.passOver = none →
    (announced ring < 32 → e = .next (passed s)) ∧
    (32 ≤ announced ring →
      (∀ ch, ringPoison s ring ring.fetch 32 = some ch → ∃ t, e = .next t ∧ (ringOf t key).state = .stopped ∧
        (ringOf t key).fetch = ring.fetch ∧ bytesAt t a 32 = replyBytes 0 (ringOrigin s c.toNat r.toNat) 0 (fails MEMORY_POISONED ch)) ∧
      (ringPoison s ring ring.fetch 32 = none →
        (len = 255 → ∃ t, e = .next t ∧ (ringOf t key).state = .stopped ∧ (ringOf t key).fetch = ring.fetch ∧
          ((readHdr header).doneAddr = 0 → bytesAt t a 32 =
            replyBytes (readHdr header).seq.toNat (ringOrigin s c.toNat r.toNat) 0 (fails BAD_LENGTH 255))) ∧
        (len ≠ 255 → announced ring < 32 + 16 * len → e = .next (passed s)) ∧
        (len ≠ 255 → 32 + 16 * len ≤ announced ring →
          (∀ x, bad = some x → ∃ t, e = .next t ∧ answers (hdrOf i).seq.toNat x t ∧ (ringOf t key).fetch = next ∧ t.gz.jobs = s.gz.jobs) ∧
          (bad = none → blocked s1 key i = true → ∃ t, e = .next t ∧ (ringOf t key).fetch = next ∧ t.gz.jobs = s.gz.jobs ∧
            (ringOf t key).waiting = [⟨i, ring.fetch, next, true⟩]) ∧
          (bad = none → blocked s1 key i = false → e = .next (goOn s.gz.nextJob (dispatch (preOf s1 i) (runOf i) i key ring.fetch next
            (count s1 (ringCore s1 key) 0x10 1)))))))) ∧
  (∀ (last : Nat) (l : List (Nat × Bool × Nat)), (l = [] ↔ chooseRing last l = none) ∧
    (∀ x, chooseRing last l = some x → x ∈ l ∧ ∀ y ∈ l, (x.2.1 = true → y.2.1 = true) ∧
      (x.2.1 = y.2.1 → y.2.2 ≤ x.2.2 ∧ (x.2.2 = y.2.2 → rrDist last x.1 ≤ rrDist last y.1)))) ∧
  (∀ (unit : Word32) (part : Byte) (s : State),
    let u := unit.toNat
    let e := exec (.packetDispatch unit part {}) s
    (Calm s [] → Bare s → waitingFor s u part.toNat = [] → e = .next (passed s)) ∧
    (∀ x p rest, chooseRing (lastServed s u part.toNat) (waitingFor s u part.toNat) = some x →
      (ringOf s x.1).waiting = p :: rest → p.parsed = true →
      let s1 := modRing (serve s u part.toNat x.1) x.1 (fun r => { r with waiting := [] })
      e = .next (goOn s.gz.nextJob (modRing (dispatch (preOf s1 p.cmd) (runOf p.cmd) p.cmd x.1 p.off p.next s1) x.1
        (fun r => { r with waiting := r.waiting ++ rest }))))) ∧
  (∀ (unit : Word32) (s : State) (j : Job), Calm s [j] → Bare s → j.phase = .waitReady →
    let pre := preOf s j.cmd
    let e := exec (.waitReadyDispatch unit {}) s
    ((pre.ready ++ sidesOf pre).contains unit.toNat = true → notReady s pre = none →
      e = .next (goOn s.gz.nextJob (outcome j (runOf j.cmd j s)))) ∧
    (notReady s pre ≠ none → j.id < s.gz.nextJob → e = .next (passed s)))

/-! ## Watchdogs (01 R26-R28) -/

/-- A watchdog expiry ends the operation that waits at the boundary with TIMEOUT, DETAIL the silent unit and the origin of its die's
hardware, and the silent unit is reset: not ready, the handshake abandoned; a handshake into a field takes the field out of
service (04 R119). A receiver that reports ready in time is ready again, one that does not is failed. A late acknowledge is
counted and changes nothing else (01 R28).
Where the rules leave a point open it follows the model's readings: DEDUCED, log entry 31; DEDUCED, log entry 66. -/
def Obligations.WatchdogsEndAndReset : Prop :=
  (∀ (unit : Word32) (part b : Byte) (silent : Word32) (s : State),
    let u := unit.toNat
    let r := silent.toNat
    let field := uKind u = 1 ∧ 16 ≤ b.toNat ∧ b.toNat < 32
    let f := uid 2 (uDie u) (16 * uInst u + (b.toNat - 16))
    let e := exec (.watchdogExpiry unit part b silent) s
    let reset (t : State) : Prop := (u, b.toNat, r) ∈ t.hw.abandoned ∧ (health t r).ready = false ∧
      ((health s r).ready = true → (health t r).resetting = true)
    Bare s →
    (¬field → Idle s → operationOf s u part.toNat = none → ∃ t, e = .next t ∧ reset t ∧ t.mem = s.mem) ∧
    (¬field → ∀ j, Calm s [j] → operationOf s u part.toNat = some j → (j.phase = .parked ∨ ∃ p, j.phase = .waitSignal p) →
      ∃ t, e = .next t ∧ reset t ∧ Answered s t j { fails TIMEOUT r with origin := some (hwOrigin (uDie r)) }) ∧
    (field → Idle s → ∃ t, e = .next t ∧ (u, b.toNat, f) ∈ t.hw.abandoned ∧ (health t f).ready = false ∧ t.mem = s.mem)) ∧
  (∀ (unit : Word32) (b : Byte) (completed : Bool) (s : State), Idle s →
    let u := unit.toNat
    let e := exec (.receiverResetExpiry unit b completed) s
    (s.hw.abandoned.find? (fun a => a.1 == u && a.2.1 == b.toNat) = none → e = .next (passed s)) ∧
    (∀ r, s.hw.abandoned.find? (fun a => a.1 == u && a.2.1 == b.toNat) = some (u, b.toNat, r) →
      let h := health s r
      let left := s.hw.abandoned.filter (· != (u, b.toNat, r))
      (completed = true → h.resetting = true → left.any (fun a => a.2.2 == r) = false →
        (h.failed || h.quarantined || h.retired || h.testing || h.probation) = false →
        ∃ t, e = .next t ∧ t.hw.abandoned = left ∧ (health t r).ready = true ∧ (health t r).resetting = false) ∧
      (completed = false → ∃ t, e = .next t ∧ t.hw.abandoned = left ∧ (health t r).failed = true ∧ (health t r).ready = h.ready ∧
        (health t r).resetting = false))) ∧
  (∀ (unit : Word32) (b : Byte) (s : State), Idle s →
    let u := unit.toNat
    ∃ t, exec (.lateAcknowledge unit b) s = .next t ∧
      amGet 0 t.hw.lateAcks (256 * u + b.toNat) = amGet 0 s.hw.lateAcks (256 * u + b.toNat) + 1 ∧
      (uKind u = 0xF → countOf t u 0x18 = countOf s u 0x18 + 1) ∧
      t.hw.health = s.hw.health ∧ t.hw.abandoned = s.hw.abandoned ∧ t.mem = s.mem ∧ t.gz = s.gz)

/-! ## Channels (08 R232, R240-R249) -/

/-- A channel parks a request while it trains, and otherwise serves it: a read leaves memory, and an uncorrectable block is
poisoned; a write stores its bytes in the block and nothing else, but for a lost channel or a partial write of a poisoned block, where
nothing is stored (08 R232, R240, R241, R244). A patrol read stores nothing.
Where the rules leave a point open it follows the model's readings: DEDUCED, log entry 35. -/
def Obligations.ChannelsServeAndScrub : Prop :=
  ∀ (ch : Word32) (s : State), Calm s [] →
    let u := ch.toNat
    (∀ (r : ChanReq) (e : Ecc),
      let b := r.block.toNat / 32
      let go := exec (.channelRequest ch r e) s
      let bad := chanPoisoned (chan s u) || blockPoisoned s b
      (onChannel s u b = false → go = .next (passed s)) ∧
      (onChannel s u b = true → (chan s u).training = true → ∃ t, go = .next t ∧ (chan t u).queue = (chan s u).queue ++ [(r, s.now)] ∧
        MemSame s t []) ∧
      (onChannel s u b = true → (chan s u).training = false →
        (r.write = none → ∃ t, go = .next t ∧ MemSame s t [] ∧ (bad = false →
          (e = .corrected → countOf t u 0x20 = countOf s u 0x20 + 1) ∧
          (e = .uncorrectable → countOf t u 0x28 = countOf s u 0x28 + 1 ∧ blockPoisoned t b = true))) ∧
        (∀ off bs, r.write = some (off, bs) → off + bs.length ≤ 32 → bs ≠ [] →
          (off = 0 → bs.length = 32 → chanPoisoned (chan s u) = false →
            ∃ t, go = .next t ∧ bytesAt t (32 * b) 32 = bs ∧ blockPoisoned t b = false ∧ MemSame s t [(32 * b, 32)]) ∧
          (bs.length < 32 → bad = false → e = .clean →
            ∃ t, go = .next t ∧ bytesAt t (32 * b + off) bs.length = bs ∧ MemSame s t [(32 * b + off, bs.length)]) ∧
          (chanPoisoned (chan s u) = true ∨ (bs.length < 32 ∧ bad = true) → ∃ t, go = .next t ∧ MemSame s t [])))) ∧
    (∀ (block : Word64) (e : Ecc),
      let b := block.toNat / 32
      let go := exec (.patrolScrub ch block e) s
      (onChannel s u b = false ∨ chanPoisoned (chan s u) = true → go = .next (passed s)) ∧
      (onChannel s u b = true → chanPoisoned (chan s u) = false → ∃ t, go = .next t ∧ MemSame s t [] ∧
        countOf t u 0x30 = countOf s u 0x30 + b2n (lastBlock s b) ∧
        (blockPoisoned s b = false →
          (e = .corrected → countOf t u 0x20 = countOf s u 0x20 + 1) ∧
          (e = .uncorrectable → countOf t u 0x28 = countOf s u 0x28 + 1 ∧ blockPoisoned t b = true))))

/-- Retraining and re-stripe. One channel of a side trains at a time, and a retrain that falls due meanwhile waits its turn (08 R243). A
training that passes returns the channel to service, or makes a channel that is out returnable; one that fails in service is a
hard map-out; a calibration ends with it (R244-R246). RESTRIPE_MOVE advances the front by one stripe unless the side is
frozen or trains, and the last one takes the channel out and shrinks the side by 48 MiB (R249, R251). A postponed soft map-out is
tried again (R248).
Where the rules leave a point open it follows the model's readings: DEDUCED, log entry 35; DEDUCED, log entry 36. -/
def Obligations.ChannelsRetrainAndRestripe : Prop :=
  (∀ (ch : Word32) (s : State), Idle s →
    let u := ch.toNat
    let sd := sideOf s (channelSide u)
    let e := exec (.retrainStart ch) s
    ((chan s u).state ≠ .inService → e = .next (passed s)) ∧
    ((chan s u).state = .inService →
      (sd.retraining = none → ∃ t, e = .next t ∧ (chan t u).training = true ∧ (sideOf t (channelSide u)).retraining = some u) ∧
      (∀ c, sd.retraining = some c → c ≠ u → sd.due.contains u = false →
        ∃ t, e = .next t ∧ (chan t u).training = (chan s u).training ∧ (sideOf t (channelSide u)).due = sd.due ++ [u] ∧
          (sideOf t (channelSide u)).retraining = some c))) ∧
  (∀ (ch : Word32) (ok : Bool) (s : State),
    let u := ch.toNat
    let sd := sideOf s (channelSide u)
    let c := chan s u
    let e := exec (.retrainComplete ch ok) s
    let ends (t : State) : Prop := (chan t u).training = false ∧ countOf t u 0x18 = countOf s u 0x18 + 1 ∧
      (sideOf t (channelSide u)).retraining = sd.due.head? ∧ (∀ n, sd.due.head? = some n → (chan t n).training = true) ∧
      (chan t u).state = match c.state, ok with
        | .inService, true => .inService
        | .inService, false => .lost
        | .returnable, _ => .returnable
        | _, true => .returnable
        | st, false => st
    (Idle s → sd.retraining ≠ some u → e = .next (passed s)) ∧
    (Bare s → s.sig.waiters = [] → c.queue = [] → u ∉ sd.due → (∀ n ∈ sd.due, channelSide n = channelSide u) → sd.retraining = some u →
      (Idle s → ∃ t, e = .next t ∧ ends t) ∧
      (∀ j h p, Calm s [j] → j.cmd = .calibrateChannel h p → j.phase = .retrain → p.channel = ch →
        ∃ t, e = .next t ∧ ends t ∧ Answered s t j (match c.state, ok with
          | .inService, true => done 0
          | .inService, false => unitFault u
          | _, true => done 0
          | _, false => done 1)))) ∧
  (∀ (side : Word32) (s : State), Idle s →
    let u := side.toNat
    let sd := sideOf s u
    let e := exec (.restripeMove side) s
    (sd.front = none ∨ sd.frozen = true ∨ sd.retraining ≠ none → e = .next (passed s)) ∧
    (∀ f, sd.front = some f → sd.frozen = false → sd.retraining = none →
      let f' := f + 256 * (interleaved sd - 1)
      (f' + chanBytes < sd.populated → ∃ t, e = .next t ∧ MemSame s t [] ∧ sideOf t u = { sd with front := some f' }) ∧
      (sd.populated ≤ f' + chanBytes → ∃ t, e = .next t ∧ MemSame s t [] ∧ (chan t (chanUnit u sd.outgoing)).state = .softOut ∧
        sideOf t u = { sd with front := none, outgoing := 0, out := insertSorted sd.outgoing sd.out, populated := sd.populated - chanBytes }))) ∧
  (∀ (side : Word32) (s : State), Idle s →
    let u := side.toNat
    let e := exec (.mapoutRetry side) s
    ((sideOf s u).pendingSoft = none → e = .next (passed s)) ∧
    (∀ ch, (sideOf s u).pendingSoft = some ch → channelSide ch = u →
      (softStop s ch = none → ∃ t, e = .next t ∧ (sideOf t u).front = some 0 ∧ (sideOf t u).outgoing = chanNo ch ∧
        (sideOf t u).pendingSoft = none) ∧
      (softStop s ch ≠ none → (chan s ch).state = .inService → e = .next (passed s)) ∧
      (softStop s ch ≠ none → (chan s ch).state ≠ .inService → ∃ t, e = .next t ∧ (sideOf t u).pendingSoft = none)))

/-! ## Sensors, pace and the crystal (01 R23-R31; 08 R242; 14 R375) -/

/-- Temperature samples. A stack sensor's sample within −20 °C to 130 °C and not more than 10 K from its last one is kept among its
last three; any other makes the sensor ignored (14 R375). The side's refresh follows its stack (08 R242); a stack above
105 °C holds its die back until every stack stands at or below 103 °C (01 R31); a stack with no sensor left has no ready side. A
junction sensor's range is −20 °C to 150 °C, and an ignored one holds its die. A sensor that times out is ignored.
The pace governor lowers every permit that can fall on a sample over either cap, and raises every permit that can rise on one
below both (01 R29); the permits it chooses between are free (DESIGN CHOICE, log entry 21). Tick calibration stores the rates of a die's
blocks, and one outside ±30 % is not ready (R23, R24); the loss of the crystal makes the LPDDR5X interface and calibration
not ready until it returns (R25).
Where the rules leave a point open it follows the model's readings: DEDUCED, log entry 22; DEDUCED, log entry 65; DEDUCED, log entry 66. -/
def Obligations.SensorsPaceAndCalibration : Prop :=
  ((∀ (stack : Fin 64) (vs : List Int) (s : State), Idle s →
      let k := stack.val
      let d := k / 8
      ∃ t, exec (.stackSensorSample stack vs) s = .next t ∧ t.mem.cells = s.mem.cells ∧
        (∀ n v, n < 4 → vs[n]? = some v → let x := sensor s (16 * k + n)
          let good := celsius (-20) ≤ v ∧ v ≤ celsius 130 ∧ ∀ a, x.samples.head? = some a → (v - a).natAbs ≤ 80
          (good → x.ignored = false → (sensor t (16 * k + n)).samples = (v :: x.samples).take 3 ∧ (sensor t (16 * k + n)).ignored = false) ∧
          (¬good → (sensor t (16 * k + n)).ignored = true)) ∧
        (∀ key, ¬(16 * k ≤ key ∧ key < 16 * k + 4) → sensor t key = sensor s key) ∧
        (∀ n, n = 0 ∨ n = 2 → (sideOf t (stackSide k n)).refresh = refreshOf t k (sideOf s (stackSide k n)).refresh) ∧
        ((List.range 8).any (fun i => stackAbove t (celsius 105) (8 * d + i)) = true → (dieOf t d).thermalHold = true) ∧
        ((List.range 8).any (fun i => stackAbove t (celsius 103) (8 * d + i)) = false → (dieOf t d).thermalHold = false) ∧
        ((stackSensors t k).all (·.ignored) = true → (health t (stackSide k 0)).ready = false ∧ (health t (stackSide k 2)).ready = false)) ∧
    (∀ (die : CDie) (vs : List Int) (s : State), Idle s →
      let d := die.val
      ∃ t, exec (.junctionSensorSample die vs) s = .next t ∧ t.mem = s.mem ∧
        (∀ n v, n < 16 → vs[n]? = some v → let x := sensor s (junctionKey d n)
          let good := celsius (-20) ≤ v ∧ v ≤ celsius 150
          (good → x.ignored = false → (sensor t (junctionKey d n)).samples = (v :: x.samples).take 3 ∧
            (sensor t (junctionKey d n)).ignored = false) ∧
          (¬good → (sensor t (junctionKey d n)).ignored = true)) ∧
        ((junctions t d).any (·.ignored) = true ∨ (junctions t d).any (fun x => 10 < x.hot) = true → (dieOf t d).junctionHold = true ∨
          ((dieOf s d).junctionHold = true ∧ (junctions t d).any (·.ignored) = false)) ∧
        ((dieOf s d).junctionHold = true → (junctions t d).any (·.ignored) = false →
          (∀ n v, n < 16 → reading (sensor t (junctionKey d n)) = some v → v ≤ celsius 105) → (dieOf t d).junctionHold = false)) ∧
    (∀ (unit : Word32) (n : Fin 16) (s : State), Idle s →
      let u := unit.toNat
      let d := uDie u
      let stack := uKind u = 0xA ∧ n.val < 4
      let e := exec (.sensorTimeout unit n) s
      (stack → ∃ t, e = .next t ∧ (sensor t (16 * (8 * d + uInst u / 2) + n.val)).ignored = true) ∧
      (¬stack → uKind u = 0 → isCD d = true → ∃ t, e = .next t ∧ (sensor t (junctionKey d n.val)).ignored = true ∧
        (dieOf t d).junctionHold = true) ∧
      (¬stack → ¬(uKind u = 0 ∧ isCD d = true) → e = .next (passed s)))) ∧
  ((∀ (power current : Word16) (s : State), Idle s →
      let p := power.toNat
      let i := current.toNat
      let above := paceCapOf s < p ∨ 4000 < i
      ∃ t, exec (.paceSample power current) s = .next t ∧ t.mod.pacePower = p ∧ t.mod.paceCurrent = i ∧ t.mem = s.mem ∧ t.gz = s.gz ∧
        (∀ d < 12, let old := (dieOf s d).permit
          let new := (dieOf t d).permit
          (above → new ≤ old ∧ (0 < old → new < old)) ∧
          (p < paceCapOf s → i < 4000 → old ≤ fullPermit → old ≤ new ∧ new ≤ fullPermit ∧ (old < fullPermit → old < new)) ∧
          (¬above → ¬(p < paceCapOf s ∧ i < 4000) → new = old)) ∧
        (4000 < i → t.mod.currentLimiting = true)) ∧
    (∀ (die : Die) (rates : List (Word32 × Word32 × Word16)) (s : State), Idle s →
      let e := exec (.tickCalibration die rates) s
      (s.mod.crystal = false → e = .next (passed s)) ∧
      (s.mod.crystal = true → ∃ t, e = .next t ∧ (die.val = 12 → t.mod.tickCal = true) ∧
        (∀ r ∈ rates, uDie r.1.toNat = die.val → rates.filter (fun q => q.1 = r.1) = [r] →
          (health t r.1.toNat).tickRate = r.2.1.toNat ∧
          (uKind r.1.toNat = 1 → (health t r.1.toNat).beatPs = r.2.2.toNat) ∧
          (r.2.1.toNat < 700 * 65536 ∨ 1300 * 65536 < r.2.1.toNat → (health t r.1.toNat).ready = false) ∧
          (700 * 65536 ≤ r.2.1.toNat → r.2.1.toNat ≤ 1300 * 65536 → (health t r.1.toNat).ready = (health s r.1.toNat).ready)) ∧
        (∀ u, (∀ r ∈ rates, r.1.toNat ≠ u) → health t u = health s u))) ∧
    (∀ s : State, Idle s →
      (s.mod.crystal = true → ∃ t, exec .crystalLoss s = .next t ∧ t.mod.crystal = false ∧ t.mod.tickCal = false ∧
        (health t lpddrUnit).ready = false ∧ ∀ u, u ≠ lpddrUnit → health t u = health s u) ∧
      (s.mod.crystal = false → exec .crystalLoss s = .next (passed s)) ∧
      (s.mod.crystal = false → ∃ t, exec .crystalRestore s = .next t ∧ t.mod.crystal = true ∧ t.mod.tickCal = true ∧
        ((health s lpddrUnit).ready = false → (health s lpddrUnit).lastCause = 6 → (health t lpddrUnit).ready = true)) ∧
      (s.mod.crystal = true → exec .crystalRestore s = .next (passed s))))

/-! ## Bring-up, margins, rotation and probation (14 R370-R385) -/

/-- A unit that passes its bring-up step is ready, and one that fails is failed with its test code (14 R370, R373). A gauge keeps the
lower slack; a negative one raises the region's tap, or retires the region at the highest tap (R376, R378). A plan raises the
tap of each short region that keeps its ratings; where one is left the core rail rises by 5 mV, or at 800 mV the region is
retired; after six calm plans the rail falls by 5 mV; with AUTO 0 nothing is applied (R379-R381). A failed rotation slice
quarantines its unit (R383), and the 1,000th matching shadow operation in a row ends its probation (R385).
Where the rules leave a point open it follows the model's readings: DEDUCED, log entry 58; DEDUCED, log entry 59. -/
def Obligations.MarginsAndTests : Prop :=
  (∀ (unit : Word32) (ok : Bool) (code : Word16) (bad : List Nat) (s : State), Idle s →
    let u := unit.toNat
    let due := kernelRuns s = true ∧ (dieOf s (uDie u)).state = 1 ∧ (dieUnits (uDie u)).contains u = true ∧ (health s u).brought = false
    let e := exec (.bringupStep unit ok code bad) s
    (¬due → e = .next (passed s)) ∧
    (due → ∃ t, e = .next t ∧ (health t u).brought = true ∧
      (ok = true → uKind u ≠ 0xA → (health t u).ready = true) ∧
      (ok = false → (health t u).failed = true ∧ (health t u).lastTest = code.toNat) ∧
      (∀ n, uKind u = 0xA → n < 512 → (chan s (chanUnit u n)).state = .inService →
        (chan t (chanUnit u n)).state = if bad.contains n then .softOut else .inService))) ∧
  (∀ (die : CDie) (slack : List (Word32 × Int)) (s : State), Idle s →
    ∃ t, exec (.gaugeRead die slack) s = .next t ∧ t.mem = s.mem ∧
      (∀ r ∈ slack, uDie r.1.toNat = die.val → slack.filter (fun q => q.1 = r.1) = [r] → let u := r.1.toNat
        isRegion u = true → (health s u).retired = false →
        (health t u).minSlack = lowerSlack r.2 (health s u).minSlack ∧
        (0 ≤ r.2 → tapOf t u = tapOf s u ∧ (health t u).retired = false) ∧
        (r.2 < 0 → tapOf s u < 7 → tapOf t u = tapOf s u + 1 ∧ (health t u).retired = false) ∧
        (r.2 < 0 → 7 ≤ tapOf s u → tapOf t u = tapOf s u ∧ (health t u).retired = true ∧ (health t u).ready = false))) ∧
  (∀ (die : CDie) (keeps : List Word32) (life : Word16) (s : State), Idle s →
    let d := die.val
    let e := exec (.marginPlan die keeps life) s
    let g := guardPs s d
    let calmPlans := if calm s d then (dieOf s d).calmPlans + 1 else 0
    let short := (regions d).filter (fun u => !(health s u).retired && slackBelow g (health s u).minSlack)
    let steps (u : Nat) : Bool := tapOf s u < 7 && (keeps.map (·.toNat)).contains u
    let left := short.filter (fun u => !steps u)
    let dieShort := !(dieOf s d).dieRetired && slackBelow g (dieOf s d).dieSlack
    (kernelRuns s = false → e = .next (passed s)) ∧
    (kernelRuns s = true → ∃ t, e = .next t ∧ (dieOf t d).calmPlans = calmPlans ∧ (dieOf t d).lifeDays = life.toNat ∧ t.mem = s.mem ∧
      (∀ u ∈ regions d, (health t u).minSlack = none) ∧ (dieOf t d).dieSlack = none ∧
      (bit (marginCfgOf s d) 16 = false → t.flash.taps = s.flash.taps ∧ t.flash.rails = s.flash.rails) ∧
      (bit (marginCfgOf s d) 16 = true →
        (∀ u ∈ regions d, tapOf t u = if short.contains u && steps u then tapOf s u + 1 else tapOf s u) ∧
        railOf t d = (if left ≠ [] ∨ dieShort = true then (if railOf s d < 800 then railOf s d + 5 else railOf s d)
          else if short = [] ∧ 6 ≤ calmPlans ∧ 680 < railOf s d then railOf s d - 5 else railOf s d) ∧
        (800 ≤ railOf s d → ∀ u ∈ left, (health t u).retired = true) ∧
        (800 ≤ railOf s d → dieShort = true → (dieOf t d).dieRetired = true)))) ∧
  (∀ (unit : Word32) (ok : Bool) (code : Word16) (last : Bool) (s : State), Idle s →
    let u := unit.toNat
    let d := uDie u
    let due := kernelRuns s = true ∧ isCD d = true ∧ uidValid u = true ∧ [1, 3, 7, 8, 9].contains (uKind u) = true ∧ sliceOk s u = true
    let e := exec (.rotationSlice unit ok code last) s
    (¬due → e = .next (passed s)) ∧
    (due → ∃ t, e = .next t ∧ (health t u).slicedAt = s.now ∧ countOf t (uid 0 d 0) 0x30 = countOf s (uid 0 d 0) 0x30 + 1 ∧
      countOf t (uid 0 d 0) 0x38 = countOf s (uid 0 d 0) 0x38 + b2n last ∧
      (ok = true → (health t u).ready = (health s u).ready) ∧
      (ok = false → (health t u).quarantined = true ∧ (health t u).ready = false ∧ (health t u).lastTest = code.toNat))) ∧
  (∀ (unit : Word32) (ok : Bool) (s : State), Idle s →
    let u := unit.toNat
    let e := exec (.probationShadowOp unit ok) s
    ((health s u).probation = false → e = .next (passed s)) ∧
    ((health s u).probation = true →
      (ok = true → (health s u).shadow + 1 < 1000 → ∃ t, e = .next t ∧ (health t u).shadow = (health s u).shadow + 1 ∧
        (health t u).probation = true ∧ (health t u).ready = (health s u).ready) ∧
      (ok = true → 1000 ≤ (health s u).shadow + 1 → ∃ t, e = .next t ∧ (health t u).ready = true ∧ (health t u).probation = false ∧
        (health t u).points = 0) ∧
      (ok = false → ∃ t, e = .next t ∧ (health t u).shadow = 0 ∧
        (keepsPoints u = true → 8 * 65536 ≤ (health t u).points))))

/-! ## The ledger's pages and snapshot rings (05 R146; 13 R357-R361; 15 R393, R394) -/

/-- An entry that arrives from a die takes the next SEQ (13 R357). 60 s after its first entry the open page is sealed under the next
page number, with the snapshot of the check records as far as it has room (05 R146, 13 R360). An archived page leaves the held
ones and its LEDGER_SEAL replies with the page's number; a write that fails keeps it held (13 R358, R361). LEDGER_SEAL seals the
open page and waits for it, replies at once when nothing is to be sealed, and ends BUSY_DEFER with 16 pages held.
SNAPSHOT_READ writes the ring's next record at its place and then its number into the TAIL word, while the consumer has left
room; otherwise the record is skipped and counted in the next one (15 R393, R394). No other byte of memory changes.
Where the rules leave a point open it follows the model's readings: DEDUCED, log entry 29; DEDUCED, log entry 57. -/
def Obligations.LedgerPagesAndSnapshots : Prop :=
  ((∀ (die : Die) (s : State), Idle s →
      let e := exec (.ledgerEntryArrival die) s
      (s.tr.ledgerOpen = false ∨ s.tr.inTransit.find? (fun x => x.1 == die.val) = none → e = .next (passed s)) ∧
      (∀ x, s.tr.ledgerOpen = true → s.tr.inTransit.find? (fun x => x.1 == die.val) = some x →
        ∃ t, e = .next t ∧ t.tr.inTransit = s.tr.inTransit.erase x ∧
          (s.tr.openPage.length + 1 < 234 → t.tr.nextSeq = s.tr.nextSeq + 1 ∧
            t.tr.openPage = s.tr.openPage ++ [⟨s.tr.nextSeq, timeNow s, !s.tr.timeSet, x.2⟩]) ∧
          (234 ≤ s.tr.openPage.length + 1 → ∃ p ∈ t.tr.held, p.num = s.flash.nextPage ∧ p.reason = 0 ∧
            ⟨s.tr.nextSeq, timeNow s, !s.tr.timeSet, x.2⟩ ∈ p.entries))) ∧
    (∀ s : State, Idle s →
      (s.tr.openPage = [] → exec .pageSealTimer s = .next (passed s)) ∧
      (s.tr.openPage ≠ [] → ∃ t, exec .pageSealTimer s = .next t ∧ s.flash.nextPage < t.flash.nextPage ∧ ∃ p ∈ t.tr.held,
        p.num = s.flash.nextPage ∧ p.reason = 2 ∧ p.boots = s.flash.boots ∧
        p.entries.map (·.ev) = s.tr.openPage.map (·.ev) ++ (snapAll s).take (234 - s.tr.openPage.length) ∧
        p.prevDigest = (match s.tr.held.getLast? with | some q => pageDigest q | none => s.flash.lastDigest))) ∧
    (∀ (ok : Bool) (s : State) (p : Page) (rest : List Page), s.tr.held = p :: rest → s.flash.archive.length < 122880 →
      let e := exec (.pageArchive ok) s
      (ok = true → Idle s → ∃ t, e = .next t ∧ t.tr.held = rest ∧ t.flash.archive = s.flash.archive ++ [p] ∧
        t.flash.lastDigest = pageDigest p) ∧
      (ok = true → ∀ j, Calm s [j] → j.phase = .sealing p.num →
        ∃ t, e = .next t ∧ Answered s t j (done (p.num % 2 ^ 32)) ∧ t.flash.archive = s.flash.archive ++ [p]) ∧
      (ok = false → Idle s → ∃ t, e = .next t ∧ p ∈ t.tr.held ∧ t.flash.archive = s.flash.archive)) ∧
    (∀ (ok : Bool) (s : State), Idle s → s.tr.held = [] → exec (.pageArchive ok) s = .next (passed s)) ∧
    (∀ (h : Hdr) (s : State), let i : Instr := .ledgerSeal h
      let pre := preCore h s
      let j := jobFor s pre i
      Calm s [] → Accepts s pre i →
      (ledgerRoom s = false → ∃ t, exec i s = .next t ∧ Answered s t j (fails BUSY_DEFER 4) ∧ t.tr.openPage = s.tr.openPage) ∧
      (ledgerRoom s = true →
        (s.tr.openPage = [] → snapAll s = [] → ∃ t, exec i s = .next t ∧
          Answered s t j (done ((match s.flash.archive.getLast? with | some p => p.num | none => 0) % 2 ^ 32))) ∧
        (s.tr.openPage ≠ [] ∨ snapAll s ≠ [] → ∃ t, exec i s = .next t ∧ t.tr.openPage = [] ∧ s.flash.nextPage < t.flash.nextPage ∧
          (jobOf t j.id).map (·.phase) = some (.sealing (t.flash.nextPage - 1)))))) ∧
  (∀ (n : Fin 64) (s : State), Calm s [] →
      let e := exec (.snapshotRead n) s
      (amFind s.snap n.val = none → e = .next (passed s)) ∧
      (∀ r, amFind s.snap n.val = some r →
        let size := recordBytes r.units.length
        let places := 2 ^ r.log2 / size
        let a := r.base + size * (r.t % places)
        let rec' := snapRecord s r
        let room := poisonIn s r.headAddr 8 = none ∧ r.t - readNat s (kernelCore 12) r.headAddr 8 < places
        (room → poisonIn s (r.tailAddr / 32 * 32) 32 = none → Apart [(a, rec'.length)] [(r.tailAddr, 8)] →
          ∃ t, e = .next t ∧ bytesAt t a rec'.length = rec' ∧ word t r.tailAddr = (r.t + 1) % 2 ^ 64 ∧
            amFind t.snap n.val = some { r with t := r.t + 1, skipped := 0 } ∧ MemSame s t [(a, rec'.length), (r.tailAddr, 8)]) ∧
        (¬room → ∃ t, e = .next t ∧ amFind t.snap n.val = some { r with skipped := r.skipped + 1 } ∧ MemSame s t [])))


/-! ## Ports and ingest (12 R309-R326) -/

/-- Port states (12 R318, R319, R326). A port in state down that finds a partner trains; three failed trainings in a row fail it; a
training that passes leads to the identity check, to held with more than 26 ns of cable, or to probation; the partner's
identity brings a trained port up or holds it; a failed port trains again; a clean probation brings the port up.
Where the rules leave a point open it follows the model's readings: DEDUCED, log entry 50. -/
def Obligations.PortsChangeState : Prop :=
  ∀ (port : Word32) (s : State), Idle s → Bare s →
    let u := port.toNat
    let p := portOf s u
    let st := p.state
    let gets (e : Host.Outcome State Fault Refusal) (n : Nat) : Prop := ∃ t, e = .next t ∧ (portOf t u).state = n
    (st = 0 → portMode s u ≠ 2 → gets (exec (.partnerDetect port) s) 1) ∧
    (st ≠ 0 ∨ portMode s u = 2 → exec (.partnerDetect port) s = .next (passed s)) ∧
    (let e := exec (.trainingComplete port .failed) s;
      (st = 1 ∨ st = 3 → (2 ≤ p.attempts → gets e 5) ∧
        (p.attempts < 2 → ∃ t, e = .next t ∧ portOf t u = { p with attempts := p.attempts + 1 })) ∧
      (st = 5 → ∃ t, e = .next t ∧ portOf t u = { p with retraining := false }) ∧
      (st ≠ 1 → st ≠ 3 → st ≠ 5 → e = .next (passed s))) ∧
    (∀ d rtt, let e := exec (.trainingComplete port (.passed d rtt)) s;
      (st = 1 → (portMode s u = 1 → gets e 2) ∧
        (portMode s u ≠ 1 → (26 < d → gets e 6) ∧
          (d ≤ 26 → (p.partner = none → ∃ t, e = .next t ∧ portOf t u =
              { p with delayNs := d, rtt := rtt.toNat, attempts := 0, trained := true }) ∧
            (∀ m, p.partner = some m → gets e (settled s u m d))))) ∧
      (st = 3 ∨ (st = 5 ∧ p.retraining = true) → gets e 4 ∧ ∃ t, e = .next t ∧ countOf t u 0x48 = 0) ∧
      (st ≠ 1 → st ≠ 3 → ¬(st = 5 ∧ p.retraining = true) → e = .next (passed s))) ∧
    (∀ m, let e := exec (.linkMgmtFrame port m) s;
      (portMode s u ≠ 0 ∨ st = 0 ∨ st = 5 ∨ st = 7 → e = .next (passed s)) ∧
      (portMode s u = 0 →
        ((st = 1 ∨ st = 4) → (p.trained = false → ∃ t, e = .next t ∧ portOf t u = { p with partner := some m }) ∧
          (p.trained = true → gets e (settled s u m p.delayNs))) ∧
        (st = 3 → ∃ t, e = .next t ∧ portOf t u = { p with partner := some m }) ∧
        (st = 2 → gets e (if identityOk s u m = true then 2 else 6)) ∧
        (st = 6 → gets e (if p.partner = some m then 6 else settled s u m p.delayNs)))) ∧
    (let e := exec (.failedPortRetrain port) s;
      (st = 5 → ∃ t, e = .next t ∧ portOf t u = { p with retraining := true }) ∧ (st ≠ 5 → e = .next (passed s))) ∧
    (let e (clean : Bool) : Host.Outcome State Fault Refusal := exec (.portProbationComplete port clean) s;
      (st ≠ 4 → ∀ c, e c = .next (passed s)) ∧
      (st = 4 → (∃ t, e false = .next t ∧ countOf t u 0x48 = 0 ∧ portOf t u = p) ∧
        (portMode s u = 1 → gets (e true) 2) ∧
        (portMode s u ≠ 1 → (p.partner = none → ∃ t, e true = .next t ∧ portOf t u = { p with trained := true }) ∧
          (∀ m, p.partner = some m → gets (e true) (settled s u m p.delayNs)))))

/-- Frames on an up port. A frame that fails its CRC, or whose TYPE or LEN is bad, is counted, sets NAK and delivers nothing
(12 R311, R312). A data frame in sequence advances the expected FSEQ and, when it is a whole message for this device,
delivers it; a repeat is discarded; a gap sets NAK (R310, R316). An acknowledgement releases the frames it covers. A verdict
that does not come in its window is counted and its frames are sent again; eight within 1 ms degrade the port (R317).
Ingest. A frame that fails a check is dropped and counted; one for a full ring is dropped and counted; any other is written as a record
in the ring's next slot, and then its count (12 R322, R324). No other byte of memory changes. A solicitation for the
configured address is answered (R322).
Where the rules leave a point open it follows the model's readings: DEDUCED, log entry 50; DEDUCED, log entry 54. -/
def Obligations.PortsTakeFramesAndIngest : Prop :=
  (∀ (port : Word32) (b : List Byte) (s : State), Idle s → Bare s →
      let u := port.toNat
      let p := portOf s u
      let h0 := fld b 0 4
      let h1 := fld b 4 4
      let route := fld b 12 4
      let broken := crc64 (sub b 0 248) ≠ fld b 248 8 ∨ bits h0 18 2 = 3 ∨ 232 < bits h0 22 8
      let e := exec (.passFrame port b) s
      (((p.state ≠ 2 ∧ p.state ≠ 4) ∨ portMode s u ≠ 0) → e = .next (passed s)) ∧
      (p.state = 2 → portMode s u = 0 →
        (broken → ∃ t, e = .next t ∧ countOf t u 0x30 = countOf s u 0x30 + 1 ∧ t.link.rx = s.link.rx ∧
          (p.crcRun + 1 < 16 → portOf t u = { p with nak := true, crcRun := p.crcRun + 1 }) ∧
          (16 ≤ p.crcRun + 1 → (portOf t u).state = 1)) ∧
        (¬broken → bit h1 16 = false → p.queue = [] →
          (bits h0 18 2 = 0 →
            (bits h0 0 16 = p.fseqRx → ∃ t, e = .next t ∧ (portOf t u).fseqRx = (p.fseqRx + 1) % 65536 ∧ (portOf t u).nak = false ∧
              (portOf t u).accepted = true ∧ countOf t u 0x18 = countOf s u 0x18 + 1 ∧
              (bit h0 20 = true → bit h0 21 = true → bits route 0 13 = myDevice s →
                t.link.rx = s.link.rx ++ [⟨u, bits h0 16 2, bits route 16 13, bits route 29 3, bits route 13 3, sub b 16 (bits h0 22 8)⟩]) ∧
              (bit h0 21 = false ∨ bits route 0 13 ≠ myDevice s → t.link.rx = s.link.rx)) ∧
            (bits h0 0 16 ≠ p.fseqRx → ∃ t, e = .next t ∧ (portOf t u).fseqRx = p.fseqRx ∧ t.link.rx = s.link.rx ∧
              (portOf t u).nak = (p.nak || decide (1024 < (p.fseqRx + 65536 - bits h0 0 16) % 65536)))) ∧
          (bits h0 18 2 = 1 → bit h1 17 = true → p.unacked.any (fun x => x.fseq == bits h1 0 16) = true →
            ∃ t, e = .next t ∧ t.link.rx = s.link.rx ∧
              (portOf t u).unacked = (p.unacked.dropWhile (fun x => x.fseq != bits h1 0 16)).drop 1))) ∧
      (let v := exec (.verdictWindowExpiry port) s;
        let recent := p.misses.filter (fun t => s.now - t < 1000000);
        (carries s u = false ∨ p.unacked = [] → v = .next (passed s)) ∧
        (carries s u = true → p.unacked ≠ [] →
          (recent.length < 7 → (∀ x ∈ p.unacked, x.sends < 16) → ∃ t, v = .next t ∧ countOf t u 0x40 = countOf s u 0x40 + 1 ∧
            (portOf t u).state = 2 ∧ (portOf t u).unacked = p.unacked.map (fun x => { x with sends := x.sends + 1 }) ∧
            (portOf t u).misses = s.now :: recent) ∧
          (7 ≤ recent.length → ∃ t, v = .next t ∧ countOf t u 0x40 = countOf s u 0x40 + 1 ∧ (portOf t u).state = 3)))) ∧
  (∀ (die : LDie) (iface : Fin 8) (s : State), Calm s [] →
      let d := die.val + 8
      let port := ingestPort d iface.val
      let u := uid 0xE d 0
      let on := portMode s port = 1 ∧ (portOf s port).state = 2
      (∀ (fcs : Bool) (f : List Byte),
        let e := exec (.ingestFrame die iface fcs f) s
        let dropped : Prop := ∃ t, e = .next t ∧ countOf t u 0x18 = countOf s u 0x18 + 1 ∧ countOf t port 0x58 = countOf s port 0x58 + 1 ∧
          t.mem = s.mem ∧ t.link = s.link
        (¬on → e = .next (passed s)) ∧
        (on → amFind s.link.ingest d = none → dropped) ∧
        (∀ x, on → amFind s.link.ingest d = some x →
          (ingestBad s d iface.val fcs x f = true → dropped) ∧
          (∀ r, ingestBad s d iface.val fcs x f = false → x.rings[fld f 65 1]? = some r →
            let slots := 2 ^ (r.log2 - r.slotLog2)
            let n := fld (sub f 62 16) 12 2
            let a := r.base + r.written % slots * 2 ^ r.slotLog2
            let record := leBytes 2 n ++ [BitVec.ofNat 8 iface.val, 0] ++ sub f 66 8 ++ leBytes 4 0 ++ sub f 22 16 ++ sub f 78 n
            let full := poisonIn s r.headAddr 8 ≠ none ∨ slots ≤ r.written - word s r.headAddr
            (full → ∃ t, e = .next t ∧ countOf t u 0x20 = countOf s u 0x20 + 1 ∧ countOf t port 0x60 = countOf s port 0x60 + 1 ∧
              t.mem = s.mem ∧ t.link = s.link) ∧
            (¬full → poisonIn s (a + (32 + n) / 32 * 32) 1 = none → poisonIn s (r.tailAddr / 32 * 32) 32 = none →
              Apart [(a, 32 + n)] [(r.tailAddr, 8)] →
              ∃ t, e = .next t ∧ bytesAt t a (32 + n) = record ∧ word t r.tailAddr = (r.written + 1) % 2 ^ 64 ∧
                countOf t u 0x10 = countOf s u 0x10 + 1 ∧ MemSame s t [(a, 32 + n), (r.tailAddr, 8)] ∧
                ∃ y, amFind t.link.ingest d = some y ∧ y.ip = x.ip ∧ y.rings[fld f 65 1]? = some { r with written := r.written + 1 })))) ∧
      (∀ target source, let e := exec (.neighborSolicitation die iface target source) s;
        let ours := on ∧ (amFind s.link.ingest d).any (fun x => x.ip == target) = true;
        (ours → ∃ t, e = .next t ∧ t.mem = s.mem ∧ t.link.ports = s.link.ports ∧ t.link.adverts = s.link.adverts ++
          [(8 * d + iface.val, source ++ target ++ (leBytes 6 (ingestMac s d iface.val)).reverse)]) ∧
        (¬ours → e = .next (passed s))))


/-! ## The management and debug ports, time of day (13 R347-R364) -/

/-- The management port answers while its service runs (13 R350): a report for a nonce, at most 100 in a second; the identity record; an
archived page; an operator's packet placed on ring 1 of context 0; new anchors from an operator, or once while there are none.
Sessions open, with the operator's right only under a certificate that an anchor vouches for, and close when idle. Addresses
come from a router or a DHCP server where MGMT_NET allows it (R352), time from PTP where TOD_CFG selects it (R363); a UART byte is taken
only with debug access (R351). No command of these changes memory, but ORDER its ring.
Where the rules leave a point open it follows the model's readings: DEDUCED, log entry 55; PRESUMED, log entry 60; DEDUCED, log entry 61; DEDUCED, log entry 62. -/
def Obligations.ManagementAnswers : Prop :=
  ∀ s : State, Calm s [] →
    let on := serving s = true
    let gives (e : Host.Outcome State Fault Refusal) (r : MgmtReply) (P : State → Prop) : Prop :=
      ∃ t, e = .next t ∧ t.tr.replies = s.tr.replies ++ [r] ∧ P t
    let quiet (t : State) : Prop := t.mem = s.mem ∧ t.gz.rings = s.gz.rings ∧ t.hw.items = s.hw.items
    (∀ nonce, let e := exec (.attest nonce) s;
      let recent := s.tr.attests.filter (fun t => s.now - t < 1000000000);
      (¬on → e = .next (passed s)) ∧
      (on → 100 ≤ recent.length → gives e .denied quiet) ∧
      (on → recent.length < 100 → gives e (.report (report s nonce)) (fun t => quiet t ∧ t.tr.attests = s.now :: recent) ∧
        sub (report s nonce) 8 32 = sub nonce 0 32)) ∧
    ((¬on → exec .identity s = .next (passed s)) ∧
      (on → gives (exec .identity s) (.identity (identityRecord s) (certificate s) (addresses s)) quiet)) ∧
    (∀ n, let e := exec (.ledgerRead n) s;
      (¬on → e = .next (passed s)) ∧
      (on → s.flash.archive.find? (fun p => p.num == n) = none → gives e (.pages []) (fun t => quiet t ∧ t.flash = s.flash)) ∧
      (∀ p, on → s.flash.archive.find? (fun p => p.num == n) = some p →
        gives e (.pages [p]) (fun t => quiet t ∧ t.flash = { s.flash with readTo := max s.flash.readTo (n + 1) }))) ∧
    (∀ session packet, let e := exec (.order session packet) s;
      let r := ringOf s 1;
      let n := packet.length;
      let fits := isOperator s session = true ∧ ringExists s 1 = true ∧ n % 16 = 0 ∧ 32 ≤ n ∧ n < ringSize r;
      let d := doorbell ((r.tail + n) % ringSize r) r;
      (¬on → e = .next (passed s)) ∧
      (on → ¬fits ∨ d = none → gives e .denied quiet) ∧
      (∀ r', on → fits → d = some r' → r.tail + n ≤ ringSize r → gives e .accepted (fun t => ringOf t 1 = r' ∧
        bytesAt t (r.cmdBase + r.tail) n = packet ∧ MemSame s t [(r.cmdBase + r.tail, n)]))) ∧
    (∀ session anchors, let e := exec (.anchorInstall session anchors) s;
      let may := (isOperator s session = true ∨ s.flash.anchors = []) ∧ anchors.length ≤ 8;
      (¬on → e = .next (passed s)) ∧
      (on → ¬may → gives e .denied (fun t => quiet t ∧ t.flash = s.flash)) ∧
      (on → may → gives e .accepted (fun t => quiet t ∧ t.flash.anchors = anchors))) ∧
    (∀ session cert, let e := exec (.mgmtSessionOpen session cert) s;
      (¬on → e = .next (passed s)) ∧
      (on → ∃ t, e = .next t ∧ quiet t ∧ t.tr.replies = s.tr.replies ∧
        isOperator t session = (cert == .valid && !s.flash.anchors.isEmpty) ∧
        (∀ n, n ≠ session → isOperator t n = isOperator s n))) ∧
    (∀ session, let e := exec (.mgmtSessionIdle session) s;
      (s.tr.sessions.any (fun x => x.id == session) = false → e = .next (passed s)) ∧
      (s.tr.sessions.any (fun x => x.id == session) = true → ∃ t, e = .next t ∧ quiet t ∧
        t.tr.sessions = s.tr.sessions.filter (fun x => x.id != session))) ∧
    (∀ (domain : Byte) (time : Word64) (off : Int), let e := exec (.ptpSync domain time off) s;
      let v := item s mdBlock 0x81;
      let takes := on ∧ bit v 8 = true ∧ bits v 0 8 = domain.toNat;
      (¬takes → e = .next (passed s)) ∧
      (takes → ∃ t, e = .next t ∧ quiet t ∧ t.tr.lastSync = s.now ∧ t.tr.timePtp = true ∧ t.tr.timeSet = true ∧
        timeNow t = if s.tr.timeSet = false ∨ 1000000 < off.natAbs then time.toNat else timeNow s)) ∧
    (∀ pfx, let e := exec (.routerAdvertisement pfx) s;
      let takes := on ∧ bit (mgmtNet s) 48 = true;
      (¬takes → e = .next (passed s)) ∧ (takes → ∃ t, e = .next t ∧ quiet t ∧ sub pfx 0 8 ++ eui64 s ∈ t.tr.slaac)) ∧
    (∀ (addr gateway : Word32) (n : Byte), let e := exec (.dhcpv4Message addr gateway n) s;
      let takes := on ∧ bit (mgmtNet s) 50 = true;
      (¬takes → e = .next (passed s)) ∧
      (takes → ∃ t, e = .next t ∧ quiet t ∧ t.tr.dhcp4 = some (addr.toNat, gateway.toNat, n.toNat))) ∧
    (∀ (b : Byte) (framed : Bool), let e := exec (.debugUartReceive b framed) s;
      ∃ t, e = .next t ∧ quiet t ∧ t.tr.uartRx =
        if framed = true ∧ bit (debugCfg s) 0 = true ∧ bit (debugCfg s) 1 = true then s.tr.uartRx ++ [b] else s.tr.uartRx)

/-! ## The module (13 R344, R345, R365; 14 R367-R369; 16 R398-R406) -/

/-- Start and boot: an off module whose rails come up boots the first slot that verifies, which becomes active with the ledger open
and context 0 set up; with none that verifies it enters recovery; a rail that fails latches it off (13 R344, R345; 14 R367,
R368). A kernel that does not reach order 6 in time falls back (R344); recovery takes an image that verifies (R345). An
inserted module charges (16 R401), and a latched fault clears with EN low (R402).
Where the rules leave a point open it follows the model's readings: DEDUCED, log entry 3; DEDUCED, log entry 64. -/
def Obligations.ModuleStarts : Prop :=
  (∀ (b : BootReport) (s : State), Idle s →
    let e := exec (.moduleStart b) s
    let early := s.mod.en = false ∧ ∃ x, s.mod.pgoodLow = some x ∧ s.now - x < 100000000
    let ok (n : Nat) : Bool := if n = 0 then b.verify0 else b.verify1
    (s.mod.power ≠ .off ∨ early → e = .next (passed s)) ∧
    (s.mod.power = .off → ¬early →
      (b.railsOk = false → ∃ t, e = .next t ∧ t.mod.power = .latched ∧ t.mod.faultN = false ∧ t.mod.pgood = s.mod.pgood ∧
        t.tr.ledgerOpen = false ∧ t.flash.latchedCauses.length = s.flash.latchedCauses.length + 1) ∧
      (b.railsOk = true →
        (∀ n rest, bootSlots s = n :: rest → ok n = true → ∃ t, e = .next t ∧ t.mod.power = .running ∧ t.mod.pgood = true ∧
          t.mod.en = true ∧ t.tr.bootSlot = n ∧ t.tr.ledgerOpen = b.reached ∧ t.tr.booting = !b.reached ∧
          t.tr.kernelDigest = (fwSlot s n).kernelDigest ∧ t.tr.dieMatch = b.dieMatch.toNat ∧
          (b.reached = true → t.flash.boots = s.flash.boots + 1 ∧ (fwSlot t n).state = .active ∧ (ctxOf t 0).live = true ∧
            (∀ d < 13, (dieOf t d).state = if bit b.dieMatch.toNat d then 1 else 3) ∧ (∀ r < 16, ringExists t r = true))) ∧
        ((∀ n ∈ bootSlots s, ok n = false) → ∃ t, e = .next t ∧ t.mod.power = .running ∧ t.mod.recovery = true ∧
          t.mod.faultN = false ∧ t.tr.ledgerOpen = false)))) ∧
  (∀ s : State, Idle s →
    let e := exec .bootFallbackTimeout s
    let n := s.tr.bootSlot
    (s.tr.booting = false ∨ s.mod.power ≠ .running → e = .next (passed s)) ∧
    (s.tr.booting = true → s.mod.power = .running →
      ((fwSlot s n).state ≠ .next → ∃ t, e = .next t ∧ t.mod.recovery = true ∧ t.mod.faultN = false ∧ t.tr.booting = false) ∧
      (n < 2 → (fwSlot s n).state = .next → (fwSlot s (1 - n)).state = .active → ∃ t, e = .next t ∧ t.tr.bootSlot = 1 - n ∧
        t.tr.ledgerOpen = true ∧ (fwSlot t n).state = .valid ∧ (fwSlot t (1 - n)).state = .active))) ∧
  (∀ (slot : Fin 2) (image : List Byte) (bad : Bool) (s : State), Idle s →
    let e := exec (.recoveryImage slot image bad) s
    (s.mod.recovery = false ∨ imageOk s image bad = false → e = .next (passed s)) ∧
    (s.mod.recovery = true → imageOk s image bad = true → ∃ t, e = .next t ∧ fwSlot t slot.val = slotOf image .next ∧
      t.mod.power = .off ∧ t.mod.recovery = false ∧ t.mod.faultN = true ∧ t.mod.pgood = false)) ∧
  (∀ s : State, Idle s →
    (s.mod.en = true → exec .moduleInsertion s = .next (passed s)) ∧
    (s.mod.en = false → exec .moduleInsertion s = .next (passed { s with mod := { s.mod with charged := true } })) ∧
    (s.mod.power ≠ .latched → exec .latchedFaultClear s = .next (passed s)) ∧
    (s.mod.power = .latched → ∃ t, exec .latchedFaultClear s = .next t ∧ t.mod.power = .off ∧ t.mod.en = false ∧
      t.mod.faultN = true ∧ t.mod.thermtripN = true ∧ t.flash = s.flash))

/-- Stops: a cause stops the running module (13 R365; 16 R402-R406). Without another cause next in the queue the sequence seals and
archives the ledger, counts as a clean stop, and leaves the module off, or latched off where the cause latches, with
nothing powered in flight, in memory or in a register. A rail fault switches off at once and seals nothing, its cause kept in
flash (14 R368). A warning is ledgered only.
The test port (16 R398): one clock of TCK moves the controller as TMS says; the data register captures IDCODE under its
instruction, and one bit otherwise, shifts TDI in and its lowest bit out; TRST_N low resets it; nothing else of the block changes.
Where the rules leave a point open it follows the model's readings: PRESUMED, log entry 23; DEDUCED, log entry 63. -/
def Obligations.ModuleStopsAndTestPort : Prop :=
  (∀ s : State, s.mod.power = .running → s.tr.ledgerOpen = true → coincides s = false → s.mod.stopCauses = [] → s.mod.latch = false →
      s.mod.railsCut = false → s.tr.held.length + s.flash.archive.length < 60000 →
      let down (latch : Bool) (t : State) : Prop :=
        t.mod.power = (if latch then .latched else .off) ∧ t.mod.pgood = false ∧ t.mod.faultN = !latch ∧ t.gz = {} ∧ t.mem = {} ∧
        t.hw = {} ∧ t.mm = [] ∧ t.ws = [] ∧ t.cf = [] ∧ t.drv = [] ∧ t.link = {} ∧ t.tr = {} ∧ t.pending = s.pending
      let stopped (i : Instr) (latch : Bool) (P : State → Prop) : Prop := ∃ t, exec i s = .next t ∧ down latch t ∧
        (s.tr.inTransit = [] → t.flash.cleanStop = true) ∧ s.flash.nextPage < t.flash.nextPage ∧
        s.flash.archive.length + s.tr.held.length < t.flash.archive.length ∧ P t
      stopped .enLow false (fun t => t.mod.en = false ∧ t.mod.thermtripN = true ∧ t.mod.pgoodLow = some s.now) ∧
      (∀ mv, stopped (.vinUndervoltageStop mv) false (fun _ => True)) ∧
      (∀ mv, stopped (.vinOvervoltageDisconnect mv) true (fun t => t.mod.connected = false)) ∧
      (∀ a, stopped (.overcurrentStop a) true (fun _ => True)) ∧
      (∀ u temp, stopped (.thermalTrip u temp) true (fun t => t.mod.thermtripN = false)) ∧
      (∀ die rail, ∃ t, exec (.railFault die rail) s = .next t ∧ down true t ∧ t.flash.archive = s.flash.archive ∧
        t.flash.nextPage = s.flash.nextPage ∧
        t.flash.latchedCauses = s.flash.latchedCauses ++ [causeEntry 6 (uid 0 die.val 0) rail]) ∧
      (Idle s → ∀ mv, (∃ t, exec (.vinUndervoltageWarning mv) s = .next t ∧ t.mod = s.mod ∧ t.mem = s.mem ∧ s.tr.nextSeq < t.tr.nextSeq) ∧
        (∃ t, exec (.vinOvervoltageWarning mv) s = .next t ∧ t.mod = s.mod ∧ t.mem = s.mem ∧ s.tr.nextSeq < t.tr.nextSeq))) ∧
  (∀ (tms tdi : Bool) (s : State), Idle s →
      let e := exec (.testPortClock tms tdi true) s
      let m := s.mod
      (s.mod.pgood = false → ∀ r, exec (.testPortClock tms tdi r) s = .next (passed s)) ∧
      (s.mod.pgood = true →
        (∃ t, exec (.testPortClock tms tdi false) s = .next t ∧
          t = passed { s with mod := { m with tap := .reset, tapIr := irIdcode, tapShift := [], tdo := false } }) ∧
        (∃ t, e = .next t ∧ t = passed { s with mod := t.mod } ∧ t.mod.tap = tapNext m.tap tms ∧
          t.mod = { m with tap := t.mod.tap, tapIr := t.mod.tapIr, tapShift := t.mod.tapShift, tdo := t.mod.tdo } ∧
          (m.tap = .capDr → m.tapIr = irIdcode → ofBits t.mod.tapShift = 0x17364B4B ∧ t.mod.tapShift.length = 32) ∧
          (m.tap = .capDr → m.tapIr ≠ irIdcode → t.mod.tapShift = [false]) ∧
          (m.tap = .shiftDr ∨ m.tap = .shiftIr → t.mod.tapShift = m.tapShift.drop 1 ++ [tdi]) ∧
          (m.tap = .updIr → t.mod.tapIr = if ofBits m.tapShift = irIdcode then irIdcode else irBypass) ∧
          (t.mod.tap = .shiftDr ∨ t.mod.tap = .shiftIr → t.mod.tdo = t.mod.tapShift.headD false))))

/-! ## Packets as bytes (02 R44, R53-R56) -/

/-- The bytes of a packet spell it: for every packet row and every operand, reading the bytes of header and parameter block gives back
the command, without the hardware faults that only its dispatch brings; the packet is 32 + 16 · LEN bytes long and its
header sets no reserved bit. -/
def Obligations.PacketRoundTrip : Prop :=
  ∀ (i : Instr) (op : Nat), opcodeOf i = some op →
    readPacket (packetBytes i) = some (withFaults {} i) ∧ (packetBytes i).length = 32 + 16 * (lenOf op).getD 0 ∧
    hdrRsvd (packetBytes i) = none
end

