-- ==== Sys2Proof/Laws/Memory.lean ====
section
/-! SUPPORT. Memory: the canonical form of the list of bytes, reads after writes, and what a store does. -/

namespace Sys2Proof.Laws

open Sys2Proof.Machine

/-! ## The canonical form -/

/-- The canonical form, said of all entries: every entry lists a byte other than 0, and addresses rise strictly. -/
theorem wf_iff (m : List (Nat × Byte)) :
    Memory.wf m = true ↔ (∀ p ∈ m, p.2 ≠ 0) ∧ m.Pairwise (fun p q => p.1 < q.1) := by
  induction m with
  | nil => simp [Memory.wf]
  | cons p m ih =>
    cases m with
    | nil => simp [Memory.wf]
    | cons q m =>
      obtain ⟨k, b⟩ := p
      obtain ⟨k', b'⟩ := q
      rw [show Memory.wf ((k, b) :: (k', b') :: m) = (b != 0 && decide (k < k') && Memory.wf ((k', b') :: m)) from rfl,
        Bool.and_eq_true, Bool.and_eq_true, ih]
      constructor
      · rintro ⟨⟨hb, hk⟩, ha, hp⟩
        have hk' : k < k' := of_decide_eq_true hk
        refine ⟨?_, List.pairwise_cons.2 ⟨?_, hp⟩⟩
        · intro x hx
          rcases List.mem_cons.1 hx with rfl | hx
          · simpa using hb
          · exact ha x hx
        · intro x hx
          rcases List.mem_cons.1 hx with rfl | hx
          · exact hk'
          · exact lt_trans hk' ((List.pairwise_cons.1 hp).1 x hx)
      · rintro ⟨ha, hp⟩
        obtain ⟨hk, hp⟩ := List.pairwise_cons.1 hp
        refine ⟨⟨?_, ?_⟩, fun x hx => ha x (List.mem_cons_of_mem _ hx), hp⟩
        · simpa using ha (k, b) List.mem_cons_self
        · simpa using hk (k', b') List.mem_cons_self

/-- The addresses listed after one byte is written are those before it and the byte's own. -/
theorem mem_cellSet (m : List (Nat × Byte)) (a : Nat) (b : Byte) (p : Nat × Byte) (h : p ∈ cellSet m a b) :
    p ∈ m ∨ p = (a, b) ∧ b ≠ 0 := by
  induction m with
  | nil =>
    simp only [cellSet] at h
    split at h
    · simp at h
    · rename_i hb
      exact .inr ⟨List.mem_singleton.1 h, hb⟩
  | cons q m ih =>
    obtain ⟨k, w⟩ := q
    simp only [cellSet] at h
    split at h
    · split at h
      · exact .inl h
      · rename_i hb
        rcases List.mem_cons.1 h with h | h
        · exact .inr ⟨h, hb⟩
        · exact .inl h
    · split at h
      · split at h
        · exact .inl (List.mem_cons_of_mem _ h)
        · rename_i hb
          rcases List.mem_cons.1 h with h | h
          · exact .inr ⟨h, hb⟩
          · exact .inl (List.mem_cons_of_mem _ h)
      · rcases List.mem_cons.1 h with h | h
        · exact .inl (h ▸ List.mem_cons_self)
        · exact (ih h).imp (List.mem_cons_of_mem _) id

/-- Writing one byte keeps the canonical form. -/
theorem cellSet_wf (m : List (Nat × Byte)) (a : Nat) (b : Byte) (h : Memory.wf m = true) : Memory.wf (cellSet m a b) = true := by
  rw [wf_iff] at h ⊢
  refine ⟨fun p hp => ?_, ?_⟩
  · rcases mem_cellSet m a b p hp with h' | ⟨rfl, hb⟩
    · exact h.1 p h'
    · exact hb
  · obtain ⟨hz, hp⟩ := h
    induction m with
    | nil => simp only [cellSet]; split <;> simp
    | cons q m ih =>
      obtain ⟨k, w⟩ := q
      have hk := (List.pairwise_cons.1 hp).1
      have hm := (List.pairwise_cons.1 hp).2
      simp only [cellSet]
      split
      · rename_i hak
        split
        · exact hp
        · refine List.pairwise_cons.2 ⟨fun x hx => ?_, hp⟩
          rcases List.mem_cons.1 hx with rfl | hx
          · exact hak
          · exact lt_trans hak (hk x hx)
      · split
        · rename_i _ hak
          split
          · exact hm
          · subst hak
            exact List.pairwise_cons.2 ⟨hk, hm⟩
        · rename_i h1 h2
          refine List.pairwise_cons.2 ⟨fun x hx => ?_, ih (fun p hp' => hz p (List.mem_cons_of_mem _ hp')) hm⟩
          rcases mem_cellSet m a b x hx with h' | ⟨rfl, _⟩
          · exact hk x h'
          · show k < a
            omega

/-- Writing bytes keeps the canonical form. -/
theorem cellWrite_wf (m : List (Nat × Byte)) (a : Nat) (bs : List Byte) (h : Memory.wf m = true) :
    Memory.wf (cellWrite m a bs) = true := by
  induction bs generalizing m a with
  | nil => exact h
  | cons b bs ih => exact ih _ _ (cellSet_wf m a b h)

/-- Dropping entries keeps the canonical form. -/
theorem filter_wf (m : List (Nat × Byte)) (p : Nat × Byte → Bool) (h : Memory.wf m = true) : Memory.wf (m.filter p) = true := by
  rw [wf_iff] at h ⊢
  exact ⟨fun x hx => h.1 x (List.mem_filter.1 hx).1, h.2.filter p⟩

/-! ## Reading after writing -/

theorem cellGet_of_lt (m : List (Nat × Byte)) (a : Nat) (h : ∀ p ∈ m, a < p.1) : cellGet m a = 0 := by
  induction m with
  | nil => rfl
  | cons q m ih =>
    obtain ⟨k, w⟩ := q
    have : a < k := h (k, w) List.mem_cons_self
    simp only [cellGet, if_neg (Nat.ne_of_lt this)]
    exact ih fun p hp => h p (List.mem_cons_of_mem _ hp)

/-- A byte read after one byte is written. -/
theorem cellGet_cellSet (m : List (Nat × Byte)) (a x : Nat) (b : Byte) (h : Memory.wf m = true) :
    cellGet (cellSet m a b) x = if x = a then b else cellGet m x := by
  rw [wf_iff] at h
  obtain ⟨-, hp⟩ := h
  induction m with
  | nil =>
    simp only [cellSet]
    split <;> rename_i hb
    · subst hb; simp [cellGet]
    · simp only [cellGet]
  | cons q m ih =>
    obtain ⟨k, w⟩ := q
    have hk := (List.pairwise_cons.1 hp).1
    have hm := (List.pairwise_cons.1 hp).2
    simp only [cellSet]
    split
    · rename_i hak
      split <;> rename_i hb
      · subst hb
        split <;> rename_i hx
        · subst hx
          refine cellGet_of_lt _ _ fun p hp' => ?_
          rcases List.mem_cons.1 hp' with rfl | hp'
          · exact hak
          · exact lt_trans hak (hk p hp')
        · rfl
      · simp only [cellGet]
    · split
      · rename_i _ hak
        subst hak
        split <;> rename_i hb
        · subst hb
          split <;> rename_i hx
          · subst hx
            exact cellGet_of_lt _ _ hk
          · simp only [cellGet, if_neg hx]
        · simp only [cellGet]
          split <;> rfl
      · rename_i _ hak
        simp only [cellGet, ih hm]
        split <;> rename_i hx
        · subst hx
          rw [if_neg (Ne.symm hak)]
        · rfl

/-- A byte read after bytes are written. -/
theorem cellGet_cellWrite (m : List (Nat × Byte)) (a x : Nat) (bs : List Byte) (h : Memory.wf m = true) :
    cellGet (cellWrite m a bs) x = if a ≤ x ∧ x < a + bs.length then bs.getD (x - a) 0 else cellGet m x := by
  induction bs generalizing m a with
  | nil => simp only [cellWrite, List.length_nil]; rw [if_neg (by omega)]
  | cons b bs ih =>
    simp only [cellWrite, List.length_cons]
    rw [ih _ _ (cellSet_wf m a b h), cellGet_cellSet m a x b h]
    by_cases hx : x = a
    · subst hx
      rw [if_neg (by omega), if_pos rfl, if_pos (by omega), Nat.sub_self]
      rfl
    · by_cases hr : a + 1 ≤ x ∧ x < a + 1 + bs.length
      · rw [if_pos hr, if_pos (by omega), show x - a = (x - (a + 1)) + 1 by omega]
        rfl
      · rw [if_neg hr, if_neg hx, if_neg (by omega)]

/-! ## What waking and tracking leave alone -/

@[simp] theorem meetWaiter_mem (s : State) (w : Waiter) (v : Nat) : (meetWaiter s w v).mem = s.mem := by
  unfold meetWaiter; dsimp only; split <;> rfl

theorem foldl_mem {α : Type} (f : State → α → State) (h : ∀ s x, (f s x).mem = s.mem) (l : List α) (s : State) :
    (l.foldl f s).mem = s.mem := by
  induction l generalizing s with
  | nil => rfl
  | cons x l ih => exact (ih _).trans (h s x)

@[simp] theorem wake_mem (s : State) (a : Nat) : (wake s a).mem = s.mem := by
  unfold wake; exact foldl_mem _ (fun s x => meetWaiter_mem s x _) _ s

@[simp] theorem track_mem (s : State) (w : Who) (a : Nat) : (track s w a).mem = s.mem := rfl

@[simp] theorem monitors_mem (s : State) (w : Who) (a n : Nat) : (monitors s w a n).mem = s.mem := by
  unfold monitors
  split
  · rfl
  · exact foldl_mem _ (fun s x => by rw [wake_mem, track_mem]) _ s

@[simp] theorem breakResv_mem (s : State) (a n : Nat) : (breakResv s a n).mem = s.mem := by
  unfold breakResv; split <;> rfl

/-! ## Stores -/

/-- All that a visible store does to memory. -/
theorem storeNow_mem (s : State) (w : Who) (a : Nat) (bs : List Byte) :
    (storeNow s w a bs).mem = { s.mem with
      cells := cellWrite s.mem.cells a bs
      poison := unpoison a bs.length s.mem.poison
      kept := unkeep a bs.length s.mem.kept
      undef := undefCut a bs.length s.mem.undef } := by
  unfold storeNow; simp only [monitors_mem, breakResv_mem]

/-- All that a store that a fence may have to make visible does to memory. -/
theorem storeLazy_mem (s : State) (w : Who) (a : Nat) (bs : List Byte) (h : bs.isEmpty = false) :
    (storeLazy s w a bs).mem = { s.mem with
      unseen := ⟨w.unit, w.job, w.ring, a, bytesAt s a bs.length⟩ :: s.mem.unseen
      cells := cellWrite s.mem.cells a bs
      poison := unpoison a bs.length s.mem.poison
      kept := unkeep a bs.length s.mem.kept
      undef := undefCut a bs.length s.mem.undef } := by
  unfold storeLazy; simp only [h, Bool.false_eq_true, if_false, storeNow_mem]

theorem storeNow_wf (s : State) (w : Who) (a : Nat) (bs : List Byte) (h : Memory.wf s.mem.cells = true) :
    Memory.wf (storeNow s w a bs).mem.cells = true := by
  rw [storeNow_mem]; exact cellWrite_wf _ _ _ h

theorem storeLazy_wf (s : State) (w : Who) (a : Nat) (bs : List Byte) (h : Memory.wf s.mem.cells = true) :
    Memory.wf (storeLazy s w a bs).mem.cells = true := by
  cases hb : bs.isEmpty with
  | false => rw [storeLazy_mem s w a bs hb]; exact cellWrite_wf _ _ _ h
  | true => unfold storeLazy; simp only [hb, if_true]; exact h

/-! ## Undefined regions -/

/-- The region that an address lies in, after a range is cut out: none inside the range, the same outside it. -/
theorem find_undefCut (a n x : Nat) (l : List (Nat × Nat × Nat)) :
    (undefCut a n l).find? (fun r => r.1 ≤ x && x < r.1 + r.2.1) =
      if a ≤ x ∧ x < a + n then none
      else ((l.find? (fun r => r.1 ≤ x && x < r.1 + r.2.1)).map fun r =>
        if r.1 + r.2.1 ≤ a ∨ a + n ≤ r.1 then r
        else if x < a then (r.1, a - r.1, r.2.2) else (a + n, r.1 + r.2.1 - (a + n), r.2.2)) := by
  induction l with
  | nil => simp [undefCut]
  | cons r l ih =>
    obtain ⟨b, m, t⟩ := r
    have hc : undefCut a n ((b, m, t) :: l) =
        (if b + m ≤ a || a + n ≤ b then [(b, m, t)]
          else (if b < a then [(b, a - b, t)] else []) ++ (if a + n < b + m then [(a + n, b + m - (a + n), t)] else [])) ++
          undefCut a n l := rfl
    rw [hc, List.find?_append, ih]
    by_cases hi : a ≤ x ∧ x < a + n
    · simp only [if_pos hi]
      rw [Option.or_none, List.find?_eq_none]
      intro p hp
      split at hp
      · rename_i hd
        rw [List.mem_singleton.1 hp]
        simp only [Bool.or_eq_true, decide_eq_true_eq] at hd
        simp only [Bool.and_eq_true, decide_eq_true_eq]
        omega
      · rcases List.mem_append.1 hp with hp | hp
        · split at hp
          · rw [List.mem_singleton.1 hp]; simp only [Bool.and_eq_true, decide_eq_true_eq]; omega
          · simp at hp
        · split at hp
          · rw [List.mem_singleton.1 hp]; simp only [Bool.and_eq_true, decide_eq_true_eq]; omega
          · simp at hp
    · simp only [if_neg hi]
      by_cases hin : b ≤ x ∧ x < b + m
      · have hb : (decide (b ≤ x) && decide (x < b + m)) = true := by simp [hin.1, hin.2]
        simp only [List.find?_cons, hb]
        by_cases hd : b + m ≤ a ∨ a + n ≤ b
        · have hd' : (decide (b + m ≤ a) || decide (a + n ≤ b)) = true := by simpa using hd
          simp only [hd', if_true, List.find?_cons, hb, Option.map_some, if_pos hd]
          rfl
        · have hd' : (decide (b + m ≤ a) || decide (a + n ≤ b)) = false := by
            rw [Bool.eq_false_iff]; simpa using hd
          simp only [hd', Bool.false_eq_true, if_false, Option.map_some, if_neg hd]
          by_cases hxa : x < a
          · have h1 : b < a := by omega
            have h2 : (decide (b ≤ x) && decide (x < b + (a - b))) = true := by
              simp only [Bool.and_eq_true, decide_eq_true_eq]; omega
            simp only [if_pos h1, List.singleton_append, List.find?_cons, h2, if_pos hxa]
            rfl
          · have h3 : a + n < b + m := by omega
            have h4 : (decide (a + n ≤ x) && decide (x < a + n + (b + m - (a + n)))) = true := by
              simp only [Bool.and_eq_true, decide_eq_true_eq]; omega
            simp only [if_pos h3, if_neg hxa]
            by_cases h1 : b < a
            · have h5 : (decide (b ≤ x) && decide (x < b + (a - b))) = false := by
                rw [Bool.eq_false_iff]; simp only [ne_eq, Bool.and_eq_true, decide_eq_true_eq]; omega
              simp only [if_pos h1, List.singleton_append, List.find?_cons, h5, h4]
              rfl
            · simp only [if_neg h1, List.nil_append, List.find?_cons, h4]
              rfl
      · have hb : (decide (b ≤ x) && decide (x < b + m)) = false := by
          rw [Bool.eq_false_iff]; simp only [ne_eq, Bool.and_eq_true, decide_eq_true_eq]; exact hin
        simp only [List.find?_cons, hb]
        have hn : List.find? (fun r : Nat × Nat × Nat => decide (r.1 ≤ x) && decide (x < r.1 + r.2.1))
            (if decide (b + m ≤ a) || decide (a + n ≤ b) then [(b, m, t)]
              else (if b < a then [(b, a - b, t)] else []) ++ (if a + n < b + m then [(a + n, b + m - (a + n), t)] else [])) =
            none := by
          rw [List.find?_eq_none]
          intro p hp
          split at hp
          · rw [List.mem_singleton.1 hp]; simp only [Bool.and_eq_true, decide_eq_true_eq]; exact hin
          · rename_i hd
            simp only [Bool.or_eq_true, decide_eq_true_eq] at hd
            rcases List.mem_append.1 hp with hp | hp
            · split at hp
              · rw [List.mem_singleton.1 hp]; simp only [Bool.and_eq_true, decide_eq_true_eq]; omega
              · simp at hp
            · split at hp
              · rw [List.mem_singleton.1 hp]; simp only [Bool.and_eq_true, decide_eq_true_eq]; omega
              · simp at hp
        rw [hn, Option.none_or]

/-- A byte of memory after a visible store: the byte stored inside it, the same byte outside it. -/
theorem byteAt_storeNow (s : State) (w : Who) (a : Nat) (bs : List Byte) (x : Nat) (h : Memory.wf s.mem.cells = true) :
    byteAt (storeNow s w a bs) x = if a ≤ x ∧ x < a + bs.length then bs.getD (x - a) 0 else byteAt s x := by
  unfold byteAt undefAt
  rw [storeNow_mem]
  simp only [find_undefCut, cellGet_cellWrite _ _ _ _ h]
  by_cases hi : a ≤ x ∧ x < a + bs.length
  · simp only [if_pos hi]
  · simp only [if_neg hi]
    cases s.mem.undef.find? (fun r => decide (r.1 ≤ x) && decide (x < r.1 + r.2.1)) with
    | none => rfl
    | some r =>
      simp only [Option.map_some]
      split
      · rfl
      · split <;> rfl

/-- The same of a store that a fence may have to make visible. -/
theorem byteAt_storeLazy (s : State) (w : Who) (a : Nat) (bs : List Byte) (x : Nat) (h : Memory.wf s.mem.cells = true) :
    byteAt (storeLazy s w a bs) x = if a ≤ x ∧ x < a + bs.length then bs.getD (x - a) 0 else byteAt s x := by
  unfold storeLazy
  split
  · rename_i hb
    rw [List.isEmpty_iff.1 hb]
    simp only [List.length_nil]
    rw [if_neg (by omega)]
  · exact byteAt_storeNow { s with mem := { s.mem with unseen := ⟨w.unit, w.job, w.ring, a, bytesAt s a bs.length⟩ :: s.mem.unseen } }
      w a bs x h

/-- The reset state's memory is in canonical form. -/
theorem reset_wf : Memory.wf State.reset.mem.cells = true := rfl

/-- A read of m + n bytes is one of m bytes and one of the n after them. -/
theorem readBytes_add (s : State) (u a m n : Nat) : readBytes s u a (m + n) = readBytes s u a m ++ readBytes s u (a + m) n := by
  induction m generalizing a with
  | zero => simp [readBytes]
  | succ m ih =>
    rw [show m + 1 + n = (m + n) + 1 by omega]
    simp only [readBytes, List.cons_append, ih, show a + 1 + m = a + (m + 1) by omega]

/-- Bytes that nothing has written, in a state that holds no undefined region and no write out of sight, read zero. -/
theorem readBytes_zeros (s : State) (u a n : Nat) (hu : s.mem.undef = []) (hs : s.mem.unseen = [])
    (h : ∀ p ∈ s.mem.cells, p.1 < a ∨ a + n ≤ p.1) : readBytes s u a n = List.replicate n 0 := by
  have key (m : List (Nat × Byte)) (x : Nat) (h : ∀ p ∈ m, p.1 ≠ x) : cellGet m x = 0 := by
    induction m with
    | nil => rfl
    | cons p m ih => simp [cellGet, Ne.symm (h p (by simp)), ih (fun q hq => h q (by simp [hq]))]
  induction n generalizing a with
  | zero => rfl
  | succ n ih =>
    have h0 : cellGet s.mem.cells a = 0 := key _ _ (fun p hp => by have := h p hp; omega)
    rw [readBytes, ih (a + 1) (fun p hp => by have := h p hp; omega)]
    simp [byteFor, hs, seeThrough, byteAt, undefAt, hu, h0, List.replicate_succ]

end Sys2Proof.Laws
end

