-- ==== Sys2Proof/Laws/Rings.lean ====
section
/-! SUPPORT. What a ring does with a packet that it accepts. -/

namespace Sys2Proof.Laws

open Sys2Proof.Machine

/-- Counts of status records do not touch readiness. -/
theorem unitReady_count (s : State) (u off n v : Nat) : unitReady (count s u off n) v = unitReady s v := by
  have h : ∀ e n', anyField (count s u off n) e n' = anyField s e n' := by
    intro e n'
    induction n' with
    | zero => rfl
    | succ k ih => simp only [anyField, ih]; rfl
  unfold unitReady
  split <;> (try simp only [h]) <;> rfl

/-- Readiness of the units in the state in which an accepted packet runs. -/
theorem unitReady_begun (s : State) (i : Instr) (v : Nat) : unitReady (begun s i) v = unitReady s v := by
  have h : ∀ e n', anyField (begun s i) e n' = anyField s e n' := by
    intro e n'
    induction n' with
    | zero => rfl
    | succ k ih =>
      simp only [anyField, ih]
      unfold begun; dsimp only
      split <;> rfl
  unfold unitReady
  split <;> (try simp only [h]) <;> (unfold begun; dsimp only; split <;> rfl)

theorem notReady_begun (s : State) (pre : Pre) (i : Instr) : notReady (begun s i) pre = notReady s pre := by
  unfold notReady
  congr 1
  funext u
  rw [unitReady_begun]

/-- Meeting an accepted packet runs it on its unit with the job and the state that Safety names. -/
theorem arrive_accepted (s : State) (pre : Pre) (run : Job → State → RunRes) (i : Instr) (h : Accepts s pre i) :
    arrive pre run i s = conclude (jobFor s pre i) (run (jobFor s pre i) (begun s i)) := by
  obtain ⟨⟨ho, hp, hs, hb⟩, hc, hr⟩ := h
  have hw : (ringOf s (ringKey (hdrOf i))).waiting.isEmpty = true := by
    unfold stalled at hs
    simp only [Bool.or_eq_false_iff, Bool.not_eq_false'] at hs
    exact hs.1
  unfold arrive
  simp only [ho, if_true]
  unfold meet
  simp only [hs, Bool.false_eq_true, if_false]
  have hpass : passStep i (ringKey (hdrOf i)) s = (s, true) := by
    unfold passStep
    rw [hp]
  simp only [hpass, hp, Option.isSome_none, Bool.not_true, Bool.false_eq_true, if_false, hs, hc]
  unfold accept
  have hw' : (ringOf (count s (ringCore s (ringKey (hdrOf i))) 0x10 1) (ringKey (hdrOf i))).waiting.isEmpty = true := hw
  have hb' : blocked (count s (ringCore s (ringKey (hdrOf i))) 0x10 1) (ringKey (hdrOf i)) i = false := hb
  simp only [hw', hb', Bool.not_false, Bool.and_self, if_true]
  have hn : notReady (begun s i) pre = none := by rw [notReady_begun]; exact hr
  have hd : dispatch pre run i (ringKey (hdrOf i)) (ringOf s (ringKey (hdrOf i))).fetch (ringOf s (ringKey (hdrOf i))).fetch
      (count s (ringCore s (ringKey (hdrOf i))) 0x10 1) = start pre run (jobFor s pre i) (begun s i) := rfl
  rw [hd]
  unfold start
  rw [hn]

theorem issue_accepted (s : State) (pre : Pre) (run : Job → State → RunRes) (i : Instr) (h : Accepts s pre i) :
    issue pre run i s = settle (conclude (jobFor s pre i) (run (jobFor s pre i) (begun s i))) := by
  unfold issue
  rw [arrive_accepted s pre run i h]

/-! ## The end of a step -/

/-- When nothing has ended, a step's end only moves the index of free values on. -/
theorem settle_quiet (s : State) (h : Quiet s) : settle s = passed s := by
  unfold settle
  have : settleN s.gz.jobs.length s = s := by
    cases hl : s.gz.jobs.length with
    | zero => rfl
    | succ n =>
      unfold settleN settleOne
      rw [show firstEnded s s.gz.jobs = none from h]
  rw [this]
  rfl

theorem settle_idle (s : State) (h : Idle s) : settle s = passed s := by
  refine settle_quiet s ?_
  unfold Quiet
  rw [show s.gz.jobs = [] from h]
  rfl

/-- A ring rejects the packet that it meets when the pre-parser's checks fail (02 R45). -/
theorem arrive_rejected (s : State) (pre : Pre) (run : Job → State → RunRes) (i : Instr) (e : End)
    (ho : ringOpen s (ringKey (hdrOf i)) = true) (hp : (ringOf s (ringKey (hdrOf i))).passOver = none)
    (hs : stalled s (ringKey (hdrOf i)) = false) (he : preparse s (ringKey (hdrOf i)) pre i = some e) :
    arrive pre run i s = reject i (ringKey (hdrOf i)) e (count s (ringCore s (ringKey (hdrOf i))) 0x10 1) := by
  unfold arrive
  simp only [ho, if_true]
  unfold meet
  simp only [hs, Bool.false_eq_true, if_false]
  have hpass : passStep i (ringKey (hdrOf i)) s = (s, true) := by
    unfold passStep
    rw [hp]
  simp only [hpass, hp, Option.isSome_none, Bool.not_true, Bool.false_eq_true, if_false, hs, he]
  rfl

/-- A ring that does not exist, is stopped or is closed meets nothing (DEDUCED, log entry 6). -/
theorem arrive_shut (s : State) (pre : Pre) (run : Job → State → RunRes) (i : Instr)
    (h : ringOpen s (ringKey (hdrOf i)) = false) : arrive pre run i s = s := by
  unfold arrive
  simp only [h, Bool.false_eq_true, if_false]

end Sys2Proof.Laws
end

