-- ==== Sys2Proof/Laws/State.lean ====
section
/-! SUPPORT. What each plain update of the state leaves alone: one lemma per update, its parts true by definition, so that no
proof unfolds a record update. -/

namespace Sys2Proof.Laws

open Sys2Proof.Machine

/-- An update of the counts of status records changes `hw` alone. -/
@[simp] theorem count_frame (s : State) (u off n : Nat) :
    (count s u off n).pending = s.pending ∧ (count s u off n).now = s.now ∧ (count s u off n).free = s.free ∧
    (count s u off n).mod = s.mod ∧ (count s u off n).gz = s.gz ∧ (count s u off n).mem = s.mem ∧ (count s u off n).mm = s.mm ∧
    (count s u off n).ws = s.ws ∧ (count s u off n).dir = s.dir ∧ (count s u off n).cf = s.cf ∧ (count s u off n).ver = s.ver ∧
    (count s u off n).dma = s.dma ∧ (count s u off n).sig = s.sig ∧ (count s u off n).drv = s.drv ∧
    (count s u off n).chains = s.chains ∧ (count s u off n).link = s.link ∧ (count s u off n).grp = s.grp ∧
    (count s u off n).tr = s.tr ∧ (count s u off n).snap = s.snap ∧ (count s u off n).flash = s.flash ∧
    (count s u off n).net = s.net :=
  ⟨rfl, rfl, rfl, rfl, rfl, rfl, rfl, rfl, rfl, rfl, rfl, rfl, rfl, rfl, rfl, rfl, rfl, rfl, rfl, rfl, rfl⟩

/-- An update of the counts of status records changes `hw` alone. -/
@[simp] theorem setCount_frame (s : State) (u off n : Nat) :
    (setCount s u off n).pending = s.pending ∧ (setCount s u off n).now = s.now ∧ (setCount s u off n).free = s.free ∧
    (setCount s u off n).mod = s.mod ∧ (setCount s u off n).gz = s.gz ∧ (setCount s u off n).mem = s.mem ∧
    (setCount s u off n).mm = s.mm ∧ (setCount s u off n).ws = s.ws ∧ (setCount s u off n).dir = s.dir ∧
    (setCount s u off n).cf = s.cf ∧ (setCount s u off n).ver = s.ver ∧ (setCount s u off n).dma = s.dma ∧
    (setCount s u off n).sig = s.sig ∧ (setCount s u off n).drv = s.drv ∧ (setCount s u off n).chains = s.chains ∧
    (setCount s u off n).link = s.link ∧ (setCount s u off n).grp = s.grp ∧ (setCount s u off n).tr = s.tr ∧
    (setCount s u off n).snap = s.snap ∧ (setCount s u off n).flash = s.flash ∧ (setCount s u off n).net = s.net :=
  ⟨rfl, rfl, rfl, rfl, rfl, rfl, rfl, rfl, rfl, rfl, rfl, rfl, rfl, rfl, rfl, rfl, rfl, rfl, rfl, rfl, rfl⟩

/-- An update of the counts of status records changes `hw` alone. -/
@[simp] theorem countMax_frame (s : State) (u off n : Nat) :
    (countMax s u off n).pending = s.pending ∧ (countMax s u off n).now = s.now ∧ (countMax s u off n).free = s.free ∧
    (countMax s u off n).mod = s.mod ∧ (countMax s u off n).gz = s.gz ∧ (countMax s u off n).mem = s.mem ∧
    (countMax s u off n).mm = s.mm ∧ (countMax s u off n).ws = s.ws ∧ (countMax s u off n).dir = s.dir ∧
    (countMax s u off n).cf = s.cf ∧ (countMax s u off n).ver = s.ver ∧ (countMax s u off n).dma = s.dma ∧
    (countMax s u off n).sig = s.sig ∧ (countMax s u off n).drv = s.drv ∧ (countMax s u off n).chains = s.chains ∧
    (countMax s u off n).link = s.link ∧ (countMax s u off n).grp = s.grp ∧ (countMax s u off n).tr = s.tr ∧
    (countMax s u off n).snap = s.snap ∧ (countMax s u off n).flash = s.flash ∧ (countMax s u off n).net = s.net :=
  ⟨rfl, rfl, rfl, rfl, rfl, rfl, rfl, rfl, rfl, rfl, rfl, rfl, rfl, rfl, rfl, rfl, rfl, rfl, rfl, rfl, rfl⟩

/-- An update of the configuration items changes `hw` alone. -/
@[simp] theorem setItem_frame (s : State) (u it v : Nat) :
    (setItem s u it v).pending = s.pending ∧ (setItem s u it v).now = s.now ∧ (setItem s u it v).free = s.free ∧
    (setItem s u it v).mod = s.mod ∧ (setItem s u it v).gz = s.gz ∧ (setItem s u it v).mem = s.mem ∧
    (setItem s u it v).mm = s.mm ∧ (setItem s u it v).ws = s.ws ∧ (setItem s u it v).dir = s.dir ∧
    (setItem s u it v).cf = s.cf ∧ (setItem s u it v).ver = s.ver ∧ (setItem s u it v).dma = s.dma ∧
    (setItem s u it v).sig = s.sig ∧ (setItem s u it v).drv = s.drv ∧ (setItem s u it v).chains = s.chains ∧
    (setItem s u it v).link = s.link ∧ (setItem s u it v).grp = s.grp ∧ (setItem s u it v).tr = s.tr ∧
    (setItem s u it v).snap = s.snap ∧ (setItem s u it v).flash = s.flash ∧ (setItem s u it v).net = s.net :=
  ⟨rfl, rfl, rfl, rfl, rfl, rfl, rfl, rfl, rfl, rfl, rfl, rfl, rfl, rfl, rfl, rfl, rfl, rfl, rfl, rfl, rfl⟩

/-- An update of the performance counters changes `hw` alone. -/
@[simp] theorem addCounter_frame (s : State) (u n k : Nat) :
    (addCounter s u n k).pending = s.pending ∧ (addCounter s u n k).now = s.now ∧ (addCounter s u n k).free = s.free ∧
    (addCounter s u n k).mod = s.mod ∧ (addCounter s u n k).gz = s.gz ∧ (addCounter s u n k).mem = s.mem ∧
    (addCounter s u n k).mm = s.mm ∧ (addCounter s u n k).ws = s.ws ∧ (addCounter s u n k).dir = s.dir ∧
    (addCounter s u n k).cf = s.cf ∧ (addCounter s u n k).ver = s.ver ∧ (addCounter s u n k).dma = s.dma ∧
    (addCounter s u n k).sig = s.sig ∧ (addCounter s u n k).drv = s.drv ∧ (addCounter s u n k).chains = s.chains ∧
    (addCounter s u n k).link = s.link ∧ (addCounter s u n k).grp = s.grp ∧ (addCounter s u n k).tr = s.tr ∧
    (addCounter s u n k).snap = s.snap ∧ (addCounter s u n k).flash = s.flash ∧ (addCounter s u n k).net = s.net :=
  ⟨rfl, rfl, rfl, rfl, rfl, rfl, rfl, rfl, rfl, rfl, rfl, rfl, rfl, rfl, rfl, rfl, rfl, rfl, rfl, rfl, rfl⟩

/-- An update of a unit's health changes `hw` alone. -/
@[simp] theorem modHealth_frame (s : State) (u : Nat) (f : Health → Health) :
    (modHealth s u f).pending = s.pending ∧ (modHealth s u f).now = s.now ∧ (modHealth s u f).free = s.free ∧
    (modHealth s u f).mod = s.mod ∧ (modHealth s u f).gz = s.gz ∧ (modHealth s u f).mem = s.mem ∧ (modHealth s u f).mm = s.mm ∧
    (modHealth s u f).ws = s.ws ∧ (modHealth s u f).dir = s.dir ∧ (modHealth s u f).cf = s.cf ∧ (modHealth s u f).ver = s.ver ∧
    (modHealth s u f).dma = s.dma ∧ (modHealth s u f).sig = s.sig ∧ (modHealth s u f).drv = s.drv ∧
    (modHealth s u f).chains = s.chains ∧ (modHealth s u f).link = s.link ∧ (modHealth s u f).grp = s.grp ∧
    (modHealth s u f).tr = s.tr ∧ (modHealth s u f).snap = s.snap ∧ (modHealth s u f).flash = s.flash ∧
    (modHealth s u f).net = s.net :=
  ⟨rfl, rfl, rfl, rfl, rfl, rfl, rfl, rfl, rfl, rfl, rfl, rfl, rfl, rfl, rfl, rfl, rfl, rfl, rfl, rfl, rfl⟩

/-- An update of a die changes `hw` alone. -/
@[simp] theorem modDie_frame (s : State) (d : Nat) (f : DieSt → DieSt) :
    (modDie s d f).pending = s.pending ∧ (modDie s d f).now = s.now ∧ (modDie s d f).free = s.free ∧
    (modDie s d f).mod = s.mod ∧ (modDie s d f).gz = s.gz ∧ (modDie s d f).mem = s.mem ∧ (modDie s d f).mm = s.mm ∧
    (modDie s d f).ws = s.ws ∧ (modDie s d f).dir = s.dir ∧ (modDie s d f).cf = s.cf ∧ (modDie s d f).ver = s.ver ∧
    (modDie s d f).dma = s.dma ∧ (modDie s d f).sig = s.sig ∧ (modDie s d f).drv = s.drv ∧ (modDie s d f).chains = s.chains ∧
    (modDie s d f).link = s.link ∧ (modDie s d f).grp = s.grp ∧ (modDie s d f).tr = s.tr ∧ (modDie s d f).snap = s.snap ∧
    (modDie s d f).flash = s.flash ∧ (modDie s d f).net = s.net :=
  ⟨rfl, rfl, rfl, rfl, rfl, rfl, rfl, rfl, rfl, rfl, rfl, rfl, rfl, rfl, rfl, rfl, rfl, rfl, rfl, rfl, rfl⟩

/-- An update of a context changes `gz` alone. -/
@[simp] theorem modCtx_frame (s : State) (c : Nat) (f : Ctx → Ctx) :
    (modCtx s c f).pending = s.pending ∧ (modCtx s c f).now = s.now ∧ (modCtx s c f).free = s.free ∧
    (modCtx s c f).mod = s.mod ∧ (modCtx s c f).hw = s.hw ∧ (modCtx s c f).mem = s.mem ∧ (modCtx s c f).mm = s.mm ∧
    (modCtx s c f).ws = s.ws ∧ (modCtx s c f).dir = s.dir ∧ (modCtx s c f).cf = s.cf ∧ (modCtx s c f).ver = s.ver ∧
    (modCtx s c f).dma = s.dma ∧ (modCtx s c f).sig = s.sig ∧ (modCtx s c f).drv = s.drv ∧ (modCtx s c f).chains = s.chains ∧
    (modCtx s c f).link = s.link ∧ (modCtx s c f).grp = s.grp ∧ (modCtx s c f).tr = s.tr ∧ (modCtx s c f).snap = s.snap ∧
    (modCtx s c f).flash = s.flash ∧ (modCtx s c f).net = s.net :=
  ⟨rfl, rfl, rfl, rfl, rfl, rfl, rfl, rfl, rfl, rfl, rfl, rfl, rfl, rfl, rfl, rfl, rfl, rfl, rfl, rfl, rfl⟩

/-- An update of a ring changes `gz` alone. -/
@[simp] theorem modRing_frame (s : State) (key : Nat) (f : Ring → Ring) :
    (modRing s key f).pending = s.pending ∧ (modRing s key f).now = s.now ∧ (modRing s key f).free = s.free ∧
    (modRing s key f).mod = s.mod ∧ (modRing s key f).hw = s.hw ∧ (modRing s key f).mem = s.mem ∧ (modRing s key f).mm = s.mm ∧
    (modRing s key f).ws = s.ws ∧ (modRing s key f).dir = s.dir ∧ (modRing s key f).cf = s.cf ∧ (modRing s key f).ver = s.ver ∧
    (modRing s key f).dma = s.dma ∧ (modRing s key f).sig = s.sig ∧ (modRing s key f).drv = s.drv ∧
    (modRing s key f).chains = s.chains ∧ (modRing s key f).link = s.link ∧ (modRing s key f).grp = s.grp ∧
    (modRing s key f).tr = s.tr ∧ (modRing s key f).snap = s.snap ∧ (modRing s key f).flash = s.flash ∧
    (modRing s key f).net = s.net :=
  ⟨rfl, rfl, rfl, rfl, rfl, rfl, rfl, rfl, rfl, rfl, rfl, rfl, rfl, rfl, rfl, rfl, rfl, rfl, rfl, rfl, rfl⟩

/-- An update of a job in flight changes `gz` alone. -/
@[simp] theorem modJob_frame (s : State) (id : Nat) (f : Job → Job) :
    (modJob s id f).pending = s.pending ∧ (modJob s id f).now = s.now ∧ (modJob s id f).free = s.free ∧
    (modJob s id f).mod = s.mod ∧ (modJob s id f).hw = s.hw ∧ (modJob s id f).mem = s.mem ∧ (modJob s id f).mm = s.mm ∧
    (modJob s id f).ws = s.ws ∧ (modJob s id f).dir = s.dir ∧ (modJob s id f).cf = s.cf ∧ (modJob s id f).ver = s.ver ∧
    (modJob s id f).dma = s.dma ∧ (modJob s id f).sig = s.sig ∧ (modJob s id f).drv = s.drv ∧
    (modJob s id f).chains = s.chains ∧ (modJob s id f).link = s.link ∧ (modJob s id f).grp = s.grp ∧
    (modJob s id f).tr = s.tr ∧ (modJob s id f).snap = s.snap ∧ (modJob s id f).flash = s.flash ∧ (modJob s id f).net = s.net :=
  ⟨rfl, rfl, rfl, rfl, rfl, rfl, rfl, rfl, rfl, rfl, rfl, rfl, rfl, rfl, rfl, rfl, rfl, rfl, rfl, rfl, rfl⟩

/-- An update of a job in flight changes `gz` alone. -/
@[simp] theorem endJob_frame (s : State) (id : Nat) (e : End) :
    (endJob s id e).pending = s.pending ∧ (endJob s id e).now = s.now ∧ (endJob s id e).free = s.free ∧
    (endJob s id e).mod = s.mod ∧ (endJob s id e).hw = s.hw ∧ (endJob s id e).mem = s.mem ∧ (endJob s id e).mm = s.mm ∧
    (endJob s id e).ws = s.ws ∧ (endJob s id e).dir = s.dir ∧ (endJob s id e).cf = s.cf ∧ (endJob s id e).ver = s.ver ∧
    (endJob s id e).dma = s.dma ∧ (endJob s id e).sig = s.sig ∧ (endJob s id e).drv = s.drv ∧
    (endJob s id e).chains = s.chains ∧ (endJob s id e).link = s.link ∧ (endJob s id e).grp = s.grp ∧
    (endJob s id e).tr = s.tr ∧ (endJob s id e).snap = s.snap ∧ (endJob s id e).flash = s.flash ∧ (endJob s id e).net = s.net :=
  ⟨rfl, rfl, rfl, rfl, rfl, rfl, rfl, rfl, rfl, rfl, rfl, rfl, rfl, rfl, rfl, rfl, rfl, rfl, rfl, rfl, rfl⟩

/-- An update of a channel changes `mem` alone. -/
@[simp] theorem modChan_frame (s : State) (ch : Nat) (f : Chan → Chan) :
    (modChan s ch f).pending = s.pending ∧ (modChan s ch f).now = s.now ∧ (modChan s ch f).free = s.free ∧
    (modChan s ch f).mod = s.mod ∧ (modChan s ch f).hw = s.hw ∧ (modChan s ch f).gz = s.gz ∧ (modChan s ch f).mm = s.mm ∧
    (modChan s ch f).ws = s.ws ∧ (modChan s ch f).dir = s.dir ∧ (modChan s ch f).cf = s.cf ∧ (modChan s ch f).ver = s.ver ∧
    (modChan s ch f).dma = s.dma ∧ (modChan s ch f).sig = s.sig ∧ (modChan s ch f).drv = s.drv ∧
    (modChan s ch f).chains = s.chains ∧ (modChan s ch f).link = s.link ∧ (modChan s ch f).grp = s.grp ∧
    (modChan s ch f).tr = s.tr ∧ (modChan s ch f).snap = s.snap ∧ (modChan s ch f).flash = s.flash ∧
    (modChan s ch f).net = s.net :=
  ⟨rfl, rfl, rfl, rfl, rfl, rfl, rfl, rfl, rfl, rfl, rfl, rfl, rfl, rfl, rfl, rfl, rfl, rfl, rfl, rfl, rfl⟩

/-- An update of a stack side changes `mem` alone. -/
@[simp] theorem modSide_frame (s : State) (u : Nat) (f : Side → Side) :
    (modSide s u f).pending = s.pending ∧ (modSide s u f).now = s.now ∧ (modSide s u f).free = s.free ∧
    (modSide s u f).mod = s.mod ∧ (modSide s u f).hw = s.hw ∧ (modSide s u f).gz = s.gz ∧ (modSide s u f).mm = s.mm ∧
    (modSide s u f).ws = s.ws ∧ (modSide s u f).dir = s.dir ∧ (modSide s u f).cf = s.cf ∧ (modSide s u f).ver = s.ver ∧
    (modSide s u f).dma = s.dma ∧ (modSide s u f).sig = s.sig ∧ (modSide s u f).drv = s.drv ∧
    (modSide s u f).chains = s.chains ∧ (modSide s u f).link = s.link ∧ (modSide s u f).grp = s.grp ∧
    (modSide s u f).tr = s.tr ∧ (modSide s u f).snap = s.snap ∧ (modSide s u f).flash = s.flash ∧ (modSide s u f).net = s.net :=
  ⟨rfl, rfl, rfl, rfl, rfl, rfl, rfl, rfl, rfl, rfl, rfl, rfl, rfl, rfl, rfl, rfl, rfl, rfl, rfl, rfl, rfl⟩

/-- An update of the writes not yet visible changes `mem` alone. -/
@[simp] theorem fenceUpTo_frame (s : State) (job : Nat) (p : Nat → Bool) :
    (fenceUpTo s job p).pending = s.pending ∧ (fenceUpTo s job p).now = s.now ∧ (fenceUpTo s job p).free = s.free ∧
    (fenceUpTo s job p).mod = s.mod ∧ (fenceUpTo s job p).hw = s.hw ∧ (fenceUpTo s job p).gz = s.gz ∧
    (fenceUpTo s job p).mm = s.mm ∧ (fenceUpTo s job p).ws = s.ws ∧ (fenceUpTo s job p).dir = s.dir ∧
    (fenceUpTo s job p).cf = s.cf ∧ (fenceUpTo s job p).ver = s.ver ∧ (fenceUpTo s job p).dma = s.dma ∧
    (fenceUpTo s job p).sig = s.sig ∧ (fenceUpTo s job p).drv = s.drv ∧ (fenceUpTo s job p).chains = s.chains ∧
    (fenceUpTo s job p).link = s.link ∧ (fenceUpTo s job p).grp = s.grp ∧ (fenceUpTo s job p).tr = s.tr ∧
    (fenceUpTo s job p).snap = s.snap ∧ (fenceUpTo s job p).flash = s.flash ∧ (fenceUpTo s job p).net = s.net :=
  ⟨rfl, rfl, rfl, rfl, rfl, rfl, rfl, rfl, rfl, rfl, rfl, rfl, rfl, rfl, rfl, rfl, rfl, rfl, rfl, rfl, rfl⟩

/-- An update of a drover changes `drv` alone. -/
@[simp] theorem modDrover_frame (s : State) (n : Nat) (f : Drover → Drover) :
    (modDrover s n f).pending = s.pending ∧ (modDrover s n f).now = s.now ∧ (modDrover s n f).free = s.free ∧
    (modDrover s n f).mod = s.mod ∧ (modDrover s n f).hw = s.hw ∧ (modDrover s n f).gz = s.gz ∧ (modDrover s n f).mem = s.mem ∧
    (modDrover s n f).mm = s.mm ∧ (modDrover s n f).ws = s.ws ∧ (modDrover s n f).dir = s.dir ∧ (modDrover s n f).cf = s.cf ∧
    (modDrover s n f).ver = s.ver ∧ (modDrover s n f).dma = s.dma ∧ (modDrover s n f).sig = s.sig ∧
    (modDrover s n f).chains = s.chains ∧ (modDrover s n f).link = s.link ∧ (modDrover s n f).grp = s.grp ∧
    (modDrover s n f).tr = s.tr ∧ (modDrover s n f).snap = s.snap ∧ (modDrover s n f).flash = s.flash ∧
    (modDrover s n f).net = s.net :=
  ⟨rfl, rfl, rfl, rfl, rfl, rfl, rfl, rfl, rfl, rfl, rfl, rfl, rfl, rfl, rfl, rfl, rfl, rfl, rfl, rfl, rfl⟩

/-- An update of a matrix engine changes `mm` alone. -/
@[simp] theorem modEngine_frame (s : State) (u : Nat) (f : Engine → Engine) :
    (modEngine s u f).pending = s.pending ∧ (modEngine s u f).now = s.now ∧ (modEngine s u f).free = s.free ∧
    (modEngine s u f).mod = s.mod ∧ (modEngine s u f).hw = s.hw ∧ (modEngine s u f).gz = s.gz ∧ (modEngine s u f).mem = s.mem ∧
    (modEngine s u f).ws = s.ws ∧ (modEngine s u f).dir = s.dir ∧ (modEngine s u f).cf = s.cf ∧ (modEngine s u f).ver = s.ver ∧
    (modEngine s u f).dma = s.dma ∧ (modEngine s u f).sig = s.sig ∧ (modEngine s u f).drv = s.drv ∧
    (modEngine s u f).chains = s.chains ∧ (modEngine s u f).link = s.link ∧ (modEngine s u f).grp = s.grp ∧
    (modEngine s u f).tr = s.tr ∧ (modEngine s u f).snap = s.snap ∧ (modEngine s u f).flash = s.flash ∧
    (modEngine s u f).net = s.net :=
  ⟨rfl, rfl, rfl, rfl, rfl, rfl, rfl, rfl, rfl, rfl, rfl, rfl, rfl, rfl, rfl, rfl, rfl, rfl, rfl, rfl, rfl⟩

/-- An update of a partition changes `mm` alone. -/
@[simp] theorem modPart_frame (s : State) (u p : Nat) (f : Part → Part) :
    (modPart s u p f).pending = s.pending ∧ (modPart s u p f).now = s.now ∧ (modPart s u p f).free = s.free ∧
    (modPart s u p f).mod = s.mod ∧ (modPart s u p f).hw = s.hw ∧ (modPart s u p f).gz = s.gz ∧ (modPart s u p f).mem = s.mem ∧
    (modPart s u p f).ws = s.ws ∧ (modPart s u p f).dir = s.dir ∧ (modPart s u p f).cf = s.cf ∧ (modPart s u p f).ver = s.ver ∧
    (modPart s u p f).dma = s.dma ∧ (modPart s u p f).sig = s.sig ∧ (modPart s u p f).drv = s.drv ∧
    (modPart s u p f).chains = s.chains ∧ (modPart s u p f).link = s.link ∧ (modPart s u p f).grp = s.grp ∧
    (modPart s u p f).tr = s.tr ∧ (modPart s u p f).snap = s.snap ∧ (modPart s u p f).flash = s.flash ∧
    (modPart s u p f).net = s.net :=
  ⟨rfl, rfl, rfl, rfl, rfl, rfl, rfl, rfl, rfl, rfl, rfl, rfl, rfl, rfl, rfl, rfl, rfl, rfl, rfl, rfl, rfl⟩

/-- An update of a Watershed changes `ws` alone. -/
@[simp] theorem modWs_frame (s : State) (d : Nat) (f : Watershed → Watershed) :
    (modWs s d f).pending = s.pending ∧ (modWs s d f).now = s.now ∧ (modWs s d f).free = s.free ∧ (modWs s d f).mod = s.mod ∧
    (modWs s d f).hw = s.hw ∧ (modWs s d f).gz = s.gz ∧ (modWs s d f).mem = s.mem ∧ (modWs s d f).mm = s.mm ∧
    (modWs s d f).dir = s.dir ∧ (modWs s d f).cf = s.cf ∧ (modWs s d f).ver = s.ver ∧ (modWs s d f).dma = s.dma ∧
    (modWs s d f).sig = s.sig ∧ (modWs s d f).drv = s.drv ∧ (modWs s d f).chains = s.chains ∧ (modWs s d f).link = s.link ∧
    (modWs s d f).grp = s.grp ∧ (modWs s d f).tr = s.tr ∧ (modWs s d f).snap = s.snap ∧ (modWs s d f).flash = s.flash ∧
    (modWs s d f).net = s.net :=
  ⟨rfl, rfl, rfl, rfl, rfl, rfl, rfl, rfl, rfl, rfl, rfl, rfl, rfl, rfl, rfl, rfl, rfl, rfl, rfl, rfl, rfl⟩

/-- An update of a round changes `ws` alone. -/
@[simp] theorem modRound_frame (s : State) (d tag : Nat) (f : Round → Round) :
    (modRound s d tag f).pending = s.pending ∧ (modRound s d tag f).now = s.now ∧ (modRound s d tag f).free = s.free ∧
    (modRound s d tag f).mod = s.mod ∧ (modRound s d tag f).hw = s.hw ∧ (modRound s d tag f).gz = s.gz ∧
    (modRound s d tag f).mem = s.mem ∧ (modRound s d tag f).mm = s.mm ∧ (modRound s d tag f).dir = s.dir ∧
    (modRound s d tag f).cf = s.cf ∧ (modRound s d tag f).ver = s.ver ∧ (modRound s d tag f).dma = s.dma ∧
    (modRound s d tag f).sig = s.sig ∧ (modRound s d tag f).drv = s.drv ∧ (modRound s d tag f).chains = s.chains ∧
    (modRound s d tag f).link = s.link ∧ (modRound s d tag f).grp = s.grp ∧ (modRound s d tag f).tr = s.tr ∧
    (modRound s d tag f).snap = s.snap ∧ (modRound s d tag f).flash = s.flash ∧ (modRound s d tag f).net = s.net :=
  ⟨rfl, rfl, rfl, rfl, rfl, rfl, rfl, rfl, rfl, rfl, rfl, rfl, rfl, rfl, rfl, rfl, rfl, rfl, rfl, rfl, rfl⟩

/-- An update of a tag changes `ws` alone. -/
@[simp] theorem modTag_frame (s : State) (d tag : Nat) (f : TagRec → TagRec) :
    (modTag s d tag f).pending = s.pending ∧ (modTag s d tag f).now = s.now ∧ (modTag s d tag f).free = s.free ∧
    (modTag s d tag f).mod = s.mod ∧ (modTag s d tag f).hw = s.hw ∧ (modTag s d tag f).gz = s.gz ∧
    (modTag s d tag f).mem = s.mem ∧ (modTag s d tag f).mm = s.mm ∧ (modTag s d tag f).dir = s.dir ∧
    (modTag s d tag f).cf = s.cf ∧ (modTag s d tag f).ver = s.ver ∧ (modTag s d tag f).dma = s.dma ∧
    (modTag s d tag f).sig = s.sig ∧ (modTag s d tag f).drv = s.drv ∧ (modTag s d tag f).chains = s.chains ∧
    (modTag s d tag f).link = s.link ∧ (modTag s d tag f).grp = s.grp ∧ (modTag s d tag f).tr = s.tr ∧
    (modTag s d tag f).snap = s.snap ∧ (modTag s d tag f).flash = s.flash ∧ (modTag s d tag f).net = s.net :=
  ⟨rfl, rfl, rfl, rfl, rfl, rfl, rfl, rfl, rfl, rfl, rfl, rfl, rfl, rfl, rfl, rfl, rfl, rfl, rfl, rfl, rfl⟩

/-- An update of a Confluence changes `cf` alone. -/
@[simp] theorem modCf_frame (s : State) (d : Nat) (f : Confluence → Confluence) :
    (modCf s d f).pending = s.pending ∧ (modCf s d f).now = s.now ∧ (modCf s d f).free = s.free ∧ (modCf s d f).mod = s.mod ∧
    (modCf s d f).hw = s.hw ∧ (modCf s d f).gz = s.gz ∧ (modCf s d f).mem = s.mem ∧ (modCf s d f).mm = s.mm ∧
    (modCf s d f).ws = s.ws ∧ (modCf s d f).dir = s.dir ∧ (modCf s d f).ver = s.ver ∧ (modCf s d f).dma = s.dma ∧
    (modCf s d f).sig = s.sig ∧ (modCf s d f).drv = s.drv ∧ (modCf s d f).chains = s.chains ∧ (modCf s d f).link = s.link ∧
    (modCf s d f).grp = s.grp ∧ (modCf s d f).tr = s.tr ∧ (modCf s d f).snap = s.snap ∧ (modCf s d f).flash = s.flash ∧
    (modCf s d f).net = s.net :=
  ⟨rfl, rfl, rfl, rfl, rfl, rfl, rfl, rfl, rfl, rfl, rfl, rfl, rfl, rfl, rfl, rfl, rfl, rfl, rfl, rfl, rfl⟩

/-- An update of a claim changes `cf` alone. -/
@[simp] theorem modClaim_frame (s : State) (d tag : Nat) (grad : Bool) (f : Claim → Claim) :
    (modClaim s d tag grad f).pending = s.pending ∧ (modClaim s d tag grad f).now = s.now ∧
    (modClaim s d tag grad f).free = s.free ∧ (modClaim s d tag grad f).mod = s.mod ∧ (modClaim s d tag grad f).hw = s.hw ∧
    (modClaim s d tag grad f).gz = s.gz ∧ (modClaim s d tag grad f).mem = s.mem ∧ (modClaim s d tag grad f).mm = s.mm ∧
    (modClaim s d tag grad f).ws = s.ws ∧ (modClaim s d tag grad f).dir = s.dir ∧ (modClaim s d tag grad f).ver = s.ver ∧
    (modClaim s d tag grad f).dma = s.dma ∧ (modClaim s d tag grad f).sig = s.sig ∧ (modClaim s d tag grad f).drv = s.drv ∧
    (modClaim s d tag grad f).chains = s.chains ∧ (modClaim s d tag grad f).link = s.link ∧
    (modClaim s d tag grad f).grp = s.grp ∧ (modClaim s d tag grad f).tr = s.tr ∧ (modClaim s d tag grad f).snap = s.snap ∧
    (modClaim s d tag grad f).flash = s.flash ∧ (modClaim s d tag grad f).net = s.net :=
  ⟨rfl, rfl, rfl, rfl, rfl, rfl, rfl, rfl, rfl, rfl, rfl, rfl, rfl, rfl, rfl, rfl, rfl, rfl, rfl, rfl, rfl⟩

/-- An update of the chains of a die changes `chains` alone. -/
@[simp] theorem modChains_frame (s : State) (d : Nat) (f : List Chain → List Chain) :
    (modChains s d f).pending = s.pending ∧ (modChains s d f).now = s.now ∧ (modChains s d f).free = s.free ∧
    (modChains s d f).mod = s.mod ∧ (modChains s d f).hw = s.hw ∧ (modChains s d f).gz = s.gz ∧ (modChains s d f).mem = s.mem ∧
    (modChains s d f).mm = s.mm ∧ (modChains s d f).ws = s.ws ∧ (modChains s d f).dir = s.dir ∧ (modChains s d f).cf = s.cf ∧
    (modChains s d f).ver = s.ver ∧ (modChains s d f).dma = s.dma ∧ (modChains s d f).sig = s.sig ∧
    (modChains s d f).drv = s.drv ∧ (modChains s d f).link = s.link ∧ (modChains s d f).grp = s.grp ∧
    (modChains s d f).tr = s.tr ∧ (modChains s d f).snap = s.snap ∧ (modChains s d f).flash = s.flash ∧
    (modChains s d f).net = s.net :=
  ⟨rfl, rfl, rfl, rfl, rfl, rfl, rfl, rfl, rfl, rfl, rfl, rfl, rfl, rfl, rfl, rfl, rfl, rfl, rfl, rfl, rfl⟩

/-- An update of a link port changes `link` alone. -/
@[simp] theorem modPort_frame (s : State) (u : Nat) (f : Port → Port) :
    (modPort s u f).pending = s.pending ∧ (modPort s u f).now = s.now ∧ (modPort s u f).free = s.free ∧
    (modPort s u f).mod = s.mod ∧ (modPort s u f).hw = s.hw ∧ (modPort s u f).gz = s.gz ∧ (modPort s u f).mem = s.mem ∧
    (modPort s u f).mm = s.mm ∧ (modPort s u f).ws = s.ws ∧ (modPort s u f).dir = s.dir ∧ (modPort s u f).cf = s.cf ∧
    (modPort s u f).ver = s.ver ∧ (modPort s u f).dma = s.dma ∧ (modPort s u f).sig = s.sig ∧ (modPort s u f).drv = s.drv ∧
    (modPort s u f).chains = s.chains ∧ (modPort s u f).grp = s.grp ∧ (modPort s u f).tr = s.tr ∧
    (modPort s u f).snap = s.snap ∧ (modPort s u f).flash = s.flash ∧ (modPort s u f).net = s.net :=
  ⟨rfl, rfl, rfl, rfl, rfl, rfl, rfl, rfl, rfl, rfl, rfl, rfl, rfl, rfl, rfl, rfl, rfl, rfl, rfl, rfl, rfl⟩

/-- An update of a peer changes `grp` alone. -/
@[simp] theorem modPeer_frame (s : State) (pos : Nat) (f : Peer → Peer) :
    (modPeer s pos f).pending = s.pending ∧ (modPeer s pos f).now = s.now ∧ (modPeer s pos f).free = s.free ∧
    (modPeer s pos f).mod = s.mod ∧ (modPeer s pos f).hw = s.hw ∧ (modPeer s pos f).gz = s.gz ∧ (modPeer s pos f).mem = s.mem ∧
    (modPeer s pos f).mm = s.mm ∧ (modPeer s pos f).ws = s.ws ∧ (modPeer s pos f).dir = s.dir ∧ (modPeer s pos f).cf = s.cf ∧
    (modPeer s pos f).ver = s.ver ∧ (modPeer s pos f).dma = s.dma ∧ (modPeer s pos f).sig = s.sig ∧
    (modPeer s pos f).drv = s.drv ∧ (modPeer s pos f).chains = s.chains ∧ (modPeer s pos f).link = s.link ∧
    (modPeer s pos f).tr = s.tr ∧ (modPeer s pos f).snap = s.snap ∧ (modPeer s pos f).flash = s.flash ∧
    (modPeer s pos f).net = s.net :=
  ⟨rfl, rfl, rfl, rfl, rfl, rfl, rfl, rfl, rfl, rfl, rfl, rfl, rfl, rfl, rfl, rfl, rfl, rfl, rfl, rfl, rfl⟩

/-- An update of a sensor changes `hw` alone. -/
@[simp] theorem modSensor_frame (s : State) (k : Nat) (f : Sensor → Sensor) :
    (modSensor s k f).pending = s.pending ∧ (modSensor s k f).now = s.now ∧ (modSensor s k f).free = s.free ∧
    (modSensor s k f).mod = s.mod ∧ (modSensor s k f).gz = s.gz ∧ (modSensor s k f).mem = s.mem ∧ (modSensor s k f).mm = s.mm ∧
    (modSensor s k f).ws = s.ws ∧ (modSensor s k f).dir = s.dir ∧ (modSensor s k f).cf = s.cf ∧ (modSensor s k f).ver = s.ver ∧
    (modSensor s k f).dma = s.dma ∧ (modSensor s k f).sig = s.sig ∧ (modSensor s k f).drv = s.drv ∧
    (modSensor s k f).chains = s.chains ∧ (modSensor s k f).link = s.link ∧ (modSensor s k f).grp = s.grp ∧
    (modSensor s k f).tr = s.tr ∧ (modSensor s k f).snap = s.snap ∧ (modSensor s k f).flash = s.flash ∧
    (modSensor s k f).net = s.net :=
  ⟨rfl, rfl, rfl, rfl, rfl, rfl, rfl, rfl, rfl, rfl, rfl, rfl, rfl, rfl, rfl, rfl, rfl, rfl, rfl, rfl, rfl⟩

end Sys2Proof.Laws
end

