-- ==== Sys2Proof/Laws/Tables.lean ====
section
/-! SUPPORT. Tables keyed by a number, bytes of numbers, and what an accessor reads after an update of its own table. -/

namespace Sys2Proof.Laws

open Sys2Proof.Machine

/-! ## Tables -/

/-- An entry that was written reads as written, and every other one as before. -/
theorem amGet_amPut {α : Type} (d : α) (m : AMap α) (k x : Nat) (v : α) :
    amGet d (amPut m k v) x = if x = k then v else amGet d m x := by
  induction m with
  | nil => by_cases h : x = k <;> simp [amPut, amGet, h]
  | cons p m ih =>
    obtain ⟨a, w⟩ := p
    by_cases h1 : k < a
    · simp [amPut, amGet, h1]
    · by_cases h2 : k = a
      · subst h2
        by_cases h3 : x = k <;> simp [amPut, amGet, h3]
      · by_cases h3 : x = a
        · subst h3
          simp [amPut, amGet, h1, h2, Ne.symm h2]
        · simp [amPut, amGet, h1, h2, h3, ih]

/-- An entry that was changed reads as changed, and every other one as before. -/
theorem amGet_amMod {α : Type} (d : α) (m : AMap α) (k x : Nat) (f : α → α) :
    amGet d (amMod d m k f) x = if x = k then f (amGet d m k) else amGet d m x := amGet_amPut d m k x _

/-- A search after a write finds the entry written, and otherwise what it found before. -/
theorem amFind_amPut {α : Type} (m : AMap α) (k x : Nat) (v : α) :
    amFind (amPut m k v) x = if x = k then some v else amFind m x := by
  induction m with
  | nil =>
    by_cases h : x = k
    · simp [amPut, amFind, h]
    · simp [amPut, amFind, h, beq_eq_false_iff_ne.mpr (Ne.symm h)]
  | cons p m ih =>
    obtain ⟨a, w⟩ := p
    by_cases h1 : k < a
    · by_cases h : x = k
      · simp [amPut, amFind, h1, h]
      · simp [amPut, amFind, h1, h, beq_eq_false_iff_ne.mpr (Ne.symm h)]
    · by_cases h2 : k = a
      · subst h2
        by_cases h3 : x = k
        · simp [amPut, amFind, h3]
        · simp [amPut, amFind, h3, beq_eq_false_iff_ne.mpr (Ne.symm h3)]
      · by_cases h3 : x = a
        · subst h3
          simp [amPut, amFind, h1, h2, Ne.symm h2]
        · have e := beq_eq_false_iff_ne.mpr (Ne.symm h3)
          simp only [amFind] at ih
          simp [amPut, amFind, h1, h2, e, ih]

/-- An entry that was removed is not found, and every other one as before. -/
theorem amFind_amDel {α : Type} (m : AMap α) (k x : Nat) :
    amFind (amDel m k) x = if x = k then none else amFind m x := by
  induction m with
  | nil => simp [amDel, amFind]
  | cons p m ih =>
    obtain ⟨a, w⟩ := p
    simp only [amDel, amFind] at ih
    by_cases h1 : a = k
    · subst h1
      by_cases h : x = a
      · subst h; simp [amDel, amFind]
      · simp [amDel, amFind, h, beq_eq_false_iff_ne.mpr (Ne.symm h)] at ih ⊢
        exact ih
    · by_cases h : a = x
      · subst h; simp [amDel, amFind, h1]
      · simp only [amDel, amFind, List.filter_cons, List.find?_cons, beq_eq_false_iff_ne.mpr h]
        simpa [h1, List.find?_cons, beq_eq_false_iff_ne.mpr h] using ih

/-- Reading with a default is a search. -/
theorem amGet_eq {α : Type} (d : α) (m : AMap α) (x : Nat) : amGet d m x = (amFind m x).getD d := by
  induction m with
  | nil => rfl
  | cons p m ih =>
    obtain ⟨a, w⟩ := p
    by_cases h : x = a
    · subst h; simp [amGet, amFind]
    · simp only [amFind] at ih
      simp [amGet, amFind, h, beq_eq_false_iff_ne.mpr (Ne.symm h), ih]

/-! ## Bytes of numbers (00 R8) -/

@[simp] theorem leBytes_length (n v : Nat) : (leBytes n v).length = n := by
  induction n generalizing v with
  | zero => rfl
  | succ n ih => simp [leBytes, ih]

/-- The bytes of a number spell it, modulo the range of their length. -/
theorem leNat_leBytes (n v : Nat) : leNat (leBytes n v) = v % 256 ^ n := by
  induction n generalizing v with
  | zero => simp [leBytes, leNat, Nat.mod_one]
  | succ n ih =>
    have e : (256 : Nat) ^ (n + 1) = 256 * 256 ^ n := by rw [Nat.pow_succ, Nat.mul_comm]
    rw [leBytes, leNat, ih, BitVec.toNat_ofNat, e, Nat.mod_mul]

/-- A string of n bytes spells a number below 256^n. -/
theorem leNat_lt (b : List Byte) : leNat b < 256 ^ b.length := by
  induction b with
  | nil => simp [leNat]
  | cons x b ih =>
    have := x.isLt
    simp only [leNat, List.length_cons, Nat.pow_succ]
    omega

/-- The number that bytes spell has those bytes. -/
theorem leBytes_leNat (b : List Byte) : leBytes b.length (leNat b) = b := by
  induction b with
  | nil => rfl
  | cons x b ih =>
    have h := x.isLt
    have h1 : (x.toNat + 256 * leNat b) / 256 = leNat b := by omega
    simp only [leNat, List.length_cons, leBytes, h1, ih, List.cons.injEq, and_true]
    apply BitVec.eq_of_toNat_eq
    simp only [BitVec.toNat_ofNat]
    omega

@[simp] theorem sub_length (b : List Byte) (off n : Nat) : (sub b off n).length = n := by
  simp only [sub, List.length_append, List.length_replicate, List.length_take, List.length_drop]
  omega

/-! ## Accessors after updates of their own tables -/

theorem health_modHealth (s : State) (u x : Nat) (f : Health → Health) :
    health (modHealth s u f) x = if x = u then f (health s u) else health s x := amGet_amMod _ _ _ _ _

theorem dieOf_modDie (s : State) (d x : Nat) (f : DieSt → DieSt) :
    dieOf (modDie s d f) x = if x = d then f (dieOf s d) else dieOf s x := amGet_amMod _ _ _ _ _

theorem ctxOf_modCtx (s : State) (c x : Nat) (f : Ctx → Ctx) :
    ctxOf (modCtx s c f) x = if x = c then f (ctxOf s c) else ctxOf s x := amGet_amMod _ _ _ _ _

theorem ringOf_modRing (s : State) (k x : Nat) (f : Ring → Ring) :
    ringOf (modRing s k f) x = if x = k then f (ringOf s k) else ringOf s x := amGet_amMod _ _ _ _ _

theorem engineOf_modEngine (s : State) (u x : Nat) (f : Engine → Engine) :
    engineOf (modEngine s u f) x = if x = u then f (engineOf s u) else engineOf s x := amGet_amMod _ _ _ _ _

theorem partOf_modPart (s : State) (u p q : Nat) (f : Part → Part) :
    partOf (modPart s u p f) u q = if q = p then f (partOf s u p) else partOf s u q := by
  simp only [partOf, modPart, engineOf_modEngine, if_true, amGet_amMod]

theorem wsOf_modWs (s : State) (d x : Nat) (f : Watershed → Watershed) :
    wsOf (modWs s d f) x = if x = d then f (wsOf s d) else wsOf s x := amGet_amMod _ _ _ _ _

theorem cfOf_modCf (s : State) (d x : Nat) (f : Confluence → Confluence) :
    cfOf (modCf s d f) x = if x = d then f (cfOf s d) else cfOf s x := amGet_amMod _ _ _ _ _

theorem portOf_modPort (s : State) (u x : Nat) (f : Port → Port) :
    portOf (modPort s u f) x = if x = u then f (portOf s u) else portOf s x := amGet_amMod _ _ _ _ _

theorem peerOf_modPeer (s : State) (p x : Nat) (f : Peer → Peer) :
    peerOf (modPeer s p f) x = if x = p then f (peerOf s p) else peerOf s x := amGet_amMod _ _ _ _ _

theorem sideOf_modSide (s : State) (u x : Nat) (f : Side → Side) :
    sideOf (modSide s u f) x = if x = u then f (sideOf s u) else sideOf s x := amGet_amMod _ _ _ _ _

theorem droverOf_modDrover (s : State) (n x : Nat) (f : Drover → Drover) :
    droverOf (modDrover s n f) x = if x = n then f (droverOf s n) else droverOf s x := amGet_amMod _ _ _ _ _

/-- A configuration item reads as it was written, and every other item as before (02 R415). -/
theorem item_setItem (s : State) (u it v x jt : Nat) :
    item (setItem s u it v) x jt = if 65536 * x + jt = 65536 * u + it then v else item s x jt := by
  simp only [item, setItem, amGet_amPut]

/-- A count of a status record rises by what is counted, and every other one stays (14 R386). -/
theorem countOf_count (s : State) (u off n x o : Nat) :
    countOf (count s u off n) x o = if 256 * x + o = 256 * u + off then countOf s u off + n else countOf s x o :=
  amGet_amMod 0 s.hw.counts (256 * u + off) (256 * x + o) (· + n)

/-- A change of a command in flight keeps the numbers of those in flight. -/
theorem jobs_modJob (s : State) (id : Nat) (f : Job → Job) (hf : ∀ j, (f j).id = j.id) :
    (modJob s id f).gz.jobs.map (·.id) = s.gz.jobs.map (·.id) := by
  simp only [modJob, List.map_map]
  apply List.map_congr_left
  intro j _
  simp only [Function.comp]
  split <;> simp [hf]

/-- The command changed is found as changed, and every other one as before. -/
theorem jobOf_modJob (s : State) (id x : Nat) (f : Job → Job) (hf : ∀ j, (f j).id = j.id) :
    jobOf (modJob s id f) x = if x = id then (jobOf s id).map f else jobOf s x := by
  simp only [jobOf, modJob]
  induction s.gz.jobs with
  | nil => simp
  | cons j l ih =>
    by_cases h : j.id = id
    · subst h
      by_cases hx : x = j.id
      · subst hx; simp [hf]
      · simp [hx, hf, beq_eq_false_iff_ne.mpr (Ne.symm hx)] at ih ⊢
        exact ih
    · by_cases hx : j.id = x
      · subst hx; simp [h]
      · by_cases hi : x = id
        · subst hi
          simp [h, beq_eq_false_iff_ne.mpr h] at ih ⊢
          exact ih
        · simp [h, hi, beq_eq_false_iff_ne.mpr hx] at ih ⊢
          exact ih

end Sys2Proof.Laws
end

