-- ==== Sys2Proof/WellFormed.lean ====
section
/-! DEFINITION. Well-formed commands: the sizes and ranges that an event of the hardware has by its nature. A command that
is not well formed names no event of the hardware. -/

namespace Sys2Proof

/-- A unit ID of a link port (01 R18). -/
def isPort (u : Word32) : Bool :=
  u.toNat / 2 ^ 28 = 0xD && 8 ≤ u.toNat / 2 ^ 24 % 16 && u.toNat / 2 ^ 24 % 16 < 12 && u.toNat % 2 ^ 24 < 16

/-- A unit ID of a channel (01 R18). -/
def isChannel (u : Word32) : Bool := u.toNat / 2 ^ 28 = 0xB && u.toNat / 2 ^ 24 % 16 < 8 && u.toNat % 2 ^ 24 < 8192

/-- A unit ID of a stack side (01 R18). -/
def isSide (u : Word32) : Bool := u.toNat / 2 ^ 28 = 0xA && u.toNat / 2 ^ 24 % 16 < 8 && u.toNat % 2 ^ 24 < 16

/-- A unit ID of a matrix engine (01 R18). -/
def isEngine (u : Word32) : Bool := u.toNat / 2 ^ 28 = 1 && u.toNat / 2 ^ 24 % 16 < 8 && u.toNat % 2 ^ 24 < 16

/-- Whether a command names an event of the hardware. -/
def Instr.wf : Instr → Bool
  | .completionToken e _ _ => isEngine e
  | .channelRequest c _ _ => isChannel c
  | .patrolScrub c _ _ => isChannel c
  | .retrainStart c => isChannel c
  | .retrainComplete c _ => isChannel c
  | .restripeMove u => isSide u
  | .mapoutRetry u => isSide u
  | .stackSensorSample _ r => decide (r.length ≤ 4)
  | .junctionSensorSample _ r => decide (r.length ≤ 16)
  | .partnerDetect p => isPort p
  | .trainingComplete p _ => isPort p
  | .linkMgmtFrame p _ => isPort p
  | .passFrame p b => isPort p && decide (b.length = 256)
  | .verdictWindowExpiry p => isPort p
  | .failedPortRetrain p => isPort p
  | .portProbationComplete p _ => isPort p
  | .peerSignalOperation p _ _ _ _ => isPort p
  | .neighborSolicitation _ _ t s => decide (t.length = 16) && decide (s.length = 16)
  | .attest n => decide (n.length = 32)
  | .routerAdvertisement p => decide (p.length = 16)
  | .anchorInstall _ a => decide (a.length ≤ 8)
  | _ => true

end Sys2Proof
end

