-- ==== Sys2Proof/Tests/Slice0.lean ====
section
/-! SUPPORT. The model's own tests: the well-formedness check refuses ill-formed commands; small states meet the hypotheses of
every statement, clause by clause; and single steps give what the spec's tables and examples say. -/

namespace Sys2Proof.Tests

set_option Elab.async false

open Sys2Proof Sys2Proof.Machine

/-! ## Well-formedness: one ill-formed command for each check -/

def anyRow : RowMsg :=
  ⟨0, 0, .fwdRow, false, 0, 0, 0, 0, 0, 0, 0, 0, 0, 0, 0, 0, 0, 0, 0, 0, []⟩

theorem test_wf_refuses_wrong_units :
    Instr.wf (.completionToken 0x70000000 0 {}) = false ∧ Instr.wf (.channelRequest 0xA0000000 ⟨0, 0, 0, false, 0, none⟩ .clean) = false ∧
    Instr.wf (.patrolScrub 0xB0002000 0 .clean) = false ∧ Instr.wf (.retrainStart 0xB8000000) = false ∧
    Instr.wf (.retrainComplete 0xC0000000 true) = false ∧ Instr.wf (.restripeMove 0xA0000010) = false ∧
    Instr.wf (.mapoutRetry 0xA8000000) = false ∧ Instr.wf (.partnerDetect 0xD0000000) = false ∧
    Instr.wf (.trainingComplete 0xDC000000 .failed) = false ∧ Instr.wf (.linkMgmtFrame 0xD8000010 ⟨0, 0, false, 0, false⟩) = false ∧
    Instr.wf (.passFrame 0xE8000000 (List.replicate 256 0)) = false ∧ Instr.wf (.verdictWindowExpiry 0) = false ∧
    Instr.wf (.failedPortRetrain 1) = false ∧ Instr.wf (.portProbationComplete 2 true) = false ∧
    Instr.wf (.peerSignalOperation 3 0 0 0 (.store 0)) = false := by decide +kernel

theorem test_wf_refuses_wrong_sizes :
    Instr.wf (.passFrame 0xD8000000 (List.replicate 255 0)) = false ∧ Instr.wf (.stackSensorSample 0 [0, 0, 0, 0, 0]) = false ∧
    Instr.wf (.junctionSensorSample 0 (List.replicate 17 0)) = false ∧
    Instr.wf (.neighborSolicitation 0 0 (List.replicate 15 0) (List.replicate 16 0)) = false ∧
    Instr.wf (.neighborSolicitation 0 0 (List.replicate 16 0) (List.replicate 17 0)) = false ∧
    Instr.wf (.attest (List.replicate 31 0)) = false ∧ Instr.wf (.routerAdvertisement []) = false ∧
    Instr.wf (.anchorInstall 0 (List.replicate 9 [])) = false := by decide +kernel

theorem test_wf_accepts :
    Instr.wf (.completionToken 0x10000000 0 {}) = true ∧ Instr.wf (.channelRequest 0xB7001FFF ⟨0, 0, 0, false, 0, none⟩ .clean) = true ∧
    Instr.wf (.restripeMove 0xA700000F) = true ∧ Instr.wf (.passFrame 0xDB00000F (List.replicate 256 0)) = true ∧
    Instr.wf (.stackSensorSample 63 [0, 0, 0, 0]) = true ∧ Instr.wf (.anchorInstall 0 (List.replicate 8 [])) = true := by decide +kernel

/-! ## States -/

/-- Units that are ready. -/
def ready (us : List Nat) : AMap Health := us.foldl (fun m u => amPut m u { ready := true }) []

/-- Ready: MD's kernel core; of dies 0 and 1 the control core, engine 0 with its field 0, Watershed, Confluence, DMA engine 0,
drovers 0 and 1, and the first stack side. -/
def someUnits : List Nat :=
  uid 6 12 0 :: [0, 1].flatMap (fun d => [uid 0xA d 0, uid 4 d 0, uid 1 d 0, uid 2 d 0, uid 7 d 0, uid 8 d 0, uid 9 d 0, uid 3 d 0, uid 3 d 1])

/-- Context 0 with ring 1, whose home is die 1. -/
def base : State := { gz := { ctxs := [(0, ctx0 0)], rings := [(1, ctx0Ring 1)] }, hw := { health := ready someUnits } }

/-- A packet header of ring 1 of context 0. -/
def hd : Hdr := ⟨0, 1, 0, false, false, false, 7, 0, 0, 0⟩

/-- Bytes placed in memory. -/
def place (a : Nat) (bs : List Byte) (s : State) : State := { s with mem := { s.mem with cells := cellWrite s.mem.cells a bs } }

/-- The next state. -/
def got (o : Host.Outcome State Fault Refusal) : State := match o with | .next t => t | _ => base

/-- A job of a command on ring 1. -/
def jobOn (s : State) (i : Instr) (ph : Phase) : Job :=
  { newJob s 1 (preOf s i) i 0 0 with phase := ph }

/-- A state with one job in flight. -/
def withJob (s : State) (i : Instr) (ph : Phase) : State :=
  { s with gz := { s.gz with nextJob := s.gz.nextJob + 1, jobs := s.gz.jobs ++ [jobOn s i ph] } }

/-! ## Witnesses: the queue and the tick -/

def sg : PSig := ⟨0x40800000, 5⟩

theorem witness_FrontCommandRuns : ({ base with pending := [.nop hd, .crystalLoss] } : State).pending = .nop hd :: [.crystalLoss] := rfl

theorem witness_EmptyQueueTicks : base.pending = [] := rfl

theorem witness_StepKeepsMemoryCanonical :
    let s := { place 0x40800008 [1, 0, 2] base with pending := [.sigSet hd sg] }
    Memory.wf s.mem.cells = true ∧ ∃ t, step s = .next t := ⟨by decide, _, rfl⟩

/-- SIG_ADD of a word that is not aligned, and SIG_SET with a DONE_ADDR that is not. -/
theorem witness_RejectedPacketStoresNothingElse :
    let odd : PSig := ⟨0x40800001, 5⟩
    let h := { hd with doneAddr := 0x40800004 }
    Idle base ∧ Memory.wf base.mem.cells = true ∧ base.sig.waiters = [] ∧ ringOpen base (ringKey hd) = true ∧
    (ringOf base (ringKey hd)).passOver = none ∧ stalled base (ringKey hd) = false ∧
    preparse base (ringKey hd) (preSig hd odd base) (.sigAdd hd odd) = some (fails OUT_OF_RANGE 0x20) ∧
    preparse base (ringKey h) (preSig h sg base) (.sigSet h sg) = some (fails OUT_OF_RANGE 0x10) ∧
    (∃ t, exec (.sigAdd hd odd) base = .next t) ∧ ∃ t, exec (.sigSet h sg) base = .next t :=
  ⟨by decide, by decide, by decide, by decide, by decide, by decide, by decide, by decide, ⟨_, rfl⟩, ⟨_, rfl⟩⟩

/-- A unit that is not ready, without and with WAIT_READY, and the end of the wait. -/
theorem witness_NotReadyEndsOrWaits :
    let p : PMmPartition := ⟨0x12000000, 0⟩
    let h := { hd with waitReady := true }
    let s := withJob base (.mmPartition h p) .waitReady
    notReady base (prePartition p) = some 0x12000000 ∧ jobOf s 0 = some (jobOn base (.mmPartition h p) .waitReady) ∧
    (jobOn base (.mmPartition h p) .waitReady).phase = .waitReady ∧ notReady s (preOf s (.mmPartition h p)) = some 0x12000000 := by
  dsimp only
  and_intros <;> decide +kernel

/-- NOP; SKIP_IF that holds and that does not; LOOP_BEGIN at the nesting limit, of no trip and of one; LOOP_END with no loop, with a
trip left and with none. -/
theorem witness_SkipsAndLoopsControlTheRing :
    let k : PSkipIf := ⟨0x40800000, 0, 0, 1⟩
    let lb : PLoopBegin := ⟨0x40800000, 2⟩
    let one := place 0x40800000 [1] base
    let l : Loop := ⟨0, 32, 0, 2, false⟩
    let nest (ls : List Loop) : State := modRing base 1 (fun r => { r with loops := ls })
    Accepts base (preCore hd base) (.nop hd) ∧
    (Accepts base (preSkipIf hd k base) (.skipIf hd k) ∧ poisonIn base 0x40800000 32 = none ∧ training base 0x40800000 = false ∧
      condHolds 0 (word base 0x40800000) 0 = true ∧ condHolds 0 (word one 0x40800000) 0 = false ∧
      Accepts one (preSkipIf hd k one) (.skipIf hd k)) ∧
    (Accepts (nest [l, l, l, l]) (preLoopBegin hd lb (nest [l, l, l, l])) (.loopBegin hd lb) ∧
      4 ≤ (ringOf (nest [l, l, l, l]) (ringKey hd)).loops.length) ∧
    (Accepts base (preLoopBegin hd lb base) (.loopBegin hd lb) ∧ (ringOf base (ringKey hd)).loops.length < 4 ∧
      min (word base 0x40800000) 2 = 0) ∧
    (Accepts one (preLoopBegin hd lb one) (.loopBegin hd lb) ∧ (ringOf one (ringKey hd)).loops.length < 4 ∧ min (word one 0x40800000) 2 ≠ 0) ∧
    (Accepts base (preCore hd base) (.loopEnd hd) ∧ (ringOf base (ringKey hd)).loops = []) ∧
    (Accepts (nest [l]) (preCore hd (nest [l])) (.loopEnd hd) ∧ (ringOf (nest [l]) (ringKey hd)).loops = l :: [] ∧ l.trip + 1 < l.trips) ∧
    (Accepts (nest [{ l with trip := 1 }]) (preCore hd (nest [{ l with trip := 1 }])) (.loopEnd hd) ∧ ¬(1 + 1 < l.trips)) := by
  dsimp only
  and_intros <;> decide +kernel

/-- SIG_SET and SIG_ADD of a word that is well and of a poisoned one. -/
theorem witness_SignalPacketsWriteTheWord :
    let bad : State := { base with mem := { poison := [0x40800000 / 32] } }
    let busy : State := { base with mem := { chans := [(0xB0000000, { training := true })], sides := [(0xA0000000, { retraining := some 0 })] } }
    Accepts base (preSig hd sg base) (.sigSet hd sg) ∧ Accepts base (preSig hd sg base) (.sigAdd hd sg) ∧ training base 0x40800000 = false ∧
    poisonIn base (0x40800000 / 32 * 32) 32 = none ∧ Accepts bad (preSig hd sg bad) (.sigSet hd sg) ∧
    poisonIn bad (0x40800000 / 32 * 32) 32 = some 0xB0000000 ∧ Accepts bad (preSig hd sg bad) (.sigAdd hd sg) ∧
    Accepts busy (preSig hd sg busy) (.sigAdd hd sg) ∧ training busy 0x40800000 = true ∧ poisonIn busy (0x40800000 / 32 * 32) 32 = none := by
  dsimp only
  and_intros <;> decide +kernel

theorem witness_SignalPacketsFrame :
    Idle base ∧ Memory.wf base.mem.cells = true ∧ base.sig.waiters = [] ∧ Accepts base (preSig hd sg base) (.sigAdd hd sg) ∧
    training base sg.addr.toNat = false ∧ ∃ t, exec (.sigAdd hd sg) base = .next t :=
  ⟨by decide, by decide, by decide, by decide, by decide, _, rfl⟩

/-- An agent's signal operation that passes its check and one that does not; a peer's that passes and one that does not. -/
theorem witness_SignalsOfOtherAgents :
    let w : SigBy := ⟨0x1001, 0x41000000, 0⟩
    Idle base ∧ base.sig.waiters = [] ∧ poisonIn base (0x40800000 / 32 * 32) 32 = none ∧
    (signalOk base 0x40800000 = true ∧ access base 0 w.unit.toNat 0x40800000 8 pWrite = none) ∧
    access base 0 w.unit.toNat 0x80000000 8 pWrite ≠ none ∧
    ((ctxOf base 0).live && signalOk base 0x40800000 && (access base 0 0xD8000000 0x40800000 8 pWrite).isNone) = true ∧
    ((ctxOf base 1).live && signalOk base 0x40800000 && (access base 1 0xD8000000 0x40800000 8 pWrite).isNone) = false := by
  dsimp only
  and_intros <;> decide +kernel

/-- SIG_WAIT whose condition holds and one whose does not; a polling waiter. -/
theorem witness_WaitsTestTheWord :
    let p : PSigWait := ⟨0x40800000, 1, 2⟩
    let one := place 0x40800000 [1] base
    let w : Waiter := ⟨.job 0, 0x40800000, 1, 2, true, 0x41000000, 1⟩
    let s : State := { withJob base (.sigWait hd p) (.waitSignal true) with sig := { waiters := [w] } }
    Accepts one (preSigWait hd p one) (.sigWait hd p) ∧ poisonIn one (0x40800000 / 32 * 32) 32 = none ∧ training one 0x40800000 = false ∧
    condHolds 2 (word one 0x40800000) 1 = true ∧
    Accepts base (preSigWait hd p base) (.sigWait hd p) ∧ condHolds 2 (word base 0x40800000) 1 = false ∧ Idle base ∧
    s.sig.waiters.find? (fun w => w.polling && w.who == pollId (.job 0)) = some w ∧ poisonIn s (w.addr / 32 * 32) 32 = none := by
  dsimp only
  and_intros <;> decide +kernel

/-- A fence with nothing to cover and one that covers a command of its ring; an acknowledgement. -/
theorem witness_FencesWaitForWhatTheyCover :
    let p : PFence := ⟨0⟩
    let m : PMmAbort := ⟨0x11000000, 0⟩
    let s := withJob base (.mmAbort hd m) .inUnit
    let c := withJob base (.sigSet hd sg) .waitLand
    Accepts base (preFence hd p base) (.fenceAll hd p) ∧ base.gz.jobs.filter (fun k => k.ring == 1) = [] ∧
    Accepts s (preFence hd p s) (.fenceWrites hd p) ∧ s.gz.jobs.filter (fun k => k.ring == 1) ≠ [] ∧
    c.gz.jobs = [jobOn base (.sigSet hd sg) .waitLand] ∧ (jobOn base (.sigSet hd sg) .waitLand).id = 0 := by
  dsimp only
  and_intros <;> decide +kernel

/-- CMD_TAIL, RESTART and REPLY_HEAD at the edges of what is accepted, and refused. -/
theorem witness_ControlBlockWrites :
    let a : Agent := .ofCtx 0
    let r := ringOf base 1
    let stopped := modRing base 1 (fun r => { r with state := .stopped })
    Quiet base ∧ ringExists base 1 = true ∧ r.state ≠ .closed ∧ mayWrite r 0 a = true ∧ tailOk r 65520 = true ∧ tailOk r 8 = false ∧
    mayWrite r 0 .peer = false ∧ ringIdle base 1 = true ∧ (ringOf stopped 1).state = .stopped ∧ (65520 % 16 = 0 ∧ 65520 < ringSize r) ∧
    ringSize r ≤ 65536 ∧ (0 % 32 = 0 ∧ 0 < replySize r ∧ (0 + replySize r - r.replyHead) % replySize r ≤ (r.replyTail + replySize r - r.replyHead) % replySize r) ∧
    (16 % 32 ≠ 0 ∧ replySize r ≤ 16384) := by
  dsimp only
  and_intros <;> decide +kernel

theorem witness_ReplyFrame :
    let t := begun base (.nop hd)
    Calm t [] ∧ endPoints (done 0) = 0 := by
  dsimp only
  and_intros <;> decide +kernel

theorem witness_RepliesAndCheckRecords :
    let t := begun base (.nop hd)
    Calm t [] ∧ endPoints (done 0) = 0 ∧ t.now = base.now ∧ replies hd (done 0) = true ∧ hd.doneAddr = 0 ∧
    replies { hd with noReply := true } (done 0) = false := by
  dsimp only
  and_intros <;> decide +kernel

/-- QUERY_READY of dies 0 and 3; QUERY_STATUS of the device, of a Confluence, of a control core and of the check record. -/
theorem witness_QueriesWriteTheirRecords :
    let p : PQueryReady := ⟨0x40800000, 9⟩
    let q (sel u : Word32) : PQueryStatus := ⟨0x40800000, sel, u⟩
    Accepts base (preQueryReady hd p base) (.queryReady hd p) ∧ rangesStop (begun base (.queryReady hd p)) [] [(0x40800000, 288)] = none ∧
    (readinessMap (begun base (.queryReady hd p)) 9).length = 288 ∧ (maskDies 9)[1]? = some 3 ∧
    Accepts base (preQueryStatus hd (q 0 0) base) (.queryStatus hd (q 0 0)) ∧
    Accepts base (preQueryStatus hd (q 2 0) base) (.queryStatus hd (q 2 0)) ∧
    Accepts base (preQueryStatus hd (q 1 0x41000000) base) (.queryStatus hd (q 1 0x41000000)) ∧
    Accepts base (preQueryStatus hd (q 1 0x81000000) base) (.queryStatus hd (q 1 0x81000000)) ∧ uKind 0x81000000 = 8 ∧ uKind 0x41000000 ≠ 8 ∧
    rangesStop base [] [(0x40800000, 256)] = none ∧ (statusRecord base 0x41000000 0).length ≤ 256 := by
  dsimp only
  and_intros <;> decide +kernel

/-! ## Witnesses: matrix engines -/

/-- Engine 0 of die 1. -/
def eng : Nat := 0x11000000

/-- Engine 0 of die 1 with 16 partitions, the first of them as given. -/
def engWith (pt : Part) : State := { base with mm := [(eng, { shape := 6, parts := [(0, pt)] })] }

/-- A broadside pass of one token and one term, E4M3 by E4M3. -/
def onePass : PMmPass := ⟨0x11000000, 0, 1, 4, 4, 0x40800000, 0x40801000, 64, 64, 1, 1, 0, 0, 0xFFFF, 0⟩

/-- Its operands: 1.0, and 1.0 in the first column. -/
def withOperands (s : State) : State := place 0x40800000 [0x38] (place 0x40801000 [0x38] s)

def oneRes : Res := passAdd (withOperands base) eng onePass 6 (emptyRes 0 0 onePass)

/-- A drain to FP32. -/
def oneDrain : PMmDrain := ⟨0x11000000, 0, 1, 0, 0, 0x40802000, 256, 0xFFFF⟩

/-- A bubble tenant, context 1 with ring 0. -/
def withTenant (s : State) : State :=
  { s with gz := { s.gz with ctxs := [(0, ctx0 0), (1, { ctx0 0 with cls := 1 })], rings := [(1, ctx0Ring 1), (256, ctx0Ring 3)] } }

/-- MM_PARTITION by the primary holder of an idle engine, of a busy one, and by another context. -/
theorem witness_PartitionSetsTheShape :
    let p : PMmPartition := ⟨0x11000000, 6⟩
    let busy := engWith { x := some oneRes }
    let other : State := { base with gz := { base.gz with ctxs := [(0, ctx0 0), (2, ctx0 0)] } }
    (Accepts base (prePartition p) (.mmPartition hd p) ∧ primaryHolder base eng = 0 ∧ engineIdle base eng = true) ∧
    (Accepts busy (prePartition p) (.mmPartition hd p) ∧ primaryHolder busy eng = 0 ∧ engineIdle busy eng = false) ∧
    (Accepts other (prePartition p) (.mmPartition hd p) ∧ primaryHolder other eng ≠ 0) := by
  dsimp only
  and_intros <;> decide +kernel

/-- A pass in execution. -/
def passing : State :=
  withJob (withOperands (engWith { exec := some (0, false), x := some (emptyRes 0 0 onePass), nextY := true, opened := 1 })) (.mmPass hd onePass {}) .inUnit

theorem witness_PassesOpenAndFillResults :
    let s := engWith {}
    let j := jobOn (engWith {}) (.mmPass hd onePass {}) .inUnit
    (Idle s ∧ Accepts s (preMmPass hd onePass s) (.mmPass hd onePass {}) ∧ onePass.acc = 0 ∧ (partOf s eng 0).exec = none ∧
      (partOf s eng 0).queue = [] ∧ (partOf s eng 0).x = none ∧ (partOf s eng 0).y = none) ∧
    (Calm passing [j] ∧ j.cmd = .mmPass hd onePass {} ∧ j.phase = .inUnit ∧ (partOf passing eng 0).exec = some (j.id, false) ∧
      (partOf passing eng 0).queue = [] ∧ setOf (partOf passing eng 0) false = some (emptyRes 0 0 onePass) ∧
      passPoison passing onePass (shapeOf passing eng) = none ∧ onePass.statSlot = 0xFFFF) := by
  dsimp only
  and_intros <;> decide +kernel

theorem witness_DrainsWriteTheRows :
    let s := engWith { x := some oneRes }
    let rows := (resRows s.free oneRes []).map (convRow ⟨.flt ffFP32, 32, false⟩)
    let j := jobFor s (preMmDrain hd oneDrain s) (.mmDrain hd oneDrain {})
    Calm s [] ∧ Accepts s (preMmDrain hd oneDrain s) (.mmDrain hd oneDrain {}) ∧ (partOf s eng 0).exec = none ∧ (partOf s eng 0).queue = [] ∧
    (partOf s eng 0).x = some oneRes ∧ (partOf s eng 0).y = none ∧ oneRes.ctx = 0 ∧ oneRes.drain = none ∧ oneRes.bad = none ∧
    fmtOf 1 = some ⟨.flt ffFP32, 32, false⟩ ∧ drainChecks s 0 eng oneDrain oneRes 64 64 = none ∧ checkClean oneRes 64 64 [] = true ∧
    rowsPartial s 0x40802000 256 (drainRowBytes oneDrain 64) 1 = none ∧ rows.length = 1 ∧
    (∀ row ∈ rows, row.1.length = drainRowBytes oneDrain 64) ∧ Apart (replyWrites s j) [(0x40802000, 1 * 256)] := by
  dsimp only
  and_intros <;> decide +kernel

/-- A drain that waits for its second replay. -/
def borrowing (used : List Nat) (more : List Nat) : State :=
  let s := withJob (withOperands (engWith { x := some { oneRes with used := used, drain := some 0 } })) (.mmDrain hd oneDrain {}) (.waitBorrow 2)
  { s with hw := { s.hw with health := ready (someUnits ++ more) }, mm := amPut s.mm (uid 1 1 1) { shape := 6 } }

/-- No partition to borrow; one of engine 1, after no first replay and after one. -/
theorem witness_BorrowedReplaysRecover :
    let a := borrowing [eng] []
    let b := borrowing [eng] [uid 1 1 1, uid 2 1 16]
    let c := borrowing [eng, eng] [uid 1 1 1, uid 2 1 16]
    let j := jobOn (engWith {}) (.mmDrain hd oneDrain {}) (.waitBorrow 2)
    let r' := replayRes b eng 6 { oneRes with used := [eng], drain := some 0 }
    (Calm a [j] ∧ (partOf a eng 0).queue = [] ∧ (partOf a eng 0).y = none ∧ (partOf a eng 0).x = some { oneRes with used := [eng], drain := some 0 } ∧
      borrowFrom a 6 (eng :: [eng] ++ j.faulted) (borrowOrder 1) = none) ∧
    (Calm b [j] ∧ (borrowFrom b 6 (eng :: [eng] ++ j.faulted) (borrowOrder 1)).isSome = true ∧ isCD 1 = true ∧
      replayPoison b 6 { oneRes with used := [eng], drain := some 0 } = none ∧ checkClean r' 64 64 [] = true ∧ [eng].length < 2 ∧
      rowsPartial b 0x40802000 256 (drainRowBytes oneDrain 64) 1 = none) ∧
    (Calm c [j] ∧ (borrowFrom c 6 (eng :: [eng, eng] ++ j.faulted) (borrowOrder 1)).isSome = true ∧ agree r' [] [] = true) := by
  dsimp only
  and_intros <;> decide +kernel

/-- A partition with a tenant's pass in execution and a pass of context 0 behind it. -/
def preempting : State :=
  let s := withTenant (engWith { exec := some (0, false), x := some (emptyRes 1 0 onePass), nextY := true, opened := 1, queue := [1] })
  let s := withJob s (.mmPass { hd with ctx := 1, ring := 0 } onePass {}) .inUnit
  let s := { s with gz := { s.gz with jobs := s.gz.jobs.map (fun j => { j with ring := 256 }) } }
  withJob s (.mmPass hd onePass {}) .inUnit

theorem witness_AbortAndPreemption :
    let s := engWith { x := some oneRes }
    let p : PMmAbort := ⟨0x11000000, 0⟩
    (Calm s [] ∧ Accepts s (preMmAbort p s) (.mmAbort hd p) ∧ p.part ≠ 0xFF ∧ (partOf s eng 0).exec = none ∧ (partOf s eng 0).queue = [] ∧
      (partOf s eng 0).x = some oneRes ∧ (partOf s eng 0).y = none) ∧
    (∃ j k, Calm preempting [j, k] ∧ j.id ≠ k.id ∧ (partOf preempting eng 0).exec = some (j.id, false) ∧ (partOf preempting eng 0).queue = [k.id] ∧
      setOf (partOf preempting eng 0) (!false) = none ∧ k.cmd = .mmPass hd onePass {} ∧ k.phase = .inUnit ∧
      isTenant preempting (j.ring / 256) = true ∧ isTenant preempting (k.ring / 256) = false) := by
  dsimp only
  refine ⟨?_, preempting.gz.jobs.getD 0 (jobOn base (.nop hd) .passing), preempting.gz.jobs.getD 1 (jobOn base (.nop hd) .passing), ?_⟩
  · and_intros <;> decide +kernel
  · and_intros <;> decide +kernel

/-! ## Witnesses: DMA, adders, versions -/

/-- A COPY of two rows of eight E4M3 elements. -/
def twoRows : Desc := ⟨0, 4, 4, 0, 0, 0, 0xFFFF, 0x40800000, 0x40801000, 0, 2, 8, 16, 32, 0, 0⟩

/-- A DMA_RUN, and a DMA_CHAIN of one descriptor that memory holds. -/
theorem witness_CopiesMoveRows :
    let run : Instr := .dmaRun hd ⟨0x91000000, twoRows⟩ {}
    let s := place 0x40803000 (descBytes twoRows) base
    let chain : Instr := .dmaChain hd ⟨0x91000000, 1, 0x40803000⟩ {}
    (Calm base [] ∧ Accepts base (preOf base run) run ∧ (∀ e ∈ base.mem.unseen, e.job < base.gz.nextJob) ∧ codeScaled 4 = false ∧
      base.mem.poison = [] ∧ base.mem.kept = [] ∧ base.mem.chans = [] ∧ inUseAt base 0x40801000 (sideSpan twoRows true) = false ∧
      Apart (replyWrites base (jobFor base (preOf base run) run)) [(0x40801000, sideSpan twoRows true)]) ∧
    (Calm s [] ∧ Accepts s (preOf s chain) chain ∧ (∀ e ∈ s.mem.unseen, e.job < s.gz.nextJob) ∧
      readDesc (readBytes (begun s chain) 0x91000000 0x40803000 64) = twoRows ∧ bit twoRows.flags.toNat 2 = false ∧
      descBad s 0 0x91000000 twoRows (readBytes (begun s chain) 0x91000000 0x40803000 64) 0x80000000 = none ∧
      s.mem.poison = [] ∧ s.mem.kept = [] ∧ s.mem.chans = [] ∧ inUseAt s 0x40801000 (sideSpan twoRows true) = false ∧
      Apart (replyWrites s (jobFor s (preOf s chain) chain)) [(0x40801000, sideSpan twoRows true)]) := by
  dsimp only
  and_intros <;> decide +kernel

/-- SWAP, CAS that meets and that does not, and an ADD of 32 and of 64 bits, with and without a result. -/
theorem witness_AtomicsOperateOnOldBytes :
    let p (op type : Byte) (cmp res : Word64) : PMemAtomic := ⟨0x40800000, 0xFFFFFFFF, cmp, res, op, type⟩
    let s := place 0x40800000 [1] base
    let i (q : PMemAtomic) : Instr := .memAtomic hd q {}
    s.mem.poison = [] ∧ s.mem.kept = [] ∧ s.mem.chans = [] ∧ Calm s [] ∧
    Accepts s (preAtomic hd (p 3 4 0 0) s) (i (p 3 4 0 0)) ∧
    (Accepts s (preAtomic hd (p 4 4 1 0x40801000) s) (i (p 4 4 1 0x40801000)) ∧ leNat (bytesAt s 0x40800000 (atomicSize 4)) = 1 % 2 ^ (8 * atomicSize 4)) ∧
    (Accepts s (preAtomic hd (p 4 4 2 0) s) (i (p 4 4 2 0)) ∧ leNat (bytesAt s 0x40800000 (atomicSize 4)) ≠ 2 % 2 ^ (8 * atomicSize 4)) ∧
    Accepts s (preAtomic hd (p 0 3 0 0x40801000) s) (i (p 0 3 0 0x40801000)) ∧ Accepts s (preAtomic hd (p 0 4 0 0) s) (i (p 0 4 0 0)) ∧
    ∃ t, exec (i (p 0 3 0 0x40801000)) s = .next t := by
  dsimp only
  refine ⟨?_, ?_, ?_, ?_, ?_, ?_, ?_, ?_, ?_, ⟨_, rfl⟩⟩
  all_goals and_intros <;> decide +kernel

/-- Publishing over an unpinned and over a pinned version, below the current one, over a live version's data and with 7 versions
retained; a new pin, one already there, one too many and one of no version;
the last pin of an old version and of the current one, and one that is not there. -/
theorem witness_VersionsArePublishedPinnedRetired :
    let ver (r : TensorRec) : State := { base with ver := [(5, r)] }
    let one (pins : List (Nat × Nat)) : Version := ⟨1, 0x40800000, 256, pins⟩
    let two (pins : List (Nat × Nat)) : Version := ⟨2, 0x40801000, 256, pins⟩
    let pub : PVerPublish := ⟨5, 2, 0x40801000, 256⟩
    let low : PVerPublish := ⟨5, 1, 0x40801000, 256⟩
    let lap : PVerPublish := ⟨5, 2, 0x40800080, 256⟩
    let full := ver ⟨1, one [] :: List.replicate 7 ⟨0, 0x40800000, 256, [(0, 3)]⟩⟩
    let a := ver ⟨1, [one []]⟩
    let b := ver ⟨1, [one [(0, 3)]]⟩
    let c := ver ⟨1, [one (List.replicate 64 (1, 0))]⟩
    let d := ver ⟨2, [one [(0, 3)], two [(0, 3)]]⟩
    let q : PVer := ⟨5, 1, 3⟩
    let q2 : PVer := ⟨5, 2, 3⟩
    (Accepts a (preVerPublish hd pub a) (.verPublish hd pub) ∧ 1 < pub.version.toNat ∧
      (tensorOf a 0 5).live.any (fun x => dataOverlap 0x40801000 256 x.addr x.bytes) = false ∧ ((tensorOf a 0 5).live.filter (fun x => x.num != 1)).length < 7 ∧
      a.ver.length < 262144 ∧ (tensorOf a 0 5).live.any (fun x => x.num == 1 && x.pins.isEmpty) = true) ∧
    (Accepts b (preVerPublish hd pub b) (.verPublish hd pub) ∧ (tensorOf b 0 5).live.any (fun x => x.num == 1 && x.pins.isEmpty) = false ∧
      (tensorOf b 0 5).live.any (fun x => dataOverlap 0x40801000 256 x.addr x.bytes) = false) ∧
    (Accepts a (preVerPublish hd low a) (.verPublish hd low) ∧ low.version.toNat ≤ (tensorOf a 0 5).current) ∧
    (Accepts a (preVerPublish hd lap a) (.verPublish hd lap) ∧ (tensorOf a 0 5).current < lap.version.toNat ∧
      (tensorOf a 0 5).live.any (fun x => dataOverlap lap.dataAddr.toNat lap.bytes.toNat x.addr x.bytes) = true) ∧
    (Accepts full (preVerPublish hd pub full) (.verPublish hd pub) ∧ (tensorOf full 0 5).current < pub.version.toNat ∧
      (tensorOf full 0 5).live.any (fun x => dataOverlap pub.dataAddr.toNat pub.bytes.toNat x.addr x.bytes) = false ∧
      7 ≤ ((tensorOf full 0 5).live.filter (fun x => x.num != (tensorOf full 0 5).current)).length) ∧
    (Accepts a (preCore hd a) (.verPin hd q2) ∧ (tensorOf a 0 5).live.find? (fun y => y.num == 2) = none) ∧
    (Accepts a (preCore hd a) (.verPin hd q) ∧ (tensorOf a 0 5).live.find? (fun y => y.num == 1) = some (one []) ∧ (one []).pins.contains (0, 3) = false) ∧
    (Accepts b (preCore hd b) (.verPin hd q) ∧ (tensorOf b 0 5).live.find? (fun y => y.num == 1) = some (one [(0, 3)]) ∧
      (one [(0, 3)]).pins.contains (0, 3) = true) ∧
    (Accepts c (preCore hd c) (.verPin hd q) ∧ ((tensorOf c 0 5).live.find? (fun y => y.num == 1)).isSome = true ∧
      64 ≤ (List.replicate 64 (1, 0)).length ∧ (List.replicate 64 (1, 0)).contains (0, 3) = false) ∧
    (Accepts a (preCore hd a) (.verRetire hd q) ∧ (tensorOf a 0 5).live.any (fun x => x.num == 1 && x.pins.contains (0, 3)) = false) ∧
    (Accepts d (preCore hd d) (.verRetire hd q) ∧ (tensorOf d 0 5).live.any (fun x => x.num == 1 && x.pins.contains (0, 3)) = true ∧
      1 ≠ (tensorOf d 0 5).current ∧ ((tensorOf d 0 5).live.map (fun y => if y.num == 1 then { y with pins := y.pins.erase (0, 3) } else y)).any
        (fun y => y.num == 1 && y.pins.isEmpty) = true) ∧
    (Accepts d (preCore hd d) (.verRetire hd q2) ∧ (tensorOf d 0 5).live.any (fun x => x.num == 2 && x.pins.contains (0, 3)) = true ∧
      2 = (tensorOf d 0 5).current) := by
  dsimp only
  and_intros <;> decide +kernel

/-! ## Witnesses: routing -/

/-- Expert i of layer 3, owned by die 1 of this device. -/
def entryOf (i : Word16) : DirEntry := ⟨3, i, 1, 0, 1, 0, 4, 0, 0x8040800000 + 0x10000 * i.setWidth 64, 0, 0x8040900000 + 64 * i.setWidth 64, 0⟩

/-- Two experts of layer 3. -/
def withDir (s : State) : State := { s with dir := { entries := [(dirKey 3 0, entryOf 0), (dirKey 3 1, entryOf 1)], epoch := 1 } }

def topk1 : PRtTopk := ⟨0x40800000, 0x40801000, 0x40802000, 1, 2, 1, 1, 3, 9⟩

/-- A round of tag 9: one token, one choice, expert 1. -/
def round9 : Round :=
  { tag := 9, ctx := 0, layer := 3, k := 1, tokens := 1, experts := 2, lookup := false, epoch := 1, choices := [[⟨1, 0x3F800000, 0, false⟩]],
    spare := [[0]], mode := 0, source := 0, sources := 1, spilling := false, counted := false, owners := [], awaiting := [], quotas := [],
    spillQuotas := [], slots := [], checks := 0, quotaAddr := 0, countJob := none }

def tag9 : TagRec :=
  { tag := 9, ctx := 0, layer := 3, k := 1, tokens := 1, lookup := false, counted := false, cancelled := false, owners := [],
    outstanding := [], unlanded := [], landJob := none, cancelJob := none }

/-- Die 1's Watershed with a round and a tag. -/
def withRound (r : Round) (t : TagRec) : State := withDir { base with ws := [(1, { rounds := [r], tags := [t] })] }

theorem witness_TopkRanksAndOpensARound :
    let s := place 0x40800004 [0, 0, 0x80, 0x3F] (withDir base)
    let i : Instr := .rtTopk hd topk1 {}
    let j := jobFor s (preRtTopk hd topk1 s) i
    Calm s [] ∧ Accepts s (preRtTopk hd topk1 s) i ∧ homeOf hd s = 1 ∧ (9 : Nat) ≠ 0 ∧ tagOf s 1 9 = none ∧ roundOf s 1 9 = none ∧
    layerStaged s 3 = false ∧ (wsOf s 1).rounds.length < 16 ∧ isLookup topk1.fmtLogit = false ∧ fmtOf 1 = some ⟨.flt ffFP32, 32, false⟩ ∧
    (∀ x, x < 2 → (dirAt s 3 x).map (·.type) = some 1) ∧ rangesStop (begun s i) [topkIn topk1] (topkOut topk1) = none ∧
    Apart (replyWrites s j) (topkOut topk1) ∧ Apart [(0x40801000, 8)] [(0x40802000, 8)] ∧ 8 ≤ 8 * topk1.tokens.toNat * topk1.k.toNat := by
  dsimp only
  and_intros <;> decide +kernel

theorem witness_AdmissionFollowsQuotas : [(0, 0, 1), (1, 0, 1)][1]? = some (1, 0, 1) := rfl

theorem witness_FillsShareTheCapacity : 3 ≤ 4 ∧ (fillExpert 4 3 [(0, 0, 2), (0, 1, 1)]).1[1]? = some (0, 1, 0, 4) := by decide

/-- RT_COUNT of a round; the quota message that completes it. -/
theorem witness_CountRound :
    let p : PRtCount := ⟨0x40802000, 0x40803000, 9, 3, 0, 0, 1⟩
    let s := withRound round9 tag9
    let i : Instr := .rtCount hd p {}
    let q := withJob (withRound { round9 with awaiting := [1], owners := [1], countJob := some 0, quotaAddr := 0x40803000 } tag9) i .waitQuota
    let j := jobOn s i .waitQuota
    (Calm s [] ∧ Accepts s (preRtCount hd p s) i ∧ homeOf hd s = 1 ∧ roundOf s 1 9 = some round9 ∧ tagDead (tagOf s 1 9) = false ∧
      round9.choices ≠ [] ∧ bit p.mode.toNat 1 = false ∧
      lateRange s 0 (wsUnit 1) [(0x20, 0x40802000, 8, pRead), (0x28, 0x40803000, 8, pWrite)] = none ∧
      rangesStop (begun s i) [(0x40802000, 8)] [(0x40803000, 8)] = none ∧ (∀ o ∈ distinct ((dirLayer s 3).map ownerOf), o / 8 = myPos s)) ∧
    (Calm q [j] ∧ j.cmd = .rtCount hd p {} ∧ j.phase = .waitQuota ∧ j.replays = 0 ∧
      roundOf q 1 9 = some { round9 with awaiting := [1], owners := [1], countJob := some 0, quotaAddr := 0x40803000 } ∧ j.id = 0 ∧
      Apart (replyWrites q j) [(0x40803000, (quotaBytes 1 2 (grantedMap [(1, 0, 1, 0)] [])).length)]) := by
  dsimp only
  and_intros <;> decide +kernel

/-- The round counted, with its slot admitted. -/
def round9Counted : Round :=
  { round9 with counted := true, quotas := [(reKey 0 1, (1, 0))], slots := [⟨0, 0, 1, true, false, 0⟩] }

/-- A route record of the round's slot. -/
def rec9 : RouteRec := ⟨1, 0, 3, false, false, true, false, 0, 0, 1, 0x3F800000, 9, 1⟩

theorem witness_RowsGoOutAndLand :
    let p : PRtDispatch := ⟨0x40800000, 0x40804000, 9, 32, 1⟩
    let i : Instr := .rtDispatch hd p {}
    let s := withRound round9Counted { tag9 with counted := true }
    let cl := newClaim 0 9 false false true 0x40804000 1 1 32 1
    let out := admittedRows (begun s i) (wsUnit 1) 1 0x40800000 32 false (routeRecs s round9Counted)
    let r : PRtReplay := ⟨0x40804000, 0x40800000, 9, 1, 0, 1, 32⟩
    let i2 : Instr := .rtReplay hd r {}
    let s2 := place 0x40804000 (recBytes rec9) (withRound round9Counted { tag9 with counted := true })
    let cl2 := newClaim 0 9 false true false 0x40804000 1 1 32 1
    let tg : TagRec := { tag9 with counted := true, unlanded := [(0, 0, false)], landJob := some 0 }
    let l (i : Instr) : State := withJob (withRound round9Counted tg) i .waitLand
    (Calm s [] ∧ Accepts s (preRtDispatch hd p s) i ∧ homeOf hd s = 1 ∧ roundOf s 1 9 = some round9Counted ∧ tagDead (tagOf s 1 9) = false ∧
      lateRange s 0 (wsUnit 1) [(0x20, 0x40800000, 32, pRead), (0x28, 0x40804000, 16, pWrite)] = none ∧ cl.units ≤ areaSize s 1 ∧
      claimWaits s 1 cl = false ∧ rangesStop (begun s i) [(0x40800000, 32)] [(0x40804000, 16)] = none ∧
      ((round9Counted.quotas ++ round9Counted.spillQuotas).map (fun q => q.2.1)).foldl (· + ·) 0 = out.length ∧ out ≠ [] ∧
      (∀ x ∈ out, x.2.1.ownerPos = myPos s)) ∧
    (Calm s2 [] ∧ Accepts s2 (preRtReplay hd r s2) i2 ∧ tagOf s2 1 9 = some { tag9 with counted := true } ∧ r.direction = 0 ∧
      lateRange s2 0 (wsUnit 1) [(0x28, 0x40800000, ceilDiv 1 1 * 32, pRead)] = none ∧ cl2.units ≤ areaSize s2 1 ∧ claimWaits s2 1 cl2 = false ∧
      rangesStop (begun s2 i2) [(0x40804000, 16), (0x40800000, ceilDiv 1 1 * 32)] [] = none ∧
      replayScan s2 9 0 (readRecs (begun s2 i2) (wsUnit 1) 0x40804000 1) = ([rec9], none) ∧
      admittedRows (begun s2 i2) (wsUnit 1) 1 0x40800000 32 false [rec9] ≠ [] ∧
      (∀ x ∈ admittedRows (begun s2 i2) (wsUnit 1) 1 0x40800000 32 false [rec9], x.2.1.ownerPos = myPos s2)) ∧
    (Calm (l i) [jobOn s i .waitLand] ∧ tagOf (l i) 1 9 = some tg ∧ roundOf (l i) 1 9 = some round9Counted) ∧
    (Calm (l i2) [jobOn s2 i2 .waitLand] ∧ tagOf (l i2) 1 9 = some tg ∧ tg.cancelJob = none) := by
  dsimp only
  and_intros <;> decide +kernel

/-- RT_CANCEL with nothing and with one slot outstanding; the acknowledgement of the last slot. -/
theorem witness_CancelEndsTheTag :
    let p : PRtCancel := ⟨9⟩
    let i : Instr := .rtCancel hd p
    let a := withRound round9 { tag9 with owners := [1] }
    let b := withRound round9 { tag9 with owners := [1], outstanding := [(0, 0, false)] }
    let c := withJob (withRound round9 { tag9 with outstanding := [(0, 0, false)], cancelJob := some 0, cancelled := true }) i .waitCancel
    (Calm a [] ∧ Accepts a (preRtCancel hd a) i ∧ homeOf hd a = 1 ∧ tagOf a 1 9 = some { tag9 with owners := [1] } ∧
      (∀ c ∈ (cfOf a 1).claims, c.job = none) ∧ (∀ o ∈ [1], o / 8 = myPos a)) ∧
    (Calm b [] ∧ Accepts b (preRtCancel hd b) i ∧ tagOf b 1 9 = some { tag9 with owners := [1], outstanding := [(0, 0, false)] } ∧
      (∀ c ∈ (cfOf b 1).claims, c.job = none)) ∧
    (Calm c [jobOn a i .waitCancel] ∧ tagOf c 1 9 = some { tag9 with outstanding := [(0, 0, false)], cancelJob := some 0, cancelled := true } ∧
      (jobOn a i .waitCancel).id = 0) := by
  dsimp only
  and_intros <;> decide +kernel

/-! ## Witnesses: owners, claims, flushes -/

/-- Die 1's Watershed as an owner of tag 9. -/
def owning (t : OwnTag) (w : Watershed := {}) : State := withDir { base with ws := [(1, { w with owned := [t] })] }

/-- A count message of tag 9: one choice of expert 0. -/
def count9 (src sources : Word16) : CountMsg := ⟨0, 9, 3, 1, false, 0, src, sources, 1, 0, 0, false, [(0, 0, 1), (1, 0, 0)]⟩

/-- Counts of a first source of two, and of the only one; the discard of an open and of a completed round; a cancel notice. -/
theorem witness_OwnersHoldCounts :
    let a := owning (newOwn 9)
    let two := owning { newOwn 9 with msgs := [count9 0 2] }
    let fin := owning { newOwn 9 with msgs := [count9 0 1], filled := true, arrived := [0, 1] }
    (Calm a [] ∧ ownOf a 1 9 = some (newOwn 9) ∧ (newOwn 9).cancelled = false ∧ (newOwn 9).refused = none ∧ a.dir.epoch ≤ 1 ∧
      [count9 0 2].head?.bind (fun f => disagrees f (count9 0 2) []) = none ∧ [count9 0 2].length ≠ (count9 0 2).sources.toNat) ∧
    (Calm two [] ∧ ownOf two 1 9 = some { newOwn 9 with msgs := [count9 0 2] } ∧
      [count9 0 2, count9 1 2].head?.bind (fun f => disagrees f (count9 1 2) [count9 0 2]) = none ∧
      [count9 0 2, count9 1 2].length = (count9 1 2).sources.toNat ∧
      (∀ x ∈ [count9 0 2, count9 1 2], x.srcPos.toNat = myPos two ∧ x.layer = 3 ∧ x.k = 1 ∧ x.sources = 2)) ∧
    (Quiet two ∧ ownDone two 1 { newOwn 9 with msgs := [count9 0 2] } = false) ∧
    (Quiet fin ∧ ownDone fin 1 { newOwn 9 with msgs := [count9 0 1], filled := true, arrived := [0, 1] } = true) ∧
    (Quiet a ∧ (newOwn 9).msgs = [] ∧ (newOwn 9).spills = [] ∧ (0 : Nat) = myPos a) := by
  dsimp only
  and_intros <;> decide +kernel

/-- A row for slot 1 of expert 0. -/
def row9 : RowMsg :=
  { anyRow with tag := 9, srcDie := 1, slot := 1, layer := 3, fmt := 1, rowBytes := 32, epoch := 1, row := [1, 0, 0, 0x40] ++ List.replicate 28 0 }

/-- A half that holds the row of a tag. -/
def half9 (tag : Nat) (arrived : Bool) : Half := ⟨0, tag, 0, [⟨1, 0, 1, 0, 0, 0⟩], 1, 32, arrived⟩

theorem witness_RowsLandInHalves :
    let s := owning (newOwn 9)
    let h := owning (newOwn 9) { heldRows := [row9] }
    let b := owning (newOwn 9) { halves := [(halfKey 3 0 false, half9 8 true)] }
    let c := owning { newOwn 9 with cancelled := true }
    (Calm s [] ∧ row9.lookup = false ∧ row9.kind = .fwdRow ∧ row9.srcPos.toNat = myPos s ∧ dirAt s 3 0 = some (entryOf 0) ∧
      ownerOf (entryOf 0) = 8 * myPos s + 1 ∧ (entryOf 0).type = 1 ∧ tooOld s row9 = false ∧
      (ownOf s 1 9).all (fun t => !t.cancelled && !fillsFinal t) = true ∧
      access s 0 (wsUnit 1) ((entryOf 0).slotBase.toNat + 1 * 32) 32 pWrite = none ∧ amFind (wsOf s 1).halves (halfKey 3 0 false) = none) ∧
    (Calm h [] ∧ (wsOf h 1).heldRows = [row9] ∧ amFind (wsOf h 1).halves (halfKey 3 0 false) = none) ∧
    (Calm b [] ∧ amFind (wsOf b 1).halves (halfKey 3 0 false) = some (half9 8 true) ∧ (half9 8 true).tag ≠ 9) ∧
    (Calm c [] ∧ ownOf c 1 9 = some { newOwn 9 with cancelled := true }) := by
  dsimp only
  and_intros <;> decide +kernel

/-- A lookup request; a return word with the right count and with a wrong one. -/
theorem witness_OwnersReturnRows :
    let lk : DirEntry := { entryOf 0 with type := 2 }
    let s : State := { owning (newOwn 9) with dir := { entries := [(dirKey 3 0, lk)], epoch := 1 } }
    let m : RowMsg := { row9 with lookup := true, slot := 0, word6 := 2, row := [] }
    let h := owning (newOwn 9) { halves := [(halfKey 3 0 false, half9 9 true)] }
    let w : Word64 := 0x90000000000 + 0x4000000000
    (Quiet s ∧ m.lookup = true ∧ m.kind = .fwdRow ∧ m.srcPos.toNat = myPos s ∧ (ownOf s 1 9).all (fun t => !t.cancelled) = true ∧
      dirAt s 3 0 = some lk ∧ ownerOf lk = 8 * myPos s + 1 ∧ lk.type = 2 ∧ tooOld s m = false ∧
      access s 0 (wsUnit 1) (lk.slotBase.toNat + 2 * 32) 32 pRead = none ∧ poisonIn s (lk.slotBase.toNat + 2 * 32) 32 = none) ∧
    (Quiet h ∧ returnEntry h 1 0x8040900008 = some (entryOf 0) ∧ (ownOf h 1 9).all (fun t => !t.cancelled) = true ∧
      bits w.toNat 40 24 = 9 ∧ bit w.toNat 39 = false ∧ amFind (wsOf h 1).halves (halfKey 3 0 false) = some (half9 9 true) ∧
      (half9 9 true).arrived = true ∧ (half9 9 true).rows = [⟨1, 0, 1, 0, 0, 0⟩] ∧ bits (w.toNat + 1) 0 20 = 1 ∧ bit (w.toNat + 1) 38 = true ∧
      0 < 16 ∧ 0 = myPos h ∧ access h 0 (wsUnit 1) ((entryOf 0).slotBase.toNat + 1 * 32) 32 pRead = none ∧
      poisonIn h ((entryOf 0).slotBase.toNat + 1 * 32) 32 = none ∧ bits w.toNat 0 20 ≠ 1) := by
  dsimp only
  and_intros <;> decide +kernel

/-- A claim of tag 9 of one token, eight FP32 elements, its route record in memory. -/
def claim9 : Claim := newClaim 0 9 false false true 0x40804000 1 1 32 1

def withClaim (c : Claim) : State :=
  place 0x40804000 (recBytes rec9) { withRound round9Counted { tag9 with counted := true } with cf := [(1, { claims := [c] })] }

/-- The contribution of expert 1 to token 0. -/
def contrib9 : RowMsg :=
  { row9 with kind := .fwdContrib, slot := 0, expert := 1, fromDie := 1, row := [0, 0, 0x80, 0x3F] ++ List.replicate 28 0, word6 := 0x3F800000, chkAbs := 0x3F800000 }

/-- A contribution that meets its claim, and one of a claim number that is gone. -/
theorem witness_ContributionsAccumulate :
    let s := withClaim claim9
    let old := { contrib9 with claim := 5 }
    (Calm s [] ∧ contrib9.kind = .fwdContrib ∧ (∀ g ∈ (wsOf s 1).tags, g.cancelJob = none) ∧
      meets s 1 contrib9 false = .inl (claim9, rec9) ∧ claim9.job = none ∧ fmtOf 1 = some ⟨.flt ffFP32, 32, false⟩) ∧
    (meets s 1 old false = .inr false ∧ (∀ c ∈ (cfOf s 1).claims, c.job = none)) := by
  dsimp only
  and_intros <;> decide +kernel

/-- The row of token 0 with its contribution. -/
def row0 : ClaimRow := ⟨0x3F800000 :: List.replicate 7 0, 0x3F800000, 0x3F800000, [0], [], false, false⟩

/-- CB_COMBINE of a claim whose row is short and of one whose row is there; CB_RETURN_GRAD of a short row. -/
theorem witness_CombineBindsAndWrites :
    let p : PCbCombine := ⟨0x40804000, 0x40805000, 0, 0x40808000, 9, 1, 32, 1⟩
    let i : Instr := .cbCombine hd p {}
    let s := withClaim claim9
    let full := { claim9 with rows := [(0, row0)] }
    let t := withClaim full
    let g : PCbReturnGrad := ⟨0x40804000, 0x40806000, 0x40807000, 9, 0, 1⟩
    let i2 : Instr := .cbReturnGrad hd g {}
    let gc := { claim9 with grad := true, dispatch := false }
    let u := withClaim gc
    let ex (s : State) (i : Instr) (c : Claim) := (List.range 1).map (fun t => expectedOf (tokenRecs (begun s i) 1 c t))
    (Calm s [] ∧ Accepts s (preCbCombine hd p s) i ∧ homeOf hd s = 1 ∧ claimOf s 1 9 false = some claim9 ∧ claim9.route = 0x40804000 ∧
      claim9.tokens = 1 ∧ claim9.e * elemSize 1 ≤ 32 ∧ lateRange s 0 (cfUnit 1) [(0x20, 0x40804000, 16, pRead)] = none ∧
      rangesStop (begun s i) [(0x40804000, 16)] (outRanges i claim9) = none ∧ recsRsvd 0 (readRecs (begun s i) (cfUnit 1) 0x40804000 1) = none ∧
      (∀ t, t < 1 → (rowAt claim9 t).final = false ∧ (rowAt claim9 t).failed = false ∧ (rowAt claim9 t).got.length < (ex s i claim9).getD t 0)) ∧
    (Calm t [] ∧ Accepts t (preCbCombine hd p t) i ∧ claimOf t 1 9 false = some full ∧ recsRsvd 0 (readRecs (begun t i) (cfUnit 1) 0x40804000 1) = none ∧
      rangesStop (begun t i) [(0x40804000, 16)] (outRanges i full) = none ∧ (rowAt full 0).final = false ∧ (rowAt full 0).failed = false ∧
      (ex t i full).getD 0 0 ≤ (rowAt full 0).got.length ∧ rowCheckOk (rowAt full 0) 8 = true ∧ p.signalAddr = 0 ∧
      hasDrop (tokenRecs (begun t i) 1 full 0) = false ∧ Apart (replyWrites t (jobFor t (preCbCombine hd p t) i)) [(0x40805000, 32)] ∧
      Apart [(0x40804000, 16)] [(0x40805000, 32)] ∧ rowsDone full = 0) ∧
    (Calm u [] ∧ Accepts u (preCbReturnGrad hd g u) i2 ∧ claimOf u 1 9 true = some gc ∧ g.recompute = 0 ∧ gc.tokens ≠ 0 ∧
      lateRange u 0 (cfUnit 1) [(0x20, 0x40804000, 16, pRead), (0x30, 0x40807000, 4, pWrite), (0x28, 0x40806000, 32, pWrite)] = none ∧
      rangesStop (begun u i2) [(0x40804000, 16)] ((0x40807000, 4) :: outRanges i2 gc) = none ∧
      recsRsvd 0 (readRecs (begun u i2) (cfUnit 1) 0x40804000 1) = none ∧
      (∀ t, t < 1 → (rowAt gc t).final = false ∧ (rowAt gc t).failed = false ∧ (rowAt gc t).got.length < (ex u i2 gc).getD t 0)) := by
  dsimp only
  and_intros <;> decide +kernel

/-- A factor table of one entry of 1 × 1, its stash of one row, on die 1. -/
def factor9 : Factor := readFactor 64 (leBytes 2 3 ++ leBytes 2 0 ++ leBytes 1 0 ++ leBytes 1 0 ++ leBytes 2 1 ++ leBytes 4 0x11000000 ++ [1, 1] ++
  leBytes 2 0 ++ leBytes 4 1 ++ leBytes 4 1 ++ leBytes 8 0x40811000 ++ leBytes 8 0x40812000 ++ leBytes 8 0x40813000 ++ leBytes 4 1 ++ leBytes 4 0 ++
  leBytes 8 0)

def withFactor : State :=
  let s := engWith {}
  let s := place 0x40812000 [0, 0, 0, 0x40] (place 0x40811000 [0, 0, 0x40, 0x40] s)
  let s := place 0x40810000 [1] s
  let s := place 0x40810040 (leBytes 2 3 ++ leBytes 2 0 ++ leBytes 1 0 ++ leBytes 1 0 ++ leBytes 2 1 ++ leBytes 4 0x11000000 ++ [1, 1] ++
    leBytes 2 0 ++ leBytes 4 1 ++ leBytes 4 1 ++ leBytes 8 0x40811000 ++ leBytes 8 0x40812000 ++ leBytes 8 0x40813000 ++ leBytes 4 1 ++
    leBytes 4 0 ++ leBytes 8 0) s
  { s with hw := { s.hw with factor := [(256, 0x40810000)] } }

/-- CB_FACTOR_FLUSH without a table and of one tile. -/
theorem witness_FlushWritesItsTile :
    let p : PCbFactorFlush := ⟨0, 3, 0xFFFF⟩
    let i : Instr := .cbFactorFlush hd p {}
    let s := withFactor
    let b := begun s i
    let j := jobFor s (preCbFactorFlush hd p s) i
    let r := tileRes b 0 6 factor9 0 0
    (Calm base [] ∧ Accepts base (preCbFactorFlush hd p base) i ∧ homeOf hd base = 1 ∧ factorTable base 1 0 = 0) ∧
    (Calm s [] ∧ Accepts s (preCbFactorFlush hd p s) i ∧ homeOf hd s = 1 ∧ factorTable s 1 0 = 0x40810000 ∧ shapeOf s eng = 6 ∧
      rangesStop b [(0x40810000, 128)] [] = none ∧ readNat b (uid 0 1 0) 0x40810000 4 = 1 ∧ (∀ k, k < 60 → readNat b (uid 0 1 0) (0x40810004 + k) 1 = 0) ∧
      factor9 = readFactor 64 (readBytes b (uid 0 1 0) 0x40810040 64) ∧ factor9.layer = 3 ∧ factor9.expert = 0 ∧
      factorStop b 1 0 (uid 0 1 0) (readBytes b (uid 0 1 0) 0x40810040 64) factor9 = none ∧ factor9.count ≠ 0 ∧ factor9.mode = 0 ∧
      tileTotal 6 factor9 = 1 ∧ factor9.tile = 0 ∧ (maskParts factor9).getD 0 0 = 0 ∧ tilePoison b 6 factor9 0 = none ∧ checkClean r 64 64 [] = true ∧
      tileClip 6 factor9 0 = (1, 1) ∧ Apart [(factor9.dw, 4 * factor9.n * 1)] ((0x40810070, 8) :: replyWrites s j) ∧
      Apart [(0x40810070, 8)] (replyWrites s j)) := by
  dsimp only
  and_intros <;> decide +kernel


/-! ## Witnesses: drovers and chains -/

/-- A launch of drover 0 of die 1 at 0x8040900000. -/
def launch1 : PDrvLaunch := ⟨0x8040900000, 0x8040901000, 0, 1, 0⟩

/-- Drover 0 of die 1 runs the code given, with the registers given; drover 1 as given. -/
def running (d : Drover) (code : List Byte) : State :=
  let s := place 0x8040900000 code (withJob base (.drvLaunch hd launch1) .launch)
  { s with drv := [(64, { d with job := some 0, pc := if d.pc = 0 then 0x8040900000 else d.pc })] }

/-- Its launch. -/
def drvJob1 : Job := jobOn base (.drvLaunch hd launch1) .launch

theorem witness_LaunchStartsItsDrovers :
    let p := launch1
    let q : PDrvLaunch := { launch1 with scratchBytes := 8 }
    (Idle base ∧ Accepts base (preDrvLaunch hd q base) (.drvLaunch hd q) ∧
      launchBad base 0 (uDie (preDrvLaunch hd q base).unit) q = some (OUT_OF_RANGE, 0x34)) ∧
    (Idle base ∧ Accepts base (preDrvLaunch hd p base) (.drvLaunch hd p) ∧
      launchBad base 0 (uDie (preDrvLaunch hd p base).unit) p = none ∧ setFree base (uDie (preDrvLaunch hd p base).unit) p = true) := by
  dsimp only
  and_intros <;> decide +kernel

/-- addi x5,x5,1; add x5,x5,x6; ld x5,0(x6); sd x5,0(x6); beq x0,x0,+8; a halfword of zeros, and an odd pc. -/
theorem witness_DroversExecuteInstructions :
    let s := running { x := [(5, 7), (6, 0x8040901000)] }
    let odd := running { pc := 0x8040900001 } []
    let fetched (code : List Byte) (i : Nat) : Prop := Runs (s code) 64 drvJob1 ∧ Quiet (s code) ∧ (s code).sig.waiters = [] ∧
      (drvFetch (s code) 64 drvJob1).getRight? = some (i, 4)
    (fetched [0x93, 0x82, 0x12, 0] 0x128293 ∧ 0x128293 % 128 = 0x13 ∧ f3Of 0x128293 = 0) ∧
    (fetched [0xB3, 0x82, 0x62, 0] 0x6282B3 ∧ 0x6282B3 % 128 = 0x33 ∧ f3Of 0x6282B3 = 0 ∧ f7Of 0x6282B3 = 0) ∧
    (fetched [0x83, 0x32, 3, 0] 0x33283 ∧ 0x33283 % 128 = 3 ∧ f3Of 0x33283 = 3 ∧
      (drvLoad (s [0x83, 0x32, 3, 0]) 64 drvJob1 0x8040901000 8 false).getRight? = some 0) ∧
    (fetched [0x23, 0x30, 0x53, 0] 0x533023 ∧ 0x533023 % 128 = 0x23 ∧ f3Of 0x533023 = 3 ∧
      meetsSink (droverOf (s [0x23, 0x30, 0x53, 0]) 64) 64 0x8040901000 8 = false ∧
      (drvCheck (s [0x23, 0x30, 0x53, 0]) 64 drvJob1 0x8040901000 8 pWrite false).isNone = true) ∧
    (fetched [0x63, 4, 0, 0] 0x463 ∧ 0x463 % 128 = 0x63 ∧ f3Of 0x463 = 0) ∧
    ((drvFetch (s []) 64 drvJob1).isLeft = true ∧ Runs (s []) 64 drvJob1 ∧ Quiet (s []) ∧ Calm (s []) [drvJob1] ∧
      drvJob1.phase = .launch ∧ launchOf drvJob1 = some launch1) ∧
    ((drvFetch odd 64 drvJob1).isLeft = true ∧ Runs odd 64 drvJob1 ∧ Calm odd [drvJob1]) := by
  dsimp only
  and_intros <;> decide +kernel

/-- The exit of one of two drovers and of the only one; `ecall` with a7 of 1. Waits on a signal word of die 1: refused, poisoned,
met and not; a wait that expires; a write of statsink. -/
theorem witness_DroversExitFenceAndWait :
    let p2 : PDrvLaunch := { launch1 with count := 2 }
    let j2 := jobOn base (.drvLaunch hd p2) .launch
    let two : State := { withJob base (.drvLaunch hd p2) .launch with drv := [(64, { job := some 0, pc := 0x8040900000 }),
      (65, { job := some 0, pc := 0x8040900000 })] }
    let one := running { x := [(10, 5)] } []
    let bad := running { x := [(17, 1)] } []
    let at' (a : Nat) := running { sigaddr := a, sigval := 1 } []
    let sw : Nat := 0x8040902000
    let poisoned : State := { at' sw with mem := { (at' sw).mem with poison := [sw / 32] } }
    (Runs two 64 j2 ∧ Calm two [j2] ∧ j2.phase = .launch ∧ launchOf j2 = some p2 ∧ 64 ∈ drvSet (uDie j2.unit) p2 ∧
      xr (droverOf two 64) 17 = 0 ∧ (drvSet (uDie j2.unit) p2).all (fun m => m == 64 || (droverOf two m).finished) = false) ∧
    (Runs one 64 drvJob1 ∧ Calm one [drvJob1] ∧ launchOf drvJob1 = some launch1 ∧ 64 ∈ drvSet (uDie drvJob1.unit) launch1 ∧
      xr (droverOf one 64) 17 = 0 ∧ (drvSet (uDie drvJob1.unit) launch1).all (fun m => m == 64 || (droverOf one m).finished) = true) ∧
    (Runs bad 64 drvJob1 ∧ Calm bad [drvJob1] ∧ xr (droverOf bad 64) 17 ≠ 0) ∧
    (Quiet (at' 4) ∧ Runs (at' 4) 64 drvJob1 ∧ signalOk (at' 4) 4 = false) ∧
    (Quiet poisoned ∧ Runs poisoned 64 drvJob1 ∧ signalOk poisoned sw = true ∧ access poisoned (drvJob1.ring / 256) (drvUnit 64) sw 8 pRead = none ∧
      poisonIn poisoned (sw / 32 * 32) 32 ≠ none) ∧
    (Quiet (at' sw) ∧ Runs (at' sw) 64 drvJob1 ∧ signalOk (at' sw) sw = true ∧ access (at' sw) (drvJob1.ring / 256) (drvUnit 64) sw 8 pRead = none ∧
      poisonIn (at' sw) (sw / 32 * 32) 32 = none ∧ condHolds 3 (word (at' sw) sw) 1 = true ∧ condHolds 0 (word (at' sw) sw) 1 = false) ∧
    (Quiet (running { waiting := true } []) ∧ (droverOf (running { waiting := true } []) 64).waiting = true) ∧
    (Quiet one ∧ Runs one 64 drvJob1 ∧ one.sig.waiters = [] ∧ 0x8003 % 4096 + 32768 * b2n (bit 0x8003 15) = 0x8003 ∧
      (droverOf one 64).scratch ≤ 1044480) := by
  dsimp only
  and_intros <;> decide +kernel

theorem witness_VectorStoresFillSinkAndMirror :
    let sk := running { statsink := 0x8000 } []
    let on := running { tmbase := 0x8040903000, tmshape := 2 * 2 ^ 32 + 64, tmdst := 0x8040904000, tmctl := 2 ^ 63 + 2 * 2 ^ 32 + 64 } []
    let off := running {} []
    let es := unitElems 0x8040903000 4 [1, 2]
    (Runs sk 64 drvJob1 ∧ Quiet sk ∧ sk.sig.waiters = [] ∧ bit (droverOf sk 64).statsink 15 = true ∧ 0xFFC % 4 = 0 ∧
      [(0x3F800000 : Word32)] ≠ [] ∧ 0xFFC + 4 * [(0x3F800000 : Word32)].length ≤ 4096) ∧
    (Runs on 64 drvJob1 ∧ Quiet on ∧ on.sig.waiters = [] ∧ bit (droverOf on 64).tmctl 63 = true ∧ 4 = 2 ^ bits (droverOf on 64).tmctl 32 2 ∧
      (∀ e ∈ es, meetsSink (droverOf on 64) 64 e.1 4 = false ∧ (drvCheck on 64 drvJob1 e.1 4 pWrite true).isNone = true ∧
        0x8040903000 ≤ e.1 ∧ e.1 + 3 < 0x8040903000 + 128 ∧
        (drvCheck on 64 drvJob1 (0x8040904000 + (e.1 - 0x8040903000) % 64 / 4 * 64) 4 pWrite true).isNone = true)) ∧
    (Runs off 64 drvJob1 ∧ Quiet off ∧ bit (droverOf off 64).tmctl 63 = false ∧
      (∀ e ∈ es, meetsSink (droverOf off 64) 64 e.1 4 = false ∧ (drvCheck off 64 drvJob1 e.1 4 pWrite true).isNone = true)) ∧
    (∀ e ∈ unitElems 0x8040905000 4 [1, 2], ¬(0x8040903000 ≤ e.1 ∧ e.1 < 0x8040903000 + 128) ∧ ¬(0x8040903000 ≤ e.1 + 3 ∧ e.1 + 3 < 0x8040903000 + 128)) := by
  dsimp only
  and_intros <;> decide +kernel

/-- A chain table of this device: one FP32 or INT32 sum over the dies given. -/
def chainTable (fmt n : Nat) (dies : List Nat) : List Byte :=
  leBytes 4 7 ++ leBytes 2 dies.length ++ leBytes 1 0 ++ leBytes 1 fmt ++ leBytes 4 n ++ leBytes 2 0xFFFF ++ leBytes 2 0 ++ leBytes 8 0x8040908000 ++
    List.replicate 40 0 ++ dies.flatMap (fun d => leBytes 2 0 ++ leBytes 1 d ++ List.replicate 5 0)

/-- The member at a position of chain 7. -/
def chain1 (pos len n : Nat) : PChainReduce :=
  ⟨0x8040906000, 0x8040907000, 0x8040905000, BitVec.ofNat 32 n, 7, 0, 9, BitVec.ofNat 16 pos, BitVec.ofNat 16 len⟩

/-- An open chain of die 1. -/
def inChain (pos n : Nat) (members : List (Nat × Nat)) (c : Chain → Chain) : State :=
  let p := chain1 pos members.length n
  { withJob base (.chainReduce hd p {}) (.chain true) with chains := [(1, [c ⟨0, 0, p, members, 0, 0xFFFF, [], [], false, false⟩])] }

def chainJob (pos n len : Nat) : Job := jobOn base (.chainReduce hd (chain1 pos len n) {}) (.chain true)

/-- A piece from position 0. -/
def piece0 (len n : Nat) : ChainMsg := ⟨7, 0, 9, BitVec.ofNat 32 n, BitVec.ofNat 16 len, 0, 0, [(5, 0)], 0, 0⟩

theorem witness_ChainsOpenResendAndAbort :
    let p := chain1 0 2 1
    let i : Instr := .chainReduce hd p {}
    let s := place 0x8040905000 (chainTable 9 1 [1, 0]) base
    let r := inChain 1 1 [(0, 0), (0, 1), (0, 2)] (fun c => { c with sent := [piece0 3 1] })
    let ms : List (Nat × Nat) := [(0, 0), (0, 1), (0, 2)]
    let q := chain1 1 3 1
    let i2 : Instr := .chainReduce hd q {}
    let s2 := place 0x8040905000 (chainTable 9 1 [0, 1, 2]) base
    let x := place 0x8040905000 (chainTable 1 1 [1, 0]) base
    let opens (s : State) (p : PChainReduce) (i : Instr) : Prop :=
      Calm s [] ∧ Accepts s (preChainReduce hd p s) i ∧ chainsOf s (uDie (jobFor s (preChainReduce hd p s) i).unit) = [] ∧
      poisonIn s p.chainAddr.toNat (64 + 8 * p.length.toNat) = none ∧
      tableBad (tableBytes (begun s i) (jobFor s (preChainReduce hd p s) i).unit p) p.length.toNat = none
    let differs (s : State) (p : PChainReduce) (i : Instr) :=
      tableDiffers (begun s i) (uDie (jobFor s (preChainReduce hd p s) i).unit) p (tableBytes (begun s i) (jobFor s (preChainReduce hd p s) i).unit p)
    let rest (s : State) (p : PChainReduce) (i : Instr) : Prop :=
      access s 0 (jobFor s (preChainReduce hd p s) i).unit 0x8040908000 16 pWrite = none ∧ poisonIn s p.srcAddr.toNat 4 = none ∧
      (∀ m ∈ tableMembers (tableBytes (begun s i) (jobFor s (preChainReduce hd p s) i).unit p) p.length.toNat, m.1 = myDevice s)
    (opens x p i ∧ differs x p i = some 0x41) ∧
    (opens s p i ∧ differs s p i = none ∧ rest s p i ∧
      (tableMembers (tableBytes (begun s i) (jobFor s (preChainReduce hd p s) i).unit p) p.length.toNat)[1]? = some (0, 0)) ∧
    (opens s2 q i2 ∧ differs s2 q i2 = none ∧ rest s2 q i2 ∧ q.position.toNat ≠ 0 ∧ q.position.toNat + 1 < q.length.toNat) ∧
    (Quiet r ∧ ((chainsOf r 1).find? (fun c => c.cmd.chainId == 7)).map (·.sent) = some [piece0 3 1] ∧
      [piece0 3 1].find? (fun m => m.piece == 0) = some (piece0 3 1) ∧ ms[1 + 1]? = some (myDevice r, 2) ∧
      Calm r [chainJob 1 1 3] ∧ (openChain r 1 7).map (·.job) = some (chainJob 1 1 3).id ∧ (chainJob 1 1 3).phase = .chain true) := by
  dsimp only
  and_intros <;> decide +kernel

theorem witness_ChainPiecesAreCombined :
    let ms3 := [((0 : Nat), (0 : Nat)), (0, 1), (0, 2)]
    let mid := inChain 1 16385 ms3 id
    let last := inChain 1 1 [(0, 0), (0, 1)] id
    let again := inChain 1 1 [(0, 0), (0, 1)] (fun c => { c with resent := true })
    let c := (openChain last 1 7).getD ⟨0, 0, chain1 0 0 0, [], 0, 0, [], [], false, false⟩
    let cm := (openChain mid 1 7).getD c
    let j := chainJob 1 1 2
    let bs := lastBytes c.cmd ([piece0 2 1].flatMap (outPiece last j.unit c))
    (Calm last [j] ∧ openChain last 1 7 = some c ∧ j.id = c.job ∧ j.phase = .chain true ∧ (∀ x ∈ c.members, x.1 = myDevice last) ∧
      pieceAgrees c.cmd (piece0 3 1) = false) ∧
    (Calm mid [chainJob 1 16385 3] ∧ openChain mid 1 7 = some cm ∧ (∀ x ∈ cm.members, x.1 = myDevice mid) ∧ pieceAgrees cm.cmd (piece0 3 16385) = true ∧
      0 < pieceCount cm.cmd ∧ poisonIn mid cm.cmd.srcAddr.toNat (cm.cmd.elements.toNat * 4) = none ∧
      allPieces { cm with got := [piece0 3 16385] } = none ∧ cm.members[2]? = some (0, 2) ∧ 0 + 1 < pieceCount cm.cmd ∧
      cm.cmd.position.toNat + 1 < cm.cmd.length.toNat) ∧
    (pieceAgrees c.cmd (piece0 2 1) = true ∧ 0 < pieceCount c.cmd ∧ poisonIn last c.cmd.srcAddr.toNat 4 = none ∧
      allPieces { c with got := [piece0 2 1] } = some [piece0 2 1] ∧ chainClean c.cmd [piece0 2 1] = true ∧
      c.cmd.position.toNat + 1 = c.cmd.length.toNat ∧ c.stats = 0 ∧ partialPoison last c.cmd.dstAddr.toNat bs.length = none ∧
      Apart [(c.cmd.dstAddr.toNat, bs.length)] (replyWrites last j)) ∧
    (Calm again [j] ∧ openChain again 1 7 = some { c with resent := true } ∧ pieceAgrees c.cmd (piece0 2 1) = true) := by
  dsimp only
  and_intros <;> decide +kernel

/-! ## Witnesses: groups -/

/-- Position 0 of a group of two, eligible, with a port that is up to position 1. -/
def grouped (g : GroupSt) : State :=
  { base with
    grp := g
    hw := { base.hw with items := [(65536 * mdBlock + 0x70, 0x20100)] }
    link := { ports := [(0xD8000000, { state := 2, partner := some ⟨1, 2, true, 0, false⟩ })] } }

/-- Position 1, live and eligible. -/
def live1 : Peer := { live := true, eligible := true }

/-- A message of position 1. -/
def from1 (term arg0 arg1 : Word32) : GroupMsg := ⟨1, 0, term, 0, 0, arg0, arg1, 0⟩

theorem witness_GroupsElectAMaster :
    let s := grouped { peers := [(1, live1)], master := some 1 }
    let none' := grouped { peers := [(1, live1)] }
    let alone := grouped { peers := [(1, { live1 with live := false })] }
    (Idle s ∧ ofGroup s (from1 3 0x11 0) = true ∧ reachable s (deviceOf s 1) = true ∧ (peerOf s 1).live = true) ∧
    (Idle alone ∧ (peerOf alone 1).live = false) ∧
    (Idle none' ∧ none'.grp.master = none ∧ (livePeers none').length + 1 = groupSize none' ∧ mayClaim none' none = true) ∧
    (s.grp.master ≠ none) ∧ (s.grp.master ≠ some (myPos s) ∧ mayClaim s s.grp.master = true) ∧
    (Idle (grouped { master := some 0 }) ∧ (grouped { master := some 0 }).grp.master = some (myPos (grouped { master := some 0 }))) ∧
    (ofGroup s (from1 3 0 0) = true ∧ s.grp.master = some 1 ∧ (from1 3 0 0).arg0.toNat = myPos s ∧ eligible s = true) := by
  dsimp only
  and_intros <;> decide +kernel

/-- A barrier command in flight. -/
def atBarrier (g : GroupSt) (mem : Word16) : State := withJob (grouped g) (.grpBarrier hd ⟨4, mem⟩) .barrier

/-- An update with one entry that waits for the member at position 1. -/
def updating (acks : List Nat) : State :=
  let s := withJob (grouped { peers := [(1, live1)], master := some 0 }) (.grpDirectoryUpdate hd ⟨0x40800000, 1⟩) .dirUpdate
  { s with dir := { staged := some ⟨[entryOf 0], 1, true⟩, job := some 0, acks := acks } }

theorem witness_BarriersAndDirectoryUpdates :
    let lost := grouped { peers := [(1, { lost := true })] }
    let none' := grouped { peers := [(1, live1)] }
    let other := grouped { peers := [(1, live1)], master := some 1 }
    let me := grouped { peers := [(1, live1)], master := some 0 }
    let acc (s : State) (mem : Word16) : Prop := Calm s [] ∧ Accepts s (preGrpBarrier hd ⟨4, mem⟩ s) (.grpBarrier hd ⟨4, mem⟩)
    let lostOf (s : State) := (maskPos 3).find? (fun x => x != myPos s && (peerOf s x).lost)
    let j := jobOn me (.grpBarrier hd ⟨4, 3⟩) .barrier
    let two := atBarrier { peers := [(1, live1)], master := some 0, barriers := [⟨4, 3, [0]⟩] } 3
    let mine := atBarrier { peers := [(1, live1)], master := some 1 } 3
    let prep := { other with dir := { staged := some ⟨[entryOf 0], 1, true⟩ } }
    let ju := jobOn me (.grpDirectoryUpdate hd ⟨0x40800000, 1⟩) .dirUpdate
    let size3 : State := { updating [] with
      grp := { peers := [(1, live1), (2, live1)], master := some 0 }
      hw := { (updating []).hw with items := [(65536 * mdBlock + 0x70, 0x30100)] } }
    (acc lost 3 ∧ lostOf lost = some 1) ∧ (acc none' 3 ∧ lostOf none' = none ∧ none'.grp.master = none) ∧
    (acc other 3 ∧ lostOf other = none ∧ other.grp.master = some 1 ∧ 1 ≠ myPos other) ∧
    (acc me 1 ∧ acc me 3 ∧ lostOf me = none ∧ me.grp.master = some (myPos me) ∧ me.grp.barriers = [] ∧ me.grp.waiting = [] ∧
      (1 : Nat) = 2 ^ myPos me ∧ (3 : Nat) ≠ 2 ^ myPos me) ∧
    (ofGroup me (from1 0 4 3) = true ∧ isMaster me = true ∧ Idle me ∧ me.grp.barriers.length < 64 ∧ (maskPos 3).all (fun p => p == 1) = false) ∧
    (ofGroup two (from1 0 4 3) = true ∧ isMaster two = true ∧ two.grp.waiting = [] ∧ Calm two [j] ∧
      two.grp.barriers.find? (fun b => b.id == 4) = some ⟨4, 3, [0]⟩ ∧ barrierCmd j = some (4, 3) ∧ bit 3 (myPos two) = true ∧
      (maskPos 3).all (fun p => p == 1 || [0].contains p) = true ∧ bit (3 ||| 2) (myPos two) = true ∧ 3 ≠ (from1 0 4 2).arg1.toNat) ∧
    (ofGroup mine (from1 0 4 3) = true ∧ mine.grp.master = some 1 ∧ Calm mine [j]) ∧
    (mine.ws = [] ∧ mine.cf = [] ∧ mine.chains = [] ∧ mine.dir.job = none ∧ 1 ≠ myPos mine ∧ (peerOf mine 1).live = true ∧ bit 3 1 = true) ∧
    (Idle prep ∧ fromMaster prep (from1 0 1 0) = true ∧ (from1 0 1 0).arg0.toNat = [entryOf 0].length ∧
      prep.dir.staged = some ⟨[entryOf 0], 1, true⟩) ∧
    (Calm (updating []) [ju] ∧ ju.phase = .dirUpdate ∧ (updating []).dir.job = some ju.id ∧ ofGroup (updating []) (from1 0 1 0) = true ∧
      isMaster (updating []) = true ∧ (livePeers (updating [])).all (fun p => p == 1 || [].contains p) = true) ∧
    (Calm size3 [ju] ∧ ofGroup size3 (from1 0 1 0) = true ∧ (livePeers size3).all (fun p => p == 1 || size3.dir.acks.contains p) = false) := by
  dsimp only
  and_intros <;> decide +kernel

/-! ## Witnesses: orders and items -/

/-- A sealed page. -/
def page0 : Page := ⟨0, [], 0, 0, false, false, 0, 0⟩

/-- A CFG_WRITE of CHECK_LIMIT of die 1. -/
def limitTo (v : Word64) : PCfgWrite := ⟨0x01000000, 0x10, v⟩

theorem witness_OrdersJoinTheirWindows :
    let ok : Instr := .cfgWrite hd (limitTo 0xA0020)
    let bad : Instr := .cfgWrite hd (limitTo 0)
    let full : State := { base with tr := { held := List.replicate 16 page0 } }
    let pre := preCfgWrite hd (limitTo 0xA0020) base
    let stop (s : State) (i : Instr) := orderStop (begun s i) (jobFor s (preOf s i) i)
    (isOrder ok = true ∧ Calm base [] ∧ Accepts base pre ok ∧ stop base ok = none ∧ ledgerRoom base = true) ∧
    (isOrder bad = true ∧ Accepts base (preCfgWrite hd (limitTo 0) base) bad ∧ stop base bad = some (fails OUT_OF_RANGE 0x28)) ∧
    (Calm full [] ∧ Accepts full (preCfgWrite hd (limitTo 0xA0020) full) ok ∧ stop full ok = none ∧ ledgerRoom full = false) := by
  dsimp only
  and_intros <;> decide +kernel

/-- A command whose order is alone in its object's window. -/
def windowed (i : Instr) (obj : OrderObj) (kind value : Nat) : State :=
  let s := withJob base i .inWindow
  let o : Order := ⟨(jobOn base i .inWindow).origin, 0, kind, value, some 0⟩
  { s with gz := { s.gz with windows := [⟨obj, [o], none⟩] } }

/-- Its order. -/
def only (i : Instr) (kind value : Nat) : Order := ⟨(jobOn base i .inWindow).origin, 0, kind, value, some 0⟩

def item10 : OrderObj := .item 0x01000000 0x10
/-- A CFG_WRITE in its window. -/
def writing (v : Word64) : State := windowed (.cfgWrite hd (limitTo v)) item10 0x0F02 v.toNat
/-- A write of the kernel core in its window. -/
def kernelWrites (v : Nat) : State := { base with gz := { base.gz with windows := [⟨item10, [⟨1, 0, 0x0F02, v, none⟩], none⟩] } }

theorem witness_WindowsCloseOnTheirWinner_items :
    let s := kernelWrites 0xA0020
    let z := kernelWrites 0
    let i : Instr := .cfgWrite hd (limitTo 0xA0020)
    let o := only i 0x0F02 0xA0020
    let k : Order := ⟨1, 0, 0x0F02, 0xB0020, none⟩
    let both : State := { writing 0xA0020 with gz := { (writing 0xA0020).gz with windows := [⟨item10, [o, k], none⟩] } }
    (Idle base ∧ windowOf base item10 = none) ∧
    (Idle s ∧ Bare s ∧ itemOn 0x01000000 0x10 = true ∧ windowOf s item10 = some ⟨item10, [⟨1, 0, 0x0F02, 0xA0020, none⟩], none⟩ ∧
      winnerOf [(⟨1, 0, 0x0F02, 0xA0020, none⟩ : Order)] = some ⟨1, 0, 0x0F02, 0xA0020, none⟩ ∧
      (itemCheck s 1 0x01000000 0x10 0xA0020).orElse (fun _ => itemState s 0x01000000 0x10 0xA0020) = none) ∧
    (Idle z ∧ windowOf z item10 = some ⟨item10, [⟨1, 0, 0x0F02, 0, none⟩], none⟩ ∧ itemCheck z 1 0x01000000 0x10 0 = some (fails OUT_OF_RANGE 0x28)) ∧
    (Waits (writing 0xA0020) (jobOn base i .inWindow) item10 [o] ∧ o.job = some (jobOn base i .inWindow).id ∧
      (itemCheck (writing 0xA0020) o.origin 0x01000000 0x10 o.value).orElse (fun _ => itemState (writing 0xA0020) 0x01000000 0x10 o.value) = none) ∧
    (Waits (writing 0) (jobOn base (.cfgWrite hd (limitTo 0)) .inWindow) item10 [only (.cfgWrite hd (limitTo 0)) 0x0F02 0] ∧
      itemCheck (writing 0) 1 0x01000000 0x10 0 = some (fails OUT_OF_RANGE 0x28)) ∧
    (Waits both (jobOn base i .inWindow) item10 [o, k] ∧ k.job = none ∧ winnerOf [o, k] = some k ∧ sameEffect k o = false) := by
  dsimp only
  and_intros <;> decide +kernel

/-- The tables of a context of one extent and one ring. -/
def tables (s : State) : State :=
  place 0x40900000 (leBytes 8 0x80000000 ++ leBytes 8 0x80100000 ++ [7, 0] ++ leBytes 2 0x1FFF)
    (place 0x40910000 (leBytes 8 0x80000000 ++ leBytes 8 0x80001000 ++ [12, 12, 1, 15]) s)

/-- Creation and destruction of context 5. -/
theorem witness_WindowsCloseOnTheirWinner_contexts :
    let p : PCtxCreate := ⟨0x40910000, 0x40900000, 0x40920000, 0, 0, 5, 0, 1, 1⟩
    let i : Instr := .ctxCreate hd p
    let s := tables (windowed i (.ctx 5) 0x0F00 0)
    let d : Instr := .ctxDestroy hd ⟨5⟩
    let gone := windowed d (.ctx 5) 0x0F01 0
    let live : State := { gone with gz := { gone.gz with ctxs := [(0, ctx0 0), (5, { ctx0 0 with cls := 0 })] } }
    (Waits s (jobOn base i .inWindow) (.ctx 5) [only i 0x0F00 0] ∧ p.rings.toNat ≤ 256 ∧ (ctxOf s 5).live = false ∧
      tablesStop p (jobOn base i .inWindow).unit s = none) ∧
    (Waits gone (jobOn base d .inWindow) (.ctx 5) [only d 0x0F01 0] ∧ (ctxOf gone 5).live = false) ∧
    (Waits live (jobOn base d .inWindow) (.ctx 5) [only d 0x0F01 0] ∧ (ctxOf live 5).live = true) := by
  dsimp only
  and_intros <;> decide +kernel

/-- Map-outs of channel 0 of the first side of die 1, a remap epoch, a calibration, a self-test and a directory update. -/
theorem witness_WindowsCloseOnTheirWinner_others :
    let ch : Word32 := 0xB1000000
    let soft : Instr := .mapOut hd ⟨ch, 0⟩
    let hard : Instr := .mapOut hd ⟨ch, 1⟩
    let s := windowed soft (.channel ch) 0x0F03 0
    let busy : State := { s with mem := { s.mem with sides := [(0xA1000000, { front := some 0 })] } }
    let h := windowed hard (.channel ch) 0x0F03 0
    let lost : State := { h with mem := { h.mem with chans := [(0xB1000000, { state := .lost })] } }
    let re (n : Word32) : Instr := .remapEpoch hd ⟨n⟩
    let cal : Instr := .calibrateChannel hd ⟨ch⟩
    let st : Instr := .selftestUnit hd ⟨0x11000000, 0⟩ {}
    let up : Instr := .grpDirectoryUpdate hd ⟨0x40800000, 1⟩
    let u : State := place 0x40800000 (dirEntryBytes (entryOf 0)) (windowed up (.dirKey 0x30000) 0x0A01 0)
    let w (s : State) (i : Instr) (obj : OrderObj) (k : Nat) : Prop := Waits s (jobOn base i .inWindow) obj [only i k 0]
    (w s soft (.channel ch) 0x0F03 ∧ softStop s 0xB1000000 = none) ∧ (w busy soft (.channel ch) 0x0F03 ∧ softStop busy 0xB1000000 = some (fails BAD_STATE 0x20)) ∧
    (w h hard (.channel ch) 0x0F03 ∧ (chan h 0xB1000000).state = .inService) ∧ (w lost hard (.channel ch) 0x0F03 ∧ (chan lost 0xB1000000).state = .lost) ∧
    w (windowed (re 0) .device 0x0F04 0) (re 0) .device 0x0F04 ∧ w (windowed (re 1) .device 0x0F04 0) (re 1) .device 0x0F04 ∧
    w (windowed cal (.channel ch) 0x0D01 0) cal (.channel ch) 0x0D01 ∧
    (w (windowed st (.unit 0x11000000) 0x0D00 0) st (.unit 0x11000000) 0x0D00 ∧ (0x11000000 : Nat) ≠ wholeDevice ∧ uKind 0x11000000 ≠ 0xD ∧
      unitIdle (windowed st (.unit 0x11000000) 0x0D00 0) 0x11000000 = true ∧ testStop (windowed st (.unit 0x11000000) 0x0D00 0) 0x11000000 false = none) ∧
    (w u up (.dirKey 0x30000) 0x0A01 ∧ u.dir.job = none ∧ u.dir.staged = none ∧
      updateBad u (updateEntries u (jobOn base up .inWindow).unit ⟨0x40800000, 1⟩) = none) := by
  dsimp only
  and_intros <;> decide +kernel

/-- An image of one kernel byte and no firmware; the digests are those of FIPS 202's SHAKE256. -/
def image1 (s : State) : State :=
  place 0x40821000 [1] (place 0x40820000 (leBytes 4 0x5A6F4D31 ++ leBytes 2 1 ++ leBytes 2 0 ++ [0x43, 0x31, 0, 0] ++ leBytes 4 1 ++ leBytes 4 0 ++
    leBytes 4 1 ++ leBytes 4 0 ++ leBytes 4 0 ++ leBytes 64 0xefcd7f4ea3d2303f852297bc5af5451ba0fe410c48c5742c7f58ea6ee156c35cba77d9036885906179af8b745b3d1577fd01b30fdfcfb22a6aea40b28062da94 ++
    leBytes 64 0xbec4b7b3ac2e294086b49a47491c82fcf692b5679d0105cb00f2c0d8ddc45dd72f76d56e64270cb5821bb862ea52cd3f24eb3e74eb3f3b23138da80b2bddb946) s)

/-- A FW_LOAD of a slot, and its state alone in its window. -/
def fwCmd (n : Byte) : Instr := .fwLoad hd ⟨0x40820000, 0x2000, n⟩ {}
def loading (n : Byte) : State := windowed (fwCmd n) (.slot n) 0x0F07 0

/-- FW_LOAD of the slot that booted, of an image that verifies and of one that does not. -/
theorem witness_WindowsCloseOnTheirWinner_images :
    Waits (loading 0) (jobOn base (fwCmd 0) .inWindow) (.slot 0) [only (fwCmd 0) 0x0F07 0] ∧ (loading 0).tr.bootSlot = 0 ∧
    Waits (loading 1) (jobOn base (fwCmd 1) .inWindow) (.slot 1) [only (fwCmd 1) 0x0F07 0] ∧
    Waits (image1 (loading 1)) (jobOn base (fwCmd 1) .inWindow) (.slot 1) [only (fwCmd 1) 0x0F07 0] := by
  and_intros <;> decide +kernel

/-- The core that loads the image. -/
def core1 : Nat := (jobOn base (fwCmd 1) .inWindow).unit

/-- What the image reads as. -/
theorem image1_bytes : readBytes (image1 (loading 1)) core1 0x40820000 0x2000 =
    readBytes (image1 (loading 1)) core1 0x40820000 0xA0 ++ (List.replicate 0xF60 0 ++ ([1] ++ List.replicate 0xFFF 0)) := by
  have z : ∀ p ∈ (image1 (loading 1)).mem.cells, p.1 < 0x408200A0 ∨ p.1 = 0x40821000 := by decide +kernel
  have g : readBytes (image1 (loading 1)) core1 0x40821000 1 = [1] := by decide +kernel
  have hu : (image1 (loading 1)).mem.undef = [] := by decide +kernel
  have hs : (image1 (loading 1)).mem.unseen = [] := by decide +kernel
  generalize image1 (loading 1) = s at *
  rw [← Laws.readBytes_zeros s core1 0x408200A0 0xF60 hu hs (fun p hp => by have := z p hp; omega),
    ← Laws.readBytes_zeros s core1 0x40821001 0xFFF hu hs (fun p hp => by have := z p hp; omega), ← g,
    ← Laws.readBytes_add s core1 0x40821000 1 0xFFF, ← Laws.readBytes_add s core1 0x408200A0 0xF60,
    ← Laws.readBytes_add s core1 0x40820000 0xA0]

theorem witness_WindowsCloseOnTheirWinner_verifies :
    (imageOk (loading 1) (readBytes (loading 1) (jobOn base (fwCmd 1) .inWindow).unit 0x40820000 0x2000) false = false ∧
      poisonIn (image1 (loading 1)) 0x40820000 0x2000 = none) ∧
    imageOk (image1 (loading 1)) (readBytes (image1 (loading 1)) core1 0x40820000 0x2000) false = true := by
  rw [image1_bytes]
  decide +kernel

/-- A call of die 1's gate. -/
def call (k : GateKind) (origin : Word16) (object : Word32) (field : Word16) (value : Word64) : GateCall := ⟨origin, 0, k, object, field, value⟩

theorem witness_GateAndItemWrites :
    let full : State := { base with tr := { held := List.replicate 16 page0 } }
    let ok (c : GateCall) : Prop := gateAllows c.kind c.origin.toNat = true ∧ gateTarget c.kind c.object.toNat c.field.toNat = true ∧ gateRange base c = none
    let w (v : Word64) : ItemWrite := ⟨1, 0, 0x01000000, v⟩
    (Idle base ∧ gateAllows .tap 0x1000 = false) ∧ (gateAllows .write 1 = true ∧ gateTarget .write 0x01000000 0x01 = false) ∧
    (gateAllows .write 1 = true ∧ gateTarget .write 0x01000000 0x10 = true ∧ gateRange base (call .write 1 0x01000000 0x10 0) = some (fails OUT_OF_RANGE 0x28)) ∧
    (Idle full ∧ ledgerRoom full = false ∧ gateRange full (call .append 1 0 0 0) = none ∧ gateAllows .append 1 = true ∧ gateTarget .append 0 0 = true) ∧
    ledgerRoom base = true ∧ ok (call .read 1 0x01000000 0x10 0) ∧ ok (call .write 1 0x01000000 0x10 0xA0020) ∧ ok (call .tap 1 0x21000000 0 5) ∧
    ok (call .rail 1 0x01000000 1 750) ∧ ok (call .retire 1 0x21000000 2 0) ∧ ok (call .append 1 0 0 9) ∧
    (Bare base ∧ writeOf (.checkLimit (w 0xA0020)) = some (0x10, w 0xA0020, 0xA0020) ∧ uidValid 0x01000000 = true ∧ itemOn 0x01000000 0x10 = true ∧
      (itemCheck base 1 0x01000000 0x10 (0xA0020 &&& itemMask 0x10)).orElse (fun _ => itemState base 0x01000000 0x10 0xA0020) = none) ∧
    (itemCheck base 1 0x01000000 0x10 0 ≠ none ∧ itemOn 0x01000000 0x01 = false ∧ writeOf (.paceCap (w 50)) = some (0x01, w 50, 50)) := by
  dsimp only
  and_intros <;> decide +kernel

/-! ## Witnesses: rings, watchdogs, channels -/

/-- Ring 1 with bytes placed at its base and n of them announced. -/
def announcing (b : List Byte) (n : Nat) (s : State) : State := modRing (place 0x8040020000 b s) 1 (fun r => { r with tail := n })

def sig9 : Instr := .sigSet hd ⟨0x40800000, 5⟩
def sigFenced : Instr := .sigSet { hd with fenceBefore := true } ⟨0x40800000, 5⟩

/-- The judgement of the packet that ring 1 meets, and whether it must wait. -/
def judged (i : Instr) (s : State) : Option End × Bool :=
  let b := packetBytes i
  let s1 := modRing s 1 (fun x => { x with fetch := b.length })
  (judge s1 1 i b none, blocked s1 1 i)

theorem witness_RingsFetchAndDispatch :
    let b := packetBytes sig9
    let n := b.length
    let short := announcing b 32 base
    let dark : State := { announcing b n base with mem := { (announcing b n base).mem with poison := [0x8040020000 / 32] } }
    let long := announcing [0x01, 0x01, 255] 64 base
    let odd := announcing [0x55, 0x0E, 1] 48 base
    let good := announcing b n base
    let held := announcing (packetBytes sigFenced) n (writing 0xA0020)
    let w := modRing base 1 (fun r => { r with waiting := [⟨sig9, 0, n, true⟩] })
    let ok (s : State) : Prop := Calm s [] ∧ Bare s ∧ ringOpen s 1 = true ∧ stalled s 1 = false ∧ (ringOf s 1).passOver = none
    (ok base ∧ announced (ringOf base 1) < 32) ∧ (ok dark ∧ ringPoison dark (ringOf dark 1) 0 32 = some (chanOf dark 0x8040020000)) ∧
    (ok long ∧ 32 ≤ announced (ringOf long 1) ∧ ringPoison long (ringOf long 1) 0 32 = none ∧ fld (ringBytes long 1 0 32) 2 1 = 255) ∧
    (ok short ∧ 32 ≤ announced (ringOf short 1) ∧ fld (ringBytes short 1 0 32) 2 1 = 1 ∧ announced (ringOf short 1) < 48) ∧
    (ok odd ∧ 48 ≤ announced (ringOf odd 1) ∧ (judge odd 1 (.nop (readHdr (ringBytes odd 1 0 48))) (ringBytes odd 1 0 48) none).isSome = true ∧
      (readPacket (ringBytes odd 1 0 48)).isNone = true) ∧
    (ok good ∧ 48 ≤ announced (ringOf good 1) ∧ readPacket (ringBytes good 1 0 48) = some sig9 ∧ judged sig9 good = (none, false)) ∧
    (Calm held [jobOn base (.cfgWrite hd (limitTo 0xA0020)) .inWindow] ∧ Bare held ∧ ringOpen held 1 = true ∧ stalled held 1 = false ∧
      readPacket (ringBytes held 1 0 48) = some sigFenced ∧ judged sigFenced held = (none, true)) ∧
    (waitingFor base 0x41000000 0 = [] ∧ waitingFor w 0x41000000 0 = [(1, false, 0)] ∧
      chooseRing (lastServed w 0x41000000 0) (waitingFor w 0x41000000 0) = some (1, false, 0) ∧ (ringOf w 1).waiting = [⟨sig9, 0, n, true⟩]) ∧
    (let i : Instr := .dmaRun hd ⟨0x91000000, twoRows⟩ {}
     let s := withJob base i .waitReady
     let down : State := { s with hw := { s.hw with health := [] } }
     Calm s [jobOn base i .waitReady] ∧ Bare s ∧ ((preOf s i).ready ++ sidesOf (preOf s i)).contains 0x91000000 = true ∧ notReady s (preOf s i) = none ∧
       notReady down (preOf down i) ≠ none ∧ (jobOn base i .waitReady).id < down.gz.nextJob) := by
  dsimp only
  and_intros <;> decide +kernel

theorem witness_WatchdogsEndAndReset :
    let i : Instr := .dmaRun hd ⟨0x91000000, twoRows⟩ {}
    let j := jobOn base i .parked
    let s := withJob base i .parked
    let ab (h : Health) : State :=
      { base with hw := { base.hw with abandoned := [(0x91000000, 1, 0xA1000000)], health := amPut base.hw.health 0xA1000000 h } }
    (Bare base ∧ Idle base ∧ ¬(uKind 0x91000000 = 1) ∧ operationOf base 0x91000000 0 = none) ∧
    (Bare s ∧ Calm s [j] ∧ operationOf s 0x91000000 0 = some j ∧ j.phase = .parked) ∧
    (uKind 0x11000000 = 1 ∧ 16 ≤ 17 ∧ 17 < 32) ∧
    (base.hw.abandoned.find? (fun a => a.1 == 0x91000000 && a.2.1 == 1) = none) ∧
    (Idle (ab { resetting := true }) ∧
      (ab { resetting := true }).hw.abandoned.find? (fun a => a.1 == 0x91000000 && a.2.1 == 1) = some (0x91000000, 1, 0xA1000000) ∧
      (health (ab { resetting := true }) 0xA1000000).resetting = true ∧
      ((health (ab { resetting := true }) 0xA1000000).failed || (health (ab { resetting := true }) 0xA1000000).quarantined) = false) ∧
    uKind 0xF1000000 = 0xF := by
  dsimp only
  and_intros <;> decide +kernel

/-- Block 0x8000000000 lies on channel 0 of the first side of die 1. -/
def withChan (c : Chan) (d : Side) (poison : List Nat) : State :=
  { base with mem := { chans := [(0xB1000000, c)], sides := [(0xA1000000, d)], poison := poison } }

theorem witness_ChannelsServeAndScrub :
    let b := 0x8000000000 / 32
    let train := withChan { training := true } {} []
    let lost := withChan { state := .lost } {} []
    let dark := withChan {} {} [b]
    let well := withChan {} {} []
    (Calm well [] ∧ onChannel well 0xB1000001 b = false ∧ onChannel well 0xB1000000 b = true ∧ (chan well 0xB1000000).training = false ∧
      (chanPoisoned (chan well 0xB1000000) || blockPoisoned well b) = false) ∧
    (Calm train [] ∧ onChannel train 0xB1000000 b = true ∧ (chan train 0xB1000000).training = true) ∧
    (Calm lost [] ∧ onChannel lost 0xB1000000 b = true ∧ chanPoisoned (chan lost 0xB1000000) = true) ∧
    (Calm dark [] ∧ onChannel dark 0xB1000000 b = true ∧ blockPoisoned dark b = true ∧ chanPoisoned (chan dark 0xB1000000) = false) := by
  dsimp only
  and_intros <;> decide +kernel

theorem witness_ChannelsRetrainAndRestripe :
    let u : Nat := 0xB1000000
    let out := withChan { state := .lost } {} []
    let well := withChan {} {} []
    let other := withChan {} { retraining := some 0xB1000005 } []
    let mine (c : Chan) := withChan { c with training := true } { retraining := some 0xB1000000, due := [0xB1000005] } []
    let cal : Instr := .calibrateChannel hd ⟨0xB1000000⟩
    let c := withJob (mine {}) cal .retrain
    let low := withChan {} { front := some 0 } []
    let high := withChan {} { front := some 0x5FD000000 } []
    let due := withChan {} { pendingSoft := some u } []
    let busy := withChan {} { pendingSoft := some u, front := some 0 } []
    let gone := withChan { state := .softOut } { pendingSoft := some u } []
    (Idle out ∧ (chan out u).state ≠ .inService) ∧ (Idle well ∧ (chan well u).state = .inService ∧ (sideOf well 0xA1000000).retraining = none) ∧
    (Idle other ∧ (chan other u).state = .inService ∧ (sideOf other 0xA1000000).retraining = some 0xB1000005 ∧
      (sideOf other 0xA1000000).due.contains u = false) ∧
    (Idle (mine {}) ∧ Bare (mine {}) ∧ (mine {}).sig.waiters = [] ∧ (chan (mine {}) u).queue = [] ∧ u ∉ (sideOf (mine {}) 0xA1000000).due ∧
      (∀ n ∈ (sideOf (mine {}) 0xA1000000).due, channelSide n = channelSide u) ∧ (sideOf (mine {}) 0xA1000000).retraining = some u) ∧
    (Bare c ∧ Calm c [jobOn (mine {}) cal .retrain] ∧ (sideOf c 0xA1000000).retraining = some u) ∧
    (∀ st, st = ChanState.lost ∨ st = .returnable ∨ st = .softOut → (chan (mine { state := st }) u).state = st) ∧
    (Idle low ∧ (sideOf low 0xA1000000).front = some 0 ∧ (sideOf low 0xA1000000).frozen = false ∧
      256 * (interleaved (sideOf low 0xA1000000) - 1) + chanBytes < (sideOf low 0xA1000000).populated) ∧
    ((sideOf high 0xA1000000).populated ≤ 0x5FD000000 + 256 * (interleaved (sideOf high 0xA1000000) - 1) + chanBytes) ∧
    ((sideOf well 0xA1000000).pendingSoft = none ∧ (sideOf well 0xA1000000).front = none) ∧
    ((sideOf due 0xA1000000).pendingSoft = some u ∧ channelSide u = 0xA1000000 ∧ softStop due u = none) ∧
    ((sideOf busy 0xA1000000).pendingSoft = some u ∧ softStop busy u ≠ none ∧ (chan busy u).state = .inService) ∧
    ((sideOf gone 0xA1000000).pendingSoft = some u ∧ softStop gone u ≠ none ∧ (chan gone u).state ≠ .inService) := by
  dsimp only
  and_intros <;> try decide +kernel
  rintro st (rfl | rfl | rfl) <;> decide +kernel

/-! ## Witnesses: sensors, pace, margins, the ledger -/

/-- The kernel runs. -/
def up (s : State) : State :=
  { s with
    mod := { s.mod with power := .running, pgood := true }
    tr := { s.tr with ledgerOpen := true } }

/-- A die's record. -/
def withDie (d : DieSt) (s : State) : State := { s with hw := { s.hw with dies := amPut s.hw.dies 1 d } }

/-- A unit's record. -/
def withHealth (u : Nat) (h : Health) (s : State) : State := { s with hw := { s.hw with health := amPut s.hw.health u h } }

theorem witness_SensorsPaceAndCalibration :
    let dark : State := { base with mod := { crystal := false } }
    let lp := withHealth lpddrUnit { lastCause := 6 } dark
    let held := withDie { junctionHold := true } { base with hw := { base.hw with sensors := [(junctionKey 1 0, { samples := [800, 800, 800] })] } }
    (Idle base ∧ (0 : Nat) < 4 ∧ [(400 : Int), 2000, 400, 400][0]? = some 400 ∧ celsius (-20) ≤ 400 ∧ (400 : Int) ≤ celsius 130 ∧
      (sensor base (16 * 8 + 0)).ignored = false ∧ (sensor base (16 * 8 + 0)).samples = [] ∧ [(400 : Int), 2000, 400, 400][1]? = some 2000 ∧
      ¬((2000 : Int) ≤ celsius 130) ∧ ¬((2000 : Int) ≤ celsius 150)) ∧
    (Idle held ∧ (dieOf held 1).junctionHold = true) ∧
    (uKind 0xA1000000 = 0xA ∧ (0 : Nat) < 4 ∧ uKind 0x01000000 = 0 ∧ isCD 1 = true ∧ ¬(uKind 0x11000000 = 0)) ∧
    (paceCapOf base < 200 ∧ 100 < paceCapOf base ∧ (100 : Nat) < 4000 ∧ (4000 : Nat) < 5000 ∧ (dieOf base 1).permit ≤ fullPermit ∧
      ¬(paceCapOf base < 160) ∧ ¬(160 < paceCapOf base)) ∧
    (Idle dark ∧ dark.mod.crystal = false ∧ base.mod.crystal = true ∧
      [((0x11000000 : Word32), (65536000 : Word32), (400 : Word16))].filter (fun q => q.1 = 0x11000000) = [(0x11000000, 65536000, 400)] ∧
      uDie 0x11000000 = 1 ∧ 700 * 65536 ≤ 65536000 ∧ 65536000 ≤ 1300 * 65536 ∧ 600 * 65536 < 700 * 65536) ∧
    (Idle lp ∧ (health lp lpddrUnit).ready = false ∧ (health lp lpddrUnit).lastCause = 6) := by
  dsimp only
  and_intros <;> decide +kernel

theorem witness_MarginsAndTests :
    let k := up (withDie { state := 1 } base)
    let r : Nat := 0x21000000
    let fresh := withHealth r {} k
    let side := withHealth 0xA1000000 {} k
    let high : State := { k with flash := { taps := [(r, 7)] } }
    let plan (v : Int) := withHealth r { minSlack := some v } k
    let rail (v : Int) : State := { plan v with flash := { rails := [(1, 800)] } }
    let auto (s : State) : State := { s with hw := { s.hw with items := [(65536 * 0x01000000 + 0x90, 20)] } }
    let prob (n : Nat) := withHealth 0x11000000 { probation := true, shadow := n } base
    (Idle base ∧ kernelRuns base = false) ∧
    (Idle fresh ∧ kernelRuns fresh = true ∧ (dieOf fresh (uDie r)).state = 1 ∧ (dieUnits (uDie r)).contains r = true ∧ (health fresh r).brought = false ∧
      uKind r ≠ 0xA) ∧
    (kernelRuns side = true ∧ (dieUnits 1).contains 0xA1000000 = true ∧ (health side 0xA1000000).brought = false ∧
      (chan side (chanUnit 0xA1000000 3)).state = .inService) ∧
    (isRegion r = true ∧ (health k r).retired = false ∧ tapOf k r < 7 ∧ 7 ≤ tapOf high r ∧ Idle high ∧
      [((0x21000000 : Word32), (-1 : Int))].filter (fun q => q.1 = 0x21000000) = [(0x21000000, -1)]) ∧
    (Idle k ∧ kernelRuns k = true ∧ bit (marginCfgOf k 1) 16 = true ∧ bit (marginCfgOf (auto k) 1) 16 = false) ∧
    (slackBelow (guardPs (plan 1) 1) (health (plan 1) r).minSlack = true ∧ (regions 1).contains r = true ∧ 800 ≤ railOf (rail 1) 1 ∧
      slackBelow (guardPs (rail 1) 1) (health (rail 1) r).minSlack = true) ∧
    (800 ≤ railOf (withDie { state := 1, dieSlack := some 1 } (rail 1)) 1 ∧ slackBelow (guardPs (rail 1) 1) (some 1) = true) ∧
    (Idle k ∧ isCD 1 = true ∧ uidValid 0x91000000 = true ∧ [1, 3, 7, 8, 9].contains (uKind 0x91000000) = true ∧ sliceOk k 0x91000000 = true) ∧
    ((health base 0x11000000).probation = false) ∧ (Idle (prob 5) ∧ (health (prob 5) 0x11000000).probation = true ∧ 5 + 1 < 1000) ∧
    ((health (prob 999) 0x11000000).probation = true ∧ 1000 ≤ (health (prob 999) 0x11000000).shadow + 1) ∧ keepsPoints 0x11000000 = true := by
  dsimp only
  and_intros <;> decide +kernel

/-- A ledger entry. -/
def ev9 : LedgerEvent := mkEv 0x1001 1 0x01000000 0x10 0 0 5 0
def entry9 : LedgerEntry := ⟨0, 0, true, ev9⟩

theorem witness_LedgerPagesAndSnapshots :
    let t (n : Nat) : State := { up base with tr := { (up base).tr with openPage := List.replicate n entry9, inTransit := [(1, ev9)] } }
    let one : State := { up base with tr := { (up base).tr with openPage := [entry9] } }
    let full : State := { base with tr := { held := List.replicate 16 page0 } }
    let h : State := { base with tr := { held := [page0] } }
    let hs : State := { withJob base (.ledgerSeal hd) (.sealing 0) with tr := { held := [page0] } }
    let r : SnapRing := ⟨0, 0x40810000, 16, 500, 0x40800000, 0x40800008, [0x11000000], 0, 0⟩
    let sn : State := { base with snap := [(3, r)] }
    let late : State := { base with snap := [(3, { r with t := 600 })] }
    (Idle base ∧ base.tr.ledgerOpen = false) ∧ (Idle (t 0) ∧ (t 0).tr.ledgerOpen = true ∧ (t 0).tr.inTransit.find? (fun x => x.1 == 1) = some (1, ev9) ∧
      (t 0).tr.openPage.length + 1 < 234) ∧ (234 ≤ (t 233).tr.openPage.length + 1 ∧ (t 233).tr.inTransit.find? (fun x => x.1 == 1) = some (1, ev9)) ∧
    (base.tr.openPage = [] ∧ Idle one ∧ one.tr.openPage ≠ []) ∧ (Idle h ∧ h.tr.held = page0 :: [] ∧ h.flash.archive.length < 122880) ∧
    (Calm hs [jobOn base (.ledgerSeal hd) (.sealing 0)] ∧ hs.tr.held = page0 :: [] ∧ (jobOn base (.ledgerSeal hd) (.sealing 0)).phase = .sealing page0.num) ∧
    base.tr.held = [] ∧
    (Calm full [] ∧ Accepts full (preCore hd full) (.ledgerSeal hd) ∧ ledgerRoom full = false) ∧
    (Calm base [] ∧ Accepts base (preCore hd base) (.ledgerSeal hd) ∧ ledgerRoom base = true ∧ base.tr.openPage = [] ∧ snapAll base = []) ∧
    (Calm one [] ∧ Accepts one (preCore hd one) (.ledgerSeal hd) ∧ ledgerRoom one = true) ∧
    (amFind base.snap 3 = none ∧ Calm sn [] ∧ amFind sn.snap 3 = some r ∧ poisonIn sn r.headAddr 8 = none ∧
      r.t - readNat sn (kernelCore 12) r.headAddr 8 < 2 ^ r.log2 / recordBytes r.units.length ∧ poisonIn sn (r.tailAddr / 32 * 32) 32 = none ∧
      Apart [(r.base, (snapRecord sn r).length)] [(r.tailAddr, 8)]) ∧
    (amFind late.snap 3 = some { r with t := 600 } ∧ ¬(600 - readNat late (kernelCore 12) r.headAddr 8 < 2 ^ r.log2 / recordBytes r.units.length)) := by
  dsimp only
  and_intros <;> decide +kernel

/-! ## Witnesses: ports and ingest -/

/-- Port 0 of connector 0 of LD0. -/
def port0 : Word32 := 0xD8000000

/-- A record of port 0, in the MODE of PORT_CFG (12 R309). -/
def porting (mode : Nat) (p : Port) (s : State) : State :=
  { s with
    hw := { s.hw with items := amPut s.hw.items (65536 * 0xD8000000 + 0x71) mode }
    link := { s.link with ports := amPut s.link.ports 0xD8000000 p } }

/-- The identity of the device at position 1 of this group, as a group of one sees it (12 R326). -/
def peer1 : LinkMgmt := ⟨1, 1, true, 0, false⟩

/-- The port of ingest interface 0 of LD0, in MODE ingest and up (12 R309, R318). -/
def taking (s : State) : State :=
  { s with
    hw := { s.hw with items := amPut s.hw.items (65536 * ingestPort 8 0 + 0x71) 1 }
    link := { s.link with ports := amPut s.link.ports (ingestPort 8 0) { state := 2 } } }

/-- An ingest ring of sixteen slots of 256 bytes, and its table. -/
def ring11 : IngestRing := ⟨0x40810000, 12, 8, 0x40800000, 0x40800008, 3⟩
def table11 : IngestTable := ⟨List.replicate 16 0x20, 0x1234, [ring11]⟩

/-- An ingest receiver with its table. -/
def fed (s : State) : State := { taking s with link := { (taking s).link with ingest := [(8, table11)] } }

/-- An ingest frame with an 8-byte payload, as 12 R322 lays it out: network order, then the block's own header in its byte order. -/
def udpFrame (sum : Nat) : List Byte :=
  (leBytes 6 1).reverse ++ List.replicate 6 0x02 ++ [0x86, 0xDD] ++ [0x60, 0, 0, 0, 0, 32, 17, 64] ++ List.replicate 16 0x30 ++
    List.replicate 16 0x20 ++ [0x56, 0x78, 0x12, 0x34, 0, 32] ++ (leBytes 2 sum).reverse ++
    [0xC1, 0xA5, 1, 0, 1, 2, 3, 4, 5, 6, 7, 8, 8, 0, 0, 0] ++ [9, 10, 11, 12, 13, 14, 15, 16]

theorem witness_PortsChangeState :
    let at_ (mode st : Nat) (p : Port) : State := porting mode { p with state := st } base
    (Idle base ∧ Bare base ∧ (portOf base 0xD8000000).state = 0 ∧ portMode base 0xD8000000 ≠ 2) ∧
    (Idle (at_ 0 1 { attempts := 2 }) ∧ Bare (at_ 0 1 { attempts := 2 }) ∧ (portOf (at_ 0 1 { attempts := 2 }) port0.toNat).state = 1 ∧
      2 ≤ (portOf (at_ 0 1 { attempts := 2 }) port0.toNat).attempts) ∧
    ((portOf (at_ 0 3 { attempts := 1 }) port0.toNat).state = 3 ∧ (portOf (at_ 0 3 { attempts := 1 }) port0.toNat).attempts < 2) ∧
    ((portOf (at_ 0 5 { retraining := true }) port0.toNat).state = 5 ∧ (portOf (at_ 0 5 { retraining := true }) port0.toNat).retraining = true) ∧
    ((portOf (at_ 1 1 {}) port0.toNat).state = 1 ∧ portMode (at_ 1 1 {}) port0.toNat = 1) ∧
    ((portOf (at_ 0 1 { partner := some peer1 }) port0.toNat).partner = some peer1 ∧ portMode (at_ 0 1 { partner := some peer1 }) port0.toNat ≠ 1 ∧
      settled (at_ 0 1 { partner := some peer1 }) port0.toNat peer1 26 = 2 ∧ settled (at_ 0 1 { partner := some peer1 }) port0.toNat peer1 27 = 6) ∧
    (portMode (at_ 0 1 { trained := true }) port0.toNat = 0 ∧ (portOf (at_ 0 1 { trained := true }) port0.toNat).trained = true) ∧
    (Idle (at_ 0 2 {}) ∧ Bare (at_ 0 2 {}) ∧ portMode (at_ 0 2 {}) port0.toNat = 0 ∧ (portOf (at_ 0 2 {}) port0.toNat).state = 2 ∧
      identityOk (at_ 0 2 {}) port0.toNat peer1 = true ∧ identityOk (at_ 0 2 {}) port0.toNat { peer1 with size := 2 } = false) ∧
    ((portOf (at_ 0 6 { partner := some peer1 }) port0.toNat).state = 6 ∧ (portOf (at_ 0 6 {}) port0.toNat).partner ≠ some peer1) ∧
    ((portOf (at_ 0 4 { partner := some peer1 }) port0.toNat).state = 4 ∧ portMode (at_ 0 4 {}) port0.toNat ≠ 1 ∧
      (portOf (at_ 0 4 {}) port0.toNat).partner = none ∧ portMode (at_ 1 4 {}) port0.toNat = 1 ∧ (portOf (at_ 1 4 {}) port0.toNat).state = 4) := by
  dsimp only
  and_intros <;> decide +kernel

set_option maxRecDepth 100000 in
theorem witness_PortsTakeFramesAndIngest :
    let x (p : Port) : State := porting 0 { p with state := 2 } base
    let whole := frameBytes {} 0 1 0 true true 0 [1, 2, 3]
    let ack := frameBytes { fseqRx := 1, accepted := true } 7 0 1 false false 0 []
    let sent : List TxFrame := [⟨0, 5, 0, 1⟩, ⟨1, 5, 1, 1⟩]
    (Idle base ∧ Bare base ∧ (portOf base port0.toNat).state ≠ 2 ∧ (portOf base port0.toNat).state ≠ 4) ∧
    (Idle (x {}) ∧ Bare (x {}) ∧ (portOf (x {}) port0.toNat).state = 2 ∧ portMode (x {}) port0.toNat = 0 ∧
      crc64 (sub [] 0 248) ≠ fld [] 248 8 ∧ (portOf (x {}) port0.toNat).crcRun + 1 < 16 ∧
      16 ≤ (portOf (x { crcRun := 15 }) port0.toNat).crcRun + 1) ∧
    (crc64 (sub whole 0 248) = fld whole 248 8 ∧ bits (fld whole 0 4) 18 2 = 0 ∧ bits (fld whole 0 4) 22 8 ≤ 232 ∧ bit (fld whole 4 4) 16 = false ∧
      (portOf (x {}) port0.toNat).queue = [] ∧ bits (fld whole 0 4) 0 16 = (portOf (x {}) port0.toNat).fseqRx ∧ bit (fld whole 0 4) 20 = true ∧
      bit (fld whole 0 4) 21 = true ∧ bits (fld whole 12 4) 0 13 = myDevice (x {}) ∧
      bits (fld whole 0 4) 0 16 ≠ (portOf (x { fseqRx := 1 }) port0.toNat).fseqRx) ∧
    (crc64 (sub ack 0 248) = fld ack 248 8 ∧ bits (fld ack 0 4) 18 2 = 1 ∧ bit (fld ack 4 4) 17 = true ∧
      sent.any (fun y => y.fseq == bits (fld ack 4 4) 0 16) = true ∧ (portOf (x { unacked := sent }) port0.toNat).queue = []) ∧
    (carries (x { unacked := sent }) port0.toNat = true ∧ (portOf (x { unacked := sent }) port0.toNat).unacked ≠ [] ∧
      (∀ y ∈ sent, y.sends < 16) ∧ 7 ≤ ((List.replicate 7 0).filter (fun (t : Nat) => base.now - t < 1000000)).length) ∧
    (let good := udpFrame 2450
     Calm (fed base) [] ∧ portMode (fed base) (ingestPort 8 0) = 1 ∧ (portOf (fed base) (ingestPort 8 0)).state = 2 ∧
      amFind (taking base).link.ingest 8 = none ∧ amFind (fed base).link.ingest 8 = some table11 ∧
      ingestBad (fed base) 8 0 false table11 good = true ∧ ingestBad (fed base) 8 0 true table11 good = false ∧
      table11.rings[fld good 65 1]? = some ring11 ∧ ¬(poisonIn (fed base) ring11.headAddr 8 ≠ none ∨ 16 ≤ 3 - word (fed base) ring11.headAddr) ∧
      poisonIn (fed base) (0x40810000 + 3 * 256 + 32) 1 = none ∧ poisonIn (fed base) (0x40800000 / 32 * 32) 32 = none ∧
      Apart [(0x40810000 + 3 * 256, 32 + 8)] [(0x40800000, 8)] ∧ 16 ≤ 19 - word (fed base) ring11.headAddr ∧
      (amFind (fed base).link.ingest 8).any (fun x => x.ip == List.replicate 16 0x20) = true) := by
  dsimp only
  and_intros <;> decide +kernel

/-! ## Witnesses: management and module -/

/-- The management service runs. -/
def answering (s : State) : State := withHealth mgmtUnit { ready := true } (up s)

/-- An item of MD's kernel. -/
def mdItem (it v : Nat) (s : State) : State := { s with hw := { s.hw with items := amPut s.hw.items (65536 * mdBlock + it) v } }

/-- An operator's session is open. -/
def operated (s : State) : State := { s with tr := { s.tr with sessions := [⟨5, true⟩] } }

theorem witness_ManagementAnswers :
    let s := answering base
    let busy : State := { s with now := 50, tr := { s.tr with attests := List.replicate 100 50 } }
    let kept : State := { s with flash := { s.flash with archive := [page0] } }
    let p : List Byte := List.replicate 32 0
    let o := operated s
    let r := ringOf o 1
    let anchored : State := { s with flash := { s.flash with anchors := [[1]] } }
    let ptp := mdItem 0x81 0x107 s
    let auto := mdItem 0x101 0x5000000000000 s
    let dbg := mdItem 0x100 3 s
    (Calm base [] ∧ ¬(serving base = true)) ∧ (Calm s [] ∧ serving s = true ∧ (s.tr.attests.filter (fun t => s.now - t < 1000000000)).length < 100) ∧
    (Calm busy [] ∧ serving busy = true ∧ 100 ≤ (busy.tr.attests.filter (fun t => busy.now - t < 1000000000)).length) ∧
    (s.flash.archive.find? (fun p => p.num == 0) = none ∧ Calm kept [] ∧ serving kept = true ∧ kept.flash.archive.find? (fun p => p.num == 0) = some page0) ∧
    (Calm o [] ∧ serving o = true ∧ isOperator o 5 = true ∧ ringExists o 1 = true ∧ p.length % 16 = 0 ∧ 32 ≤ p.length ∧ p.length < ringSize r ∧
      doorbell ((r.tail + p.length) % ringSize r) r = some { r with tail := 32, state := (if r.state == .idle then .running else r.state) } ∧
      r.tail + p.length ≤ ringSize r ∧ isOperator s 5 = false) ∧
    (s.flash.anchors = [] ∧ Calm anchored [] ∧ serving anchored = true ∧ isOperator anchored 5 = false ∧ anchored.flash.anchors ≠ []) ∧
    (o.tr.sessions.any (fun x => x.id == 5) = true ∧ s.tr.sessions.any (fun x => x.id == 5) = false) ∧
    (Calm ptp [] ∧ serving ptp = true ∧ bit (item ptp mdBlock 0x81) 8 = true ∧ bits (item ptp mdBlock 0x81) 0 8 = (7 : Byte).toNat ∧ ptp.tr.timeSet = false ∧
      bit (item s mdBlock 0x81) 8 = false) ∧
    (Calm auto [] ∧ serving auto = true ∧ bit (mgmtNet auto) 48 = true ∧ bit (mgmtNet auto) 50 = true ∧ bit (mgmtNet s) 48 = false) ∧
    (Calm dbg [] ∧ bit (debugCfg dbg) 0 = true ∧ bit (debugCfg dbg) 1 = true ∧ bit (debugCfg s) 0 = false) := by
  dsimp only
  and_intros <;> decide +kernel

/-- A report of a boot. -/
def boots (rails v0 v1 reached : Bool) : BootReport := ⟨rails, v0, v1, 0x1FFE, reached, true⟩

/-- Recovery mode. -/
def recovering : State := { base with mod := { base.mod with power := .running, recovery := true } }

theorem witness_ModuleStarts :
    let off : State := { pending := [] }
    let held : State := { off with now := 5, mod := { off.mod with pgoodLow := some 3 } }
    let two : State := { off with flash := { off.flash with slot1 := { off.flash.slot1 with state := .next } } }
    let late (b : Nat) (s : State) : State := { s with mod := { s.mod with power := .running }, tr := { s.tr with booting := true, bootSlot := b } }
    (Idle off ∧ off.mod.power = .off ∧ ¬(off.mod.en = false ∧ ∃ x, off.mod.pgoodLow = some x ∧ off.now - x < 100000000)) ∧
    (Idle held ∧ held.mod.en = false ∧ ∃ x, held.mod.pgoodLow = some x ∧ held.now - x < 100000000) ∧
    ((boots false true true true).railsOk = false ∧ (boots true true true true).railsOk = true ∧ bootSlots off = 0 :: [] ∧
      bootSlots two = 1 :: [0] ∧ (boots true true true true).verify1 = true) ∧
    (∀ n ∈ bootSlots two, (if n = 0 then (boots true false false true).verify0 else (boots true false false true).verify1) = false) ∧
    (Idle (late 0 off) ∧ (late 0 off).tr.booting = true ∧ (late 0 off).mod.power = .running ∧ (fwSlot (late 0 off) 0).state ≠ .next ∧
      (fwSlot (late 1 two) 1).state = .next ∧ (fwSlot (late 1 two) (1 - 1)).state = .active ∧ off.tr.booting = false) ∧
    (base.mod.en = false ∧ (up { base with mod := { base.mod with en := true } }).mod.en = true ∧ base.mod.power ≠ .latched ∧
      ({ base with mod := { base.mod with power := .latched } } : State).mod.power = .latched) := by
  dsimp only
  and_intros <;> decide +kernel

/-- The image of FW_LOAD's witness verifies in recovery mode too; nothing of no length does. -/
theorem witness_ModuleStarts_image : Idle recovering ∧ recovering.mod.recovery = true ∧ base.mod.recovery = false ∧ imageOk recovering [] false = false ∧
    imageOk recovering (readBytes (image1 (loading 1)) core1 0x40820000 0x2000) false = true :=
  ⟨rfl, rfl, rfl, by decide +kernel, witness_WindowsCloseOnTheirWinner_verifies.2⟩

theorem witness_ModuleStopsAndTestPort :
    let s := up base
    let x (t : Tap) (ir : Nat) : State := { s with mod := { s.mod with tap := t, tapIr := ir, tapShift := [true, false, false, false] } }
    (s.mod.power = .running ∧ s.tr.ledgerOpen = true ∧ coincides s = false ∧ s.mod.stopCauses = [] ∧ s.mod.latch = false ∧ s.mod.railsCut = false ∧
      s.tr.held.length + s.flash.archive.length < 60000 ∧ Idle s ∧ s.tr.inTransit = []) ∧
    (Idle base ∧ base.mod.pgood = false) ∧ (Idle (x .capDr irIdcode) ∧ (x .capDr irIdcode).mod.pgood = true ∧ (x .capDr irIdcode).mod.tapIr = irIdcode) ∧
    ((x .capDr irBypass).mod.tapIr ≠ irIdcode ∧ (x .shiftDr 1).mod.tap = .shiftDr ∧ (x .updIr 1).mod.tap = .updIr ∧
      ofBits (x .updIr 1).mod.tapShift = irIdcode) := by
  dsimp only
  and_intros <;> decide +kernel

theorem witness_PacketRoundTrip : opcodeOf (.sigSet hd ⟨0x40800000, 1⟩) = some 0x0500 := by decide +kernel
end Sys2Proof.Tests
end

section
/-! PROOFS. Weight versions (07 R216-R219): what VER_PUBLISH, VER_PIN and VER_RETIRE come to, case by case. -/

namespace Sys2Proof.Proofs

open Sys2Proof.Machine Sys2Proof.Laws

/-! ## A packet that its ring accepts and that ends at once -/

/-- An accepted packet whose run ends at once is answered in the state that its run leaves (02 R46, R50). -/
theorem exec_of_run_ends {s t : State} {pre : Pre} {run : Job → State → RunRes} {i : Instr} {e : End}
    (hx : exec i s = .next (issue pre run i s)) (ha : Accepts s pre i)
    (hr : run (jobFor s pre i) (begun s i) = ends t e) : exec i s = .next (replied s pre i t e) := by
  rw [hx, issue_accepted s pre run i ha, hr]
  rfl

theorem exec_verPublish (h : Hdr) (p : PVerPublish) (s : State) :
    exec (.verPublish h p) s = .next (issue (preVerPublish h p s) (runVerPublish p) (.verPublish h p) s) := rfl

theorem exec_verPin (h : Hdr) (p : PVer) (s : State) :
    exec (.verPin h p) s = .next (issue (preCore h s) (runVerPin p) (.verPin h p) s) := rfl

theorem exec_verRetire (h : Hdr) (p : PVer) (s : State) :
    exec (.verRetire h p) s = .next (issue (preCore h s) (runVerRetire p) (.verRetire h p) s) := rfl

/-! ## The version table (07 R216) -/

/-- A packet begins without touching the version table. -/
@[simp] theorem begun_ver (s : State) (i : Instr) : (begun s i).ver = s.ver := by
  unfold begun
  dsimp only
  split <;> simp

@[simp] theorem tensorOf_begun (s : State) (i : Instr) (c tensor : Nat) :
    tensorOf (begun s i) c tensor = tensorOf s c tensor := by
  simp only [tensorOf, begun_ver]

/-- Put a tensor's record into the version table. -/
def setRecord (s : State) (c tensor : Nat) (r : TensorRec) : State := { s with ver := amPut s.ver (verKey c tensor) r }

theorem setRecord_begun (s : State) (i : Instr) (c tensor : Nat) (r : TensorRec) :
    setRecord (begun s i) c tensor r = { begun s i with ver := amPut s.ver (verKey c tensor) r } := by
  simp only [setRecord, begun_ver]

/-! ## VER_PUBLISH (07 R217) -/

/-- The data of the version to publish overlap those of a live version. -/
def publishLaps (p : PVerPublish) (r : TensorRec) : Bool :=
  r.live.any (fun x => dataOverlap p.dataAddr.toNat p.bytes.toNat x.addr x.bytes)

/-- Seven versions are retained, or the tensor has no record yet and the table is full. -/
def publishFull (p : PVerPublish) (c : Nat) (s : State) (r : TensorRec) : Bool :=
  decide (7 ≤ (r.live.filter (fun x => x.num != r.current)).length) ||
    ((amFind s.ver (verKey c p.tensor.toNat)).isNone && decide (262144 ≤ s.ver.length))

theorem publishFull_begun (p : PVerPublish) (c : Nat) (s : State) (i : Instr) (r : TensorRec) :
    publishFull p c (begun s i) r = publishFull p c s r := by
  simp only [publishFull, begun_ver]

/-- The current version is live with no pins, so that its successor retires it. -/
def currentUnpinned (r : TensorRec) : Bool := r.live.any (fun x => x.num == r.current && x.pins.isEmpty)

/-- The record once the packet's version follows the live versions that are kept; nothing pins it yet. -/
def publishedAfter (p : PVerPublish) (kept : List Version) : TensorRec :=
  { current := p.version.toNat, live := kept ++ [⟨p.version.toNat, p.dataAddr.toNat, p.bytes.toNat, []⟩] }

section Publish

variable {p : PVerPublish} {j : Job} {s : State} {c : Nat} {r : TensorRec} (hc : j.ring / 256 = c)
  (hr : tensorOf s c p.tensor.toNat = r)

include hc hr

theorem runVerPublish_not_above (hv : p.version.toNat ≤ r.current) :
    runVerPublish p j s = ends s (fails BAD_VERSION p.tensor.toNat) := by
  simp only [runVerPublish, hc, hr, if_pos hv]

theorem runVerPublish_laps (hv : r.current < p.version.toNat) (hl : publishLaps p r = true) :
    runVerPublish p j s = ends s (fails OUT_OF_RANGE 0x28) := by
  unfold publishLaps at hl
  simp only [runVerPublish, hc, hr, if_neg hv.not_ge, if_pos hl]

theorem runVerPublish_full (hv : r.current < p.version.toNat) (hl : publishLaps p r = false) (hf : publishFull p c s r = true) :
    runVerPublish p j s = ends s (fails BUSY_DEFER 1) := by
  unfold publishLaps at hl
  unfold publishFull at hf
  simp only [runVerPublish, hc, hr, if_neg hv.not_ge, hl, Bool.false_eq_true, if_false, if_pos hf]

/-- What is published into a table with room: whether the version before it goes is all that is left open. -/
theorem runVerPublish_room (hv : r.current < p.version.toNat) (hl : publishLaps p r = false) (hf : publishFull p c s r = false) :
    runVerPublish p j s =
      let gone := currentUnpinned r
      ends (setRecord s c p.tensor.toNat
        (publishedAfter p (if gone then r.live.filter (fun x => x.num != r.current) else r.live)))
        (done (if gone then r.current else 0)) := by
  unfold publishLaps at hl
  unfold publishFull at hf
  simp only [runVerPublish, hc, hr, if_neg hv.not_ge, hl, hf, Bool.false_eq_true, if_false]
  rfl

theorem runVerPublish_retires (hv : r.current < p.version.toNat) (hl : publishLaps p r = false)
    (hf : publishFull p c s r = false) (hg : currentUnpinned r = true) :
    runVerPublish p j s = ends
      (setRecord s c p.tensor.toNat (publishedAfter p (r.live.filter (fun x => x.num != r.current)))) (done r.current) := by
  simp only [runVerPublish_room hc hr hv hl hf, hg, if_true]

theorem runVerPublish_keeps (hv : r.current < p.version.toNat) (hl : publishLaps p r = false)
    (hf : publishFull p c s r = false) (hg : currentUnpinned r = false) :
    runVerPublish p j s = ends (setRecord s c p.tensor.toNat (publishedAfter p r.live)) (done 0) := by
  simp only [runVerPublish_room hc hr hv hl hf, hg, Bool.false_eq_true, if_false]

end Publish

/-! ## VER_PIN (07 R218) -/

/-- The version that a VER_PIN names: VERSION 0 names the current one. -/
def pinVersion (p : PVer) (r : TensorRec) : Nat := if p.version = 0 then r.current else p.version.toNat

/-- The live version that a VER_PIN names. -/
def pinTarget (p : PVer) (r : TensorRec) : Option Version := r.live.find? (fun y => y.num == pinVersion p r)

/-- The live versions with one more pin, of the context and the micro-batch, on the version that a VER_PIN names. -/
def pinned (p : PVer) (c : Nat) (r : TensorRec) : List Version :=
  r.live.map (fun y => if y.num == pinVersion p r then { y with pins := y.pins ++ [(c, p.microbatch.toNat)] } else y)

section Pin

variable {p : PVer} {j : Job} {s : State} {c : Nat} {r : TensorRec} {x : Version} (hc : j.ring / 256 = c)
  (hr : tensorOf s c p.tensor.toNat = r)

include hc hr

theorem runVerPin_not_live (hx : pinTarget p r = none) :
    runVerPin p j s = ends s (fails BAD_VERSION p.tensor.toNat) := by
  unfold pinTarget pinVersion at hx
  simp only [runVerPin, hc, hr, hx]

theorem runVerPin_pinned (hx : pinTarget p r = some x) (hp : x.pins.contains (c, p.microbatch.toNat) = true) :
    runVerPin p j s = ends s (done (pinVersion p r)) := by
  unfold pinTarget pinVersion at hx
  simp only [runVerPin, hc, hr, hx, if_pos hp, pinVersion]

theorem runVerPin_full (hx : pinTarget p r = some x) (hp : x.pins.contains (c, p.microbatch.toNat) = false)
    (hn : 64 ≤ x.pins.length) : runVerPin p j s = ends s (fails BUSY_DEFER 1) := by
  unfold pinTarget pinVersion at hx
  simp only [runVerPin, hc, hr, hx, hp, Bool.false_eq_true, if_false, if_pos hn]

theorem runVerPin_room (hx : pinTarget p r = some x) (hp : x.pins.contains (c, p.microbatch.toNat) = false)
    (hn : x.pins.length < 64) :
    runVerPin p j s = ends (noteInFlight c (setRecord s c p.tensor.toNat { r with live := pinned p c r }))
      (done (pinVersion p r)) := by
  unfold pinTarget pinVersion at hx
  simp only [runVerPin, hc, hr, hx, hp, Bool.false_eq_true, if_false, if_neg hn.not_ge]
  rfl

end Pin

/-! ## VER_RETIRE (07 R219) -/

/-- The pin that a VER_RETIRE names stands on the version that it names. -/
def hasPin (p : PVer) (c : Nat) (r : TensorRec) : Bool :=
  r.live.any (fun x => x.num == p.version.toNat && x.pins.contains (c, p.microbatch.toNat))

/-- The live versions with that pin taken off. -/
def unpinned (p : PVer) (c : Nat) (r : TensorRec) : List Version :=
  r.live.map (fun y => if y.num == p.version.toNat then { y with pins := y.pins.erase (c, p.microbatch.toNat) } else y)

/-- With that pin off the version named has none left, and it is not the current one. -/
def retires (p : PVer) (c : Nat) (r : TensorRec) : Bool :=
  p.version.toNat != r.current && (unpinned p c r).any (fun y => y.num == p.version.toNat && y.pins.isEmpty)

section Retire

variable {p : PVer} {j : Job} {s : State} {c : Nat} {r : TensorRec} (hc : j.ring / 256 = c)
  (hr : tensorOf s c p.tensor.toNat = r)

include hc hr

theorem runVerRetire_no_pin (hp : hasPin p c r = false) : runVerRetire p j s = ends s (fails BAD_STATE 0x28) := by
  unfold hasPin at hp
  simp only [runVerRetire, hc, hr, hp, Bool.not_false, if_true]

/-- A pin that is there comes off: whether its version goes with it is all that is left open. -/
theorem runVerRetire_pin (hp : hasPin p c r = true) :
    runVerRetire p j s =
      let gone := retires p c r
      ends (setRecord s c p.tensor.toNat
        { r with live := if gone then (unpinned p c r).filter (fun y => y.num != p.version.toNat) else unpinned p c r })
        (done (if gone then p.version.toNat else 0)) := by
  unfold hasPin at hp
  simp only [runVerRetire, hc, hr, hp, Bool.not_true, Bool.false_eq_true, if_false]
  rfl

theorem runVerRetire_retires (hp : hasPin p c r = true) (hg : retires p c r = true) :
    runVerRetire p j s = ends
      (setRecord s c p.tensor.toNat { r with live := (unpinned p c r).filter (fun y => y.num != p.version.toNat) })
      (done p.version.toNat) := by
  simp only [runVerRetire_pin hc hr hp, hg, if_true]

theorem runVerRetire_keeps (hp : hasPin p c r = true) (hg : retires p c r = false) :
    runVerRetire p j s = ends (setRecord s c p.tensor.toNat { r with live := unpinned p c r }) (done 0) := by
  simp only [runVerRetire_pin hc hr hp, hg, Bool.false_eq_true, if_false]

end Retire

/-! ## The obligation -/

/-- Settles O24: each command's run, case by case, answered through `exec_of_run_ends`. -/
theorem versionsArePublishedPinnedRetired : Obligations.VersionsArePublishedPinnedRetired := by
  unfold Obligations.VersionsArePublishedPinnedRetired
  refine ⟨⟨?publish, ?pin⟩, ?retire⟩
  case publish =>
    intro h p s i pre b c k r v laps retained full ha
    have hc : (jobFor s pre i).ring / 256 = c := rfl
    have hr : tensorOf b c p.tensor.toNat = r := tensorOf_begun s i c p.tensor.toNat
    have hfull : publishFull p c b r = full := publishFull_begun p c s i r
    have hx := exec_verPublish h p s
    refine ⟨fun hv hl hf => ⟨fun hg => ?gone, fun hg => ?kept⟩, fun hv hl => ?laps, fun hv hl hf => ?full, fun hv => ?low⟩
    case gone =>
      have := exec_of_run_ends hx ha (runVerPublish_retires hc hr hv hl (hfull.trans hf) hg)
      rwa [setRecord_begun] at this
    case kept =>
      have := exec_of_run_ends hx ha (runVerPublish_keeps hc hr hv hl (hfull.trans hf) hg)
      rwa [setRecord_begun] at this
    case laps => exact exec_of_run_ends hx ha (runVerPublish_laps hc hr hv hl)
    case full => exact exec_of_run_ends hx ha (runVerPublish_full hc hr hv hl (hfull.trans hf))
    case low => exact exec_of_run_ends hx ha (runVerPublish_not_above hc hr hv)
  case pin =>
    intro h p s x i pre b c k r v pin pinned ha
    have hc : (jobFor s pre i).ring / 256 = c := rfl
    have hr : tensorOf b c p.tensor.toNat = r := tensorOf_begun s i c p.tensor.toNat
    have hx := exec_verPin h p s
    refine ⟨fun hn => ?dead, fun hl => ⟨fun hp => ?there, fun hp hn => ?room, fun hp hn => ?full⟩⟩
    case dead => exact exec_of_run_ends hx ha (runVerPin_not_live hc hr hn)
    case there => exact exec_of_run_ends hx ha (runVerPin_pinned hc hr hl hp)
    case room =>
      have := exec_of_run_ends hx ha (runVerPin_room hc hr hl hp hn)
      rwa [setRecord_begun] at this
    case full => exact exec_of_run_ends hx ha (runVerPin_full hc hr hl hp hn)
  case retire =>
    intro h p s i pre b c k r v pin left ha
    have hc : (jobFor s pre i).ring / 256 = c := rfl
    have hr : tensorOf b c p.tensor.toNat = r := tensorOf_begun s i c p.tensor.toNat
    have hx := exec_verRetire h p s
    refine ⟨fun hp => ?absent, fun hp => ⟨fun hv hg => ?gone, fun hg => ?kept⟩⟩
    case absent => exact exec_of_run_ends hx ha (runVerRetire_no_pin hc hr hp)
    case gone =>
      have hret : retires p c r = true := by
        rw [retires, Bool.and_eq_true, bne_iff_ne]
        exact ⟨hv, hg⟩
      have := exec_of_run_ends hx ha (runVerRetire_retires hc hr hp hret)
      rwa [setRecord_begun] at this
    case kept =>
      have hret : retires p c r = false := by
        rw [retires, Bool.and_eq_false_iff, bne_eq_false_iff_eq]
        exact hg
      have := exec_of_run_ends hx ha (runVerRetire_keeps hc hr hp hret)
      rwa [setRecord_begun] at this

end Sys2Proof.Proofs
end

section
/-! PROOFS. Packets as bytes (02 R44, R53-R56): the bytes of a header and of a parameter block read back as what was written. -/

namespace Sys2Proof.Proofs

open Sys2Proof.Machine Sys2Proof.Laws

/-! ## Fields of a string of bytes -/

@[simp] theorem rsvd_length (n : Nat) : (rsvd n).length = n := List.length_replicate

/-- A field that lies after a string of bytes is one of the bytes after it. -/
theorem fld_append_of_le (a b : List Byte) (o n : Nat) (h : a.length ≤ o) : fld (a ++ b) o n = fld b (o - a.length) n := by
  simp only [fld, sub, List.drop_append, List.drop_eq_nil_of_le h, List.nil_append]

/-- A field that fills a string of bytes at the front is the number that the string spells. -/
theorem fld_append_zero (a b : List Byte) : fld (a ++ b) 0 a.length = leNat a := by
  simp [fld, sub]

@[simp] theorem fld_skip_leBytes (k v o n : Nat) (b : List Byte) (h : k ≤ o) : fld (leBytes k v ++ b) o n = fld b (o - k) n := by
  rw [fld_append_of_le _ _ _ _ (by simpa using h), leBytes_length]

@[simp] theorem fld_skip_rsvd (k o n : Nat) (b : List Byte) (h : k ≤ o) : fld (rsvd k ++ b) o n = fld b (o - k) n := by
  rw [fld_append_of_le _ _ _ _ (by simpa using h), rsvd_length]

@[simp] theorem fld_leBytes_append (n v : Nat) (b : List Byte) : fld (leBytes n v ++ b) 0 n = v % 256 ^ n := by
  have := fld_append_zero (leBytes n v) b
  rwa [leBytes_length, leNat_leBytes] at this

@[simp] theorem fld_leBytes (n v : Nat) : fld (leBytes n v) 0 n = v % 256 ^ n := by
  simpa using fld_leBytes_append n v []

theorem fld_rsvd_append (n : Nat) (b : List Byte) : fld (rsvd n ++ b) 0 n = 0 := by
  have h : leNat (rsvd n) = 0 := by
    induction n with
    | zero => rfl
    | succ n ih => simpa [rsvd, List.replicate_succ, leNat] using ih
  have := fld_append_zero (rsvd n) b
  rwa [rsvd_length, h] at this

/-- A word's number, cut to the bytes that hold it, is the word. -/
theorem ofNat_toNat_mod (n m : Nat) (w : BitVec n) (h : 2 ^ n = m) : BitVec.ofNat n (w.toNat % m) = w := by
  subst h
  rw [Nat.mod_eq_of_lt w.isLt, BitVec.ofNat_toNat, BitVec.setWidth_eq]

@[simp] theorem byte_of_field (w : Byte) : BitVec.ofNat 8 (w.toNat % 256) = w := ofNat_toNat_mod _ _ w rfl
@[simp] theorem word16_of_field (w : Word16) : BitVec.ofNat 16 (w.toNat % 65536) = w := ofNat_toNat_mod _ _ w rfl
@[simp] theorem word32_of_field (w : Word32) : BitVec.ofNat 32 (w.toNat % 4294967296) = w := ofNat_toNat_mod _ _ w rfl
@[simp] theorem word64_of_field (w : Word64) : BitVec.ofNat 64 (w.toNat % 18446744073709551616) = w := ofNat_toNat_mod _ _ w rfl

/-! ## Header (02 R44) -/

@[simp] theorem hdrBytes_length (op len : Nat) (h : Hdr) : (hdrBytes op len h).length = 32 := by
  simp [hdrBytes]

/-- The flag byte of a header. -/
def flagByte (h : Hdr) : Nat := b2n h.waitReady + 2 * b2n h.fenceBefore + 4 * b2n h.noReply

theorem flagByte_lt (h : Hdr) : flagByte h < 8 := by
  unfold flagByte b2n
  split <;> split <;> split <;> decide

theorem fld_flags (op len : Nat) (h : Hdr) (b : List Byte) : fld (hdrBytes op len h ++ b) 3 1 = flagByte h := by
  simp only [hdrBytes, List.append_assoc]
  simp (disch := decide) only [fld_skip_leBytes, Nat.reduceSub, fld_leBytes_append]
  exact Nat.mod_eq_of_lt (Nat.lt_trans (flagByte_lt h) (by decide))

theorem fld_opcode (op len : Nat) (h : Hdr) (b : List Byte) (ho : op < 65536) : fld (hdrBytes op len h ++ b) 0 2 = op := by
  simp only [hdrBytes, List.append_assoc, fld_leBytes_append]
  exact Nat.mod_eq_of_lt ho

/-- The flags stand in their own bits of the flag byte. -/
theorem bits_flagByte (h : Hdr) :
    bit (flagByte h) 0 = h.waitReady ∧ bit (flagByte h) 1 = h.fenceBefore ∧ bit (flagByte h) 2 = h.noReply := by
  unfold flagByte
  cases h.waitReady <;> cases h.fenceBefore <;> cases h.noReply <;> decide

theorem readHdr_hdrBytes (op len : Nat) (h : Hdr) (b : List Byte) : readHdr (hdrBytes op len h ++ b) = h := by
  obtain ⟨hw, hf, hn⟩ := bits_flagByte h
  simp only [readHdr, fld_flags, hw, hf, hn]
  simp [hdrBytes]

theorem hdrRsvd_hdrBytes (op len : Nat) (h : Hdr) (b : List Byte) : hdrRsvd (hdrBytes op len h ++ b) = none := by
  have hf : bits (flagByte h) 3 5 = 0 := by
    have := flagByte_lt h
    simp only [bits]
    omega
  have h7 : fld (hdrBytes op len h ++ b) 7 1 = 0 := by
    simp only [hdrBytes, List.append_assoc]
    simp (disch := decide) only [fld_skip_leBytes, Nat.reduceSub, fld_rsvd_append]
  simp [hdrRsvd, fld_flags, hf, h7]

/-! ## Parameter blocks (02 R53-R56; 09 R256) -/

theorem readDesc_descBytes (d : Desc) : readDesc (descBytes d) = d := by
  simp [readDesc, descBytes]

@[simp] theorem drop_desc (v : Nat) (d : List Byte) : (leBytes 4 v ++ (rsvd 12 ++ d)).drop 16 = d := by
  rw [← List.append_assoc, List.drop_left' (by simp)]

/-- Each packet's parameter block reads back, field by field, as the packet without its hardware faults. -/
theorem readParams_paramBytes (i : Instr) (op : Nat) (h : opcodeOf i = some op) :
    readParams op (hdrOf i) (paramBytes i) = some (withFaults {} i) := by
  cases i <;> cases h <;> simp [readParams, paramBytes, hdrOf, withFaults, readDesc_descBytes]

theorem paramBytes_length (i : Instr) (op : Nat) (h : opcodeOf i = some op) :
    (paramBytes i).length = 16 * (lenOf op).getD 0 := by
  cases i <;> cases h <;> simp [paramBytes, lenOf, descBytes]

theorem opcodeOf_lt (i : Instr) (op : Nat) (h : opcodeOf i = some op) : op < 65536 := by
  cases i <;> cases h <;> decide

/-! ## The obligation -/

/-- Settles O60: header and parameter block read back separately, each from its own bytes. -/
theorem packetRoundTrip : Obligations.PacketRoundTrip := by
  intro i op h
  have hb : packetBytes i = hdrBytes op ((lenOf op).getD 0) (hdrOf i) ++ paramBytes i := by simp only [packetBytes, h]
  have hd : (packetBytes i).drop 32 = paramBytes i := by rw [hb, List.drop_left' (hdrBytes_length ..)]
  refine ⟨?_, ?_, ?_⟩
  · rw [readPacket, hd, hb, fld_opcode _ _ _ _ (opcodeOf_lt i op h), readHdr_hdrBytes, readParams_paramBytes i op h]
  · rw [hb, List.length_append, hdrBytes_length, paramBytes_length i op h]
  · rw [hb, hdrRsvd_hdrBytes]

end Sys2Proof.Proofs
end

section
/-! PROOFS. What the operations that every command shares leave alone: stores, ledger entries, charges, and the state in which an
accepted packet runs. -/

namespace Sys2Proof.Proofs

open Sys2Proof.Machine Sys2Proof.Laws

/-! ## Stores -/

/-- A state that differs from another in what a store may touch: memory, signals, drovers and the phases of commands in flight. -/
def StoreOnly (s t : State) : Prop :=
  ∃ m g d js, t = { s with mem := m, sig := g, drv := d, gz := { s.gz with jobs := js } }

theorem StoreOnly.refl (s : State) : StoreOnly s s := ⟨s.mem, s.sig, s.drv, s.gz.jobs, rfl⟩

theorem StoreOnly.trans {s t u : State} (h : StoreOnly s t) (k : StoreOnly t u) : StoreOnly s u := by
  obtain ⟨_, _, _, _, rfl⟩ := h
  obtain ⟨_, _, _, _, rfl⟩ := k
  exact ⟨_, _, _, _, rfl⟩

theorem StoreOnly.foldl {α : Type} (f : State → α → State) (h : ∀ s x, StoreOnly s (f s x)) (l : List α) (s : State) :
    StoreOnly s (l.foldl f s) := by
  induction l generalizing s with
  | nil => exact .refl s
  | cons x l ih => exact (h s x).trans (ih _)

theorem meetWaiter_storeOnly (s : State) (w : Waiter) (v : Nat) : StoreOnly s (meetWaiter s w v) := by
  unfold meetWaiter
  dsimp only
  split
  · exact ⟨_, _, _, _, rfl⟩
  · exact ⟨_, _, _, _, rfl⟩

theorem wake_storeOnly (s : State) (a : Nat) : StoreOnly s (wake s a) :=
  .foldl _ (fun s w => meetWaiter_storeOnly s w _) _ s

theorem monitors_storeOnly (s : State) (w : Who) (a n : Nat) : StoreOnly s (monitors s w a n) := by
  unfold monitors
  split
  · exact .refl s
  · exact .foldl _ (fun s x => StoreOnly.trans ⟨_, _, _, _, rfl⟩ (wake_storeOnly (track s w x) x)) _ s

theorem breakResv_storeOnly (s : State) (a n : Nat) : StoreOnly s (breakResv s a n) := by
  unfold breakResv
  split
  · exact ⟨_, _, _, _, rfl⟩
  · exact .refl s

theorem storeNow_storeOnly (s : State) (w : Who) (a : Nat) (bs : List Byte) : StoreOnly s (storeNow s w a bs) :=
  StoreOnly.trans (t := { s with mem := _ }) ⟨_, _, _, _, rfl⟩ ((breakResv_storeOnly _ a bs.length).trans (monitors_storeOnly ..))

theorem storeLazy_storeOnly (s : State) (w : Who) (a : Nat) (bs : List Byte) : StoreOnly s (storeLazy s w a bs) := by
  unfold storeLazy
  split
  · exact .refl s
  · exact StoreOnly.trans ⟨_, _, _, _, rfl⟩ (storeNow_storeOnly _ w a bs)

/-- What a store leaves alone, field by field. -/
theorem StoreOnly.frame {s t : State} (h : StoreOnly s t) :
    t.pending = s.pending ∧ t.now = s.now ∧ t.free = s.free ∧ t.mod = s.mod ∧ t.hw = s.hw ∧ t.mm = s.mm ∧ t.ws = s.ws ∧
    t.dir = s.dir ∧ t.cf = s.cf ∧ t.ver = s.ver ∧ t.dma = s.dma ∧ t.chains = s.chains ∧ t.link = s.link ∧ t.grp = s.grp ∧
    t.tr = s.tr ∧ t.snap = s.snap ∧ t.flash = s.flash ∧ t.net = s.net ∧ t.gz.ctxs = s.gz.ctxs ∧ t.gz.rings = s.gz.rings ∧
    t.gz.nextJob = s.gz.nextJob ∧ t.gz.served = s.gz.served ∧ t.gz.windows = s.gz.windows := by
  obtain ⟨_, _, _, _, rfl⟩ := h
  simp

@[simp] theorem storeNow_frame (s : State) (w : Who) (a : Nat) (bs : List Byte) :
    (storeNow s w a bs).pending = s.pending ∧ (storeNow s w a bs).now = s.now ∧ (storeNow s w a bs).free = s.free ∧
    (storeNow s w a bs).mod = s.mod ∧ (storeNow s w a bs).hw = s.hw ∧ (storeNow s w a bs).mm = s.mm ∧
    (storeNow s w a bs).ws = s.ws ∧ (storeNow s w a bs).dir = s.dir ∧ (storeNow s w a bs).cf = s.cf ∧
    (storeNow s w a bs).ver = s.ver ∧ (storeNow s w a bs).dma = s.dma ∧ (storeNow s w a bs).chains = s.chains ∧
    (storeNow s w a bs).link = s.link ∧ (storeNow s w a bs).grp = s.grp ∧ (storeNow s w a bs).tr = s.tr ∧
    (storeNow s w a bs).snap = s.snap ∧ (storeNow s w a bs).flash = s.flash ∧ (storeNow s w a bs).net = s.net ∧
    (storeNow s w a bs).gz.ctxs = s.gz.ctxs ∧ (storeNow s w a bs).gz.rings = s.gz.rings ∧
    (storeNow s w a bs).gz.nextJob = s.gz.nextJob ∧ (storeNow s w a bs).gz.served = s.gz.served ∧
    (storeNow s w a bs).gz.windows = s.gz.windows :=
  (storeNow_storeOnly s w a bs).frame

@[simp] theorem storeLazy_frame (s : State) (w : Who) (a : Nat) (bs : List Byte) :
    (storeLazy s w a bs).pending = s.pending ∧ (storeLazy s w a bs).now = s.now ∧ (storeLazy s w a bs).free = s.free ∧
    (storeLazy s w a bs).mod = s.mod ∧ (storeLazy s w a bs).hw = s.hw ∧ (storeLazy s w a bs).mm = s.mm ∧
    (storeLazy s w a bs).ws = s.ws ∧ (storeLazy s w a bs).dir = s.dir ∧ (storeLazy s w a bs).cf = s.cf ∧
    (storeLazy s w a bs).ver = s.ver ∧ (storeLazy s w a bs).dma = s.dma ∧ (storeLazy s w a bs).chains = s.chains ∧
    (storeLazy s w a bs).link = s.link ∧ (storeLazy s w a bs).grp = s.grp ∧ (storeLazy s w a bs).tr = s.tr ∧
    (storeLazy s w a bs).snap = s.snap ∧ (storeLazy s w a bs).flash = s.flash ∧ (storeLazy s w a bs).net = s.net ∧
    (storeLazy s w a bs).gz.ctxs = s.gz.ctxs ∧ (storeLazy s w a bs).gz.rings = s.gz.rings ∧
    (storeLazy s w a bs).gz.nextJob = s.gz.nextJob ∧ (storeLazy s w a bs).gz.served = s.gz.served ∧
    (storeLazy s w a bs).gz.windows = s.gz.windows :=
  (storeLazy_storeOnly s w a bs).frame

/-! ## Stores where no word has a waiter -/

/-- With no waiter on any word the monitors only note the write in the signal table (10 R283). -/
theorem wake_of_no_waiters (s : State) (a : Nat) (h : s.sig.waiters = []) : wake s a = s := by
  simp only [wake, h, List.filter_nil, List.foldl_nil]

/-- A state that differs from another in what a store touches where no word has a waiter: memory, signal tables, reservations. -/
def CalmOnly (s t : State) : Prop := ∃ m tb d, t = { s with mem := m, sig := { s.sig with table := tb }, drv := d }

theorem CalmOnly.refl (s : State) : CalmOnly s s := ⟨s.mem, s.sig.table, s.drv, rfl⟩

theorem CalmOnly.trans {s t u : State} (h : CalmOnly s t) (k : CalmOnly t u) : CalmOnly s u := by
  obtain ⟨_, _, _, rfl⟩ := h
  obtain ⟨_, _, _, rfl⟩ := k
  exact ⟨_, _, _, rfl⟩

theorem CalmOnly.ofMem (s : State) (m : MemSt) : CalmOnly s { s with mem := m } := ⟨m, s.sig.table, s.drv, rfl⟩

theorem monitors_calmOnly (s : State) (w : Who) (a n : Nat) (h : s.sig.waiters = []) : CalmOnly s (monitors s w a n) := by
  have fold : ∀ (l : List Nat) (s : State), s.sig.waiters = [] →
      CalmOnly s (l.foldl (fun s x => wake (track s w x) x) s) := by
    intro l
    induction l with
    | nil => exact fun s _ => .refl s
    | cons x l ih =>
      intro s hs
      rw [List.foldl_cons, wake_of_no_waiters (track s w x) x hs]
      exact CalmOnly.trans ⟨_, _, _, rfl⟩ (ih (track s w x) hs)
  unfold monitors
  split
  · exact .refl s
  · exact fold _ s h

theorem breakResv_calmOnly (s : State) (a n : Nat) : CalmOnly s (breakResv s a n) := by
  unfold breakResv
  split
  · exact ⟨_, _, _, rfl⟩
  · exact .refl s

theorem CalmOnly.waiters {s t : State} (h : CalmOnly s t) (hw : s.sig.waiters = []) : t.sig.waiters = [] := by
  obtain ⟨_, _, _, rfl⟩ := h
  exact hw

theorem storeNow_calmOnly (s : State) (w : Who) (a : Nat) (bs : List Byte) (h : s.sig.waiters = []) :
    CalmOnly s (storeNow s w a bs) := by
  unfold storeNow
  refine .trans ?_ (monitors_calmOnly _ w a bs.length ((breakResv_calmOnly _ a bs.length).waiters h))
  refine .trans ?_ (breakResv_calmOnly _ a bs.length)
  exact .ofMem s _

/-- With no waiter a store ends no command and attaches or detaches nothing. -/
theorem storeNow_calm (s : State) (w : Who) (a : Nat) (bs : List Byte) (h : s.sig.waiters = []) :
    (storeNow s w a bs).gz = s.gz ∧ (storeNow s w a bs).sig.waiters = [] := by
  obtain ⟨_, _, _, ht⟩ := storeNow_calmOnly s w a bs h
  rw [ht]
  exact ⟨rfl, h⟩

theorem storeLazy_calm (s : State) (w : Who) (a : Nat) (bs : List Byte) (h : s.sig.waiters = []) :
    (storeLazy s w a bs).gz = s.gz ∧ (storeLazy s w a bs).sig.waiters = [] := by
  unfold storeLazy
  split
  · exact ⟨rfl, h⟩
  · exact storeNow_calm _ w a bs h

/-! ## Ledger entries (13 R354-R360) -/

/-- A state that differs from another in what a ledger entry may touch: counts, contexts' snapshots, the ledger and flash. -/
def LedgerOnly (s t : State) : Prop :=
  ∃ n c r f, t = { s with hw := { s.hw with counts := n }, gz := { s.gz with ctxs := c }, tr := r, flash := f }

theorem LedgerOnly.refl (s : State) : LedgerOnly s s := ⟨s.hw.counts, s.gz.ctxs, s.tr, s.flash, rfl⟩

theorem LedgerOnly.trans {s t u : State} (h : LedgerOnly s t) (k : LedgerOnly t u) : LedgerOnly s u := by
  obtain ⟨_, _, _, _, rfl⟩ := h
  obtain ⟨_, _, _, _, rfl⟩ := k
  exact ⟨_, _, _, _, rfl⟩

theorem numberEntry_ledgerOnly (s : State) (e : LedgerEvent) : LedgerOnly s (numberEntry s e) := ⟨_, _, _, _, rfl⟩

theorem closePage_ledgerOnly (reason : Nat) (s : State) : LedgerOnly s (closePage reason s) := by
  unfold closePage
  split
  · exact .refl s
  · exact ⟨_, _, _, _, rfl⟩

theorem appendAll_ledgerOnly (es : List LedgerEvent) (s : State) : LedgerOnly s (appendAll es s) := by
  induction es generalizing s with
  | nil => exact .refl s
  | cons e es ih =>
    unfold appendAll
    dsimp only
    refine LedgerOnly.trans (numberEntry_ledgerOnly s e) (LedgerOnly.trans ?_ (ih _))
    split
    · exact closePage_ledgerOnly 0 _
    · exact .refl _

theorem sealPage_ledgerOnly (reason : Nat) (s : State) : LedgerOnly s (sealPage reason s) := by
  have fold : ∀ (l : List LedgerEvent) (s : State), LedgerOnly s (l.foldl numberEntry s) := by
    intro l
    induction l with
    | nil => exact .refl
    | cons e l ih => exact fun s => (numberEntry_ledgerOnly s e).trans (ih _)
  unfold sealPage
  split
  · exact .refl s
  · have hm : LedgerOnly s (snapMark s) := ⟨_, _, _, _, rfl⟩
    exact ((hm.trans (fold _ _)).trans (closePage_ledgerOnly reason _)).trans (appendAll_ledgerOnly _ _)

theorem appendEntry_ledgerOnly (e : LedgerEvent) (s : State) : LedgerOnly s (appendEntry e s) := by
  unfold appendEntry
  dsimp only
  split
  · exact (numberEntry_ledgerOnly s e).trans (sealPage_ledgerOnly 0 _)
  · exact numberEntry_ledgerOnly s e

theorem ledgerEv_ledgerOnly (die : Nat) (e : LedgerEvent) (s : State) : LedgerOnly s (ledgerEv die e s) := by
  unfold ledgerEv
  split
  · exact appendEntry_ledgerOnly e s
  · exact ⟨_, _, _, _, rfl⟩

/-- What a ledger entry leaves alone, field by field. -/
theorem LedgerOnly.frame {s t : State} (h : LedgerOnly s t) :
    t.pending = s.pending ∧ t.now = s.now ∧ t.free = s.free ∧ t.mod = s.mod ∧ t.mem = s.mem ∧ t.mm = s.mm ∧ t.ws = s.ws ∧
    t.dir = s.dir ∧ t.cf = s.cf ∧ t.ver = s.ver ∧ t.dma = s.dma ∧ t.sig = s.sig ∧ t.drv = s.drv ∧ t.chains = s.chains ∧
    t.link = s.link ∧ t.grp = s.grp ∧ t.snap = s.snap ∧ t.net = s.net ∧ t.gz.rings = s.gz.rings ∧ t.gz.jobs = s.gz.jobs ∧
    t.gz.nextJob = s.gz.nextJob ∧ t.gz.served = s.gz.served ∧ t.gz.windows = s.gz.windows ∧ t.hw.items = s.hw.items ∧
    t.hw.health = s.hw.health ∧ t.hw.dies = s.hw.dies ∧ t.hw.wdog = s.hw.wdog := by
  obtain ⟨_, _, _, _, rfl⟩ := h
  simp

@[simp] theorem ledgerEv_frame (die : Nat) (e : LedgerEvent) (s : State) :
    (ledgerEv die e s).pending = s.pending ∧ (ledgerEv die e s).now = s.now ∧ (ledgerEv die e s).free = s.free ∧
    (ledgerEv die e s).mod = s.mod ∧ (ledgerEv die e s).mem = s.mem ∧ (ledgerEv die e s).mm = s.mm ∧
    (ledgerEv die e s).ws = s.ws ∧ (ledgerEv die e s).dir = s.dir ∧ (ledgerEv die e s).cf = s.cf ∧
    (ledgerEv die e s).ver = s.ver ∧ (ledgerEv die e s).dma = s.dma ∧ (ledgerEv die e s).sig = s.sig ∧
    (ledgerEv die e s).drv = s.drv ∧ (ledgerEv die e s).chains = s.chains ∧ (ledgerEv die e s).link = s.link ∧
    (ledgerEv die e s).grp = s.grp ∧ (ledgerEv die e s).snap = s.snap ∧ (ledgerEv die e s).net = s.net ∧
    (ledgerEv die e s).gz.rings = s.gz.rings ∧ (ledgerEv die e s).gz.jobs = s.gz.jobs ∧
    (ledgerEv die e s).gz.nextJob = s.gz.nextJob ∧ (ledgerEv die e s).gz.served = s.gz.served ∧
    (ledgerEv die e s).gz.windows = s.gz.windows ∧ (ledgerEv die e s).hw.items = s.hw.items ∧
    (ledgerEv die e s).hw.health = s.hw.health ∧ (ledgerEv die e s).hw.dies = s.hw.dies ∧
    (ledgerEv die e s).hw.wdog = s.hw.wdog :=
  (ledgerEv_ledgerOnly die e s).frame

@[simp] theorem ledger_frame (die o re ob fi c old new aux : Nat) (s : State) :
    (ledger die o re ob fi c old new aux s).pending = s.pending ∧ (ledger die o re ob fi c old new aux s).now = s.now ∧
    (ledger die o re ob fi c old new aux s).free = s.free ∧ (ledger die o re ob fi c old new aux s).mod = s.mod ∧
    (ledger die o re ob fi c old new aux s).mem = s.mem ∧ (ledger die o re ob fi c old new aux s).mm = s.mm ∧
    (ledger die o re ob fi c old new aux s).ws = s.ws ∧ (ledger die o re ob fi c old new aux s).dir = s.dir ∧
    (ledger die o re ob fi c old new aux s).cf = s.cf ∧ (ledger die o re ob fi c old new aux s).ver = s.ver ∧
    (ledger die o re ob fi c old new aux s).dma = s.dma ∧ (ledger die o re ob fi c old new aux s).sig = s.sig ∧
    (ledger die o re ob fi c old new aux s).drv = s.drv ∧ (ledger die o re ob fi c old new aux s).chains = s.chains ∧
    (ledger die o re ob fi c old new aux s).link = s.link ∧ (ledger die o re ob fi c old new aux s).grp = s.grp ∧
    (ledger die o re ob fi c old new aux s).snap = s.snap ∧ (ledger die o re ob fi c old new aux s).net = s.net ∧
    (ledger die o re ob fi c old new aux s).gz.rings = s.gz.rings ∧ (ledger die o re ob fi c old new aux s).gz.jobs = s.gz.jobs ∧
    (ledger die o re ob fi c old new aux s).gz.nextJob = s.gz.nextJob ∧
    (ledger die o re ob fi c old new aux s).gz.served = s.gz.served ∧
    (ledger die o re ob fi c old new aux s).gz.windows = s.gz.windows ∧
    (ledger die o re ob fi c old new aux s).hw.items = s.hw.items ∧
    (ledger die o re ob fi c old new aux s).hw.health = s.hw.health ∧
    (ledger die o re ob fi c old new aux s).hw.dies = s.hw.dies ∧ (ledger die o re ob fi c old new aux s).hw.wdog = s.hw.wdog :=
  ledgerEv_frame die _ s

/-! ## Readiness and charges (05 R135, R136) -/

/-- A state that differs from another in what a charge may touch: units, windows' safety actions, and what a ledger entry may. -/
def ChargeOnly (s t : State) : Prop :=
  ∃ h c w r f, t = { s with hw := h, gz := { s.gz with ctxs := c, windows := w }, tr := r, flash := f }

theorem ChargeOnly.refl (s : State) : ChargeOnly s s := ⟨s.hw, s.gz.ctxs, s.gz.windows, s.tr, s.flash, rfl⟩

theorem ChargeOnly.trans {s t u : State} (h : ChargeOnly s t) (k : ChargeOnly t u) : ChargeOnly s u := by
  obtain ⟨_, _, _, _, _, rfl⟩ := h
  obtain ⟨_, _, _, _, _, rfl⟩ := k
  exact ⟨_, _, _, _, _, rfl⟩

theorem LedgerOnly.chargeOnly {s t : State} (h : LedgerOnly s t) : ChargeOnly s t := by
  obtain ⟨_, _, _, _, rfl⟩ := h
  exact ⟨_, _, _, _, _, rfl⟩

theorem modHealth_chargeOnly (s : State) (u : Nat) (f : Health → Health) : ChargeOnly s (modHealth s u f) :=
  ⟨_, _, _, _, _, rfl⟩

theorem actOn_chargeOnly (obj : OrderObj) (o : Order) (s : State) : ChargeOnly s (actOn obj o s) := ⟨_, _, _, _, _, rfl⟩

theorem setReady_chargeOnly (u : Nat) (r : Bool) (cause : Nat) (s : State) : ChargeOnly s (setReady u r cause s) := by
  unfold setReady
  split
  · exact .refl s
  · exact ChargeOnly.trans ⟨_, _, _, _, _, rfl⟩ (ledgerEv_ledgerOnly ..).chargeOnly

theorem quarantine_chargeOnly (u : Nat) (s : State) : ChargeOnly s (quarantine u s) := by
  unfold quarantine
  refine .trans ?_ (setReady_chargeOnly _ false 2 _)
  refine .trans ?_ (modHealth_chargeOnly _ u _)
  refine .trans ?_ (ledgerEv_ledgerOnly ..).chargeOnly
  exact actOn_chargeOnly _ _ s

theorem charge_chargeOnly (u pts : Nat) (s : State) : ChargeOnly s (charge u pts s) := by
  unfold charge
  dsimp only
  split
  · exact .refl s
  · split
    · exact (modHealth_chargeOnly ..).trans (quarantine_chargeOnly ..)
    · exact modHealth_chargeOnly ..

/-- What a charge leaves alone, field by field. -/
theorem ChargeOnly.frame {s t : State} (h : ChargeOnly s t) :
    t.pending = s.pending ∧ t.now = s.now ∧ t.free = s.free ∧ t.mod = s.mod ∧ t.mem = s.mem ∧ t.mm = s.mm ∧ t.ws = s.ws ∧
    t.dir = s.dir ∧ t.cf = s.cf ∧ t.ver = s.ver ∧ t.dma = s.dma ∧ t.sig = s.sig ∧ t.drv = s.drv ∧ t.chains = s.chains ∧
    t.link = s.link ∧ t.grp = s.grp ∧ t.snap = s.snap ∧ t.net = s.net ∧ t.gz.rings = s.gz.rings ∧ t.gz.jobs = s.gz.jobs ∧
    t.gz.nextJob = s.gz.nextJob ∧ t.gz.served = s.gz.served := by
  obtain ⟨_, _, _, _, _, rfl⟩ := h
  simp

@[simp] theorem setReady_frame (u : Nat) (r : Bool) (cause : Nat) (s : State) :
    (setReady u r cause s).pending = s.pending ∧ (setReady u r cause s).now = s.now ∧ (setReady u r cause s).free = s.free ∧
    (setReady u r cause s).mod = s.mod ∧ (setReady u r cause s).mem = s.mem ∧ (setReady u r cause s).mm = s.mm ∧
    (setReady u r cause s).ws = s.ws ∧ (setReady u r cause s).dir = s.dir ∧ (setReady u r cause s).cf = s.cf ∧
    (setReady u r cause s).ver = s.ver ∧ (setReady u r cause s).dma = s.dma ∧ (setReady u r cause s).sig = s.sig ∧
    (setReady u r cause s).drv = s.drv ∧ (setReady u r cause s).chains = s.chains ∧ (setReady u r cause s).link = s.link ∧
    (setReady u r cause s).grp = s.grp ∧ (setReady u r cause s).snap = s.snap ∧ (setReady u r cause s).net = s.net ∧
    (setReady u r cause s).gz.rings = s.gz.rings ∧ (setReady u r cause s).gz.jobs = s.gz.jobs ∧
    (setReady u r cause s).gz.nextJob = s.gz.nextJob ∧ (setReady u r cause s).gz.served = s.gz.served :=
  (setReady_chargeOnly u r cause s).frame

@[simp] theorem charge_frame (u pts : Nat) (s : State) :
    (charge u pts s).pending = s.pending ∧ (charge u pts s).now = s.now ∧ (charge u pts s).free = s.free ∧
    (charge u pts s).mod = s.mod ∧ (charge u pts s).mem = s.mem ∧ (charge u pts s).mm = s.mm ∧ (charge u pts s).ws = s.ws ∧
    (charge u pts s).dir = s.dir ∧ (charge u pts s).cf = s.cf ∧ (charge u pts s).ver = s.ver ∧ (charge u pts s).dma = s.dma ∧
    (charge u pts s).sig = s.sig ∧ (charge u pts s).drv = s.drv ∧ (charge u pts s).chains = s.chains ∧
    (charge u pts s).link = s.link ∧ (charge u pts s).grp = s.grp ∧ (charge u pts s).snap = s.snap ∧
    (charge u pts s).net = s.net ∧ (charge u pts s).gz.rings = s.gz.rings ∧ (charge u pts s).gz.jobs = s.gz.jobs ∧
    (charge u pts s).gz.nextJob = s.gz.nextJob ∧ (charge u pts s).gz.served = s.gz.served :=
  (charge_chargeOnly u pts s).frame

/-- An end without points charges nothing. -/
@[simp] theorem charge_zero (u : Nat) (s : State) : charge u 0 s = s := by
  unfold charge
  simp

end Sys2Proof.Proofs
end

section
/-! PROOFS. The state in which an accepted packet runs, and what its answer changes and leaves alone (02 R43, R46, R50, R51). -/

namespace Sys2Proof.Proofs

open Sys2Proof.Machine Sys2Proof.Laws

/-! ## Reading memory -/

theorem byteAt_congr {s t : State} (hc : t.mem.cells = s.mem.cells) (hu : t.mem.undef = s.mem.undef) (x : Nat) :
    byteAt t x = byteAt s x := by
  simp only [byteAt, undefAt, hc, hu]

theorem bytesAt_congr {s t : State} {a n : Nat} (h : ∀ x, a ≤ x → x < a + n → byteAt t x = byteAt s x) :
    bytesAt t a n = bytesAt s a n := by
  induction n generalizing a with
  | zero => rfl
  | succ n ih =>
    simp only [bytesAt]
    rw [h a (Nat.le_refl a) (by omega), ih fun x h1 h2 => h x (by omega) (by omega)]

theorem word_congr {s t : State} (h : ∀ x, byteAt t x = byteAt s x) (a : Nat) : word t a = word s a := by
  simp only [word, bytesAt_congr (fun x _ _ => h x)]

@[simp] theorem bytesAt_length (s : State) (a n : Nat) : (bytesAt s a n).length = n := by
  induction n generalizing a with
  | zero => rfl
  | succ n ih => simp only [bytesAt, List.length_cons, ih]

/-- Bytes that stand at successive addresses are what is read from there. -/
theorem bytesAt_eq_of_getD {s : State} {a : Nat} {bs : List Byte} (h : ∀ k, k < bs.length → byteAt s (a + k) = bs.getD k 0) :
    bytesAt s a bs.length = bs := by
  induction bs generalizing a with
  | nil => rfl
  | cons b bs ih =>
    have h0 := h 0 (by simp)
    rw [List.length_cons, bytesAt]
    rw [ih fun k hk => by simpa [Nat.add_comm, Nat.add_left_comm] using h (k + 1) (by simpa using hk)]
    simpa using h0

/-- What a store leaves at its address. -/
theorem bytesAt_storeNow (s : State) (w : Who) (a : Nat) (bs : List Byte) (h : Memory.wf s.mem.cells = true) :
    bytesAt (storeNow s w a bs) a bs.length = bs := by
  refine bytesAt_eq_of_getD fun k hk => ?_
  rw [byteAt_storeNow s w a bs (a + k) h, if_pos ⟨by omega, by omega⟩, Nat.add_sub_cancel_left]

/-! ## Placement and poison in states of the same memory -/

/-- Two states place, poison and park alike. -/
def SamePlaces (s t : State) : Prop :=
  t.mem.poison = s.mem.poison ∧ t.mem.kept = s.mem.kept ∧ t.mem.sides = s.mem.sides ∧ t.mem.chans = s.mem.chans

theorem SamePlaces.of_mem {s t : State} (h : t.mem = s.mem) : SamePlaces s t := by
  unfold SamePlaces
  simp [h]

theorem SamePlaces.chanOf {s t : State} (h : SamePlaces s t) (a : Nat) : chanOf t a = chanOf s a := by
  unfold Sys2Proof.Machine.chanOf sideOf
  rw [h.2.2.1]

theorem SamePlaces.chan {s t : State} (h : SamePlaces s t) (c : Nat) : chan t c = chan s c := by
  unfold Sys2Proof.Machine.chan
  rw [h.2.2.2]

theorem SamePlaces.lostScan {s t : State} (h : SamePlaces s t) (a n : Nat) : lostScan t a n = lostScan s a n := by
  induction n generalizing a with
  | zero => rfl
  | succ n ih => simp only [Sys2Proof.Machine.lostScan, h.chanOf, h.chan, ih]

theorem SamePlaces.keptScan {s t : State} (h : SamePlaces s t) (b n : Nat) : keptScan t b n = keptScan s b n := by
  induction n generalizing b with
  | zero => rfl
  | succ n ih => simp only [Sys2Proof.Machine.keptScan, h.2.1, ih]

theorem SamePlaces.poisonAddr {s t : State} (h : SamePlaces s t) (a n : Nat) : poisonAddr t a n = poisonAddr s a n := by
  obtain ⟨hp, hk, -, hc⟩ := id h
  simp only [Sys2Proof.Machine.poisonAddr, hp, hk, hc, h.keptScan, h.lostScan]

theorem SamePlaces.poisonIn {s t : State} (h : SamePlaces s t) (a n : Nat) : poisonIn t a n = poisonIn s a n := by
  simp only [Sys2Proof.Machine.poisonIn, h.poisonAddr]
  exact congrFun (congrArg _ (funext h.chanOf)) _

theorem SamePlaces.training {s t : State} (h : SamePlaces s t) (a : Nat) : training t a = training s a := by
  simp only [Sys2Proof.Machine.training, h.chan, h.chanOf]

/-! ## The state in which an accepted packet runs -/

/-- All that `begun` changes: a count, the packet's number, its ring's reserved slots, and which writes are still out of sight. -/
theorem begun_eq (s : State) (i : Instr) :
    ∃ n u, begun s i = { s with
      hw := { s.hw with counts := n }
      gz := { s.gz with
        nextJob := s.gz.nextJob + 1
        rings := amMod {} s.gz.rings (ringKey (hdrOf i)) (fun r => { r with reserved := r.reserved + 1 }) }
      mem := { s.mem with unseen := u } } := by
  unfold begun
  dsimp only
  split
  · exact ⟨_, _, rfl⟩
  · exact ⟨_, s.mem.unseen, rfl⟩

@[simp] theorem begun_frame (s : State) (i : Instr) :
    (begun s i).pending = s.pending ∧ (begun s i).now = s.now ∧ (begun s i).free = s.free ∧ (begun s i).mod = s.mod ∧
    (begun s i).mm = s.mm ∧ (begun s i).ws = s.ws ∧ (begun s i).dir = s.dir ∧ (begun s i).cf = s.cf ∧
    (begun s i).dma = s.dma ∧ (begun s i).sig = s.sig ∧ (begun s i).drv = s.drv ∧ (begun s i).chains = s.chains ∧
    (begun s i).link = s.link ∧ (begun s i).grp = s.grp ∧ (begun s i).tr = s.tr ∧ (begun s i).snap = s.snap ∧
    (begun s i).flash = s.flash ∧ (begun s i).net = s.net ∧ (begun s i).gz.ctxs = s.gz.ctxs ∧
    (begun s i).gz.jobs = s.gz.jobs ∧ (begun s i).gz.nextJob = s.gz.nextJob + 1 ∧ (begun s i).gz.served = s.gz.served ∧
    (begun s i).gz.windows = s.gz.windows ∧ (begun s i).hw.items = s.hw.items ∧ (begun s i).hw.health = s.hw.health ∧
    (begun s i).hw.dies = s.hw.dies ∧ (begun s i).hw.wdog = s.hw.wdog ∧ (begun s i).mem.cells = s.mem.cells ∧
    (begun s i).mem.poison = s.mem.poison ∧ (begun s i).mem.kept = s.mem.kept ∧ (begun s i).mem.undef = s.mem.undef ∧
    (begun s i).mem.sides = s.mem.sides ∧ (begun s i).mem.chans = s.mem.chans := by
  obtain ⟨_, _, h⟩ := begun_eq s i
  rw [h]
  simp

theorem begun_samePlaces (s : State) (i : Instr) : SamePlaces s (begun s i) := by
  unfold SamePlaces
  simp

@[simp] theorem ctxOf_begun (s : State) (i : Instr) (c : Nat) : ctxOf (begun s i) c = ctxOf s c := by simp only [ctxOf, begun_frame]

@[simp] theorem byteAt_begun (s : State) (i : Instr) (x : Nat) : byteAt (begun s i) x = byteAt s x :=
  byteAt_congr (by simp) (by simp) x

@[simp] theorem word_begun (s : State) (i : Instr) (a : Nat) : word (begun s i) a = word s a := word_congr (byteAt_begun s i) a

@[simp] theorem poisonIn_begun (s : State) (i : Instr) (a n : Nat) : poisonIn (begun s i) a n = poisonIn s a n :=
  (begun_samePlaces s i).poisonIn a n

@[simp] theorem training_begun (s : State) (i : Instr) (a : Nat) : training (begun s i) a = training s a :=
  (begun_samePlaces s i).training a

theorem ringOf_begun (s : State) (i : Instr) (k : Nat) :
    ringOf (begun s i) k = if k = ringKey (hdrOf i) then { ringOf s k with reserved := (ringOf s k).reserved + 1 } else ringOf s k := by
  obtain ⟨_, _, h⟩ := begun_eq s i
  simp only [ringOf, h, amGet_amMod]
  split
  · next hk => rw [hk]
  · rfl

/-! ## The reply and DONE_VALUE -/

@[simp] theorem replyBytes_length (seq origin ticks : Nat) (e : End) : (replyBytes seq origin ticks e).length = 32 := by
  simp [replyBytes]

theorem writeReply_storeOnly (s : State) (key : Nat) (bs : List Byte) :
    ∃ t, StoreOnly s t ∧ writeReply s key bs = modRing t key (fun r => { r with replyTail := (r.replyTail + 32) % replySize r }) :=
  ⟨_, storeNow_storeOnly s _ _ bs, rfl⟩

@[simp] theorem writeReply_mem (s : State) (key : Nat) (bs : List Byte) :
    (writeReply s key bs).mem =
      (storeNow s ⟨ringCore s key, ringOrigin s (key / 256) (key % 256), key / 256, 0, key⟩
        ((ringOf s key).replyBase + (ringOf s key).replyTail) bs).mem := rfl

/-- What a signal store does: nothing on a poisoned block, else eight bytes. -/
theorem sigStore_cases (s : State) (w : Who) (a v : Nat) :
    sigStore s w a v = s ∨ sigStore s w a v = storeNow s w a (leBytes 8 v) := by
  unfold sigStore
  split
  · exact .inl rfl
  · exact .inr rfl

/-- DONE_VALUE is written, if it is, in the eight bytes at DONE_ADDR. -/
theorem writeDone_cases (s : State) (key job : Nat) (h : Hdr) :
    writeDone s key job h = s ∨
      h.doneAddr ≠ 0 ∧ ∃ w, writeDone s key job h = storeNow s w h.doneAddr.toNat (leBytes 8 h.doneValue.toNat) := by
  unfold writeDone
  dsimp only
  split
  · exact .inl rfl
  · rename_i hd
    have hne : h.doneAddr ≠ 0 := fun h0 => hd (by simp [h0])
    exact (sigStore_cases _ _ _ _).imp id fun hs => ⟨hne, _, hs⟩

theorem writeDone_of_no_addr (s : State) (key job : Nat) (h : Hdr) (h0 : h.doneAddr = 0) : writeDone s key job h = s :=
  (writeDone_cases s key job h).resolve_right fun hc => hc.1 h0

theorem writeDone_storeOnly (s : State) (key job : Nat) (h : Hdr) : StoreOnly s (writeDone s key job h) := by
  rcases writeDone_cases s key job h with hd | ⟨-, w, hd⟩
  · rw [hd]; exact .refl s
  · rw [hd]; exact storeNow_storeOnly ..

theorem writeDone_calmOnly (s : State) (key job : Nat) (h : Hdr) (hw : s.sig.waiters = []) :
    CalmOnly s (writeDone s key job h) := by
  rcases writeDone_cases s key job h with hd | ⟨-, w, hd⟩
  · rw [hd]; exact .refl s
  · rw [hd]; exact storeNow_calmOnly _ _ _ _ hw

theorem writeDone_wf (s : State) (key job : Nat) (h : Hdr) (hs : Memory.wf s.mem.cells = true) :
    Memory.wf (writeDone s key job h).mem.cells = true := by
  rcases writeDone_cases s key job h with hd | ⟨-, w, hd⟩
  · rw [hd]; exact hs
  · rw [hd]; exact storeNow_wf _ _ _ _ hs

theorem byteAt_writeDone (s : State) (key job : Nat) (h : Hdr) (x : Nat) (hs : Memory.wf s.mem.cells = true)
    (hx : h.doneAddr ≠ 0 → ¬(h.doneAddr.toNat ≤ x ∧ x < h.doneAddr.toNat + 8)) :
    byteAt (writeDone s key job h) x = byteAt s x := by
  rcases writeDone_cases s key job h with hd | ⟨hne, w, hd⟩
  · rw [hd]
  · rw [hd, byteAt_storeNow _ _ _ _ _ hs, leBytes_length, if_neg (hx hne)]

/-! ## The end of a command -/

/-- The state after the reply of an end is written, if the end writes one. -/
def replyWritten (s : State) (j : Job) (e : End) : State :=
  if replies (hdrOf j.cmd) e then writeReply s j.ring (replyBytes (hdrOf j.cmd).seq.toNat j.origin (s.now - j.t0) e) else s

/-- The reply's slot is given up. -/
def unreserve (s : State) (key : Nat) : State := modRing s key (fun r => { r with reserved := r.reserved - 1 })

/-- An end takes its reply, its slot, DONE_VALUE, the check record and its points in turn. -/
theorem finish_eq (s : State) (j : Job) (e : End) :
    finish s j e = charge e.detail (endPoints e)
      (modCtx (writeDone (unreserve (replyWritten s j e) j.ring) j.ring j.id (hdrOf j.cmd)) (j.ring / 256)
        (fun c => { c with chk := recordEnd (hdrOf j.cmd) e c.chk })) := rfl

theorem replyWritten_wf (s : State) (j : Job) (e : End) (h : Memory.wf s.mem.cells = true) :
    Memory.wf (replyWritten s j e).mem.cells = true := by
  unfold replyWritten
  split
  · rw [writeReply_mem]; exact storeNow_wf _ _ _ _ h
  · exact h

theorem finish_mem (s : State) (j : Job) (e : End) :
    (finish s j e).mem = (writeDone (unreserve (replyWritten s j e) j.ring) j.ring j.id (hdrOf j.cmd)).mem := by
  rw [finish_eq, (charge_frame _ _ _).2.2.2.2.1, (modCtx_frame _ _ _).2.2.2.2.2.1]

/-- An end keeps memory's canonical form. -/
theorem finish_wf (s : State) (j : Job) (e : End) (h : Memory.wf s.mem.cells = true) : Memory.wf (finish s j e).mem.cells = true := by
  rw [finish_mem]
  exact writeDone_wf _ _ _ _ (replyWritten_wf s j e h)

theorem byteAt_replyWritten (s : State) (j : Job) (e : End) (x : Nat) (h : Memory.wf s.mem.cells = true)
    (hx : ¬((ringOf s j.ring).replyBase + (ringOf s j.ring).replyTail ≤ x ∧
      x < (ringOf s j.ring).replyBase + (ringOf s j.ring).replyTail + 32)) :
    byteAt (replyWritten s j e) x = byteAt s x := by
  unfold replyWritten
  split
  · rw [byteAt_congr (t := writeReply s _ _) (congrArg _ (writeReply_mem ..)) (congrArg _ (writeReply_mem ..)),
      byteAt_storeNow _ _ _ _ _ h, replyBytes_length, if_neg hx]
  · rfl

/-- An end writes no byte of memory but its reply slot and its DONE_ADDR word. -/
theorem finish_memSame (s : State) (j : Job) (e : End) (h : Memory.wf s.mem.cells = true) :
    MemSame s (finish s j e) (replyWrites s j) := by
  intro x hx
  rw [byteAt_congr (congrArg _ (finish_mem s j e)) (congrArg _ (finish_mem s j e)),
    byteAt_writeDone _ _ _ _ _ (show Memory.wf (unreserve (replyWritten s j e) j.ring).mem.cells = true from replyWritten_wf s j e h)]
  · exact byteAt_replyWritten s j e x h (hx (_, 32) (by simp [replyWrites]))
  · intro hne
    have h0 : (hdrOf j.cmd).doneAddr.toNat ≠ 0 := fun h => hne (BitVec.eq_of_toNat_eq h)
    exact hx ((hdrOf j.cmd).doneAddr.toNat, 8) (by simp [replyWrites, h0])

theorem bytesAt_replyWritten (s : State) (j : Job) (e : End) (h : Memory.wf s.mem.cells = true)
    (hr : replies (hdrOf j.cmd) e = true) :
    bytesAt (replyWritten s j e) ((ringOf s j.ring).replyBase + (ringOf s j.ring).replyTail) 32 =
      replyBytes (hdrOf j.cmd).seq.toNat j.origin (s.now - j.t0) e := by
  have hb := bytesAt_storeNow s ⟨ringCore s j.ring, ringOrigin s (j.ring / 256) (j.ring % 256), j.ring / 256, 0, j.ring⟩
    ((ringOf s j.ring).replyBase + (ringOf s j.ring).replyTail)
    (replyBytes (hdrOf j.cmd).seq.toNat j.origin (s.now - j.t0) e) h
  rw [replyBytes_length] at hb
  rw [replyWritten, if_pos hr]
  exact hb

/-- The reply stands in its slot, when no DONE_VALUE is written after it. -/
theorem finish_reply (s : State) (j : Job) (e : End) (h : Memory.wf s.mem.cells = true) (hr : replies (hdrOf j.cmd) e = true)
    (hd : (hdrOf j.cmd).doneAddr = 0) :
    bytesAt (finish s j e) ((ringOf s j.ring).replyBase + (ringOf s j.ring).replyTail) 32 =
      replyBytes (hdrOf j.cmd).seq.toNat j.origin (s.now - j.t0) e := by
  have hm : (finish s j e).mem = (replyWritten s j e).mem := by
    rw [finish_mem, writeDone_of_no_addr _ _ _ _ hd]
    rfl
  rw [← bytesAt_replyWritten s j e h hr]
  exact bytesAt_congr fun x _ _ => byteAt_congr (congrArg _ hm) (congrArg _ hm) x

theorem ringOf_storeOnly {s t : State} (h : StoreOnly s t) (k : Nat) : ringOf t k = ringOf s k := by
  obtain ⟨_, _, _, _, rfl⟩ := h
  rfl

theorem ringOf_replyWritten (s : State) (j : Job) (e : End) (k : Nat) :
    ringOf (replyWritten s j e) k =
      if k = j.ring ∧ replies (hdrOf j.cmd) e = true then
        { ringOf s k with replyTail := ((ringOf s k).replyTail + 32) % replySize (ringOf s k) }
      else ringOf s k := by
  unfold replyWritten
  split
  · next hr =>
    obtain ⟨t, ht, hw⟩ := writeReply_storeOnly s j.ring (replyBytes (hdrOf j.cmd).seq.toNat j.origin (s.now - j.t0) e)
    rw [hw, ringOf_modRing, ringOf_storeOnly ht, ringOf_storeOnly ht]
    by_cases hk : k = j.ring
    · simp [hk, hr]
    · simp [hk]
  · next hr => simp [hr]

/-- What an end does to rings: its own ring's reply position and reserved slots, and nothing else. -/
theorem ringOf_finish (s : State) (j : Job) (e : End) (k : Nat) :
    ringOf (finish s j e) k =
      if k = j.ring then
        { ringOf s k with
          replyTail := if replies (hdrOf j.cmd) e then ((ringOf s k).replyTail + 32) % replySize (ringOf s k)
            else (ringOf s k).replyTail
          reserved := (ringOf s k).reserved - 1 }
      else ringOf s k := by
  have hg : ringOf (finish s j e) k =
      ringOf (writeDone (unreserve (replyWritten s j e) j.ring) j.ring j.id (hdrOf j.cmd)) k := by
    simp only [ringOf, finish_eq, charge_frame]
    rfl
  rw [hg, ringOf_storeOnly (writeDone_storeOnly ..), unreserve, ringOf_modRing, ringOf_replyWritten, ringOf_replyWritten]
  by_cases hk : k = j.ring
  · subst hk
    cases hr : replies (hdrOf j.cmd) e <;> simp
  · simp [hk]

/-- A state that differs from another in what an end may touch: what a store may and what a charge may, rings included. -/
def EndOnly (s t : State) : Prop :=
  ∃ m g d h c w rs js r f, t = { s with
    mem := m, sig := g, drv := d, hw := h, tr := r, flash := f
    gz := { s.gz with ctxs := c, windows := w, rings := rs, jobs := js } }

theorem EndOnly.trans {s t u : State} (h : EndOnly s t) (k : EndOnly t u) : EndOnly s u := by
  obtain ⟨_, _, _, _, _, _, _, _, _, _, rfl⟩ := h
  obtain ⟨_, _, _, _, _, _, _, _, _, _, rfl⟩ := k
  exact ⟨_, _, _, _, _, _, _, _, _, _, rfl⟩

theorem StoreOnly.endOnly {s t : State} (h : StoreOnly s t) : EndOnly s t := by
  obtain ⟨_, _, _, _, rfl⟩ := h
  exact ⟨_, _, _, _, _, _, _, _, _, _, rfl⟩

theorem ChargeOnly.endOnly {s t : State} (h : ChargeOnly s t) : EndOnly s t := by
  obtain ⟨_, _, _, _, _, rfl⟩ := h
  exact ⟨_, _, _, _, _, _, _, _, _, _, rfl⟩

theorem modRing_endOnly (s : State) (key : Nat) (f : Ring → Ring) : EndOnly s (modRing s key f) :=
  ⟨_, _, _, _, _, _, _, _, _, _, rfl⟩

theorem modCtx_endOnly (s : State) (c : Nat) (f : Ctx → Ctx) : EndOnly s (modCtx s c f) := ⟨_, _, _, _, _, _, _, _, _, _, rfl⟩

theorem replyWritten_endOnly (s : State) (j : Job) (e : End) : EndOnly s (replyWritten s j e) := by
  unfold replyWritten
  split
  · exact (storeNow_storeOnly ..).endOnly.trans (modRing_endOnly ..)
  · exact (StoreOnly.refl s).endOnly

theorem finish_endOnly (s : State) (j : Job) (e : End) : EndOnly s (finish s j e) := by
  rw [finish_eq]
  refine .trans ?_ (charge_chargeOnly ..).endOnly
  refine .trans ?_ (modCtx_endOnly ..)
  refine .trans ?_ (writeDone_storeOnly ..).endOnly
  exact (replyWritten_endOnly s j e).trans (modRing_endOnly ..)

/-- An end leaves the units of the data plane, the group and the module where they were. -/
@[simp] theorem finish_frame (s : State) (j : Job) (e : End) :
    (finish s j e).pending = s.pending ∧ (finish s j e).now = s.now ∧ (finish s j e).free = s.free ∧
    (finish s j e).mod = s.mod ∧ (finish s j e).mm = s.mm ∧ (finish s j e).ws = s.ws ∧ (finish s j e).dir = s.dir ∧
    (finish s j e).cf = s.cf ∧ (finish s j e).ver = s.ver ∧ (finish s j e).dma = s.dma ∧ (finish s j e).chains = s.chains ∧
    (finish s j e).link = s.link ∧ (finish s j e).grp = s.grp ∧ (finish s j e).snap = s.snap ∧ (finish s j e).net = s.net ∧
    (finish s j e).gz.nextJob = s.gz.nextJob ∧ (finish s j e).gz.served = s.gz.served := by
  obtain ⟨_, _, _, _, _, _, _, _, _, _, h⟩ := finish_endOnly s j e
  rw [h]
  simp

/-! ## An end where no word has a waiter and no points are charged -/

/-- A state that differs from another in what a calm end may touch: a calm store's, rings and contexts. -/
def CalmEnd (s t : State) : Prop :=
  ∃ m tb d rs c, t = { s with mem := m, sig := { s.sig with table := tb }, drv := d, gz := { s.gz with rings := rs, ctxs := c } }

theorem CalmEnd.trans {s t u : State} (h : CalmEnd s t) (k : CalmEnd t u) : CalmEnd s u := by
  obtain ⟨_, _, _, _, _, rfl⟩ := h
  obtain ⟨_, _, _, _, _, rfl⟩ := k
  exact ⟨_, _, _, _, _, rfl⟩

theorem CalmEnd.waiters {s t : State} (h : CalmEnd s t) (hw : s.sig.waiters = []) : t.sig.waiters = [] := by
  obtain ⟨_, _, _, _, _, rfl⟩ := h
  exact hw

theorem CalmOnly.calmEnd {s t : State} (h : CalmOnly s t) : CalmEnd s t := by
  obtain ⟨_, _, _, rfl⟩ := h
  exact ⟨_, _, _, _, _, rfl⟩

theorem modRing_calmEnd (s : State) (key : Nat) (f : Ring → Ring) : CalmEnd s (modRing s key f) := ⟨_, s.sig.table, _, _, _, rfl⟩

theorem modCtx_calmEnd (s : State) (c : Nat) (f : Ctx → Ctx) : CalmEnd s (modCtx s c f) := ⟨_, s.sig.table, _, _, _, rfl⟩

theorem replyWritten_calmEnd (s : State) (j : Job) (e : End) (hw : s.sig.waiters = []) : CalmEnd s (replyWritten s j e) := by
  unfold replyWritten
  split
  · exact (storeNow_calmOnly _ _ _ _ hw).calmEnd.trans (modRing_calmEnd ..)
  · exact (CalmOnly.refl s).calmEnd

theorem unreserved_calmEnd (s : State) (j : Job) (e : End) (hw : s.sig.waiters = []) :
    CalmEnd s (unreserve (replyWritten s j e) j.ring) := (replyWritten_calmEnd s j e hw).trans (modRing_calmEnd ..)

theorem finish_calmEnd (s : State) (j : Job) (e : End) (hw : s.sig.waiters = []) (he : endPoints e = 0) :
    CalmEnd s (finish s j e) := by
  have hu := unreserved_calmEnd s j e hw
  rw [finish_eq, he, charge_zero]
  refine .trans ?_ (modCtx_calmEnd ..)
  exact hu.trans (writeDone_calmOnly _ _ _ _ (hu.waiters hw)).calmEnd

/-- What a calm end leaves alone beyond `finish_frame`. -/
theorem finish_calm (s : State) (j : Job) (e : End) (hw : s.sig.waiters = []) (he : endPoints e = 0) :
    (finish s j e).hw = s.hw ∧ (finish s j e).tr = s.tr ∧ (finish s j e).flash = s.flash ∧
    (finish s j e).gz.jobs = s.gz.jobs ∧ (finish s j e).gz.windows = s.gz.windows ∧ (finish s j e).sig.waiters = [] := by
  obtain ⟨_, _, _, _, _, h⟩ := finish_calmEnd s j e hw he
  rw [h]
  exact ⟨rfl, rfl, rfl, rfl, rfl, hw⟩

theorem ctxs_storeOnly {s t : State} (h : StoreOnly s t) : t.gz.ctxs = s.gz.ctxs := by
  obtain ⟨_, _, _, _, rfl⟩ := h
  rfl

/-- What an end that charges no points does to contexts: its own one's check record, and nothing else. -/
theorem ctxOf_finish (s : State) (j : Job) (e : End) (he : endPoints e = 0) (c : Nat) :
    ctxOf (finish s j e) c =
      if c = j.ring / 256 then { ctxOf s c with chk := recordEnd (hdrOf j.cmd) e (ctxOf s c).chk } else ctxOf s c := by
  have hr : (replyWritten s j e).gz.ctxs = s.gz.ctxs := by
    unfold replyWritten
    split
    · obtain ⟨t, ht, hw⟩ := writeReply_storeOnly s j.ring (replyBytes (hdrOf j.cmd).seq.toNat j.origin (s.now - j.t0) e)
      rw [hw]
      exact (ctxs_storeOnly ht : t.gz.ctxs = _)
    · rfl
  have hc : ∀ x, ctxOf (writeDone (unreserve (replyWritten s j e) j.ring) j.ring j.id (hdrOf j.cmd)) x = ctxOf s x := by
    intro x
    rw [ctxOf, ctxs_storeOnly (writeDone_storeOnly ..)]
    exact congrArg (amGet {} · x) hr
  rw [finish_eq, he, charge_zero, ctxOf_modCtx, hc, hc]
  split
  · next h => rw [h]
  · rfl

/-! ## An accepted packet that ends at once -/

/-- The answer of a packet in a state in which nothing is in flight. -/
theorem replied_of_idle {s t : State} {pre : Pre} {i : Instr} {e : End} (hc : Calm t []) (he : endPoints e = 0) :
    replied s pre i t e = passed (finish t (jobFor s pre i) e) := by
  have hi : Idle (finish t (jobFor s pre i) e) := ((finish_calm _ _ _ hc.2.2 he).2.2.2.1).trans hc.1
  exact settle_idle _ hi

/-- Settles O14: what a calm end touches, with what `begun` touches. -/
theorem replyFrame : Obligations.ReplyFrame := by
  intro s pre i t e j u hc he
  obtain ⟨hj, hm, hw⟩ := hc
  have hu : u = passed (finish t j e) := replied_of_idle ⟨hj, hm, hw⟩ he
  have hcalm := finish_calm t j e hw he
  obtain ⟨hhw, htr, hfl, hjobs, hwin, hwt⟩ := hcalm
  have hkey : ringKey (hdrOf i) = j.ring := rfl
  rw [hu]
  refine ⟨finish_memSame t j e hm, ?_, ?_, ?_, ?_, hhw, hjobs.trans hj, hwin, hwt, ?_, ?_, ?_, ?_, ?_, ?_, ?_, ?_, ?_⟩
  · simp [SameEngines, passed]
  · simp [SameModule, passed, htr, hfl]
  · simp [SameUnits, passed, hhw]
  · refine ⟨fun k hk => ?_, fun c hk => ?_⟩
    · exact (ringOf_finish t j e k).trans (if_neg hk)
    · exact (ctxOf_finish t j e he c).trans (if_neg hk)
  · simp
  · simp [SameEngines]
  · simp [SameModule]
  · simp [SameUnits]
  · exact ⟨fun k hk => by rw [ringOf_begun, if_neg hk], fun c _ => ctxOf_begun s i c⟩
  all_goals simp

/-- Settles O15: the answered packet's ring, reply and check record. -/
theorem repliesAndCheckRecords : Obligations.RepliesAndCheckRecords := by
  intro s pre i t e j u r c hc he hn
  have hu : u = passed (finish t j e) := replied_of_idle hc he
  have hring : ringOf u j.ring = ringOf (finish t j e) j.ring := by rw [hu]; rfl
  have hr := ringOf_finish t j e j.ring
  rw [if_pos rfl] at hr
  refine ⟨fun h => ?_, fun h hd => ?_, fun h => ?_, ?_, ?_⟩
  · rw [hring, hr]
    exact if_pos h
  · have ht : t.now - j.t0 = 0 := by rw [hn]; exact Nat.sub_self _
    have hb := finish_reply t j e hc.2.1 h hd
    rw [ht] at hb
    rw [hu]
    exact hb
  · rw [hring, hr]
    exact if_neg (by rw [show hdrOf j.cmd = hdrOf i from rfl, h]; exact Bool.false_ne_true)
  · rw [hring, hr]
  · have hx := ctxOf_finish t j e he (j.ring / 256)
    rw [if_pos rfl] at hx
    rw [hu]
    exact congrArg Ctx.chk hx

end Sys2Proof.Proofs
end

section
/-! PROOFS. Control-core packets, signal operations and control-block writes (02 R38-R43, R53, R59, R60; 10 R275-R277). -/

namespace Sys2Proof.Proofs

open Sys2Proof.Machine Sys2Proof.Laws

/-! ## The queue and reset -/

/-- Settles O1. -/
theorem frontCommandRuns : Obligations.FrontCommandRuns := by
  intro c rest s h
  simp only [step, h]

theorem anyField_reset (e n : Nat) : anyField State.reset e n = false := by
  induction n with
  | zero => rfl
  | succ n ih => simp only [anyField, ih, Bool.or_false]; rfl

/-- No unit is ready after reset: each kind needs its health entry, a port its state, and the table of either is empty. -/
theorem unitReady_reset (u : Nat) : unitReady State.reset u = false := by
  unfold unitReady
  split
  · rfl
  · rfl
  · rw [anyField_reset, Bool.and_false]
  · rfl

/-- Settles O3. -/
theorem resetLeaves : Obligations.ResetLeaves :=
  ⟨rfl, rfl, rfl, fun _ => rfl, unitReady_reset, fun _ => ⟨by simp [item, itemReset, State.reset, amGet, bits], by
    simp [item, itemReset, State.reset, amGet, bits]⟩, rfl, fun _ => rfl, reset_wf⟩

/-! ## Packets whose run waits -/

/-- An accepted packet whose run waits stays in flight in the phase that its run gives (02 R46). -/
theorem exec_of_run_waits {s t : State} {pre : Pre} {run : Job → State → RunRes} {i : Instr} {ph : Phase}
    (hx : exec i s = .next (issue pre run i s)) (ha : Accepts s pre i)
    (hr : run (jobFor s pre i) (begun s i) = waits t ph) : exec i s = .next (settle (park t (jobFor s pre i) ph)) := by
  rw [hx, issue_accepted s pre run i ha, hr]
  rfl

theorem loops_begun (s : State) (i : Instr) : (ringOf (begun s i) (ringKey (hdrOf i))).loops = (ringOf s (ringKey (hdrOf i))).loops := by
  rw [ringOf_begun, if_pos rfl]

/-! ## NOP, SKIP_IF and loops (02 R53, R59, R60) -/

theorem exec_nop (h : Hdr) (s : State) : exec (.nop h) s = .next (issue (preCore h s) runNop (.nop h) s) := rfl

theorem exec_skipIf (h : Hdr) (p : PSkipIf) (s : State) :
    exec (.skipIf h p) s = .next (issue (preSkipIf h p s) (runSkipIf p) (.skipIf h p) s) := rfl

theorem exec_loopBegin (h : Hdr) (p : PLoopBegin) (s : State) :
    exec (.loopBegin h p) s = .next (issue (preLoopBegin h p s) (runLoopBegin p) (.loopBegin h p) s) := rfl

theorem exec_loopEnd (h : Hdr) (s : State) : exec (.loopEnd h) s = .next (issue (preCore h s) runLoopEnd (.loopEnd h) s) := rfl

/-- What SKIP_IF comes to at a word that can be read. -/
theorem runSkipIf_readable (p : PSkipIf) (j : Job) (s : State) (hp : poisonIn s (p.addr.toNat / 32 * 32) 32 = none)
    (ht : training s p.addr.toNat = false) :
    runSkipIf p j s =
      if condHolds p.cond.toNat (word s p.addr.toNat) p.value.toNat then
        waits (modRing s j.ring (fun r => { r with passOver := some (.skip p.skip.toNat 0 j.id) })) .passing
      else ends s (done 0) := by
  simp only [runSkipIf, hp, ht, Bool.false_eq_true, if_false]

/-- What LOOP_BEGIN comes to at a word that can be read, while its ring has room for a loop. -/
theorem runLoopBegin_readable (p : PLoopBegin) (j : Job) (s : State) (hp : poisonIn s (p.countAddr.toNat / 32 * 32) 32 = none)
    (ht : training s p.countAddr.toNat = false) :
    runLoopBegin p j s =
      let v := word s p.countAddr.toNat
      let n := min v p.maxTrip.toNat
      if 4 ≤ (ringOf s j.ring).loops.length then ends s (fails BAD_STATE 0)
      else if n = 0 then
        ends (modRing s j.ring (fun r => { r with passOver := some (.zeroTrip 0) })) (done (min v 0xFFFFFFFF))
      else
        ends (modRing s j.ring (fun r => { r with loops := ⟨j.off, j.next, 0, n, decide (p.maxTrip.toNat < v)⟩ :: r.loops }))
          (done (min v 0xFFFFFFFF)) := by
  simp only [runLoopBegin, hp, ht, Bool.false_eq_true, if_false]
  split
  · rfl
  · split
    · rfl
    · rfl

/-- Settles O7: each packet's run, case by case, at a word that can be read. -/
theorem skipsAndLoopsControlTheRing : Obligations.SkipsAndLoopsControlTheRing := by
  refine ⟨⟨?nop, ?skip⟩, ?begin, ?loopEnd⟩
  case nop => exact fun h s ha => exec_of_run_ends (exec_nop h s) ha rfl
  case skip =>
    intro h p s i pre a j ha hp ht
    have hr := runSkipIf_readable p j (begun s i) (by rwa [poisonIn_begun]) (by rwa [training_begun])
    rw [word_begun] at hr
    refine ⟨fun hc => ?_, fun hc => ?_⟩
    · exact exec_of_run_waits (exec_skipIf h p s) ha (hr.trans (if_pos hc))
    · exact exec_of_run_ends (exec_skipIf h p s) ha (hr.trans (if_neg (by rw [hc]; exact Bool.false_ne_true)))
  case begin =>
    intro h p s i pre a v n j ha hp ht
    have hr := runLoopBegin_readable p j (begun s i) (by rwa [poisonIn_begun]) (by rwa [training_begun])
    have hl : (ringOf (begun s i) j.ring).loops = (ringOf s (ringKey h)).loops := loops_begun s i
    rw [word_begun, hl] at hr
    refine ⟨fun h4 => ?_, fun h4 h0 => ?_, fun h4 h0 => ?_⟩
    · exact exec_of_run_ends (exec_loopBegin h p s) ha (hr.trans (if_pos h4))
    · exact exec_of_run_ends (exec_loopBegin h p s) ha (hr.trans ((if_neg (by omega)).trans (if_pos h0)))
    · exact exec_of_run_ends (exec_loopBegin h p s) ha (hr.trans ((if_neg (by omega)).trans (if_neg h0)))
  case loopEnd =>
    intro h s i pre r ha
    have hl : (ringOf (begun s i) (jobFor s pre i).ring).loops = r.loops := loops_begun s i
    refine ⟨fun h0 => ?_, fun l ls h1 hc => ?_, fun l ls h1 hc => ?_⟩
    · exact exec_of_run_ends (exec_loopEnd h s) ha (by simp only [runLoopEnd, hl, h0])
    · exact exec_of_run_ends (exec_loopEnd h s) ha (by simp only [runLoopEnd, hl, h1, if_pos hc]; rfl)
    · exact exec_of_run_ends (exec_loopEnd h s) ha (by simp only [runLoopEnd, hl, h1, if_neg hc]; rfl)

/-! ## SIG_SET and SIG_ADD (10 R275, R277) -/

theorem exec_sigSet (h : Hdr) (p : PSig) (s : State) :
    exec (.sigSet h p) s = .next (issue (preSig h p s) (runSigSet p) (.sigSet h p) s) := rfl

theorem exec_sigAdd (h : Hdr) (p : PSig) (s : State) :
    exec (.sigAdd h p) s = .next (issue (preSig h p s) (runSigAdd p) (.sigAdd h p) s) := rfl

/-- SIG_ADD, or SIG_SET. -/
def sigInstr (add : Bool) (h : Hdr) (p : PSig) : Instr := if add then .sigAdd h p else .sigSet h p

/-- What either makes of the word's old value. -/
def sigValue (add : Bool) (p : PSig) (old : Nat) : Nat := if add then old + p.value.toNat else p.value.toNat

@[simp] theorem hdrOf_sigInstr (add : Bool) (h : Hdr) (p : PSig) : hdrOf (sigInstr add h p) = h := by cases add <;> rfl

theorem exec_sigInstr (add : Bool) (h : Hdr) (p : PSig) (s : State) :
    exec (sigInstr add h p) s =
      .next (issue (preSig h p s) (runSignal (sigValue add p) p.addr.toNat) (sigInstr add h p) s) := by
  cases add <;> rfl

theorem runSignal_poisoned {f : Nat → Nat} {a : Nat} {j : Job} {s : State} {ch : Nat} (hp : poisonIn s (a / 32 * 32) 32 = some ch) :
    runSignal f a j s = ends s (fails MEMORY_POISONED ch) := by
  simp only [runSignal, hp]

theorem runSignal_stores {f : Nat → Nat} {a : Nat} {j : Job} {s : State} (hp : poisonIn s (a / 32 * 32) 32 = none)
    (ht : training s a = false) :
    runSignal f a j s =
      ends (storeNow s (whoOf j) a (leBytes 8 (f (word s a) % 2 ^ 64))) (done (f (word s a) % 2 ^ 64 % 2 ^ 32)) := by
  simp only [runSignal, hp, ht, Bool.false_eq_true, if_false]

theorem runSignal_parks {f : Nat → Nat} {a : Nat} {j : Job} {s : State} (hp : poisonIn s (a / 32 * 32) 32 = none)
    (ht : training s a = true) : runSignal f a j s = waits s .parked := by
  simp only [runSignal, hp, ht, if_true]

/-- The state after the store of a signal packet that runs. -/
def signalled (add : Bool) (h : Hdr) (p : PSig) (s : State) : State :=
  storeNow (begun s (sigInstr add h p)) (whoOf (jobFor s (preSig h p s) (sigInstr add h p))) p.addr.toNat
    (leBytes 8 (sigValue add p (word s p.addr.toNat) % 2 ^ 64))

theorem exec_sigInstr_stores (add : Bool) (h : Hdr) (p : PSig) (s : State) (ha : Accepts s (preSig h p s) (sigInstr add h p))
    (ht : training s p.addr.toNat = false) (hp : poisonIn s (p.addr.toNat / 32 * 32) 32 = none) :
    exec (sigInstr add h p) s = .next (replied s (preSig h p s) (sigInstr add h p) (signalled add h p s)
      (done (sigValue add p (word s p.addr.toNat) % 2 ^ 64 % 2 ^ 32))) := by
  have hr := runSignal_stores (f := sigValue add p) (j := jobFor s (preSig h p s) (sigInstr add h p))
    (s := begun s (sigInstr add h p)) (by rwa [poisonIn_begun]) (by rwa [training_begun])
  rw [word_begun] at hr
  exact exec_of_run_ends (exec_sigInstr add h p s) ha hr

theorem exec_sigInstr_poisoned (add : Bool) (h : Hdr) (p : PSig) (s : State) (ch : Nat)
    (ha : Accepts s (preSig h p s) (sigInstr add h p)) (hp : poisonIn s (p.addr.toNat / 32 * 32) 32 = some ch) :
    exec (sigInstr add h p) s =
      .next (replied s (preSig h p s) (sigInstr add h p) (begun s (sigInstr add h p)) (fails MEMORY_POISONED ch)) :=
  exec_of_run_ends (exec_sigInstr add h p s) ha (runSignal_poisoned (by rwa [poisonIn_begun]))

/-- A device on which die 0's first channel trains and a command of another ring has ended and awaits its reply. -/
def endedWhileTraining : State :=
  { Tests.base with
    mem := { chans := [(0xB0000000, { training := true })], sides := [(0xA0000000, { retraining := some 0 })] }
    gz := { Tests.base.gz with
      nextJob := 1
      jobs := [{ newJob Tests.base 5 { unit := 0 } (.nop Tests.hd) 0 0 with phase := .ending (done 0) }] } }

/-- Refutes O8: its last clause has a packet that parks leave every other command in flight, and so also one that has ended and awaits
its reply; but each command's end writes such replies (`settle`). SIG_SET at a channel that trains, with an ended command in flight,
leaves one command in flight where the clause has two. -/
theorem not_signalPacketsWriteTheWord : ¬ Obligations.SignalPacketsWriteTheWord := by
  intro h
  obtain ⟨-, -, hadd⟩ := h Tests.hd Tests.sg endedWhileTraining
  have hx := (hadd false).2 (by decide +kernel) (by decide +kernel) (by decide +kernel)
  have hn := congrArg (fun o => (Tests.got o).gz.jobs.length) hx
  exact absurd hn (by decide +kernel)

end Sys2Proof.Proofs
end

section
/-! PROOFS. What signal packets leave alone, refused packets, signal operations of other agents, control-block writes, and
MM_PARTITION (02 R38-R45, R55; 04 R98; 10 R275-R277). -/

namespace Sys2Proof.Proofs

open Sys2Proof.Machine Sys2Proof.Laws

/-! ## The frame of SIG_SET and SIG_ADD -/

theorem calm_begun {s : State} (i : Instr) (hi : Idle s) (hm : Memory.wf s.mem.cells = true) (hw : s.sig.waiters = []) :
    Calm (begun s i) [] := by
  refine ⟨?_, ?_, ?_⟩
  · rw [(begun_frame s i).2.2.2.2.2.2.2.2.2.2.2.2.2.2.2.2.2.2.2.1]; exact hi
  · simpa using hm
  · simpa using hw

theorem calm_storeNow {s : State} {js : List Job} (w : Who) (a : Nat) (bs : List Byte) (h : Calm s js) :
    Calm (storeNow s w a bs) js := by
  obtain ⟨hj, hm, hw⟩ := h
  obtain ⟨hg, hw'⟩ := storeNow_calm s w a bs hw
  exact ⟨by rw [hg, hj], storeNow_wf s w a bs hm, hw'⟩

/-- A state that differs from another in what a run on memory may touch: what a store may, and counters. -/
def RunOnly (s t : State) : Prop :=
  ∃ m g d js k, t = { s with mem := m, sig := g, drv := d, gz := { s.gz with jobs := js }, hw := { s.hw with counters := k } }

theorem StoreOnly.runOnly {s t : State} (h : StoreOnly s t) : RunOnly s t := by
  obtain ⟨_, _, _, _, rfl⟩ := h
  exact ⟨_, _, _, _, _, rfl⟩

theorem RunOnly.refl (s : State) : RunOnly s s := (StoreOnly.refl s).runOnly

theorem RunOnly.trans {s t u : State} (h : RunOnly s t) (k : RunOnly t u) : RunOnly s u := by
  obtain ⟨_, _, _, _, _, rfl⟩ := h
  obtain ⟨_, _, _, _, _, rfl⟩ := k
  exact ⟨_, _, _, _, _, rfl⟩

theorem ringOf_runOnly {s t : State} (h : RunOnly s t) (k : Nat) : ringOf t k = ringOf s k := by
  obtain ⟨_, _, _, _, _, rfl⟩ := h
  rfl

/-- What a run on memory leaves alone, field by field. -/
theorem RunOnly.frame {s t : State} (h : RunOnly s t) :
    t.pending = s.pending ∧ t.now = s.now ∧ t.free = s.free ∧ t.mod = s.mod ∧ t.mm = s.mm ∧ t.ws = s.ws ∧ t.dir = s.dir ∧
    t.cf = s.cf ∧ t.ver = s.ver ∧ t.dma = s.dma ∧ t.chains = s.chains ∧ t.link = s.link ∧ t.grp = s.grp ∧ t.tr = s.tr ∧
    t.snap = s.snap ∧ t.flash = s.flash ∧ t.net = s.net ∧ t.gz.ctxs = s.gz.ctxs ∧ t.gz.rings = s.gz.rings ∧
    t.hw.items = s.hw.items ∧ t.hw.health = s.hw.health ∧ t.hw.dies = s.hw.dies ∧ t.hw.wdog = s.hw.wdog := by
  obtain ⟨_, _, _, _, _, rfl⟩ := h
  simp

/-- The reply slot of a packet is the same where it begins. -/
theorem replyWrites_of_runOnly {s t : State} {pre : Pre} {i : Instr} (h : RunOnly (begun s i) t) :
    replyWrites t (jobFor s pre i) = replyWrites s (jobFor s pre i) := by
  have hr : ringOf t (jobFor s pre i).ring =
      { ringOf s (jobFor s pre i).ring with reserved := (ringOf s (jobFor s pre i).ring).reserved + 1 } := by
    rw [ringOf_runOnly h, ringOf_begun]
    exact if_pos rfl
  simp only [replyWrites, hr]

/-- The frame of a packet that runs on memory alone and that ends at once, on a device where nothing else goes on. -/
theorem replied_frame_of_runOnly {s t : State} {pre : Pre} {i : Instr} {e : End} (hst : RunOnly (begun s i) t) (hc : Calm t [])
    (he : endPoints e = 0) :
    let u := replied s pre i t e
    MemSame t u (replyWrites s (jobFor s pre i)) ∧ SameEngines s u ∧ SameModule s u ∧ SameUnits s u ∧
      SameRings s u (ringKey (hdrOf i)) := by
  obtain ⟨hmem, ⟨hmm, hws, hcf, hdir, hver, hdma, hch⟩, ⟨hlink, hgrp, htr, hfl, hmod, hsn, hne⟩, ⟨hit, hhe, hdi, hwd, hpe, hno⟩, hrings,
    -⟩ := replyFrame s pre i t e hc he
  obtain ⟨tpe, tno, -, tmod, tmm, tws, tdir, tcf, tver, tdma, tch, tlink, tgrp, ttr, tsn, tfl, tne, tcx, -, tit, the, tdi, twd⟩ :=
    hst.frame
  rw [replyWrites_of_runOnly hst] at hmem
  refine ⟨hmem, ?_, ?_, ?_, fun k hk => ?_, fun c hk => ?_⟩
  · exact ⟨by simp [hmm, tmm], by simp [hws, tws], by simp [hcf, tcf], by simp [hdir, tdir], by simp [hver, tver],
      by simp [hdma, tdma], by simp [hch, tch]⟩
  · exact ⟨by simp [hlink, tlink], by simp [hgrp, tgrp], by simp [htr, ttr], by simp [hfl, tfl], by simp [hmod, tmod],
      by simp [hsn, tsn], by simp [hne, tne]⟩
  · exact ⟨by simp [hit, tit], by simp [hhe, the], by simp [hdi, tdi], by simp [hwd, twd], by simp [hpe, tpe], by simp [hno, tno]⟩
  · rw [hrings.1 k hk, ringOf_runOnly hst, ringOf_begun, if_neg hk]
  · rw [hrings.2 c hk, ctxOf, tcx, ← ctxOf, ctxOf_begun]

/-- Settles O9: a signal packet that runs is answered after at most one store to its word, and `replyFrame` gives the rest. -/
theorem signalPacketsFrame : Obligations.SignalPacketsFrame := by
  intro h p add s t i key r a hi hm hw ha ht hx
  have hi' : i = sigInstr add h p := rfl
  rw [hi'] at ha hx
  have hc := calm_begun (sigInstr add h p) hi hm hw
  obtain ⟨b, e, hst, hb, he, hby, rfl⟩ : ∃ b e, StoreOnly (begun s (sigInstr add h p)) b ∧ Calm b [] ∧ endPoints e = 0 ∧
      (∀ x, ¬(p.addr.toNat ≤ x ∧ x < p.addr.toNat + 8) → byteAt b x = byteAt s x) ∧
      t = replied s (preSig h p s) (sigInstr add h p) b e := by
    cases hp : poisonIn s (p.addr.toNat / 32 * 32) 32 with
    | some ch =>
      rw [exec_sigInstr_poisoned add h p s ch ha hp] at hx
      exact ⟨_, _, .refl _, hc, rfl, fun x _ => byteAt_begun s _ x, (Host.Outcome.next.inj hx).symm⟩
    | none =>
      rw [exec_sigInstr_stores add h p s ha ht hp] at hx
      refine ⟨_, _, storeNow_storeOnly .., calm_storeNow _ _ _ hc, rfl, fun x hx => ?_, (Host.Outcome.next.inj hx).symm⟩
      rw [byteAt_storeNow _ _ _ _ _ hc.2.1, leBytes_length, if_neg hx, byteAt_begun]
  obtain ⟨hmem, ⟨hmm, hws, hcf, hdir, hver, hdma, hch⟩, ⟨hlink, hgrp, htr, hfl, hmod, -, -⟩, ⟨hit, hhe, -, -, hpe, -⟩, hri, hcx⟩ :=
    replied_frame_of_runOnly (pre := preSig h p s) hst.runOnly hb he
  rw [hdrOf_sigInstr] at hri hcx
  refine ⟨fun x h1 h2 h3 => (hmem x ?_).trans (hby x h1), hri, hcx, fun u it => by simp only [item, hit],
    fun u => by simp only [health, hhe], hmm, hws, hcf, hver, hdma, hch, hlink, hgrp, htr, hdir, hmod, hfl, hpe⟩
  intro w hw
  simp only [replyWrites, jobFor, newJob, hdrOf_sigInstr] at hw
  rcases List.mem_cons.1 hw with rfl | hw
  · exact h2
  · split at hw
    · simp at hw
    · rw [List.mem_singleton.1 hw]; exact h3

/-! ## A refused signal packet (02 R45) -/

/-- The state after a packet's refusal is answered (02 R45, R51): its reply, its count, and DONE_VALUE. -/
def refused (h : Hdr) (key : Nat) (e : End) (s : State) : State :=
  let s := writeReply s key (replyBytes h.seq.toNat (ringOrigin s (key / 256) (key % 256)) 0 e)
  let s := count s (ringCore s key) 0x18 1
  writeDone s key s.gz.nextJob h

/-- A signal packet's refusal is not ledgered. -/
theorem reject_sigInstr (add : Bool) (h : Hdr) (p : PSig) (key : Nat) (e : End) (s : State) :
    reject (sigInstr add h p) key e s = refused h key e s := by
  unfold reject rejectNote refused
  cases add <;> simp [sigInstr, hdrOf]

section Refused

variable (h : Hdr) (key : Nat) (e : End) (s : State)

/-- The state between a refusal's reply and its DONE_VALUE. -/
def refusalReplied : State :=
  let s := writeReply s key (replyBytes h.seq.toNat (ringOrigin s (key / 256) (key % 256)) 0 e)
  count s (ringCore s key) 0x18 1

theorem refusalReplied_mem :
    (refusalReplied h key e s).mem =
      (storeNow s ⟨ringCore s key, ringOrigin s (key / 256) (key % 256), key / 256, 0, key⟩
        ((ringOf s key).replyBase + (ringOf s key).replyTail)
        (replyBytes h.seq.toNat (ringOrigin s (key / 256) (key % 256)) 0 e)).mem := rfl

variable (hm : Memory.wf s.mem.cells = true) (hw : s.sig.waiters = [])

include hm in
theorem refusalReplied_wf : Memory.wf (refusalReplied h key e s).mem.cells = true := by
  rw [refusalReplied_mem]
  exact storeNow_wf _ _ _ _ hm

include hm in
theorem byteAt_refusalReplied (x : Nat) :
    byteAt (refusalReplied h key e s) x =
      let a := (ringOf s key).replyBase + (ringOf s key).replyTail
      if a ≤ x ∧ x < a + 32 then
        (replyBytes h.seq.toNat (ringOrigin s (key / 256) (key % 256)) 0 e).getD (x - a) 0
      else byteAt s x := by
  rw [byteAt_congr (congrArg _ (refusalReplied_mem h key e s)) (congrArg _ (refusalReplied_mem h key e s)),
    byteAt_storeNow _ _ _ _ _ hm, replyBytes_length]

include hm in
/-- A refusal writes no byte but its reply slot and the DONE_ADDR word. -/
theorem byteAt_refused (x : Nat)
    (h1 : ¬((ringOf s key).replyBase + (ringOf s key).replyTail ≤ x ∧ x < (ringOf s key).replyBase + (ringOf s key).replyTail + 32))
    (h2 : ¬(h.doneAddr.toNat ≤ x ∧ x < h.doneAddr.toNat + 8)) : byteAt (refused h key e s) x = byteAt s x :=
  (byteAt_writeDone _ _ _ _ x (refusalReplied_wf h key e s hm) fun _ => h2).trans
    ((byteAt_refusalReplied h key e s hm x).trans (if_neg h1))

include hm in
theorem bytesAt_refused (h0 : h.doneAddr = 0) :
    bytesAt (refused h key e s) ((ringOf s key).replyBase + (ringOf s key).replyTail) 32 =
      replyBytes h.seq.toNat (ringOrigin s (key / 256) (key % 256)) 0 e := by
  have hd : refused h key e s = refusalReplied h key e s := writeDone_of_no_addr _ _ _ _ h0
  have hb := bytesAt_eq_of_getD (s := refused h key e s)
    (a := (ringOf s key).replyBase + (ringOf s key).replyTail)
    (bs := replyBytes h.seq.toNat (ringOrigin s (key / 256) (key % 256)) 0 e) fun k hk => by
      rw [replyBytes_length] at hk
      rw [hd, byteAt_refusalReplied h key e s hm]
      dsimp only
      rw [if_pos ⟨by omega, by omega⟩, Nat.add_sub_cancel_left]
  rwa [replyBytes_length] at hb

theorem ringOf_refused :
    (ringOf (refused h key e s) key).replyTail = ((ringOf s key).replyTail + 32) % replySize (ringOf s key) := by
  obtain ⟨t, ht, hr⟩ := writeReply_storeOnly s key (replyBytes h.seq.toNat (ringOrigin s (key / 256) (key % 256)) 0 e)
  have hring : ringOf (refused h key e s) key = ringOf (writeReply s key
      (replyBytes h.seq.toNat (ringOrigin s (key / 256) (key % 256)) 0 e)) key :=
    ringOf_storeOnly (writeDone_storeOnly ..) key
  rw [hring, hr, ringOf_modRing, if_pos rfl, ringOf_storeOnly ht]

include hw in
theorem refused_jobs : (refused h key e s).gz.jobs = s.gz.jobs := by
  obtain ⟨hg, hw'⟩ := storeNow_calm s ⟨ringCore s key, ringOrigin s (key / 256) (key % 256), key / 256, 0, key⟩
    ((ringOf s key).replyBase + (ringOf s key).replyTail)
    (replyBytes h.seq.toNat (ringOrigin s (key / 256) (key % 256)) 0 e) hw
  obtain ⟨_, _, _, hd⟩ := writeDone_calmOnly (refusalReplied h key e s) key (refusalReplied h key e s).gz.nextJob h hw'
  have hj : (refused h key e s).gz.jobs = (refusalReplied h key e s).gz.jobs :=
    congrArg (fun t => t.gz.jobs) hd
  have hs := congrArg GelozSt.jobs hg
  exact hj.trans hs

end Refused

/-- Settles O5: the refused packet's reply, then DONE_VALUE where it may be written. -/
theorem rejectedPacketStoresNothingElse : Obligations.RejectedPacketStoresNothingElse := by
  intro h p add s t e i key r a hi hm hw ho hp hs he hx
  have hi' : i = sigInstr add h p := rfl
  rw [hi'] at he hx
  have hk : ringKey (hdrOf (sigInstr add h p)) = key := by rw [hdrOf_sigInstr]
  have harr := arrive_rejected s (preSig h p s) (runSignal (sigValue add p) p.addr.toNat) (sigInstr add h p) e
    (by rwa [hk]) (by rwa [hk]) (by rwa [hk]) (by rwa [hk])
  rw [hk, reject_sigInstr] at harr
  rw [exec_sigInstr, issue, harr] at hx
  obtain rfl := Host.Outcome.next.inj hx
  have hcm : Memory.wf (count s (ringCore s key) 0x10 1).mem.cells = true := hm
  have hidle : Idle (refused h key e (count s (ringCore s key) 0x10 1)) :=
    (refused_jobs h key e (count s (ringCore s key) 0x10 1) hw).trans hi
  rw [settle_idle _ hidle]
  refine ⟨fun x h1 h2 => ?_, fun h0 => ?_, ?_⟩
  · exact byteAt_refused h key e (count s (ringCore s key) 0x10 1) hcm x h1 h2
  · exact bytesAt_refused h key e (count s (ringCore s key) 0x10 1) hcm h0
  · exact ringOf_refused h key e (count s (ringCore s key) 0x10 1)

/-! ## Signal operations of other agents (10 R275, R276) -/

theorem applySignal_of_not_poisoned (s : State) (w : Who) (a : Nat) (op : SigOp) (hp : poisonIn s (a / 32 * 32) 32 = none) :
    applySignal s w a op =
      storeNow s w a (leBytes 8 (match op with | .store v => v.toNat | .add v => (word s a + v.toNat) % 2 ^ 64)) := by
  unfold applySignal sigStore
  rw [hp]
  rfl

/-- Settles O10: the check decides; what passes is one store. -/
theorem signalsOfOtherAgents : Obligations.SignalsOfOtherAgents := by
  refine ⟨?agent, ?peer⟩
  case agent =>
    intro w addr op s a c v hi hw
    have hx : exec (.signalOperation w addr op) s = .next (settle (
      if signalOk s a && (access s c w.unit.toNat a 8 pWrite).isNone then
        applySignal s ⟨w.unit.toNat, w.origin.toNat, c, s.gz.nextJob, 256 * c⟩ a op
      else s)) := rfl
    refine ⟨fun ho ha hp => ?_, fun ha => ?_⟩
    · have hidle := (storeNow_calm s ⟨w.unit.toNat, w.origin.toNat, c, s.gz.nextJob, 256 * c⟩ a (leBytes 8 v) hw).1
      rw [hx, ho, ha, Option.isNone_none, Bool.and_self, if_pos rfl, applySignal_of_not_poisoned _ _ _ _ hp]
      exact congrArg _ (settle_idle _ ((congrArg GelozSt.jobs hidle).trans hi))
    · have hn : (access s c w.unit.toNat a 8 pWrite).isNone = false := by
        rw [Option.isNone_eq_false_iff, Option.isSome_iff_ne_none]
        exact ha
      rw [hx, hn, Bool.and_false, if_neg Bool.false_ne_true, settle_idle _ hi]
  case peer =>
    intro port pos ctx addr op s a c d v ok hi hw hp
    have hx : exec (.peerSignalOperation port pos ctx addr op) s = .next (settle (send
      (if ok then applySignal s ⟨port.toNat, 0xA000 + pos.toNat, c, s.gz.nextJob, 256 * c⟩ a op
        else event (count s d 0x10 1) d 0x0003 0 1) (.sigAck port.toNat pos.toNat (!ok)))) := rfl
    refine ⟨fun ho => ?_, fun ho => ?_⟩
    · rw [hx, ho, if_pos rfl, applySignal_of_not_poisoned _ _ _ _ hp]
      rfl
    · rw [hx, ho, if_neg Bool.false_ne_true]
      rfl

/-! ## Control blocks (02 R38-R43) -/

theorem quiet_modRing {s : State} (h : Quiet s) (key : Nat) (f : Ring → Ring) : Quiet (modRing s key f) := by
  have key' : ∀ js, firstEnded (modRing s key f) js = firstEnded s js := by
    intro js
    induction js with
    | nil => rfl
    | cons j js ih =>
      unfold firstEnded
      rw [show ended (modRing s key f) j = ended s j from rfl, ih]
  exact (key' _).trans h

section Guard

variable {a : Agent} {c key : Nat} {f : Ring → Option Ring} {s : State} (hq : Quiet s) (he : ringExists s key = true)
  (hc : (ringOf s key).state ≠ .closed)

include he hc in
/-- A write that reaches a ring which is open for writes either sets the ring or counts as bad. -/
theorem guardWrite_open :
    guardWrite a c key f s = if mayWrite (ringOf s key) c a then
      (match f (ringOf s key) with | some r => modRing s key (fun _ => r) | none => badWrite s key) else badWrite s key := by
  have hb : ((ringOf s key).state == RingState.closed) = false := beq_eq_false_iff_ne.mpr hc
  unfold guardWrite
  simp only [he, hb, Bool.not_true, Bool.or_false, Bool.false_eq_true, if_false]
  cases mayWrite (ringOf s key) c a <;> rfl

include hq he hc

theorem settle_guardWrite_refused (h : mayWrite (ringOf s key) c a = false ∨ f (ringOf s key) = none) :
    settle (guardWrite a c key f s) = passed (badWrite s key) := by
  have hg : guardWrite a c key f s = badWrite s key := by
    rw [guardWrite_open he hc]
    rcases h with h | h
    · rw [h, if_neg Bool.false_ne_true]
    · rw [h]
      exact ite_self _
  rw [hg]
  exact settle_quiet _ (quiet_modRing hq key _)

theorem settle_guardWrite_accepted {r : Ring} (hm : mayWrite (ringOf s key) c a = true) (h : f (ringOf s key) = some r) :
    settle (guardWrite a c key f s) = passed (modRing s key (fun _ => r)) := by
  rw [guardWrite_open he hc, hm, if_pos rfl, h]
  exact settle_quiet _ (quiet_modRing hq key _)

end Guard

/-- A ring is set to what a function of it gives. -/
theorem modRing_const (s : State) (key : Nat) (f : Ring → Ring) : modRing s key (fun _ => f (ringOf s key)) = modRing s key f := rfl

theorem bits_low24 (v : Word32) : bits v.toNat 0 24 = (v.setWidth 24).toNat := by
  simp [bits, BitVec.toNat_setWidth]

theorem bit31_of_lt (v : Word32) (h : v.toNat < 2 ^ 31) : bit v.toNat 31 = false := by
  simp only [bit, decide_eq_false_iff_not]
  omega

theorem bit31_of_ge (v : Word32) (h : 2 ^ 31 ≤ v.toNat) : bit v.toNat 31 = true := by
  have := v.isLt
  simp only [bit, decide_eq_true_eq]
  omega

/-- A write of the block's first word is CMD_TAIL's own write, with or without RESTART (02 R39). -/
theorem exec_controlBlockWrite_tail (a : Agent) (ctx ring : Byte) (v : Word32) (s : State) :
    exec (.controlBlockWrite a ctx ring 0 v) s =
      if bit v.toNat 31 then exec (.ringRestart a ctx ring (v.setWidth 24)) s else exec (.cmdTail a ctx ring (v.setWidth 24)) s := by
  cases hb : bit v.toNat 31 <;>
    simp [exec, execControlBlockWrite, execRingRestart, execCmdTail, hb, bits_low24]

/-- Settles O13: each write through the guard of the control block. -/
theorem controlBlockWrites : Obligations.ControlBlockWrites := by
  refine ⟨?commands, ?replies⟩
  case commands =>
    intro a ctx ring tail s key r t bad hq he hc
    refine ⟨fun hm ht => ?_, fun h => ?_, fun hm hi h16 hlt => ?_, fun h => ?_⟩
    · exact congrArg _ (settle_guardWrite_accepted (f := doorbell t) hq he hc hm (if_pos ht))
    · refine congrArg _ (settle_guardWrite_refused (f := doorbell t) hq he hc (h.imp id fun ht => if_neg ?_))
      rw [ht]
      exact Bool.false_ne_true
    · refine congrArg _ (settle_guardWrite_accepted (f := restart (ringIdle s key) t) hq he hc hm (if_pos ?_))
      have hlt' : t < ringSize (ringOf s key) := hlt
      rcases hi with hi | hi
      · simp [hi, h16, hlt']
      · simp [show (ringOf s key).state = .stopped from hi, h16, hlt']
    · refine congrArg _ (settle_guardWrite_refused (f := restart (ringIdle s key) t) hq he hc (h.imp id fun h => if_neg ?_))
      simp only [Bool.and_eq_true, Bool.or_eq_true, beq_iff_eq, decide_eq_true_eq]
      rintro ⟨⟨hi, h16⟩, hlt⟩
      rcases h with ⟨h1, h2⟩ | h | h
      · rcases hi with hi | hi
        · rw [h1] at hi; exact Bool.false_ne_true hi
        · exact h2 hi
      · exact h h16
      · exact absurd hlt (Nat.not_lt.mpr h)
  case replies =>
    intro a ctx ring s key r n bad hq he hc
    refine ⟨fun head hm h32 hlt hle => ?_, fun head h => ?_, fun v => ⟨?_, ?_⟩, fun v hv => ?_, fun v hv => ?_, fun v => ?_⟩
    · refine congrArg _ (settle_guardWrite_accepted (f := consume head.toNat) hq he hc hm (if_pos ?_))
      simp only [Bool.and_eq_true, decide_eq_true_eq]
      exact ⟨⟨h32, hlt⟩, hle⟩
    · refine congrArg _ (settle_guardWrite_refused (f := consume head.toNat) hq he hc (.inr (if_neg ?_)))
      simp only [Bool.and_eq_true, decide_eq_true_eq]
      rintro ⟨⟨h32, hlt⟩, -⟩
      rcases h with h | h
      · exact h h32
      · exact absurd hlt (Nat.not_lt.mpr h)
    · exact congrArg _ (settle_guardWrite_refused (f := fun _ => none) hq he hc (.inr rfl))
    · exact congrArg _ (settle_guardWrite_refused (f := fun _ => none) hq he hc (.inr rfl))
    · rw [exec_controlBlockWrite_tail, bit31_of_lt v hv, if_neg Bool.false_ne_true]
    · rw [exec_controlBlockWrite_tail, bit31_of_ge v hv, if_pos rfl]
    · simp [exec, execControlBlockWrite, execReplyHead, bits_low24]

/-! ## MM_PARTITION (02 R55, 04 R98) -/

theorem exec_mmPartition (h : Hdr) (p : PMmPartition) (s : State) :
    exec (.mmPartition h p) s = .next (issue (prePartition p) (runMmPartition p) (.mmPartition h p) s) := rfl

theorem granted_begun (s : State) (i : Instr) (c u : Nat) : granted (begun s i) c u = granted s c u := by
  simp only [granted, ctxOf_begun]

theorem primaryHolder_begun (s : State) (i : Instr) (u : Nat) : primaryHolder (begun s i) u = primaryHolder s u := by
  simp only [primaryHolder, begun_frame, granted_begun]

/-- Settles O17: the three ends of MM_PARTITION. -/
theorem partitionSetsTheShape : Obligations.PartitionSetsTheShape := by
  intro h p s i pre b u c ha
  have hp : primaryHolder b u = primaryHolder s u := primaryHolder_begun s i u
  have hmm : b.mm = s.mm := by simp [b]
  have hidle : engineIdle b u = engineIdle s u := by simp only [engineIdle, engineOf, hmm]
  have hx := exec_mmPartition h p s
  refine ⟨fun hc hi => exec_of_run_ends hx ha ?_, fun hc => exec_of_run_ends hx ha ?_, fun hc hi => exec_of_run_ends hx ha ?_⟩
  all_goals
    have hr : (jobFor s pre i).ring / 256 = c := rfl
    simp only [runMmPartition]
    rw [show primaryHolder (begun s i) p.engine.toNat = primaryHolder s u from hp,
      show engineIdle (begun s i) p.engine.toNat = engineIdle s u from hidle, hr]
  · rw [if_neg (by simpa using hc), hi]
    have hs : shapeOf b u = shapeOf s u := by simp only [shapeOf, engineOf, hmm]
    have hm : modEngine b u (fun _ => { shape := p.shape.toNat, parts := [] }) =
        { b with mm := amPut s.mm u { shape := p.shape.toNat, parts := [] } } := by
      simp only [modEngine, amMod, hmm]
    rw [← hs, ← hm]
    rfl
  · rw [if_pos (by simpa using hc)]
  · rw [if_neg (by simpa using hc), hi]
    rfl

end Sys2Proof.Proofs
end

section
/-! PROOFS. MEM_ATOMIC (08 R235, R238, R239), with what the pre-parser's checks give an accepted packet and what counters leave
alone. -/

namespace Sys2Proof.Proofs

open Sys2Proof.Machine Sys2Proof.Laws

/-! ## What an accepted packet has passed (02 R45) -/

/-- A packet that passes the pre-parser has every field within range, every range allowed, and every limit met. -/
theorem preparse_none {s : State} {key : Nat} {pre : Pre} {i : Instr} (h : preparse s key pre i = none) :
    (∀ f ∈ pre.fields, f.2 = true) ∧ badRange s (key / 256) pre.unit pre.ranges = none ∧ (∀ l ∈ pre.limits, l.1 = true) := by
  unfold preparse preparseAt at h
  dsimp only at h
  split at h; · cases h
  split at h; · cases h
  split at h; · cases h
  split at h; · cases h
  split at h; · cases h
  split at h; · cases h
  split at h; · cases h
  rename_i hf
  split at h; · cases h
  split at h; · cases h
  split at h; · cases h
  rename_i hr
  refine ⟨?_, hr, ?_⟩
  · have hb : badField s (hdrOf i) pre = none := by
      cases hb : badField s (hdrOf i) pre with
      | none => rfl
      | some x => simp [hb] at hf
    unfold badField at hb
    dsimp only at hb
    split at hb
    · cases hb
    · rw [Option.map_eq_none_iff, List.find?_eq_none] at hb
      simpa using hb
  · rw [Option.map_eq_none_iff, List.find?_eq_none] at h
    simpa using h

theorem fields_of_accepts {s : State} {pre : Pre} {i : Instr} (h : Accepts s pre i) : ∀ f ∈ pre.fields, f.2 = true :=
  (preparse_none h.2.1).1

/-! ## Counters (15) -/

theorem addCounter_runOnly (s : State) (u n k : Nat) : RunOnly s (addCounter s u n k) := ⟨_, _, _, _, _, rfl⟩

theorem eventUpTo_runOnly (u code ctx k n : Nat) (s : State) : RunOnly s (eventUpTo u code ctx k n s) := by
  induction n generalizing s with
  | zero => exact .refl s
  | succ n ih =>
    unfold eventUpTo
    refine RunOnly.trans ?_ (ih _)
    split
    · exact addCounter_runOnly ..
    · exact .refl s

/-- All that an event changes: counters. -/
theorem event_eq (s : State) (u code ctx k : Nat) : ∃ c, event s u code ctx k = { s with hw := { s.hw with counters := c } } := by
  have up : ∀ n s, ∃ c, eventUpTo u code ctx k n s = { s with hw := { s.hw with counters := c } } := by
    intro n
    induction n with
    | zero => exact fun s => ⟨s.hw.counters, rfl⟩
    | succ n ih =>
      intro s
      unfold eventUpTo
      split
      · obtain ⟨c, h⟩ := ih (addCounter s u n k)
        exact ⟨c, h⟩
      · exact ih s
  unfold event
  split
  · exact ⟨s.hw.counters, rfl⟩
  · exact up 8 s

theorem event_runOnly (s : State) (u code ctx k : Nat) : RunOnly s (event s u code ctx k) := by
  obtain ⟨c, h⟩ := event_eq s u code ctx k
  rw [h]
  exact ⟨_, _, _, _, _, rfl⟩

theorem adderEvent_eq (s : State) (a c : Nat) (ev : ConvEvent) :
    ∃ k, adderEvent s a c ev = { s with hw := { s.hw with counters := k } } := by
  unfold adderEvent
  split
  · exact event_eq ..
  · exact event_eq ..
  · exact ⟨s.hw.counters, rfl⟩

theorem adderEvent_runOnly (s : State) (a c : Nat) (ev : ConvEvent) : RunOnly s (adderEvent s a c ev) := by
  obtain ⟨k, h⟩ := adderEvent_eq s a c ev
  rw [h]
  exact ⟨_, _, _, _, _, rfl⟩

@[simp] theorem adderEvent_plain (s : State) (a c : Nat) : adderEvent s a c .plain = s := by
  unfold adderEvent
  split
  · contradiction
  · contradiction
  · rfl

theorem calm_adderEvent {s : State} {js : List Job} (a c : Nat) (ev : ConvEvent) (h : Calm s js) : Calm (adderEvent s a c ev) js := by
  obtain ⟨k, he⟩ := adderEvent_eq s a c ev
  rw [he]
  exact h

theorem byteAt_adderEvent (s : State) (a c : Nat) (ev : ConvEvent) (x : Nat) : byteAt (adderEvent s a c ev) x = byteAt s x := by
  obtain ⟨k, he⟩ := adderEvent_eq s a c ev
  rw [he]
  rfl

theorem calm_storeLazy {s : State} {js : List Job} (w : Who) (a : Nat) (bs : List Byte) (h : Calm s js) :
    Calm (storeLazy s w a bs) js := by
  obtain ⟨hj, hm, hw⟩ := h
  obtain ⟨hg, hw'⟩ := storeLazy_calm s w a bs hw
  exact ⟨by rw [hg, hj], storeLazy_wf s w a bs hm, hw'⟩

/-! ## Memory without poison -/

/-- No block is poisoned, no granule left so, and no channel listed: every channel is in service and idle. -/
def Clean (s : State) : Prop := s.mem.poison = [] ∧ s.mem.kept = [] ∧ s.mem.chans = []

theorem Clean.poisonIn {s : State} (h : Clean s) (a n : Nat) : poisonIn s a n = none := by
  obtain ⟨hp, hk, hc⟩ := h
  unfold Sys2Proof.Machine.poisonIn poisonAddr
  rw [hp, hk, hc]
  split
  · rfl
  · split <;> simp

theorem Clean.partialPoison {s : State} (h : Clean s) (a n : Nat) : partialPoison s a n = none := by
  unfold Sys2Proof.Machine.partialPoison
  simp only [h.poisonIn, ite_self]

theorem training_of_no_chans {s : State} (h : s.mem.chans = []) (a : Nat) : training s a = false := by
  unfold training chan
  rw [h]
  split
  · rfl
  · rfl

theorem Clean.begun {s : State} (h : Clean s) (i : Instr) : Clean (begun s i) := by
  unfold Clean at h ⊢
  simpa using h

theorem Clean.storeLazy {s : State} (h : Clean s) (w : Who) (a : Nat) (bs : List Byte) : Clean (storeLazy s w a bs) := by
  obtain ⟨hp, hk, hc⟩ := h
  cases hb : bs.isEmpty with
  | true =>
    have hs : Sys2Proof.Machine.storeLazy s w a bs = s := by unfold Sys2Proof.Machine.storeLazy; rw [hb]; rfl
    rw [hs]
    exact ⟨hp, hk, hc⟩
  | false =>
    unfold Clean
    rw [storeLazy_mem s w a bs hb, hp, hk, hc]
    exact ⟨rfl, rfl, rfl⟩

/-! ## The effect of MEM_ATOMIC -/

theorem exec_memAtomic (h : Hdr) (p : PMemAtomic) (f : Faults) (s : State) :
    exec (.memAtomic h p f) s = .next (issue (preAtomic h p s) (runAtomic p f) (.memAtomic h p f) s) := rfl

/-- The store of what an operation writes, if it writes. -/
def storeSome (s : State) (w : Who) (a : Nat) : Option (List Byte) → State
  | some b => storeLazy s w a b
  | none => s

/-- The state after an operation's effect on its target. -/
def atomicStored (p : PMemAtomic) (j : Job) (s : State) : State :=
  let e := atomicEffect p (bytesAt s p.addr.toNat (atomicBytes p))
  adderEvent (storeSome s (whoOf j) p.addr.toNat e.1) p.addr.toNat (j.ring / 256) e.2.2

/-- MEM_ATOMIC without an injected fault, at a block that is well and a channel that does not train. -/
theorem runAtomic_well (p : PMemAtomic) (j : Job) (s : State) (hp : poisonIn s (p.addr.toNat / 32 * 32) 32 = none)
    (ht : training s p.addr.toNat = false) :
    runAtomic p {} j s =
      if p.resultAddr.toNat != 0 && (partialPoison (atomicStored p j s) p.resultAddr.toNat (atomicBytes p)).isSome then
        ends (atomicStored p j s)
          (fails MEMORY_POISONED ((partialPoison (atomicStored p j s) p.resultAddr.toNat (atomicBytes p)).getD 0))
      else
        ends (if p.resultAddr.toNat = 0 then atomicStored p j s
            else storeLazy (atomicStored p j s) (whoOf j) p.resultAddr.toNat (bytesAt s p.addr.toNat (atomicBytes p)))
          (doneChecked 1 1 0x78 (atomicEffect p (bytesAt s p.addr.toNat (atomicBytes p))).2.1) := by
  simp only [runAtomic, hp, ht, Bool.false_eq_true, if_false]
  rfl

theorem fld_whole (b : List Byte) : fld b 0 b.length = leNat b := by
  simpa using fld_append_zero b []

/-- The bytes that a target of one number spells. -/
theorem fld_bytesAt (s : State) (a n : Nat) : fld (bytesAt s a n) 0 n = leNat (bytesAt s a n) := by
  simpa using fld_whole (bytesAt s a n)

theorem atomicBytes_of_single (p : PMemAtomic) (h1 : p.op ≠ 1) (h2 : p.op ≠ 2) : atomicBytes p = atomicSize p.type.toNat := by
  simp only [atomicBytes, h1, h2, decide_false, Bool.or_self, Bool.false_eq_true, if_false]

section Effects

variable (p : PMemAtomic) (old : List Byte)

theorem atomicEffect_swap (h : p.op = 3) :
    atomicEffect p old =
      (some (leBytes (atomicSize p.type.toNat) (p.operand.toNat % 2 ^ (8 * atomicSize p.type.toNat))), 0, .plain) := by
  have ho : p.op.toNat = 3 := congrArg BitVec.toNat h
  simp only [atomicEffect, ho]

theorem atomicEffect_cas (h : p.op = 4) :
    atomicEffect p old =
      if fld old 0 (atomicSize p.type.toNat) = p.compare.toNat % 2 ^ (8 * atomicSize p.type.toNat) then
        (some (leBytes (atomicSize p.type.toNat) (p.operand.toNat % 2 ^ (8 * atomicSize p.type.toNat))), 1, .plain)
      else (none, 0, .plain) := by
  have ho : p.op.toNat = 4 := congrArg BitVec.toNat h
  simp only [atomicEffect, ho]

/-- An integer type's element has the bits of its bytes. -/
theorem typeElem_int (ty : Nat) (h : 3 ≤ ty) : typeElem ty = .int (8 * atomicSize ty) := by
  match ty, h with
  | 3, _ => rfl
  | n + 4, _ => rfl

theorem atomicEffect_add (h : p.op = 0) (ht : 3 ≤ p.type.toNat) :
    atomicEffect p old =
      (some (leBytes (atomicSize p.type.toNat) ((fld old 0 (atomicSize p.type.toNat) +
        p.operand.toNat % 2 ^ (8 * atomicSize p.type.toNat)) % 2 ^ (8 * atomicSize p.type.toNat))), 0, .plain) := by
  have ho : p.op.toNat = 0 := congrArg BitVec.toNat h
  simp only [atomicEffect, ho, typeElem_int _ ht, adderAdd]

theorem atomicSize_cases (ty : Nat) : atomicSize ty = 2 ∨ atomicSize ty = 4 ∨ atomicSize ty = 8 := by
  unfold atomicSize
  split <;> simp

/-- What an operation writes has the length of its target. -/
theorem atomicEffect_length (hop : p.op.toNat ≤ 4) (b : List Byte) (h : (atomicEffect p old).1 = some b) :
    b.length = atomicBytes p := by
  have single : p.op.toNat ≠ 1 → p.op.toNat ≠ 2 → atomicBytes p = atomicSize p.type.toNat := fun h1 h2 =>
    atomicBytes_of_single p (fun e => h1 (congrArg BitVec.toNat e)) (fun e => h2 (congrArg BitVec.toNat e))
  have pair : p.op.toNat = 1 ∨ p.op.toNat = 2 → atomicBytes p = if atomicSize p.type.toNat = 8 then 16 else 8 := by
    intro h
    have hp : (decide (p.op = 1) || decide (p.op = 2)) = true := by
      simpa using h.imp (fun e => BitVec.eq_of_toNat_eq e) (fun e => BitVec.eq_of_toNat_eq e)
    simp only [atomicBytes, hp, if_true]
  simp only [atomicEffect] at h
  split at h
  · next h0 =>
    rw [single (by omega) (by omega), ← Option.some.inj h, leBytes_length]
  · next h3 => rw [single (by omega) (by omega), ← Option.some.inj h, leBytes_length]
  · next h4 =>
    split at h
    · rw [single (by omega) (by omega), ← Option.some.inj h, leBytes_length]
    · cases h
  · next h0 h3 h4 =>
    have hb := pair (by
      have h0' : p.op.toNat ≠ 0 := h0
      have h3' : p.op.toNat ≠ 3 := h3
      have h4' : p.op.toNat ≠ 4 := h4
      omega)
    obtain ⟨io, hio⟩ : ∃ io, io = if atomicSize p.type.toNat = 8 then 8 else 4 := ⟨_, rfl⟩
    rw [← hio] at h
    split at h
    · rw [← Option.some.inj h, hb, hio]
      rcases atomicSize_cases p.type.toNat with hn | hn | hn <;> simp [hn]
    · cases h

end Effects

/-! ## The obligation -/

section Swaps

variable {h : Hdr} {p : PMemAtomic} {s : State}

/-- An accepted MEM_ATOMIC of a single number in clean memory: its effect, then the old bytes at RESULT_ADDR. -/
theorem exec_memAtomic_clean (ha : Accepts s (preAtomic h p s) (.memAtomic h p {})) (hc : Clean s) (h1 : p.op ≠ 1) (h2 : p.op ≠ 2) :
    let b := begun s (.memAtomic h p {})
    let j := jobFor s (preAtomic h p s) (.memAtomic h p {})
    let old := bytesAt s p.addr.toNat (atomicSize p.type.toNat)
    Clean (atomicStored p j b) →
    exec (.memAtomic h p {}) s =
      .next (replied s (preAtomic h p s) (.memAtomic h p {})
        (if p.resultAddr = 0 then atomicStored p j b else storeLazy (atomicStored p j b) (whoOf j) p.resultAddr.toNat old)
        (doneChecked 1 1 0x78 (atomicEffect p old).2.1)) := by
  intro b j old hcl
  have hn := atomicBytes_of_single p h1 h2
  have hr := runAtomic_well p j b (by rw [poisonIn_begun]; exact hc.poisonIn _ _)
    (by rw [training_begun]; exact training_of_no_chans hc.2.2 _)
  have hold : bytesAt b p.addr.toNat (atomicSize p.type.toNat) = old := bytesAt_congr fun x _ _ => byteAt_begun s _ x
  rw [hcl.partialPoison, Option.isSome_none, Bool.and_false, if_neg Bool.false_ne_true, hn, hold] at hr
  have hz : (p.resultAddr.toNat = 0) = (p.resultAddr = 0) :=
    propext ⟨fun e => BitVec.eq_of_toNat_eq e, fun e => congrArg BitVec.toNat e⟩
  simp only [hz] at hr
  exact exec_of_run_ends (exec_memAtomic h p {} s) ha hr

/-- The effect of an operation of one number, when it is of a plain kind. -/
theorem atomicStored_plain {i : Instr} {j : Job} (h1 : p.op ≠ 1) (h2 : p.op ≠ 2) {e : Option (List Byte)} {d : Nat}
    (he : atomicEffect p (bytesAt s p.addr.toNat (atomicSize p.type.toNat)) = (e, d, .plain)) :
    atomicStored p j (begun s i) = storeSome (begun s i) (whoOf j) p.addr.toNat e := by
  have hold : bytesAt (begun s i) p.addr.toNat (atomicSize p.type.toNat) = bytesAt s p.addr.toNat (atomicSize p.type.toNat) :=
    bytesAt_congr fun x _ _ => byteAt_begun s _ x
  unfold atomicStored
  rw [atomicBytes_of_single p h1 h2, hold, he]
  exact adderEvent_plain ..

/-- An accepted operation of one number and of a plain kind, in clean memory. -/
theorem exec_memAtomic_plain (ha : Accepts s (preAtomic h p s) (.memAtomic h p {})) (hc : Clean s) (h1 : p.op ≠ 1) (h2 : p.op ≠ 2)
    {e : Option (List Byte)} {d : Nat}
    (he : atomicEffect p (bytesAt s p.addr.toNat (atomicSize p.type.toNat)) = (e, d, .plain)) :
    let i : Instr := .memAtomic h p {}
    let w := whoOf (jobFor s (preAtomic h p s) i)
    let t := storeSome (begun s i) w p.addr.toNat e
    exec i s = .next (replied s (preAtomic h p s) i
      (if p.resultAddr = 0 then t else storeLazy t w p.resultAddr.toNat (bytesAt s p.addr.toNat (atomicSize p.type.toNat)))
      (doneChecked 1 1 0x78 d)) := by
  intro i w t
  have ht : atomicStored p (jobFor s (preAtomic h p s) i) (begun s i) = t := atomicStored_plain h1 h2 he
  have hcl : Clean t := by
    have hb := hc.begun i
    cases e with
    | none => exact hb
    | some bs => exact hb.storeLazy _ _ _
  have hx := exec_memAtomic_clean ha hc h1 h2 (by rw [ht]; exact hcl)
  rw [ht, he] at hx
  exact hx

end Swaps

/-- Every end that MEM_ATOMIC comes to without an injected fault, and the state that its run leaves. -/
theorem runAtomic_ends (p : PMemAtomic) (j : Job) (s : State) (hop : p.op.toNat ≤ 4) (ht : training s p.addr.toNat = false)
    (hc : Calm s []) :
    ∃ t e, runAtomic p {} j s = ends t e ∧ endPoints e = 0 ∧ RunOnly s t ∧ Calm t [] ∧
      MemSame s t [(p.addr.toNat, atomicBytes p), (p.resultAddr.toNat, if p.resultAddr = 0 then 0 else atomicBytes p)] := by
  cases hp : poisonIn s (p.addr.toNat / 32 * 32) 32 with
  | some ch => exact ⟨s, fails MEMORY_POISONED ch, by simp only [runAtomic, hp], rfl, .refl s, hc, fun _ _ => rfl⟩
  | none =>
    have hs : RunOnly s (atomicStored p j s) ∧ Calm (atomicStored p j s) [] ∧
        MemSame s (atomicStored p j s) [(p.addr.toNat, atomicBytes p)] := by
      unfold atomicStored
      dsimp only
      cases he : (atomicEffect p (bytesAt s p.addr.toNat (atomicBytes p))).1 with
      | none => exact ⟨adderEvent_runOnly .., calm_adderEvent _ _ _ hc, fun x _ => byteAt_adderEvent ..⟩
      | some b =>
        refine ⟨(storeLazy_storeOnly ..).runOnly.trans (adderEvent_runOnly ..), calm_adderEvent _ _ _ (calm_storeLazy _ _ _ hc),
          fun x hx => ?_⟩
        rw [byteAt_adderEvent, storeSome, byteAt_storeLazy _ _ _ _ _ hc.2.1, atomicEffect_length p _ hop b he]
        exact if_neg (hx _ List.mem_cons_self)
    obtain ⟨hro, hca, hms⟩ := hs
    have hms' : MemSame s (atomicStored p j s)
        [(p.addr.toNat, atomicBytes p), (p.resultAddr.toNat, if p.resultAddr = 0 then 0 else atomicBytes p)] :=
      fun x hx => hms x fun r hr => hx r (List.mem_cons.2 (.inl (List.mem_singleton.1 hr)))
    rw [runAtomic_well p j s hp ht]
    split
    · exact ⟨_, _, rfl, rfl, hro, hca, hms'⟩
    · refine ⟨_, _, rfl, rfl, ?_, ?_, ?_⟩
      · split
        · exact hro
        · exact hro.trans (storeLazy_storeOnly ..).runOnly
      · split
        · exact hca
        · exact calm_storeLazy _ _ _ hca
      · split
        · exact hms'
        · next hra =>
          intro x hx
          have hne : p.resultAddr ≠ 0 := fun e => hra (congrArg BitVec.toNat e)
          have hres := hx _ (List.mem_cons_of_mem _ List.mem_cons_self)
          rw [if_neg hne] at hres
          rw [byteAt_storeLazy _ _ _ _ _ hca.2.1, bytesAt_length, if_neg hres]
          exact hms' x hx

/-- Settles O23: the effect of each kind of operation in clean memory, and the frame of every end. -/
theorem atomicsOperateOnOldBytes : Obligations.AtomicsOperateOnOldBytes := by
  refine ⟨?effects, ?frame⟩
  case effects =>
    intro h p s i pre b a n old x w keep ha hp hk hc
    have hcl : Clean s := ⟨hp, hk, hc⟩
    have ne {k m : Byte} (ho : p.op = k) (hkm : k ≠ m) : p.op ≠ m := fun e => hkm (ho.symm.trans e)
    refine ⟨fun ho => ?_, fun ho heq => ?_, fun ho hne => ?_, fun ho ht => ?_⟩
    · have he := atomicEffect_swap p old ho
      have hx := exec_memAtomic_plain ha hcl (ne ho (by decide)) (ne ho (by decide)) he
      exact hx
    · have he := (atomicEffect_cas p old ho).trans (if_pos ((fld_bytesAt s a _).trans heq))
      have hx := exec_memAtomic_plain ha hcl (ne ho (by decide)) (ne ho (by decide)) he
      exact hx
    · have he := (atomicEffect_cas p old ho).trans (if_neg fun e => hne ((fld_bytesAt s a _).symm.trans e))
      have hx := exec_memAtomic_plain ha hcl (ne ho (by decide)) (ne ho (by decide)) he
      exact hx
    · have he := atomicEffect_add p old ho ht
      rw [show fld old 0 (atomicSize p.type.toNat) = leNat old from fld_bytesAt s a _] at he
      have hx := exec_memAtomic_plain ha hcl (ne ho (by decide)) (ne ho (by decide)) he
      exact hx
  case frame =>
    intro h p s t i pre n hcalm ha hch hx
    have hop : p.op.toNat ≤ 4 := by
      have := fields_of_accepts ha (0x40, p.op.toNat ≤ 4) (by simp [pre, preAtomic])
      simpa using this
    obtain ⟨b, e, hr, he, hro, hb, hms⟩ := runAtomic_ends p (jobFor s pre i) (begun s i) hop
      (by rw [training_begun]; exact training_of_no_chans hch _) (calm_begun i hcalm.1 hcalm.2.1 hcalm.2.2)
    have hx' := exec_of_run_ends (exec_memAtomic h p {} s) ha hr
    rw [hx] at hx'
    obtain rfl := Host.Outcome.next.inj hx'
    obtain ⟨hmem, heng, hmod, hun, hri⟩ := replied_frame_of_runOnly (pre := pre) hro hb he
    refine ⟨fun x hx => ?_, heng, hmod, hun, hri⟩
    rw [hmem x fun r hr => hx r (List.mem_cons_of_mem _ (List.mem_cons_of_mem _ hr)), hms x fun r hr => hx r ?_, byteAt_begun]
    rcases List.mem_cons.1 hr with rfl | hr
    · exact List.mem_cons_self
    · exact List.mem_cons_of_mem _ (List.mem_cons.2 (.inl (List.mem_singleton.1 hr)))

end Sys2Proof.Proofs
end

section
/-! PROOFS. Admission and fill of the count round as functions of lists (06 R158, R159). -/

namespace Sys2Proof.Proofs

open Sys2Proof.Machine Sys2Proof.Laws

/-! ## Admission (06 R159) -/

/-- How many of the choices name an expert and rank. -/
def namesOf (key : Nat) (cs : List (Nat × Nat × Nat)) : Nat := (cs.filter (fun y => reKey y.2.1 y.2.2 == key)).length

/-- A choice's slot follows from the uses counted before the walk and the choices walked before it. -/
theorem admitAll_getElem (q : AMap (Nat × Nat)) (cs : List (Nat × Nat × Nat)) (used : AMap Nat) (i : Nat) (x : Nat × Nat × Nat)
    (h : cs[i]? = some x) :
    let key := reKey x.2.1 x.2.2
    let n := amGet 0 used key + namesOf key (cs.take i)
    let qb := amGet (0, 0) q key
    (admitAll q used cs)[i]? = some (if n < qb.1 then some (qb.2 + n) else none) := by
  induction cs generalizing used i with
  | nil => simp at h
  | cons c cs ih =>
    obtain ⟨t, r, e⟩ := c
    cases i with
    | zero =>
      obtain rfl : (t, r, e) = x := by simpa using h
      simp [admitAll, namesOf]
    | succ i =>
      have hi := ih (amPut used (reKey r e) (amGet 0 used (reKey r e) + 1)) i (by simpa using h)
      have hn : amGet 0 (amPut used (reKey r e) (amGet 0 used (reKey r e) + 1)) (reKey x.2.1 x.2.2) +
            namesOf (reKey x.2.1 x.2.2) (cs.take i) =
          amGet 0 used (reKey x.2.1 x.2.2) + namesOf (reKey x.2.1 x.2.2) (((t, r, e) :: cs).take (i + 1)) := by
        rw [amGet_amPut, List.take_succ_cons]
        by_cases hk : reKey x.2.1 x.2.2 = reKey r e
        · simp [namesOf, hk]
          omega
        · simp [namesOf, hk, Ne.symm hk]
      dsimp only at hi ⊢
      rw [hn] at hi
      exact hi

/-- Settles O26: the walk from no uses. -/
theorem admissionFollowsQuotas : Obligations.AdmissionFollowsQuotas := by
  intro q cs i x h
  simpa [amGet, namesOf] using admitAll_getElem q cs [] i x h

/-! ## The fill (06 R158) -/

theorem fillExpert_used (cap used : Nat) (cs : List (Nat × Nat × Nat)) (h : used ≤ cap) :
    (fillExpert cap used cs).2 = min cap (used + (cs.map (·.2.2)).sum) := by
  induction cs generalizing used with
  | nil => simpa [fillExpert] using h
  | cons c cs ih =>
    obtain ⟨r, src, n⟩ := c
    simp only [fillExpert, ih (used + min n (cap - used)) (by omega), List.map_cons, List.sum_cons]
    omega

theorem fillExpert_length (cap used : Nat) (cs : List (Nat × Nat × Nat)) : (fillExpert cap used cs).1.length = cs.length := by
  induction cs generalizing used with
  | nil => rfl
  | cons c cs ih =>
    obtain ⟨r, src, n⟩ := c
    simp only [fillExpert, List.length_cons, ih]

/-- What the fill answers for each count: its rank and source, its quota, and the slots given before it as its base. -/
theorem fillExpert_getElem (cap used : Nat) (cs : List (Nat × Nat × Nat)) (h : used ≤ cap) (i : Nat) (x : Nat × Nat × Nat × Nat)
    (hx : (fillExpert cap used cs).1[i]? = some x) :
    ∃ c, cs[i]? = some c ∧ x.1 = c.1 ∧ x.2.1 = c.2.1 ∧
      x.2.2.2 = min cap (used + ((cs.take i).map (·.2.2)).sum) ∧ x.2.2.1 = min c.2.2 (cap - x.2.2.2) := by
  induction cs generalizing used i with
  | nil => simp [fillExpert] at hx
  | cons c cs ih =>
    obtain ⟨r, src, n⟩ := c
    cases i with
    | zero =>
      obtain rfl : (r, src, min n (cap - used), used) = x := by simpa [fillExpert] using hx
      exact ⟨(r, src, n), by simp, rfl, rfl, by simpa using h, rfl⟩
    | succ i =>
      obtain ⟨c, hc, h1, h2, hb, hq⟩ := ih (used + min n (cap - used)) (by omega) i (by simpa [fillExpert] using hx)
      refine ⟨c, by simpa using hc, h1, h2, ?_, hq⟩
      rw [hb, List.take_succ_cons, List.map_cons, List.sum_cons]
      dsimp only
      omega

/-- Settles O27. -/
theorem fillsShareTheCapacity : Obligations.FillsShareTheCapacity := by
  intro cap used cs h f
  have hu : f.2 = min cap (used + (cs.map (·.2.2)).sum) := fillExpert_used cap used cs h
  exact ⟨hu ▸ Nat.min_le_left _ _, hu, fillExpert_length cap used cs, fillExpert_getElem cap used cs h⟩

end Sys2Proof.Proofs
end

section
/-! PROOFS. What every operation of the model keeps: the queue, the clock, and any property of memory's bytes that writes keep. -/

namespace Sys2Proof.Proofs

open Sys2Proof.Machine Sys2Proof.Laws

/-- A property of the queue, the clock and the listed bytes of memory that writing, dropping and forgetting bytes keep. -/
structure Stable where
  holds : List Instr → Nat → List (Nat × Byte) → Prop
  write : ∀ {p n m} (a : Nat) (bs : List Byte), holds p n m → holds p n (cellWrite m a bs)
  drop : ∀ {p n m} (f : Nat × Byte → Bool), holds p n m → holds p n (m.filter f)
  forget : ∀ {p n m}, holds p n m → holds p n []

/-- The property, of a state. -/
def Stable.of (K : Stable) (s : State) : Prop := K.holds s.pending s.now s.mem.cells

/-- The property, of the next state where there is one. -/
def Stable.ofNext (K : Stable) (o : Host.Outcome State Fault Refusal) : Prop := ∀ t, o = .next t → K.of t

section
variable {K : Stable} {s t : State}

/-- What leaves queue, clock and bytes as they are keeps the property. -/
theorem Stable.of.same (h : K.of s) (e : (t.pending, t.now, t.mem.cells) = (s.pending, s.now, s.mem.cells)) : K.of t := by
  simp only [Prod.mk.injEq] at e
  obtain ⟨hp, hn, hc⟩ := e
  unfold Stable.of at h ⊢
  rw [hp, hn, hc]
  exact h

theorem Stable.of.ite {c : Prop} [Decidable c] (h : K.of s) (k : K.of t) : K.of (if c then s else t) := by
  split
  · exact h
  · exact k

theorem Stable.of.iteFst {α : Type} {c : Prop} [Decidable c] {x y : State × α} (h : K.of x.1) (k : K.of y.1) :
    K.of (if c then x else y).1 := by
  split
  · exact h
  · exact k

theorem Stable.of.foldl {α : Type} {f : State → α → State} {l : List α} (hf : ∀ s x, K.of s → K.of (f s x)) (h : K.of s) :
    K.of (l.foldl f s) := by
  induction l generalizing s with
  | nil => exact h
  | cons x l ih => exact ih (hf s x h)

theorem Stable.of.ofFst {α : Type} {x : α} {p : State × α} (e : p = (t, x)) (h : K.of p.1) : K.of t := by
  rw [e] at h
  exact h

theorem Stable.ofNext.next (h : K.of s) : K.ofNext (.next s) := by
  rintro t ⟨⟩
  exact h

theorem Stable.ofNext.ite {c : Prop} [Decidable c] {o q : Host.Outcome State Fault Refusal} (h : K.ofNext o) (k : K.ofNext q) :
    K.ofNext (if c then o else q) := by
  split
  · exact h
  · exact k

theorem meetWaiter_keeps {s : State} {w : Waiter} {v : Nat} (h : K.of s) : K.of (meetWaiter s w v) := by
  unfold meetWaiter
  dsimp only
  split
  · exact h.same rfl
  · exact h.same rfl

theorem storeNow_keeps {s : State} {w : Who} {a : Nat} {bs : List Byte} (h : K.of s) : K.of (storeNow s w a bs) := by
  have hb : (breakResv { s with mem := { s.mem with
      cells := cellWrite s.mem.cells a bs, poison := unpoison a bs.length s.mem.poison, kept := unkeep a bs.length s.mem.kept,
      undef := undefCut a bs.length s.mem.undef } } a bs.length).mem.cells = cellWrite s.mem.cells a bs := by
    unfold breakResv
    split
    · rfl
    · rfl
  obtain ⟨hp, hn, _⟩ := (storeNow_storeOnly s w a bs).frame
  unfold Stable.of
  rw [hp, hn, storeNow_mem]
  exact K.write a bs h

end

end Sys2Proof.Proofs
end

section
/-! PROOFS. Every operation of the model keeps the queue, the clock and what writes keep of memory, in the order of the model. -/

namespace Sys2Proof.Proofs

open Sys2Proof Sys2Proof.Machine Sys2Proof.Laws

variable {K : Stable}

/-! ## Ops -/

theorem count_keeps {s : State} {u off n : Nat} (hs : K.of s) : K.of (count s u off n) := by
  unfold count
  extract_lets
  exact hs.same rfl

theorem setCount_keeps {s : State} {u off n : Nat} (hs : K.of s) : K.of (setCount s u off n) := by
  unfold setCount
  extract_lets
  exact hs.same rfl

theorem countMax_keeps {s : State} {u off n : Nat} (hs : K.of s) : K.of (countMax s u off n) := by
  unfold countMax
  extract_lets
  exact hs.same rfl

theorem modChan_keeps {s : State} {ch : Nat} {f : Chan → Chan} (hs : K.of s) : K.of (modChan s ch f) := by
  unfold modChan
  extract_lets
  exact hs.same rfl

theorem modSide_keeps {s : State} {u : Nat} {f : Side → Side} (hs : K.of s) : K.of (modSide s u f) := by
  unfold modSide
  extract_lets
  exact hs.same rfl

theorem setItem_keeps {s : State} {u it v : Nat} (hs : K.of s) : K.of (setItem s u it v) := by
  unfold setItem
  extract_lets
  exact hs.same rfl

theorem modCtx_keeps {s : State} {c : Nat} {f : Ctx → Ctx} (hs : K.of s) : K.of (modCtx s c f) := by
  unfold modCtx
  extract_lets
  exact hs.same rfl

theorem numberEntry_keeps {s : State} {e : LedgerEvent} (hs : K.of s) : K.of (numberEntry s e) := by
  unfold numberEntry
  extract_lets _ s1
  have hs1 : K.of s1 := count_keeps hs
  exact hs1.same rfl

theorem closePage_keeps {reason : Nat} {s : State} (hs : K.of s) : K.of (closePage reason s) := by
  unfold closePage
  split
  · exact hs
  · extract_lets
    exact hs.same rfl

theorem appendAll_keeps {es : List LedgerEvent} {s : State} (hs : K.of s) : K.of (appendAll es s) := by
  induction es generalizing s with
  | nil => exact hs
  | cons e es ih => exact ih (.ite (closePage_keeps (numberEntry_keeps hs)) (numberEntry_keeps hs))

theorem snapMark_keeps {s : State} (hs : K.of s) : K.of (snapMark s) := by
  unfold snapMark
  extract_lets
  exact hs.same rfl

theorem sealPage_keeps {reason : Nat} {s : State} (hs : K.of s) : K.of (sealPage reason s) := by
  unfold sealPage
  extract_lets
  exact .ite hs (appendAll_keeps (closePage_keeps (.foldl (fun _ _ hs => numberEntry_keeps hs) (snapMark_keeps hs))))

theorem appendEntry_keeps {e : LedgerEvent} {s : State} (hs : K.of s) : K.of (appendEntry e s) := by
  unfold appendEntry
  extract_lets s1
  have hs1 : K.of s1 := numberEntry_keeps hs
  exact .ite (sealPage_keeps hs1) hs1

theorem ledgerEv_keeps {die : Nat} {e : LedgerEvent} {s : State} (hs : K.of s) : K.of (ledgerEv die e s) := by
  unfold ledgerEv
  extract_lets
  exact .ite (appendEntry_keeps hs) (hs.same rfl)

theorem ledger_keeps {die origin reason object field ctx old new aux : Nat} {s : State} (hs : K.of s) :
    K.of (ledger die origin reason object field ctx old new aux s) :=
  ledgerEv_keeps hs

theorem modHealth_keeps {s : State} {u : Nat} {f : Health → Health} (hs : K.of s) : K.of (modHealth s u f) := by
  unfold modHealth
  extract_lets
  exact hs.same rfl

theorem modDie_keeps {s : State} {d : Nat} {f : DieSt → DieSt} (hs : K.of s) : K.of (modDie s d f) := by
  unfold modDie
  extract_lets
  exact hs.same rfl

theorem setReady_keeps {u : Nat} {r : Bool} {cause : Nat} {s : State} (hs : K.of s) : K.of (setReady u r cause s) := by
  unfold setReady
  extract_lets s1 s2
  have hs1 : K.of s1 := modHealth_keeps hs
  have hs2 : K.of s2 := modDie_keeps hs1
  exact .ite hs (ledger_keeps hs2)

theorem actOn_keeps {obj : OrderObj} {o : Order} {s : State} (hs : K.of s) : K.of (actOn obj o s) := by
  unfold actOn
  extract_lets
  exact hs.same rfl

theorem quarantine_keeps {u : Nat} {s : State} (hs : K.of s) : K.of (quarantine u s) := by
  unfold quarantine
  extract_lets _ _ s1 s2
  have hs1 : K.of s1 := actOn_keeps hs
  have hs2 : K.of s2 := ledger_keeps hs1
  exact setReady_keeps (modHealth_keeps hs2)

theorem charge_keeps {u pts : Nat} {s : State} (hs : K.of s) : K.of (charge u pts s) := by
  unfold charge
  extract_lets _ _ _ _ s1
  have hs1 : K.of s1 := modHealth_keeps hs
  exact .ite hs (.ite (quarantine_keeps hs1) hs1)

theorem modJob_keeps {s : State} {id : Nat} {f : Job → Job} (hs : K.of s) : K.of (modJob s id f) := by
  unfold modJob
  extract_lets
  exact hs.same rfl

theorem endJob_keeps {s : State} {id : Nat} {e : End} (hs : K.of s) : K.of (endJob s id e) := modJob_keeps hs

theorem modDrover_keeps {s : State} {n : Nat} {f : Drover → Drover} (hs : K.of s) : K.of (modDrover s n f) := hs.same rfl

theorem wake_keeps {s : State} {a : Nat} (hs : K.of s) : K.of (wake s a) := by
  unfold wake
  extract_lets
  exact .foldl (fun _ _ hs => meetWaiter_keeps hs) hs

theorem track_keeps {s : State} {w : Who} {a : Nat} (hs : K.of s) : K.of (track s w a) := by
  unfold track
  extract_lets
  exact hs.same rfl

theorem monitors_keeps {s : State} {w : Who} {a n : Nat} (hs : K.of s) : K.of (monitors s w a n) :=
  .ite hs (.foldl (fun _ _ hs => wake_keeps (track_keeps hs)) hs)

theorem breakResv_keeps {s : State} {a n : Nat} (hs : K.of s) : K.of (breakResv s a n) := .ite (hs.same rfl) hs

theorem storeLazy_keeps {s : State} {w : Who} {a : Nat} {bs : List Byte} (hs : K.of s) : K.of (storeLazy s w a bs) := by
  unfold storeLazy
  extract_lets
  exact .ite hs (storeNow_keeps (hs.same rfl))

theorem markUndef_keeps {s : State} {rs : List (Nat × Nat)} (hs : K.of s) : K.of (markUndef s rs) := by
  unfold markUndef
  extract_lets
  exact .ite hs (hs.same rfl)

theorem fenceUpTo_keeps {s : State} {job : Nat} {p : Nat → Bool} (hs : K.of s) : K.of (fenceUpTo s job p) := by
  unfold fenceUpTo
  extract_lets
  exact hs.same rfl

theorem poisonWaiters_keeps {s : State} {block : Nat} (hs : K.of s) : K.of (poisonWaiters s block) := by
  unfold poisonWaiters
  extract_lets _ _ s1
  have hs1 : K.of s1 := hs.same rfl
  refine .foldl ?_ hs1
  intro _ _ hs
  split
  · exact endJob_keeps hs
  · exact modDrover_keeps hs

theorem poisonBlock_keeps {s : State} {block : Nat} (hs : K.of s) : K.of (poisonBlock s block) := by
  unfold poisonBlock
  extract_lets _ _ _ _ s1 s2
  have hs1 : K.of s1 := hs.same rfl
  have hs2 : K.of s2 := ledger_keeps hs1
  exact .ite hs (poisonWaiters_keeps hs2)

theorem addCounter_keeps {s : State} {u n k : Nat} (hs : K.of s) : K.of (addCounter s u n k) := by
  unfold addCounter
  extract_lets
  exact hs.same rfl

theorem eventUpTo_keeps {u code ctx k n : Nat} {s : State} (hs : K.of s) : K.of (eventUpTo u code ctx k n s) := by
  induction n generalizing s with
  | zero => exact hs
  | succ n ih => exact ih (.ite (addCounter_keeps hs) hs)

theorem event_keeps {s : State} {u code ctx k : Nat} (hs : K.of s) : K.of (event s u code ctx k) := .ite hs (eventUpTo_keeps hs)

theorem arrivalUpTo_keeps {u code ctx n : Nat} {s : State} (hs : K.of s) : K.of (arrivalUpTo u code ctx n s) := by
  induction n generalizing s with
  | zero => exact hs
  | succ n ih => exact ih (.ite (addCounter_keeps hs) hs)

theorem arrival_keeps {s : State} {u code ctx : Nat} (hs : K.of s) : K.of (arrival s u code ctx) := arrivalUpTo_keeps hs

/-! ## Flags -/

theorem modRing_keeps {s : State} {key : Nat} {f : Ring → Ring} (hs : K.of s) : K.of (modRing s key f) := by
  unfold modRing
  extract_lets
  exact hs.same rfl

theorem writeReply_keeps {s : State} {key : Nat} {bs : List Byte} (hs : K.of s) : K.of (writeReply s key bs) := by
  unfold writeReply
  extract_lets _ _ s1
  have hs1 : K.of s1 := storeNow_keeps hs
  exact modRing_keeps hs1

theorem sigStore_keeps {s : State} {w : Who} {a v : Nat} (hs : K.of s) : K.of (sigStore s w a v) := .ite hs (storeNow_keeps hs)

theorem writeDone_keeps {s : State} {key job : Nat} {h : Hdr} (hs : K.of s) : K.of (writeDone s key job h) := by
  unfold writeDone
  extract_lets
  exact .ite hs (sigStore_keeps hs)

theorem record_keeps {s : State} {c : Nat} {l : List (Nat × Nat)} (hs : K.of s) : K.of (record s c l) := by
  unfold record
  extract_lets
  exact .ite hs (modCtx_keeps hs)

theorem finish_keeps {s : State} {j : Job} {e : End} (hs : K.of s) : K.of (finish s j e) := by
  unfold finish
  extract_lets _ s1 s2 s3 s4
  have hs1 : K.of s1 := .ite (writeReply_keeps hs) hs
  have hs2 : K.of s2 := modRing_keeps hs1
  have hs3 : K.of s3 := writeDone_keeps hs2
  have hs4 : K.of s4 := modCtx_keeps hs3
  exact charge_keeps hs4

theorem portTestNote_keeps {j : Job} {e : End} {s : State} (hs : K.of s) : K.of (portTestNote j e s) := by
  unfold portTestNote
  split
  · extract_lets
    exact ledger_keeps hs
  · exact hs

theorem fenceDone_keeps {s : State} {j : Job} (hs : K.of s) : K.of (fenceDone s j) := by
  unfold fenceDone
  split
  · exact fenceUpTo_keeps hs
  · exact fenceUpTo_keeps hs
  · exact hs

theorem settleOne_keeps {s t : State} (e : settleOne s = some t) (hs : K.of s) : K.of t := by
  unfold settleOne at e
  split at e
  · cases e
  · cases e
    exact finish_keeps (portTestNote_keeps (.ite (fenceDone_keeps (hs.same rfl)) (hs.same rfl)))

theorem settleN_keeps {n : Nat} {s : State} (hs : K.of s) : K.of (settleN n s) := by
  induction n generalizing s with
  | zero => exact hs
  | succ n ih =>
    unfold settleN
    split
    · exact hs
    · next s' e => exact ih (settleOne_keeps e hs)

theorem settle_keeps {s : State} (hs : K.of s) : K.of (settle s) := by
  unfold settle
  extract_lets s1
  have hs1 : K.of s1 := settleN_keeps hs
  exact hs1.same rfl

/-! ## Rings -/

theorem park_keeps {s : State} {j : Job} {ph : Phase} (hs : K.of s) : K.of (park s j ph) := by
  unfold park
  extract_lets
  exact hs.same rfl

theorem ends_keeps {s : State} {e : End} (hs : K.of s) : K.of (ends s e).1 := hs

theorem waits_keeps {s : State} {ph : Phase} (hs : K.of s) : K.of (waits s ph).1 := hs

theorem conclude_keeps {j : Job} {r : RunRes} (hs : K.of r.1) : K.of (conclude j r) := by
  unfold conclude
  split
  · exact finish_keeps hs
  · exact park_keeps hs

theorem start_keeps {pre : Pre} {run : Job → State → RunRes} {j : Job} {s : State} (hrun : ∀ (a : Job) (a_1 : State), K.of a_1 → K.of (run a a_1).1) (hs : K.of s) :
    K.of (start pre run j s) := by
  unfold start
  split
  · exact .ite (park_keeps hs) (finish_keeps hs)
  · exact conclude_keeps (hrun _ _ hs)

theorem dispatch_keeps {pre : Pre} {run : Job → State → RunRes} {i : Instr} {key off next : Nat} {s : State} (hrun : ∀ (a : Job) (a_1 : State), K.of a_1 → K.of (run a a_1).1) (hs : K.of s) :
    K.of (dispatch pre run i key off next s) := by
  unfold dispatch
  extract_lets _ _ s1 s2 s3
  have hs1 : K.of s1 := hs.same rfl
  have hs2 : K.of s2 := modRing_keeps hs1
  have hs3 : K.of s3 := .ite (fenceUpTo_keeps hs2) hs2
  exact start_keeps (fun _ _ hs => hrun _ _ hs) hs3

theorem rejectNote_keeps {i : Instr} {key : Nat} {e : End} {s : State} (hs : K.of s) : K.of (rejectNote i key e s) := by
  unfold rejectNote
  extract_lets
  split
  · exact hs
  · split
    · exact .ite (ledgerEv_keeps hs) hs
    · exact .ite (ledgerEv_keeps hs) hs
    · exact hs

theorem reject_keeps {i : Instr} {key : Nat} {e : End} {s : State} (hs : K.of s) : K.of (reject i key e s) := by
  unfold reject
  extract_lets _ s1 s2
  have hs1 : K.of s1 := writeReply_keeps hs
  have hs2 : K.of s2 := count_keeps hs1
  exact rejectNote_keeps (writeDone_keeps hs2)

theorem keepWaiting_keeps {i : Instr} {key off next : Nat} {parsed : Bool} {s : State} (hs : K.of s) :
    K.of (keepWaiting i key off next parsed s) :=
  modRing_keeps hs

theorem accept_keeps {pre : Pre} {run : Job → State → RunRes} {i : Instr} {key off next : Nat} {bad : Option End} {s : State} (hrun : ∀ (a : Job) (a_1 : State), K.of a_1 → K.of (run a a_1).1) (hs : K.of s) :
    K.of (accept pre run i key off next bad s) := by
  unfold accept
  extract_lets s1
  have hs1 : K.of s1 := count_keeps hs
  split
  · exact reject_keeps hs1
  · exact .ite (dispatch_keeps (fun _ _ hs => hrun _ _ hs) hs1) (keepWaiting_keeps hs1)

theorem passStep_keeps {i : Instr} {key : Nat} {s : State} (hs : K.of s) : K.of (passStep i key s).1 := by
  unfold passStep
  split
  · exact hs
  · exact .iteFst (endJob_keeps (modRing_keeps hs)) (.iteFst (endJob_keeps (modRing_keeps hs)) (modRing_keeps hs))
  · split
    · exact modRing_keeps hs
    · exact modRing_keeps hs
    · exact hs

theorem meet_keeps {pre : Pre} {run : Job → State → RunRes} {i : Instr} {key off next : Nat} {s : State} (hrun : ∀ (a : Job) (a_1 : State), K.of a_1 → K.of (run a a_1).1) (hs : K.of s) :
    K.of (meet pre run i key off next s) := by
  unfold meet
  extract_lets
  split
  · exact keepWaiting_keeps hs
  · split
    · rename_i heq18
      extract_lets s1
      have hs1 : K.of s1 := .ite (settle_keeps (Stable.of.ofFst heq18 (passStep_keeps hs))) (Stable.of.ofFst heq18 (passStep_keeps hs))
      exact .ite (Stable.of.ofFst heq18 (passStep_keeps hs)) (.ite (keepWaiting_keeps hs1) (accept_keeps (fun _ _ hs => hrun _ _ hs) hs1))

theorem arrive_keeps {pre : Pre} {run : Job → State → RunRes} {i : Instr} {s : State} (hrun : ∀ (a : Job) (a_1 : State), K.of a_1 → K.of (run a a_1).1) (hs : K.of s) :
    K.of (arrive pre run i s) := by
  unfold arrive
  extract_lets
  exact .ite (meet_keeps (fun _ _ hs => hrun _ _ hs) hs) hs

theorem issue_keeps {pre : Pre} {run : Job → State → RunRes} {i : Instr} {s : State} (hrun : ∀ (a : Job) (a_1 : State), K.of a_1 → K.of (run a a_1).1) (hs : K.of s) :
    K.of (issue pre run i s) :=
  settle_keeps (arrive_keeps (fun _ _ hs => hrun _ _ hs) hs)

theorem serve_keeps {s : State} {u part key : Nat} (hs : K.of s) : K.of (serve s u part key) := by
  unfold serve
  extract_lets
  exact hs.same rfl

/-! ## Ports -/

theorem modPort_keeps {s : State} {u : Nat} {f : Port → Port} (hs : K.of s) : K.of (modPort s u f) := by
  unfold modPort
  extract_lets
  exact hs.same rfl

theorem emit_keeps {u : Nat} {bs : List Byte} {s : State} (hs : K.of s) : K.of (emit u bs s) := hs.same rfl

theorem sendIdle_keeps {u : Nat} {s : State} (hs : K.of s) : K.of (sendIdle u s) := by
  unfold sendIdle
  extract_lets
  exact emit_keeps hs

theorem emitData_keeps {u : Nat} {t : TxFrame} {s : State} (hs : K.of s) : K.of (emitData u t s) := by
  unfold emitData
  extract_lets
  split
  · exact hs
  · exact emit_keeps hs

theorem pumpPort_keeps {u n : Nat} {s : State} (hs : K.of s) : K.of (pumpPort u n s) := by
  induction n generalizing s with
  | zero => exact hs
  | succ n ih =>
    unfold pumpPort
    refine .ite hs ?_
    split
    · exact hs
    · split
      · exact hs
      · exact ih (event_keeps (count_keeps (emitData_keeps (modPort_keeps hs))))

theorem pumpPortAll_keeps {u : Nat} {s : State} (hs : K.of s) : K.of (pumpPortAll u s) := pumpPort_keeps hs

theorem enqueue_keeps {u vc route : Nat} {bs : List Byte} {m : NetMsg} {s : State} (hs : K.of s) :
    K.of (enqueue u vc route bs m s) := by
  unfold enqueue
  extract_lets _ _ s1 s2
  have hs1 : K.of s1 := hs.same rfl
  have hs2 : K.of s2 := arrival_keeps hs1
  exact pumpPortAll_keeps (modPort_keeps hs2)

theorem countRow_keeps {u src : Nat} {m : NetMsg} {s : State} (hs : K.of s) : K.of (countRow u src m s) := by
  unfold countRow
  split
  · exact count_keeps hs
  · exact hs

theorem send_keeps {s : State} {m : NetMsg} (hs : K.of s) : K.of (send s m) := by
  unfold send
  extract_lets s1
  have hs1 : K.of s1 := hs.same rfl
  split
  · exact hs1
  · split
    · exact hs1
    · split
      · exact hs
      · split
        · exact enqueue_keeps (countRow_keeps hs1)
        · exact hs1

theorem receive_keeps {s : State} {m : NetMsg} (hs : K.of s) : K.of (receive s m) := hs.same rfl

/-! ## Control -/

theorem runNop_keeps {_j : Job} {s : State} (hs : K.of s) : K.of (runNop _j s).1 := ends_keeps hs

theorem runSignal_keeps {f : Nat → Nat} {a : Nat} {j : Job} {s : State} (hs : K.of s) : K.of (runSignal f a j s).1 := by
  unfold runSignal
  split
  · exact ends_keeps hs
  · extract_lets
    exact .iteFst (waits_keeps hs) (ends_keeps (storeNow_keeps hs))

theorem runSigSet_keeps {p : PSig} {a : Job} {x2 : State} (hs : K.of x2) : K.of (runSigSet p a x2).1 := runSignal_keeps hs

theorem runSigAdd_keeps {p : PSig} {a : Job} {x2 : State} (hs : K.of x2) : K.of (runSigAdd p a x2).1 := runSignal_keeps hs

theorem trackWord_keeps {a : Nat} {s t : State} (e : trackWord s a = some t) (hs : K.of s) : K.of t := by
  unfold trackWord at e
  dsimp only at e
  split at e
  · cases e
    exact hs
  · split at e
    · cases e
      exact hs.same rfl
    · split at e
      · cases e
        exact hs.same rfl
      · cases e

theorem attach_keeps {s : State} {w : Waiter} (hs : K.of s) : K.of (attach s w).1 := by
  unfold attach
  split
  · next s' e => exact (trackWord_keeps e hs).same rfl
  · exact (event_keeps hs).same rfl

theorem runSigWait_keeps {p : PSigWait} {j : Job} {s : State} (hs : K.of s) : K.of (runSigWait p j s).1 := by
  unfold runSigWait
  extract_lets
  split
  · exact ends_keeps hs
  · split
    · exact waits_keeps hs
    · split
      · exact ends_keeps hs
      · split
        · rename_i heq
          exact waits_keeps (Stable.of.ofFst heq (attach_keeps hs))

theorem detach_keeps {s : State} {id : Nat} (hs : K.of s) : K.of (detach s id) := by
  unfold detach
  extract_lets
  exact hs.same rfl

theorem runFence_keeps {all : Bool} {p : PFence} {j : Job} {s : State} (hs : K.of s) : K.of (runFence all p j s).1 := by
  unfold runFence
  extract_lets
  exact .iteFst (ends_keeps (fenceDone_keeps hs)) (waits_keeps hs)

theorem runLoopBegin_keeps {p : PLoopBegin} {j : Job} {s : State} (hs : K.of s) : K.of (runLoopBegin p j s).1 := by
  unfold runLoopBegin
  extract_lets _ _ _ s1
  have hs1 : K.of s1 := .ite (modRing_keeps hs) (modRing_keeps hs)
  split
  · exact ends_keeps hs
  · exact .iteFst (waits_keeps hs) (.iteFst (ends_keeps hs) (ends_keeps hs1))

theorem runLoopEnd_keeps {j : Job} {s : State} (hs : K.of s) : K.of (runLoopEnd j s).1 := by
  unfold runLoopEnd
  split
  · exact ends_keeps hs
  · extract_lets
    exact .iteFst (modRing_keeps hs) (ends_keeps (modRing_keeps hs))

theorem runSkipIf_keeps {p : PSkipIf} {j : Job} {s : State} (hs : K.of s) : K.of (runSkipIf p j s).1 := by
  unfold runSkipIf
  extract_lets
  split
  · exact ends_keeps hs
  · exact .iteFst (waits_keeps hs) (.iteFst (waits_keeps (modRing_keeps hs)) (ends_keeps hs))

theorem badWrite_keeps {s : State} {key : Nat} (hs : K.of s) : K.of (badWrite s key) := modRing_keeps hs

theorem guardWrite_keeps {a : Agent} {ctx key : Nat} {f : Ring → Option Ring} {s : State} (hs : K.of s) :
    K.of (guardWrite a ctx key f s) := by
  unfold guardWrite
  extract_lets
  split
  · exact hs
  · split
    · exact badWrite_keeps hs
    · split
      · exact modRing_keeps hs
      · exact badWrite_keeps hs

theorem applySignal_keeps {s : State} {w : Who} {a : Nat} {op : SigOp} (hs : K.of s) : K.of (applySignal s w a op) := by
  unfold applySignal
  extract_lets
  exact sigStore_keeps hs

/-! ## Stats -/

theorem adderEvent_keeps {s : State} {a ctx : Nat} {ev : ConvEvent} (hs : K.of s) : K.of (adderEvent s a ctx ev) := by
  unfold adderEvent
  split
  · exact event_keeps hs
  · exact event_keeps hs
  · exact hs

theorem addFp32_keeps {s : State} {w : Who} {a : Nat} {v : FVal} (hs : K.of s) : K.of (addFp32 s w a v) := by
  unfold addFp32
  split
  · exact adderEvent_keeps (storeLazy_keeps hs)

theorem addInt64_keeps {s : State} {w : Who} {a n : Nat} (hs : K.of s) : K.of (addInt64 s w a n) := .ite hs (storeLazy_keeps hs)

theorem maxPair_keeps {s : State} {w : Who} {a : Nat} {v : FVal} {idx : Nat} (hs : K.of s) : K.of (maxPair s w a v idx) := by
  unfold maxPair
  extract_lets
  exact .ite (storeLazy_keeps hs) hs

theorem addEntries_keeps {w : Who} {sl : Nat} {row : Bool} {es : List (Nat × FVal)} {s : State} (hs : K.of s) :
    K.of (addEntries w sl row es s) := by
  induction es generalizing s with
  | nil => exact hs
  | cons e es ih =>
    unfold addEntries
    refine ih ?_
    split
    · exact addFp32_keeps hs
    · exact addInt64_keeps hs

theorem statApply_keeps {s : State} {w : Who} {slot : Nat} {st : StatAdd} (hs : K.of s) : K.of (statApply s w slot st) := by
  unfold statApply
  split
  · exact hs
  · split
    · exact hs
    · extract_lets s1 s2 s3 s4
      have h1 : K.of s1 := by
        simp only [s1]
        split
        · exact addFp32_keeps hs
        · exact hs
      have h2 : K.of s2 := by
        clear_value s1
        simp only [s2]
        split
        · exact maxPair_keeps h1
        · exact h1
      exact .ite hs (addEntries_keeps (addEntries_keeps (addInt64_keeps h2)))

theorem writeRows_keeps {w : Who} {base stride r : Nat} {rows : List (List Byte)} {s : State} (hs : K.of s) :
    K.of (writeRows w base stride r rows s) := by
  induction rows generalizing r s with
  | nil => exact hs
  | cons b rows ih => exact ih (storeLazy_keeps hs)

/-! ## Atomic -/

theorem sideAdd_keeps {s : State} {w : Who} {e : Elem} {n a x5 : Nat} (hs : K.of s) : K.of (sideAdd s w e n a x5) := by
  unfold sideAdd
  split
  · exact adderEvent_keeps (storeLazy_keeps hs)

theorem runAtomic_keeps {p : PMemAtomic} {f : Faults} {j : Job} {s : State} (hs : K.of s) : K.of (runAtomic p f j s).1 := by
  unfold runAtomic
  extract_lets
  split
  · exact ends_keeps hs
  · split
    · exact waits_keeps hs
    · split
      · exact ends_keeps hs
      · split
        · extract_lets s1 s2 s3 s4
          have hs1 : K.of s1 := by
            dsimp only [s1]
            split
            · exact storeLazy_keeps hs
            · exact hs
          have hs2 : K.of s2 := adderEvent_keeps hs1
          have hs3 : K.of s3 := .ite hs2 (charge_keeps hs2)
          have hs4 : K.of s4 := .ite hs3 (storeLazy_keeps hs3)
          exact .iteFst (ends_keeps hs3) (ends_keeps hs4)

/-! ## Matrix -/

theorem modEngine_keeps {s : State} {u : Nat} {f : Engine → Engine} (hs : K.of s) : K.of (modEngine s u f) := hs.same rfl

theorem modPart_keeps {s : State} {u p : Nat} {f : Machine.Part → Machine.Part} (hs : K.of s) : K.of (modPart s u p f) :=
  modEngine_keeps hs

theorem runMmPartition_keeps {p : PMmPartition} {j : Job} {s : State} (hs : K.of s) : K.of (runMmPartition p j s).1 := by
  unfold runMmPartition
  extract_lets _ _ s1
  have hs1 : K.of s1 := modEngine_keeps hs
  exact .iteFst (ends_keeps hs) (.iteFst (ends_keeps hs) (ends_keeps (ledger_keeps hs1)))

theorem maxEntry_keeps {s : State} {w : Who} {a : Nat} {v : FVal} {idx : Nat} (hs : K.of s) : K.of (maxEntry s w a v idx) := by
  unfold maxEntry
  extract_lets
  exact .ite (storeLazy_keeps hs) hs

theorem accRow_keeps {w : Who} {mode u part row base : Nat} {vs : List (Nat × FVal)} {s : State} (hs : K.of s) :
    K.of (accRow w mode u part row base vs s) := by
  induction vs generalizing s with
  | nil => exact hs
  | cons v vs ih =>
    unfold accRow
    refine ih ?_
    split
    · exact storeLazy_keeps hs
    · exact storeLazy_keeps hs
    · exact maxEntry_keeps hs

theorem writeOut_keeps {s : State} {w : Who} {u part cols : Nat} {p : PMmDrain} {rows : List (List FVal)} (hs : K.of s) :
    K.of (writeOut s w u part cols p rows) := by
  unfold writeOut
  extract_lets _ _ s1
  have hs1 : K.of s1 := by
    dsimp only [s1]
    split
    · split
      · exact hs
      · exact event_keeps (event_keeps (.ite (writeRows_keeps (writeRows_keeps hs)) (writeRows_keeps hs)))
    · exact .foldl (fun _ _ hs => accRow_keeps hs) hs
  exact .ite hs1 (statApply_keeps hs1)

theorem freeRes_keeps {s : State} {u part : Nat} {y : Bool} (hs : K.of s) : K.of (freeRes s u part y) := modPart_keeps hs

theorem drainWrite_keeps {s : State} {j : Job} {p : PMmDrain} {y : Bool} {r : Res} {es : List ElemErr} {e : End} (hs : K.of s) :
    K.of (drainWrite s j p y r es e).1 := by
  unfold drainWrite
  extract_lets _ s1
  have hs1 : K.of s1 := freeRes_keeps hs
  split
  · extract_lets
    split
    · exact hs1
    · exact writeOut_keeps hs1

theorem checkEvent_keeps {s : State} {die engine field ctx : Nat} (hs : K.of s) : K.of (checkEvent s die engine field ctx) :=
  ledger_keeps hs

theorem drainBorrow_keeps {s : State} {j : Job} {y : Bool} {r : Res} {stage : Nat} (hs : K.of s) :
    K.of (drainBorrow s j y r stage).1 :=
  modPart_keeps hs

theorem drainRun_keeps {s : State} {j : Job} {p : PMmDrain} {f : Faults} {y : Bool} {r : Res} (hs : K.of s) :
    K.of (drainRun s j p f y r).1 := by
  unfold drainRun
  extract_lets u sh write s1 s3 s2 r'
  have h1 : K.of s1 := event_keeps hs
  have h2 : K.of s2 := count_keeps h1
  have hw : ∀ (s : State) (r : Res) (es : List ElemErr) (e : End), K.of s → K.of (write s r es e).1 :=
    fun s r es e hs => drainWrite_keeps hs
  have h3 : K.of s3 := charge_keeps (count_keeps h1)
  clear_value s3 s2 s1
  split
  next n rr c _ =>
  extract_lets ck fix
  clear_value fix
  refine .iteFst (hw _ _ _ _ hs) ?_
  split
  · exact hw _ _ _ _ (count_keeps (count_keeps h3))
  · refine .iteFst (freeRes_keeps (checkEvent_keeps h1)) ?_
    split
    · exact freeRes_keeps h1
    · exact .iteFst (drainBorrow_keeps h1) (.iteFst (hw _ _ _ _ (charge_keeps h2)) (drainBorrow_keeps (charge_keeps h2)))

theorem drainOutcome_keeps {j : Job} {r : DrainRes} (hs : K.of r.1) : K.of (drainOutcome j r) := by
  unfold drainOutcome
  split
  · exact endJob_keeps hs
  · exact modJob_keeps hs

theorem dequeue_keeps {s : State} {u pi id : Nat} (hs : K.of s) : K.of (dequeue s u pi id) := modPart_keeps hs

/-- The property, of the state in which a pass has started or ended. -/
def Stable.ofStart (K : Stable) : StartRes → Prop
  | .started s => K.of s
  | .ended s _ => K.of s
  | .wait => True

theorem startPass_keeps {s : State} {u pi : Nat} {j : Job} {p : PMmPass} (hs : K.of s) : K.ofStart (startPass s u pi j p) := by
  unfold startPass
  extract_lets _ pt
  split
  · trivial
  · split
    · split
      · split
        · trivial
        · exact hs
      · exact markUndef_keeps (modPart_keeps hs)
    · split
      · exact hs
      · split
        · exact hs
        · split
          · exact hs
          · split
            · exact hs
            · split
              · exact hs
              · split
                · exact hs
                · split
                  · exact hs
                  · exact modPart_keeps hs

theorem startDrain_keeps {s : State} {u pi : Nat} {j : Job} {p : PMmDrain} {f : Faults} {r : DrainRes}
    (e : startDrain s u pi j p f = some r) (hs : K.of s) : K.of r.1 := by
  unfold startDrain at e
  dsimp only at e
  split at e
  · split at e
    · cases e
      exact modPart_keeps hs
    · cases e
      exact hs
  · split at e
    · cases e
    · split at e
      · cases e
        exact hs
      · split at e
        · cases e
          exact freeRes_keeps hs
        · split at e
          · cases e
            exact hs
          · cases e
            exact drainRun_keeps hs

theorem pump_keeps {u pi n : Nat} {s : State} (hs : K.of s) : K.of (pump u pi n s) := by
  induction n generalizing s with
  | zero => exact hs
  | succ n ih =>
    unfold pump
    split
    · exact hs
    · next j _ =>
      have h1 : K.of (serve (dequeue s u pi j.id) u pi j.ring) := serve_keeps (dequeue_keeps hs)
      dsimp only
      split
      · next p _ _ =>
        refine .ite hs ?_
        have hp : K.ofStart (startPass (serve (dequeue s u pi j.id) u pi j.ring) u pi j p) := startPass_keeps h1
        split
        · exact hs
        · next s2 e => exact ih (by rw [e] at hp; exact hp)
        · next s2 x e => exact ih (endJob_keeps (by rw [e] at hp; exact hp))
      · split
        · exact hs
        · next r e => exact ih (drainOutcome_keeps (startDrain_keeps e h1))
      · exact ih h1

theorem pumpPart_keeps {u pi : Nat} {s : State} (hs : K.of s) : K.of (pumpPart u pi s) := pump_keeps hs

theorem runQueued_keeps {j : Job} {s : State} (hs : K.of s) : K.of (runQueued j s).1 := by
  unfold runQueued
  extract_lets s1
  have hs1 : K.of s1 := arrival_keeps hs
  exact waits_keeps (modPart_keeps hs1)

theorem partFault_keeps {s : State} {u pi hit : Nat} (hs : K.of s) : K.of (partFault s u pi hit) := by
  unfold partFault
  extract_lets _ _ _ s1 s2 s3
  have hs1 : K.of s1 := modPart_keeps hs
  have hs2 : K.of s2 := by
    dsimp only [s2]
    split
    · exact endJob_keeps (modPart_keeps hs)
    · exact charge_keeps (modPart_keeps hs)
  have hs3 : K.of s3 := count_keeps hs2
  exact .ite hs3 (setReady_keeps (count_keeps hs3))

theorem passDone_keeps {s : State} {u pi : Nat} {j : Job} {p : PMmPass} {f : Faults} {y : Bool} (hs : K.of s) :
    K.of (passDone s u pi j p f y) := by
  unfold passDone
  extract_lets _ _ _ _ s1
  have hs1 : K.of s1 := modPart_keeps hs
  split
  · split
    · exact endJob_keeps (modPart_keeps (modPart_keeps hs))
    · extract_lets s2 s3 _ s4 s5
      have hs2 : K.of s2 := count_keeps (count_keeps hs1)
      have hs3 : K.of s3 := event_keeps hs2
      have hs4 : K.of s4 := .ite hs3 (statApply_keeps hs3)
      have hs5 : K.of s5 := .ite (charge_keeps hs4) hs4
      exact .ite (endJob_keeps (modPart_keeps (modPart_keeps hs))) (endJob_keeps (modPart_keeps hs5))

theorem secondReplay_keeps {s : State} {j : Job} {p : PMmDrain} {f : Faults} {y : Bool} {r : Res} {b : Nat} {errs1 : List ElemErr} (hs : K.of s) :
    K.of (secondReplay s j p f y r b errs1).1 := by
  unfold secondReplay
  extract_lets _ _ _ s1
  have hs1 : K.of s1 := count_keeps hs
  split
  · extract_lets
    split
    · split
      · split
        · rename_i heq
          exact Stable.of.ofFst heq (drainWrite_keeps hs1)
      · exact drainBorrow_keeps hs1
    · exact drainBorrow_keeps (charge_keeps hs1)

theorem referee_keeps {s : State} {j : Job} {p : PMmDrain} {f : Faults} {y : Bool} {r : Res} {b : Nat} {errs1 : List ElemErr}
    (hs : K.of s) : K.of (referee s j p f y r b errs1).1 := by
  unfold referee
  split
  next n rr c _ =>
  extract_lets ck d ctx two skipped take s1
  have h1 : K.of s1 := charge_keeps hs
  have ht : ∀ (s : State) (es : List ElemErr), K.of s → K.of (take s es).1 :=
    fun s es hs => drainWrite_keeps (checkEvent_keeps hs)
  exact .iteFst (ht _ _ hs) (.iteFst (ht _ _ h1) (freeRes_keeps (checkEvent_keeps h1)))

theorem borrowFaulted_keeps {s : State} {j : Job} {stage b : Nat} {f : Faults} (hs : K.of s) :
    K.of (borrowFaulted s j stage b f) := by
  unfold borrowFaulted
  extract_lets _ s1
  have hs1 : K.of s1 := by
    dsimp only [s1]
    split
    · exact partFault_keeps hs
    · exact hs
  exact modJob_keeps hs1

theorem borrowDrain_keeps {j : Job} {stage : Nat} {p : PMmDrain} {f0 f : Faults} {s : State} (hs : K.of s) :
    K.of (borrowDrain j stage p f0 f s) := by
  unfold borrowDrain
  obtain ⟨bf, hbf⟩ : ∃ bf, borrowFrom = bf := ⟨_, rfl⟩
  rw [hbf]
  extract_lets +onlyGivenNames u pt y
  split
  · exact hs
  · split
    · exact hs
    · next b _ =>
      extract_lets s1 fl s2
      have h1 : K.of s1 := checkEvent_keeps hs
      have h2 : K.of s2 := borrowFaulted_keeps h1
      clear_value s2 s1
      refine .ite (.ite (pumpPart_keeps (drainOutcome_keeps (r := (_, _)) (freeRes_keeps (checkEvent_keeps h2)))) h2) ?_
      split
      · exact pumpPart_keeps (drainOutcome_keeps (r := (_, _)) (freeRes_keeps h1))
      · exact pumpPart_keeps (drainOutcome_keeps (.iteFst (secondReplay_keeps h1) (referee_keeps h1)))

theorem abortPart_keeps {c u pi : Nat} {e : End} {s : State} (hs : K.of s) : K.of (abortPart c u pi e s) := by
  unfold abortPart
  extract_lets _ _ _ _ _ s1
  have hs1 : K.of s1 := modPart_keeps hs
  exact .foldl (fun _ _ hs => endJob_keeps hs) hs1

theorem eachPart_keeps {f : Nat → State → State} {n : Nat} {s : State} (hf : ∀ n s, K.of s → K.of (f n s)) (hs : K.of s) :
    K.of (eachPart f n s) := by
  induction n with
  | zero => exact hs
  | succ n ih => exact hf n _ ih

theorem runMmAbort_keeps {p : PMmAbort} {j : Job} {s : State} (hs : K.of s) : K.of (runMmAbort p j s).1 := by
  unfold runMmAbort
  extract_lets _ _ _ _ s1
  have hs1 : K.of s1 := .ite (eachPart_keeps (fun _ _ hs => pumpPart_keeps (abortPart_keeps hs)) hs) (pumpPart_keeps (abortPart_keeps hs))
  exact ends_keeps hs1

/-! ## Chains -/

theorem modChains_keeps {s : State} {die : Nat} {f : List Chain → List Chain} (hs : K.of s) : K.of (modChains s die f) :=
  hs.same rfl

theorem modChain_keeps {s : State} {die job : Nat} {f : Chain → Chain} (hs : K.of s) : K.of (modChain s die job f) :=
  modChains_keeps hs

theorem toMember_keeps {m : Option (Nat × Nat)} {f : Nat → Nat → NetMsg} {s : State} (hs : K.of s) : K.of (toMember m f s) := by
  unfold toMember
  split
  · exact send_keeps hs
  · exact hs

theorem abortAll_keeps {c : Chain} {failed : Option Nat} {s : State} (hs : K.of s) : K.of (abortAll c failed s) :=
  .foldl (fun _ _ hs => .ite hs (send_keeps hs)) hs

theorem closeChain_keeps {die job : Nat} {e : End} {s : State} (hs : K.of s) : K.of (closeChain die job e s) :=
  endJob_keeps (modChain_keeps hs)

theorem sendPiece_keeps {die : Nat} {c : Chain} {m : ChainMsg} {s : State} (hs : K.of s) : K.of (sendPiece die c m s) := by
  unfold sendPiece
  extract_lets s1
  have hs1 : K.of s1 := toMember_keeps hs
  exact modChain_keeps hs1

theorem sendOwn_keeps {die u : Nat} {c : Chain} {chk absSum : FVal} {n : Nat} {s : State} (hs : K.of s) :
    K.of (sendOwn die u c chk absSum n s) := by
  induction n generalizing s with
  | zero => exact hs
  | succ n ih => exact ih (sendPiece_keeps hs)

theorem openMember_keeps {die : Nat} {j : Job} {p : PChainReduce} {b : List Byte} {s : State} (hs : K.of s) :
    K.of (openMember die j p b s).1 := by
  unfold openMember
  extract_lets _ _ s1 s2
  have hs1 : K.of s1 := modChains_keeps hs
  have hs2 : K.of s2 := markUndef_keeps hs1
  split
  · exact hs
  · split
    · exact hs2
    · split
      · extract_lets s3
        have hs3 : K.of s3 := sendOwn_keeps hs2
        exact modChain_keeps hs3

theorem tryChain_keeps {p : PChainReduce} {j : Job} {s : State} (hs : K.of s) : K.of (tryChain p j s).1 := by
  unfold tryChain
  extract_lets
  split
  · exact waits_keeps hs
  · split
    · exact ends_keeps hs
    · split
      · exact ends_keeps hs
      · exact ends_keeps hs
      · split
        · exact ends_keeps hs
        · split
          · exact ends_keeps hs
          · split
            · exact ends_keeps hs
            · split
              · rename_i heq
                exact ends_keeps (Stable.of.ofFst heq (openMember_keeps hs))
              · rename_i heq
                exact waits_keeps (Stable.of.ofFst heq (openMember_keeps hs))

theorem pumpChains_keeps {die : Nat} {js : List Job} {s : State} (hs : K.of s) : K.of (pumpChains die js s) := by
  induction js generalizing s with
  | nil => exact hs
  | cons j js ih =>
    unfold pumpChains
    split
    · next p _ _ _ =>
      refine .ite (ih hs) ?_
      split
      · next s' e heq => exact ih (endJob_keeps (Stable.of.ofFst heq (tryChain_keeps hs)))
      · next s' ph heq => exact ih (modJob_keeps (Stable.of.ofFst heq (tryChain_keeps hs)))
    · exact ih hs

theorem runChainReduce_keeps {p : PChainReduce} {_f : Faults} {j : Job} {s : State} (hs : K.of s) :
    K.of (runChainReduce p _f j s).1 :=
  tryChain_keeps hs

theorem chainFailed_keeps {die : Nat} {c : Chain} {s : State} (hs : K.of s) : K.of (chainFailed die c s) := by
  unfold chainFailed
  extract_lets
  exact closeChain_keeps (abortAll_keeps hs)

theorem askResend_keeps {die : Nat} {c : Chain} {s : State} (hs : K.of s) : K.of (askResend die c s) := by
  unfold askResend
  extract_lets s1
  have hs1 : K.of s1 := modChain_keeps hs
  exact .foldl (fun _ _ hs => toMember_keeps hs) hs1

theorem closeHop_keeps {die u : Nat} {j : Job} {c : Chain} {ms : List ChainMsg} {bad : Bool} {s : State} (hs : K.of s) :
    K.of (closeHop die u j c ms bad s) := by
  unfold closeHop
  extract_lets _ _ _ s1 s2
  have hs1 : K.of s1 := storeLazy_keeps hs
  have hs2 : K.of s2 := .ite hs1 (statApply_keeps hs1)
  split
  · exact .ite (chainFailed_keeps hs) (askResend_keeps hs)
  · split
    · split
      · exact closeChain_keeps hs
      · exact closeChain_keeps hs2
    · split
      · exact hs
      · split
        · extract_lets s3
          have hs3 : K.of s3 := sendPiece_keeps hs
          exact closeChain_keeps hs3

/-! ## Dma -/

theorem writePieces_keeps {w : Who} {ps : List (Nat × Nat)} {bs : List Byte} {s : State} (hs : K.of s) :
    K.of (writePieces w ps bs s) := by
  induction ps generalizing bs s with
  | nil => exact hs
  | cons p ps ih => exact ih (storeLazy_keeps hs)

theorem addBlock_keeps {w : Who} {e : Elem} {n a : Nat} {cs : List Nat} {s : State} (hs : K.of s) : K.of (addBlock w e n a cs s) := by
  induction cs generalizing a s with
  | nil => exact hs
  | cons c cs ih => exact ih (sideAdd_keeps hs)

theorem moveOne_keeps {j : Job} {d : Desc} {src dst : List (Nat × Nat)} {sScale dScale : Nat} {r : DmaRun} (hs : K.of r.s) :
    K.of (moveOne j d src dst sScale dScale r).s := by
  unfold moveOne
  dsimp only
  split
  · exact markUndef_keeps hs
  · split
    · exact markUndef_keeps hs
    · exact .ite (writePieces_keeps hs) (storeLazy_keeps (writePieces_keeps hs))

theorem addRow_keeps {j : Job} {e : Elem} {n k a : Nat} {cs : List Nat} {r : DmaRun} (hs : K.of r.s) :
    K.of (addRow j e n k a cs r).s := by
  induction k generalizing a cs r with
  | zero => exact hs
  | succ k ih =>
    cases cs with
    | nil => exact hs
    | cons c cs =>
      unfold addRow
      dsimp only
      split
      · exact markUndef_keeps hs
      · exact ih (addBlock_keeps hs)

theorem scatterAdd_keeps {j : Job} {d : Desc} {b k rr : Nat} {r : DmaRun} (hs : K.of r.s) : K.of (scatterAdd j d b k rr r).s := by
  unfold scatterAdd
  extract_lets sa da n rb sz bad bs cs r1
  have h1 : K.of r1.s := addRow_keeps hs
  clear_value r1 bad
  cases bad with
  | some st => exact markUndef_keeps hs
  | none =>
    dsimp only
    split
    · exact markUndef_keeps hs
    · split
      · exact h1
      · exact h1

theorem dmaRow_keeps {j : Job} {d : Desc} {b rr : Nat} {r : DmaRun} (hs : K.of r.s) : K.of (dmaRow j d b rr r).s := by
  unfold dmaRow
  dsimp only
  split
  · exact moveOne_keeps hs
  · split
    · exact markUndef_keeps hs
    · split
      · split
        · split
          · exact markUndef_keeps hs
          · exact .ite (writePieces_keeps hs) (storeLazy_keeps (writePieces_keeps hs))
        · exact hs
      · split
        · exact scatterAdd_keeps hs
        · split
          · exact markUndef_keeps hs
          · exact moveOne_keeps hs

theorem dmaRows_keeps {j : Job} {d : Desc} {b n rr : Nat} {r : DmaRun} (hs : K.of r.s) : K.of (dmaRows j d b n rr r).s := by
  induction n generalizing rr r with
  | zero => exact hs
  | succ n ih =>
    unfold dmaRows
    split
    · exact hs
    · exact ih (dmaRow_keeps hs)

theorem dmaTranspose_keeps {j : Job} {d : Desc} {r : DmaRun} (hs : K.of r.s) : K.of (dmaTranspose j d r).s := by
  unfold dmaTranspose
  extract_lets s u n rows nbS nbD da undef poison
  split
  · exact markUndef_keeps hs
  · exact .ite (writeRows_keeps hs) (writeRows_keeps (writeRows_keeps hs))
  · exact hs

theorem runDesc_keeps {j : Job} {d : Desc} {b : Nat} {f : Faults} {s : State} (hs : K.of s) : K.of (runDesc j d b f s).s := by
  have hr : K.of (if d.op = 4 then dmaTranspose j d { s := s } else dmaRows j d b d.rows.toNat 0 { s := s }).s := by
    split
    · exact dmaTranspose_keeps hs
    · exact dmaRows_keeps hs
  unfold runDesc
  extract_lets u c unit strided n e r s1 s2 s3
  have h2 : K.of s2 := event_keeps (event_keeps (event_keeps (count_keeps (count_keeps hr))))
  have h3 : K.of s3 := .ite h2 (charge_keeps (.ite (count_keeps h2) h2))
  clear_value s3
  split
  · exact hs
  · split
    · exact count_keeps hs
    · split
      · exact h3
      · exact .ite (event_keeps (count_keeps h3)) (statApply_keeps (event_keeps (count_keeps h3)))

theorem dmaNote_keeps {j : Job} {e : End} {done idx addr : Nat} {s : State} (hs : K.of s) :
    K.of (dmaNote j e done idx addr s) := by
  unfold dmaNote
  extract_lets
  exact hs.same rfl

theorem runDmaRun_keeps {p : PDmaRun} {f : Faults} {j : Job} {s : State} (hs : K.of s) : K.of (runDmaRun p f j s).1 :=
  .iteFst (waits_keeps hs) (ends_keeps (dmaNote_keeps (runDesc_keeps (arrival_keeps hs))))

theorem seeOwn_keeps {id : Nat} {s : State} (hs : K.of s) : K.of (seeOwn id s) := by
  unfold seeOwn
  extract_lets
  exact hs.same rfl

theorem looseOwn_keeps {id u : Nat} {s : State} (hs : K.of s) : K.of (looseOwn id u s) := by
  unfold looseOwn
  extract_lets
  exact hs.same rfl

theorem chainLoop_keeps {j : Job} {p : PDmaChain} {n i : Nat} {f : Faults} {acc : End} {s : State} (hs : K.of s) :
    K.of (chainLoop j p n i f acc s).1.s := by
  induction n generalizing i f acc s with
  | zero => exact hs
  | succ n ih =>
    unfold chainLoop
    extract_lets a b bytes d s1 r e
    have h1 : K.of s1 := .ite (seeOwn_keeps hs) (looseOwn_keeps hs)
    split
    · exact hs
    · split
      · exact hs
      · split
        · exact runDesc_keeps h1
        · exact ih (runDesc_keeps h1)

theorem runDmaChain_keeps {p : PDmaChain} {f : Faults} {j : Job} {s : State} (hs : K.of s) : K.of (runDmaChain p f j s).1 :=
  .iteFst (waits_keeps hs) (ends_keeps (dmaNote_keeps (looseOwn_keeps (chainLoop_keeps (arrival_keeps hs)))))

/-! ## Units -/

theorem outcome_keeps {j : Job} {r : RunRes} (hs : K.of r.1) : K.of (outcome j r) := by
  unfold outcome
  split
  · exact endJob_keeps hs
  · exact modJob_keeps hs

theorem pumpUnit_keeps {run : Job → State → RunRes} {u n : Nat} {s : State} (hrun : ∀ j s, K.of s → K.of (run j s).1) (hs : K.of s) :
    K.of (pumpUnit run u n s) := by
  induction n generalizing s with
  | zero => exact hs
  | succ n ih =>
    unfold pumpUnit
    split
    · exact .ite (outcome_keeps (hrun _ _ hs)) (ih (outcome_keeps (hrun _ _ hs)))
    · refine .ite hs ?_
      split
      · exact hs
      · exact ih (outcome_keeps (hrun _ _ (serve_keeps hs)))

theorem runInUnit_keeps {_j : Job} {s : State} (hs : K.of s) : K.of (runInUnit _j s).1 := waits_keeps hs

/-! ## Windows -/

theorem joinWindow_keeps {obj : OrderObj} {o : Order} {s : State} (hs : K.of s) : K.of (joinWindow obj o s) := by
  unfold joinWindow
  split
  · extract_lets
    exact hs.same rfl
  · extract_lets
    exact count_keeps (hs.same rfl)

theorem gateCount_keeps {d : Nat} {taken : Bool} {s : State} (hs : K.of s) : K.of (gateCount d taken s) :=
  event_keeps (count_keeps hs)

theorem callRefused_keeps {die origin obj field ctx : Nat} {e : End} {s : State} (hs : K.of s) :
    K.of (callRefused die origin obj field ctx e s) :=
  ledgerEv_keeps hs

theorem joinAll_keeps {objs : List (OrderObj × Nat × Nat)} {j : Job} {s : State} (hs : K.of s) : K.of (joinAll objs j s).1 := by
  unfold joinAll
  extract_lets _ s1
  have hs1 : K.of s1 := count_keeps hs
  exact .iteFst (ends_keeps (gateCount_keeps hs1)) (waits_keeps (.foldl (fun _ _ hs => joinWindow_keeps hs) (gateCount_keeps hs1)))

theorem runOrder_keeps {obj : OrderObj} {j : Job} {s : State} (hs : K.of s) : K.of (runOrder obj j s).1 := joinAll_keeps hs

theorem leaveWindows_keeps {id : Nat} {s : State} (hs : K.of s) : K.of (leaveWindows id s) := by
  unfold leaveWindows
  extract_lets
  exact hs.same rfl

/-! ## Channels -/

theorem setChanState_keeps {ch : Nat} {c : ChanState} {s : State} (hs : K.of s) : K.of (setChanState ch c s) := by
  unfold setChanState
  extract_lets s1
  have hs1 : K.of s1 := modChan_keeps hs
  exact hs1.same rfl

theorem sideCheck_keeps {side : Nat} {s : State} (hs : K.of s) : K.of (sideCheck side s) := by
  unfold sideCheck
  extract_lets
  exact .ite (setReady_keeps hs) (.ite (setReady_keeps hs) hs)

theorem softMapOut_keeps {ch origin : Nat} {s : State} (hs : K.of s) : K.of (softMapOut ch origin s) := by
  unfold softMapOut
  extract_lets _ s1
  have hs1 : K.of s1 := modSide_keeps hs
  exact ledger_keeps hs1

theorem mapOutAct_keeps {ch mode : Nat} {s : State} (hs : K.of s) : K.of (mapOutAct ch mode s) := by
  unfold mapOutAct
  extract_lets
  exact actOn_keeps hs

theorem autoSoft_keeps {ch : Nat} {s : State} (hs : K.of s) : K.of (autoSoft ch s) := by
  unfold autoSoft
  extract_lets
  split
  · exact softMapOut_keeps (mapOutAct_keeps hs)
  · exact .ite (ledgerEv_keeps (modSide_keeps hs)) hs

theorem reportContexts_keeps {ch origin : Nat} {s : State} (hs : K.of s) : K.of (reportContexts ch origin s) :=
  .foldl (fun _ _ hs => ledger_keeps hs) hs

theorem losePoison_keeps {ch : Nat} {s : State} (hs : K.of s) : K.of (losePoison ch s) :=
  .foldl (fun _ _ hs => poisonWaiters_keeps hs) hs

theorem hardMapOut_keeps {ch origin : Nat} {s : State} (hs : K.of s) : K.of (hardMapOut ch origin s) := by
  unfold hardMapOut
  extract_lets _ s1 s2 s3 s4
  have hs1 : K.of s1 := setChanState_keeps hs
  have hs2 : K.of s2 := modChan_keeps hs1
  have hs3 : K.of s3 := modSide_keeps hs2
  have hs4 : K.of s4 := ledger_keeps hs3
  exact sideCheck_keeps (losePoison_keeps (reportContexts_keeps hs4))

theorem autoHard_keeps {ch : Nat} {s : State} (hs : K.of s) : K.of (autoHard ch s) := hardMapOut_keeps (mapOutAct_keeps hs)

theorem hardOrder_keeps {ch origin : Nat} {s : State} (hs : K.of s) : K.of (hardOrder ch origin s).1 := by
  unfold hardOrder
  extract_lets
  split
  · exact hardMapOut_keeps hs
  · exact hs
  · exact hs
  · exact hs

theorem mapOutApply_keeps {p : PMapOut} {origin : Nat} {s : State} (hs : K.of s) : K.of (mapOutApply p origin s).1 := by
  unfold mapOutApply
  extract_lets _ s1
  have hs1 : K.of s1.1 := hardOrder_keeps hs
  split
  · split
    · exact softMapOut_keeps hs
    · exact callRefused_keeps hs
  · exact .iteFst hs1 (.iteFst (ledger_keeps hs1) (callRefused_keeps hs1))

theorem keepPoison_keeps {a : Nat} {s : State} (hs : K.of s) : K.of (keepPoison a s) := by
  unfold keepPoison
  extract_lets
  exact hs.same rfl

theorem moveGranules_keeps {a n : Nat} {s : State} (hs : K.of s) : K.of (moveGranules a n s) := by
  induction n generalizing a s with
  | zero => exact hs
  | succ n ih => exact ih (.ite (keepPoison_keeps hs) hs)

theorem restripeDone_keeps {side : Nat} {s : State} (hs : K.of s) : K.of (restripeDone side s) := by
  unfold restripeDone
  extract_lets _ _ _ s1 s2
  have hs1 : K.of s1 := setChanState_keeps hs
  have hs2 : K.of s2 := modSide_keeps hs1
  exact sideCheck_keeps (ledger_keeps hs2)

theorem correctedBlock_keeps {ch : Nat} {ctx : Option Nat} {s : State} (hs : K.of s) : K.of (correctedBlock ch ctx s) := by
  unfold correctedBlock
  extract_lets _ s1 s2 s3
  have hs1 : K.of s1 := count_keeps (count_keeps hs)
  have hs2 : K.of s2 := by
    dsimp only [s2]
    split
    · exact record_keeps (count_keeps (count_keeps hs))
    · exact count_keeps (count_keeps hs)
  have hs3 : K.of s3 := modChan_keeps hs2
  exact .ite (autoSoft_keeps hs3) hs3

theorem uncorrectableBlock_keeps {ch block : Nat} {ctx : Option Nat} {s : State} (hs : K.of s) :
    K.of (uncorrectableBlock ch block ctx s) := by
  unfold uncorrectableBlock
  extract_lets _ s1 s2 s3 s4
  have hs1 : K.of s1 := count_keeps (count_keeps hs)
  have hs2 : K.of s2 := by
    dsimp only [s2]
    split
    · exact record_keeps (count_keeps (count_keeps hs))
    · exact count_keeps (count_keeps hs)
  have hs3 : K.of s3 := modChan_keeps hs2
  have hs4 : K.of s4 := poisonBlock_keeps hs3
  exact .ite (autoHard_keeps hs4) hs4

theorem readBlock_keeps {ch block : Nat} {ctx : Option Nat} {e : Ecc} {s : State} (hs : K.of s) :
    K.of (readBlock ch block ctx e s) := by
  unfold readBlock
  split
  · exact hs
  · exact correctedBlock_keeps hs
  · exact uncorrectableBlock_keeps hs

theorem serveRequest_keeps {ch : Nat} {r : ChanReq} {e : Ecc} {s : State} (hs : K.of s) : K.of (serveRequest ch r e s) := by
  unfold serveRequest
  extract_lets _ _ s1 _ _ s2
  have hs1 : K.of s1 := event_keeps hs
  have hs2 : K.of s2 := readBlock_keeps hs1
  split
  · exact hs
  · split
    · exact .ite hs1 (readBlock_keeps hs1)
    · extract_lets
      exact .ite hs1 (.ite (.ite hs1 (storeNow_keeps hs1)) (.ite hs1 (.ite hs2 (storeNow_keeps hs2))))

theorem trainChannel_keeps {ch : Nat} {s : State} (hs : K.of s) : K.of (trainChannel ch s) := modChan_keeps (modSide_keeps hs)

theorem dueRetrain_keeps {first : Bool} {ch : Nat} {s : State} (hs : K.of s) : K.of (dueRetrain first ch s) := by
  unfold dueRetrain
  extract_lets
  exact .ite hs (.ite (trainChannel_keeps hs) (.ite (modSide_keeps hs) (.ite hs (modSide_keeps hs))))

theorem nextRetrain_keeps {side : Nat} {s : State} (hs : K.of s) : K.of (nextRetrain side s) := by
  unfold nextRetrain
  split
  · exact hs
  · exact .ite (trainChannel_keeps hs) hs

theorem serveQueue_keeps {ch n : Nat} {s : State} (hs : K.of s) : K.of (serveQueue ch n s) := by
  induction n generalizing s with
  | zero => exact hs
  | succ n ih =>
    unfold serveQueue
    split
    · exact hs
    · exact ih (serveRequest_keeps (modChan_keeps (countMax_keeps (countMax_keeps hs))))

theorem endCalibrations_keeps {ch : Nat} {e : End} {s : State} (hs : K.of s) : K.of (endCalibrations ch e s) :=
  .foldl (fun _ _ hs => endJob_keeps hs) hs

theorem endTraining_keeps {ch : Nat} {passed : Bool} {s : State} (hs : K.of s) : K.of (endTraining ch passed s) := by
  unfold endTraining
  extract_lets _ _ s1 s2 s3
  have hs1 : K.of s1 := count_keeps (count_keeps hs)
  have hs2 : K.of s2 := modSide_keeps hs1
  have hs3 : K.of s3 := modChan_keeps hs2
  split
  · exact .ite (serveQueue_keeps (endCalibrations_keeps hs3)) (autoHard_keeps (endCalibrations_keeps hs3))
  · exact endCalibrations_keeps hs3
  · exact .ite (endCalibrations_keeps (setChanState_keeps (modChan_keeps hs3))) (endCalibrations_keeps hs3)

theorem dropAbove_keeps {side p : Nat} {s : State} (hs : K.of s) : K.of (dropAbove side p s) := K.drop _ hs

theorem remapChannel_keeps {out : Option Nat} {ch : Nat} {s : State} (hs : K.of s) : K.of (remapChannel out ch s) := by
  unfold remapChannel
  split
  · exact setChanState_keeps (modChan_keeps hs)
  · exact .ite (setChanState_keeps hs) hs
  · exact hs

theorem remapSide_keeps {epoch origin side : Nat} {s : State} (hs : K.of s) : K.of (remapSide epoch origin side s) := by
  unfold remapSide
  extract_lets sd kept outgoing s1 out p m s2
  have h1 : K.of s1 := .foldl (fun _ _ hs => remapChannel_keeps hs) hs
  clear_value s1
  have h2 : K.of s2 := h1.same rfl
  clear_value s2
  exact sideCheck_keeps (ledger_keeps (modSide_keeps (dropAbove_keeps h2)))

theorem remapApply_keeps {p : PRemapEpoch} {busy : Bool} {origin : Nat} {s : State} (hs : K.of s) :
    K.of (remapApply p busy origin s).1 := by
  unfold remapApply
  extract_lets _ _ _ _ s1
  have hs1 : K.of s1 := hs.same rfl
  exact .iteFst (callRefused_keeps hs) (.iteFst (callRefused_keeps hs) (.iteFst (ledger_keeps hs1) (.foldl (fun _ _ hs => remapSide_keeps hs) hs1)))

/-! ## Claims -/

theorem modWs_keeps {s : State} {d : Nat} {f : Watershed → Watershed} (hs : K.of s) : K.of (modWs s d f) := hs.same rfl

theorem modRound_keeps {s : State} {d tag : Nat} {f : Round → Round} (hs : K.of s) : K.of (modRound s d tag f) := modWs_keeps hs

theorem closeRound_keeps {s : State} {d tag : Nat} (hs : K.of s) : K.of (closeRound s d tag) := by
  unfold closeRound
  extract_lets s1
  have hs1 : K.of s1 := count_keeps hs
  exact modWs_keeps hs1

theorem modTag_keeps {s : State} {d tag : Nat} {f : TagRec → TagRec} (hs : K.of s) : K.of (modTag s d tag f) := modWs_keeps hs

theorem rememberTag_keeps {s : State} {d : Nat} {t : TagRec} (hs : K.of s) : K.of (rememberTag s d t) := modWs_keeps hs

theorem noteOwners_keeps {s : State} {d tag : Nat} {os : List Nat} (hs : K.of s) : K.of (noteOwners s d tag os) := modTag_keeps hs

theorem modCf_keeps {s : State} {d : Nat} {f : Confluence → Confluence} (hs : K.of s) : K.of (modCf s d f) := hs.same rfl

theorem modClaim_keeps {s : State} {d tag : Nat} {grad : Bool} {f : Claim → Claim} (hs : K.of s) :
    K.of (modClaim s d tag grad f) :=
  modCf_keeps hs

theorem openClaim_keeps {s : State} {d : Nat} {c : Claim} (hs : K.of s) : K.of (openClaim s d c) := by
  unfold openClaim
  extract_lets _ s1 s2 s3
  have hs1 : K.of s1 := arrival_keeps hs
  have hs2 : K.of s2 := modCf_keeps hs1
  have hs3 : K.of s3 := countMax_keeps hs2
  exact modCf_keeps hs3

theorem closeClaim_keeps {s : State} {d tag : Nat} {grad : Bool} (hs : K.of s) : K.of (closeClaim s d tag grad) := by
  unfold closeClaim
  extract_lets s1
  have hs1 : K.of s1 := modCf_keeps hs
  exact modTag_keeps hs1

/-! ## Routing -/

theorem wsVerdict_keeps {u checks : Nat} {f : Faults} {e : End} {s : State} (hs : K.of s) :
    K.of (wsVerdict u checks f e s).1 := by
  unfold wsVerdict
  extract_lets
  exact .iteFst (count_keeps hs) (.iteFst (charge_keeps (count_keeps hs)) hs)

theorem runRtTopk_keeps {p : PRtTopk} {f : Faults} {j : Job} {s : State} (hs : K.of s) : K.of (runRtTopk p f j s).1 := by
  unfold runRtTopk
  extract_lets _ _ _ _ _ _ _ _ _ s1
  have hs1 : K.of s1 := arrival_keeps hs
  split
  · exact ends_keeps hs
  · split
    · exact waits_keeps hs
    · split
      · exact ends_keeps hs
      · split
        · exact ends_keeps hs
        · split
          · exact hs
          · split
            · exact ends_keeps hs
            · extract_lets _ s2 s3
              have hs2 : K.of s2 := setCount_keeps (modWs_keeps hs1)
              have hs3 : K.of s3 := rememberTag_keeps hs2
              split
              · rename_i heq39
                extract_lets s4 s5 s6
                have hs4 : K.of s4 := storeLazy_keeps (Stable.of.ofFst heq39 (wsVerdict_keeps hs3))
                have hs5 : K.of s5 := storeLazy_keeps hs4
                have hs6 : K.of s6 := event_keeps (count_keeps hs5)
                exact .iteFst (ends_keeps (Stable.of.ofFst heq39 (wsVerdict_keeps hs3))) (ends_keeps (modRound_keeps hs6))

theorem sendCounts_keeps {s : State} {d : Nat} {r : Round} {spill : Bool} {cnt : AMap Nat} (hs : K.of s) :
    K.of (sendCounts s d r spill cnt) :=
  .foldl (fun _ _ hs => send_keeps hs) hs

theorem runRtCount_keeps {p : PRtCount} {j : Job} {s : State} (hs : K.of s) : K.of (runRtCount p j s).1 := by
  unfold runRtCount
  extract_lets
  split
  · exact ends_keeps hs
  · extract_lets _ _ _ _ _ s1
    have hs1 : K.of s1 := modRound_keeps hs
    split
    · exact ends_keeps hs
    · split
      · exact ends_keeps hs
      · split
        · exact ends_keeps hs
        · split
          · exact ends_keeps hs
          · split
            · exact hs
            · split
              · exact ends_keeps hs
              · exact waits_keeps (sendCounts_keeps (noteOwners_keeps hs1))

theorem uncount_keeps {s : State} {d tag : Nat} (hs : K.of s) : K.of (uncount s d tag) := modRound_keeps hs

theorem countDone_keeps {d : Nat} {r : Round} {j : Job} {f : Faults} {s : State} (hs : K.of s) : K.of (countDone d r j f s) := by
  unfold countDone
  extract_lets
  split
  · rename_i heq18
    extract_lets s1 s2 s3 s4 s5
    have hs1 : K.of s1 := storeLazy_keeps (Stable.of.ofFst heq18 (wsVerdict_keeps hs))
    have hs2 : K.of s2 := .ite (storeLazy_keeps hs1) hs1
    have hs3 : K.of s3 := event_keeps (count_keeps hs2)
    have hs4 : K.of s4 := event_keeps (count_keeps hs3)
    have hs5 : K.of s5 := modRound_keeps hs4
    exact .ite (endJob_keeps (uncount_keeps (Stable.of.ofFst heq18 (wsVerdict_keeps hs)))) (endJob_keeps (modTag_keeps hs5))

theorem takeQuota_keeps {d : Nat} {m : QuotaMsg} {f : Faults} {r : Round} {j : Job} {s : State} (hs : K.of s) :
    K.of (takeQuota d m f r j s) := by
  unfold takeQuota
  extract_lets _ _ _ s1
  have hs1 : K.of s1 := .ite (modJob_keeps (charge_keeps hs)) hs
  split
  · exact endJob_keeps (uncount_keeps hs)
  · exact endJob_keeps (uncount_keeps hs)
  · exact endJob_keeps (uncount_keeps hs)
  · extract_lets _ s2
    have hs2 : K.of s2 := modRound_keeps hs1
    split
    · exact endJob_keeps (uncount_keeps hs)
    · split
      · exact hs2
      · split
        · exact sendCounts_keeps (modRound_keeps hs2)
        · split
          · exact countDone_keeps hs2
          · exact hs2

theorem gatherLists_keeps {d : Nat} {dests : List Nat} {s : State} (hs : K.of s) : K.of (gatherLists d dests s) := by
  unfold gatherLists
  refine .foldl ?_ hs
  intro _ _ hs
  split
  · exact .ite hs (event_keeps (count_keeps hs))
  · exact hs

theorem sendRows_keeps {d ctx tag : Nat} {grad : Bool} {claim fmt rb : Nat} {back : Bool} {l : List (Nat × RouteRec × List Byte)} {s : State} (hs : K.of s) :
    K.of (sendRows d ctx tag grad claim fmt rb back l s) := by
  unfold sendRows
  extract_lets _ s1 s2 s3
  have hs1 : K.of s1 := noteOwners_keeps hs
  have hs2 : K.of s2 := modTag_keeps hs1
  have hs3 : K.of s3 := gatherLists_keeps hs2
  exact .foldl (fun _ _ hs => send_keeps hs) hs3

theorem runRtDispatch_keeps {p : PRtDispatch} {f : Faults} {j : Job} {s : State} (hs : K.of s) :
    K.of (runRtDispatch p f j s).1 := by
  unfold runRtDispatch
  extract_lets
  split
  · exact ends_keeps hs
  · extract_lets _ _ _ _ _ _ s1
    have hs1 : K.of s1 := openClaim_keeps hs
    split
    · exact ends_keeps hs
    · split
      · exact ends_keeps hs
      · split
        · exact ends_keeps hs
        · split
          · exact ends_keeps hs
          · split
            · exact waits_keeps hs
            · split
              · exact hs
              · split
                · rename_i heq41
                  extract_lets s2 s3 s4
                  have hs2 : K.of s2 := storeLazy_keeps (Stable.of.ofFst heq41 (wsVerdict_keeps hs1))
                  have hs3 : K.of s3 := sendRows_keeps hs2
                  have hs4 : K.of s4 := modJob_keeps hs3
                  split
                  · exact ends_keeps (closeRound_keeps (Stable.of.ofFst heq41 (wsVerdict_keeps hs1)))
                  · split
                    · exact ends_keeps (closeRound_keeps hs2)
                    · exact .iteFst (ends_keeps (closeRound_keeps hs4)) (waits_keeps (modTag_keeps hs4))

theorem runRtReplay_keeps {p : PRtReplay} {f : Faults} {j : Job} {s : State} (hs : K.of s) : K.of (runRtReplay p f j s).1 := by
  unfold runRtReplay
  extract_lets
  split
  · exact ends_keeps hs
  · extract_lets _ _ _ _ _ s1
    have hs1 : K.of s1 := .ite (openClaim_keeps hs) hs
    split
    · exact ends_keeps hs
    · split
      · exact ends_keeps hs
      · split
        · exact ends_keeps hs
        · split
          · exact waits_keeps hs
          · split
            · exact hs
            · split
              · extract_lets
                split
                · rename_i heq42
                  split
                  · exact ends_keeps (Stable.of.ofFst heq42 (wsVerdict_keeps hs1))
                  · split
                    · exact ends_keeps (Stable.of.ofFst heq42 (wsVerdict_keeps hs1))
                    · extract_lets s2 s3
                      have hs2 : K.of s2 := sendRows_keeps (Stable.of.ofFst heq42 (wsVerdict_keeps hs1))
                      have hs3 : K.of s3 := modJob_keeps hs2
                      split
                      · exact ends_keeps hs3
                      · exact .iteFst (ends_keeps hs3) (waits_keeps (modTag_keeps hs3))

theorem landEnd_keeps {s : State} {d : Nat} {j : Job} (hs : K.of s) : K.of (landEnd s d j).1 := by
  unfold landEnd
  extract_lets
  split
  · split
    · exact closeRound_keeps hs
    · exact hs
  · exact hs

theorem landStop_keeps {d tag : Nat} {j : Job} {e : End} {s : State} (hs : K.of s) : K.of (landStop d tag j e s) := by
  unfold landStop
  extract_lets s1 s2
  have hs1 : K.of s1 := modTag_keeps hs
  have hs2 : K.of s2 := by
    dsimp only [s2]
    split
    · exact closeRound_keeps (modTag_keeps hs)
    · exact modTag_keeps hs
  exact endJob_keeps hs2

theorem takeConfirm_keeps {d : Nat} {m : Confirm} {t : TagRec} {s : State} (hs : K.of s) : K.of (takeConfirm d m t s) := by
  unfold takeConfirm
  extract_lets _ _ _ s1
  have hs1 : K.of s1 := modTag_keeps hs
  split
  · exact hs1
  · split
    · split
      · exact hs1
      · split
        · rename_i heq
          exact endJob_keeps (modTag_keeps (Stable.of.ofFst heq (landEnd_keeps hs1)))
    · exact landStop_keeps hs1
    · exact landStop_keeps hs1
    · exact landStop_keeps hs1

theorem tryCancelEnd_keeps {d tag : Nat} {s : State} (hs : K.of s) : K.of (tryCancelEnd d tag s) := by
  unfold tryCancelEnd
  split
  · exact hs
  · split
    · exact hs
    · exact .ite (endJob_keeps (modTag_keeps hs)) hs

theorem cancelClaims_keeps {d tag : Nat} {s : State} (hs : K.of s) : K.of (cancelClaims d tag s) := by
  unfold cancelClaims
  extract_lets _ s1
  have hs1 : K.of s1 := by
    dsimp only [s1]
    refine .foldl ?_ hs
    intro _ _ hs
    split
    · exact endJob_keeps hs
    · exact hs
  exact modCf_keeps hs1

theorem runRtCancel_keeps {p : PRtCancel} {j : Job} {s : State} (hs : K.of s) : K.of (runRtCancel p j s).1 := by
  unfold runRtCancel
  extract_lets _ _ s1 _ s2 s3 _ s4 s5 _ _ s6
  have hs1 : K.of s1 := .ite hs (rememberTag_keeps hs)
  have hs2 : K.of s2 := .foldl (fun _ _ hs => endJob_keeps hs) hs1
  have hs3 : K.of s3 := closeRound_keeps hs2
  have hs4 : K.of s4 := modTag_keeps hs3
  have hs5 : K.of s5 := cancelClaims_keeps hs4
  have hs6 : K.of s6 := .foldl (fun _ _ hs => send_keeps hs) hs5
  exact .iteFst (waits_keeps hs6) (ends_keeps (modTag_keeps hs6))

theorem wsRun_keeps {j : Job} {s : State} (hs : K.of s) : K.of (wsRun j s).1 := by
  unfold wsRun
  split
  · exact runRtTopk_keeps hs
  · exact runRtCount_keeps hs
  · exact runRtDispatch_keeps hs
  · exact runRtReplay_keeps hs
  · exact ends_keeps hs

theorem pumpWs_keeps {d : Nat} {s : State} (hs : K.of s) : K.of (pumpWs d s) := pumpUnit_keeps (fun _ _ hs => wsRun_keeps hs) hs

/-! ## Owner -/

theorem modOwn_keeps {s : State} {d tag : Nat} {f : OwnTag → OwnTag} (hs : K.of s) : K.of (modOwn s d tag f) := modWs_keeps hs

theorem withOwn_keeps {s : State} {d tag : Nat} (hs : K.of s) : K.of (withOwn s d tag) := .ite hs (modWs_keeps hs)

theorem wsFence_keeps {s : State} {d : Nat} (hs : K.of s) : K.of (wsFence s d) := by
  unfold wsFence
  extract_lets
  exact hs.same rfl

theorem writeArrival_keeps {d c tag : Nat} {grad : Bool} {n : Nat} {e : DirEntry} {s : State} (hs : K.of s) :
    K.of (writeArrival d c tag grad n e s) := by
  unfold writeArrival
  extract_lets _ s1
  have hs1 : K.of s1 := wsFence_keeps hs
  exact .ite (sigStore_keeps hs1) hs1

theorem tryArrive_keeps {d layer expert : Nat} {grad : Bool} {s : State} (hs : K.of s) :
    K.of (tryArrive d layer expert grad s) := by
  unfold tryArrive
  extract_lets
  split
  · split
    · extract_lets s1 s2
      have hs1 : K.of s1 := modWs_keeps hs
      have hs2 : K.of s2 := .ite hs1 (modOwn_keeps hs1)
      exact .ite (writeArrival_keeps hs2) hs
    · exact hs
  · exact hs

theorem arriveAll_keeps {d c tag layer : Nat} {s : State} (hs : K.of s) : K.of (arriveAll d c tag layer s) := by
  unfold arriveAll
  split
  · exact hs
  · exact .foldl (fun _ _ hs => .ite hs (.ite (writeArrival_keeps (modOwn_keeps hs)) (tryArrive_keeps hs))) hs

theorem answer_keeps {d : Nat} {m : CountMsg} {a : QuotaAns} {s : State} (hs : K.of s) : K.of (answer d m a s) := send_keeps hs

theorem fillAll_keeps {d tag : Nat} {spill : Bool} {s : State} (hs : K.of s) : K.of (fillAll d tag spill s) := by
  unfold fillAll
  split
  · exact hs
  · extract_lets msgs
    clear_value msgs
    cases msgs with
    | nil => exact hs
    | cons m0 ms =>
      dsimp only
      split
      · exact .ite (arriveAll_keeps (.foldl (fun _ _ hs => answer_keeps hs) (modOwn_keeps hs)))
          (.foldl (fun _ _ hs => answer_keeps hs) (modOwn_keeps hs))
      · exact .foldl (fun _ _ hs => answer_keeps hs) (modOwn_keeps hs)

theorem refuseRound_keeps {d tag off : Nat} {m : CountMsg} {s : State} (hs : K.of s) : K.of (refuseRound d tag off m s) := by
  unfold refuseRound
  split
  · exact hs
  · extract_lets
    exact .foldl (fun _ _ hs => answer_keeps hs) (modOwn_keeps hs)

theorem takeCounts_keeps {d : Nat} {m : CountMsg} {s : State} (hs : K.of s) : K.of (takeCounts d m s) := by
  unfold takeCounts
  extract_lets _ s1
  have hs1 : K.of s1 := withOwn_keeps hs
  split
  · exact hs1
  · split
    · exact answer_keeps hs1
    · split
      · exact answer_keeps hs1
      · split
        · exact answer_keeps hs1
        · extract_lets _ _ s2
          have hs2 : K.of s2 := modOwn_keeps hs1
          split
          · exact refuseRound_keeps hs1
          · exact .ite (fillAll_keeps hs2) hs2

theorem failRound_keeps {d : Nat} {m : CountMsg} {s : State} (hs : K.of s) : K.of (failRound d m s) := by
  unfold failRound
  extract_lets s1
  have hs1 : K.of s1 := withOwn_keeps hs
  split
  · exact hs1
  · extract_lets
    exact .foldl (fun _ _ hs => answer_keeps hs) (modOwn_keeps hs1)

theorem confirmRow_keeps {m : RowMsg} {a : LandAns} {s : State} (hs : K.of s) : K.of (confirmRow m a s) := send_keeps hs

theorem staleRow_keeps {d : Nat} {m : RowMsg} {s : State} (hs : K.of s) : K.of (staleRow d m s) := by
  unfold staleRow
  extract_lets s1
  have hs1 : K.of s1 := modOwn_keeps hs
  exact send_keeps hs1

theorem addGrad_keeps {w : Who} {a i : Nat} {vs : List FVal} {s : State} (hs : K.of s) : K.of (addGrad w a i vs s) := by
  induction vs generalizing i s with
  | nil => exact hs
  | cons v vs ih => exact ih (addFp32_keeps hs)

theorem landGradRow_keeps {d : Nat} {m : RowMsg} {e : DirEntry} {s : State} (hs : K.of s) : K.of (landGradRow d m e s) := by
  unfold landGradRow
  split
  · exact confirmRow_keeps hs
  · extract_lets
    split
    · exact confirmRow_keeps hs
    · exact confirmRow_keeps (.ite hs (addGrad_keeps hs))

theorem landExpertRow_keeps {d : Nat} {m : RowMsg} {e : DirEntry} {s : State} (hs : K.of s) : K.of (landExpertRow d m e s) := by
  unfold landExpertRow
  extract_lets _ _ _ _ _ _ _ s1 _ _ _ s2
  have hs1 : K.of s1 := storeLazy_keeps hs
  have hs2 : K.of s2 := modWs_keeps hs1
  split
  · exact modWs_keeps hs
  · split
    · exact confirmRow_keeps hs
    · exact tryArrive_keeps (confirmRow_keeps hs2)

theorem serveLookup_keeps {d : Nat} {m : RowMsg} {e : DirEntry} {s : State} (hs : K.of s) : K.of (serveLookup d m e s) := by
  unfold serveLookup
  extract_lets _ _ s1
  have hs1 : K.of s1 := confirmRow_keeps hs
  split
  · exact confirmRow_keeps hs
  · exact .ite hs1 (send_keeps hs1)

theorem ownerRow_keeps {d : Nat} {m : RowMsg} {s : State} (hs : K.of s) : K.of (ownerRow d m s) := by
  unfold ownerRow
  split
  · exact staleRow_keeps hs
  · split
    · exact confirmRow_keeps hs
    · split
      · exact confirmRow_keeps hs
      · split
        · exact confirmRow_keeps hs
        · split
          · exact landExpertRow_keeps hs
          · exact landExpertRow_keeps hs
          · exact serveLookup_keeps hs
          · exact landGradRow_keeps hs
          · exact hs

theorem returnSlot_keeps {d : Nat} {e : DirEntry} {h : Half} {grad : Bool} {r : Landed} {s : State} (hs : K.of s) :
    K.of (returnSlot d e h grad r s) := by
  unfold returnSlot
  extract_lets
  exact .ite hs (send_keeps hs)

/-! ## Combine -/

theorem writeScalars_keeps {d : Nat} {w : Who} {p : PCbReturnGrad} {c : Claim} {t : Nat} {s : State} (hs : K.of s) :
    K.of (writeScalars d w p c t s) := by
  unfold writeScalars
  extract_lets
  exact count_keeps (storeLazy_keeps hs)

theorem writeRow_keeps {d : Nat} {j : Job} {c : Claim} {t : Nat} {r : ClaimRow} {s : State} (hs : K.of s) :
    K.of (writeRow d j c t r s) := by
  unfold writeRow
  extract_lets u
  split
  next a f =>
  extract_lets s1 s2
  have h1 : K.of s1 := by
    simp only [s1]
    split
    · exact storeNow_keeps (event_keeps (event_keeps hs))
    · exact hs
  have h2 : K.of s2 := count_keeps h1
  clear_value s2
  split
  · exact .ite h2 (sigStore_keeps h2)
  · exact h2

theorem finaliseRow_keeps {d : Nat} {j : Job} {c : Claim} {t : Nat} {s : State} (hs : K.of s) : K.of (finaliseRow d j c t s) := by
  unfold finaliseRow
  extract_lets _ _ s1 s2
  have hs1 : K.of s1 := .ite (writeRow_keeps hs) (count_keeps hs)
  have hs2 : K.of s2 := by
    dsimp only [s2]
    split
    · exact writeScalars_keeps (.ite (writeRow_keeps hs) (count_keeps hs))
    · exact .ite (writeRow_keeps hs) (count_keeps hs)
  exact modClaim_keeps hs2

theorem closeSink_keeps {d tag : Nat} {s : State} (hs : K.of s) : K.of (closeSink d tag s) := .ite (closeClaim_keeps hs) hs

theorem combineEnd_keeps {d : Nat} {j : Job} {c : Claim} {s : State} (hs : K.of s) : K.of (combineEnd d j c s).1 := by
  unfold combineEnd
  extract_lets _ _ s1 s2
  have hs1 : K.of s1 := by
    dsimp only [s1]
    split
    · exact .ite (storeLazy_keeps hs) hs
    · exact .foldl (fun _ _ hs => writeScalars_keeps hs) hs
    · exact hs
  have hs2 : K.of s2 := closeClaim_keeps hs1
  exact .ite (closeSink_keeps hs2) hs2

theorem advance_keeps {d : Nat} {j : Job} {tag : Nat} {grad : Bool} {s : State} (hs : K.of s) :
    K.of (advance d j tag grad s).1 := by
  unfold advance
  split
  · exact waits_keeps hs
  · extract_lets s1
    have hs1 : K.of s1 := by
      dsimp only [s1]
      refine .foldl ?_ hs
      intro _ _ hs
      split
      · exact finaliseRow_keeps hs
      · exact hs
    split
    · exact waits_keeps hs1
    · split
      · split
        · rename_i heq
          exact ends_keeps (Stable.of.ofFst heq (combineEnd_keeps hs1))
      · exact waits_keeps hs1

theorem bind_keeps {d : Nat} {j : Job} {c : Claim} {s : State} (hs : K.of s) : K.of (Machine.bind d j c s).1 := by
  unfold Machine.bind
  split
  · exact ends_keeps hs
  · exact advance_keeps (modClaim_keeps hs)

theorem bindStop_keeps {d : Nat} {c : Claim} {x2 : End ⊕ Phase} {s : State} (hs : K.of s) : K.of (bindStop d c x2 s).1 := by
  unfold bindStop
  split
  · exact ends_keeps (closeClaim_keeps hs)
  · exact waits_keeps hs

theorem runCbCombine_keeps {p : PCbCombine} {j : Job} {s : State} (hs : K.of s) : K.of (runCbCombine p j s).1 := by
  unfold runCbCombine
  extract_lets
  split
  · exact ends_keeps hs
  · extract_lets
    split
    · exact ends_keeps hs
    · split
      · exact ends_keeps hs
      · split
        · exact ends_keeps hs
        · split
          · exact ends_keeps hs
          · split
            · exact bindStop_keeps hs
            · exact bind_keeps hs

theorem runCbReturnGrad_keeps {p : PCbReturnGrad} {f : Faults} {j : Job} {s : State} (hs : K.of s) :
    K.of (runCbReturnGrad p f j s).1 := by
  unfold runCbReturnGrad
  extract_lets _ _ s1
  have hs1 : K.of s1 := .ite (modClaim_keeps hs) hs
  split
  · exact ends_keeps hs
  · extract_lets
    split
    · exact ends_keeps hs
    · split
      · exact ends_keeps hs
      · split
        · exact ends_keeps hs
        · split
          · exact bindStop_keeps hs
          · exact .iteFst (ends_keeps (closeSink_keeps (closeClaim_keeps hs1))) (bind_keeps (.ite (charge_keeps hs1) hs1))

theorem cfRun_keeps {j : Job} {s : State} (hs : K.of s) : K.of (cfRun j s).1 := by
  unfold cfRun
  split
  · exact runCbCombine_keeps hs
  · exact runCbReturnGrad_keeps hs
  · exact ends_keeps hs

theorem pumpCf_keeps {d : Nat} {s : State} (hs : K.of s) : K.of (pumpCf d s) := pumpUnit_keeps (fun _ _ hs => cfRun_keeps hs) hs

theorem pumpDie_keeps {d : Nat} {s : State} (hs : K.of s) : K.of (pumpDie d s) := pumpWs_keeps (pumpCf_keeps hs)

theorem combineExpire_keeps {d : Nat} {j : Job} {s : State} (hs : K.of s) : K.of (combineExpire d j s) := by
  unfold combineExpire
  split
  · exact endJob_keeps hs
  · split
    · rename_i heq
      exact endJob_keeps (Stable.of.ofFst heq (combineEnd_keeps hs))

theorem staleContribution_keeps {d : Nat} {m : RowMsg} {dup : Bool} {s : State} (hs : K.of s) :
    K.of (staleContribution d m dup s) := by
  unfold staleContribution
  extract_lets _ _ _ s1 s2 s3
  have hs1 : K.of s1 := event_keeps (count_keeps hs)
  have hs2 : K.of s2 := .ite (count_keeps hs1) hs1
  have hs3 : K.of s3 := modCf_keeps hs2
  split
  · exact modJob_keeps hs3
  · exact hs3

theorem applyContribution_keeps {d : Nat} {m : RowMsg} {f : Faults} {c : Claim} {q : RouteRec} {s : State} (hs : K.of s) :
    K.of (applyContribution d m f c q s) := by
  unfold applyContribution
  extract_lets _ _ _ _ s1
  have hs1 : K.of s1 := event_keeps (count_keeps hs)
  exact modClaim_keeps hs1

theorem afterContribution_keeps {d tag : Nat} {grad : Bool} {s : State} (hs : K.of s) :
    K.of (afterContribution d tag grad s) := by
  unfold afterContribution
  split
  · exact outcome_keeps (advance_keeps hs)
  · exact hs

/-! ## Drover -/

theorem flushSink_keeps {n : Nat} {j : Job} {s : State} (hs : K.of s) : K.of (flushSink n j s) := by
  unfold flushSink
  extract_lets _ s1
  have hs1 : K.of s1 := .ite hs (statApply_keeps hs)
  exact modDrover_keeps hs1

theorem sinkAdd_keeps {n : Nat} {elems : List Nat} {s : State} (hs : K.of s) : K.of (sinkAdd n elems s) := by
  unfold sinkAdd
  extract_lets
  exact modDrover_keeps hs

theorem freeDrover_keeps {j : Job} {status n : Nat} {s : State} (hs : K.of s) : K.of (freeDrover j status n s) := by
  unfold freeDrover
  extract_lets _ _ _ _ s1
  have hs1 : K.of s1 := hs.same rfl
  exact count_keeps (modDrover_keeps hs1)

theorem freeDrovers_keeps {j : Job} {status : Nat} {ns : List Nat} {s : State} (hs : K.of s) : K.of (freeDrovers j status ns s) := by
  induction ns generalizing s with
  | nil => exact hs
  | cons n ns ih => exact ih (freeDrover_keeps hs)

theorem startDrover_keeps {j : Job} {p : PDrvLaunch} {i n : Nat} {s : State} (hs : K.of s) : K.of (startDrover j p i n s) := by
  unfold startDrover
  extract_lets
  exact modDrover_keeps hs

theorem startDrovers_keeps {j : Job} {p : PDrvLaunch} {i : Nat} {ns : List Nat} {s : State} (hs : K.of s) :
    K.of (startDrovers j p i ns s) := by
  induction ns generalizing i s with
  | nil => exact hs
  | cons n ns ih => exact ih (startDrover_keeps hs)

theorem pumpLaunch_keeps {die n : Nat} {s : State} (hs : K.of s) : K.of (pumpLaunch die n s) := by
  induction n generalizing s with
  | zero => exact hs
  | succ n ih =>
    unfold pumpLaunch
    dsimp only
    split
    · exact hs
    · split
      · exact hs
      · exact ih (startDrovers_keeps (modJob_keeps (serve_keeps hs)))

theorem pumpDrovers_keeps {die : Nat} {s : State} (hs : K.of s) : K.of (pumpDrovers die s) := pumpLaunch_keeps hs

theorem endLaunch_keeps {j : Job} {e : End} {s : State} (hs : K.of s) : K.of (endLaunch j e s) := by
  unfold endLaunch
  split
  · exact hs
  · extract_lets _ _ _ s1 s2
    have hs1 : K.of s1 := freeDrovers_keeps hs
    have hs2 : K.of s2 := .ite (.foldl (fun _ _ hs => count_keeps hs) hs1) hs1
    exact pumpDrovers_keeps (endJob_keeps hs2)

theorem drvStop_keeps {n : Nat} {e : End} {cause addr : Nat} {s : State} (hs : K.of s) : K.of (drvStop n e cause addr s) := by
  unfold drvStop
  split
  · exact hs
  · extract_lets _ s1
    have hs1 : K.of s1 := endLaunch_keeps hs
    exact modDrover_keeps hs1

theorem drvExit_keeps {n : Nat} {s : State} (hs : K.of s) : K.of (drvExit n s) := by
  unfold drvExit
  split
  · exact hs
  · extract_lets _ s1 s2
    have hs1 : K.of s1 := flushSink_keeps hs
    have hs2 : K.of s2 := modDrover_keeps hs1
    split
    · exact hs2
    · extract_lets
      exact .ite (endLaunch_keeps hs2) hs2

theorem runDrvLaunch_keeps {p : PDrvLaunch} {j : Job} {s : State} (hs : K.of s) : K.of (runDrvLaunch p j s).1 := by
  unfold runDrvLaunch
  split
  · exact ends_keeps hs
  · exact waits_keeps hs

theorem drvStore_keeps {s t : State} {n : Nat} {j : Job} {a size v : Nat} {aligned : Bool}
    (e : drvStore s n j a size v aligned = .inr t) (hs : K.of s) : K.of t := by
  unfold drvStore at e
  split at e
  · cases e
  · split at e
    · cases e
    · cases e
      exact storeLazy_keeps hs

theorem drvNext_keeps {n : Nat} {j : Job} {len : Nat} {vec : Bool} {s : State} (hs : K.of s) : K.of (drvNext n j len vec s) := by
  unfold drvNext
  extract_lets _ _ s1 s2
  have hs1 : K.of s1 := modDrover_keeps hs
  have hs2 : K.of s2 := event_keeps (count_keeps hs1)
  exact .ite (event_keeps hs2) hs2

theorem storeElems_keeps {n : Nat} {j : Job} {size : Nat} {mirror : Bool} {i : Nat} {es : List (Nat × Nat)} {s : State} (hs : K.of s) :
    K.of (storeElems n j size mirror i es s).1 := by
  induction es generalizing i s with
  | nil => exact hs
  | cons e es ih =>
    unfold storeElems
    dsimp only
    split
    · exact modDrover_keeps hs
    · split
      · split
        · exact modDrover_keeps hs
        · exact ih (storeLazy_keeps (storeLazy_keeps hs))
      · exact ih (storeLazy_keeps hs)

theorem vecStore_keeps {n : Nat} {j : Job} {size : Nat} {unit : Bool} {es : List (Nat × Nat)} {s : State} (hs : K.of s) :
    K.of (vecStore n j size unit es s).1 := by
  unfold vecStore
  extract_lets
  split
  · split
    · split
      · exact hs
      · exact sinkAdd_keeps hs
    · exact hs
  · exact .iteFst (.iteFst (storeElems_keeps hs) hs) (storeElems_keeps hs)

theorem drvStep_keeps {n : Nat} {f : Job → State → State × Option Trap} {s : State} (hf : ∀ (a : Job) (a_1 : State), K.of a_1 → K.of (f a a_1).1) (hs : K.of s) :
    K.of (drvStep n f s) := by
  unfold drvStep
  extract_lets
  split
  · exact hs
  · split
    · exact hs
    · split
      · rename_i heq
        exact Stable.of.ofFst heq (hf _ _ hs)
      · rename_i heq
        exact drvStop_keeps (Stable.of.ofFst heq (hf _ _ hs))

theorem drvVisible_keeps {n : Nat} {s : State} (hs : K.of s) : K.of (drvVisible n s) := by
  unfold drvVisible
  extract_lets
  exact hs.same rfl

theorem writeSigwait_keeps {n : Nat} {j : Job} {v : Nat} {s : State} (hs : K.of s) : K.of (writeSigwait n j v s).1 := by
  unfold writeSigwait
  extract_lets
  split
  · exact hs
  · split
    · exact modDrover_keeps hs
    · split
      · exact modDrover_keeps hs
      · split
        · exact modDrover_keeps hs
        · split
          · rename_i heq
            exact modDrover_keeps (Stable.of.ofFst heq (attach_keeps hs))

theorem writeStatsink_keeps {n : Nat} {j : Job} {v : Nat} {s : State} (hs : K.of s) : K.of (writeStatsink n j v s).1 :=
  .iteFst hs (.iteFst hs (modDrover_keeps (flushSink_keeps hs)))

/-! ## Factors -/

theorem writeTile_keeps {w : Who} {slot sh : Nat} {e : Factor} {t : Nat} {r : Res} {es : List ElemErr} {s : State} (hs : K.of s) :
    K.of (writeTile w slot sh e t r es s) := by
  unfold writeTile
  split
  · split
    · extract_lets _ _ _ s1 _ s2 s3
      have hs1 : K.of s1 := by
        dsimp only [s1]
        split
        · split
          · exact event_keeps (event_keeps (writeRows_keeps hs))
          · exact hs
        · exact .foldl (fun _ _ hs => addGrad_keeps hs) hs
      have hs2 : K.of s2 := .ite hs1 (statApply_keeps hs1)
      have hs3 : K.of s3 := event_keeps (count_keeps (count_keeps hs2))
      exact hs3.same rfl

theorem putEntry_keeps {w : Who} {table : Nat} {e : Factor} {cnt tile : Nat} {s : State} (hs : K.of s) :
    K.of (putEntry w table e cnt tile s) :=
  storeLazy_keeps hs

/-- The property, of the state a tile has come to. -/
def Stable.ofTile (K : Stable) : TileRes → Prop
  | .written s _ => K.of s
  | .ended s _ => K.of s
  | .borrow s _ => K.of s

theorem Stable.ofTile.ite {c : Prop} [Decidable c] {x y : TileRes} (h : K.ofTile x) (k : K.ofTile y) :
    K.ofTile (if c then x else y) := by
  split
  · exact h
  · exact k

theorem tileReplay_keeps {j : Job} {slot sh : Nat} {e : Factor} {part t : Nat} {f : Faults} {stage : Nat} {s : State} (hs : K.of s) :
    K.ofTile (tileReplay j slot sh e part t f stage s) := by
  unfold tileReplay
  obtain ⟨bf, hbf⟩ : ∃ bf, borrowFrom = bf := ⟨_, rfl⟩
  rw [hbf]
  extract_lets u d c r src w first skipped s1 s2
  have h1 : K.of s1 := .ite (count_keeps hs) hs
  have h2 : K.of s2 := .ite (charge_keeps h1) h1
  clear_value s2 s1
  split
  next n rr cc _ =>
  extract_lets ck take clean
  have ht : ∀ (s : State) (es : List ElemErr) (n v : Nat) (ex : List (Nat × Nat)), K.of s → K.ofTile (take s es n v ex) :=
    fun s es n v ex hs => writeTile_keeps hs
  clear_value take
  refine .ite (ht _ _ _ _ _ (charge_keeps h1)) ?_
  split
  · exact h2
  · extract_lets s3 s4
    have h3 : K.of s3 := .ite (count_keeps (checkEvent_keeps h2)) h2
    have h4 : K.of s4 := .ite (charge_keeps h3) h3
    clear_value s4 s3
    refine .ite (ht _ _ _ _ _ h3) ?_
    split
    · exact h4
    · exact .ite (ht _ _ _ _ _ (checkEvent_keeps (checkEvent_keeps h4)))
        (.ite (ht _ _ _ _ _ (checkEvent_keeps (charge_keeps (checkEvent_keeps h4)))) (checkEvent_keeps (charge_keeps (checkEvent_keeps h4))))

theorem runTile_keeps {j : Job} {slot sh : Nat} {e : Factor} {part t : Nat} {f : Faults} {stage : Nat} {s : State} (hs : K.of s) :
    K.ofTile (runTile j slot sh e part t f stage s) := by
  unfold runTile
  extract_lets u c s0 s1 r src w s2
  have h0 : K.of s0 := count_keeps hs
  have h1 : K.of s1 := .ite (charge_keeps hs) hs
  have h2 : K.of s2 := event_keeps h1
  clear_value s0 s2 r s1
  split
  next n rr cc _ =>
  split
  · exact Stable.of.ite h0 (setReady_keeps (count_keeps h0))
  · split
    · exact hs
    · extract_lets ck
      refine .ite (tileReplay_keeps hs) (.ite hs (.ite (writeTile_keeps h1) ?_))
      split
      · exact writeTile_keeps (count_keeps (count_keeps (charge_keeps (count_keeps h2))))
      · exact tileReplay_keeps h2

theorem flushTiles_keeps {j : Job} {slot table sh : Nat} {e : Factor} {total n t : Nat} {a : FlushAt} (hs : K.of a.s) :
    K.of (flushTiles j slot table sh e total n t a).1.s := by
  induction n generalizing t a with
  | zero => exact hs
  | succ n ih =>
    unfold flushTiles
    dsimp only
    split
    · exact hs
    · have hr : K.ofTile (runTile j slot sh e ((maskParts e).getD ((t - e.tile) % (maskParts e).length) 0) t a.f a.stage a.s) :=
        runTile_keeps hs
      split
      · next s x he =>
        rw [he] at hr
        exact ih hr
      · next s x he =>
        rw [he] at hr
        exact putEntry_keeps hr
      · next s x he =>
        rw [he] at hr
        exact putEntry_keeps hr

theorem flushEntries_keeps {j : Job} {slot table : Nat} {es : List Factor} {a : FlushAt} (hs : K.of a.s) :
    K.of (flushEntries j slot table es a).1.s := by
  induction es generalizing a with
  | nil => exact hs
  | cons e es ih =>
    unfold flushEntries
    dsimp only
    split
    · exact ih hs
    · have ht : K.of (flushTiles j slot table (shapeOf a.s e.engine) e (tileTotal (shapeOf a.s e.engine) e)
          (tileTotal (shapeOf a.s e.engine) e + 1) e.tile a).1.s := flushTiles_keeps hs
      split
      · next b x he =>
        rw [he] at ht
        exact ht
      · next b he =>
        rw [he] at ht
        exact ih (putEntry_keeps ht)

theorem runFlush_keeps {p : PCbFactorFlush} {f : Faults} {stage : Nat} {j : Job} {s : State} (hs : K.of s) :
    K.of (runFlush p f stage j s).1 := by
  unfold runFlush
  extract_lets c d u table n rs es named
  refine .iteFst (ends_keeps hs) ?_
  split
  · exact hs
  · refine .iteFst (ends_keeps hs) ?_
    clear_value rs
    cases rs with
    | some i => exact ends_keeps hs
    | none =>
      dsimp only
      split
      · exact hs
      · split
        · exact ends_keeps hs
        · have hf : K.of (flushEntries j p.statSlot.toNat table (named.map (·.2)) ⟨s, j.sofar, f, stage⟩).1.s := flushEntries_keeps hs
          split
          · exact ends_keeps hf
          · exact waits_keeps (modJob_keeps hf)
          · exact ends_keeps hf

theorem flushRun_keeps {j : Job} {s : State} (hs : K.of s) : K.of (flushRun j s).1 := by
  unfold flushRun
  split
  · exact runFlush_keeps hs
  · exact ends_keeps hs

theorem pumpFlush_keeps {d : Nat} {s : State} (hs : K.of s) : K.of (pumpFlush d s) :=
  pumpUnit_keeps (fun _ _ hs => flushRun_keeps hs) hs

theorem borrowFlush_keeps {j : Job} {stage : Nat} {p : PCbFactorFlush} {f0 f : Faults} {s : State} (hs : K.of s) :
    K.of (borrowFlush j stage p f0 f s) := by
  unfold borrowFlush
  extract_lets _ _ s1
  have hs1 : K.of s1 := by
    dsimp only [s1]
    split
    · exact outcome_keeps (runFlush_keeps hs)
    · split
      · exact hs
      · exact .ite (endJob_keeps (checkEvent_keeps (borrowFaulted_keeps (checkEvent_keeps hs)))) (borrowFaulted_keeps (checkEvent_keeps hs))
  exact pumpFlush_keeps hs1

/-! ## Versions -/

theorem noteInFlight_keeps {c : Nat} {s : State} (hs : K.of s) : K.of (noteInFlight c s) := by
  unfold noteInFlight
  extract_lets
  exact modCtx_keeps hs

theorem runVerPublish_keepsBytes {p : PVerPublish} {j : Job} {s : State} (hs : K.of s) : K.of (runVerPublish p j s).1 := by
  unfold runVerPublish
  extract_lets
  exact .iteFst (ends_keeps hs) (.iteFst (ends_keeps hs) (.iteFst (ends_keeps hs) (ends_keeps (hs.same rfl))))

theorem runVerPin_keeps {p : PVer} {j : Job} {s : State} (hs : K.of s) : K.of (runVerPin p j s).1 := by
  unfold runVerPin
  extract_lets
  split
  · exact ends_keeps hs
  · exact .iteFst (ends_keeps hs) (.iteFst (ends_keeps hs) (ends_keeps (noteInFlight_keeps (hs.same rfl))))

theorem runVerRetire_keepsBytes {p : PVer} {j : Job} {s : State} (hs : K.of s) : K.of (runVerRetire p j s).1 := by
  unfold runVerRetire
  extract_lets
  exact .iteFst (ends_keeps hs) (ends_keeps (hs.same rfl))

/-! ## Groups -/

theorem pumpDies_keeps {s : State} (hs : K.of s) : K.of (pumpDies s) := .foldl (fun _ _ hs => pumpDie_keeps hs) hs

theorem modPeer_keeps {s : State} {pos : Nat} {f : Peer → Peer} (hs : K.of s) : K.of (modPeer s pos f) := by
  unfold modPeer
  extract_lets
  exact hs.same rfl

theorem sendGroup_keeps {kind pos arg0 arg1 arg2 : Nat} {es : List DirEntry} {s : State} (hs : K.of s) :
    K.of (sendGroup kind pos arg0 arg1 arg2 es s) :=
  send_keeps hs

theorem sendGroups_keeps {kind : Nat} {ps : List Nat} {arg0 arg1 arg2 : Nat} {es : List DirEntry} {s : State} (hs : K.of s) :
    K.of (sendGroups kind ps arg0 arg1 arg2 es s) :=
  .foldl (fun _ _ hs => sendGroup_keeps hs) hs

theorem applyEntry_keeps {epoch : Nat} {e : DirEntry} {s : State} (hs : K.of s) : K.of (applyEntry epoch e s) := by
  unfold applyEntry
  extract_lets _ _ _ _ _ s1
  have hs1 : K.of s1 := hs.same rfl
  exact .foldl (fun _ _ hs => .ite hs (ledger_keeps hs)) hs1

theorem commitStaged_keeps {epoch : Nat} {s : State} (hs : K.of s) : K.of (commitStaged epoch s) := by
  unfold commitStaged
  split
  · exact hs
  · extract_lets _ s1 s2
    have hs1 : K.of s1 := hs.same rfl
    have hs2 : K.of s2 := .foldl (fun _ _ hs => applyEntry_keeps hs) hs1
    exact pumpDies_keeps (hs2.same rfl)

theorem dropStaged_keeps {s : State} (hs : K.of s) : K.of (dropStaged s) := by
  unfold dropStaged
  extract_lets
  exact .ite (pumpDies_keeps (hs.same rfl)) hs

theorem sendPrepare_keeps {id : Nat} {es : List DirEntry} {s : State} (hs : K.of s) : K.of (sendPrepare id es s) := by
  unfold sendPrepare
  extract_lets _ s1
  have hs1 : K.of s1 := hs.same rfl
  exact sendGroups_keeps hs1

theorem nextUpdate_keeps {n : Nat} {s : State} (hs : K.of s) : K.of (nextUpdate n s) := by
  induction n generalizing s with
  | zero => exact hs
  | succ n ih =>
    unfold nextUpdate
    refine .ite hs ?_
    split
    · exact hs
    · split
      · dsimp only
        split
        · exact ih (endJob_keeps hs)
        · exact sendPrepare_keeps hs
      · exact hs

theorem closeUpdate_keeps {e : End} {s : State} (hs : K.of s) : K.of (closeUpdate e s) := by
  unfold closeUpdate
  split
  · exact hs
  · extract_lets _ s1
    have hs1 : K.of s1 := endJob_keeps (hs.same rfl)
    exact nextUpdate_keeps hs1

theorem tryCommit_keeps {s : State} (hs : K.of s) : K.of (tryCommit s) := by
  unfold tryCommit
  split
  · exact .ite (closeUpdate_keeps (commitStaged_keeps (sendGroups_keeps hs))) hs
  · exact hs

theorem tryAck_keeps {s : State} (hs : K.of s) : K.of (tryAck s) := by
  unfold tryAck
  split
  · exact hs
  · extract_lets _ s1
    have hs1 : K.of s1 := hs.same rfl
    split
    · exact hs
    · split
      · exact .ite (tryCommit_keeps hs1) (sendGroup_keeps hs1)
      · exact hs1

theorem abortUpdate_keeps {e : End} {s : State} (hs : K.of s) : K.of (abortUpdate e s) := by
  unfold abortUpdate
  split
  · exact hs
  · exact closeUpdate_keeps (dropStaged_keeps (sendGroups_keeps hs))

theorem runGrpDirectoryUpdate_keeps {p : PGrpDirUpdate} {j : Job} {s : State} (hs : K.of s) :
    K.of (runGrpDirectoryUpdate p j s).1 := by
  unfold runGrpDirectoryUpdate
  split
  · exact ends_keeps hs
  · split
    · exact hs
    · extract_lets
      split
      · extract_lets
        exact ends_keeps (callRefused_keeps (gateCount_keeps (count_keeps hs)))
      · exact joinAll_keeps hs

theorem freeBarrier_keeps {id members : Nat} {s : State} (hs : K.of s) : K.of (freeBarrier id members s) := by
  unfold freeBarrier
  split
  · exact hs
  · exact endJob_keeps hs

theorem tellRelease_keeps {id members inst : Nat} {ps : List Nat} {s : State} (hs : K.of s) :
    K.of (tellRelease id members inst ps s) :=
  .foldl (fun _ _ hs => .ite (freeBarrier_keeps hs) (sendGroup_keeps hs)) hs

theorem dropBarrier_keeps {id : Nat} {s : State} (hs : K.of s) : K.of (dropBarrier id s) := by
  unfold dropBarrier
  extract_lets
  exact hs.same rfl

theorem arriveAt_keeps {pos id members : Nat} {s : State} (hs : K.of s) : K.of (arriveAt pos id members s) := by
  unfold arriveAt
  split
  · extract_lets _ _ s1
    have hs1 : K.of s1 := dropBarrier_keeps hs
    exact .ite (tellRelease_keeps (dropBarrier_keeps hs)) (.ite (tellRelease_keeps (hs1.same rfl)) (hs.same rfl))
  · extract_lets
    exact .ite (hs.same rfl) (.ite (tellRelease_keeps (hs.same rfl)) (hs.same rfl))

theorem admitWaiting_keeps {n : Nat} {s : State} (hs : K.of s) : K.of (admitWaiting n s) := by
  induction n generalizing s with
  | zero => exact hs
  | succ n ih =>
    unfold admitWaiting
    split
    · exact hs
    · exact .ite hs (ih (arriveAt_keeps (hs.same rfl)))

theorem arriveMaster_keeps {pos id members : Nat} {s : State} (hs : K.of s) : K.of (arriveMaster pos id members s) := by
  unfold arriveMaster
  extract_lets s1
  have hs1 : K.of s1 := arriveAt_keeps hs
  exact admitWaiting_keeps hs1

theorem sendArrival_keeps {j : Job} {s : State} (hs : K.of s) : K.of (sendArrival j s) := by
  unfold sendArrival
  split
  · exact .ite hs (.ite (arriveMaster_keeps hs) (sendGroup_keeps hs))
  · exact hs

theorem releaseHere_keeps {id members : Nat} {s : State} (hs : K.of s) : K.of (releaseHere id members s) := by
  unfold releaseHere
  extract_lets s1
  have hs1 : K.of s1 := freeBarrier_keeps hs
  split
  · exact hs1
  · exact sendArrival_keeps hs1

theorem resendArrivals_keeps {s : State} (hs : K.of s) : K.of (resendArrivals s) := .foldl (fun _ _ hs => sendArrival_keeps hs) hs

theorem runGrpBarrier_keeps {p : PGrpBarrier} {_j : Job} {s : State} (hs : K.of s) : K.of (runGrpBarrier p _j s).1 := by
  unfold runGrpBarrier
  split
  · exact ends_keeps hs
  · exact waits_keeps hs

theorem sendNewArrival_keeps {n : Nat} {s : State} (hs : K.of s) : K.of (sendNewArrival n s) := by
  unfold sendNewArrival
  split
  · exact sendArrival_keeps hs
  · exact hs

theorem setMaster_keeps {m : Option Nat} {s : State} (hs : K.of s) : K.of (setMaster m s) := by
  unfold setMaster
  extract_lets _ _ _ s1 s2 _ s3 s4
  have hs1 : K.of s1 := hs.same rfl
  have hs2 : K.of s2 := ledger_keeps hs1
  have hs3 : K.of s3 := hs2.same rfl
  have hs4 : K.of s4 := closeUpdate_keeps (dropStaged_keeps hs3)
  exact .ite hs (.ite hs2 (hs4.same rfl))

theorem hear_keeps {m : GroupMsg} {s : State} (hs : K.of s) : K.of (hear m s) := by
  unfold hear
  extract_lets _ s1 s2 _ s3
  have hs1 : K.of s1 := hs.same rfl
  have hs2 : K.of s2 := modPeer_keeps hs1
  have hs3 : K.of s3 := hs2.same rfl
  exact .ite (.ite (setMaster_keeps hs3) hs3) hs2

theorem catchUp_keeps {pos : Nat} {s : State} (hs : K.of s) : K.of (catchUp pos s) := by
  unfold catchUp
  extract_lets
  exact .ite (sendGroup_keeps (sendGroup_keeps hs)) hs

theorem claimRole_keeps {s : State} (hs : K.of s) : K.of (claimRole s) := by
  unfold claimRole
  extract_lets _ s1 s2 _ s3 s4
  have hs1 : K.of s1 := hs.same rfl
  have hs2 : K.of s2 := dropStaged_keeps (setMaster_keeps hs1)
  have hs3 : K.of s3 := hs2.same rfl
  have hs4 : K.of s4 := sendGroups_keeps hs3
  exact resendArrivals_keeps (.foldl (fun _ _ hs => catchUp_keeps hs) hs4)

theorem loseCounts_keeps {pos : Nat} {e : End} {s : State} (hs : K.of s) : K.of (loseCounts pos e s) := by
  unfold loseCounts
  refine .foldl ?_ hs
  intro _ _ hs
  refine .foldl ?_ hs
  intro _ _ hs
  split
  · exact .ite (endJob_keeps (uncount_keeps hs)) hs
  · exact hs

theorem loseClaim_keeps {d : Nat} {c : Claim} {e : End} {s : State} (hs : K.of s) : K.of (loseClaim d c e s) := by
  unfold loseClaim
  split
  · exact hs
  · split
    · rename_i heq
      exact endJob_keeps (Stable.of.ofFst heq (combineEnd_keeps hs))

theorem loseClaims_keeps {pos : Nat} {e : End} {s : State} (hs : K.of s) : K.of (loseClaims pos e s) := by
  unfold loseClaims
  refine .foldl ?_ hs
  intro _ _ hs
  refine .foldl ?_ hs
  intro _ _ hs
  split
  · exact .ite hs (loseClaim_keeps hs)
  · exact hs

theorem loseRows_keeps {pos : Nat} {e : End} {s : State} (hs : K.of s) : K.of (loseRows pos e s) := by
  unfold loseRows
  refine .foldl ?_ hs
  intro _ _ hs
  refine .foldl ?_ hs
  intro _ _ hs
  extract_lets s1
  have hs1 : K.of s1 := by
    dsimp only [s1]
    split
    · exact .ite hs (landStop_keeps hs)
    · exact hs
  split
  · exact .ite hs1 (endJob_keeps (modTag_keeps hs1))
  · exact hs1

theorem loseChains_keeps {dev : Nat} {e : End} {s : State} (hs : K.of s) : K.of (loseChains dev e s) := by
  unfold loseChains
  refine .foldl ?_ hs
  intro _ _ hs
  extract_lets s1
  have hs1 : K.of s1 := .foldl (fun _ _ hs => .ite (closeChain_keeps hs) hs) hs
  exact pumpChains_keeps hs1

theorem loseBarriers_keeps {pos : Nat} {e : End} {s : State} (hs : K.of s) : K.of (loseBarriers pos e s) := by
  unfold loseBarriers
  extract_lets _ s1 s2
  have hs1 : K.of s1 := hs.same rfl
  have hs2 : K.of s2 := by
    dsimp only [s2]
    refine .foldl ?_ (hs.same rfl)
    intro _ _ hs
    split
    · exact .ite (endJob_keeps hs) hs
    · exact hs
  exact admitWaiting_keeps hs2

/-! ## Links -/

theorem loseTagRows_keeps {u pos d : Nat} {t : TagRec} {s : State} (hs : K.of s) : K.of (loseTagRows u pos d t s) := by
  unfold loseTagRows
  extract_lets _ s1
  have hs1 : K.of s1 := by
    dsimp only [s1]
    refine .foldl ?_ hs
    intro _ _ hs
    split
    · exact takeConfirm_keeps (count_keeps hs)
    · exact hs
  exact .ite hs1 (tryCancelEnd_keeps hs1)

theorem loseDevice_keeps {u dev : Nat} {s : State} (hs : K.of s) : K.of (loseDevice u dev s) := by
  unfold loseDevice
  extract_lets _ s1 _ s2
  have hs1 : K.of s1 := loseChains_keeps hs
  have hs2 : K.of s2 := loseClaims_keeps (loseCounts_keeps hs1)
  exact .ite hs1 (.foldl (fun _ _ hs => .foldl (fun _ _ hs => loseTagRows_keeps hs) hs) hs2)

theorem loseMsg_keeps {u : Nat} {m : NetMsg} {s : State} (hs : K.of s) : K.of (loseMsg u m s) := by
  unfold loseMsg
  extract_lets s1
  have hs1 : K.of s1 := receive_keeps hs
  split
  · exact .foldl (fun _ _ hs => endJob_keeps hs) hs1
  · exact abortUpdate_keeps hs1
  · exact hs1

theorem moveMsgs_keeps {u : Nat} {ms : List OutMsg} {s : State} (hs : K.of s) : K.of (moveMsgs u ms s) := by
  induction ms generalizing s with
  | nil => exact hs
  | cons m ms ih =>
    unfold moveMsgs
    refine ih ?_
    split
    · exact enqueue_keeps hs
    · exact loseMsg_keeps hs

theorem portLeft_keeps {u : Nat} {s : State} (hs : K.of s) : K.of (portLeft u s) := by
  unfold portLeft
  extract_lets _ s1 s2
  have hs1 : K.of s1 := modPort_keeps hs
  have hs2 : K.of s2 := moveMsgs_keeps hs1
  exact pumpDies_keeps (.foldl (fun _ _ hs => loseDevice_keeps hs) hs2)

theorem linkUp_keeps {u : Nat} {s : State} (hs : K.of s) : K.of (linkUp u s) := by
  unfold linkUp
  extract_lets s1
  have hs1 : K.of s1 := modPort_keeps hs
  exact .ite (hs1.same rfl) hs1

theorem setPort_keeps {u st : Nat} {s : State} (hs : K.of s) : K.of (setPort u st s) := by
  unfold setPort
  extract_lets _ s1 s2 s3 s4 s5
  have hs1 : K.of s1 := modPort_keeps hs
  have hs2 : K.of s2 := .ite (modDie_keeps hs1) hs1
  have hs3 : K.of s3 := .ite (ledger_keeps hs2) hs2
  have hs4 : K.of s4 := .ite (count_keeps hs3) hs3
  have hs5 : K.of s5 := modPort_keeps hs4
  exact .ite hs (.ite (linkUp_keeps hs4) (.ite (modPort_keeps (portLeft_keeps hs5)) hs4))

theorem portReset_keeps {u : Nat} {s : State} (hs : K.of s) : K.of (portReset u s) := setPort_keeps hs

theorem settlePort_keeps {u : Nat} {s : State} (hs : K.of s) : K.of (settlePort u s) := by
  unfold settlePort
  split
  · exact hs
  · exact setPort_keeps hs

theorem trainFailed_keeps {u : Nat} {s : State} (hs : K.of s) : K.of (trainFailed u s) := by
  unfold trainFailed
  extract_lets
  exact .ite (setPort_keeps hs) (modPort_keeps hs)

theorem replayAll_keeps {u : Nat} {s : State} (hs : K.of s) : K.of (replayAll u s) := by
  unfold replayAll
  extract_lets _ s1 s2 s3
  have hs1 : K.of s1 := modPort_keeps hs
  have hs2 : K.of s2 := .foldl (fun _ _ hs => emitData_keeps hs) hs1
  have hs3 : K.of s3 := event_keeps (count_keeps hs2)
  exact .ite (setPort_keeps hs3) hs3

theorem badFrame_keeps {u : Nat} {s : State} (hs : K.of s) : K.of (badFrame u s) := by
  unfold badFrame
  extract_lets s1 s2
  have hs1 : K.of s1 := setCount_keeps (count_keeps hs)
  have hs2 : K.of s2 := modPort_keeps hs1
  exact .ite (setPort_keeps hs2) (.ite (sendIdle_keeps hs2) hs2)

theorem deliver_keeps {u vc route : Nat} {bs : List Byte} {s : State} (hs : K.of s) : K.of (deliver u vc route bs s) := by
  unfold deliver
  extract_lets
  exact .ite (hs.same rfl) hs

theorem acceptData_keeps {u vc route : Nat} {som eom : Bool} {payload : List Byte} {s : State} (hs : K.of s) :
    K.of (acceptData u vc route som eom payload s) := by
  unfold acceptData
  extract_lets _ s1 s2
  have hs1 : K.of s1 := modPort_keeps hs
  have hs2 : K.of s2 := count_keeps hs1
  exact .ite (deliver_keeps hs2) hs2

theorem dataFrame_keeps {u fseq vc route : Nat} {som eom : Bool} {payload : List Byte} {s : State} (hs : K.of s) :
    K.of (dataFrame u fseq vc route som eom payload s) := by
  unfold dataFrame
  extract_lets _ s1
  have hs1 : K.of s1 := .ite (acceptData_keeps hs) (.ite hs (modPort_keeps hs))
  exact sendIdle_keeps hs1

theorem goodFrame_keeps {u : Nat} {b : List Byte} {s : State} (hs : K.of s) : K.of (goodFrame u b s) := by
  unfold goodFrame
  extract_lets _ _ s1 s2 s3 s4 s5 s6
  have hs1 : K.of s1 := count_keeps hs
  have hs2 : K.of s2 := modPort_keeps hs1
  have hs3 : K.of s3 := modPort_keeps hs2
  have hs4 : K.of s4 := .ite (modPort_keeps hs3) hs3
  have hs5 : K.of s5 := .ite (replayAll_keeps hs4) hs4
  have hs6 : K.of s6 := .ite (dataFrame_keeps hs5) hs5
  exact .ite hs2 (.ite hs5 (pumpPortAll_keeps hs6))

theorem recordStore_keeps {s : State} {w : Who} {a : Nat} {bs : List Byte} (hs : K.of s) : K.of (recordStore s w a bs) := by
  unfold recordStore
  extract_lets _ s1
  have hs1 : K.of s1 := storeNow_keeps hs
  exact .ite hs1 (storeNow_keeps hs1)

theorem ingestRecord_keeps {die iface : Nat} {r : IngestRing} {f : List Byte} {s : State} (hs : K.of s) :
    K.of (ingestRecord die iface r f s).1 := by
  unfold ingestRecord
  extract_lets _ _ _ _ _ _ s1
  have hs1 : K.of s1 := recordStore_keeps hs
  exact sigStore_keeps (count_keeps hs1)

/-! ## Trust -/

theorem inputCount_keeps {row : Nat} {s : State} (hs : K.of s) : K.of (inputCount row s) := by
  unfold inputCount
  extract_lets
  exact hs.same rfl

theorem answerMgmt_keeps {r : MgmtReply} {s : State} (hs : K.of s) : K.of (answerMgmt r s) := by
  unfold answerMgmt
  extract_lets
  exact hs.same rfl

theorem setSlot_keeps {n : Nat} {x1 : FwSlot} {s : State} (hs : K.of s) : K.of (setSlot n x1 s) := by
  unfold setSlot
  extract_lets
  exact hs.same rfl

theorem writeImage_keeps {n : Nat} {b : List Byte} {s : State} (hs : K.of s) : K.of (writeImage n b s) :=
  setSlot_keeps (setSlot_keeps hs)

theorem fwLoadApply_keeps {p : PFwLoad} {f : Faults} {j : Job} {origin : Nat} {s : State} (hs : K.of s) :
    K.of (fwLoadApply p f j origin s).1 := by
  unfold fwLoadApply
  extract_lets
  split
  · exact ledgerEv_keeps hs
  · split
    · exact ledgerEv_keeps hs
    · exact .iteFst (ledgerEv_keeps hs) (ledger_keeps (writeImage_keeps hs))

theorem archivePut_keeps {p : Page} {s : State} (hs : K.of s) : K.of (archivePut p s) := by
  unfold archivePut
  extract_lets _ s1
  have hs1 : K.of s1 := hs.same rfl
  split
  · exact hs1
  · split
    · exact hs1
    · extract_lets s2
      have hs2 : K.of s2 := hs1.same rfl
      exact .ite hs2 (ledger_keeps hs2)

theorem sealed_keeps {num : Nat} {s : State} (hs : K.of s) : K.of (sealed num s) :=
  .foldl (fun _ _ hs => .ite (endJob_keeps hs) hs) hs

theorem sealNow_keeps {s : State} (hs : K.of s) : K.of (sealNow s) := by
  unfold sealNow
  extract_lets s1
  have hs1 : K.of s1 := .ite (closePage_keeps (appendAll_keeps (snapMark_keeps hs))) (sealPage_keeps hs)
  exact closePage_keeps hs1

theorem runLedgerSeal_keeps {j : Job} {s : State} (hs : K.of s) : K.of (runLedgerSeal j s).1 := by
  unfold runLedgerSeal
  extract_lets _ s1 s2
  have hs1 : K.of s1 := count_keeps hs
  have hs2 : K.of s2 := sealNow_keeps (gateCount_keeps hs1)
  exact .iteFst (ends_keeps (gateCount_keeps hs1)) (.iteFst (ends_keeps hs2) (waits_keeps hs2))

theorem setTime_keeps {t : Nat} {ptp : Bool} {s : State} (hs : K.of s) : K.of (setTime t ptp s) := by
  unfold setTime
  extract_lets
  exact hs.same rfl

/-! ## Stop -/

theorem pumpEngines_keeps {s : State} (hs : K.of s) : K.of (pumpEngines s) :=
  .foldl (fun _ _ hs => .foldl (fun _ _ hs => pumpPart_keeps hs) hs) hs

theorem pumpAll_keeps {s : State} (hs : K.of s) : K.of (pumpAll s) :=
  .foldl (fun _ _ hs => pumpChains_keeps (pumpDrovers_keeps (pumpFlush_keeps (pumpDie_keeps hs)))) (pumpEngines_keeps hs)

theorem stopPass_keeps {j : Job} {st : Nat} {s : State} (hs : K.of s) : K.of (stopPass j st s) := modPart_keeps hs

theorem undrain_keeps {j : Job} {s : State} (hs : K.of s) : K.of (undrain j s) := by
  unfold undrain
  extract_lets
  exact modPart_keeps hs

theorem stopBound_keeps {j : Job} {e : End} {s : State} (hs : K.of s) : K.of (stopBound j e s) := by
  unfold stopBound
  extract_lets
  split
  · exact combineExpire_keeps hs
  · split
    · exact endJob_keeps hs
    · exact endJob_keeps (closeClaim_keeps hs)

theorem stopJob_keeps {j : Job} {e : End} {s : State} (hs : K.of s) : K.of (stopJob j e s) := by
  unfold stopJob
  extract_lets
  split
  · exact hs
  · exact hs
  · exact hs
  · exact endJob_keeps (leaveWindows_keeps hs)
  · split
    · exact endJob_keeps (stopPass_keeps hs)
    · exact endJob_keeps (dequeue_keeps hs)
    · exact endJob_keeps hs
  · exact endJob_keeps (undrain_keeps hs)
  · exact endJob_keeps (uncount_keeps hs)
  · exact landStop_keeps hs
  · exact endJob_keeps (modTag_keeps hs)
  · exact stopBound_keeps hs
  · exact endJob_keeps (detach_keeps hs)
  · exact endJob_keeps (modRing_keeps hs)
  · exact endLaunch_keeps hs
  · exact closeChain_keeps hs
  · exact .ite (abortUpdate_keeps hs) (endJob_keeps hs)
  · exact endJob_keeps hs

theorem stopJobs_keeps {e : End} {js : List Job} {s : State} (hs : K.of s) : K.of (stopJobs e js s) := by
  induction js generalizing s with
  | nil => exact hs
  | cons j js ih =>
    unfold stopJobs
    refine ih ?_
    split
    · exact stopJob_keeps hs
    · exact hs

/-! ## Health -/

theorem bringupDone_keeps {d : Nat} {s : State} (hs : K.of s) : K.of (bringupDone d s) := .ite (modDie_keeps hs) hs

theorem trainSide_keeps {side : Nat} {bad : List Nat} {s : State} (hs : K.of s) : K.of (trainSide side bad s) := by
  unfold trainSide
  extract_lets _ s1
  have hs1 : K.of s1 := .foldl (fun _ _ hs => .ite (.ite (ledger_keeps (setChanState_keeps hs)) hs) (.ite hs (setChanState_keeps (modChan_keeps hs)))) hs
  exact modSide_keeps hs1

theorem resetReceiver_keeps {u boundary r : Nat} {s : State} (hs : K.of s) : K.of (resetReceiver u boundary r s) := by
  unfold resetReceiver
  extract_lets _ s1
  have hs1 : K.of s1 := hs.same rfl
  exact .ite (setReady_keeps (modHealth_keeps hs1)) hs1

theorem permits_keeps {f : State → Nat → Nat → Nat} {n : Nat} {s : State} (hs : K.of s) : K.of (permits f n s) := by
  induction n generalizing s with
  | zero => exact hs
  | succ n ih => exact .ite (ih hs) (event_keeps (modDie_keeps (ih hs)))

theorem modSensor_keeps {s : State} {k : Nat} {f : Sensor → Sensor} (hs : K.of s) : K.of (modSensor s k f) := by
  unfold modSensor
  extract_lets
  exact hs.same rfl

theorem setIgnored_keeps {k n unit : Nat} {v : Bool} {s : State} (hs : K.of s) : K.of (setIgnored k n unit v s) := by
  unfold setIgnored
  extract_lets s1
  have hs1 : K.of s1 := modSensor_keeps hs
  exact .ite hs (ledger_keeps hs1)

theorem takeSample_keeps {k n unit : Nat} {lo hi : ℤ} {jump : Option Nat} {v : ℤ} {s : State} (hs : K.of s) :
    K.of (takeSample k n unit lo hi jump v s) := by
  unfold takeSample
  extract_lets
  exact .ite (setIgnored_keeps hs) (modSensor_keeps (setIgnored_keeps hs))

theorem takeSamples_keeps {key unit : Nat → Nat} {lo hi : Int} {jump : Option Nat} {n : Nat} {vs : List Int} {s : State} (hs : K.of s) :
    K.of (takeSamples key unit lo hi jump n vs s) := by
  induction vs generalizing n s with
  | nil => exact hs
  | cons v vs ih => exact ih (takeSample_keeps hs)

theorem thermalHold_keeps {d : Nat} {s : State} (hs : K.of s) : K.of (thermalHold d s) := by
  unfold thermalHold
  extract_lets
  exact .ite (modDie_keeps hs) (.ite (modDie_keeps hs) hs)

theorem stackFollows_keeps {stack : Nat} {s : State} (hs : K.of s) : K.of (stackFollows stack s) := by
  unfold stackFollows
  extract_lets
  exact thermalHold_keeps (.foldl (fun _ _ hs => .ite (setReady_keeps (modSide_keeps hs)) (.ite (setReady_keeps (modSide_keeps hs)) (modSide_keeps hs))) hs)

theorem countHot_keeps {d : Nat} {s : State} (hs : K.of s) : K.of (countHot d s) := .foldl (fun _ _ hs => modSensor_keeps hs) hs

theorem junctionHold_keeps {d : Nat} {s : State} (hs : K.of s) : K.of (junctionHold d s) := by
  unfold junctionHold
  extract_lets
  exact .ite (.ite hs (ledger_keeps (modDie_keeps hs))) (.ite (ledger_keeps (modDie_keeps hs)) hs)

theorem marginAct_keeps {u : Nat} {s : State} (hs : K.of s) : K.of (marginAct u s) := actOn_keeps hs

theorem setTap_keeps {origin u v : Nat} {s : State} (hs : K.of s) : K.of (setTap origin u v s) := by
  unfold setTap
  extract_lets
  exact ledger_keeps (marginAct_keeps (hs.same rfl))

theorem setRail_keeps {origin d v : Nat} {s : State} (hs : K.of s) : K.of (setRail origin d v s) := by
  unfold setRail
  extract_lets
  exact ledger_keeps (hs.same rfl)

theorem retire_keeps {origin u : Nat} {s : State} (hs : K.of s) : K.of (retire origin u s) := by
  unfold retire
  extract_lets _ s1
  have hs1 : K.of s1 := ledger_keeps (modDie_keeps hs)
  exact .ite (.foldl (fun _ _ hs => setReady_keeps hs) hs1) (setReady_keeps (ledger_keeps (marginAct_keeps (modHealth_keeps hs))))

theorem gaugeTrip_keeps {u : Nat} {s : State} (hs : K.of s) : K.of (gaugeTrip u s) := by
  unfold gaugeTrip
  extract_lets _ s1
  have hs1 : K.of s1 := count_keeps hs
  exact .ite (setTap_keeps hs1) (retire_keeps hs1)

theorem gaugeOne_keeps {d : Nat} {s : State} {r : Word32 × ℤ} (hs : K.of s) : K.of (gaugeOne d s r) := by
  unfold gaugeOne
  extract_lets _ s1
  have hs1 : K.of s1 := modHealth_keeps hs
  exact .ite hs (.ite (modDie_keeps hs) (.ite hs (.ite (gaugeTrip_keeps hs1) hs1)))

theorem planTaps_keeps {fpoint gs : List Nat} {s : State} (hs : K.of s) : K.of (planTaps fpoint gs s).1 := by
  induction gs generalizing s with
  | nil => exact hs
  | cons g gs ih => exact .iteFst (ih (setTap_keeps hs)) (ih hs)

theorem planActions_keeps {d : Nat} {fpoint : List Nat} {s : State} (hs : K.of s) : K.of (planActions d fpoint s) := by
  unfold planActions
  extract_lets
  split
  · rename_i heq15
    extract_lets s1
    have hs1 : K.of s1 := .foldl (fun _ _ hs => retire_keeps hs) (Stable.of.ofFst heq15 (planTaps_keeps hs))
    exact .ite (.ite (setRail_keeps (Stable.of.ofFst heq15 (planTaps_keeps hs))) (.ite (retire_keeps hs1) hs1)) (.ite (setRail_keeps (Stable.of.ofFst heq15 (planTaps_keeps hs))) (Stable.of.ofFst heq15 (planTaps_keeps hs)))

theorem zeroRange_keeps {a n : Nat} {s : State} (hs : K.of s) : K.of (zeroRange a n s) := K.drop _ hs

theorem testEntry_keeps {u code : Nat} {s : State} (hs : K.of s) : K.of (testEntry u code s) := ledger_keeps hs

theorem testPassed_keeps {u : Nat} {was : Bool} {s : State} (hs : K.of s) : K.of (testPassed u was s) := by
  unfold testPassed
  extract_lets s1
  have hs1 : K.of s1 := testEntry_keeps hs
  exact .ite (setReady_keeps hs1) (.ite hs1 (modHealth_keeps hs1))

theorem testFailed_keeps {u code : Nat} {s : State} (hs : K.of s) : K.of (testFailed u code s) := by
  unfold testFailed
  extract_lets s1 s2
  have hs1 : K.of s1 := modHealth_keeps hs
  have hs2 : K.of s2 := testEntry_keeps (count_keeps hs1)
  exact quarantine_keeps hs2

theorem testUnit_keeps {full : Bool} {fails : List (Word32 × Word16)} {u : Nat} {s : State} (hs : K.of s) :
    K.of (testUnit full fails u s) := by
  unfold testUnit
  extract_lets _ s1 s2 s3
  have hs1 : K.of s1 := testEntry_keeps hs
  have hs2 : K.of s2 := setReady_keeps hs1
  have hs3 : K.of s3 := .ite (zeroRange_keeps hs2) hs2
  split
  · exact testFailed_keeps hs3
  · exact testPassed_keeps hs3

theorem runTest_keeps {p : PSelftest} {f : Faults} {s : State} (hs : K.of s) : K.of (runTest p f s).1 := by
  unfold runTest
  extract_lets u full s1 st s2 s3
  have h1 : K.of s1 := .foldl (fun _ _ hs => testUnit_keeps hs) hs
  have h2 : K.of s2 := testEntry_keeps hs
  have h3 : K.of s3 := testUnit_keeps hs
  clear_value s1 s2 s3
  exact .iteFst (.iteFst hs h1) (.iteFst (.iteFst (testEntry_keeps h2) (setPort_keeps h2)) (.iteFst hs h3))

theorem selftestApply_keeps {p : PSelftest} {f : Faults} {origin : Nat} {s : State} (hs : K.of s) :
    K.of (selftestApply p f origin s).1 := by
  unfold selftestApply
  extract_lets
  split
  · exact callRefused_keeps hs
  · exact runTest_keeps hs

theorem retryTests_keeps {s : State} (hs : K.of s) : K.of (retryTests s) := by
  unfold retryTests
  refine .foldl ?_ hs
  intro _ _ hs
  split
  · exact outcome_keeps (runTest_keeps hs)
  · exact hs

theorem retrainDone_keeps {ch : Nat} {passed : Bool} {s : State} (hs : K.of s) : K.of (retrainDone ch passed s) := by
  unfold retrainDone
  extract_lets
  exact .ite (nextRetrain_keeps (endTraining_keeps hs)) hs

/-! ## Module -/

theorem coldState_keeps {s : State} (hs : K.of s) : K.of (coldState s) := K.forget hs

theorem coldMemory_keeps {s : State} (hs : K.of s) : K.of (coldMemory s) := by
  unfold coldMemory
  extract_lets
  exact .foldl (fun _ _ hs => modSide_keeps (modChan_keeps hs)) hs

theorem fallBack_keeps {n : Nat} {s : State} (hs : K.of s) : K.of (fallBack n s) := by
  unfold fallBack
  extract_lets s1
  have hs1 : K.of s1 := setSlot_keeps hs
  exact .ite (hs1.same rfl) hs

theorem activate_keeps {n : Nat} {s : State} (hs : K.of s) : K.of (activate n s) := by
  unfold activate
  extract_lets _ _ s1
  have hs1 : K.of s1 := setSlot_keeps hs
  exact .ite (setSlot_keeps hs1) hs1

theorem mdEntry_keeps {reason object field old new aux : Nat} {s : State} (hs : K.of s) :
    K.of (mdEntry reason object field old new aux s) :=
  ledger_keeps hs

theorem openLedger_keeps {s : State} (hs : K.of s) : K.of (openLedger s) := by
  unfold openLedger
  extract_lets _ _ _ _ _ _ s1 s2 _ s3 s4 s5 s6 s7 _ _ s8 _ s9 s10 s11
  have hs1 : K.of s1 := hs.same rfl
  have hs2 : K.of s2 := .ite (mdEntry_keeps hs1) hs1
  have hs3 : K.of s3 := mdEntry_keeps hs2
  have hs4 : K.of s4 := .ite hs3 (mdEntry_keeps hs3)
  have hs5 : K.of s5 := .foldl (fun _ _ hs => mdEntry_keeps hs) hs4
  have hs6 : K.of s6 := .foldl (fun _ _ hs => ledgerEv_keeps hs) hs5
  have hs7 : K.of s7 := activate_keeps hs6
  have hs8 : K.of s8 := .ite (mdEntry_keeps (hs7.same rfl)) hs7
  have hs9 : K.of s9 := hs8.same rfl
  have hs10 : K.of s10 := .foldl (fun _ _ hs => modDie_keeps hs) hs9
  have hs11 : K.of s11 := setItem_keeps hs10
  exact .ite hs11 (ledger_keeps (modHealth_keeps hs11))

theorem runSlot_keeps {n : Nat} {s : State} (hs : K.of s) : K.of (runSlot n s) := by
  unfold runSlot
  extract_lets
  exact hs.same rfl

theorem enterRecovery_keeps {s : State} (hs : K.of s) : K.of (enterRecovery s) := by
  unfold enterRecovery
  extract_lets
  exact hs.same rfl

theorem tryBoot_keeps {b : BootReport} {ns : List Nat} {s : State} (hs : K.of s) : K.of (tryBoot b ns s) := by
  induction ns generalizing s with
  | nil => exact enterRecovery_keeps hs
  | cons n ns ih =>
    have h1 : K.of (runSlot n s) := runSlot_keeps hs
    unfold tryBoot
    exact .ite (.ite (openLedger_keeps h1) (h1.same rfl)) (ih (fallBack_keeps hs))

theorem latchCause_keeps {e : LedgerEvent} {s : State} (hs : K.of s) : K.of (latchCause e s) := by
  unfold latchCause
  extract_lets
  exact hs.same rfl

theorem powerDown_keeps {latch : Bool} {s : State} (hs : K.of s) : K.of (powerDown latch s) := by
  unfold powerDown
  extract_lets s1
  have hs1 : K.of s1 := coldState_keeps hs
  exact hs1.same rfl

theorem stopUnits_keeps {s : State} (hs : K.of s) : K.of (stopUnits s) := K.forget hs

theorem archiveHeld_keeps {ps : List Page} {s : State} (hs : K.of s) : K.of (archiveHeld ps s) := by
  induction ps generalizing s with
  | nil => exact hs
  | cons p ps ih => exact ih (archivePut_keeps (hs.same rfl))

theorem finishStop_keeps {s : State} (hs : K.of s) : K.of (finishStop s) := by
  unfold finishStop
  extract_lets _ _ _ s1 s2 s3 _ s4 s5 _ s6 _ s7
  have hs1 : K.of s1 := hs.same rfl
  have hs2 : K.of s2 := .foldl (fun _ _ hs => appendEntry_keeps hs) hs1
  have hs3 : K.of s3 := .foldl (fun _ _ hs => ledgerEv_keeps hs) hs2
  have hs4 : K.of s4 := closePage_keeps (sealPage_keeps hs3)
  have hs5 : K.of s5 := archiveHeld_keeps hs4
  have hs6 : K.of s6 := hs5.same rfl
  have hs7 : K.of s7 := .ite hs6 (hs6.same rfl)
  exact powerDown_keeps hs7

theorem stopModule_keeps {e : LedgerEvent} {latch cut : Bool} {s : State} (hs : K.of s) : K.of (stopModule e latch cut s) := by
  unfold stopModule
  split
  · exact .ite (powerDown_keeps (latchCause_keeps hs)) hs
  · exact hs
  · extract_lets _ s1 s2 _ s3
    have hs1 : K.of s1 := .ite hs (hs.same rfl)
    have hs2 : K.of s2 := .ite (stopUnits_keeps hs) hs
    have hs3 : K.of s3 := hs2.same rfl
    exact .ite (powerDown_keeps (latchCause_keeps hs1)) (.ite hs3 (finishStop_keeps hs3))

/-! ## Contexts -/

theorem openContext_keeps {p : PCtxCreate} {u : Nat} {s : State} (hs : K.of s) : K.of (openContext p u s) := by
  unfold openContext
  extract_lets _ _ _ _ _ _ _ s1
  have hs1 : K.of s1 := hs.same rfl
  refine .foldl ?_ hs1
  intro _ _ hs
  extract_lets
  exact hs.same rfl

theorem ctxCreateApply_keeps {p : PCtxCreate} {j : Job} {origin : Nat} {s : State} (hs : K.of s) :
    K.of (ctxCreateApply p j origin s).1 := by
  unfold ctxCreateApply
  extract_lets
  split
  · exact callRefused_keeps hs
  · split
    · exact callRefused_keeps hs
    · exact ledger_keeps (openContext_keeps hs)

theorem runCtxCreate_keeps {p : PCtxCreate} {j : Job} {s : State} (hs : K.of s) : K.of (runCtxCreate p j s).1 := by
  unfold runCtxCreate
  extract_lets
  split
  · exact runOrder_keeps hs
  · split
    · exact ends_keeps (callRefused_keeps (gateCount_keeps (count_keeps hs)))
    · exact runOrder_keeps hs

theorem cancelJobs_keeps {c : Nat} {s : State} (hs : K.of s) : K.of (cancelJobs c s) := by
  unfold cancelJobs
  extract_lets s1
  have hs1 : K.of s1 := stopJobs_keeps hs
  exact hs1.same rfl

theorem dropResults_keeps {c : Nat} {s : State} (hs : K.of s) : K.of (dropResults c s) :=
  .foldl (fun _ _ hs => .foldl (fun _ _ hs => abortPart_keeps hs) hs) hs

theorem dropExchange_keeps {c : Nat} {s : State} (hs : K.of s) : K.of (dropExchange c s) := by
  unfold dropExchange
  extract_lets s1 s2
  have hs1 : K.of s1 := .foldl (fun _ _ hs => .foldl (fun _ _ hs => closeClaim_keeps hs) hs) hs
  have hs2 : K.of s2 := .foldl (fun _ _ hs => .foldl (fun _ _ hs => closeRound_keeps hs) hs) hs1
  exact hs2.same rfl

theorem dropSnapRings_keeps {c : Nat} {s : State} (hs : K.of s) : K.of (dropSnapRings c s) := by
  unfold dropSnapRings
  refine .foldl ?_ hs
  intro _ _ hs
  extract_lets
  exact ledger_keeps (setItem_keeps (hs.same rfl))

theorem stopCounters_keeps {c : Nat} {s : State} (hs : K.of s) : K.of (stopCounters c s) := by
  unfold stopCounters
  extract_lets
  exact hs.same rfl

theorem zeroScratch_keeps {es : AMap Extent} {s : State} (hs : K.of s) : K.of (zeroScratch es s) :=
  .foldl (fun _ _ hs => zeroRange_keeps hs) hs

theorem snapOne_keeps {c : Nat} {s : State} (hs : K.of s) : K.of (snapOne c s) := by
  unfold snapOne
  extract_lets
  exact .ite hs (appendAll_keeps (modCtx_keeps hs))

theorem closeContext_keeps {c : Nat} {s : State} (hs : K.of s) : K.of (closeContext c s) := by
  have h1 : K.of (dropResults c (cancelJobs c s)) := dropResults_keeps (cancelJobs_keeps hs)
  unfold closeContext
  generalize dropResults c (cancelJobs c s) = s1 at h1
  extract_lets t1 t2 t3 es
  have h2 : K.of t2 := settleN_keeps h1
  clear_value t2
  have h3 : K.of t3 := stopCounters_keeps (dropSnapRings_keeps (dropExchange_keeps (snapOne_keeps h2)))
  clear_value es t3
  exact pumpAll_keeps (zeroScratch_keeps (h3.same rfl))

theorem ctxDestroyApply_keeps {p : PCtxDestroy} {j : Job} {origin : Nat} {s : State} (hs : K.of s) :
    K.of (ctxDestroyApply p j origin s).1 := by
  unfold ctxDestroyApply
  extract_lets c e
  split
  · exact callRefused_keeps hs
  · dsimp only
    refine ledger_keeps ?_
    exact closeContext_keeps hs

/-! ## Items -/

theorem retrainPorts_keeps {s : State} (hs : K.of s) : K.of (retrainPorts s) := .foldl (fun _ _ hs => setPort_keeps hs) hs

theorem applyMgmtNet_keeps {v : Nat} {s : State} (hs : K.of s) : K.of (applyMgmtNet v s) := by
  unfold applyMgmtNet
  extract_lets _ _ _ s1 _ _ s2
  have hs1 : K.of s1 := setItem_keeps hs
  have hs2 : K.of s2 := hs1.same rfl
  exact .ite hs2 (hs2.same rfl)

theorem applyDebug_keeps {v : Nat} {s : State} (hs : K.of s) : K.of (applyDebug v s) := by
  unfold applyDebug
  extract_lets s1 _ s2
  have hs1 : K.of s1 := setItem_keeps hs
  have hs2 : K.of s2 := .ite (hs1.same rfl) hs1
  exact .ite hs2 (hs2.same rfl)

theorem applyCntSel_keeps {u n v : Nat} {s : State} (hs : K.of s) : K.of (applyCntSel u n v s) := by
  unfold applyCntSel
  extract_lets _ s1
  have hs1 : K.of s1 := setItem_keeps hs
  exact hs1.same rfl

theorem applyCtx0Ring_keeps {v : Nat} {s : State} (hs : K.of s) : K.of (applyCtx0Ring v s) := by
  unfold applyCtx0Ring
  extract_lets
  exact .ite (modRing_keeps hs) (hs.same rfl)

theorem applyCtx0Extent_keeps {v : Nat} {s : State} (hs : K.of s) : K.of (applyCtx0Extent v s) := by
  unfold applyCtx0Extent
  extract_lets
  exact modCtx_keeps hs

theorem applyPortCfg_keeps {u v : Nat} {s : State} (hs : K.of s) : K.of (applyPortCfg u v s) := by
  unfold applyPortCfg
  extract_lets _ s1
  have hs1 : K.of s1 := setItem_keeps hs
  exact .ite hs1 (portReset_keeps hs1)

theorem applyIngest_keeps {u a : Nat} {s : State} (hs : K.of s) : K.of (applyIngest u a s) := by
  unfold applyIngest
  extract_lets
  exact hs.same rfl

theorem applySnap_keeps {n c a : Nat} {s : State} (hs : K.of s) : K.of (applySnap n c a s) := hs.same rfl

theorem applyItem_keeps {u it v : Nat} {s : State} (hs : K.of s) : K.of (applyItem u it v s) := by
  unfold applyItem
  extract_lets
  exact .ite (hs.same rfl) (.ite (modCtx_keeps hs) (.ite (hs.same rfl) (.ite (modCtx_keeps hs) (.ite (setItem_keeps (applyCtx0Extent_keeps hs)) (.ite (setItem_keeps (applyCtx0Ring_keeps hs)) (.ite (retrainPorts_keeps (setItem_keeps hs)) (.ite (applyPortCfg_keeps hs) (.ite (applyIngest_keeps (setItem_keeps hs)) (.ite (setTime_keeps hs) (.ite (applyMgmtNet_keeps hs) (.ite (applyDebug_keeps hs) (.ite (applyCntSel_keeps hs) (.ite (applySnap_keeps (setItem_keeps hs)) (setItem_keeps hs))))))))))))))

theorem itemLedger_keeps {origin ctx u it old v : Nat} {s : State} (hs : K.of s) : K.of (itemLedger origin ctx u it old v s) := by
  unfold itemLedger
  extract_lets _ s1
  have hs1 : K.of s1 := .ite (ledger_keeps hs) (ledger_keeps hs)
  exact .ite (ledger_keeps hs1) hs1

theorem itemRefused_keeps {origin ctx u it v : Nat} {s : State} (hs : K.of s) : K.of (itemRefused origin ctx u it v s) := by
  unfold itemRefused
  extract_lets
  exact ledgerEv_keeps hs

theorem writeItem_keeps {origin ctx u it v : Nat} {s : State} (hs : K.of s) : K.of (writeItem origin ctx u it v s) := by
  unfold writeItem
  extract_lets
  exact itemLedger_keeps (applyItem_keeps hs)

theorem runCfgWrite_keeps {p : PCfgWrite} {j : Job} {s : State} (hs : K.of s) : K.of (runCfgWrite p j s).1 := by
  unfold runCfgWrite
  extract_lets
  split
  · exact ends_keeps (itemRefused_keeps (gateCount_keeps (count_keeps hs)))
  · exact joinAll_keeps hs

/-! ## Query -/

theorem writeRecord_keeps {a : Nat} {bs : List Byte} {j : Job} {s : State} (hs : K.of s) : K.of (writeRecord a bs j s).1 := by
  unfold writeRecord
  split
  · exact hs
  · exact ends_keeps (storeLazy_keeps hs)

theorem runQueryReady_keeps {p : PQueryReady} {j : Job} {s : State} (hs : K.of s) : K.of (runQueryReady p j s).1 :=
  writeRecord_keeps hs

theorem runQueryStatus_keeps {p : PQueryStatus} {j : Job} {s : State} (hs : K.of s) : K.of (runQueryStatus p j s).1 := by
  unfold runQueryStatus
  extract_lets _ s1
  have hs1 : K.of s1.1 := writeRecord_keeps hs
  split
  · exact .iteFst (ends_keeps (modCtx_keeps hs1)) hs1
  · exact hs1

/-! ## Pres -/

theorem runOf_keeps {i : Instr} {a : Job} {x2 : State} (hs : K.of x2) : K.of (runOf i a x2).1 := by
  unfold runOf
  split
  · exact runQueryReady_keeps hs
  · exact runQueryStatus_keeps hs
  · exact runMmPartition_keeps hs
  · exact runQueued_keeps hs
  · exact runQueued_keeps hs
  · exact runMmAbort_keeps hs
  · exact runInUnit_keeps hs
  · exact runInUnit_keeps hs
  · exact runInUnit_keeps hs
  · exact runInUnit_keeps hs
  · exact runRtCancel_keeps hs
  · exact runInUnit_keeps hs
  · exact runInUnit_keeps hs
  · exact runInUnit_keeps hs
  · exact runDmaRun_keeps hs
  · exact runDmaChain_keeps hs
  · exact runSigSet_keeps hs
  · exact runSigAdd_keeps hs
  · exact runSigWait_keeps hs
  · exact runFence_keeps hs
  · exact runFence_keeps hs
  · exact runLoopBegin_keeps hs
  · exact runLoopEnd_keeps hs
  · exact runSkipIf_keeps hs
  · exact runDrvLaunch_keeps hs
  · exact runAtomic_keeps hs
  · exact runVerPublish_keepsBytes hs
  · exact runVerPin_keeps hs
  · exact runVerRetire_keepsBytes hs
  · exact runChainReduce_keeps hs
  · exact runGrpBarrier_keeps hs
  · exact runGrpDirectoryUpdate_keeps hs
  · exact runOrder_keeps hs
  · exact runOrder_keeps hs
  · exact runCtxCreate_keeps hs
  · exact runOrder_keeps hs
  · exact runCfgWrite_keeps hs
  · exact runOrder_keeps hs
  · exact runOrder_keeps hs
  · exact runOrder_keeps hs
  · exact runLedgerSeal_keeps hs
  · exact runNop_keeps hs

theorem workOf_keeps {i : Instr} {a : Job} {x2 : State} (hs : K.of x2) : K.of (workOf i a x2).1 := by
  unfold workOf
  split
  · exact wsRun_keeps hs
  · exact wsRun_keeps hs
  · exact wsRun_keeps hs
  · exact wsRun_keeps hs
  · exact cfRun_keeps hs
  · exact cfRun_keeps hs
  · exact flushRun_keeps hs
  · exact runOf_keeps hs

/-! ## Orders -/

theorem applyWrite_keeps {origin ctx u it v : Nat} {s : State} (hs : K.of s) : K.of (applyWrite origin ctx u it v s).1 := by
  unfold applyWrite
  split
  · exact itemRefused_keeps hs
  · exact writeItem_keeps hs

theorem writeCmd_keeps {it : Nat} {w : ItemWrite} {v : Nat} {s : State} (hs : K.of s) : K.ofNext (writeCmd it w v s) := by
  unfold writeCmd
  extract_lets
  exact .next (settle_keeps (.ite (itemRefused_keeps hs) (.ite hs (pumpAll_keeps (applyWrite_keeps hs)))))

theorem applyOrder_keeps {f : Faults} {o : Order} {j : Job} {s : State} (hs : K.of s) : K.of (applyOrder f o j s).1 := by
  unfold applyOrder
  extract_lets
  split
  · exact applyWrite_keeps hs
  · exact mapOutApply_keeps hs
  · exact remapApply_keeps hs
  · exact ctxCreateApply_keeps hs
  · exact ctxDestroyApply_keeps hs
  · exact fwLoadApply_keeps hs
  · exact selftestApply_keeps hs
  · extract_lets
    exact ledger_keeps (dueRetrain_keeps hs)
  · exact hs

theorem applyWinner_keeps {obj : OrderObj} {f : Faults} {o : Order} {s : State} (hs : K.of s) :
    K.of (applyWinner obj f o s).1 := by
  unfold applyWinner
  split
  · extract_lets _ _ s1
    have hs1 : K.of s1.1 := applyOrder_keeps (modJob_keeps hs)
    exact outcome_keeps hs1
  · split
    · extract_lets s1
      have hs1 : K.of s1.1 := applyWrite_keeps hs
      exact hs1
    · exact hs

theorem supersede_keeps {obj : OrderObj} {old winner : Nat} {o : Order} {s : State} (hs : K.of s) :
    K.of (supersede obj old winner o s) := by
  unfold supersede
  extract_lets _ s1
  have hs1 : K.of s1 := ledgerEv_keeps (count_keeps hs)
  split
  · exact endJob_keeps (leaveWindows_keeps hs1)
  · exact hs1

theorem share_keeps {obj : OrderObj} {old : Nat} {winner : Option Nat} {r : End ⊕ Phase} {o : Order} {s : State} (hs : K.of s) :
    K.of (share obj old winner r o s) := by
  unfold share
  extract_lets _ s1
  have hs1 : K.of s1 := ledgerEv_keeps hs
  split
  · exact hs1
  · split
    · exact endJob_keeps hs1
    · exact modJob_keeps hs1
    · exact endJob_keeps hs1

theorem settleOrders_keeps {obj : OrderObj} {w : Order} {r : End ⊕ Phase} {s0 : State} {os : List Order} {s : State} (hs : K.of s) :
    K.of (settleOrders obj w r s0 os s) := by
  induction os generalizing s with
  | nil => exact hs
  | cons o os ih => exact ih (.ite (share_keeps hs) (supersede_keeps hs))

theorem updatesDue_keeps {s : State} (hs : K.of s) : K.of (updatesDue s) := by
  unfold updatesDue
  extract_lets _ s1
  have hs1 : K.of s1 := hs.same rfl
  exact nextUpdate_keeps hs1

theorem closeEntryWindow_keeps {obj : OrderObj} {w : Order} {os : List Order} {s : State} (hs : K.of s) :
    K.of (closeEntryWindow obj w os s) :=
  updatesDue_keeps (settleOrders_keeps hs)

theorem closeWindow_keeps {w : Window} {f : Faults} {s : State} (hs : K.of s) : K.of (closeWindow w f s) := by
  unfold closeWindow
  extract_lets _ s1
  have hs1 : K.of s1 := hs.same rfl
  split
  · exact settleOrders_keeps hs1
  · split
    · exact hs1
    · split
      · exact closeEntryWindow_keeps hs1
      · extract_lets s2
        have hs2 : K.of s2.1 := applyWinner_keeps hs1
        exact settleOrders_keeps hs2

theorem gateAct_keeps {c : GateCall} {s : State} (hs : K.of s) : K.of (gateAct c s) := by
  unfold gateAct
  extract_lets
  split
  · exact joinWindow_keeps hs
  · exact setTap_keeps hs
  · exact setRail_keeps hs
  · exact retire_keeps hs
  · exact ledger_keeps hs
  · exact hs

theorem gateRefused_keeps {die : Nat} {c : GateCall} {e : End} {s : State} (hs : K.of s) : K.of (gateRefused die c e s) := by
  unfold gateRefused
  split
  · exact .ite hs (itemRefused_keeps hs)
  · exact .ite hs (callRefused_keeps hs)

theorem gateAnswer_keeps {die : Nat} {e : End} {read : List Nat} {s : State} (hs : K.of s) : K.of (gateAnswer die e read s) := by
  unfold gateAnswer
  extract_lets
  exact hs.same rfl

/-! ## Riscv -/

theorem traps_keeps {s : State} {t : Trap} (hs : K.of s) : K.of (traps s t).1 := hs

theorem bad_keeps {s : State} (hs : K.of s) : K.of (bad s).1 := traps_keeps hs

theorem setX_keeps {n r v : Nat} {s : State} (hs : K.of s) : K.of (setX n r v s) := .ite hs (modDrover_keeps hs)

theorem setF_keeps {n w r v : Nat} {s : State} (hs : K.of s) : K.of (setF n w r v s) := modDrover_keeps hs

theorem setFlags_keeps {n fl : Nat} {s : State} (hs : K.of s) : K.of (setFlags n fl s) := modDrover_keeps hs

theorem execLoad_keeps {n : Nat} {j : Job} {f : Faults} {a size : Nat} {put : Nat → State → State} {s : State} (hput : ∀ (a : Nat) (a_1 : State), K.of a_1 → K.of (put a a_1)) (hs : K.of s) :
    K.of (execLoad n j f a size put s).1 := by
  unfold execLoad
  split
  · exact traps_keeps hs
  · split
    · exact traps_keeps hs
    · exact hput _ _ hs

theorem execStore_keeps {n : Nat} {j : Job} {a size v : Nat} {s : State} (hs : K.of s) : K.of (execStore n j a size v s).1 := by
  unfold execStore
  split
  · exact traps_keeps hs
  · next s' e => exact drvStore_keeps e hs

theorem atomicStore_keeps {n : Nat} {j : Job} {a size v : Nat} {s : State} (hs : K.of s) : K.of (atomicStore n j a size v s) :=
  storeNow_keeps hs

theorem amo_keeps {n : Nat} {j : Job} {i : Nat} {s : State} (hs : K.of s) : K.of (amo n j i s).1 := by
  unfold amo
  extract_lets _ _ _ _ _ _ s1 _ _ s2
  have hs1 : K.of s1 := .ite (drvVisible_keeps hs) hs
  have hs2 : K.of s2 := modDrover_keeps hs1
  split
  · exact bad_keeps hs1
  · split
    · split
      · exact bad_keeps hs1
      · split
        · exact traps_keeps hs1
        · exact setX_keeps (modDrover_keeps hs1)
    · split
      · exact traps_keeps hs1
      · split
        · exact setX_keeps (.ite (atomicStore_keeps hs2) hs2)
        · split
          · exact setX_keeps (.ite (atomicStore_keeps hs1) hs1)
          · split
            · exact bad_keeps hs1
            · exact setX_keeps (atomicStore_keeps hs1)

theorem putF_keeps {n : Nat} {f : FFmt} {rd : Nat} {r : Nat × Nat} {s : State} (hs : K.of s) : K.of (putF n f rd r s) :=
  setFlags_keeps (setF_keeps hs)

theorem putX_keeps {n rd : Nat} {r : Nat × Nat} {s : State} (hs : K.of s) : K.of (putX n rd r s) := setFlags_keeps (setX_keeps hs)

theorem fpOp_keeps {n i : Nat} {s : State} (hs : K.of s) : K.of (fpOp n i s).1 := by
  unfold fpOp
  extract_lets
  split
  · exact bad_keeps hs
  · extract_lets
    split
    · exact putF_keeps hs
    · exact putF_keeps hs
    · exact putF_keeps hs
    · exact putF_keeps hs
    · exact .iteFst (putF_keeps hs) (bad_keeps hs)
    · exact .iteFst (putF_keeps hs) (bad_keeps hs)
    · exact .iteFst (putF_keeps hs) (bad_keeps hs)
    · split
      · exact putF_keeps hs
      · exact bad_keeps hs
    · exact .iteFst (putX_keeps hs) (bad_keeps hs)
    · split
      · exact bad_keeps hs
      · extract_lets
        exact .iteFst (putX_keeps hs) (bad_keeps hs)
    · exact .iteFst (putF_keeps hs) (bad_keeps hs)
    · exact .iteFst (bad_keeps hs) (.iteFst (setX_keeps hs) (.iteFst (setX_keeps hs) (bad_keeps hs)))
    · exact .iteFst (setF_keeps hs) (bad_keeps hs)
    · exact bad_keeps hs

theorem fmaOp_keeps {n i : Nat} {s : State} (hs : K.of s) : K.of (fmaOp n i s).1 := by
  unfold fmaOp
  extract_lets
  split
  · exact bad_keeps hs
  · exact putF_keeps hs

theorem csrWrite_keeps {n : Nat} {j : Job} {k v : Nat} {s : State} (hs : K.of s) : K.of (csrWrite n j k v s).1 := by
  unfold csrWrite
  extract_lets
  split
  · exact modDrover_keeps hs
  · exact hs
  · exact modDrover_keeps hs
  · exact modDrover_keeps hs
  · exact modDrover_keeps hs
  · exact modDrover_keeps hs
  · exact modDrover_keeps hs
  · exact modDrover_keeps hs
  · exact modDrover_keeps hs
  · exact writeSigwait_keeps hs
  · exact .iteFst (modDrover_keeps hs) (bad_keeps hs)
  · exact writeStatsink_keeps hs
  · exact modDrover_keeps hs
  · exact modDrover_keeps hs
  · exact modDrover_keeps hs
  · exact .iteFst (bad_keeps hs) (modDrover_keeps hs)
  · exact bad_keeps hs

theorem csrOp_keeps {n : Nat} {j : Job} {i : Nat} {s : State} (hs : K.of s) : K.of (csrOp n j i s).1 := by
  unfold csrOp
  extract_lets
  split
  · exact bad_keeps hs
  · extract_lets
    split
    · exact setX_keeps hs
    · split
      · rename_i heq
        exact setX_keeps (Stable.of.ofFst heq (csrWrite_keeps hs))
      · exact csrWrite_keeps hs

theorem Stable.of.some {x y : DRes × Flow} (e : Option.some x = Option.some y) (h : K.of x.1.1) : K.of y.1.1 := by
  cases e
  exact h

theorem Stable.of.someIte {c : Prop} [Decidable c] {x y : Option (DRes × Flow)} {z : DRes × Flow}
    (e : (if c then x else y) = Option.some z) (h : x = Option.some z → K.of z.1.1) (k : y = Option.some z → K.of z.1.1) :
    K.of z.1.1 := by
  split at e
  · exact h e
  · exact k e

theorem scalar_keeps {n : Nat} {j : Job} {f : Faults} {i len : Nat} {s : State} {r : DRes × Flow}
    (e : scalar n j f i len s = some r) (hs : K.of s) : K.of r.1.1 := by
  have hb : K.of (bad s).1 := bad_keeps hs
  have hi : ∀ o : Option Nat, K.of ((match o with | .some v => (setX n (rdOf i) v s, none) | .none => bad s) : DRes).1 := by
    intro o
    cases o with
    | none => exact hb
    | some v => exact setX_keeps hs
  unfold scalar at e
  dsimp only at e
  split at e
  case h_1 | h_2 | h_3 => exact .some e (setX_keeps hs)
  case h_4 => exact .someIte e (fun e => .some e (setX_keeps hs)) (fun e => .some e hb)
  case h_5 =>
    split at e
    · exact .some e hb
    · exact .some e hs
  case h_6 => exact .someIte e (fun e => .some e hb) (fun e => .some e (execLoad_keeps (fun _ _ hs => setX_keeps hs) hs))
  case h_7 => exact .someIte e (fun e => .some e (execStore_keeps hs)) (fun e => .some e hb)
  case h_8 | h_9 | h_10 | h_11 => exact .some e (hi _)
  case h_12 =>
    exact .someIte e (fun e => .some e (.ite (drvVisible_keeps hs) hs)) (fun e => .someIte e (fun e => .some e hs) (fun e => .some e hb))
  case h_13 =>
    refine .someIte e (fun e => ?_) (fun e => .someIte e (fun e => .some e hb) (fun e => .some e (csrOp_keeps hs)))
    refine .someIte e (fun e => ?_) (fun e => .someIte e (fun e => .some e (traps_keeps hs)) (fun e => .some e hb))
    exact .someIte e (fun e => .some e hs) (fun e => .some e (traps_keeps hs))
  case h_14 => exact .some e (amo_keeps hs)
  case h_15 | h_16 | h_17 | h_18 => exact .some e (fmaOp_keeps hs)
  case h_19 => exact .some e (fpOp_keeps hs)
  case h_20 =>
    exact .someIte e (fun e => .some e (execLoad_keeps (fun _ _ hs => setF_keeps hs) hs)) (fun e => by cases e)
  case h_21 => exact .someIte e (fun e => .some e (execStore_keeps hs)) (fun e => by cases e)
  case h_22 => cases e
  case h_23 => exact .some e hb

/-! ## Run -/

theorem endPass_keeps {key : Nat} {s : State} (hs : K.of s) : K.of (endPass key s) := by
  unfold endPass
  split
  · exact hs
  · exact settle_keeps (endJob_keeps (modRing_keeps hs))
  · exact modRing_keeps hs

theorem stopRing_keeps {key : Nat} {h : Hdr} {bad : End} {poisoned : Bool} {s : State} (hs : K.of s) :
    K.of (stopRing key h bad poisoned s) := by
  unfold stopRing
  extract_lets s1 s2 s3
  have hs1 : K.of s1 := endPass_keeps hs
  have hs2 : K.of s2 := count_keeps hs1
  have hs3 : K.of s3 := .ite (count_keeps (writeReply_keeps hs2)) (reject_keeps hs2)
  exact .ite hs1 (modRing_keeps hs3)

theorem fetchPacket_keeps {key : Nat} {b : List Byte} {poison : Option Nat} {s : State} (hs : K.of s) :
    K.of (fetchPacket key b poison s) := by
  unfold fetchPacket
  extract_lets _ _ _ _ s1
  have hs1 : K.of s1 := modRing_keeps hs
  split
  · rename_i heq19
    extract_lets s2
    have hs2 : K.of s2 := .ite (settle_keeps (Stable.of.ofFst heq19 (passStep_keeps hs1))) (Stable.of.ofFst heq19 (passStep_keeps hs1))
    exact .ite (Stable.of.ofFst heq19 (passStep_keeps hs1)) (.ite (modRing_keeps hs2) (accept_keeps (fun _ _ hs => runOf_keeps hs) hs2))

theorem fetchNext_keeps {key : Nat} {s : State} (hs : K.of s) : K.of (fetchNext key s) := by
  unfold fetchNext
  extract_lets
  split
  · exact hs
  · split
    · exact stopRing_keeps hs
    · exact .ite (stopRing_keeps hs) (.ite hs (fetchPacket_keeps hs))

theorem goOn_keeps {job : Nat} {s : State} (hs : K.of s) : K.of (goOn job s) :=
  settle_keeps (pumpAll_keeps (sendNewArrival_keeps hs))

theorem dispatchHead_keeps {key : Nat} {f : Faults} {s : State} (hs : K.of s) : K.of (dispatchHead key f s) := by
  unfold dispatchHead
  split
  · exact hs
  · extract_lets _ s1 s2
    have hs1 : K.of s1 := modRing_keeps hs
    have hs2 : K.of s2 := .ite (dispatch_keeps (fun _ _ hs => runOf_keeps hs) hs1) (meet_keeps (fun _ _ hs => runOf_keeps hs) hs1)
    exact modRing_keeps hs2

theorem startReady_keeps {f : Faults} {s : State} {j : Job} (hs : K.of s) : K.of (startReady f s j) := by
  unfold startReady
  extract_lets
  exact .ite hs (outcome_keeps (runOf_keeps (modJob_keeps hs)))

theorem resumeParked_keeps {s : State} (hs : K.of s) : K.of (resumeParked s) := by
  unfold resumeParked
  refine .foldl ?_ hs
  intro _ _ hs
  split
  · split
    · split
      · exact hs
      · exact outcome_keeps (workOf_keeps hs)
    · exact hs
  · exact hs

theorem noteParked_keeps {ch : Nat} {s : State} (hs : K.of s) : K.of (noteParked ch s) := by
  unfold noteParked
  extract_lets
  exact countMax_keeps (countMax_keeps hs)

theorem snapOnce_keeps {n : Nat} {r : SnapRing} {s : State} (hs : K.of s) : K.of (snapOnce n r s) := by
  unfold snapOnce
  extract_lets _ _ _ s1 s2
  have hs1 : K.of s1 := storeNow_keeps hs
  have hs2 : K.of s2 := sigStore_keeps hs1
  exact .ite (hs2.same rfl) (hs.same rfl)

/-! ## Vector -/

theorem vdone_keeps {n fl : Nat} {s : State} (hs : K.of s) : K.of (vdone n fl s) := modDrover_keeps hs

theorem vwrite_keeps {n : Nat} {e : VEnv} {vm : Bool} {vd w m8 : Nat} {g : Nat → Nat × Nat} {s : State} (hs : K.of s) :
    K.of (vwrite n e vm vd w m8 g s).1 := by
  unfold vwrite
  extract_lets
  exact .iteFst (vdone_keeps hs) (vdone_keeps (modDrover_keeps hs))

theorem vwriteMask_keeps {n : Nat} {e : VEnv} {vm : Bool} {vd : Nat} {g : Nat → Bool × Nat} {s : State} (hs : K.of s) :
    K.of (vwriteMask n e vm vd g s).1 := by
  unfold vwriteMask
  extract_lets
  exact .iteFst (vdone_keeps hs) (vdone_keeps (modDrover_keeps hs))

theorem vsetOp_keeps {n i : Nat} {s : State} (hs : K.of s) : K.of (vsetOp n i s).1 := by
  unfold vsetOp
  dsimp only
  split
  · exact bad_keeps hs
  · exact .iteFst (setX_keeps (modDrover_keeps hs)) (setX_keeps (modDrover_keeps hs))

theorem vscalar_keeps {n : Nat} {e : VEnv} {vd w : Nat} {r : Nat × Nat} {s : State} (hs : K.of s) :
    K.of (vscalar n e vd w r s).1 :=
  .iteFst (vdone_keeps hs) (vwrite_keeps hs)

theorem vslide_keeps {n : Nat} {e : VEnv} {i off : Nat} {s : State} (hs : K.of s) : K.of (vslide n e i off s).1 := by
  unfold vslide
  extract_lets
  exact .iteFst (.iteFst (bad_keeps hs) (vwrite_keeps hs)) (vwrite_keeps hs)

theorem vgather_keeps {n : Nat} {e : VEnv} {i : Nat} {idx : Nat → Nat} {s : State} (hs : K.of s) :
    K.of (vgather n e i idx s).1 := by
  unfold vgather
  extract_lets
  exact .iteFst (bad_keeps hs) (vwrite_keeps hs)

theorem vnarrow_keeps {n : Nat} {e : VEnv} {i : Nat} {s : State} (hs : K.of s) : K.of (vnarrow n e i s).1 := by
  unfold vnarrow
  extract_lets
  exact .iteFst (bad_keeps hs) (vwrite_keeps hs)

theorem vcarry_keeps {n : Nat} {e : VEnv} {i : Nat} {s : State} (hs : K.of s) : K.of (vcarry n e i s).1 := by
  unfold vcarry
  extract_lets
  exact .iteFst (.iteFst (bad_keeps hs) (vwrite_keeps hs)) (.iteFst (bad_keeps hs) (vwriteMask_keeps hs))

theorem vmergeOp_keeps {n : Nat} {e : VEnv} {i : Nat} {b : Nat → Nat} {s : State} (hs : K.of s) :
    K.of (vmergeOp n e i b s).1 := by
  unfold vmergeOp
  extract_lets
  exact .iteFst (.iteFst (bad_keeps hs) (vwrite_keeps hs)) (.iteFst (bad_keeps hs) (vwrite_keeps hs))

theorem vmoveRegs_keeps {n i : Nat} {s : State} (hs : K.of s) : K.of (vmoveRegs n i s).1 := by
  unfold vmoveRegs
  extract_lets
  exact .iteFst (bad_keeps hs) (vdone_keeps (modDrover_keeps hs))

theorem vopi_keeps {n : Nat} {e : VEnv} {i : Nat} {s : State} (hs : K.of s) : K.of (vopi n e i s).1 := by
  unfold vopi
  extract_lets
  exact .iteFst (bad_keeps hs) (.iteFst (vmoveRegs_keeps hs) (.iteFst (.iteFst (bad_keeps hs) (vscalar_keeps hs)) (.iteFst (.iteFst (vnarrow_keeps hs) (bad_keeps hs)) (.iteFst (.iteFst (vcarry_keeps hs) (bad_keeps hs)) (.iteFst (.iteFst (bad_keeps hs) (vwriteMask_keeps hs)) (.iteFst (bad_keeps hs) (.iteFst (vmergeOp_keeps hs) (.iteFst (bad_keeps hs) (.iteFst (.iteFst (vcarry_keeps hs) (bad_keeps hs)) (.iteFst (bad_keeps hs) (.iteFst (.iteFst (bad_keeps hs) (vgather_keeps hs)) (.iteFst (vslide_keeps hs) (.iteFst (.iteFst (.iteFst (bad_keeps hs) (vgather_keeps hs)) (vgather_keeps hs)) (.iteFst (bad_keeps hs) (vwrite_keeps hs)))))))))))))))

theorem vmunary_keeps {n : Nat} {e : VEnv} {i : Nat} {s : State} (hs : K.of s) : K.of (vmunary n e i s).1 := by
  unfold vmunary
  extract_lets
  split
  · exact .iteFst (vwriteMask_keeps hs) (bad_keeps hs)
  · exact .iteFst (vwriteMask_keeps hs) (bad_keeps hs)
  · exact .iteFst (vwriteMask_keeps hs) (bad_keeps hs)
  · exact .iteFst (bad_keeps hs) (vwrite_keeps hs)
  · exact .iteFst (bad_keeps hs) (vwrite_keeps hs)
  · exact bad_keeps hs

theorem vxunary_keeps {n : Nat} {e : VEnv} {i : Nat} {s : State} (hs : K.of s) : K.of (vxunary n e i s).1 := by
  unfold vxunary
  extract_lets
  exact .iteFst (bad_keeps hs) (vwrite_keeps hs)

theorem vcompress_keeps {n : Nat} {e : VEnv} {i : Nat} {s : State} (hs : K.of s) : K.of (vcompress n e i s).1 := by
  unfold vcompress
  extract_lets
  exact .iteFst (bad_keeps hs) (.iteFst (vdone_keeps hs) (vwrite_keeps hs))

theorem vopm_keeps {n : Nat} {e : VEnv} {i : Nat} {s : State} (hs : K.of s) : K.of (vopm n e i s).1 := by
  have hb : K.of (bad s).1 := bad_keeps hs
  unfold vopm
  refine .iteFst (.iteFst hb (vscalar_keeps hs)) (.iteFst (.iteFst hb (vwrite_keeps hs)) (.iteFst (.iteFst ?_ ?_) ?_))
  · split
    · exact .iteFst (setX_keeps (vdone_keeps hs)) hb
    · exact .iteFst hb (setX_keeps (vdone_keeps hs))
    · exact .iteFst hb (setX_keeps (vdone_keeps hs))
    · exact hb
  · exact .iteFst hb (vscalar_keeps hs)
  · refine .iteFst (.iteFst (vxunary_keeps hs) hb) (.iteFst (.iteFst (vmunary_keeps hs) hb) (.iteFst (.iteFst (vcompress_keeps hs) hb) ?_))
    refine .iteFst (.iteFst hb (vwriteMask_keeps hs)) (.iteFst hb (.iteFst ?_ (.iteFst hb (vwrite_keeps hs))))
    exact .iteFst hb (vwrite_keeps hs)

theorem vfred_keeps {n : Nat} {e : VEnv} {i : Nat} {f : FFmt} {conv : Nat → Nat × Nat} {sw f6 : Nat} {s : State} (hs : K.of s) :
    K.of (vfred n e i f conv sw f6 s).1 := by
  unfold vfred
  extract_lets
  exact .iteFst (bad_keeps hs) (vscalar_keeps hs)

theorem vopfOn_keeps {n : Nat} {e : VEnv} {i : Nat} {f : FFmt} {s : State} (hs : K.of s) : K.of (vopfOn n e i f s).1 := by
  have hb : K.of (bad s).1 := bad_keeps hs
  unfold vopfOn
  refine .iteFst (vfred_keeps hs) (.iteFst ?_ (.iteFst ?_ (.iteFst ?_ (.iteFst ?_ (.iteFst hb (.iteFst ?_ (.iteFst ?_ (.iteFst ?_ ?_))))))))
  · cases vfmt (2 * e.sew) with
    | none => exact hb
    | some g => exact vfred_keeps hs
  · exact .iteFst (.iteFst (setF_keeps (vdone_keeps hs)) hb) (.iteFst (vscalar_keeps hs) hb)
  · exact .iteFst hb (vwriteMask_keeps hs)
  · exact .iteFst hb (vmergeOp_keeps hs)
  · exact .iteFst hb (vwrite_keeps hs)
  · exact .iteFst hb (vwrite_keeps hs)
  · cases vfmt (2 * e.sew) with
    | none => exact hb
    | some g => exact .iteFst hb (vwrite_keeps hs)
  · exact .iteFst hb (vwrite_keeps hs)

theorem vconvert_keeps {n : Nat} {e : VEnv} {i : Nat} {s : State} (hs : K.of s) : K.of (vconvert n e i s).1 := by
  unfold vconvert
  extract_lets
  split
  · exact bad_keeps hs
  · extract_lets
    exact .iteFst (bad_keeps hs) (vwrite_keeps hs)

theorem vopf_keeps {n : Nat} {e : VEnv} {i : Nat} {s : State} (hs : K.of s) : K.of (vopf n e i s).1 := by
  unfold vopf
  split
  · exact .iteFst (vconvert_keeps hs) (bad_keeps hs)
  · split
    · exact bad_keeps hs
    · exact vopfOn_keeps hs

theorem vopv_keeps {n i : Nat} {s : State} (hs : K.of s) : K.of (vopv n i s).1 := by
  unfold vopv
  extract_lets
  split
  · exact vsetOp_keeps hs
  · split
    · exact bad_keeps hs
    · exact .iteFst (vopm_keeps hs) (.iteFst (vopf_keeps hs) (vopi_keeps hs))

theorem vloadElems_keeps {n : Nat} {j : Job} {f : Faults} {i : Nat} {m : VMem} {es : List (Nat × Nat)} {s : State} (hs : K.of s) :
    K.of (vloadElems n j f i m es s).1 := by
  induction es generalizing s with
  | nil => exact hs
  | cons e es ih =>
    unfold vloadElems
    refine .iteFst hs ?_
    split
    · exact hs
    · exact ih (modDrover_keeps hs)

theorem vloadRest_keeps {n i : Nat} {m : VMem} {d0 : Drover} {s : State} (hs : K.of s) : K.of (vloadRest n i m d0 s) := by
  unfold vloadRest
  split
  · extract_lets
    split
    · exact hs
    · refine .foldl ?_ hs
      intro _ _ hs
      refine .foldl ?_ hs
      intro _ _ hs
      extract_lets
      exact modDrover_keeps hs
  · exact hs

theorem vload_keeps {n : Nat} {j : Job} {f : Faults} {i : Nat} {s : State} (hs : K.of s) : K.of (vload n j f i s).1 := by
  unfold vload
  extract_lets
  split
  · exact bad_keeps hs
  · split
    · rename_i heq
      exact vdone_keeps (vloadRest_keeps (Stable.of.ofFst heq (vloadElems_keeps hs)))
    · rename_i heq
      exact .iteFst (vdone_keeps (modDrover_keeps (Stable.of.ofFst heq (vloadElems_keeps hs)))) (modDrover_keeps (Stable.of.ofFst heq (vloadElems_keeps hs)))

theorem vstore_keeps {n : Nat} {j : Job} {i : Nat} {s : State} (hs : K.of s) : K.of (vstore n j i s).1 := by
  unfold vstore
  extract_lets
  split
  · exact bad_keeps hs
  · extract_lets
    split
    · rename_i heq
      exact vdone_keeps (Stable.of.ofFst heq (vecStore_keeps hs))
    · exact vecStore_keeps hs

theorem drvRun_keeps {n : Nat} {j : Job} {f : Faults} {i len : Nat} {s : State} (hs : K.of s) : K.of (drvRun n j f i len s).1.1 := by
  unfold drvRun
  split
  · next r e => exact scalar_keeps e hs
  · dsimp only
    split
    · exact vopv_keeps hs
    · exact .iteFst (vload_keeps hs) (bad_keeps hs)
    · exact .iteFst (vstore_keeps hs) (bad_keeps hs)

theorem residue_keeps {n : Nat} {j : Job} {f : Faults} {s : State} (hs : K.of s) : K.of (residue n j f s).1 := by
  unfold residue
  extract_lets s1
  have hs1 : K.of s1 := count_keeps (modDrover_keeps hs)
  exact .iteFst hs1 (.iteFst (charge_keeps (modJob_keeps (count_keeps hs1))) (traps_keeps (modJob_keeps (count_keeps hs1))))

theorem drvRetire_keeps {n : Nat} {j : Job} {len : Nat} {vec : Bool} {fl : Machine.Flow} {s : State} (hs : K.of s) :
    K.of (drvRetire n j len vec fl s) := by
  unfold drvRetire
  extract_lets s1
  have hs1 : K.of s1 := drvNext_keeps hs
  split
  · exact hs1
  · exact modDrover_keeps hs1
  · exact drvExit_keeps hs1

theorem drvInstr_keeps {n : Nat} {f : Faults} {j : Job} {s : State} (hs : K.of s) : K.of (drvInstr n f j s).1 := by
  unfold drvInstr
  split
  · exact traps_keeps hs
  · next i len _ =>
    have hr : K.of (if (scalarChecked i || vecChecked i) = true then residue n j f s else (s, none)).1 :=
      .iteFst (residue_keeps hs) hs
    extract_lets chk
    split
    · next s' t e => exact traps_keeps (Stable.of.ofFst e hr)
    · next s' e =>
      have hd : K.of (drvRun n j f i len s').1.1 := drvRun_keeps (Stable.of.ofFst e hr)
      split
      · next s'' t fl e' =>
        rw [e'] at hd
        exact traps_keeps hd
      · next s'' fl e' =>
        rw [e'] at hd
        exact drvRetire_keeps hd

/-! ## Tick -/

theorem countTick_keeps {s : State} (hs : K.of s) : K.of (countTick s) := .foldl (fun _ _ hs => addCounter_keeps hs) hs

/-! ## Core -/

theorem passed_keeps {s : State} (hs : K.of s) : K.of (passed s) := hs.same rfl

theorem begun_keeps {s : State} {i : Instr} (hs : K.of s) : K.of (begun s i) := by
  unfold begun
  extract_lets _ _ s1 _ s2 s3
  have hs1 : K.of s1 := count_keeps hs
  have hs2 : K.of s2 := hs1.same rfl
  have hs3 : K.of s3 := modRing_keeps hs2
  exact .ite (fenceUpTo_keeps hs3) hs3

theorem replied_keeps {s t : State} {pre : Pre} {i : Instr} {e : End} (ht : K.of t) : K.of (replied s pre i t e) :=
  settle_keeps (finish_keeps ht)

end Sys2Proof.Proofs
end

section
/-! PROOFS. Every command keeps the queue, the clock and what writes keep of memory, in the order of the model. -/

namespace Sys2Proof.Proofs

open Sys2Proof Sys2Proof.Machine Sys2Proof.Laws

variable {K : Stable}

/-! ## Control -/

theorem execNop_keeps {h : Hdr} {s : State} (hs : K.of s) : K.ofNext (execNop h s) :=
  .next (issue_keeps (fun _ _ hs => runNop_keeps hs) hs)

theorem execSigSet_keeps {h : Hdr} {p : PSig} {s : State} (hs : K.of s) : K.ofNext (execSigSet h p s) :=
  .next (issue_keeps (fun _ _ hs => runSigSet_keeps hs) hs)

theorem execSigAdd_keeps {h : Hdr} {p : PSig} {s : State} (hs : K.of s) : K.ofNext (execSigAdd h p s) :=
  .next (issue_keeps (fun _ _ hs => runSigAdd_keeps hs) hs)

theorem execSigWait_keeps {h : Hdr} {p : PSigWait} {s : State} (hs : K.of s) : K.ofNext (execSigWait h p s) :=
  .next (issue_keeps (fun _ _ hs => runSigWait_keeps hs) hs)

theorem execPollingWaiterPoll_keeps {who : PollWho} {s : State} (hs : K.of s) : K.ofNext (execPollingWaiterPoll who s) := by
  unfold execPollingWaiterPoll
  split
  · exact .next (settle_keeps hs)
  · extract_lets
    exact .ite (.next (settle_keeps (poisonWaiters_keeps hs))) (.next (settle_keeps (.ite (meetWaiter_keeps hs) hs)))

theorem execFenceWrites_keeps {h : Hdr} {p : PFence} {s : State} (hs : K.of s) : K.ofNext (execFenceWrites h p s) :=
  .next (issue_keeps (fun _ _ hs => runFence_keeps hs) hs)

theorem execFenceAll_keeps {h : Hdr} {p : PFence} {s : State} (hs : K.of s) : K.ofNext (execFenceAll h p s) :=
  .next (issue_keeps (fun _ _ hs => runFence_keeps hs) hs)

theorem execSignalAcknowledgement_keeps {job : Nat} {_refused : Bool} {s : State} (hs : K.of s) :
    K.ofNext (execSignalAcknowledgement job _refused s) := by
  unfold execSignalAcknowledgement
  extract_lets s1 _ s2
  have hs1 : K.of s1 := modJob_keeps hs
  have hs2 : K.of s2 := hs1.same rfl
  exact .next (settle_keeps hs2)

theorem execLoopBegin_keeps {h : Hdr} {p : PLoopBegin} {s : State} (hs : K.of s) : K.ofNext (execLoopBegin h p s) :=
  .next (issue_keeps (fun _ _ hs => runLoopBegin_keeps hs) hs)

theorem execLoopEnd_keeps {h : Hdr} {s : State} (hs : K.of s) : K.ofNext (execLoopEnd h s) :=
  .next (issue_keeps (fun _ _ hs => runLoopEnd_keeps hs) hs)

theorem execSkipIf_keeps {h : Hdr} {p : PSkipIf} {s : State} (hs : K.of s) : K.ofNext (execSkipIf h p s) :=
  .next (issue_keeps (fun _ _ hs => runSkipIf_keeps hs) hs)

theorem execCmdTail_keeps {a : Agent} {ctx ring : Byte} {tail : BitVec 24} {s : State} (hs : K.of s) :
    K.ofNext (execCmdTail a ctx ring tail s) :=
  .next (settle_keeps (guardWrite_keeps hs))

theorem execRingRestart_keeps {a : Agent} {ctx ring : Byte} {tail : BitVec 24} {s : State} (hs : K.of s) :
    K.ofNext (execRingRestart a ctx ring tail s) := by
  unfold execRingRestart
  extract_lets
  exact .next (settle_keeps (guardWrite_keeps hs))

theorem execReplyHead_keeps {a : Agent} {ctx ring : Byte} {head : BitVec 24} {s : State} (hs : K.of s) :
    K.ofNext (execReplyHead a ctx ring head s) :=
  .next (settle_keeps (guardWrite_keeps hs))

theorem execControlBlockWrite_keeps {a : Agent} {ctx ring : Byte} {w : Fin 4} {value : Word32} {s : State} (hs : K.of s) :
    K.ofNext (execControlBlockWrite a ctx ring w value s) := by
  unfold execControlBlockWrite
  extract_lets
  exact .next (settle_keeps (guardWrite_keeps hs))

theorem execSignalOperation_keeps {w : SigBy} {addr : Word64} {op : SigOp} {s : State} (hs : K.of s) :
    K.ofNext (execSignalOperation w addr op s) := by
  unfold execSignalOperation
  extract_lets
  exact .next (settle_keeps (.ite (applySignal_keeps hs) hs))

theorem execPeerSignalOperation_keeps {port : Word32} {pos : BitVec 4} {ctx : Byte} {addr : Word64} {op : SigOp} {s : State} (hs : K.of s) :
    K.ofNext (execPeerSignalOperation port pos ctx addr op s) := by
  unfold execPeerSignalOperation
  extract_lets _ _ _ _ s1
  have hs1 : K.of s1 := .ite (applySignal_keeps hs) (event_keeps (count_keeps hs))
  exact .next (settle_keeps (send_keeps hs1))

/-! ## Atomic -/

theorem execMemAtomic_keeps {h : Hdr} {p : PMemAtomic} {f : Faults} {s : State} (hs : K.of s) :
    K.ofNext (execMemAtomic h p f s) :=
  .next (issue_keeps (fun _ _ hs => runAtomic_keeps hs) hs)

/-! ## Matrix -/

theorem execMmPartition_keeps {h : Hdr} {p : PMmPartition} {s : State} (hs : K.of s) : K.ofNext (execMmPartition h p s) :=
  .next (issue_keeps (fun _ _ hs => runMmPartition_keeps hs) hs)

theorem execMmPass_keeps {h : Hdr} {p : PMmPass} {f : Faults} {s : State} (hs : K.of s) : K.ofNext (execMmPass h p f s) :=
  .next (settle_keeps (pumpPart_keeps (arrive_keeps (fun _ _ hs => runQueued_keeps hs) hs)))

theorem execMmDrain_keeps {h : Hdr} {p : PMmDrain} {f : Faults} {s : State} (hs : K.of s) : K.ofNext (execMmDrain h p f s) :=
  .next (settle_keeps (pumpPart_keeps (arrive_keeps (fun _ _ hs => runQueued_keeps hs) hs)))

theorem execCompletionToken_keeps {engine : Word32} {part : Byte} {f : Faults} {s : State} (hs : K.of s) :
    K.ofNext (execCompletionToken engine part f s) := by
  unfold execCompletionToken
  extract_lets
  refine .next ?_
  refine settle_keeps ?_
  split
  · exact hs
  · split
    · exact modPart_keeps hs
    · split
      · exact pumpPart_keeps (partFault_keeps hs)
      · split
        · exact pumpPart_keeps (passDone_keeps hs)
        · exact hs

theorem execMmAbort_keeps {h : Hdr} {p : PMmAbort} {s : State} (hs : K.of s) : K.ofNext (execMmAbort h p s) :=
  .next (issue_keeps (fun _ _ hs => runMmAbort_keeps hs) hs)

theorem execTenantPreemptTimer_keeps {unit : Word32} {part : Byte} {s : State} (hs : K.of s) :
    K.ofNext (execTenantPreemptTimer unit part s) := by
  unfold execTenantPreemptTimer
  extract_lets
  refine .next ?_
  refine settle_keeps ?_
  split
  · exact hs
  · split
    · exact hs
    · extract_lets _ _ s1 s2
      have hs1 : K.of s1 := modPart_keeps hs
      have hs2 : K.of s2 := .foldl (fun _ _ hs => endJob_keeps hs) (endJob_keeps hs1)
      exact .ite (pumpPart_keeps hs2) hs

/-! ## Chains -/

theorem execChainReduce_keeps {h : Hdr} {p : PChainReduce} {f : Faults} {s : State} (hs : K.of s) :
    K.ofNext (execChainReduce h p f s) :=
  .next (issue_keeps (fun _ _ hs => runChainReduce_keeps hs) hs)

theorem execChainPiece_keeps {die : CDie} {m : ChainMsg} {f : Faults} {s : State} (hs : K.of s) :
    K.ofNext (execChainPiece die m f s) := by
  unfold execChainPiece
  extract_lets _ s1
  have hs1 : K.of s1 := receive_keeps hs
  split
  · exact .next (settle_keeps hs)
  · split
    · exact .next (settle_keeps hs)
    · extract_lets _ _ s2 _ s3
      have hs2 : K.of s2 := modChain_keeps hs1
      have hs3 : K.of s3 := .ite (sendPiece_keeps hs2) hs2
      split
      · exact .next (settle_keeps (pumpChains_keeps (closeChain_keeps (abortAll_keeps hs1))))
      · split
        · exact .next (settle_keeps hs1)
        · split
          · exact .next (settle_keeps (pumpChains_keeps (closeChain_keeps hs1)))
          · split
            · exact .next (settle_keeps hs3)
            · exact .next (settle_keeps (pumpChains_keeps (closeHop_keeps hs3)))

theorem execChainResendRequest_keeps {die : CDie} {chainId : Word32} {piece : Nat} {s : State} (hs : K.of s) :
    K.ofNext (execChainResendRequest die chainId piece s) := by
  unfold execChainResendRequest
  extract_lets _ s1
  have hs1 : K.of s1 := receive_keeps hs
  split
  · exact .next (settle_keeps hs1)
  · split
    · exact .next (settle_keeps hs1)
    · exact .next (settle_keeps (sendPiece_keeps hs1))

theorem execChainAbort_keeps {die : CDie} {chainId : Word32} {failed : Option Word32} {s : State} (hs : K.of s) :
    K.ofNext (execChainAbort die chainId failed s) := by
  unfold execChainAbort
  extract_lets _ s1
  have hs1 : K.of s1 := receive_keeps hs
  split
  · exact .next (settle_keeps hs1)
  · exact .next (settle_keeps (pumpChains_keeps (closeChain_keeps hs1)))

/-! ## Dma -/

theorem execDmaRun_keeps {h : Hdr} {p : PDmaRun} {f : Faults} {s : State} (hs : K.of s) : K.ofNext (execDmaRun h p f s) :=
  .next (issue_keeps (fun _ _ hs => runDmaRun_keeps hs) hs)

theorem execDmaChain_keeps {h : Hdr} {p : PDmaChain} {f : Faults} {s : State} (hs : K.of s) : K.ofNext (execDmaChain h p f s) :=
  .next (issue_keeps (fun _ _ hs => runDmaChain_keeps hs) hs)

/-! ## Channels -/

theorem execMapOut_keeps {h : Hdr} {p : PMapOut} {s : State} (hs : K.of s) : K.ofNext (execMapOut h p s) :=
  .next (issue_keeps (fun _ _ hs => runOrder_keeps hs) hs)

theorem execMapoutRetry_keeps {side : Word32} {s : State} (hs : K.of s) : K.ofNext (execMapoutRetry side s) := by
  unfold execMapoutRetry
  extract_lets
  refine .next ?_
  refine settle_keeps ?_
  split
  · exact hs
  · split
    · exact softMapOut_keeps (mapOutAct_keeps hs)
    · exact .ite (modSide_keeps hs) hs

theorem execRestripeMove_keeps {side : Word32} {s : State} (hs : K.of s) : K.ofNext (execRestripeMove side s) := by
  unfold execRestripeMove
  extract_lets
  refine .next ?_
  refine settle_keeps ?_
  split
  · exact hs
  · extract_lets s1 s2
    have hs1 : K.of s1 := .ite (moveGranules_keeps hs) hs
    have hs2 : K.of s2 := modSide_keeps hs1
    exact .ite hs (.ite (restripeDone_keeps hs2) hs2)

theorem execChannelRequest_keeps {ch : Word32} {r : ChanReq} {e : Ecc} {s : State} (hs : K.of s) :
    K.ofNext (execChannelRequest ch r e s) := by
  unfold execChannelRequest
  extract_lets _ s1
  have hs1 : K.of s1 := arrival_keeps hs
  exact .next (settle_keeps (.ite hs (.ite (modChan_keeps hs1) (serveRequest_keeps hs1))))

theorem execPatrolScrub_keeps {ch : Word32} {block : Word64} {e : Ecc} {s : State} (hs : K.of s) :
    K.ofNext (execPatrolScrub ch block e s) := by
  unfold execPatrolScrub
  extract_lets _ _ s1
  have hs1 : K.of s1 := event_keeps (count_keeps hs)
  exact .next (settle_keeps (.ite hs (.ite hs1 (readBlock_keeps hs1))))

theorem execRetrainStart_keeps {ch : Word32} {s : State} (hs : K.of s) : K.ofNext (execRetrainStart ch s) := by
  unfold execRetrainStart
  extract_lets
  exact .next (settle_keeps (.ite (dueRetrain_keeps hs) hs))

theorem execCalibrateChannel_keeps {h : Hdr} {p : PCalibrate} {s : State} (hs : K.of s) : K.ofNext (execCalibrateChannel h p s) :=
  .next (issue_keeps (fun _ _ hs => runOrder_keeps hs) hs)

theorem execRemapEpoch_keeps {h : Hdr} {p : PRemapEpoch} {s : State} (hs : K.of s) : K.ofNext (execRemapEpoch h p s) :=
  .next (issue_keeps (fun _ _ hs => runOrder_keeps hs) hs)

/-! ## Routing -/

theorem execRtTopk_keeps {h : Hdr} {p : PRtTopk} {f : Faults} {s : State} (hs : K.of s) : K.ofNext (execRtTopk h p f s) :=
  .next (settle_keeps (pumpWs_keeps (arrive_keeps (fun _ _ hs => runInUnit_keeps hs) hs)))

theorem execRtCount_keeps {h : Hdr} {p : PRtCount} {f : Faults} {s : State} (hs : K.of s) : K.ofNext (execRtCount h p f s) :=
  .next (settle_keeps (pumpWs_keeps (arrive_keeps (fun _ _ hs => runInUnit_keeps hs) hs)))

theorem execRtDispatch_keeps {h : Hdr} {p : PRtDispatch} {f : Faults} {s : State} (hs : K.of s) :
    K.ofNext (execRtDispatch h p f s) :=
  .next (settle_keeps (pumpWs_keeps (arrive_keeps (fun _ _ hs => runInUnit_keeps hs) hs)))

theorem execRtReplay_keeps {h : Hdr} {p : PRtReplay} {f : Faults} {s : State} (hs : K.of s) : K.ofNext (execRtReplay h p f s) :=
  .next (settle_keeps (pumpWs_keeps (arrive_keeps (fun _ _ hs => runInUnit_keeps hs) hs)))

theorem execQuotaMessage_keeps {die : CDie} {m : QuotaMsg} {f : Faults} {s : State} (hs : K.of s) :
    K.ofNext (execQuotaMessage die m f s) := by
  unfold execQuotaMessage
  extract_lets _ s1
  have hs1 : K.of s1 := receive_keeps hs
  refine .next ?_
  refine settle_keeps ?_
  refine pumpWs_keeps ?_
  split
  · exact hs1
  · split
    · split
      · exact takeQuota_keeps hs1
      · exact hs1
    · exact hs1

theorem execLandingConfirmation_keeps {die : CDie} {m : Confirm} {s : State} (hs : K.of s) :
    K.ofNext (execLandingConfirmation die m s) := by
  unfold execLandingConfirmation
  extract_lets _ s1
  have hs1 : K.of s1 := receive_keeps hs
  refine .next ?_
  refine settle_keeps ?_
  refine pumpWs_keeps ?_
  split
  · exact tryCancelEnd_keeps (takeConfirm_keeps hs1)
  · exact hs1

theorem execCancelAck_keeps {die : CDie} {m : CancelAck} {s : State} (hs : K.of s) : K.ofNext (execCancelAck die m s) := by
  unfold execCancelAck
  extract_lets _ _ s1 _ s2
  have hs1 : K.of s1 := receive_keeps hs
  have hs2 : K.of s2 := by
    dsimp only [s2]
    split
    · exact modJob_keeps (receive_keeps hs)
    · exact receive_keeps hs
  exact .next (settle_keeps (tryCancelEnd_keeps (modTag_keeps hs2)))

/-! ## Owner -/

theorem execCountMessage_keeps {die : CDie} {m : CountMsg} {f : Faults} {s : State} (hs : K.of s) :
    K.ofNext (execCountMessage die m f s) := by
  unfold execCountMessage
  extract_lets _ s1
  have hs1 : K.of s1 := receive_keeps hs
  exact .next (settle_keeps (.ite (failRound_keeps hs1) (takeCounts_keeps (.ite (charge_keeps hs1) hs1))))

theorem execCountDiscardTimer_keeps {die : CDie} {_ctx : Byte} {tag : BitVec 24} {s : State} (hs : K.of s) :
    K.ofNext (execCountDiscardTimer die _ctx tag s) := by
  unfold execCountDiscardTimer
  extract_lets
  refine .next ?_
  refine settle_keeps ?_
  split
  · exact hs
  · exact .ite hs (modOwn_keeps hs)

theorem execExchangeRowArrival_keeps {die : CDie} {m : RowMsg} {s : State} (hs : K.of s) :
    K.ofNext (execExchangeRowArrival die m s) :=
  .next (settle_keeps (ownerRow_keeps (receive_keeps hs)))

theorem execLookupRequest_keeps {die : CDie} {m : RowMsg} {s : State} (hs : K.of s) : K.ofNext (execLookupRequest die m s) :=
  .next (settle_keeps (.ite (ownerRow_keeps (receive_keeps hs)) hs))

theorem execHeldHalfRetry_keeps {die : CDie} {engine : Option Word32} {s : State} (hs : K.of s) :
    K.ofNext (execHeldHalfRetry die engine s) := by
  unfold execHeldHalfRetry
  extract_lets _ _ _ s1 s2
  have hs1 : K.of s1 := modWs_keeps hs
  have hs2 : K.of s2 := by
    dsimp only [s2]
    split
    · exact count_keeps (modWs_keeps hs)
    · exact modWs_keeps hs
  exact .next (settle_keeps (.foldl (fun _ _ hs => ownerRow_keeps hs) hs2))

theorem execReturnWord_keeps {die : CDie} {_ctx : Byte} {addr value : Word64} {s : State} (hs : K.of s) :
    K.ofNext (execReturnWord die _ctx addr value s) := by
  unfold execReturnWord
  extract_lets _ _ _ _ s1
  have hs1 : K.of s1 := event_keeps (count_keeps hs)
  refine .next ?_
  refine settle_keeps ?_
  split
  · exact hs
  · extract_lets
    split
    · exact .ite (modWs_keeps hs) hs1
    · split
      · exact hs1
      · extract_lets s2
        have hs2 : K.of s2 := .ite (.foldl (fun _ _ hs => returnSlot_keeps hs) hs) hs
        exact .ite hs1 (modWs_keeps hs2)

theorem execCancelNotice_keeps {die : CDie} {m : CancelNote} {s : State} (hs : K.of s) : K.ofNext (execCancelNotice die m s) := by
  unfold execCancelNotice
  extract_lets _ _ s1
  have hs1 : K.of s1 := withOwn_keeps (receive_keeps hs)
  refine .next ?_
  refine settle_keeps ?_
  split
  · exact hs1
  · extract_lets _ s2 s3
    have hs2 : K.of s2 := .foldl (fun _ _ hs => answer_keeps hs) hs1
    have hs3 : K.of s3 := modOwn_keeps hs2
    exact send_keeps hs3

/-! ## Combine -/

theorem execCbCombine_keeps {h : Hdr} {p : PCbCombine} {f : Faults} {s : State} (hs : K.of s) :
    K.ofNext (execCbCombine h p f s) :=
  .next (settle_keeps (pumpDie_keeps (arrive_keeps (fun _ _ hs => runInUnit_keeps hs) hs)))

theorem execCbReturnGrad_keeps {h : Hdr} {p : PCbReturnGrad} {f : Faults} {s : State} (hs : K.of s) :
    K.ofNext (execCbReturnGrad h p f s) :=
  .next (settle_keeps (pumpDie_keeps (arrive_keeps (fun _ _ hs => runInUnit_keeps hs) hs)))

theorem execRtCancel_keeps {h : Hdr} {p : PRtCancel} {s : State} (hs : K.of s) : K.ofNext (execRtCancel h p s) :=
  .next (settle_keeps (pumpDie_keeps (arrive_keeps (fun _ _ hs => runRtCancel_keeps hs) hs)))

theorem execContributionArrival_keeps {die : CDie} {m : RowMsg} {f : Faults} {s : State} (hs : K.of s) :
    K.ofNext (execContributionArrival die m f s) := by
  unfold execContributionArrival
  extract_lets _ s1 _ _ s2 s3
  have hs1 : K.of s1 := receive_keeps hs
  have hs2 : K.of s2 := modTag_keeps hs1
  have hs3 : K.of s3 := by
    dsimp only [s3]
    split
    · exact afterContribution_keeps (applyContribution_keeps (modTag_keeps (receive_keeps hs)))
    · exact staleContribution_keeps (modTag_keeps (receive_keeps hs))
  exact .next (settle_keeps (.ite hs1 (pumpDie_keeps (tryCancelEnd_keeps hs3))))

/-! ## Drover -/

theorem execDrvLaunch_keeps {h : Hdr} {p : PDrvLaunch} {s : State} (hs : K.of s) : K.ofNext (execDrvLaunch h p s) :=
  .next (settle_keeps (pumpDrovers_keeps (arrive_keeps (fun _ _ hs => runDrvLaunch_keeps hs) hs)))

/-- What runs before an instruction retires keeps the property, and retiring keeps it. -/
theorem Stable.of.retire {k len : Nat} {j : Job} {vec : Bool} {x : State × Option Trap} (h : K.of x.1) :
    K.of (match x with | (s, none) => (drvNext k j len vec s, none) | r => r).1 := by
  obtain ⟨s, _ | t⟩ := x
  · exact drvNext_keeps h
  · exact h

theorem execSinkStore_keeps {die : CDie} {n : BitVec 6} {off : BitVec 12} {elems : List Word32} {s : State} (hs : K.of s) :
    K.ofNext (execSinkStore die n off elems s) :=
  .next (settle_keeps (drvStep_keeps (fun _ _ hs => .retire (vecStore_keeps hs)) hs))

theorem execMirrorStore_keeps {die : CDie} {n : BitVec 6} {addr : Word64} {sew : Byte} {elems : List Word64} {s : State} (hs : K.of s) :
    K.ofNext (execMirrorStore die n addr sew elems s) :=
  .next (settle_keeps (drvStep_keeps (fun _ _ hs => .retire (vecStore_keeps hs)) hs))

theorem execDroverEcallExit_keeps {die : CDie} {n : BitVec 6} {s : State} (hs : K.of s) : K.ofNext (execDroverEcallExit die n s) := by
  refine .next (settle_keeps (drvStep_keeps (fun j s hs => ?_) hs))
  split
  · refine drvExit_keeps ?_
    exact drvNext_keeps hs
  · exact hs

theorem execDroverFence_keeps {die : CDie} {n : BitVec 6} {succW : Bool} {s : State} (hs : K.of s) :
    K.ofNext (execDroverFence die n succW s) := by
  unfold execDroverFence
  extract_lets k
  clear_value k
  refine .next (settle_keeps (drvStep_keeps (fun j s hs => ?_) hs))
  have h1 : K.of (if succW = true then drvVisible k s else s) := .ite (drvVisible_keeps hs) hs
  dsimp only
  exact drvNext_keeps h1

theorem execSigwait_keeps {die : CDie} {n : BitVec 6} {cond : Word64} {s : State} (hs : K.of s) : K.ofNext (execSigwait die n cond s) :=
  .next (settle_keeps (drvStep_keeps (fun _ _ hs => .retire (writeSigwait_keeps hs)) hs))

theorem execStatsink_keeps {die : CDie} {n : BitVec 6} {value : Word64} {s : State} (hs : K.of s) :
    K.ofNext (execStatsink die n value s) :=
  .next (settle_keeps (drvStep_keeps (fun _ _ hs => .retire (writeStatsink_keeps hs)) hs))

theorem execDroverWaitTimeout_keeps {die : CDie} {n : BitVec 6} {s : State} (hs : K.of s) :
    K.ofNext (execDroverWaitTimeout die n s) := by
  unfold execDroverWaitTimeout
  extract_lets _ _ s1
  have hs1 : K.of s1 := hs.same rfl
  exact .next (settle_keeps (.ite (modDrover_keeps hs1) hs))

/-! ## Factors -/

theorem execCbFactorFlush_keeps {h : Hdr} {p : PCbFactorFlush} {f : Faults} {s : State} (hs : K.of s) :
    K.ofNext (execCbFactorFlush h p f s) :=
  .next (settle_keeps (pumpFlush_keeps (arrive_keeps (fun _ _ hs => runInUnit_keeps hs) hs)))

theorem execBorrowPartition_keeps {id : Nat} {f : Faults} {s : State} (hs : K.of s) : K.ofNext (execBorrowPartition id f s) := by
  unfold execBorrowPartition
  refine .next ?_
  refine settle_keeps ?_
  split
  · exact hs
  · split
    · exact borrowDrain_keeps hs
    · exact borrowFlush_keeps hs
    · exact hs

/-! ## Versions -/

theorem execVerPublish_keeps {h : Hdr} {p : PVerPublish} {s : State} (hs : K.of s) : K.ofNext (execVerPublish h p s) :=
  .next (issue_keeps (fun _ _ hs => runVerPublish_keepsBytes hs) hs)

theorem execVerPin_keeps {h : Hdr} {p : PVer} {s : State} (hs : K.of s) : K.ofNext (execVerPin h p s) :=
  .next (issue_keeps (fun _ _ hs => runVerPin_keeps hs) hs)

theorem execVerRetire_keeps {h : Hdr} {p : PVer} {s : State} (hs : K.of s) : K.ofNext (execVerRetire h p s) :=
  .next (issue_keeps (fun _ _ hs => runVerRetire_keepsBytes hs) hs)

/-! ## Groups -/

theorem execHeartbeatSend_keeps {s : State} (hs : K.of s) : K.ofNext (execHeartbeatSend s) :=
  .next (settle_keeps (sendGroups_keeps hs))

theorem execGrpDirectoryUpdate_keeps {h : Hdr} {p : PGrpDirUpdate} {s : State} (hs : K.of s) :
    K.ofNext (execGrpDirectoryUpdate h p s) :=
  .next (issue_keeps (fun _ _ hs => runGrpDirectoryUpdate_keeps hs) hs)

theorem execGrpBarrier_keeps {h : Hdr} {p : PGrpBarrier} {s : State} (hs : K.of s) : K.ofNext (execGrpBarrier h p s) :=
  .next (settle_keeps (sendNewArrival_keeps (arrive_keeps (fun _ _ hs => runGrpBarrier_keeps hs) hs)))

theorem execBarrierArrive_keeps {m : GroupMsg} {s : State} (hs : K.of s) : K.ofNext (execBarrierArrive m s) :=
  .next (settle_keeps (.ite (arriveMaster_keeps hs) hs))

theorem execBarrierRelease_keeps {m : GroupMsg} {s : State} (hs : K.of s) : K.ofNext (execBarrierRelease m s) :=
  .next (settle_keeps (.ite (releaseHere_keeps hs) hs))

theorem execHeartbeat_keeps {m : GroupMsg} {s : State} (hs : K.of s) : K.ofNext (execHeartbeat m s) := by
  unfold execHeartbeat
  extract_lets _ s1 _ s2 _ s3
  have hs1 : K.of s1 := hear_keeps hs
  have hs2 : K.of s2 := modPeer_keeps hs1
  have hs3 : K.of s3 := hs2.same rfl
  exact .next (settle_keeps (.ite hs (.ite (resendArrivals_keeps (setMaster_keeps hs3)) hs3)))

theorem execMasterClaim_keeps {s : State} (hs : K.of s) : K.ofNext (execMasterClaim s) := by
  unfold execMasterClaim
  extract_lets
  exact .next (settle_keeps (.ite (claimRole_keeps hs) hs))

theorem execStandbyClaim_keeps {s : State} (hs : K.of s) : K.ofNext (execStandbyClaim s) :=
  .next (settle_keeps (.ite (claimRole_keeps hs) hs))

theorem execClaim_keeps {m : GroupMsg} {s : State} (hs : K.of s) : K.ofNext (execClaim m s) := by
  unfold execClaim
  extract_lets _ _ s1
  have hs1 : K.of s1 := hear_keeps hs
  exact .next (settle_keeps (.ite hs (.ite (resendArrivals_keeps (setMaster_keeps hs1)) hs1)))

theorem execHandover_keeps {m : Option GroupMsg} {successor : BitVec 4} {s : State} (hs : K.of s) :
    K.ofNext (execHandover m successor s) := by
  unfold execHandover
  refine .next ?_
  refine settle_keeps ?_
  split
  · exact .ite (sendGroup_keeps hs) hs
  · extract_lets s1
    have hs1 : K.of s1 := hear_keeps hs
    exact .ite hs (.ite (claimRole_keeps hs1) hs1)

theorem execDirPrepare_keeps {m : GroupMsg} {entries : List DirEntry} {s : State} (hs : K.of s) :
    K.ofNext (execDirPrepare m entries s) := by
  unfold execDirPrepare
  extract_lets s1
  have hs1 : K.of s1 := hear_keeps hs
  exact .next (settle_keeps (.ite (tryAck_keeps (hs1.same rfl)) hs))

theorem execDirAck_keeps {m : GroupMsg} {s : State} (hs : K.of s) : K.ofNext (execDirAck m s) := by
  unfold execDirAck
  extract_lets
  exact .next (settle_keeps (.ite (tryCommit_keeps (tryAck_keeps (hs.same rfl))) hs))

theorem execDirCommit_keeps {m : GroupMsg} {s : State} (hs : K.of s) : K.ofNext (execDirCommit m s) :=
  .next (settle_keeps (.ite (commitStaged_keeps (hear_keeps hs)) hs))

theorem execDirAbort_keeps {m : GroupMsg} {s : State} (hs : K.of s) : K.ofNext (execDirAbort m s) :=
  .next (settle_keeps (.ite (dropStaged_keeps (hear_keeps hs)) hs))

theorem execDirPrepareExpiry_keeps {s : State} (hs : K.of s) : K.ofNext (execDirPrepareExpiry s) :=
  .next (settle_keeps (abortUpdate_keeps hs))

theorem execDirStageDiscard_keeps {s : State} (hs : K.of s) : K.ofNext (execDirStageDiscard s) :=
  .next (settle_keeps (.ite hs (dropStaged_keeps hs)))

theorem execPeerLossTimer_keeps {pos : BitVec 4} {s : State} (hs : K.of s) : K.ofNext (execPeerLossTimer pos s) := by
  unfold execPeerLossTimer
  extract_lets _ s1 s2 s3 _ s4
  have hs1 : K.of s1 := modPeer_keeps hs
  have hs2 : K.of s2 := ledger_keeps hs1
  have hs3 : K.of s3 := .ite (setMaster_keeps hs2) hs2
  have hs4 : K.of s4 := loseBarriers_keeps (loseChains_keeps (loseRows_keeps (loseClaims_keeps (loseCounts_keeps hs3))))
  exact .next (settle_keeps (.ite hs (pumpDies_keeps (tryCommit_keeps hs4))))

/-! ## Links -/

theorem execPartnerDetect_keeps {port : Word32} {s : State} (hs : K.of s) : K.ofNext (execPartnerDetect port s) := by
  unfold execPartnerDetect
  extract_lets
  exact .next (settle_keeps (.ite (setPort_keeps hs) hs))

theorem execTrainingComplete_keeps {port : Word32} {r : TrainResult} {s : State} (hs : K.of s) :
    K.ofNext (execTrainingComplete port r s) := by
  unfold execTrainingComplete
  extract_lets
  refine .next ?_
  refine settle_keeps ?_
  split
  · exact .ite (trainFailed_keeps hs) (.ite (modPort_keeps hs) hs)
  · extract_lets _ s1
    have hs1 : K.of s1 := modPort_keeps (modPort_keeps hs)
    exact .ite (.ite (setPort_keeps hs1) (.ite (setPort_keeps hs1) (settlePort_keeps hs1))) (.ite (setPort_keeps (setCount_keeps (modPort_keeps hs))) hs)

theorem execLinkMgmtFrame_keeps {port : Word32} {m : LinkMgmt} {s : State} (hs : K.of s) :
    K.ofNext (execLinkMgmtFrame port m s) := by
  unfold execLinkMgmtFrame
  extract_lets _ _ s1
  have hs1 : K.of s1 := modPort_keeps hs
  refine .next ?_
  refine settle_keeps ?_
  split
  · exact hs
  · split
    · exact .ite (settlePort_keeps hs1) hs1
    · exact .ite hs1 (setPort_keeps hs1)
    · exact .ite (settlePort_keeps hs1) hs1
    · exact .ite hs1 (settlePort_keeps hs1)
    · exact hs1

theorem execFailedPortRetrain_keeps {port : Word32} {s : State} (hs : K.of s) : K.ofNext (execFailedPortRetrain port s) := by
  unfold execFailedPortRetrain
  extract_lets
  exact .next (settle_keeps (.ite (modPort_keeps hs) hs))

theorem execPortProbationComplete_keeps {port : Word32} {clean : Bool} {s : State} (hs : K.of s) :
    K.ofNext (execPortProbationComplete port clean s) := by
  unfold execPortProbationComplete
  extract_lets
  exact .next (settle_keeps (.ite hs (.ite (setCount_keeps hs) (.ite (setPort_keeps hs) (settlePort_keeps (modPort_keeps hs))))))

theorem execPassFrame_keeps {port : Word32} {bytes : List Byte} {s : State} (hs : K.of s) :
    K.ofNext (execPassFrame port bytes s) := by
  unfold execPassFrame
  extract_lets
  exact .next (settle_keeps (.ite hs (.ite (badFrame_keeps hs) (goodFrame_keeps hs))))

theorem execVerdictWindowExpiry_keeps {port : Word32} {s : State} (hs : K.of s) : K.ofNext (execVerdictWindowExpiry port s) := by
  unfold execVerdictWindowExpiry
  extract_lets _ s1 s2
  have hs1 : K.of s1 := count_keeps hs
  have hs2 : K.of s2 := modPort_keeps hs1
  exact .next (settle_keeps (.ite hs (.ite (setPort_keeps hs2) (replayAll_keeps hs2))))

theorem execIngestFrame_keeps {die : LDie} {iface : Fin 8} {fcsOk : Bool} {frame : List Byte} {s : State} (hs : K.of s) :
    K.ofNext (execIngestFrame die iface fcsOk frame s) := by
  unfold execIngestFrame
  extract_lets _ _ _ s1 s2
  have hs1 : K.of s1 := count_keeps (count_keeps hs)
  have hs2 : K.of s2 := count_keeps (count_keeps hs)
  refine .next ?_
  refine settle_keeps ?_
  split
  · exact hs
  · split
    · exact hs1
    · split
      · exact hs1
      · split
        · exact hs1
        · split
          · exact hs2
          · split
            · rename_i heq33
              extract_lets
              exact (Stable.of.ofFst heq33 (ingestRecord_keeps hs)).same rfl

theorem execNeighborSolicitation_keeps {die : LDie} {iface : Fin 8} {target source : List Byte} {s : State} (hs : K.of s) :
    K.ofNext (execNeighborSolicitation die iface target source s) := by
  unfold execNeighborSolicitation
  extract_lets
  exact .next (settle_keeps (.ite (hs.same rfl) hs))

/-! ## Trust -/

theorem execAttest_keeps {nonce : List Byte} {s : State} (hs : K.of s) : K.ofNext (execAttest nonce s) := by
  unfold execAttest
  extract_lets
  exact .next (settle_keeps (.ite hs (.ite (answerMgmt_keeps hs) (answerMgmt_keeps (hs.same rfl)))))

theorem execIdentity_keeps {s : State} (hs : K.of s) : K.ofNext (execIdentity s) :=
  .next (settle_keeps (.ite (answerMgmt_keeps hs) hs))

theorem execRouterAdvertisement_keeps {pfx : List Byte} {s : State} (hs : K.of s) : K.ofNext (execRouterAdvertisement pfx s) := by
  unfold execRouterAdvertisement
  extract_lets
  exact .next (settle_keeps (.ite hs (hs.same rfl)))

theorem execDhcpv4Message_keeps {addr gateway : Word32} {prefixLen : Byte} {s : State} (hs : K.of s) :
    K.ofNext (execDhcpv4Message addr gateway prefixLen s) := by
  unfold execDhcpv4Message
  extract_lets
  exact .next (settle_keeps (.ite hs (hs.same rfl)))

theorem execMgmtSessionOpen_keeps {session : Nat} {cert : CertState} {s : State} (hs : K.of s) :
    K.ofNext (execMgmtSessionOpen session cert s) := by
  unfold execMgmtSessionOpen
  extract_lets _ _ _ s1
  have hs1 : K.of s1 := hs.same rfl
  exact .next (settle_keeps (.ite hs (.ite (ledgerEv_keeps hs1) hs1)))

theorem execMgmtSessionIdle_keeps {session : Nat} {s : State} (hs : K.of s) : K.ofNext (execMgmtSessionIdle session s) := by
  unfold execMgmtSessionIdle
  extract_lets
  exact .next (settle_keeps (.ite (inputCount_keeps (hs.same rfl)) hs))

theorem execOrder_keeps {session : Nat} {packet : List Byte} {s : State} (hs : K.of s) :
    K.ofNext (execOrder session packet s) := by
  unfold execOrder
  extract_lets _ _ _ _ s1 s2
  have hs1 : K.of s1 := storeNow_keeps hs
  have hs2 : K.of s2 := storeNow_keeps hs1
  refine .next ?_
  refine settle_keeps ?_
  split
  · exact hs
  · split
    · exact answerMgmt_keeps hs
    · split
      · exact answerMgmt_keeps hs
      · exact answerMgmt_keeps (modRing_keeps hs2)

theorem execAnchorInstall_keeps {session : Nat} {anchors : List (List Byte)} {s : State} (hs : K.of s) :
    K.ofNext (execAnchorInstall session anchors s) := by
  unfold execAnchorInstall
  extract_lets _ _ s1
  have hs1 : K.of s1 := hs.same rfl
  exact .next (settle_keeps (.ite hs (.ite (answerMgmt_keeps hs) (answerMgmt_keeps (ledger_keeps hs1)))))

theorem execDebugUartReceive_keeps {b : Byte} {framingOk : Bool} {s : State} (hs : K.of s) :
    K.ofNext (execDebugUartReceive b framingOk s) := by
  unfold execDebugUartReceive
  extract_lets
  exact .next (settle_keeps (.ite (hs.same rfl) (inputCount_keeps hs)))

theorem execFwLoad_keeps {h : Hdr} {p : PFwLoad} {f : Faults} {s : State} (hs : K.of s) : K.ofNext (execFwLoad h p f s) :=
  .next (issue_keeps (fun _ _ hs => runOrder_keeps hs) hs)

theorem execLedgerEntryArrival_keeps {die : Die} {s : State} (hs : K.of s) : K.ofNext (execLedgerEntryArrival die s) := by
  unfold execLedgerEntryArrival
  refine .next ?_
  refine settle_keeps ?_
  split
  · exact hs
  · split
    · exact hs
    · extract_lets s1
      have hs1 : K.of s1 := .ite hs (count_keeps hs)
      exact appendEntry_keeps (hs1.same rfl)

theorem execPageSealTimer_keeps {s : State} (hs : K.of s) : K.ofNext (execPageSealTimer s) :=
  .next (settle_keeps (sealPage_keeps hs))

theorem execPageArchive_keeps {ok : Bool} {s : State} (hs : K.of s) : K.ofNext (execPageArchive ok s) := by
  unfold execPageArchive
  refine .next ?_
  refine settle_keeps ?_
  split
  · exact hs
  · extract_lets
    exact .ite (sealed_keeps (archivePut_keeps (hs.same rfl))) (ledger_keeps hs)

theorem execLedgerSeal_keeps {h : Hdr} {s : State} (hs : K.of s) : K.ofNext (execLedgerSeal h s) :=
  .next (issue_keeps (fun _ _ hs => runLedgerSeal_keeps hs) hs)

theorem execLedgerRead_keeps {page : Nat} {s : State} (hs : K.of s) : K.ofNext (execLedgerRead page s) := by
  unfold execLedgerRead
  refine .next ?_
  refine settle_keeps ?_
  split
  · exact hs
  · split
    · exact answerMgmt_keeps hs
    · extract_lets
      exact answerMgmt_keeps (hs.same rfl)

theorem execPtpSync_keeps {domain : Byte} {time : Word64} {offset : ℤ} {s : State} (hs : K.of s) :
    K.ofNext (execPtpSync domain time offset s) := by
  unfold execPtpSync
  extract_lets _ _ s1
  have hs1 : K.of s1 := hs.same rfl
  exact .next (settle_keeps (.ite hs (.ite (ledger_keeps (setTime_keeps hs1)) (hs1.same rfl))))

/-! ## Health -/

theorem execBringupStep_keeps {unit : Word32} {passed : Bool} {code : Word16} {badChannels : List Nat} {s : State} (hs : K.of s) :
    K.ofNext (execBringupStep unit passed code badChannels s) := by
  unfold execBringupStep
  extract_lets _ _ s1 s2 s3
  have hs1 : K.of s1 := modHealth_keeps hs
  have hs2 : K.of s2 := .ite (trainSide_keeps hs1) hs1
  have hs3 : K.of s3 := .ite (setReady_keeps hs2) (ledger_keeps (modHealth_keeps hs2))
  exact .next (settle_keeps (.ite hs (bringupDone_keeps (.ite (sideCheck_keeps hs3) hs3))))

theorem execWatchdogExpiry_keeps {unit : Word32} {part boundary : Byte} {silent : Word32} {s : State} (hs : K.of s) :
    K.ofNext (execWatchdogExpiry unit part boundary silent s) := by
  unfold execWatchdogExpiry
  extract_lets
  refine .next ?_
  refine settle_keeps ?_
  refine pumpAll_keeps ?_
  split
  · exact resetReceiver_keeps (partFault_keeps hs)
  · split
    · exact resetReceiver_keeps (stopJob_keeps hs)
    · exact resetReceiver_keeps hs

theorem execReceiverResetExpiry_keeps {unit : Word32} {boundary : Byte} {completed : Bool} {s : State} (hs : K.of s) :
    K.ofNext (execReceiverResetExpiry unit boundary completed s) := by
  unfold execReceiverResetExpiry
  extract_lets
  refine .next ?_
  refine settle_keeps ?_
  split
  · exact hs
  · extract_lets s1 _ s2
    have hs1 : K.of s1 := hs.same rfl
    have hs2 : K.of s2 := modHealth_keeps hs1
    exact .ite (.ite (.ite hs2 (setReady_keeps hs2)) hs1) (ledger_keeps (modHealth_keeps hs1))

theorem execLateAcknowledge_keeps {unit : Word32} {boundary : Byte} {s : State} (hs : K.of s) :
    K.ofNext (execLateAcknowledge unit boundary s) := by
  unfold execLateAcknowledge
  extract_lets _ _ _ _ s1 s2 s3 s4
  have hs1 : K.of s1 := hs.same rfl
  have hs2 : K.of s2 := .ite (count_keeps hs1) hs1
  have hs3 : K.of s3 := by
    dsimp only [s3]
    split
    · exact .ite (count_keeps (.ite (count_keeps (hs.same rfl)) (hs.same rfl))) (.ite (count_keeps (hs.same rfl)) (hs.same rfl))
    · exact .ite (count_keeps (hs.same rfl)) (hs.same rfl)
  have hs4 : K.of s4 := .ite (count_keeps hs3) hs3
  exact .next (settle_keeps (event_keeps hs4))

theorem execPaceSample_keeps {power current : Word16} {s : State} (hs : K.of s) : K.ofNext (execPaceSample power current s) := by
  have h1 : K.of { s with mod := { s.mod with pacePower := power.toNat, paceCurrent := current.toNat } } := hs.same rfl
  unfold execPaceSample
  extract_lets p i m s1 s2 m2 s3 m3 s4
  have h2 : K.of s2 := permits_keeps h1
  have h3 : K.of s3 := permits_keeps h1
  clear_value s3 s2
  exact .next (settle_keeps (.ite (.ite (h2.same rfl) h2) (.ite (.ite (h3.same rfl) h3) h1)))

theorem execStackSensorSample_keeps {stack : Fin 64} {readings : List ℤ} {s : State} (hs : K.of s) :
    K.ofNext (execStackSensorSample stack readings s) := by
  unfold execStackSensorSample
  extract_lets
  exact .next (settle_keeps (stackFollows_keeps (takeSamples_keeps hs)))

theorem execJunctionSensorSample_keeps {die : CDie} {readings : List ℤ} {s : State} (hs : K.of s) :
    K.ofNext (execJunctionSensorSample die readings s) := by
  unfold execJunctionSensorSample
  extract_lets
  exact .next (settle_keeps (junctionHold_keeps (countHot_keeps (takeSamples_keeps hs))))

theorem execSensorTimeout_keeps {unit : Word32} {n : Fin 16} {s : State} (hs : K.of s) :
    K.ofNext (execSensorTimeout unit n s) := by
  unfold execSensorTimeout
  extract_lets
  exact .next (settle_keeps (.ite (stackFollows_keeps (setIgnored_keeps hs)) (.ite (junctionHold_keeps (setIgnored_keeps hs)) hs)))

theorem execTickCalibration_keeps {die : Die} {rates : List (Word32 × Word32 × Word16)} {s : State} (hs : K.of s) :
    K.ofNext (execTickCalibration die rates s) := by
  unfold execTickCalibration
  extract_lets _ s1
  have hs1 : K.of s1 := .foldl (fun _ _ hs => .ite hs (.ite (setReady_keeps (modHealth_keeps hs)) (modHealth_keeps hs))) hs
  exact .next (settle_keeps (.ite hs (.ite (hs1.same rfl) hs1)))

theorem execCrystalLoss_keeps {s : State} (hs : K.of s) : K.ofNext (execCrystalLoss s) := by
  unfold execCrystalLoss
  extract_lets
  exact .next (settle_keeps (.ite hs (setReady_keeps (ledger_keeps (hs.same rfl)))))

theorem execCrystalRestore_keeps {s : State} (hs : K.of s) : K.ofNext (execCrystalRestore s) := by
  unfold execCrystalRestore
  extract_lets _ s1
  have hs1 : K.of s1 := ledger_keeps (hs.same rfl)
  exact .next (settle_keeps (.ite hs (.ite (setReady_keeps hs1) hs1)))

theorem execGaugeRead_keeps {die : CDie} {slack : List (Word32 × ℤ)} {s : State} (hs : K.of s) :
    K.ofNext (execGaugeRead die slack s) :=
  .next (settle_keeps (.foldl (fun _ _ hs => gaugeOne_keeps hs) hs))

theorem execMarginPlan_keeps {die : CDie} {fpointOk : List Word32} {lifeDays : Word16} {s : State} (hs : K.of s) :
    K.ofNext (execMarginPlan die fpointOk lifeDays s) := by
  unfold execMarginPlan
  extract_lets _ _ s1 s2 s3 s4
  have hs1 : K.of s1 := modDie_keeps hs
  have hs2 : K.of s2 := count_keeps hs1
  have hs3 : K.of s3 := .ite (planActions_keeps hs2) hs2
  have hs4 : K.of s4 := .foldl (fun _ _ hs => modHealth_keeps hs) hs3
  exact .next (settle_keeps (.ite hs (modDie_keeps hs4)))

theorem execSelftestUnit_keeps {h : Hdr} {p : PSelftest} {f : Faults} {s : State} (hs : K.of s) :
    K.ofNext (execSelftestUnit h p f s) :=
  .next (issue_keeps (fun _ _ hs => runOrder_keeps hs) hs)

theorem execRotationSlice_keeps {unit : Word32} {passed : Bool} {code : Word16} {last : Bool} {s : State} (hs : K.of s) :
    K.ofNext (execRotationSlice unit passed code last s) := by
  unfold execRotationSlice
  extract_lets _ _ s1 s2
  have hs1 : K.of s1 := modHealth_keeps (count_keeps hs)
  have hs2 : K.of s2 := .ite hs1 (testFailed_keeps hs1)
  exact .next (settle_keeps (.ite hs (.ite (count_keeps hs2) hs2)))

theorem execProbationShadowOp_keeps {unit : Word32} {passed : Bool} {s : State} (hs : K.of s) :
    K.ofNext (execProbationShadowOp unit passed s) := by
  unfold execProbationShadowOp
  extract_lets _ s1
  have hs1 : K.of s1 := by
    dsimp only [s1]
    split
    · split
      · exact modEngine_keeps hs
      · exact hs
    · exact hs
  exact .next (settle_keeps (.ite hs (.ite (.ite (modHealth_keeps hs1) (setReady_keeps (modHealth_keeps hs1))) (charge_keeps (modHealth_keeps hs1)))))

/-! ## Module -/

theorem execModuleStart_keeps {b : BootReport} {s : State} (hs : K.of s) : K.ofNext (execModuleStart b s) := by
  unfold execModuleStart
  extract_lets _ s1 _ s2 _ _ _ s3
  have hs1 : K.of s1 := coldState_keeps hs
  have hs2 : K.of s2 := hs1.same rfl
  have hs3 : K.of s3 := hs2.same rfl
  exact .next (settle_keeps (.ite hs (.ite (hs2.same rfl) (tryBoot_keeps (coldMemory_keeps hs3)))))

theorem execBootFallbackTimeout_keeps {s : State} (hs : K.of s) : K.ofNext (execBootFallbackTimeout s) := by
  unfold execBootFallbackTimeout
  extract_lets _ _ s1
  have hs1 : K.of s1 := fallBack_keeps (hs.same rfl)
  refine .next ?_
  refine settle_keeps ?_
  split
  · exact hs
  · split
    · split
      · exact openLedger_keeps (runSlot_keeps hs1)
      · exact enterRecovery_keeps hs1
    · exact enterRecovery_keeps (hs.same rfl)

theorem execRecoveryImage_keeps {slot : Fin 2} {image : List Byte} {cryptoBad : Bool} {s : State} (hs : K.of s) :
    K.ofNext (execRecoveryImage slot image cryptoBad s) := by
  unfold execRecoveryImage
  extract_lets s1
  have hs1 : K.of s1 := writeImage_keeps hs
  exact .next (settle_keeps (.ite hs (coldState_keeps (hs1.same rfl))))

theorem execRailFault_keeps {die : Die} {rail : Nat} {s : State} (hs : K.of s) : K.ofNext (execRailFault die rail s) :=
  .next (settle_keeps (.ite hs (powerDown_keeps (latchCause_keeps (.foldl (fun _ _ hs => latchCause_keeps hs) hs)))))

theorem execEnLow_keeps {s : State} (hs : K.of s) : K.ofNext (execEnLow s) := by
  unfold execEnLow
  extract_lets _ s1
  have hs1 : K.of s1 := hs.same rfl
  exact .next (settle_keeps (stopModule_keeps hs1))

theorem execVinUndervoltageWarning_keeps {mv : Nat} {s : State} (hs : K.of s) : K.ofNext (execVinUndervoltageWarning mv s) :=
  .next (settle_keeps (.ite (ledgerEv_keeps hs) hs))

theorem execVinOvervoltageWarning_keeps {mv : Nat} {s : State} (hs : K.of s) : K.ofNext (execVinOvervoltageWarning mv s) :=
  .next (settle_keeps (.ite (ledgerEv_keeps hs) hs))

theorem execVinUndervoltageStop_keeps {mv : Nat} {s : State} (hs : K.of s) : K.ofNext (execVinUndervoltageStop mv s) :=
  .next (settle_keeps (stopModule_keeps hs))

theorem execVinOvervoltageDisconnect_keeps {mv : Nat} {s : State} (hs : K.of s) :
    K.ofNext (execVinOvervoltageDisconnect mv s) := by
  unfold execVinOvervoltageDisconnect
  extract_lets _ s1
  have hs1 : K.of s1 := hs.same rfl
  exact .next (settle_keeps (stopModule_keeps hs1))

theorem execOvercurrentStop_keeps {deciAmps : Nat} {s : State} (hs : K.of s) : K.ofNext (execOvercurrentStop deciAmps s) :=
  .next (settle_keeps (.ite hs (stopModule_keeps hs)))

theorem execThermalTrip_keeps {unit : Word32} {temp : ℤ} {s : State} (hs : K.of s) : K.ofNext (execThermalTrip unit temp s) := by
  unfold execThermalTrip
  extract_lets _ _ s1
  have hs1 : K.of s1 := hs.same rfl
  exact .next (settle_keeps (.ite hs (stopModule_keeps hs1)))

theorem execModuleInsertion_keeps {s : State} (hs : K.of s) : K.ofNext (execModuleInsertion s) := by
  unfold execModuleInsertion
  extract_lets
  exact .next (settle_keeps (.ite hs (hs.same rfl)))

theorem execLatchedFaultClear_keeps {s : State} (hs : K.of s) : K.ofNext (execLatchedFaultClear s) := by
  unfold execLatchedFaultClear
  extract_lets
  exact .next (settle_keeps (.ite hs (hs.same rfl)))

theorem execTestPortClock_keeps {tms tdi trstN : Bool} {s : State} (hs : K.of s) :
    K.ofNext (execTestPortClock tms tdi trstN s) := by
  unfold execTestPortClock
  extract_lets
  exact .next (settle_keeps (.ite hs (.ite (hs.same rfl) (hs.same rfl))))

/-! ## Contexts -/

theorem execCtxCreate_keeps {h : Hdr} {p : PCtxCreate} {s : State} (hs : K.of s) : K.ofNext (execCtxCreate h p s) :=
  .next (issue_keeps (fun _ _ hs => runCtxCreate_keeps hs) hs)

theorem execCtxDestroy_keeps {h : Hdr} {p : PCtxDestroy} {s : State} (hs : K.of s) : K.ofNext (execCtxDestroy h p s) :=
  .next (issue_keeps (fun _ _ hs => runOrder_keeps hs) hs)

/-! ## Items -/

theorem execCfgWrite_keeps {h : Hdr} {p : PCfgWrite} {s : State} (hs : K.of s) : K.ofNext (execCfgWrite h p s) :=
  .next (issue_keeps (fun _ _ hs => runCfgWrite_keeps hs) hs)

/-! ## Query -/

theorem execQueryReady_keeps {h : Hdr} {p : PQueryReady} {s : State} (hs : K.of s) : K.ofNext (execQueryReady h p s) :=
  .next (issue_keeps (fun _ _ hs => runQueryReady_keeps hs) hs)

theorem execQueryStatus_keeps {h : Hdr} {p : PQueryStatus} {s : State} (hs : K.of s) : K.ofNext (execQueryStatus h p s) :=
  .next (issue_keeps (fun _ _ hs => runQueryStatus_keeps hs) hs)

/-! ## Orders -/

theorem execPaceCap_keeps {w : ItemWrite} {s : State} (hs : K.of s) : K.ofNext (execPaceCap w s) := writeCmd_keeps hs

theorem execWdogDelay_keeps {w : ItemWrite} {s : State} (hs : K.of s) : K.ofNext (execWdogDelay w s) := writeCmd_keeps hs

theorem execCtx0Extent_keeps {w : ItemWrite} {s : State} (hs : K.of s) : K.ofNext (execCtx0Extent w s) := writeCmd_keeps hs

theorem execCtx0Ring_keeps {w : ItemWrite} {s : State} (hs : K.of s) : K.ofNext (execCtx0Ring w s) := writeCmd_keeps hs

theorem execCtx0RingRemove_keeps {w : ItemWrite} {s : State} (hs : K.of s) : K.ofNext (execCtx0RingRemove w s) :=
  writeCmd_keeps hs

theorem execCheckLimit_keeps {w : ItemWrite} {s : State} (hs : K.of s) : K.ofNext (execCheckLimit w s) := writeCmd_keeps hs

theorem execSegLimit_keeps {w : ItemWrite} {s : State} (hs : K.of s) : K.ofNext (execSegLimit w s) := writeCmd_keeps hs

theorem execCombineArea_keeps {w : ItemWrite} {s : State} (hs : K.of s) : K.ofNext (execCombineArea w s) := writeCmd_keeps hs

theorem execFactorTable_keeps {w : ItemWrite} {s : State} (hs : K.of s) : K.ofNext (execFactorTable w s) := writeCmd_keeps hs

theorem execOverlap_keeps {w : ItemWrite} {s : State} (hs : K.of s) : K.ofNext (execOverlap w s) := writeCmd_keeps hs

theorem execStatTable_keeps {w : ItemWrite} {s : State} (hs : K.of s) : K.ofNext (execStatTable w s) := writeCmd_keeps hs

theorem execMapoutPolicy_keeps {w : ItemWrite} {s : State} (hs : K.of s) : K.ofNext (execMapoutPolicy w s) := writeCmd_keeps hs

theorem execPortCfg_keeps {w : ItemWrite} {s : State} (hs : K.of s) : K.ofNext (execPortCfg w s) := writeCmd_keeps hs

theorem execIngestCfg_keeps {w : ItemWrite} {s : State} (hs : K.of s) : K.ofNext (execIngestCfg w s) := writeCmd_keeps hs

theorem execGroupCfg_keeps {w : ItemWrite} {s : State} (hs : K.of s) : K.ofNext (execGroupCfg w s) := writeCmd_keeps hs

theorem execDebugCfg_keeps {w : ItemWrite} {s : State} (hs : K.of s) : K.ofNext (execDebugCfg w s) := writeCmd_keeps hs

theorem execMgmtNet_keeps {w : ItemWrite} {s : State} (hs : K.of s) : K.ofNext (execMgmtNet w s) := writeCmd_keeps hs

theorem execTimeOfDay_keeps {w : ItemWrite} {s : State} (hs : K.of s) : K.ofNext (execTimeOfDay w s) := writeCmd_keeps hs

theorem execTodCfg_keeps {w : ItemWrite} {s : State} (hs : K.of s) : K.ofNext (execTodCfg w s) := writeCmd_keeps hs

theorem execMarginCfg_keeps {w : ItemWrite} {s : State} (hs : K.of s) : K.ofNext (execMarginCfg w s) := writeCmd_keeps hs

theorem execRotateCfg_keeps {w : ItemWrite} {s : State} (hs : K.of s) : K.ofNext (execRotateCfg w s) := writeCmd_keeps hs

theorem execCntSel_keeps {w : ItemWrite} {n : Fin 8} {s : State} (hs : K.of s) : K.ofNext (execCntSel w n s) := writeCmd_keeps hs

theorem execCntClear_keeps {w : ItemWrite} {n : Fin 8} {s : State} (hs : K.of s) : K.ofNext (execCntClear w n s) :=
  writeCmd_keeps hs

theorem execSnapRing_keeps {w : ItemWrite} {n : Fin 64} {s : State} (hs : K.of s) : K.ofNext (execSnapRing w n s) :=
  writeCmd_keeps hs

theorem execIntakeWindowClose_keeps {obj : OrderObj} {f : Faults} {s : State} (hs : K.of s) :
    K.ofNext (execIntakeWindowClose obj f s) := by
  unfold execIntakeWindowClose
  refine .next ?_
  refine settle_keeps ?_
  split
  · exact hs
  · exact pumpAll_keeps (closeWindow_keeps hs)

theorem execKernelGateCall_keeps {die : Die} {call : GateCall} {s : State} (hs : K.of s) :
    K.ofNext (execKernelGateCall die call s) := by
  unfold execKernelGateCall
  extract_lets _ s1
  have hs1 : K.of s1 := .ite (count_keeps hs) (.ite (count_keeps hs) hs)
  refine .next ?_
  refine settle_keeps ?_
  split
  · exact gateAnswer_keeps (gateRefused_keeps (gateCount_keeps hs1))
  · exact gateAnswer_keeps (gateAct_keeps (gateCount_keeps hs1))

/-! ## Run -/

theorem execPacketFetch_keeps {ctx ring : Byte} {s : State} (hs : K.of s) : K.ofNext (execPacketFetch ctx ring s) :=
  .next (goOn_keeps (fetchNext_keeps hs))

theorem execPacketDispatch_keeps {unit : Word32} {part : Byte} {f : Faults} {s : State} (hs : K.of s) :
    K.ofNext (execPacketDispatch unit part f s) := by
  unfold execPacketDispatch
  extract_lets
  refine .next ?_
  split
  · exact goOn_keeps hs
  · exact goOn_keeps (dispatchHead_keeps (serve_keeps hs))

theorem execCommandTimeout_keeps {job : Nat} {s : State} (hs : K.of s) : K.ofNext (execCommandTimeout job s) := by
  unfold execCommandTimeout
  refine .next ?_
  split
  · exact settle_keeps hs
  · exact goOn_keeps (stopJob_keeps hs)

theorem execWaitReadyDispatch_keeps {unit : Word32} {f : Faults} {s : State} (hs : K.of s) :
    K.ofNext (execWaitReadyDispatch unit f s) := by
  unfold execWaitReadyDispatch
  extract_lets
  exact .next (goOn_keeps (.foldl (fun _ _ hs => startReady_keeps hs) hs))

theorem execRetrainComplete_keeps {ch : Word32} {passed : Bool} {s : State} (hs : K.of s) :
    K.ofNext (execRetrainComplete ch passed s) := by
  unfold execRetrainComplete
  extract_lets
  exact .next (.ite (goOn_keeps (resumeParked_keeps (retrainDone_keeps (.ite (noteParked_keeps hs) hs)))) (settle_keeps hs))

theorem execSnapshotRead_keeps {n : Fin 64} {s : State} (hs : K.of s) : K.ofNext (execSnapshotRead n s) := by
  unfold execSnapshotRead
  refine .next ?_
  refine settle_keeps ?_
  split
  · exact hs
  · exact snapOnce_keeps hs

/-! ## Vector -/

theorem execDroverInstruction_keeps {die : CDie} {n : BitVec 6} {f : Faults} {s : State} (hs : K.of s) :
    K.ofNext (execDroverInstruction die n f s) := by
  unfold execDroverInstruction
  extract_lets
  exact .next (settle_keeps (drvStep_keeps (fun _ _ hs => drvInstr_keeps hs) hs))

/-! ## Dispatch -/

theorem exec_keeps {i : Instr} {s : State} (hs : K.of s) : K.ofNext (exec i s) := by
  unfold exec
  split
  · exact execNop_keeps hs
  · exact execQueryReady_keeps hs
  · exact execQueryStatus_keeps hs
  · exact execMmPartition_keeps hs
  · exact execMmPass_keeps hs
  · exact execMmDrain_keeps hs
  · exact execMmAbort_keeps hs
  · exact execRtTopk_keeps hs
  · exact execRtCount_keeps hs
  · exact execRtDispatch_keeps hs
  · exact execRtReplay_keeps hs
  · exact execRtCancel_keeps hs
  · exact execCbCombine_keeps hs
  · exact execCbReturnGrad_keeps hs
  · exact execCbFactorFlush_keeps hs
  · exact execDmaRun_keeps hs
  · exact execDmaChain_keeps hs
  · exact execSigSet_keeps hs
  · exact execSigAdd_keeps hs
  · exact execSigWait_keeps hs
  · exact execFenceWrites_keeps hs
  · exact execFenceAll_keeps hs
  · exact execLoopBegin_keeps hs
  · exact execLoopEnd_keeps hs
  · exact execSkipIf_keeps hs
  · exact execDrvLaunch_keeps hs
  · exact execMemAtomic_keeps hs
  · exact execVerPublish_keeps hs
  · exact execVerPin_keeps hs
  · exact execVerRetire_keeps hs
  · exact execChainReduce_keeps hs
  · exact execGrpBarrier_keeps hs
  · exact execGrpDirectoryUpdate_keeps hs
  · exact execSelftestUnit_keeps hs
  · exact execCalibrateChannel_keeps hs
  · exact execCtxCreate_keeps hs
  · exact execCtxDestroy_keeps hs
  · exact execCfgWrite_keeps hs
  · exact execMapOut_keeps hs
  · exact execRemapEpoch_keeps hs
  · exact execFwLoad_keeps hs
  · exact execLedgerSeal_keeps hs
  · exact execCmdTail_keeps hs
  · exact execRingRestart_keeps hs
  · exact execReplyHead_keeps hs
  · exact execControlBlockWrite_keeps hs
  · exact execPacketFetch_keeps hs
  · exact execPacketDispatch_keeps hs
  · exact execCommandTimeout_keeps hs
  · exact execWaitReadyDispatch_keeps hs
  · exact execWatchdogExpiry_keeps hs
  · exact execReceiverResetExpiry_keeps hs
  · exact execLateAcknowledge_keeps hs
  · exact execIntakeWindowClose_keeps hs
  · exact execKernelGateCall_keeps hs
  · exact execCompletionToken_keeps hs
  · exact execBorrowPartition_keeps hs
  · exact execTenantPreemptTimer_keeps hs
  · exact execCountMessage_keeps hs
  · exact execQuotaMessage_keeps hs
  · exact execCountDiscardTimer_keeps hs
  · exact execExchangeRowArrival_keeps hs
  · exact execHeldHalfRetry_keeps hs
  · exact execLookupRequest_keeps hs
  · exact execReturnWord_keeps hs
  · exact execContributionArrival_keeps hs
  · exact execCancelNotice_keeps hs
  · exact execCancelAck_keeps hs
  · exact execSignalOperation_keeps hs
  · exact execPeerSignalOperation_keeps hs
  · exact execPollingWaiterPoll_keeps hs
  · exact execDroverInstruction_keeps hs
  · exact execDroverEcallExit_keeps hs
  · exact execDroverFence_keeps hs
  · exact execSigwait_keeps hs
  · exact execStatsink_keeps hs
  · exact execSinkStore_keeps hs
  · exact execMirrorStore_keeps hs
  · exact execChainPiece_keeps hs
  · exact execChainResendRequest_keeps hs
  · exact execChainAbort_keeps hs
  · exact execChannelRequest_keeps hs
  · exact execPatrolScrub_keeps hs
  · exact execRetrainStart_keeps hs
  · exact execRetrainComplete_keeps hs
  · exact execRestripeMove_keeps hs
  · exact execMapoutRetry_keeps hs
  · exact execStackSensorSample_keeps hs
  · exact execJunctionSensorSample_keeps hs
  · exact execSensorTimeout_keeps hs
  · exact execPaceSample_keeps hs
  · exact execTickCalibration_keeps hs
  · exact execCrystalLoss_keeps hs
  · exact execCrystalRestore_keeps hs
  · exact execGaugeRead_keeps hs
  · exact execMarginPlan_keeps hs
  · exact execRotationSlice_keeps hs
  · exact execProbationShadowOp_keeps hs
  · exact execBringupStep_keeps hs
  · exact execSnapshotRead_keeps hs
  · exact execLedgerEntryArrival_keeps hs
  · exact execPageSealTimer_keeps hs
  · exact execPageArchive_keeps hs
  · exact execPartnerDetect_keeps hs
  · exact execTrainingComplete_keeps hs
  · exact execLinkMgmtFrame_keeps hs
  · exact execPassFrame_keeps hs
  · exact execVerdictWindowExpiry_keeps hs
  · exact execFailedPortRetrain_keeps hs
  · exact execPortProbationComplete_keeps hs
  · exact execHeartbeatSend_keeps hs
  · exact execHeartbeat_keeps hs
  · exact execPeerLossTimer_keeps hs
  · exact execMasterClaim_keeps hs
  · exact execClaim_keeps hs
  · exact execStandbyClaim_keeps hs
  · exact execHandover_keeps hs
  · exact execBarrierArrive_keeps hs
  · exact execBarrierRelease_keeps hs
  · exact execDirPrepare_keeps hs
  · exact execDirAck_keeps hs
  · exact execDirCommit_keeps hs
  · exact execDirAbort_keeps hs
  · exact execDirPrepareExpiry_keeps hs
  · exact execDirStageDiscard_keeps hs
  · exact execIngestFrame_keeps hs
  · exact execNeighborSolicitation_keeps hs
  · exact execAttest_keeps hs
  · exact execIdentity_keeps hs
  · exact execLedgerRead_keeps hs
  · exact execOrder_keeps hs
  · exact execAnchorInstall_keeps hs
  · exact execRecoveryImage_keeps hs
  · exact execMgmtSessionIdle_keeps hs
  · exact execPtpSync_keeps hs
  · exact execModuleStart_keeps hs
  · exact execBootFallbackTimeout_keeps hs
  · exact execRailFault_keeps hs
  · exact execEnLow_keeps hs
  · exact execVinUndervoltageWarning_keeps hs
  · exact execVinUndervoltageStop_keeps hs
  · exact execVinOvervoltageWarning_keeps hs
  · exact execVinOvervoltageDisconnect_keeps hs
  · exact execOvercurrentStop_keeps hs
  · exact execThermalTrip_keeps hs
  · exact execModuleInsertion_keeps hs
  · exact execPaceCap_keeps hs
  · exact execWdogDelay_keeps hs
  · exact execCtx0Extent_keeps hs
  · exact execCtx0Ring_keeps hs
  · exact execCtx0RingRemove_keeps hs
  · exact execCheckLimit_keeps hs
  · exact execSegLimit_keeps hs
  · exact execCombineArea_keeps hs
  · exact execFactorTable_keeps hs
  · exact execOverlap_keeps hs
  · exact execStatTable_keeps hs
  · exact execMapoutPolicy_keeps hs
  · exact execPortCfg_keeps hs
  · exact execIngestCfg_keeps hs
  · exact execGroupCfg_keeps hs
  · exact execDebugCfg_keeps hs
  · exact execMgmtNet_keeps hs
  · exact execTimeOfDay_keeps hs
  · exact execTodCfg_keeps hs
  · exact execMarginCfg_keeps hs
  · exact execRotateCfg_keeps hs
  · exact execCntSel_keeps hs
  · exact execCntClear_keeps hs
  · exact execSnapRing_keeps hs
  · exact execLandingConfirmation_keeps hs
  · exact execSignalAcknowledgement_keeps hs
  · exact execLatchedFaultClear_keeps hs
  · exact execDroverWaitTimeout_keeps hs
  · exact execRouterAdvertisement_keeps hs
  · exact execDhcpv4Message_keeps hs
  · exact execMgmtSessionOpen_keeps hs
  · exact execDebugUartReceive_keeps hs
  · exact execTestPortClock_keeps hs

end Sys2Proof.Proofs
end

section
/-! PROOFS. The step keeps memory's canonical form (O4), and a tick keeps the queue and moves the clock (O2). -/

namespace Sys2Proof.Proofs

open Sys2Proof Sys2Proof.Machine Sys2Proof.Laws

/-- Dropping entries keeps the canonical form. -/
theorem filter_wf {m : List (Nat × Byte)} (f : Nat × Byte → Bool) (h : Memory.wf m = true) : Memory.wf (m.filter f) = true := by
  rw [wf_iff] at h ⊢
  obtain ⟨hz, hp⟩ := h
  exact ⟨fun p hm => hz p (List.mem_filter.1 hm).1, hp.filter _⟩

/-- Memory has its canonical form. -/
def canonical : Stable where
  holds _ _ m := Memory.wf m = true
  write a bs h := cellWrite_wf _ a bs h
  drop f h := filter_wf f h
  forget _ := rfl

/-- The queue and the clock read p and n. -/
def clockAt (p : List Instr) (n : Nat) : Stable where
  holds q k _ := q = p ∧ k = n
  write _ _ h := h
  drop _ h := h
  forget h := h

/-- A tick moves the clock by one and then keeps what every operation keeps. -/
theorem tick_keeps {K : Stable} {s : State} (h : K.of { s with now := s.now + 1 }) : K.of (tick s) :=
  settle_keeps (retryTests_keeps (tryAck_keeps (.foldl (fun _ _ h => event_keeps h) (countTick_keeps h))))

/-- Settles O4: every operation keeps what byte writes, dropped ranges and a cold start keep, and those keep the canonical form. -/
theorem stepKeepsMemoryCanonical : Obligations.StepKeepsMemoryCanonical := by
  intro s t hw hstep
  have hs : ∀ p n, canonical.of { s with pending := p, now := n } := fun _ _ => hw
  unfold step at hstep
  split at hstep
  · cases hstep
    exact tick_keeps (hs s.pending (s.now + 1))
  · next c rest _ => exact exec_keeps (hs rest s.now) t hstep

/-- Settles O2: the tick's operations keep an empty queue and the clock one further. -/
theorem emptyQueueTicks : Obligations.EmptyQueueTicks := by
  intro s hp
  have hk : (clockAt [] (s.now + 1)).of (tick s) := tick_keeps ⟨hp, rfl⟩
  obtain ⟨hq, hn⟩ := hk
  refine ⟨tick s, ?_, hn, hq⟩
  unfold step
  rw [hp]

end Sys2Proof.Proofs
end

section
/-! PROOFS. The ledger of an open module: what numbering, closing and sealing do to the open page, the held pages and flash (13
R357-R361). -/

namespace Sys2Proof.Proofs

open Sys2Proof Sys2Proof.Machine Sys2Proof.Laws

/-! ## Entries and pages as one relation -/

/-- A state that ledger work with the ledger open leaves: new pages are held and numbered from NEXT_PAGE, no SEQ goes back, contexts
keep their lives, and nothing else changes but counts and the open page. -/
def Paged (s t : State) : Prop :=
  ∃ counts ctxs seq page first block new,
    t = { s with
      hw := { s.hw with counts := counts }
      gz := { s.gz with ctxs := ctxs }
      tr := { s.tr with nextSeq := seq, openPage := page, firstPage := first, held := s.tr.held ++ new }
      flash := { s.flash with nextPage := s.flash.nextPage + new.length, seqBlock := block } } ∧
    s.tr.nextSeq ≤ seq ∧ (∀ c, (amGet {} ctxs c).live = (ctxOf s c).live)

/-- Ledger work that holds no new page. -/
theorem Paged.ofNone {s t : State} (counts : AMap Nat) (ctxs : AMap Ctx) (seq : Nat) (page : List LedgerEntry) (first : Bool) (block : Nat)
    (h : t = { s with
      hw := { s.hw with counts := counts }
      gz := { s.gz with ctxs := ctxs }
      tr := { s.tr with nextSeq := seq, openPage := page, firstPage := first }
      flash := { s.flash with seqBlock := block } })
    (hseq : s.tr.nextSeq ≤ seq) (hlive : ∀ c, (amGet {} ctxs c).live = (ctxOf s c).live) : Paged s t :=
  ⟨counts, ctxs, seq, page, first, block, [], by rw [List.append_nil]; exact h, hseq, hlive⟩

theorem Paged.refl (s : State) : Paged s s :=
  .ofNone s.hw.counts s.gz.ctxs s.tr.nextSeq s.tr.openPage s.tr.firstPage s.flash.seqBlock rfl (Nat.le_refl _) (fun _ => rfl)

theorem Paged.trans {s t u : State} (h : Paged s t) (k : Paged t u) : Paged s u := by
  obtain ⟨_, _, _, _, _, _, new, rfl, hseq, hlive⟩ := h
  obtain ⟨c, x, q, p, f, b, new', rfl, hseq', hlive'⟩ := k
  exact ⟨c, x, q, p, f, b, new ++ new', by simp [Nat.add_assoc], Nat.le_trans hseq hseq', fun n => (hlive' n).trans (hlive n)⟩

theorem Paged.foldl {α : Type} (f : State → α → State) (h : ∀ s x, Paged s (f s x)) (l : List α) (s : State) :
    Paged s (l.foldl f s) := by
  induction l generalizing s with
  | nil => exact .refl s
  | cons x l ih => exact (h s x).trans (ih _)

theorem numberEntry_paged (s : State) (e : LedgerEvent) : Paged s (numberEntry s e) :=
  .ofNone _ s.gz.ctxs (s.tr.nextSeq + 1) _ s.tr.firstPage _ rfl (Nat.le_succ _) (fun _ => rfl)

/-- What a page is when the open page closes for a reason (13 R359, R360). -/
def pageNow (reason : Nat) (s : State) : Page :=
  { num := s.flash.nextPage, entries := s.tr.openPage, sealTime := timeNow s, reason := reason, timeUnset := !s.tr.timeSet
    firstAfterBoot := s.tr.firstPage, boots := s.flash.boots
    prevDigest := match s.tr.held.getLast? with | some p => pageDigest p | none => s.flash.lastDigest }

theorem closePage_empty (reason : Nat) (s : State) (h : s.tr.openPage = []) : closePage reason s = s := by
  simp only [closePage, h]

theorem closePage_eq (reason : Nat) (s : State) (h : s.tr.openPage ≠ []) :
    closePage reason s = { s with
      tr := { s.tr with openPage := [], firstPage := false, held := s.tr.held ++ [pageNow reason s] }
      flash := { s.flash with nextPage := s.flash.nextPage + 1 } } := by
  unfold closePage pageNow
  split
  · contradiction
  · rfl

theorem closePage_paged (reason : Nat) (s : State) : Paged s (closePage reason s) := by
  by_cases h : s.tr.openPage = []
  · rw [closePage_empty reason s h]
    exact .refl s
  · rw [closePage_eq reason s h]
    exact ⟨s.hw.counts, s.gz.ctxs, s.tr.nextSeq, [], false, s.flash.seqBlock, [pageNow reason s], rfl, Nat.le_refl _, fun _ => rfl⟩

/-- A map over entries that keeps every key changes only what is found at the key. -/
theorem amFind_map_of_keys {α : Type} (f : Nat × α → Nat × α) (hf : ∀ e, (f e).1 = e.1) (m : AMap α) (c : Nat) :
    amFind (m.map f) c = (m.find? (fun e => e.1 == c)).map (fun e => (f e).2) := by
  have hp : ((fun p : Nat × α => p.1 == c) ∘ f) = fun p => p.1 == c := funext fun e => congrArg (· == c) (hf e)
  rw [amFind, List.find?_map, hp, Option.map_map]
  rfl

theorem snapMark_live (s : State) (c : Nat) : (ctxOf (snapMark s) c).live = (ctxOf s c).live := by
  unfold ctxOf snapMark
  dsimp only
  rw [amGet_eq, amGet_eq, amFind_map_of_keys _ (fun e => by split <;> rfl), amFind]
  cases s.gz.ctxs.find? (fun e => e.1 == c) with
  | none => rfl
  | some e =>
    dsimp only [Option.map_some, Option.getD_some]
    split <;> rfl

theorem snapMark_paged (s : State) : Paged s (snapMark s) :=
  .ofNone s.hw.counts _ s.tr.nextSeq s.tr.openPage s.tr.firstPage s.flash.seqBlock rfl (Nat.le_refl _) (snapMark_live s)

theorem appendAll_paged (es : List LedgerEvent) (s : State) : Paged s (appendAll es s) := by
  induction es generalizing s with
  | nil => exact .refl s
  | cons e es ih =>
    unfold appendAll
    dsimp only
    refine (numberEntry_paged s e).trans (Paged.trans ?_ (ih _))
    split
    · exact closePage_paged 0 _
    · exact .refl _

theorem sealPage_paged (reason : Nat) (s : State) : Paged s (sealPage reason s) := by
  unfold sealPage
  split
  · exact .refl s
  · exact ((snapMark_paged s).trans (.foldl numberEntry numberEntry_paged _ _)).trans
      ((closePage_paged reason _).trans (appendAll_paged _ _))

theorem appendEntry_paged (e : LedgerEvent) (s : State) : Paged s (appendEntry e s) := by
  unfold appendEntry
  dsimp only
  split
  · exact (numberEntry_paged s e).trans (sealPage_paged 0 _)
  · exact numberEntry_paged s e

theorem ledgerEv_open (e : LedgerEvent) (s : State) (h : s.tr.ledgerOpen = true) : ledgerEv 12 e s = appendEntry e s := by
  simp [ledgerEv, h]

theorem ledgerEv_paged (e : LedgerEvent) (s : State) (h : s.tr.ledgerOpen = true) : Paged s (ledgerEv 12 e s) := by
  rw [ledgerEv_open e s h]
  exact appendEntry_paged e s

/-- Ledger work keeps the ledger open and never removes a held page. -/
theorem Paged.frame {s t : State} (h : Paged s t) :
    t.tr.ledgerOpen = s.tr.ledgerOpen ∧ t.flash.archive = s.flash.archive ∧ t.mod = s.mod ∧ t.now = s.now ∧
    t.pending = s.pending ∧ t.mem = s.mem ∧ s.tr.nextSeq ≤ t.tr.nextSeq ∧ s.flash.nextPage ≤ t.flash.nextPage ∧
    t.flash.nextPage - s.flash.nextPage = t.tr.held.length - s.tr.held.length ∧ s.tr.held.length ≤ t.tr.held.length := by
  obtain ⟨_, _, _, _, _, _, new, rfl, hseq, -⟩ := h
  simp [hseq]

/-! ## Entries in order -/

/-- Numbering a list of entries puts them on the open page in order and touches no held page, nor what a page records. -/
theorem numberEntries_page (l : List LedgerEvent) (s : State) :
    let t := l.foldl numberEntry s
    t.tr.openPage.map (·.ev) = s.tr.openPage.map (·.ev) ++ l ∧ t.tr.held = s.tr.held ∧ t.flash.nextPage = s.flash.nextPage ∧
    t.flash.boots = s.flash.boots ∧ t.flash.lastDigest = s.flash.lastDigest := by
  induction l generalizing s with
  | nil => simp
  | cons e l ih =>
    obtain ⟨hev, hheld, hnum, hboots, hlast⟩ := ih (numberEntry s e)
    refine ⟨?_, hheld, hnum, hboots, hlast⟩
    rw [List.foldl_cons, hev]
    simp [numberEntry]

/-- The state of a seal before the open page closes: the snapshot's entries are on it as far as it has room (13 R360). -/
def snapped (s : State) : State := ((snapAll s).take (234 - s.tr.openPage.length)).foldl numberEntry (snapMark s)

theorem sealPage_eq (reason : Nat) (s : State) (h : s.tr.openPage ≠ []) :
    sealPage reason s = appendAll ((snapAll s).drop (234 - s.tr.openPage.length)) (closePage reason (snapped s)) := by
  rw [sealPage, if_neg (by simpa using h)]
  rfl

theorem snapped_page (s : State) :
    (snapped s).tr.openPage.map (·.ev) = s.tr.openPage.map (·.ev) ++ (snapAll s).take (234 - s.tr.openPage.length) ∧
    (snapped s).tr.held = s.tr.held ∧ (snapped s).flash.nextPage = s.flash.nextPage ∧
    (snapped s).flash.boots = s.flash.boots ∧ (snapped s).flash.lastDigest = s.flash.lastDigest :=
  numberEntries_page _ (snapMark s)

theorem snapped_nonempty (s : State) (h : s.tr.openPage ≠ []) : (snapped s).tr.openPage ≠ [] := by
  obtain ⟨hev, -⟩ := snapped_page s
  intro hnil
  rw [hnil] at hev
  simp [h] at hev

theorem closePage_nextPage (reason : Nat) (s : State) (h : s.tr.openPage ≠ []) :
    (closePage reason s).flash.nextPage = s.flash.nextPage + 1 ∧
    (closePage reason s).tr.held = s.tr.held ++ [pageNow reason s] := by
  rw [closePage_eq reason s h]
  exact ⟨rfl, rfl⟩

/-- Sealing a page that holds entries holds it, and at least takes its number. -/
theorem sealPage_pages (reason : Nat) (s : State) (h : s.tr.openPage ≠ []) :
    s.flash.nextPage < (sealPage reason s).flash.nextPage ∧
    ∃ more, (sealPage reason s).tr.held = s.tr.held ++ pageNow reason (snapped s) :: more := by
  obtain ⟨-, hheld, hnum, -, -⟩ := snapped_page s
  obtain ⟨hnext, hclosed⟩ := closePage_nextPage reason (snapped s) (snapped_nonempty s h)
  rw [sealPage_eq reason s h]
  obtain ⟨_, _, _, _, _, _, new, ht, -, -⟩ := appendAll_paged ((snapAll s).drop (234 - s.tr.openPage.length))
    (closePage reason (snapped s))
  rw [ht]
  dsimp only
  rw [hnext, hclosed, hheld, hnum]
  exact ⟨by omega, new, by simp⟩

/-- After an entry either a page has been sealed or the open page holds something. -/
theorem appendEntry_progress (e : LedgerEvent) (s : State) :
    s.flash.nextPage < (appendEntry e s).flash.nextPage ∨ (appendEntry e s).tr.openPage ≠ [] := by
  unfold appendEntry
  dsimp only
  split
  · exact .inl (sealPage_pages 0 (numberEntry s e) (by simp [numberEntry])).1
  · exact .inr (by simp [numberEntry])

theorem appendEntry_seq (e : LedgerEvent) (s : State) : s.tr.nextSeq < (appendEntry e s).tr.nextSeq := by
  unfold appendEntry
  dsimp only
  split
  · obtain ⟨-, -, -, -, -, -, hseq, -, -, -⟩ := (sealPage_paged 0 (numberEntry s e)).frame
    exact hseq
  · exact Nat.lt_succ_self _

end Sys2Proof.Proofs
end

section
/-! PROOFS. How the module stops, what a warning does, and the test port (13 R365; 14 R368; 16 R398-R406). -/

namespace Sys2Proof.Proofs

open Sys2Proof Sys2Proof.Machine Sys2Proof.Laws

/-! ## The archive -/

/-- An entry on MD, or on its way there, archives nothing and takes back no page number. -/
theorem ledgerEv_flash (die : Nat) (e : LedgerEvent) (s : State) :
    (ledgerEv die e s).flash.archive = s.flash.archive ∧ s.flash.nextPage ≤ (ledgerEv die e s).flash.nextPage := by
  unfold ledgerEv
  split
  · obtain ⟨-, harch, -, -, -, -, -, hpage, -, -⟩ := (appendEntry_paged e s).frame
    exact ⟨harch, hpage⟩
  · exact ⟨rfl, Nat.le_refl _⟩

/-- The archive grows by the page until its ring of places is full; no page number is taken back (13 R361). -/
theorem archivePut_flash (p : Page) (s : State) (h : s.flash.archive.length ≤ 122880) :
    (archivePut p s).flash.archive.length = (if s.flash.archive.length = 122880 then 122880 else s.flash.archive.length + 1) ∧
    s.flash.nextPage ≤ (archivePut p s).flash.nextPage := by
  unfold archivePut
  dsimp only
  split
  · next hle =>
    rw [List.length_append, List.length_singleton] at hle
    refine ⟨?_, Nat.le_refl _⟩
    rw [if_neg (by omega), List.length_append, List.length_singleton]
  · next hgt =>
    rw [List.length_append, List.length_singleton] at hgt
    rw [if_pos (by omega)]
    split
    · next hnil => simp at hnil
    · next o rest hcons =>
      have hlen : rest.length = s.flash.archive.length := by simpa using (congrArg List.length hcons).symm
      split
      · exact ⟨by dsimp only; omega, Nat.le_refl _⟩
      · rw [ledger]
        obtain ⟨harch, hpage⟩ := ledgerEv_flash 12 _ _
        rw [harch]
        exact ⟨by dsimp only; omega, hpage⟩

theorem archivePut_frame (p : Page) (s : State) :
    (archivePut p s).mod = s.mod ∧ (archivePut p s).pending = s.pending ∧ (archivePut p s).now = s.now := by
  unfold archivePut
  dsimp only
  split
  · exact ⟨rfl, rfl, rfl⟩
  · split
    · exact ⟨rfl, rfl, rfl⟩
    · split
      · exact ⟨rfl, rfl, rfl⟩
      · simp

theorem archiveHeld_flash (ps : List Page) (s : State) (h : s.flash.archive.length ≤ 122880) :
    (s.flash.archive.length + ps.length ≤ (archiveHeld ps s).flash.archive.length ∨
      122880 ≤ (archiveHeld ps s).flash.archive.length) ∧
    s.flash.nextPage ≤ (archiveHeld ps s).flash.nextPage := by
  induction ps generalizing s with
  | nil => exact ⟨.inl (Nat.le_refl _), Nat.le_refl _⟩
  | cons p ps ih =>
    obtain ⟨hlen, hpage⟩ := archivePut_flash p { s with tr := { s.tr with held := ps } } h
    generalize hput : archivePut p { s with tr := { s.tr with held := ps } } = t at hlen hpage
    dsimp only at hlen hpage
    obtain ⟨hlen', hpage'⟩ := ih t (by split at hlen <;> omega)
    rw [archiveHeld, hput, List.length_cons]
    refine ⟨?_, Nat.le_trans hpage hpage'⟩
    split at hlen <;> omega

theorem archiveHeld_frame (ps : List Page) (s : State) :
    (archiveHeld ps s).mod = s.mod ∧ (archiveHeld ps s).pending = s.pending ∧ (archiveHeld ps s).now = s.now := by
  induction ps generalizing s with
  | nil => exact ⟨rfl, rfl, rfl⟩
  | cons p ps ih =>
    obtain ⟨hmod, hpend, hnow⟩ := archivePut_frame p { s with tr := { s.tr with held := ps } }
    obtain ⟨hmod', hpend', hnow'⟩ := ih (archivePut p { s with tr := { s.tr with held := ps } })
    exact ⟨hmod'.trans hmod, hpend'.trans hpend, hnow'.trans hnow⟩

/-! ## The stop sequence -/

/-- The ledger's end of a stop: entries on their way and the cause are numbered and the page is sealed (13 R365 orders 2 and 3). -/
theorem sealed_after_cause (moving : List (Nat × LedgerEvent)) (e : LedgerEvent) (reason : Nat) (s : State)
    (hopen : s.tr.ledgerOpen = true) :
    let t := closePage reason (sealPage reason (ledgerEv 12 e (moving.foldl (fun s (x : Nat × LedgerEvent) => appendEntry x.2 s) s)))
    Paged s t ∧ s.flash.nextPage < t.flash.nextPage := by
  have hmoved : Paged s (moving.foldl (fun s x => appendEntry x.2 s) s) :=
    .foldl _ (fun s (x : Nat × LedgerEvent) => appendEntry_paged x.2 s) _ _
  generalize moving.foldl (fun s x => appendEntry x.2 s) s = m at hmoved ⊢
  obtain ⟨hopen', -, -, -, -, -, -, hm, -, -⟩ := hmoved.frame
  rw [ledgerEv_open e m (hopen'.trans hopen)]
  have hentry := appendEntry_paged e m
  have hsealed := (sealPage_paged reason (appendEntry e m))
  have hclosed := closePage_paged reason (sealPage reason (appendEntry e m))
  obtain ⟨-, -, -, -, -, -, -, hp1, -, -⟩ := hentry.frame
  obtain ⟨-, -, -, -, -, -, -, hp2, -, -⟩ := hsealed.frame
  obtain ⟨-, -, -, -, -, -, -, hp3, -, -⟩ := hclosed.frame
  refine ⟨((hmoved.trans hentry).trans hsealed).trans hclosed, ?_⟩
  obtain hnew | hrest := appendEntry_progress e m
  · omega
  · obtain ⟨hnew, -⟩ := sealPage_pages reason (appendEntry e m) hrest
    omega

/-- What a stop that seals the ledger leaves: the module is off, what power feeds is at reset, and flash holds the sealed pages. -/
structure StopLeaves (s : State) (latch : Bool) (m : ModuleSt) (t : State) : Prop where
  power : t.mod.power = if latch then .latched else .off
  pgood : t.mod.pgood = false
  faultN : t.mod.faultN = !latch
  unpowered : t.gz = {} ∧ t.mem = {} ∧ t.hw = {} ∧ t.mm = [] ∧ t.ws = [] ∧ t.cf = [] ∧ t.drv = [] ∧ t.link = {} ∧ t.tr = {}
  pending : t.pending = s.pending
  pins : t.mod.en = m.en ∧ t.mod.thermtripN = m.thermtripN ∧ t.mod.connected = m.connected ∧
    t.mod.pgoodLow = if m.en then m.pgoodLow else some s.now

/-- What the stop sequence writes to flash (13 R365 orders 2 to 4). -/
structure StopSeals (s t : State) : Prop where
  clean : s.tr.inTransit = [] → t.flash.cleanStop = true
  numbered : s.flash.nextPage < t.flash.nextPage
  archived : s.flash.archive.length + s.tr.held.length < t.flash.archive.length

/-- PGOOD falls (16 R403): with EN low its fall is timed. -/
def pgoodFalls (s : State) : State :=
  if s.mod.en then s else { s with mod := { s.mod with pgoodLow := some s.now } }

theorem powerDown_leaves (s x : State) (hmod : x.mod = s.mod) (hnow : x.now = s.now) (hpend : x.pending = s.pending) :
    StopLeaves s s.mod.latch s.mod (powerDown (pgoodFalls x).mod.latch (pgoodFalls x)) ∧
    (powerDown (pgoodFalls x).mod.latch (pgoodFalls x)).flash = x.flash := by
  unfold pgoodFalls
  rw [hmod, hnow]
  cases he : s.mod.en with
  | true =>
    rw [if_pos rfl]
    refine ⟨⟨?_, rfl, ?_, ⟨rfl, rfl, rfl, rfl, rfl, rfl, rfl, rfl, rfl⟩, hpend, ?_⟩, rfl⟩
    · simp only [powerDown, hmod]
    · simp only [powerDown, hmod]
    · simp only [powerDown, coldState, hmod, he, if_pos, and_self]
  | false =>
    rw [if_neg Bool.false_ne_true]
    refine ⟨⟨rfl, rfl, rfl, ⟨rfl, rfl, rfl, rfl, rfl, rfl, rfl, rfl, rfl⟩, hpend, rfl, rfl, rfl, ?_⟩, rfl⟩
    rw [he]
    rfl

theorem finishStop_leaves (e : LedgerEvent) (s : State) (hopen : s.tr.ledgerOpen = true) (hcause : s.mod.stopCauses = [e])
    (hroom : s.tr.held.length + s.flash.archive.length < 60000) :
    StopLeaves s s.mod.latch s.mod (finishStop s) ∧ StopSeals s (finishStop s) := by
  unfold finishStop
  extract_lets lost moving tr s1 s2 s3 enOnly s4 s5 fl s6 md s7
  have h3 : s3 = ledgerEv 12 e (moving.foldl (fun s x => appendEntry x.2 s) s1) := by
    obtain ⟨-, -, hmod, -⟩ := (Paged.foldl _ (fun s (x : Nat × LedgerEvent) => appendEntry_paged x.2 s) moving s1).frame
    show s2.mod.stopCauses.foldl _ s2 = _
    rw [show s2.mod = s.mod from hmod, hcause]
    rfl
  obtain ⟨hpaged, hnew⟩ := sealed_after_cause moving e (if enOnly = true then 4 else 3) s1 hopen
  rw [← h3] at hpaged hnew
  obtain ⟨-, harch, hmod, hnow, hpend, -, -, -, hpages, hheld⟩ := hpaged.frame
  obtain ⟨hlen, hnext⟩ := archiveHeld_flash s4.tr.held s4 (by
    show (closePage _ (sealPage _ s3)).flash.archive.length ≤ _
    rw [harch]
    show s.flash.archive.length ≤ _
    omega)
  obtain ⟨hmod', hpend', hnow'⟩ := archiveHeld_frame s4.tr.held s4
  obtain ⟨hleaves, hflash⟩ := powerDown_leaves s s6 (hmod'.trans hmod) (hnow'.trans hnow) (hpend'.trans hpend)
  refine ⟨hleaves, ?_⟩
  show StopSeals s (powerDown (pgoodFalls s6).mod.latch (pgoodFalls s6))
  constructor
  · intro hmoving
    rw [hflash]
    show (!lost) = true
    simp [lost, hmoving]
  · rw [hflash]
    exact Nat.lt_of_lt_of_le hnew hnext
  · rw [hflash]
    show _ < (archiveHeld s4.tr.held s4).flash.archive.length
    have harch' : s4.flash.archive = s.flash.archive := harch
    have hpages' : s4.flash.nextPage - s.flash.nextPage = s4.tr.held.length - s.tr.held.length := hpages
    have hnew' : s.flash.nextPage < s4.flash.nextPage := hnew
    rw [harch'] at hlen
    omega

/-- A cause stops a running module whose ledger is open, where no other cause coincides (13 R365; 16 R402-R406). -/
theorem stopModule_leaves (e : LedgerEvent) (latch cut : Bool) (s : State) (hrun : s.mod.power = .running)
    (hopen : s.tr.ledgerOpen = true) (halone : coincides s = false) (hcauses : s.mod.stopCauses = []) (hlatch : s.mod.latch = false)
    (hroom : s.tr.held.length + s.flash.archive.length < 60000) :
    StopLeaves s latch s.mod (stopModule e latch cut s) ∧ StopSeals s (stopModule e latch cut s) := by
  have hstopped : stopModule e latch cut s = finishStop { stopUnits s with mod := { s.mod with
      power := .stopping
      stopCauses := [e]
      latch := latch
      railsCut := s.mod.railsCut || cut
      faultN := s.mod.faultN && !latch } } := by
    unfold stopModule
    rw [hrun]
    dsimp only
    rw [if_neg (by simp [hopen]), if_pos (show (Power.running == Power.running) = true from rfl)]
    dsimp only [stopUnits]
    rw [hcauses, hlatch]
    exact if_neg (ne_true_of_eq_false halone)
  rw [hstopped]
  obtain ⟨hleaves, hseals⟩ := finishStop_leaves e { stopUnits s with mod := { s.mod with
      power := .stopping
      stopCauses := [e]
      latch := latch
      railsCut := s.mod.railsCut || cut
      faultN := s.mod.faultN && !latch } } hopen rfl hroom
  obtain ⟨power, pgood, faultN, unpowered, pending, pins⟩ := hleaves
  obtain ⟨clean, numbered, archived⟩ := hseals
  exact ⟨⟨power, pgood, faultN, unpowered, pending, pins⟩, clean, numbered, archived⟩

/-- A command that stops the module on the state with changed pins. -/
theorem stop_settles (e : LedgerEvent) (latch cut : Bool) (s : State) (m : ModuleSt) (hm : m = { s.mod with
      en := m.en, thermtripN := m.thermtripN, connected := m.connected }) (hrun : s.mod.power = .running)
    (hopen : s.tr.ledgerOpen = true) (halone : coincides s = false) (hcauses : s.mod.stopCauses = []) (hlatch : s.mod.latch = false)
    (hroom : s.tr.held.length + s.flash.archive.length < 60000) :
    ∃ t, settle (stopModule e latch cut { s with mod := m }) = t ∧ StopLeaves s latch m t ∧ StopSeals s t := by
  rw [hm]
  obtain ⟨hleaves, hseals⟩ := stopModule_leaves e latch cut { s with mod := { s.mod with
      en := m.en, thermtripN := m.thermtripN, connected := m.connected } } hrun hopen halone hcauses hlatch hroom
  obtain ⟨power, pgood, faultN, unpowered, pending, pins⟩ := hleaves
  obtain ⟨clean, numbered, archived⟩ := hseals
  have hidle : Idle (stopModule e latch cut { s with mod := { s.mod with
      en := m.en, thermtripN := m.thermtripN, connected := m.connected } }) := by
    rw [Idle, unpowered.1]
  rw [settle_idle _ hidle]
  exact ⟨_, rfl, ⟨power, pgood, faultN, unpowered, pending, pins⟩, clean, numbered, archived⟩

/-- A rail that fails switches the running module off at once, its cause kept in flash (14 R368). -/
theorem railFault_leaves (die : Die) (rail : Nat) (s : State) (hrun : s.mod.power = .running) (hcauses : s.mod.stopCauses = []) :
    exec (.railFault die rail) s = .next (passed (powerDown true (latchCause (causeEntry 6 (uid 0 die.val 0) rail) s))) := by
  show execRailFault die rail s = _
  unfold execRailFault
  rw [hrun, hcauses, if_neg (by decide)]
  exact congrArg Host.Outcome.next (settle_idle _ rfl)

/-- A warning is ledgered, and no command of it is in flight (14 R375; 16 R405). -/
theorem warning_ledgered (e : LedgerEvent) (s : State) (hidle : Idle s) (hopen : s.tr.ledgerOpen = true) :
    ∃ t, settle (if s.tr.ledgerOpen then ledgerEv 12 e s else s) = t ∧ t.mod = s.mod ∧ t.mem = s.mem ∧
      s.tr.nextSeq < t.tr.nextSeq := by
  rw [if_pos hopen, ledgerEv_open e s hopen]
  have hpaged := appendEntry_paged e s
  have hseq := appendEntry_seq e s
  obtain ⟨-, -, hmod, -, -, hmem, -⟩ := hpaged.frame
  obtain ⟨_, _, _, _, _, _, _, ht, -, -⟩ := hpaged
  rw [settle_idle _ (by rw [ht]; exact hidle)]
  exact ⟨_, rfl, hmod, hmem, hseq⟩

/-! ## The test port -/

/-- One clock of the test port, but for TRST_N (16 R398). -/
def clocked (m : ModuleSt) (tms tdi : Bool) : ModuleSt :=
  let a := tapAct m tdi
  let t := tapNext a.tap tms
  { a with
    tap := t
    tapIr := if t == Tap.reset then irIdcode else a.tapIr
    tdo := if t == Tap.shiftDr || t == Tap.shiftIr then a.tapShift.headD false else false }

theorem testPort_clocked (tms tdi : Bool) (s : State) (hidle : Idle s) (hpg : s.mod.pgood = true) :
    exec (.testPortClock tms tdi true) s = .next (passed { s with mod := clocked s.mod tms tdi }) := by
  show execTestPortClock tms tdi true s = _
  unfold execTestPortClock
  rw [hpg, if_neg (by decide), if_neg (by decide), settle_idle _ (by exact hidle)]
  rfl

/-- A clock moves the controller and touches the registers of the port alone. -/
theorem clocked_frame (m : ModuleSt) (tms tdi : Bool) :
    (clocked m tms tdi).tap = tapNext m.tap tms ∧
    clocked m tms tdi = { m with
      tap := (clocked m tms tdi).tap
      tapIr := (clocked m tms tdi).tapIr
      tapShift := (clocked m tms tdi).tapShift
      tdo := (clocked m tms tdi).tdo } := by
  unfold clocked tapAct
  dsimp only
  split <;> exact ⟨rfl, rfl⟩

theorem clocked_capDr (m : ModuleSt) (tms tdi : Bool) (h : m.tap = .capDr) :
    (clocked m tms tdi).tapShift = if m.tapIr = irIdcode then bitsOf 32 idcode else [false] := by
  simp only [clocked, tapAct, h]

theorem clocked_shift (m : ModuleSt) (tms tdi : Bool) (h : m.tap = .shiftDr ∨ m.tap = .shiftIr) :
    (clocked m tms tdi).tapShift = m.tapShift.drop 1 ++ [tdi] := by
  obtain h | h := h
  · simp only [clocked, tapAct, h]
  · simp only [clocked, tapAct, h]

theorem clocked_updIr (m : ModuleSt) (tms tdi : Bool) (h : m.tap = .updIr) :
    (clocked m tms tdi).tapIr = if ofBits m.tapShift = irIdcode then irIdcode else irBypass := by
  have hnot : (tapNext .updIr tms == Tap.reset) = false := by
    cases tms <;> rfl
  simp only [clocked, tapAct, h]
  rw [hnot]
  rfl

theorem clocked_tdo (m : ModuleSt) (tms tdi : Bool)
    (h : (clocked m tms tdi).tap = .shiftDr ∨ (clocked m tms tdi).tap = .shiftIr) :
    (clocked m tms tdi).tdo = (clocked m tms tdi).tapShift.headD false := by
  have hshift : ((clocked m tms tdi).tap == Tap.shiftDr || (clocked m tms tdi).tap == Tap.shiftIr) = true := by
    obtain h | h := h
    · rw [h]; rfl
    · rw [h]; rfl
  exact if_pos hshift

/-- IDCODE as the test port captures it (16 R398). -/
theorem idcode_captured : ofBits (bitsOf 32 idcode) = 0x17364B4B ∧ (bitsOf 32 idcode).length = 32 := by
  decide +kernel

/-- The stops of `Obligations.ModuleStopsAndTestPort`, one cause at a time. -/
theorem stopped_of_leaves {s t : State} {latch : Bool} {m : ModuleSt} (h : StopLeaves s latch m t) (k : StopSeals s t) :
    (t.mod.power = (if latch then .latched else .off) ∧ t.mod.pgood = false ∧ t.mod.faultN = !latch ∧ t.gz = {} ∧ t.mem = {} ∧
      t.hw = {} ∧ t.mm = [] ∧ t.ws = [] ∧ t.cf = [] ∧ t.drv = [] ∧ t.link = {} ∧ t.tr = {} ∧ t.pending = s.pending) ∧
    (s.tr.inTransit = [] → t.flash.cleanStop = true) ∧ s.flash.nextPage < t.flash.nextPage ∧
    s.flash.archive.length + s.tr.held.length < t.flash.archive.length := by
  obtain ⟨power, pgood, faultN, ⟨hgz, hmem, hhw, hmm, hws, hcf, hdrv, hlink, htr⟩, pending, -⟩ := h
  exact ⟨⟨power, pgood, faultN, hgz, hmem, hhw, hmm, hws, hcf, hdrv, hlink, htr, pending⟩, k.clean, k.numbered, k.archived⟩

/-- Settles O59: every stop is the one sequence of `stopModule_leaves`, and a clock of the test port is `clocked`. -/
theorem moduleStopsAndTestPort : Obligations.ModuleStopsAndTestPort := by
  unfold Obligations.ModuleStopsAndTestPort
  refine ⟨?_, ?_⟩
  · intro s hrun hopen halone hcauses hlatch hcut hroom down stopped
    have stops : ∀ (i : Instr) (latch : Bool) (P : State → Prop) (e : LedgerEvent) (cut : Bool) (m : ModuleSt),
        m = { s.mod with en := m.en, thermtripN := m.thermtripN, connected := m.connected } →
        exec i s = .next (settle (stopModule e latch cut { s with mod := m })) →
        (∀ t, StopLeaves s latch m t → P t) → stopped i latch P := by
      intro i latch P e cut m hm hexec hP
      obtain ⟨t, ht, hleaves, hseals⟩ := stop_settles e latch cut s m hm hrun hopen halone hcauses hlatch hroom
      obtain ⟨hdown, hclean, hnum, harch⟩ := stopped_of_leaves hleaves hseals
      exact ⟨t, by rw [hexec, ht], hdown, hclean, hnum, harch, hP t hleaves⟩
    have hon : (s.mod.power == .off) = false := by rw [hrun]; rfl
    have hlat : (s.mod.power == .latched) = false := by rw [hrun]; rfl
    refine ⟨?_, ?_, ?_, ?_, ?_, ?_, ?_⟩
    · exact stops _ _ _ _ _ { s.mod with en := false, thermtripN := true } rfl rfl
        fun t h => ⟨h.pins.1, h.pins.2.1, h.pins.2.2.2⟩
    · exact fun mv => stops _ _ _ _ _ s.mod rfl rfl fun _ _ => trivial
    · exact fun mv => stops _ _ _ _ _ { s.mod with connected := false } rfl rfl fun t h => h.pins.2.2.1
    · intro a
      refine stops _ _ _ (causeEntry 5 mdBlock a) false s.mod rfl ?_ fun _ _ => trivial
      show execOvercurrentStop a s = _
      simp only [execOvercurrentStop, hon, Bool.false_eq_true, if_false]
    · intro u temp
      refine stops _ _ _ (causeEntry (if uKind u.toNat = 0xA then 8 else 9) u.toNat (ofInt 64 temp)) true
        { s.mod with thermtripN := false } rfl ?_ fun t h => h.pins.2.1
      show execThermalTrip u temp s = _
      simp only [execThermalTrip, hon, hlat, Bool.or_self, Bool.false_eq_true, if_false]
    · intro die rail
      exact ⟨_, railFault_leaves die rail s hrun hcauses,
        ⟨rfl, rfl, rfl, rfl, rfl, rfl, rfl, rfl, rfl, rfl, rfl, rfl, rfl⟩, rfl, rfl, rfl⟩
    · intro hidle mv
      obtain ⟨t, ht, hmod, hmem, hseq⟩ := warning_ledgered (causeEntry 1 mdBlock mv) s hidle hopen
      obtain ⟨t', ht', hmod', hmem', hseq'⟩ := warning_ledgered (causeEntry 2 mdBlock mv) s hidle hopen
      exact ⟨⟨t, congrArg Host.Outcome.next ht, hmod, hmem, hseq⟩, ⟨t', congrArg Host.Outcome.next ht', hmod', hmem', hseq'⟩⟩
  · intro tms tdi s hidle e m
    refine ⟨?_, ?_⟩
    · intro hpg r
      show execTestPortClock tms tdi r s = _
      unfold execTestPortClock
      rw [hpg, if_pos (by decide), settle_idle s hidle]
    · intro hpg
      obtain ⟨htap, hframe⟩ := clocked_frame s.mod tms tdi
      refine ⟨⟨_, ?_, rfl⟩, ⟨_, testPort_clocked tms tdi s hidle hpg, rfl, htap, hframe, ?_, ?_, ?_, ?_, ?_⟩⟩
      · show execTestPortClock tms tdi false s = _
        unfold execTestPortClock
        rw [if_neg (by simp [hpg]), if_pos (by decide), settle_idle _ (by exact hidle)]
      · intro hcap hir
        show ofBits (clocked s.mod tms tdi).tapShift = _ ∧ (clocked s.mod tms tdi).tapShift.length = _
        rw [clocked_capDr s.mod tms tdi hcap, if_pos hir]
        exact idcode_captured
      · exact fun hcap hir => (clocked_capDr s.mod tms tdi hcap).trans (if_neg hir)
      · exact clocked_shift s.mod tms tdi
      · exact clocked_updIr s.mod tms tdi
      · exact clocked_tdo s.mod tms tdi

end Sys2Proof.Proofs
end

section
/-! PROOFS. How the module starts, boots, recovers and charges (13 R344, R345; 14 R367, R368; 16 R401, R402). -/

namespace Sys2Proof.Proofs

open Sys2Proof Sys2Proof.Machine Sys2Proof.Laws

/-! ## What ledger work leaves alone of a boot -/

/-- What a boot sets and the ledger's entries never touch. -/
def bootView (s : State) : ModuleSt × Bool × Nat × Bool × BitVec 512 × Nat × Nat × FwSlot × FwSlot × List Job :=
  (s.mod, s.tr.ledgerOpen, s.tr.bootSlot, s.tr.booting, s.tr.kernelDigest, s.tr.dieMatch, s.flash.boots, s.flash.slot0,
    s.flash.slot1, s.gz.jobs)

theorem Paged.bootView {s t : State} (h : Paged s t) : bootView t = bootView s := by
  obtain ⟨_, _, _, _, _, _, _, rfl, -, -⟩ := h
  rfl

theorem mdEntry_bootView (re ob fi old new aux : Nat) (s : State) (h : s.tr.ledgerOpen = true) :
    bootView (mdEntry re ob fi old new aux s) = bootView s := (ledgerEv_paged _ s h).bootView

theorem bootView_open {s t : State} (h : bootView t = bootView s) : t.tr.ledgerOpen = s.tr.ledgerOpen := congrArg (·.2.1) h

/-- Entries of a list leave what a boot sets. -/
theorem foldl_bootView {α : Type} (f : State → α → State)
    (hf : ∀ s x, s.tr.ledgerOpen = true → bootView (f s x) = bootView s) (l : List α) (s : State) (h : s.tr.ledgerOpen = true) :
    bootView (l.foldl f s) = bootView s := by
  induction l generalizing s with
  | nil => rfl
  | cons x l ih => exact (ih (f s x) ((bootView_open (hf s x h)).trans h)).trans (hf s x h)

/-! ## The slots -/

theorem fwSlot_setSlot (n k : Nat) (x : FwSlot) (s : State) (hn : n < 2) (hk : k < 2) :
    fwSlot (setSlot n x s) k = if k = n then x else fwSlot s k := by
  obtain rfl | rfl : n = 0 ∨ n = 1 := by omega
  · obtain rfl | rfl : k = 0 ∨ k = 1 := by omega
    · rfl
    · rfl
  · obtain rfl | rfl : k = 0 ∨ k = 1 := by omega
    · rfl
    · rfl

/-- The slot that boots is active; the other is valid where it was active, and else as it was (13 R344). -/
theorem fwSlot_activate (n k : Nat) (s : State) (hn : n < 2) (hk : k < 2) :
    (fwSlot (activate n s) k).state =
      if k = n then .active else if (fwSlot s k).state = .active then .valid else (fwSlot s k).state := by
  have hother : k ≠ n → 1 - n = k := by omega
  unfold activate
  dsimp only
  by_cases hkn : k = n
  · subst hkn
    rw [if_pos rfl]
    split
    · rw [fwSlot_setSlot _ _ _ _ (by omega) hk, if_neg (by omega), fwSlot_setSlot _ _ _ _ hn hk, if_pos rfl]
    · rw [fwSlot_setSlot _ _ _ _ hn hk, if_pos rfl]
  · rw [if_neg hkn, hother hkn]
    split
    · next hact =>
      rw [fwSlot_setSlot _ _ _ _ hk hk, if_pos rfl, if_pos (eq_of_beq hact)]
    · next hact =>
      rw [fwSlot_setSlot _ _ _ _ hn hk, if_neg hkn, if_neg (fun h => hact (beq_iff_eq.mpr h))]

theorem setSlot_boots (n : Nat) (x : FwSlot) (s : State) : (setSlot n x s).flash.boots = s.flash.boots := by
  unfold setSlot
  dsimp only
  split <;> rfl

theorem activate_frame (n : Nat) (s : State) :
    (activate n s).mod = s.mod ∧ (activate n s).tr = s.tr ∧ (activate n s).gz = s.gz ∧
    (activate n s).flash.boots = s.flash.boots := by
  unfold activate
  dsimp only
  split
  · exact ⟨rfl, rfl, rfl, by rw [setSlot_boots, setSlot_boots]⟩
  · exact ⟨rfl, rfl, rfl, setSlot_boots _ _ _⟩

/-! ## The dies -/

/-- The dies of a list as DIE_MATCH reports them (14 R369). -/
def matched (l : List Nat) (s : State) : State :=
  l.foldl (fun s d => modDie s d (fun x => { x with state := if bit s.tr.dieMatch d then 1 else 3 })) s

/-- Each of a list of dies takes the state that DIE_MATCH gives it (14 R369). -/
theorem dieOf_matched (l : List Nat) (s : State) (d : Nat) (hd : d ∈ l ∨ (dieOf s d).state = if bit s.tr.dieMatch d then 1 else 3) :
    (dieOf (matched l s) d).state =
      if bit s.tr.dieMatch d then 1 else 3 := by
  induction l generalizing s with
  | nil => exact hd.resolve_left (by simp)
  | cons c l ih =>
    refine ih (modDie s c _) ?_
    rw [dieOf_modDie]
    by_cases hc : d = c
    · subst hc
      exact .inr (by rw [if_pos rfl]; rfl)
    · rw [if_neg hc]
      exact hd.imp (fun h => (List.mem_cons.mp h).resolve_left hc) id

theorem matched_frame (l : List Nat) (s : State) :
    (matched l s).mod = s.mod ∧ (matched l s).tr = s.tr ∧ (matched l s).gz = s.gz ∧ (matched l s).flash = s.flash := by
  induction l generalizing s with
  | nil => exact ⟨rfl, rfl, rfl, rfl⟩
  | cons c l ih => exact ih (modDie s c _)

/-! ## Order 6 of a boot -/

/-- What opening the ledger leaves (13 R344 order 6). -/
structure Opened (s t : State) : Prop where
  module : t.mod = s.mod
  trust : t.tr.ledgerOpen = true ∧ t.tr.booting = false ∧ t.tr.bootSlot = s.tr.bootSlot ∧ t.tr.kernelDigest = s.tr.kernelDigest ∧
    t.tr.dieMatch = s.tr.dieMatch
  boots : t.flash.boots = s.flash.boots + 1
  slots : s.tr.bootSlot < 2 → ∀ k < 2, (fwSlot t k).state =
    if k = s.tr.bootSlot then .active else if (fwSlot s k).state = .active then .valid else (fwSlot s k).state
  jobs : t.gz.jobs = s.gz.jobs
  live : (ctxOf t 0).live = true
  dies : ∀ d < 13, (dieOf t d).state = if bit s.tr.dieMatch d then 1 else 3
  rings : ∀ r < 16, ringExists t r = true

theorem ctx0Rings_exist : ∀ r < 16, (amFind ((List.range 16).map (fun r => (r, ctx0Ring r))) r).isSome = true := by
  decide +kernel

theorem fwSlot_of_bootView {s t : State} (h : bootView t = bootView s) (k : Nat) : fwSlot t k = fwSlot s k := by
  have h0 : t.flash.slot0 = s.flash.slot0 := congrArg (·.2.2.2.2.2.2.2.1) h
  have h1 : t.flash.slot1 = s.flash.slot1 := congrArg (·.2.2.2.2.2.2.2.2.1) h
  rw [fwSlot, fwSlot, h0, h1]

/-- Neither an entry nor a unit's health takes anything back of a boot. -/
theorem Opened.keep {s t u : State} (h : Opened s t) (hview : bootView u = bootView t) (hlive : (ctxOf u 0).live = (ctxOf t 0).live)
    (hdies : u.hw.dies = t.hw.dies) (hrings : u.gz.rings = t.gz.rings) : Opened s u := by
  obtain ⟨module, trust, boots, slots, jobs, live, dies, rings⟩ := h
  have hslot := fwSlot_of_bootView hview
  rw [bootView, bootView, Prod.mk.injEq, Prod.mk.injEq, Prod.mk.injEq, Prod.mk.injEq, Prod.mk.injEq, Prod.mk.injEq, Prod.mk.injEq,
    Prod.mk.injEq, Prod.mk.injEq] at hview
  obtain ⟨hmod, hopen, hslotNo, hbooting, hdigest, hmatch, hboots, -, -, hjobs⟩ := hview
  refine ⟨hmod.trans module, ?_, hboots.trans boots, ?_, hjobs.trans jobs, hlive.trans live, ?_, ?_⟩
  · rw [hopen, hslotNo, hbooting, hdigest, hmatch]
    exact trust
  · intro hn k hk
    rw [hslot]
    exact slots hn k hk
  · intro d hd
    rw [dieOf, hdies]
    exact dies d hd
  · intro r hr
    rw [ringExists, hrings]
    exact rings r hr

/-- Context 0 and its rings as the kernel sets them up (02 R34). -/
def ctx0Up (boot : Nat) (s : State) : State :=
  { s with gz := { s.gz with ctxs := [(0, ctx0 boot)], rings := (List.range 16).map (fun r => (r, ctx0Ring r)) } }

theorem ctx0Up_rings (boot : Nat) (s : State) : ∀ r < 16, ringExists (ctx0Up boot s) r = true := ctx0Rings_exist

theorem ctx0Up_live (boot : Nat) (s : State) : (ctxOf (ctx0Up boot s) 0).live = true := rfl

theorem Opened.noted {s t : State} (h : Opened s t) (u re ob fi c old new aux o : Nat) (f : Health → Health) :
    Opened s (ledger 12 o re ob fi c old new aux (modHealth t u f)) := by
  have hpaged := ledgerEv_paged (mkEv o re ob fi c old new aux) (modHealth t u f) h.trust.1
  have hview : bootView (modHealth t u f) = bootView t := rfl
  rw [ledger]
  refine h.keep (hpaged.bootView.trans hview) ?_ ?_ ?_
  · obtain ⟨_, _, _, _, _, _, _, ht, -, hlive⟩ := hpaged
    rw [ht]
    exact hlive 0
  · obtain ⟨_, _, _, _, _, _, _, ht, -, -⟩ := hpaged
    rw [ht]
    rfl
  · obtain ⟨_, _, _, _, _, _, _, ht, -, -⟩ := hpaged
    rw [ht]
    rfl

/-- The first entries of an opening ledger: the boot entry's SEQ and the state they leave (13 R344 order 6, R345; 14 R368). -/
def bootEntries (s : State) : Nat × State :=
  let n := s.tr.bootSlot
  let last := lastSeq s
  let clean := s.flash.cleanStop
  let first := if clean then (if s.flash.archive.isEmpty then 0 else last + 1) else s.flash.seqBlock * 4096
  let fl := s.flash
  let s := { s with
    tr := { s.tr with ledgerOpen := true, booting := false, nextSeq := first }
    flash := { fl with boots := fl.boots + 1, cleanStop := false, recovered := false, latchedCauses := [], fellBack := [] } }
  let s := if fl.recovered then mdEntry 0xB n 5 0 1 s.tr.fwVersion s else s
  let boot := s.tr.nextSeq
  let s := mdEntry 0xB n 0 0 s.tr.dieMatch s.tr.fwVersion s
  let s := if clean then s else mdEntry 0x11 s.flash.nextPage 0 0 0 last s
  let s := fl.fellBack.foldl (fun s k => mdEntry 0xB k 2 0 0 (fwSlot s k).fwVersion s) s
  (boot, fl.latchedCauses.foldl (fun s e => ledgerEv 12 e s) s)

/-- The fuse follows the security version of the slot that boots (13 R343). -/
def fused (n : Nat) (s : State) : State :=
  let sec := (fwSlot s n).security
  if s.flash.security < sec then
    mdEntry 0xB n 3 s.flash.security sec s.tr.fwVersion { s with flash := { s.flash with security := sec } }
  else s

/-- A bad flash bank is noted (14 R369). -/
def bankNoted (s : State) : State :=
  if s.mod.bankOk then s
  else ledger 12 (kernelOrigin 12) 6 (kernelCore 12) 3 0 0 0 0
    (modHealth s (kernelCore 12) (fun h => { h with brought := true, failed := true, lastCause := 1 }))

/-- MGMT_NET as flash keeps it (13 R352). -/
def netRestored (s : State) : State := setItem s mdBlock 0x101 s.flash.mgmtNet

/-- The stages of order 6 (13 R344). -/
theorem openLedger_eq (s : State) : openLedger s =
    bankNoted (netRestored (matched (List.range 13) (ctx0Up (bootEntries s).1
      (fused s.tr.bootSlot (activate s.tr.bootSlot (bootEntries s).2))))) := rfl

theorem bootEntries_view (s : State) : bootView (bootEntries s).2 =
    (s.mod, true, s.tr.bootSlot, false, s.tr.kernelDigest, s.tr.dieMatch, s.flash.boots + 1, s.flash.slot0, s.flash.slot1, s.gz.jobs) := by
  unfold bootEntries
  extract_lets n last clean first fl tr0 s0 s1 boot s2 s3 s4
  have h0 : s0.tr.ledgerOpen = true := rfl
  have hs0 : bootView s0 = (s.mod, true, s.tr.bootSlot, false, s.tr.kernelDigest, s.tr.dieMatch, s.flash.boots + 1, s.flash.slot0,
    s.flash.slot1, s.gz.jobs) := rfl
  clear_value s0 first
  have h1 : bootView s1 = bootView s0 := by
    show bootView (if _ then _ else _) = _
    split
    · exact mdEntry_bootView _ _ _ _ _ _ s0 h0
    · rfl
  clear_value s1
  have h2 : bootView s2 = bootView s0 := (mdEntry_bootView _ _ _ _ _ _ s1 ((bootView_open h1).trans h0)).trans h1
  clear_value s2
  have h3 : bootView s3 = bootView s0 := by
    show bootView (if _ then _ else _) = _
    split
    · exact h2
    · exact (mdEntry_bootView _ _ _ _ _ _ s2 ((bootView_open h2).trans h0)).trans h2
  clear_value s3
  have h4 : bootView s4 = bootView s0 :=
    (foldl_bootView _ (fun s k h => mdEntry_bootView _ _ _ _ _ _ s h) _ s3 ((bootView_open h3).trans h0)).trans h3
  clear_value s4
  exact ((foldl_bootView _ (fun s e h => (ledgerEv_paged e s h).bootView) _ s4 ((bootView_open h4).trans h0)).trans h4).trans hs0

theorem fused_view (n : Nat) (s : State) (h : s.tr.ledgerOpen = true) : bootView (fused n s) = bootView s := by
  unfold fused
  dsimp only
  split
  · exact mdEntry_bootView _ _ _ _ _ _ { s with flash := { s.flash with security := (fwSlot s n).security } } h
  · rfl

theorem netRestored_frame (s : State) :
    (netRestored s).mod = s.mod ∧ (netRestored s).tr = s.tr ∧ (netRestored s).gz = s.gz ∧ (netRestored s).flash = s.flash ∧
    (netRestored s).hw.dies = s.hw.dies := ⟨rfl, rfl, rfl, rfl, rfl⟩

/-- The state before the bank is noted: the slot is active, and context 0, its rings and the dies are set up. -/
theorem openLedger_opened (s : State) : Opened s (openLedger s) := by
  rw [openLedger_eq]
  have hentries := bootEntries_view s
  generalize bootEntries s = e at hentries
  obtain ⟨boot, e⟩ := e
  dsimp only at hentries ⊢
  have hopen : e.tr.ledgerOpen = true := congrArg (·.2.1) hentries
  obtain ⟨hmod, htr, hgz, hboots⟩ := activate_frame s.tr.bootSlot e
  have hact := fun hn k hk => fwSlot_activate s.tr.bootSlot k e hn hk
  generalize activate s.tr.bootSlot e = a at hmod htr hgz hboots hact
  have hfused := fused_view s.tr.bootSlot a (htr ▸ hopen)
  generalize fused s.tr.bootSlot a = f at hfused
  have hrings := ctx0Up_rings boot f
  have hlive := ctx0Up_live boot f
  obtain ⟨hmod8, htr8, hflash8, hjobs8⟩ : (ctx0Up boot f).mod = f.mod ∧ (ctx0Up boot f).tr = f.tr ∧
    (ctx0Up boot f).flash = f.flash ∧ (ctx0Up boot f).gz.jobs = f.gz.jobs := ⟨rfl, rfl, rfl, rfl⟩
  generalize ctx0Up boot f = c at hrings hlive hmod8 htr8 hflash8 hjobs8
  obtain ⟨hmod9, htr9, hgz9, hflash9⟩ := matched_frame (List.range 13) c
  have hdies := dieOf_matched (List.range 13) c
  generalize matched (List.range 13) c = d at hmod9 htr9 hgz9 hflash9 hdies
  obtain ⟨hmod10, htr10, hgz10, hflash10, hdies10⟩ := netRestored_frame d
  generalize netRestored d = r at hmod10 htr10 hgz10 hflash10 hdies10
  have hopened : Opened s r := by
    have hfmod : f.mod = a.mod := congrArg (·.1) hfused
    have hftr : (f.tr.ledgerOpen, f.tr.booting, f.tr.bootSlot, f.tr.kernelDigest, f.tr.dieMatch) =
        (a.tr.ledgerOpen, a.tr.booting, a.tr.bootSlot, a.tr.kernelDigest, a.tr.dieMatch) :=
      congrArg (fun x => (x.2.1, x.2.2.2.1, x.2.2.1, x.2.2.2.2.1, x.2.2.2.2.2.1)) hfused
    have hetr : (e.tr.ledgerOpen, e.tr.booting, e.tr.bootSlot, e.tr.kernelDigest, e.tr.dieMatch) =
        (true, false, s.tr.bootSlot, s.tr.kernelDigest, s.tr.dieMatch) :=
      congrArg (fun x => (x.2.1, x.2.2.2.1, x.2.2.1, x.2.2.2.2.1, x.2.2.2.2.2.1)) hentries
    rw [htr, hetr, Prod.mk.injEq, Prod.mk.injEq, Prod.mk.injEq, Prod.mk.injEq] at hftr
    obtain ⟨hopen', hbooting, hslotNo, hdigest, hmatch⟩ := hftr
    have hslot : ∀ k, fwSlot r k = fwSlot a k := by
      intro k
      rw [← fwSlot_of_bootView hfused, fwSlot, fwSlot, hflash10, hflash9, hflash8]
    have hslot0 : ∀ k, fwSlot e k = fwSlot s k := by
      intro k
      have h0 : e.flash.slot0 = s.flash.slot0 := congrArg (·.2.2.2.2.2.2.2.1) hentries
      have h1 : e.flash.slot1 = s.flash.slot1 := congrArg (·.2.2.2.2.2.2.2.2.1) hentries
      rw [fwSlot, fwSlot, h0, h1]
    refine ⟨?_, ?_, ?_, ?_, ?_, ?_, ?_, ?_⟩
    · rw [hmod10, hmod9, hmod8, hfmod, hmod]
      exact congrArg (·.1) hentries
    · rw [htr10, htr9, htr8]
      exact ⟨hopen', hbooting, hslotNo, hdigest, hmatch⟩
    · rw [hflash10, hflash9, hflash8, show f.flash.boots = a.flash.boots from congrArg (·.2.2.2.2.2.2.1) hfused, hboots]
      exact congrArg (·.2.2.2.2.2.2.1) hentries
    · intro hn k hk
      rw [hslot, hact hn k hk, hslot0]
    · rw [hgz10, hgz9, hjobs8, show f.gz.jobs = a.gz.jobs from congrArg (·.2.2.2.2.2.2.2.2.2) hfused, hgz]
      exact congrArg (·.2.2.2.2.2.2.2.2.2) hentries
    · rw [ctxOf, hgz10, hgz9]
      exact hlive
    · intro n hn
      rw [dieOf, hdies10, ← hmatch, ← htr8]
      exact hdies n (.inl (List.mem_range.mpr hn))
    · intro n hn
      rw [ringExists, hgz10, hgz9]
      exact hrings n hn
  unfold bankNoted
  split
  · exact hopened
  · exact hopened.noted _ _ _ _ _ _ _ _ _ _

/-! ## Power-on -/

/-- The state of a module whose rails have come up (14 R367-R369). -/
def railsUp (b : BootReport) (s : State) : State :=
  let c := coldState s
  { c with
    mod := { c.mod with
      en := true, charged := true, connected := true, pgoodLow := none, bankOk := b.bankOk, power := .running, pgood := true }
    tr := { c.tr with dieMatch := b.dieMatch.toNat } }

/-- The state of a module of which a rail failed (14 R368). -/
def railsFailed (b : BootReport) (s : State) : State :=
  let c := coldState s
  { c with
    mod := { c.mod with
      en := true, charged := true, connected := true, pgoodLow := none, bankOk := b.bankOk, power := .latched, faultN := false }
    flash := { c.flash with latchedCauses := c.flash.latchedCauses ++ [mkEv (hwOrigin 12) 0xE mdBlock 6 0 0 0 0] } }

theorem moduleStart_ignored (b : BootReport) (s : State) (hidle : Idle s)
    (h : s.mod.power ≠ .off ∨ s.mod.en = false ∧ ∃ x, s.mod.pgoodLow = some x ∧ s.now - x < 100000000) :
    exec (.moduleStart b) s = .next (passed s) := by
  have hcond : (s.mod.power != .off || !s.mod.en && s.mod.pgoodLow.any (fun t => s.now - t < 100000000)) = true := by
    obtain hp | ⟨hen, x, hx, hlt⟩ := h
    · simp [hp]
    · simp [hen, hx, hlt]
  show execModuleStart b s = _
  unfold execModuleStart
  dsimp only
  rw [if_pos hcond, settle_idle s hidle]

theorem moduleStart_starts (b : BootReport) (s : State) (hoff : s.mod.power = .off)
    (h : ¬(s.mod.en = false ∧ ∃ x, s.mod.pgoodLow = some x ∧ s.now - x < 100000000)) :
    exec (.moduleStart b) s = .next (settle (if b.railsOk then tryBoot b (bootSlots s) (coldMemory (railsUp b s)) else railsFailed b s)) := by
  have hcond : ¬(s.mod.power != .off || !s.mod.en && s.mod.pgoodLow.any (fun t => s.now - t < 100000000)) = true := by
    intro hc
    refine h ?_
    rw [hoff] at hc
    have hc' : s.mod.en = false ∧ (s.mod.pgoodLow.any fun t => decide (s.now - t < 100000000)) = true := by simpa using hc
    obtain ⟨hen, hany⟩ := hc'
    obtain ⟨x, hx, hlt⟩ := (Option.any_eq_true _ _).mp hany
    exact ⟨hen, x, hx, of_decide_eq_true hlt⟩
  show execModuleStart b s = _
  unfold execModuleStart
  dsimp only
  rw [if_neg hcond]
  cases b.railsOk with
  | false => rfl
  | true => rfl

theorem coldMemory_frame (s : State) :
    (coldMemory s).mod = s.mod ∧ (coldMemory s).tr = s.tr ∧ (coldMemory s).gz = s.gz ∧ (coldMemory s).flash = s.flash := by
  have fold : ∀ (f : State → Nat × ChanState → State)
      (_ : ∀ s c, (f s c).mod = s.mod ∧ (f s c).tr = s.tr ∧ (f s c).gz = s.gz ∧ (f s c).flash = s.flash)
      (l : List (Nat × ChanState)) (s : State), (l.foldl f s).mod = s.mod ∧ (l.foldl f s).tr = s.tr ∧ (l.foldl f s).gz = s.gz ∧
        (l.foldl f s).flash = s.flash := by
    intro f hf l
    induction l with
    | nil => exact fun s => ⟨rfl, rfl, rfl, rfl⟩
    | cons c l ih =>
      intro s
      obtain ⟨hmod, htr, hgz, hflash⟩ := hf s c
      obtain ⟨hmod', htr', hgz', hflash'⟩ := ih (f s c)
      exact ⟨hmod'.trans hmod, htr'.trans htr, hgz'.trans hgz, hflash'.trans hflash⟩
  unfold coldMemory
  extract_lets m
  exact fold m (fun _ _ => ⟨rfl, rfl, rfl, rfl⟩) _ _

/-! ## The ROM's slots -/

theorem bootSlots_lt (s : State) (n : Nat) (h : n ∈ bootSlots s) : n < 2 := by
  simp only [bootSlots, List.mem_append, List.mem_filter, List.mem_cons, List.not_mem_nil, or_false] at h
  omega

theorem fallBack_frame (n : Nat) (s : State) :
    (fallBack n s).mod = s.mod ∧ (fallBack n s).tr = s.tr ∧ (fallBack n s).gz = s.gz := by
  unfold fallBack
  split
  · exact ⟨rfl, rfl, rfl⟩
  · exact ⟨rfl, rfl, rfl⟩

/-- A slot marked next that falls back is valid; the other slot stays (13 R344). -/
theorem fwSlot_fallBack (n k : Nat) (s : State) (hn : n < 2) (hk : k < 2) (h : (fwSlot s n).state = .next) :
    (fwSlot (fallBack n s) k).state = if k = n then .valid else (fwSlot s k).state := by
  have hnext : ((fwSlot s n).state == .next) = true := beq_iff_eq.mpr h
  rw [fallBack, if_pos hnext]
  show (fwSlot (setSlot n (unmark (fwSlot s n)) s) k).state = _
  rw [fwSlot_setSlot _ _ _ _ hn hk, unmark, if_pos hnext]
  split <;> rfl

/-- With no slot that verifies the ROM enters recovery (13 R345). -/
theorem tryBoot_none (b : BootReport) (l : List Nat) (s : State) (h : ∀ n ∈ l, (if n = 0 then b.verify0 else b.verify1) = false) :
    (tryBoot b l s).mod = { s.mod with recovery := true, faultN := false } ∧ (tryBoot b l s).tr = s.tr ∧
    (tryBoot b l s).gz = s.gz := by
  induction l generalizing s with
  | nil => exact ⟨rfl, rfl, rfl⟩
  | cons n l ih =>
    obtain ⟨hmod, htr, hgz⟩ := fallBack_frame n s
    obtain ⟨hmod', htr', hgz'⟩ := ih (fallBack n s) (fun k hk => h k (List.mem_cons_of_mem _ hk))
    rw [tryBoot, h n (List.mem_cons_self ..), if_neg Bool.false_ne_true]
    rw [hmod] at hmod'
    exact ⟨hmod', htr'.trans htr, hgz'.trans hgz⟩

/-- What a boot of a slot leaves (13 R344). -/
structure Booted (b : BootReport) (n : Nat) (s t : State) : Prop where
  module : t.mod = s.mod
  trust : t.tr.bootSlot = n ∧ t.tr.ledgerOpen = b.reached ∧ t.tr.booting = !b.reached ∧
    t.tr.kernelDigest = (fwSlot s n).kernelDigest ∧ t.tr.dieMatch = s.tr.dieMatch
  jobs : t.gz.jobs = s.gz.jobs
  opened : b.reached = true → Opened (runSlot n s) t

theorem tryBoot_first (b : BootReport) (n : Nat) (l : List Nat) (s : State) (h : (if n = 0 then b.verify0 else b.verify1) = true)
    (hopen : s.tr.ledgerOpen = false) : Booted b n s (tryBoot b (n :: l) s) := by
  rw [tryBoot, h, if_pos rfl]
  dsimp only
  cases hr : b.reached with
  | true =>
    rw [if_pos rfl]
    have ho := openLedger_opened (runSlot n s)
    obtain ⟨hledger, hboot, hslot, hdigest, hmatch⟩ := ho.trust
    refine ⟨ho.module, ⟨hslot, ?_, ?_, hdigest, hmatch⟩, ho.jobs, fun _ => ho⟩
    · rw [hr]
      exact hledger
    · rw [hr]
      exact hboot
  | false =>
    rw [if_neg Bool.false_ne_true]
    refine ⟨rfl, ⟨rfl, ?_, ?_, rfl, rfl⟩, rfl, fun hreach => ?_⟩
    · rw [hr]
      exact hopen
    · rw [hr]
      rfl
    · rw [hr] at hreach
      contradiction

/-! ## The commands -/

theorem moduleStart_boots (b : BootReport) (s : State) (n : Nat) (rest : List Nat) (hslots : bootSlots s = n :: rest)
    (hok : (if n = 0 then b.verify0 else b.verify1) = true) :
    Booted b n (coldMemory (railsUp b s)) (tryBoot b (bootSlots s) (coldMemory (railsUp b s))) := by
  obtain ⟨-, htr, -⟩ := coldMemory_frame (railsUp b s)
  rw [hslots]
  exact tryBoot_first b n rest _ hok (by rw [htr]; rfl)

theorem bootFallback_falls (s : State) (hboot : s.tr.booting = true) (hrun : s.mod.power = .running)
    (hn : s.tr.bootSlot < 2) (hnext : (fwSlot s s.tr.bootSlot).state = .next)
    (hact : (fwSlot s (1 - s.tr.bootSlot)).state = .active) :
    exec .bootFallbackTimeout s = .next (settle (openLedger (runSlot (1 - s.tr.bootSlot)
      (fallBack s.tr.bootSlot { s with tr := { s.tr with booting := false } })))) := by
  have hother : 1 - s.tr.bootSlot < 2 ∧ 1 - s.tr.bootSlot ≠ s.tr.bootSlot := by omega
  have hslot := fun k hk => fwSlot_fallBack s.tr.bootSlot k { s with tr := { s.tr with booting := false } } hn hk hnext
  have hslots : bootSlots (fallBack s.tr.bootSlot { s with tr := { s.tr with booting := false } }) = [1 - s.tr.bootSlot] := by
    generalize fallBack s.tr.bootSlot { s with tr := { s.tr with booting := false } } = t at hslot
    have hvalid : (fwSlot t s.tr.bootSlot).state = .valid := (hslot _ hn).trans (if_pos rfl)
    have hactive : (fwSlot t (1 - s.tr.bootSlot)).state = .active :=
      ((hslot _ hother.1).trans (if_neg hother.2)).trans hact
    obtain h0 | h1 : s.tr.bootSlot = 0 ∨ s.tr.bootSlot = 1 := by omega
    · rw [h0] at hvalid hactive ⊢
      simp [bootSlots, hvalid, hactive]
    · rw [h1] at hvalid hactive ⊢
      simp [bootSlots, hvalid, hactive]
  show execBootFallbackTimeout s = _
  unfold execBootFallbackTimeout
  dsimp only
  rw [if_neg (by simp [hboot, hrun]), if_pos (by simp [hnext]), hslots]

/-- Settles O58: a start ends in `Booted`, in recovery or latched off by the slots of `bootSlots`; the other commands by their one
branch. -/
theorem moduleStarts : Obligations.ModuleStarts := by
  unfold Obligations.ModuleStarts
  refine ⟨?_, ?_, ?_, ?_⟩
  · intro b s hidle e early ok
    refine ⟨moduleStart_ignored b s hidle, fun hoff hearly => ?_⟩
    have he : e = _ := moduleStart_starts b s hoff hearly
    refine ⟨fun hrails => ?_, fun hrails => ⟨?_, ?_⟩⟩
    · rw [he, hrails, if_neg Bool.false_ne_true, settle_idle _ (by rfl)]
      exact ⟨_, rfl, rfl, rfl, rfl, rfl, List.length_append⟩
    · intro n rest hslots hok
      obtain ⟨hmod0, htr0, hgz0, hflash0⟩ := coldMemory_frame (railsUp b s)
      obtain ⟨hmod, ⟨hslot, hledger, hboot, hdigest, hmatch⟩, hjobs, hopened⟩ := moduleStart_boots b s n rest hslots hok
      rw [he, hrails, if_pos rfl]
      generalize tryBoot b (bootSlots s) (coldMemory (railsUp b s)) = t at *
      have hidle' : Idle t := hjobs.trans (congrArg GelozSt.jobs hgz0)
      rw [settle_idle _ hidle']
      have hfw : fwSlot (coldMemory (railsUp b s)) n = fwSlot s n := by
        rw [fwSlot, fwSlot, hflash0]
        rfl
      refine ⟨_, rfl, ?_, ?_, ?_, hslot, hledger, hboot, hdigest.trans (by rw [hfw]), ?_, fun hreach => ?_⟩
      · exact congrArg ModuleSt.power (hmod.trans hmod0)
      · exact congrArg ModuleSt.pgood (hmod.trans hmod0)
      · exact congrArg ModuleSt.en (hmod.trans hmod0)
      · exact hmatch.trans (by rw [htr0]; rfl)
      · obtain ⟨-, -, hboots, hslots', -, hlive, hdies, hrings⟩ := hopened hreach
        have hn : n < 2 := bootSlots_lt s n (by rw [hslots]; exact List.mem_cons_self ..)
        refine ⟨hboots.trans ?_, (hslots' hn n hn).trans (if_pos rfl), hlive, ?_, hrings⟩
        · show (coldMemory (railsUp b s)).flash.boots + 1 = _
          rw [hflash0]
          rfl
        · intro d hd
          refine (hdies d hd).trans ?_
          show (if bit (coldMemory (railsUp b s)).tr.dieMatch d then 1 else 3) = _
          rw [htr0]
          rfl
    · intro hnone
      obtain ⟨hmod0, htr0, hgz0, hflash0⟩ := coldMemory_frame (railsUp b s)
      obtain ⟨hmod, htr, hgz⟩ := tryBoot_none b (bootSlots s) (coldMemory (railsUp b s)) hnone
      rw [he, hrails, if_pos rfl]
      generalize tryBoot b (bootSlots s) (coldMemory (railsUp b s)) = t at *
      rw [settle_idle _ (congrArg GelozSt.jobs (hgz.trans hgz0))]
      rw [hmod0] at hmod
      exact ⟨_, rfl, congrArg ModuleSt.power hmod, congrArg ModuleSt.recovery hmod, congrArg ModuleSt.faultN hmod,
        congrArg TrustSt.ledgerOpen (htr.trans htr0)⟩
  · intro s hidle e n
    refine ⟨fun hnot => ?_, fun hboot hrun => ⟨fun hother => ?_, fun hn hnext hact => ?_⟩⟩
    · show execBootFallbackTimeout s = _
      have hcond : (!s.tr.booting || s.mod.power != .running) = true := by
        obtain h | h := hnot
        · simp [h]
        · simp [h]
      unfold execBootFallbackTimeout
      dsimp only
      rw [if_pos hcond, settle_idle s hidle]
    · refine ⟨passed (enterRecovery { s with tr := { s.tr with booting := false } }), ?_, rfl, rfl, rfl⟩
      show execBootFallbackTimeout s = _
      unfold execBootFallbackTimeout
      dsimp only
      rw [if_neg (by simp [hboot, hrun]), if_neg (fun h => hother (eq_of_beq h)), settle_idle _ (by exact hidle)]
    · have hslots := fun k hk => fwSlot_fallBack n k { s with tr := { s.tr with booting := false } } hn hk hnext
      obtain ⟨-, -, hgz⟩ := fallBack_frame n { s with tr := { s.tr with booting := false } }
      have he : e = _ := bootFallback_falls s hboot hrun hn hnext hact
      rw [he]
      generalize fallBack n { s with tr := { s.tr with booting := false } } = f at hslots hgz ⊢
      obtain ⟨-, ⟨hledger, -, hslotNo, -, -⟩, -, hstates, hjobs, -, -, -⟩ := openLedger_opened (runSlot (1 - n) f)
      have hother : 1 - n < 2 ∧ n ≠ 1 - n := by omega
      have hvalid : (fwSlot (runSlot (1 - n) f) n).state = .valid := (hslots n hn).trans (if_pos rfl)
      rw [settle_idle _ (hjobs.trans (by show f.gz.jobs = []; rw [hgz]; exact hidle))]
      refine ⟨_, rfl, hslotNo, hledger, ?_, ?_⟩
      · refine (hstates hother.1 n hn).trans ?_
        rw [hvalid, if_neg (by exact hother.2), if_neg (by decide)]
      · exact (hstates hother.1 (1 - n) hother.1).trans (if_pos rfl)
  · intro slot image bad s hidle e
    refine ⟨fun hnot => ?_, fun hrec hok => ?_⟩
    · show execRecoveryImage slot image bad s = _
      have hcond : (!s.mod.recovery || !imageOk s image bad) = true := by
        obtain h | h := hnot
        · simp [h]
        · simp [h]
      unfold execRecoveryImage
      rw [if_pos hcond, settle_idle s hidle]
    · refine ⟨passed (coldState { writeImage slot.val image s with mod := { (writeImage slot.val image s).mod with
        power := .off, pgood := false, recovery := false, faultN := true } }), ?_, ?_, rfl, rfl, rfl, rfl⟩
      · show execRecoveryImage slot image bad s = _
        unfold execRecoveryImage
        rw [if_neg (by simp [hrec, hok]), settle_idle _ (by rfl)]
      · exact (fwSlot_setSlot slot.val slot.val _ _ slot.isLt slot.isLt).trans (if_pos rfl)
  · intro s hidle
    refine ⟨fun hen => ?_, fun hen => ?_, fun hp => ?_, fun hp => ?_⟩
    · show execModuleInsertion s = _
      rw [execModuleInsertion, if_pos hen, settle_idle s hidle]
    · show execModuleInsertion s = _
      rw [execModuleInsertion, if_neg (by simp [hen]), settle_idle _ (by exact hidle)]
    · show execLatchedFaultClear s = _
      rw [execLatchedFaultClear, if_pos (by simp [hp]), settle_idle s hidle]
    · refine ⟨passed { s with mod := { s.mod with
        power := .off, en := false, faultN := true, thermtripN := true, connected := true } }, ?_, rfl, rfl, rfl, rfl, rfl⟩
      show execLatchedFaultClear s = _
      rw [execLatchedFaultClear, if_neg (by simp [hp]), settle_idle _ (by exact hidle)]

end Sys2Proof.Proofs
end

section
/-! PROOFS. How a command in flight ends: the settling of one ended command, and the answer it leaves (02 R43, R50). -/

namespace Sys2Proof.Proofs

open Sys2Proof Sys2Proof.Machine Sys2Proof.Laws

/-! ## The end of one command -/

/-- With no waiter an end takes no command out and puts none in. -/
theorem finish_jobs (s : State) (j : Job) (e : End) (hw : s.sig.waiters = []) : (finish s j e).gz.jobs = s.gz.jobs := by
  have hu := unreserved_calmEnd s j e hw
  have hd := hu.trans (writeDone_calmOnly (unreserve (replyWritten s j e) j.ring) j.ring j.id (hdrOf j.cmd) (hu.waiters hw)).calmEnd
  have hcharged := charge_frame e.detail (endPoints e)
    (modCtx (writeDone (unreserve (replyWritten s j e) j.ring) j.ring j.id (hdrOf j.cmd)) (j.ring / 256)
      (fun c => { c with chk := recordEnd (hdrOf j.cmd) e c.chk }))
  obtain ⟨-, -, -, -, -, -, -, -, -, -, -, -, -, -, -, -, -, -, -, hjobs, -, -⟩ := hcharged
  obtain ⟨_, _, _, _, _, hd⟩ := hd
  rw [finish_eq, hjobs]
  show (writeDone _ _ _ _).gz.jobs = _
  rw [hd]

/-- The state in which an ended command writes its reply: it is out, and a fence that is DONE has made its writes visible. -/
def leaving (s : State) (j : Job) (e : End) : State :=
  if e.status = DONE then fenceDone { s with gz := { s.gz with jobs := [] } } j else { s with gz := { s.gz with jobs := [] } }

theorem fenceDone_eq (s : State) (j : Job) : ∃ un, fenceDone s j = { s with mem := { s.mem with unseen := un } } := by
  unfold fenceDone
  split
  · exact ⟨_, rfl⟩
  · exact ⟨_, rfl⟩
  · exact ⟨s.mem.unseen, rfl⟩

theorem leaving_eq (s : State) (j : Job) (e : End) :
    ∃ un, leaving s j e = { s with gz := { s.gz with jobs := [] }, mem := { s.mem with unseen := un } } := by
  unfold leaving
  split
  · exact fenceDone_eq _ j
  · exact ⟨s.mem.unseen, rfl⟩

theorem portTestNote_ending (j : Job) (e e' : End) (s : State) (h : j.phase = .ending e') : portTestNote j e s = s := by
  unfold portTestNote
  rw [h]
  split
  · contradiction
  · rfl

/-- The one command in flight, having ended, writes its reply. -/
theorem settle_ended (s : State) (j : Job) (e : End) (hj : s.gz.jobs = [j]) (hp : j.phase = .ending e) :
    settle s = passed (finish (leaving s j e) j e) := by
  have hfirst : firstEnded s [j] = some (j, e) := by
    simp only [firstEnded, ended, hp]
  have hone : settleOne s = some (finish (leaving s j e) j e) := by
    unfold settleOne leaving
    rw [hj, hfirst]
    dsimp only
    rw [show [j].filter (fun k => k.id != j.id) = [] by simp, List.map_nil, portTestNote_ending j e e _ hp]
  rw [settle, hj]
  show passed (match settleOne s with | none => s | some s' => s') = _
  rw [hone]

/-! ## Answers -/

/-- A ring writes its next reply where it did before. -/
def SameSlot (s t : State) (key : Nat) : Prop :=
  (ringOf t key).replyTail = (ringOf s key).replyTail ∧ (ringOf t key).replyBase = (ringOf s key).replyBase ∧
  (ringOf t key).replyLog2 = (ringOf s key).replyLog2

theorem SameSlot.of_rings {s t : State} (h : t.gz.rings = s.gz.rings) (key : Nat) : SameSlot s t key := by
  rw [SameSlot, ringOf, ringOf, h]
  exact ⟨rfl, rfl, rfl⟩

theorem SameSlot.trans {s t u : State} {key : Nat} (h : SameSlot s t key) (k : SameSlot t u key) : SameSlot s u key := by
  obtain ⟨ht, hb, hl⟩ := h
  obtain ⟨kt, kb, kl⟩ := k
  exact ⟨kt.trans ht, kb.trans hb, kl.trans hl⟩

theorem SameSlot.of_begun (s : State) (i : Instr) (key : Nat) : SameSlot s (begun s i) key := by
  rw [SameSlot, ringOf_begun]
  split
  · exact ⟨rfl, rfl, rfl⟩
  · exact ⟨rfl, rfl, rfl⟩

/-- Two records of one command, which may stand in different phases. -/
def SameJob (j k : Job) : Prop := k.id = j.id ∧ k.cmd = j.cmd ∧ k.ring = j.ring ∧ k.origin = j.origin ∧ k.t0 = j.t0

theorem SameJob.refl (j : Job) : SameJob j j := ⟨rfl, rfl, rfl, rfl, rfl⟩

/-- An end that leaves nothing in flight answers its command. -/
theorem answered_finish {s u : State} {j k : Job} {e : End} (hjobs : u.gz.jobs = []) (hm : Memory.wf u.mem.cells = true)
    (hw : u.sig.waiters = []) (hslot : SameSlot s u j.ring) (hnow : u.now = s.now) (hk : SameJob j k) :
    Answered s (passed (finish u k e)) j e := by
  obtain ⟨-, hcmd, hring, horigin, ht0⟩ := hk
  obtain ⟨htail, hbase, hlog⟩ := hslot
  refine ⟨?_, fun hr => ⟨?_, fun h0 => ?_⟩⟩
  · show (finish u k e).gz.jobs.find? _ = none
    rw [finish_jobs u k e hw, hjobs]
    rfl
  · show (ringOf (finish u k e) j.ring).replyTail = _
    rw [ringOf_finish, if_pos hring.symm, hcmd, if_pos hr, htail, replySize, replySize, hlog]
  · have hreply := finish_reply u k e hm (by rw [hcmd]; exact hr) (by rw [hcmd]; exact h0)
    rw [hcmd, hring, horigin, ht0, hnow, htail, hbase] at hreply
    exact hreply

/-- The one command in flight has ended and is answered. -/
theorem answered_settle {s u : State} {j k : Job} {e : End} (hjobs : u.gz.jobs = [k]) (hp : k.phase = .ending e)
    (hm : Memory.wf u.mem.cells = true) (hw : u.sig.waiters = []) (hslot : SameSlot s u j.ring) (hnow : u.now = s.now)
    (hk : SameJob j k) : Answered s (settle u) j e := by
  rw [settle_ended u k e hjobs hp]
  obtain ⟨un, hl⟩ := leaving_eq u k e
  rw [hl]
  exact answered_finish rfl hm hw (hslot.trans (.of_rings rfl _)) hnow hk

/-- Ending the one command in flight leaves it alone in flight, ended. -/
theorem jobs_endJob_one (s : State) (j : Job) (e : End) (hj : s.gz.jobs = [j]) :
    (endJob s j.id e).gz.jobs = [{ j with phase := .ending e }] := by
  show (modJob s j.id _).gz.jobs = _
  simp [modJob, hj]

/-- Ending the one command in flight of a calm state answers it. -/
theorem answered_endJob {s u : State} {j : Job} {e : End} (hc : Calm u [j]) (hslot : SameSlot s u j.ring) (hnow : u.now = s.now) :
    Answered s (settle (endJob u j.id e)) j e := by
  obtain ⟨hj, hm, hw⟩ := hc
  exact answered_settle (jobs_endJob_one u j e hj) rfl hm hw (hslot.trans (.of_rings rfl _)) hnow ⟨rfl, rfl, rfl, rfl, rfl⟩

/-- A packet that its ring accepts and that ends at once is answered. -/
theorem answered_replied {s u : State} {pre : Pre} {i : Instr} {e : End} (hc : Calm u [])
    (hslot : SameSlot (begun s i) u (jobFor s pre i).ring) (hnow : u.now = s.now) :
    Answered s (replied s pre i u e) (jobFor s pre i) e := by
  obtain ⟨hj, hm, hw⟩ := hc
  have hidle : Idle (finish u (jobFor s pre i) e) := (finish_jobs u _ e hw).trans hj
  rw [replied, settle_idle _ hidle]
  exact answered_finish hj hm hw ((SameSlot.of_begun s i _).trans hslot) hnow (.refl _)

/-! ## Commands that stay in flight -/

theorem quiet_one {s : State} {j : Job} (hj : s.gz.jobs = [j]) (he : ended s j = none) : Quiet s := by
  rw [Quiet, hj, firstEnded, he]
  rfl

theorem jobs_park (s : State) (j : Job) (ph : Phase) (hj : Idle s) :
    (park s j ph).gz.jobs = [{ j with phase := ph, since := s.now }] := by
  show s.gz.jobs ++ _ = _
  rw [hj]
  rfl

theorem jobOf_one {s : State} {j : Job} (hj : s.gz.jobs = [j]) : jobOf s j.id = some j := by
  rw [jobOf, hj, List.find?_cons_of_pos (by simp)]

/-! ## Places that a store leaves readable -/

theorem byteAt_of_mem {s t : State} (h : t.mem = s.mem) (x : Nat) : byteAt t x = byteAt s x :=
  byteAt_congr (by rw [h]) (by rw [h]) x

theorem bytesAt_of_mem {s t : State} (h : t.mem = s.mem) (a n : Nat) : bytesAt t a n = bytesAt s a n :=
  bytesAt_congr fun x _ _ => byteAt_of_mem h x

theorem word_of_mem {s t : State} (h : t.mem = s.mem) (a : Nat) : word t a = word s a := word_congr (byteAt_of_mem h) a

theorem MemSame.of_mem {s t u : State} {l : List (Nat × Nat)} (k : MemSame s t l) (h : u.mem = t.mem) : MemSame s u l :=
  fun x hx => (byteAt_of_mem h x).trans (k x hx)

/-- No place becomes poisoned that was not: the state's channels and sides are the same, and its poison no more. -/
structure Cleaner (s t : State) : Prop where
  chans : t.mem.chans = s.mem.chans
  sides : t.mem.sides = s.mem.sides
  poison : ∀ b ∈ t.mem.poison, b ∈ s.mem.poison
  kept : ∀ k ∈ t.mem.kept, ∃ l ∈ s.mem.kept, k.side = l.side ∧ ∀ b, keptHas k b = true → keptHas l b = true

theorem lower_eq_none {a b : Option Nat} : lower a b = none ↔ a = none ∧ b = none := by
  cases a <;> cases b <;> simp [lower]

/-- Where nothing of a range is poisoned: no block, none that a remap epoch has left, and no channel (08 R241, R252). -/
theorem poisonAddr_none (s : State) (a n : Nat) : poisonAddr s a n = none ↔ n = 0 ∨
    (s.mem.poison.find? (fun b => a / 32 ≤ b && b ≤ (a + n - 1) / 32) = none ∧
      ∀ u off, regionOf a = .side u off →
        (s.mem.kept.any (fun k => k.side == u) = true → keptScan s (a / 32) ((a + n - 1) / 32 - a / 32 + 1) = none) ∧
        (s.mem.chans.any (fun c => channelSide c.1 == u && chanPoisoned c.2) = true →
          lostScan s a ((a + n - 1) / 256 - a / 256 + 1) = none)) := by
  unfold poisonAddr
  by_cases hn : n = 0
  · simp [hn]
  · rw [if_neg hn]
    simp only [hn, false_or]
    cases hr : regionOf a with
    | side u off =>
      have hregion : ∀ P : Nat → Prop, (∀ v w, Region.side u off = .side v w → P v) ↔ P u :=
        fun P => ⟨fun h => h u off rfl, fun h v w hvw => by cases hvw; exact h⟩
      rw [hregion]
      dsimp only
      generalize s.mem.kept.any (fun k => k.side == u) = anyKept
      generalize s.mem.chans.any (fun c => channelSide c.1 == u && chanPoisoned c.2) = anyLost
      cases anyKept <;> cases anyLost <;> simp [lower_eq_none, and_assoc]
    | _ => simp

theorem keptAny_cleaner {s t : State} (h : Cleaner s t) (b : Nat) (hs : s.mem.kept.any (fun k => keptHas k b) = false) :
    t.mem.kept.any (fun k => keptHas k b) = false := by
  rw [List.any_eq_false] at hs ⊢
  intro k hk hb
  obtain ⟨l, hl, -, himp⟩ := h.kept k hk
  exact hs l hl (himp b hb)

theorem keptScan_cleaner {s t : State} (h : Cleaner s t) (b n : Nat) (hs : keptScan s b n = none) : keptScan t b n = none := by
  induction n generalizing b with
  | zero => rfl
  | succ n ih =>
    rw [keptScan] at hs ⊢
    split at hs
    · contradiction
    · next hb =>
      rw [if_neg (by simpa using keptAny_cleaner h b (by simpa using hb))]
      exact ih (b + 1) hs

theorem lostScan_cleaner {s t : State} (h : Cleaner s t) (a n : Nat) : lostScan t a n = lostScan s a n := by
  induction n generalizing a with
  | zero => rfl
  | succ n ih =>
    have hchan : chan t (chanOf t a) = chan s (chanOf s a) := by
      unfold chan chanOf sideOf
      rw [h.chans, h.sides]
    rw [lostScan, lostScan, hchan, ih]

/-- What was readable stays readable (08 R241). -/
theorem poisonIn_cleaner {s t : State} (h : Cleaner s t) (a n : Nat) (hs : poisonIn s a n = none) : poisonIn t a n = none := by
  have hs' : poisonAddr s a n = none := Option.map_eq_none_iff.mp hs
  refine Option.map_eq_none_iff.mpr ?_
  rw [poisonAddr_none] at hs' ⊢
  obtain hn | ⟨hfind, hside⟩ := hs'
  · exact .inl hn
  · refine .inr ⟨?_, fun u off hr => ⟨fun hk => ?_, fun hc => ?_⟩⟩
    · rw [List.find?_eq_none] at hfind ⊢
      exact fun b hb => hfind b (h.poison b hb)
    · refine keptScan_cleaner h _ _ ((hside u off hr).1 ?_)
      obtain ⟨k, hk, hku⟩ := List.any_eq_true.mp hk
      obtain ⟨l, hl, hkl, -⟩ := h.kept k hk
      exact List.any_eq_true.mpr ⟨l, hl, by rw [← hkl]; exact hku⟩
    · rw [lostScan_cleaner h]
      exact (hside u off hr).2 (by rw [← h.chans]; exact hc)

theorem keptHas_unkeep (k : KeptPoison) (l : List Nat) (b : Nat) (h : keptHas { k with cleared := l ++ k.cleared } b = true) :
    keptHas k b = true := by
  unfold keptHas at h ⊢
  split
  · next u off hr =>
    rw [hr] at h
    simp only [List.contains_eq_mem, List.mem_append, Bool.and_eq_true, Bool.not_eq_true', decide_eq_false_iff_not] at h ⊢
    exact ⟨h.1, fun hb => h.2 (.inr hb)⟩
  · next hr =>
    split at h
    · next hr' => exact absurd hr' (hr _ _)
    · contradiction

/-- A store poisons nothing (08 R241). -/
theorem storeNow_cleaner (s : State) (w : Who) (a : Nat) (bs : List Byte) : Cleaner s (storeNow s w a bs) := by
  have hmem := storeNow_mem s w a bs
  refine ⟨by rw [hmem], by rw [hmem], ?_, ?_⟩
  · rw [hmem]
    intro b hb
    dsimp only [unpoison] at hb
    split at hb
    · exact hb
    · exact List.mem_of_mem_filter hb
  · rw [hmem]
    intro k hk
    obtain ⟨l, hl, rfl⟩ := List.mem_map.mp hk
    exact ⟨l, hl, rfl, fun b hb => keptHas_unkeep l _ b hb⟩

end Sys2Proof.Proofs
end

section
/-! PROOFS. The ledger's pages, LEDGER_SEAL and snapshot rings (05 R146; 13 R357-R361; 15 R393, R394). -/

namespace Sys2Proof.Proofs

open Sys2Proof Sys2Proof.Machine Sys2Proof.Laws

/-! ## Entries that arrive -/

/-- Numbering entries keeps what stands on the open page before them. -/
theorem numberEntries_prefix (l : List LedgerEvent) (s : State) : ∃ more, (l.foldl numberEntry s).tr.openPage = s.tr.openPage ++ more := by
  induction l generalizing s with
  | nil => exact ⟨[], by simp⟩
  | cons e l ih =>
    obtain ⟨more, hmore⟩ := ih (numberEntry s e)
    refine ⟨⟨s.tr.nextSeq, timeNow s, !s.tr.timeSet, e⟩ :: more, ?_⟩
    rw [List.foldl_cons, hmore]
    show (s.tr.openPage ++ [_]) ++ more = _
    rw [List.append_assoc]
    rfl

theorem mem_snapped {s : State} {x : LedgerEntry} (h : x ∈ s.tr.openPage) : x ∈ (snapped s).tr.openPage := by
  obtain ⟨more, hmore⟩ := numberEntries_prefix ((snapAll s).take (234 - s.tr.openPage.length)) (snapMark s)
  rw [snapped, hmore]
  exact List.mem_append_left _ h

/-- The entry that an event becomes when MD numbers it (13 R357). -/
def entryNow (s : State) (e : LedgerEvent) : LedgerEntry := ⟨s.tr.nextSeq, timeNow s, !s.tr.timeSet, e⟩

theorem numberEntry_page (s : State) (e : LedgerEvent) :
    (numberEntry s e).tr.openPage = s.tr.openPage ++ [entryNow s e] ∧ (numberEntry s e).tr.nextSeq = s.tr.nextSeq + 1 ∧
    (numberEntry s e).flash.nextPage = s.flash.nextPage ∧ (numberEntry s e).tr.inTransit = s.tr.inTransit :=
  ⟨rfl, rfl, rfl, rfl⟩

theorem Paged.transit {s t : State} (h : Paged s t) : t.tr.inTransit = s.tr.inTransit ∧ t.gz.jobs = s.gz.jobs := by
  obtain ⟨_, _, _, _, _, _, _, rfl, -, -⟩ := h
  exact ⟨rfl, rfl⟩

/-- An entry takes the next SEQ; on a full page it is sealed with it (13 R357, R360). -/
theorem appendEntry_page (e : LedgerEvent) (s : State) :
    (s.tr.openPage.length + 1 < 234 → (appendEntry e s).tr.nextSeq = s.tr.nextSeq + 1 ∧
      (appendEntry e s).tr.openPage = s.tr.openPage ++ [entryNow s e]) ∧
    (234 ≤ s.tr.openPage.length + 1 → ∃ p ∈ (appendEntry e s).tr.held, p.num = s.flash.nextPage ∧ p.reason = 0 ∧
      entryNow s e ∈ p.entries) := by
  have hlen : (numberEntry s e).tr.openPage.length = s.tr.openPage.length + 1 := by simp [(numberEntry_page s e).1]
  constructor
  · intro hlt
    rw [appendEntry, if_neg (by rw [hlen]; omega)]
    exact ⟨rfl, rfl⟩
  · intro hge
    rw [appendEntry, if_pos (by rw [hlen]; omega)]
    have hne : (numberEntry s e).tr.openPage ≠ [] := by simp [(numberEntry_page s e).1]
    obtain ⟨-, more, hheld⟩ := sealPage_pages 0 (numberEntry s e) hne
    obtain ⟨-, -, hnum, -, -⟩ := snapped_page (numberEntry s e)
    refine ⟨pageNow 0 (snapped (numberEntry s e)), ?_, hnum, rfl, mem_snapped ?_⟩
    · rw [hheld]
      simp
    · rw [(numberEntry_page s e).1]
      simp

/-- The entry's die counts it, MD takes it out of what is on its way (13 R357). -/
def arrived (die : Die) (x : Nat × LedgerEvent) (s : State) : State :=
  { (if die.val = 12 then s else count s (kernelCore die.val) 0x30 1) with tr := { s.tr with inTransit := s.tr.inTransit.erase x } }

theorem exec_ledgerEntryArrival (die : Die) (s : State) (x : Nat × LedgerEvent) (hidle : Idle s) (hopen : s.tr.ledgerOpen = true)
    (hx : s.tr.inTransit.find? (fun x => x.1 == die.val) = some x) :
    exec (.ledgerEntryArrival die) s = .next (passed (appendEntry x.2 (arrived die x s))) := by
  have hgz : (arrived die x s).gz = s.gz := by
    unfold arrived
    split <;> rfl
  have hjobs := (appendEntry_paged x.2 (arrived die x s)).transit.2
  show execLedgerEntryArrival die s = _
  unfold execLedgerEntryArrival
  rw [if_neg (by simp [hopen]), hx]
  exact congrArg Host.Outcome.next (settle_idle (appendEntry x.2 (arrived die x s)) (hjobs.trans (by rw [hgz]; exact hidle)))

theorem arrived_frame (die : Die) (x : Nat × LedgerEvent) (s : State) :
    (arrived die x s).tr = { s.tr with inTransit := s.tr.inTransit.erase x } ∧ (arrived die x s).flash = s.flash ∧
    (arrived die x s).now = s.now := by
  unfold arrived
  split <;> exact ⟨rfl, rfl, rfl⟩

theorem entryNow_arrived (die : Die) (x : Nat × LedgerEvent) (s : State) : entryNow (arrived die x s) x.2 = entryNow s x.2 := by
  obtain ⟨htr, -, hnow⟩ := arrived_frame die x s
  unfold entryNow timeNow
  rw [htr, hnow]

/-! ## Sealing and archiving -/

theorem exec_pageSealTimer (s : State) (hidle : Idle s) : exec .pageSealTimer s = .next (passed (sealPage 2 s)) :=
  congrArg Host.Outcome.next (settle_idle (sealPage 2 s) ((sealPage_paged 2 s).transit.2.trans hidle))

/-- The archive as the page and its predecessors stand in it while it has room (13 R361). -/
theorem archivePut_room (p : Page) (s : State) (h : s.flash.archive.length < 122880) :
    archivePut p s = { s with flash := { s.flash with archive := s.flash.archive ++ [p], lastDigest := pageDigest p } } := by
  unfold archivePut
  dsimp only
  rw [if_pos (by rw [List.length_append, List.length_singleton]; omega)]

theorem sealed_idle (num : Nat) (s : State) (h : s.gz.jobs = []) : sealed num s = s := by
  rw [sealed, h]
  rfl

theorem sealed_one (num : Nat) (s : State) (j : Job) (h : s.gz.jobs = [j]) (hp : j.phase = .sealing num) :
    sealed num s = endJob s j.id (done (num % 2 ^ 32)) := by
  rw [sealed, h, List.foldl_cons, List.foldl_nil, if_pos (by rw [hp]; exact beq_self_eq_true _)]

/-- A page whose write fails stays held (13 R358). -/
theorem held_of_failed (e : LedgerEvent) (s : State) (p : Page) (hp : p ∈ s.tr.held) :
    p ∈ (ledgerEv 12 e s).tr.held ∧ (ledgerEv 12 e s).flash.archive = s.flash.archive ∧ (ledgerEv 12 e s).gz.jobs = s.gz.jobs := by
  refine ⟨?_, (ledgerEv_flash 12 e s).1, (ledgerEv_ledgerOnly 12 e s).frame.2.2.2.2.2.2.2.2.2.2.2.2.2.2.2.2.2.2.2.1⟩
  by_cases hopen : s.tr.ledgerOpen = true
  · obtain ⟨_, _, _, _, _, _, new, ht, -, -⟩ := ledgerEv_paged e s hopen
    rw [ht]
    exact List.mem_append_left new hp
  · rw [ledgerEv, if_neg (by simp [hopen])]
    exact hp

/-! ## LEDGER_SEAL -/

theorem gateCount_eq (d : Nat) (taken : Bool) (s : State) : ∃ h, gateCount d taken s = { s with hw := h } := by
  unfold gateCount
  obtain ⟨c, hc⟩ := event_eq (count s (kernelCore d) (if taken then 0x10 else 0x18) 1) (uid 0 d 0) 0x0004 0 1
  exact ⟨_, hc⟩

/-- The state of a LEDGER_SEAL once the gate has counted it: that of its packet but for hardware counts. -/
def sealCounted (s : State) (j : Job) (taken : Bool) : State := gateCount (uDie j.unit) taken (count s j.unit 0x28 1)

theorem sealCounted_eq (s : State) (j : Job) (taken : Bool) : ∃ h, sealCounted s j taken = { s with hw := h } := by
  obtain ⟨h, hh⟩ := gateCount_eq (uDie j.unit) taken (count s j.unit 0x28 1)
  exact ⟨h, hh⟩

theorem runLedgerSeal_full (j : Job) (s : State) (h : ledgerRoom s = false) :
    runLedgerSeal j s = ends (sealCounted s j false) (fails BUSY_DEFER 4) := by
  have hroom : ledgerRoom (count s j.unit 0x28 1) = false := h
  unfold runLedgerSeal
  dsimp only
  rw [hroom]
  rfl

/-- The number of the last archived page (13 R360). -/
def lastPage (s : State) : Nat := match s.flash.archive.getLast? with | some p => p.num | none => 0

theorem runLedgerSeal_room (j : Job) (s : State) (h : ledgerRoom s = true) :
    runLedgerSeal j s =
      if (sealNow (sealCounted s j true)).flash.nextPage = s.flash.nextPage then
        ends (sealNow (sealCounted s j true)) (done (lastPage s % 2 ^ 32))
      else waits (sealNow (sealCounted s j true)) (.sealing ((sealNow (sealCounted s j true)).flash.nextPage - 1)) := by
  have hroom : ledgerRoom (count s j.unit 0x28 1) = true := h
  unfold runLedgerSeal
  dsimp only
  rw [hroom]
  rfl

/-- Snapshot entries either fill a page, which is held, or stand on the open page. -/
theorem appendAll_progress (es : List LedgerEvent) (s : State) (h : s.tr.openPage ≠ [] ∨ es ≠ []) :
    s.flash.nextPage < (appendAll es s).flash.nextPage ∨ (appendAll es s).tr.openPage ≠ [] := by
  induction es generalizing s with
  | nil => exact .inr (h.resolve_right (by simp))
  | cons e es ih =>
    have hne : (numberEntry s e).tr.openPage ≠ [] := by simp [(numberEntry_page s e).1]
    rw [appendAll]
    split
    · obtain ⟨-, -, -, -, -, -, -, hle, -, -⟩ := (appendAll_paged es (closePage 0 (numberEntry s e))).frame
      obtain ⟨hnext, -⟩ := closePage_nextPage 0 (numberEntry s e) hne
      rw [hnext] at hle
      exact .inl hle
    · exact ih (numberEntry s e) (.inl hne)

theorem closePage_empties (reason : Nat) (s : State) : (closePage reason s).tr.openPage = [] := by
  by_cases h : s.tr.openPage = []
  · rw [closePage_empty reason s h, h]
  · rw [closePage_eq reason s h]

/-- With nothing on the page and nothing to snapshot, sealing does nothing but note that. -/
theorem sealNow_nothing (s : State) (h : s.tr.openPage = []) (hs : snapAll s = []) : sealNow s = snapMark s := by
  have hmark : (snapMark s).tr.openPage = [] := h
  unfold sealNow
  dsimp only
  rw [if_pos (by rw [h]; rfl), hs, appendAll, closePage_empty 1 _ hmark, closePage_empty 1 _ hmark]

theorem sealNow_paged (s : State) : Paged s (sealNow s) := by
  unfold sealNow
  dsimp only
  split
  · exact (((snapMark_paged s).trans (appendAll_paged _ _)).trans (closePage_paged 1 _)).trans (closePage_paged 1 _)
  · exact (sealPage_paged 1 s).trans (closePage_paged 1 _)

/-- With something to seal, every page it opened is held. -/
theorem sealNow_something (s : State) (h : s.tr.openPage ≠ [] ∨ snapAll s ≠ []) :
    (sealNow s).tr.openPage = [] ∧ s.flash.nextPage < (sealNow s).flash.nextPage := by
  unfold sealNow
  dsimp only
  refine ⟨closePage_empties 1 _, ?_⟩
  split
  · next hempty =>
    have hnil : s.tr.openPage = [] := by simpa using hempty
    have hsnap : snapAll s ≠ [] := h.resolve_left (fun hne => hne hnil)
    obtain ⟨-, -, -, -, -, -, -, hle, -, -⟩ :=
      (closePage_paged 1 (closePage 1 (appendAll (snapAll s) (snapMark s)))).frame
    obtain hmore | hne := appendAll_progress (snapAll s) (snapMark s) (.inr hsnap)
    · obtain ⟨-, -, -, -, -, -, -, hle', -, -⟩ := (closePage_paged 1 (appendAll (snapAll s) (snapMark s))).frame
      exact Nat.lt_of_lt_of_le hmore (Nat.le_trans hle' hle)
    · obtain ⟨hnext, -⟩ := closePage_nextPage 1 _ hne
      obtain ⟨-, -, -, -, -, -, -, hle', -, -⟩ := (appendAll_paged (snapAll s) (snapMark s)).frame
      have hmark : (snapMark s).flash.nextPage = s.flash.nextPage := rfl
      rw [hmark] at hle'
      omega
  · next hsome =>
    obtain ⟨hlt, -⟩ := sealPage_pages 1 s (fun hnil => hsome (by rw [hnil]; rfl))
    obtain ⟨-, -, -, -, -, -, -, hle, -, -⟩ := (closePage_paged 1 (sealPage 1 s)).frame
    exact Nat.lt_of_lt_of_le hlt hle

theorem Paged.calm {s t : State} (h : Paged s t) {js : List Job} (hc : Calm s js) : Calm t js := by
  obtain ⟨_, _, _, _, _, _, _, rfl, -, -⟩ := h
  exact hc

theorem Paged.sameSlot {s t : State} (h : Paged s t) (key : Nat) : SameSlot s t key := by
  obtain ⟨_, _, _, _, _, _, _, rfl, -, -⟩ := h
  exact .of_rings rfl key

theorem exec_ledgerSeal (h : Hdr) (s : State) :
    exec (.ledgerSeal h) s = .next (issue (preCore h s) runLedgerSeal (.ledgerSeal h) s) := rfl

section
variable {h : Hdr} {s : State} (hc : Calm s []) (ha : Accepts s (preCore h s) (.ledgerSeal h))
include hc ha

theorem ledgerSeal_full (hroom : ledgerRoom s = false) :
    ∃ t, exec (.ledgerSeal h) s = .next t ∧ Answered s t (jobFor s (preCore h s) (.ledgerSeal h)) (fails BUSY_DEFER 4) ∧
      t.tr.openPage = s.tr.openPage := by
  obtain ⟨hi, hm, hw⟩ := hc
  have hb := calm_begun (.ledgerSeal h) hi hm hw
  obtain ⟨hw', hcount⟩ := sealCounted_eq (begun s (.ledgerSeal h)) (jobFor s (preCore h s) (.ledgerSeal h)) false
  have hrun := runLedgerSeal_full (jobFor s (preCore h s) (.ledgerSeal h)) (begun s (.ledgerSeal h))
    (by rw [ledgerRoom, (begun_frame s _).2.2.2.2.2.2.2.2.2.2.2.2.2.2.1]; exact hroom)
  have hg : Calm (sealCounted (begun s (.ledgerSeal h)) (jobFor s (preCore h s) (.ledgerSeal h)) false) [] := by
    rw [hcount]
    exact hb
  have htr : (sealCounted (begun s (.ledgerSeal h)) (jobFor s (preCore h s) (.ledgerSeal h)) false).tr = (begun s (.ledgerSeal h)).tr := by
    rw [hcount]
  refine ⟨_, exec_of_run_ends (exec_ledgerSeal h s) ha hrun,
    answered_replied hg (by rw [hcount]; exact .of_rings rfl _) (by rw [hcount]; simp), ?_⟩
  rw [replied_of_idle hg rfl]
  show (finish _ _ _).tr.openPage = _
  rw [(finish_calm _ _ _ hg.2.2 rfl).2.1, htr]
  exact congrArg TrustSt.openPage (begun_frame s (.ledgerSeal h)).2.2.2.2.2.2.2.2.2.2.2.2.2.2.1

omit ha in
/-- What a LEDGER_SEAL that has room seals, in the state that its packet and the gate's count leave. -/
theorem ledgerSeal_room (hroom : ledgerRoom s = true) :
    ∃ g : State, Calm g [] ∧ SameSlot (begun s (.ledgerSeal h)) g (jobFor s (preCore h s) (.ledgerSeal h)).ring ∧ g.now = s.now ∧
      g.tr = s.tr ∧ g.flash = s.flash ∧ snapAll g = snapAll s ∧
      runLedgerSeal (jobFor s (preCore h s) (.ledgerSeal h)) (begun s (.ledgerSeal h)) =
        if (sealNow g).flash.nextPage = s.flash.nextPage then ends (sealNow g) (done (lastPage s % 2 ^ 32))
        else waits (sealNow g) (.sealing ((sealNow g).flash.nextPage - 1)) := by
  obtain ⟨hi, hm, hw⟩ := hc
  have hb := calm_begun (.ledgerSeal h) hi hm hw
  obtain ⟨hpend, hnow, -, -, -, -, -, -, -, -, -, -, -, -, htr, -, hflash, -, hctxs, -⟩ := begun_frame s (.ledgerSeal h)
  obtain ⟨hw', hcount⟩ := sealCounted_eq (begun s (.ledgerSeal h)) (jobFor s (preCore h s) (.ledgerSeal h)) true
  have hrun := runLedgerSeal_room (jobFor s (preCore h s) (.ledgerSeal h)) (begun s (.ledgerSeal h))
    (by rw [ledgerRoom, htr]; exact hroom)
  have hlast : lastPage (begun s (.ledgerSeal h)) = lastPage s := by rw [lastPage, hflash]; rfl
  rw [hlast, hflash] at hrun
  refine ⟨sealCounted (begun s (.ledgerSeal h)) (jobFor s (preCore h s) (.ledgerSeal h)) true, ?_, ?_, ?_, ?_, ?_, ?_, hrun⟩
  · rw [hcount]
    exact hb
  · rw [hcount]
    exact .of_rings rfl _
  · rw [hcount]
    exact hnow
  · rw [hcount]
    exact htr
  · rw [hcount]
    exact hflash
  · rw [hcount, snapAll, snapAll]
    show ((begun s (.ledgerSeal h)).gz.ctxs.filter _ |>.map _).flatten = _
    rw [hctxs]

theorem ledgerSeal_nothing (hroom : ledgerRoom s = true) (hpage : s.tr.openPage = []) (hsnap : snapAll s = []) :
    ∃ t, exec (.ledgerSeal h) s = .next t ∧ Answered s t (jobFor s (preCore h s) (.ledgerSeal h)) (done (lastPage s % 2 ^ 32)) := by
  obtain ⟨g, hg, hslot, hnow, htr, hflash, hsame, hrun⟩ := ledgerSeal_room hc hroom
  have hseal : sealNow g = snapMark g := sealNow_nothing g (by rw [htr, hpage]) (hsame.trans hsnap)
  have hnext : (snapMark g).flash.nextPage = s.flash.nextPage := congrArg FlashSt.nextPage hflash
  rw [hseal, if_pos hnext] at hrun
  have hmark := snapMark_paged g
  exact ⟨_, exec_of_run_ends (exec_ledgerSeal h s) ha hrun,
    answered_replied (hmark.calm hg) (hslot.trans (hmark.sameSlot _)) ((hmark.frame.2.2.2.1).trans hnow)⟩

theorem ledgerSeal_something (hroom : ledgerRoom s = true) (hsome : s.tr.openPage ≠ [] ∨ snapAll s ≠ []) :
    ∃ t, exec (.ledgerSeal h) s = .next t ∧ t.tr.openPage = [] ∧ s.flash.nextPage < t.flash.nextPage ∧
      (jobOf t (jobFor s (preCore h s) (.ledgerSeal h)).id).map (·.phase) = some (.sealing (t.flash.nextPage - 1)) := by
  obtain ⟨g, hg, -, hnow, htr, hflash, hsame, hrun⟩ := ledgerSeal_room hc hroom
  obtain ⟨hempty, hnext⟩ := sealNow_something g (by rw [htr, hsame]; exact hsome)
  have hidle : Idle (sealNow g) := (sealNow_paged g).transit.2.trans hg.1
  have hnext' : s.flash.nextPage < (sealNow g).flash.nextPage := by rwa [← hflash]
  rw [if_neg (by omega)] at hrun
  have hjobs := jobs_park (sealNow g) (jobFor s (preCore h s) (.ledgerSeal h)) (.sealing ((sealNow g).flash.nextPage - 1)) hidle
  refine ⟨_, exec_of_run_waits (exec_ledgerSeal h s) ha hrun, ?_⟩
  rw [settle_quiet _ (quiet_one hjobs rfl)]
  refine ⟨hempty, hnext', ?_⟩
  show (jobOf (park _ _ _) _).map _ = _
  rw [show (jobFor s (preCore h s) (.ledgerSeal h)).id = { jobFor s (preCore h s) (.ledgerSeal h) with
    phase := .sealing ((sealNow g).flash.nextPage - 1), since := (sealNow g).now }.id from rfl, jobOf_one hjobs]
  rfl

end

/-! ## Snapshot rings -/

/-- The place of a ring's next record (15 R393). -/
def placeOf (r : SnapRing) : Nat := r.base + recordBytes r.units.length * (r.t % (2 ^ r.log2 / recordBytes r.units.length))

/-- The next record of a ring and its number stand in memory (15 R393). -/
def recorded (r : SnapRing) (s : State) : State :=
  storeNow (storeNow s (reader r.ctx) (placeOf r) (snapRecord s r)) (reader r.ctx) r.tailAddr (leBytes 8 (r.t + 1))

/-- A record whose place is free is written, and then its number into the TAIL word (15 R393). -/
theorem snapOnce_written (n : Nat) (r : SnapRing) (s : State) (hroom : poisonIn s r.headAddr 8 = none ∧
      r.t - readNat s (kernelCore 12) r.headAddr 8 < 2 ^ r.log2 / recordBytes r.units.length)
    (htail : poisonIn s (r.tailAddr / 32 * 32) 32 = none) :
    snapOnce n r s = { recorded r s with snap := amPut (recorded r s).snap n { r with t := r.t + 1, skipped := 0 } } := by
  unfold snapOnce
  dsimp only
  rw [if_pos (by simp [hroom.1, hroom.2]), sigStore, if_neg]
  · rfl
  · rw [poisonIn_cleaner (storeNow_cleaner ..) _ _ htail]
    simp

theorem snapOnce_skipped (n : Nat) (r : SnapRing) (s : State) (hroom : ¬(poisonIn s r.headAddr 8 = none ∧
      r.t - readNat s (kernelCore 12) r.headAddr 8 < 2 ^ r.log2 / recordBytes r.units.length)) :
    snapOnce n r s = { s with snap := amPut s.snap n { r with skipped := r.skipped + 1 } } := by
  unfold snapOnce
  dsimp only
  rw [if_neg]
  intro h
  refine hroom ?_
  simpa using h

/-- The word at an address takes the number stored there. -/
theorem word_storeNow (s : State) (w : Who) (a v : Nat) (h : Memory.wf s.mem.cells = true) :
    word (storeNow s w a (leBytes 8 v)) a = v % 2 ^ 64 := by
  have hb := bytesAt_storeNow s w a (leBytes 8 v) h
  rw [leBytes_length] at hb
  rw [word, hb, leNat_leBytes]
  norm_num

/-- Bytes that a store does not meet read as before. -/
theorem bytesAt_storeNow_apart (s : State) (w : Who) (a b n : Nat) (bs : List Byte) (h : Memory.wf s.mem.cells = true)
    (hapart : b + n ≤ a ∨ a + bs.length ≤ b) : bytesAt (storeNow s w a bs) b n = bytesAt s b n := by
  refine bytesAt_congr fun x hx hlt => ?_
  rw [byteAt_storeNow s w a bs x h, if_neg (by omega)]

/-- What the first of two apart stores writes stands after the second, and nothing else changes. -/
theorem two_stores (s : State) (w : Who) (a b v : Nat) (bs : List Byte) (h : Memory.wf s.mem.cells = true)
    (hapart : a + bs.length ≤ b ∨ b + 8 ≤ a) :
    let t := storeNow (storeNow s w a bs) w b (leBytes 8 v)
    bytesAt t a bs.length = bs ∧ word t b = v % 2 ^ 64 ∧ MemSame s t [(a, bs.length), (b, 8)] := by
  have h1 := storeNow_wf s w a bs h
  refine ⟨?_, word_storeNow _ w b v h1, fun x hx => ?_⟩
  · rw [bytesAt_storeNow_apart _ w b a bs.length (leBytes 8 v) h1 (by rw [leBytes_length]; omega), bytesAt_storeNow s w a bs h]
  · have ha := hx (a, bs.length) (by simp)
    have hb := hx (b, 8) (by simp)
    rw [byteAt_storeNow _ w b _ x h1, leBytes_length, if_neg hb, byteAt_storeNow s w a bs x h, if_neg ha]

/-- Settles O54: the ledger's commands through their page lemmas, SNAPSHOT_READ as its two stores. -/
theorem ledgerPagesAndSnapshots : Obligations.LedgerPagesAndSnapshots := by
  unfold Obligations.LedgerPagesAndSnapshots
  refine ⟨⟨?arrival, ?timer, ?archive, ?empty, ?sealing⟩, ?snapshot⟩
  case arrival =>
    intro die s hidle e
    refine ⟨fun hnone => ?_, fun x hopen hx => ?_⟩
    · show execLedgerEntryArrival die s = _
      unfold execLedgerEntryArrival
      obtain h | h := hnone
      · rw [if_pos (by simp [h]), settle_idle s hidle]
      · rw [h]
        split
        · rw [settle_idle s hidle]
        · rw [settle_idle s hidle]
    · obtain ⟨htr, hflash, hnow⟩ := arrived_frame die x s
      obtain ⟨hroom, hfull⟩ := appendEntry_page x.2 (arrived die x s)
      have htransit := (appendEntry_paged x.2 (arrived die x s)).transit.1
      rw [entryNow_arrived, htr] at hroom hfull
      rw [htr] at htransit
      rw [hflash] at hfull
      exact ⟨_, exec_ledgerEntryArrival die s x hidle hopen hx, htransit, hroom, hfull⟩
  case timer =>
    intro s hidle
    have hx := exec_pageSealTimer s hidle
    refine ⟨fun hnil => ?_, fun hne => ?_⟩
    · rw [hx, sealPage, if_pos (by rw [hnil]; rfl)]
    · obtain ⟨hlt, more, hheld⟩ := sealPage_pages 2 s hne
      obtain ⟨hev, hsame, hnum, hboots, hlast⟩ := snapped_page s
      refine ⟨_, hx, hlt, pageNow 2 (snapped s), ?_, hnum, rfl, hboots, hev, ?_⟩
      · show _ ∈ (sealPage 2 s).tr.held
        rw [hheld]
        simp
      · show (match (snapped s).tr.held.getLast? with | some p => pageDigest p | none => (snapped s).flash.lastDigest) = _
        rw [hsame, hlast] <;> rfl
  case archive =>
    intro ok s p rest hheld hroom e
    have hput := archivePut_room p { s with tr := { s.tr with held := rest } } hroom
    have hexec : ok = true → e = .next (settle (sealed p.num { s with
        tr := { s.tr with held := rest }
        flash := { s.flash with archive := s.flash.archive ++ [p], lastDigest := pageDigest p } })) := by
      intro hok
      show execPageArchive ok s = _
      unfold execPageArchive
      rw [hheld]
      dsimp only
      rw [if_pos hok, hput]
    refine ⟨fun hok hidle => ?_, fun hok j hc hp => ?_, fun hok hidle => ?_⟩
    · refine ⟨_, hexec hok, ?_⟩
      rw [sealed_idle _ _ (by exact hidle), settle_idle _ (by exact hidle)]
      exact ⟨rfl, rfl, rfl⟩
    · refine ⟨_, hexec hok, ?_⟩
      have hj := hc.1
      rw [sealed_one p.num _ j (by exact hj) hp]
      refine ⟨answered_endJob hc (.of_rings rfl _) rfl, ?_⟩
      rw [settle_ended _ _ _ (jobs_endJob_one _ j _ (by exact hj)) rfl]
      obtain ⟨un, hl⟩ := leaving_eq (endJob { s with
        tr := { s.tr with held := rest }
        flash := { s.flash with archive := s.flash.archive ++ [p], lastDigest := pageDigest p } } j.id (done (p.num % 2 ^ 32)))
        { j with phase := .ending (done (p.num % 2 ^ 32)) } (done (p.num % 2 ^ 32))
      rw [hl]
      show (finish _ _ _).flash.archive = _
      rw [(finish_calm _ _ _ (by exact hc.2.2) rfl).2.2.1]
      rfl
    · obtain ⟨hmem, harch, hjobs⟩ := held_of_failed (mkEv (kernelOrigin 12) 0x11 p.num 2 0 0 0 (lastSeq s)) s p (by rw [hheld]; simp)
      refine ⟨passed (ledger 12 (kernelOrigin 12) 0x11 p.num 2 0 0 0 (lastSeq s) s), ?_, hmem, harch⟩
      show execPageArchive ok s = _
      unfold execPageArchive
      rw [hheld]
      dsimp only
      rw [if_neg (by simp [hok]), settle_idle _ (by exact hjobs.trans hidle)]
  case empty =>
    intro ok s hidle hheld
    show execPageArchive ok s = _
    unfold execPageArchive
    rw [hheld]
    exact congrArg Host.Outcome.next (settle_idle s hidle)
  case sealing =>
    intro h s i pre j hc ha
    exact ⟨ledgerSeal_full hc ha, fun hroom => ⟨ledgerSeal_nothing hc ha hroom, ledgerSeal_something hc ha hroom⟩⟩
  case snapshot =>
    intro n s hc e
    obtain ⟨hidle, hm, hw⟩ := hc
    refine ⟨fun hnone => ?_, ?_⟩
    · show execSnapshotRead n s = _
      unfold execSnapshotRead
      rw [hnone]
      exact congrArg Host.Outcome.next (settle_idle s hidle)
    · intro r hr size places a rec' room
      have hx : e = .next (settle (snapOnce n.val r s)) := by
        show execSnapshotRead n s = _
        unfold execSnapshotRead
        rw [hr]
      refine ⟨fun hroom htail hapart => ⟨_, hx, ?_⟩, fun hroom => ⟨_, hx, ?_⟩⟩
      · have hstores := two_stores s (reader r.ctx) a r.tailAddr (r.t + 1) rec' hm
          (hapart (a, rec'.length) (by simp) (r.tailAddr, 8) (by simp))
        have hcalm : Calm (recorded r s) [] := calm_storeNow (reader r.ctx) r.tailAddr (leBytes 8 (r.t + 1))
          (calm_storeNow (reader r.ctx) a rec' ⟨hidle, hm, hw⟩)
        have hrec : recorded r s = storeNow (storeNow s (reader r.ctx) a rec') (reader r.ctx) r.tailAddr (leBytes 8 (r.t + 1)) := rfl
        rw [snapOnce_written n.val r s hroom htail, settle_idle _ (by exact hcalm.1)]
        rw [← hrec] at hstores
        generalize recorded r s = t at hstores ⊢
        obtain ⟨hb, hword, hsame⟩ := hstores
        refine ⟨?_, ?_, (amFind_amPut _ _ _ _).trans (if_pos rfl), MemSame.of_mem hsame rfl⟩
        · exact Eq.trans (bytesAt_of_mem (s := t) (by rfl) a _) hb
        · exact Eq.trans (word_of_mem (s := t) (by rfl) _) hword
      · rw [snapOnce_skipped n.val r s hroom, settle_idle _ (by exact hidle)]
        exact ⟨(amFind_amPut _ _ _ _).trans (if_pos rfl), fun x _ => rfl⟩

end Sys2Proof.Proofs
end

section
/-! PROOFS. The management port's requests, addresses and time (13 R350-R352, R363). -/

namespace Sys2Proof.Proofs

open Sys2Proof Sys2Proof.Machine Sys2Proof.Laws

/-- What every management command leaves alone (13 R350). -/
def MgmtQuiet (s t : State) : Prop := t.mem = s.mem ∧ t.gz.rings = s.gz.rings ∧ t.hw.items = s.hw.items

/-- A settled answer of the management port. -/
theorem settle_answerMgmt (r : MgmtReply) (s : State) (h : Idle s) : settle (answerMgmt r s) = passed (answerMgmt r s) :=
  settle_idle (answerMgmt r s) h

theorem serving_open {s : State} (h : serving s = true) : s.tr.ledgerOpen = true := by
  simp only [serving, kernelRuns, Bool.and_eq_true] at h
  exact h.1.2

/-! ## Attestation and identity -/

/-- The bytes between a prefix and a rest. -/
theorem sub_append_mid (pre x rest : List Byte) (off n : Nat) (hp : pre.length = off) (hx : x.length = n) :
    sub (pre ++ (x ++ rest)) off n = x := by
  rw [sub, ← hp, List.drop_left, ← hx, List.take_left]
  simp

/-- The nonce stands in the report at 8 (13 R349). -/
theorem sub_report_nonce (s : State) (nonce : List Byte) : sub (report s nonce) 8 32 = sub nonce 0 32 := by
  obtain ⟨rest, hrest⟩ : ∃ rest, report s nonce =
      (leBytes 4 0x5A6F4131 ++ leBytes 2 1 ++ rsvd 2) ++ (sub nonce 0 32 ++ rest) :=
    ⟨_, by simp only [report, List.append_assoc]; rfl⟩
  rw [hrest]
  exact sub_append_mid _ _ _ 8 32 (by simp [rsvd]) (sub_length _ _ _)

theorem exec_attest (nonce : List Byte) (s : State) : exec (.attest nonce) s = .next (settle (
    if !serving s then s
    else if 100 ≤ (s.tr.attests.filter (fun t => s.now - t < 1000000000)).length then answerMgmt .denied s
    else answerMgmt (.report (report s nonce))
      { s with tr := { s.tr with attests := s.now :: s.tr.attests.filter (fun t => s.now - t < 1000000000) } })) := rfl

/-! ## Orders -/

/-- A store of no bytes changes no byte. -/
theorem byteAt_storeNow_nil (s : State) (w : Who) (a x : Nat) (h : Memory.wf s.mem.cells = true) :
    byteAt (storeNow s w a []) x = byteAt s x := by
  rw [byteAt_storeNow s w a [] x h, if_neg (by simp)]

/-- Who places an operator's packet (13 R350). -/
def orderWho (s : State) : Who := ⟨kernelCore 12, kernelOrigin 12, 0, s.gz.nextJob, 1⟩

theorem exec_order_placed (session : Nat) (packet : List Byte) (s : State) (r' : Machine.Ring) (hon : serving s = true)
    (hop : isOperator s session = true) (hring : ringExists s 1 = true) (h16 : packet.length % 16 = 0) (h32 : 32 ≤ packet.length)
    (hlt : packet.length < ringSize (ringOf s 1))
    (hd : doorbell (((ringOf s 1).tail + packet.length) % ringSize (ringOf s 1)) (ringOf s 1) = some r')
    (hfit : (ringOf s 1).tail + packet.length ≤ ringSize (ringOf s 1)) :
    exec (.order session packet) s = .next (settle (answerMgmt .accepted (modRing
      (storeNow (storeNow s (orderWho s) ((ringOf s 1).cmdBase + (ringOf s 1).tail) packet) (orderWho s) (ringOf s 1).cmdBase [])
      1 (fun _ => r')))) := by
  have hmin : min packet.length (ringSize (ringOf s 1) - (ringOf s 1).tail) = packet.length := by omega
  show execOrder session packet s = _
  unfold execOrder
  dsimp only
  rw [if_neg (by simp [hon]), if_neg (by simp [hop, hring, h16]; omega), hd]
  dsimp only
  rw [hmin, List.take_length, List.drop_length]
  rfl

/-- A packet placed on ring 1 stands in its bytes and nothing else changes but the ring (13 R350). -/
theorem order_placed (packet : List Byte) (s : State) (r' : Machine.Ring) (hc : Calm s []) :
    let a := (ringOf s 1).cmdBase + (ringOf s 1).tail
    let u := modRing (storeNow (storeNow s (orderWho s) a packet) (orderWho s) (ringOf s 1).cmdBase []) 1 (fun _ => r')
    Idle u ∧ u.tr = s.tr ∧ ringOf u 1 = r' ∧ bytesAt u a packet.length = packet ∧ MemSame s u [(a, packet.length)] := by
  intro a u
  have hcalm := calm_storeNow (orderWho s) (ringOf s 1).cmdBase [] (calm_storeNow (orderWho s) a packet hc)
  have hm1 := storeNow_wf s (orderWho s) a packet hc.2.1
  have hsame : ∀ x, byteAt u x = byteAt (storeNow s (orderWho s) a packet) x :=
    fun x => (byteAt_of_mem (by rfl) x).trans (byteAt_storeNow_nil _ (orderWho s) (ringOf s 1).cmdBase x hm1)
  have htr : u.tr = s.tr := by
    show (storeNow (storeNow s _ _ _) _ _ _).tr = _
    simp
  refine ⟨hcalm.1, htr, ?_, ?_, fun x hx => ?_⟩
  · show ringOf (modRing _ 1 _) 1 = _
    rw [ringOf_modRing, if_pos rfl]
  · rw [bytesAt_congr fun x _ _ => hsame x, bytesAt_storeNow s (orderWho s) a packet hc.2.1]
  · rw [hsame, byteAt_storeNow s (orderWho s) a packet x hc.2.1, if_neg (hx (a, packet.length) (by simp))]

/-- A TAIL that the ring takes. -/
theorem exec_order_denied (session : Nat) (packet : List Byte) (s : State) (hon : serving s = true)
    (h : ¬(isOperator s session = true ∧ ringExists s 1 = true ∧ packet.length % 16 = 0 ∧ 32 ≤ packet.length ∧
        packet.length < ringSize (ringOf s 1)) ∨
      doorbell (((ringOf s 1).tail + packet.length) % ringSize (ringOf s 1)) (ringOf s 1) = none) :
    exec (.order session packet) s = .next (settle (answerMgmt .denied s)) := by
  show execOrder session packet s = _
  unfold execOrder
  dsimp only
  rw [if_neg (by simp [hon])]
  split
  · rfl
  · next hfit =>
    have hfits : isOperator s session = true ∧ ringExists s 1 = true ∧ packet.length % 16 = 0 ∧ 32 ≤ packet.length ∧
        packet.length < ringSize (ringOf s 1) := by
      simpa [and_assoc] using hfit
    rw [h.resolve_left (fun hn => hn hfits)]

/-! ## Anchors -/

theorem Paged.mgmt {s t : State} (h : Paged s t) : t.tr.replies = s.tr.replies ∧ t.flash.anchors = s.flash.anchors ∧
    t.gz.jobs = s.gz.jobs ∧ MgmtQuiet s t ∧ t.tr.sessions = s.tr.sessions ∧ t.tr.lastSync = s.tr.lastSync ∧
    t.tr.timePtp = s.tr.timePtp ∧ t.tr.timeSet = s.tr.timeSet ∧ timeNow t = timeNow s := by
  obtain ⟨_, _, _, _, _, _, _, rfl, -, -⟩ := h
  exact ⟨rfl, rfl, rfl, ⟨rfl, rfl, rfl⟩, rfl, rfl, rfl, rfl, rfl⟩

/-! ## Sessions -/

/-- A session opened under a number replaces the one under it and no other (13 R350). -/
theorem isOperator_opened (l : List Session) (n k : Nat) (good : Bool) :
    (l.filter (fun x => x.id != n) ++ [(⟨n, good⟩ : Session)]).any (fun x => x.id == k && x.operator) =
      if k = n then good else l.any (fun x => x.id == k && x.operator) := by
  rw [List.any_append, List.any_filter]
  by_cases hk : k = n
  · subst hk
    rw [if_pos rfl]
    have hnone : l.any (fun x => x.id != k && (x.id == k && x.operator)) = false := by
      rw [List.any_eq_false]
      intro x _
      by_cases hx : x.id = k <;> simp [hx]
    rw [hnone]
    simp
  · rw [if_neg hk]
    have hsame : ∀ x : Session, (x.id != n && (x.id == k && x.operator)) = (x.id == k && x.operator) := by
      intro x
      by_cases hx : x.id = k
      · simp [hx, hk]
      · simp [hx]
    simp only [hsame, List.any_cons, List.any_nil, Bool.or_false]
    rw [show (n == k) = false by simpa using fun h => hk h.symm]
    simp

/-! ## The obligation -/

/-- Settles O57: each command is the branch of its guard, settled with nothing in flight. -/
theorem managementAnswers : Obligations.ManagementAnswers := by
  intro s hc on gives quiet
  obtain ⟨hidle, hm, hw⟩ := hc
  have off : ¬on → serving s = false := fun h => by simpa [on] using h
  have answered : ∀ (e : Host.Outcome State Fault Refusal) (r : MgmtReply) (u : State) (P : State → Prop), Idle u →
      u.tr.replies = s.tr.replies → e = .next (settle (answerMgmt r u)) → P (passed (answerMgmt r u)) → gives e r P := by
    intro e r u P hu htr he hP
    refine ⟨_, he.trans (congrArg _ (settle_answerMgmt r u hu)), ?_, hP⟩
    show u.tr.replies ++ [r] = _
    rw [htr]
  refine ⟨?attest, ?identity, ?read, ?order, ?anchors, ?opens, ?idles, ?ptp, ?router, ?dhcp, ?uart⟩
  case attest =>
    intro nonce e recent
    have he : e = _ := exec_attest nonce s
    refine ⟨fun hoff => ?_, fun hon hmany => ?_, fun hon hfew => ⟨?_, sub_report_nonce s nonce⟩⟩
    · rw [he, if_pos (by simp [off hoff]), settle_idle s hidle]
    · refine answered e _ s _ hidle rfl ?_ ⟨rfl, rfl, rfl⟩
      rw [he, if_neg (by simp [show serving s = true from hon]), if_pos (by exact hmany)]
    · refine answered e _ { s with tr := { s.tr with attests := s.now :: recent } } _ hidle rfl ?_ ⟨⟨rfl, rfl, rfl⟩, rfl⟩
      rw [he, if_neg (by simp [show serving s = true from hon]), if_neg (by exact Nat.not_le.mpr hfew)]
  case identity =>
    have he : exec .identity s = .next (settle (if serving s then
      answerMgmt (.identity (identityRecord s) (certificate s) (addresses s)) s else s)) := rfl
    refine ⟨fun hoff => ?_, fun hon => ?_⟩
    · rw [he, if_neg hoff, settle_idle s hidle]
    · exact answered _ _ s _ hidle rfl (by rw [he, if_pos (by exact hon)]) ⟨rfl, rfl, rfl⟩
  case read =>
    intro n e
    have he : ∀ x, s.flash.archive.find? (fun p => p.num == n) = x → on → e = .next (settle (match x with
        | none => answerMgmt (.pages []) s
        | some p => answerMgmt (.pages [p]) { s with flash := { s.flash with readTo := max s.flash.readTo (n + 1) } })) := by
      intro x hx hon
      show execLedgerRead n s = _
      unfold execLedgerRead
      rw [if_neg (by simp [show serving s = true from hon]), hx] <;> cases x <;> rfl
    refine ⟨fun hoff => ?_, fun hon hnone => ?_, fun p hon hp => ?_⟩
    · show execLedgerRead n s = _
      unfold execLedgerRead
      rw [if_pos (by simp [off hoff]), settle_idle s hidle]
    · exact answered e _ s _ hidle rfl (he none hnone hon) ⟨⟨rfl, rfl, rfl⟩, rfl⟩
    · exact answered e _ { s with flash := { s.flash with readTo := max s.flash.readTo (n + 1) } } _ hidle rfl
        (he (some p) hp hon) ⟨⟨rfl, rfl, rfl⟩, rfl⟩
  case order =>
    intro session packet e r n fits d
    refine ⟨fun hoff => ?_, fun hon hnot => ?_, fun r' hon hfits hd hroom => ?_⟩
    · show execOrder session packet s = _
      unfold execOrder
      dsimp only
      rw [if_pos (by simp [off hoff]), settle_idle s hidle]
    · exact answered e _ s _ hidle rfl (exec_order_denied session packet s hon hnot) ⟨rfl, rfl, rfl⟩
    · obtain ⟨hop, hring, h16, h32, hlt⟩ := hfits
      obtain ⟨hu, htr, hring', hbytes, hsame⟩ := order_placed packet s r' ⟨hidle, hm, hw⟩
      refine answered e _ _ _ hu (congrArg TrustSt.replies htr)
        (exec_order_placed session packet s r' hon hop hring h16 h32 hlt hd hroom) ⟨hring', ?_, ?_⟩
      · exact Eq.trans (bytesAt_of_mem (by rfl) _ _) hbytes
      · exact MemSame.of_mem hsame rfl
  case anchors =>
    intro session anchors e may
    refine ⟨fun hoff => ?_, fun hon hnot => ?_, fun hon hmay => ?_⟩
    · show execAnchorInstall session anchors s = _
      unfold execAnchorInstall
      dsimp only
      rw [if_pos (by simp [off hoff]), settle_idle s hidle]
    · refine answered e _ s _ hidle rfl ?_ ⟨⟨rfl, rfl, rfl⟩, rfl⟩
      show execAnchorInstall session anchors s = _
      unfold execAnchorInstall
      dsimp only
      rw [if_neg (by simp [show serving s = true from hon]), if_pos]
      by_contra hcond
      refine hnot ⟨?_, ?_⟩
      · by_contra hneither
        simp_all
      · simp at hcond
        exact hcond.2
    · obtain ⟨hwho, hlen⟩ := hmay
      have hpaged := ledgerEv_paged (mkEv 0x1000 1 mgmtUnit 0 0 s.flash.anchors.length anchors.length 0)
        { s with flash := { s.flash with anchors := anchors } } (serving_open hon)
      obtain ⟨hreplies, hanchors, hjobs, hquiet, -⟩ := hpaged.mgmt
      refine answered e _ _ _ (hjobs.trans hidle) hreplies ?_ ⟨hquiet, hanchors⟩
      show execAnchorInstall session anchors s = _
      unfold execAnchorInstall
      dsimp only
      rw [if_neg (by simp [show serving s = true from hon]), if_neg]
      · rfl
      · simp only [Bool.or_eq_true, Bool.and_eq_true, Bool.not_eq_true', decide_eq_true_eq, not_or, not_and, Nat.not_lt]
        refine ⟨fun hnop hne => ?_, hlen⟩
        obtain h | h := hwho
        · rw [h] at hnop
          contradiction
        · rw [h] at hne
          contradiction
  case opens =>
    intro session cert e
    refine ⟨fun hoff => ?_, fun hon => ?_⟩
    · show execMgmtSessionOpen session cert s = _
      unfold execMgmtSessionOpen
      dsimp only
      rw [if_pos (by simp [off hoff]), settle_idle s hidle]
    · have hkeep : ∀ u : State, MgmtQuiet s u → u.tr.replies = s.tr.replies →
          u.tr.sessions = s.tr.sessions.filter (fun x => x.id != session) ++
            [(⟨session, cert == .valid && !s.flash.anchors.isEmpty⟩ : Session)] → u.gz.jobs = [] →
          e = .next (settle u) → ∃ t, e = .next t ∧ quiet t ∧ t.tr.replies = s.tr.replies ∧
            isOperator t session = (cert == .valid && !s.flash.anchors.isEmpty) ∧
            (∀ n, n ≠ session → isOperator t n = isOperator s n) := by
        intro u hq hr hs hj he
        refine ⟨passed u, he.trans (congrArg _ (settle_idle u hj)), hq, hr, ?_, fun n hn => ?_⟩
        · show u.tr.sessions.any _ = _
          rw [hs, isOperator_opened, if_pos rfl]
        · show u.tr.sessions.any _ = _
          rw [hs, isOperator_opened, if_neg hn]
          rfl
      have he : e = .next (settle (if (cert != .absent && !(cert == .valid && !s.flash.anchors.isEmpty)) = true then
          ledgerEv 12 (mkEv 0x1000 0x0D mgmtUnit 0 0 0 0 NO_PERMISSION true) { s with tr := { s.tr with
            sessions := s.tr.sessions.filter (fun x => x.id != session) ++ [⟨session, cert == .valid && !s.flash.anchors.isEmpty⟩] } }
        else { s with tr := { s.tr with
            sessions := s.tr.sessions.filter (fun x => x.id != session) ++ [⟨session, cert == .valid && !s.flash.anchors.isEmpty⟩] } })) := by
        show execMgmtSessionOpen session cert s = _
        unfold execMgmtSessionOpen
        dsimp only
        rw [if_neg (by simp [show serving s = true from hon])]
      split at he
      · have hpaged := ledgerEv_paged (mkEv 0x1000 0x0D mgmtUnit 0 0 0 0 NO_PERMISSION true) { s with tr := { s.tr with
            sessions := s.tr.sessions.filter (fun x => x.id != session) ++ [⟨session, cert == .valid && !s.flash.anchors.isEmpty⟩] } }
          (serving_open hon)
        obtain ⟨hreplies, -, hjobs, hquiet, hsess, -⟩ := hpaged.mgmt
        exact hkeep _ hquiet hreplies hsess (hjobs.trans hidle) he
      · exact hkeep { s with tr := { s.tr with
          sessions := s.tr.sessions.filter (fun x => x.id != session) ++ [⟨session, cert == .valid && !s.flash.anchors.isEmpty⟩] } }
          ⟨rfl, rfl, rfl⟩ rfl rfl hidle he
  case idles =>
    intro session e
    refine ⟨fun hno => ?_, fun hyes => ?_⟩
    · show execMgmtSessionIdle session s = _
      rw [execMgmtSessionIdle, if_neg (by simp [hno]), settle_idle s hidle]
    · refine ⟨passed (inputCount 12 { s with tr := { s.tr with sessions := s.tr.sessions.filter (fun x => x.id != session) } }), ?_,
        ⟨rfl, rfl, rfl⟩, rfl⟩
      show execMgmtSessionIdle session s = _
      rw [execMgmtSessionIdle, if_pos hyes, settle_idle _ (by exact hidle)]
  case ptp =>
    intro domain time off' e v takes
    refine ⟨fun hnot => ?_, fun htakes => ?_⟩
    · show execPtpSync domain time off' s = _
      unfold execPtpSync
      dsimp only
      rw [if_pos, settle_idle s hidle]
      by_contra hcond
      simp only [Bool.or_eq_true, Bool.not_eq_true', bne_iff_ne, not_or, Bool.not_eq_false, not_not] at hcond
      exact hnot ⟨hcond.1.1, hcond.1.2, hcond.2⟩
    · obtain ⟨hon, hbit, hdom⟩ := htakes
      have he : e = .next (settle (if (!s.tr.timeSet || decide (1000000 < off'.natAbs)) = true then
          ledger 12 (kernelOrigin 12) 0x0C 0 1 0 (timeNow s) time.toNat 0
            (setTime time.toNat true { s with tr := { s.tr with lastSync := s.now } })
        else { s with tr := { s.tr with lastSync := s.now, timePtp := true } })) := by
        show execPtpSync domain time off' s = _
        unfold execPtpSync
        dsimp only
        rw [if_neg]
        · rfl
        · simp [show serving s = true from hon, show bit (item s mdBlock 0x81) 8 = true from hbit,
            show bits (item s mdBlock 0x81) 0 8 = domain.toNat from hdom]
      split at he
      · next hstep =>
        have hpaged := ledgerEv_paged (mkEv (kernelOrigin 12) 0x0C 0 1 0 (timeNow s) time.toNat 0)
          (setTime time.toNat true { s with tr := { s.tr with lastSync := s.now } }) (serving_open hon)
        obtain ⟨-, -, hjobs, hquiet, -, hsync, hptp, hset, htime⟩ := hpaged.mgmt
        refine ⟨_, he.trans (congrArg _ (settle_idle _ (hjobs.trans hidle))), hquiet, hsync, hptp, hset, ?_⟩
        rw [if_pos (by simpa using hstep)]
        refine Eq.trans htime ?_
        show (if true = true then time.toNat % 2 ^ 64 + (s.now - s.now) else 0) = _
        rw [if_pos rfl, Nat.sub_self, Nat.add_zero, Nat.mod_eq_of_lt time.isLt]
      · next hsteer =>
        have hsteer' : s.tr.timeSet = true ∧ off'.natAbs ≤ 1000000 := by simpa using hsteer
        refine ⟨_, he.trans (congrArg _ (settle_idle _ (by exact hidle))), ⟨rfl, rfl, rfl⟩, rfl, rfl, hsteer'.1, ?_⟩
        rw [if_neg (by simp [hsteer'.1]; omega)]
        rfl
  case router =>
    intro pfx e takes
    refine ⟨fun hnot => ?_, fun htakes => ?_⟩
    · show execRouterAdvertisement pfx s = _
      unfold execRouterAdvertisement
      dsimp only
      rw [if_pos, settle_idle s hidle]
      by_contra hcond
      simp only [Bool.or_eq_true, Bool.not_eq_true', not_or, Bool.not_eq_false] at hcond
      exact hnot hcond
    · refine ⟨passed { s with tr := { s.tr with slaac := s.tr.slaac.filter (· != sub pfx 0 8 ++ eui64 s) ++ [sub pfx 0 8 ++ eui64 s] } },
        ?_, ⟨rfl, rfl, rfl⟩, List.mem_append_right _ (List.mem_singleton_self _)⟩
      show execRouterAdvertisement pfx s = _
      unfold execRouterAdvertisement
      dsimp only
      rw [if_neg (by simp [show serving s = true from htakes.1, htakes.2]), settle_idle _ (by exact hidle)]
  case dhcp =>
    intro addr gateway n e takes
    refine ⟨fun hnot => ?_, fun htakes => ?_⟩
    · show execDhcpv4Message addr gateway n s = _
      unfold execDhcpv4Message
      rw [if_pos, settle_idle s hidle]
      by_contra hcond
      simp only [Bool.or_eq_true, Bool.not_eq_true', not_or, Bool.not_eq_false] at hcond
      exact hnot hcond
    · refine ⟨passed { s with tr := { s.tr with dhcp4 := some (addr.toNat, gateway.toNat, n.toNat) } }, ?_, ⟨rfl, rfl, rfl⟩, rfl⟩
      show execDhcpv4Message addr gateway n s = _
      unfold execDhcpv4Message
      rw [if_neg (by simp [show serving s = true from htakes.1, htakes.2]), settle_idle _ (by exact hidle)]
  case uart =>
    intro b framed e
    have he : e = .next (settle (if (framed && bit (debugCfg s) 0 && bit (debugCfg s) 1) = true then
      { s with tr := { s.tr with uartRx := s.tr.uartRx ++ [b] } } else inputCount 16 s)) := rfl
    split at he
    · next htakes =>
      refine ⟨_, he.trans (congrArg _ (settle_idle _ (by exact hidle))), ⟨rfl, rfl, rfl⟩, ?_⟩
      rw [if_pos (by simpa [and_assoc] using htakes)]
      rfl
    · next hnot =>
      refine ⟨_, he.trans (congrArg _ (settle_idle _ (by exact hidle))), ⟨rfl, rfl, rfl⟩, ?_⟩
      rw [if_neg (by simpa [and_assoc] using hnot)]
      rfl

end Sys2Proof.Proofs
end

section
/-! PROOFS. What the traffic of ports touches: frames, credits, messages sent on, and what is lost with a port (12 R310-R321). -/

namespace Sys2Proof.Proofs

open Sys2Proof Sys2Proof.Machine Sys2Proof.Laws

/-! ## Traffic as one relation -/

/-- A state that sending and losing messages leaves: ports keep their states, and nothing else changes but frames' counts, messages,
and the directory's update. -/
def Traffic (s t : State) : Prop :=
  ∃ counts counters ports next net dir,
    t = { s with
      hw := { s.hw with counts := counts, counters := counters }
      link := { s.link with ports := ports, nextMsg := next }
      net := net
      dir := dir } ∧
    (∀ v, (amGet {} ports v).state = (portOf s v).state) ∧
    (∀ k, k % 256 ≠ 0x10 → k % 256 ≠ 0x18 → amGet 0 counts k = amGet 0 s.hw.counts k)

theorem Traffic.refl (s : State) : Traffic s s :=
  ⟨s.hw.counts, s.hw.counters, s.link.ports, s.link.nextMsg, s.net, s.dir, rfl, fun _ => rfl, fun _ _ _ => rfl⟩

theorem Traffic.trans {s t u : State} (h : Traffic s t) (k : Traffic t u) : Traffic s u := by
  obtain ⟨_, _, _, _, _, _, rfl, hp, hc⟩ := h
  obtain ⟨c, n, p, m, e, d, rfl, hp', hc'⟩ := k
  exact ⟨c, n, p, m, e, d, rfl, fun v => (hp' v).trans (hp v), fun x h1 h2 => (hc' x h1 h2).trans (hc x h1 h2)⟩

theorem Traffic.foldl {α : Type} (f : State → α → State) (h : ∀ s x, Idle s → Traffic s (f s x)) (l : List α) (s : State) (hi : Idle s) :
    Traffic s (l.foldl f s) := by
  induction l generalizing s with
  | nil => exact .refl s
  | cons x l ih =>
    have hx := h s x hi
    refine hx.trans (ih _ ?_)
    obtain ⟨_, _, _, _, _, _, ht, -, -⟩ := hx
    rw [ht]
    exact hi

/-- Traffic leaves commands, units, the group and the module where they were. -/
theorem Traffic.frame {s t : State} (h : Traffic s t) :
    t.gz = s.gz ∧ t.mem = s.mem ∧ t.hw.items = s.hw.items ∧ t.link.rx = s.link.rx ∧ t.link.ingest = s.link.ingest ∧
    t.ws = s.ws ∧ t.cf = s.cf ∧ t.chains = s.chains ∧ t.mm = s.mm ∧ t.tr = s.tr ∧ t.now = s.now ∧ t.grp = s.grp ∧
    (∀ v, (portOf t v).state = (portOf s v).state) := by
  obtain ⟨_, _, _, _, _, _, rfl, hp, -⟩ := h
  exact ⟨rfl, rfl, rfl, rfl, rfl, rfl, rfl, rfl, rfl, rfl, rfl, rfl, hp⟩

theorem Traffic.idle {s t : State} (h : Traffic s t) (hi : Idle s) : Idle t := (congrArg GelozSt.jobs h.frame.1).trans hi

theorem Traffic.bare {s t : State} (h : Traffic s t) (hb : Bare s) : Bare t := by
  obtain ⟨-, -, -, -, -, hws, hcf, hch, hmm, -⟩ := h.frame
  rw [Bare, hmm, hws, hcf, hch]
  exact hb

theorem Traffic.count {s t : State} (h : Traffic s t) (u off : Nat) (hoff : off < 256) (h1 : off ≠ 0x10) (h2 : off ≠ 0x18) :
    countOf t u off = countOf s u off := by
  obtain ⟨_, _, _, _, _, _, rfl, -, hc⟩ := h
  exact hc _ (by omega) (by omega)

/-! ## Sending -/

theorem traffic_net (s : State) (n : List NetMsg) : Traffic s { s with net := n } :=
  ⟨s.hw.counts, s.hw.counters, s.link.ports, s.link.nextMsg, n, s.dir, rfl, fun _ => rfl, fun _ _ _ => rfl⟩

theorem traffic_dir (s : State) (d : DirSt) : Traffic s { s with dir := d } :=
  ⟨s.hw.counts, s.hw.counters, s.link.ports, s.link.nextMsg, s.net, d, rfl, fun _ => rfl, fun _ _ _ => rfl⟩

theorem emit_traffic (u : Nat) (bs : List Byte) (s : State) : Traffic s (emit u bs s) := traffic_net s _

theorem sendIdle_traffic (u : Nat) (s : State) : Traffic s (sendIdle u s) := emit_traffic u _ s

theorem emitData_traffic (u : Nat) (t : TxFrame) (s : State) : Traffic s (emitData u t s) := by
  unfold emitData
  dsimp only
  split
  · exact .refl s
  · exact emit_traffic ..

theorem modPort_traffic (s : State) (u : Nat) (f : Port → Port) (hf : ∀ p, (f p).state = p.state) : Traffic s (modPort s u f) := by
  refine ⟨s.hw.counts, s.hw.counters, _, s.link.nextMsg, s.net, s.dir, rfl, fun v => ?_, fun _ _ _ => rfl⟩
  rw [amGet_amMod]
  split
  · next h =>
    rw [h]
    exact hf _
  · rfl

theorem count_traffic (s : State) (u off n : Nat) (h : off = 0x10 ∨ off = 0x18) : Traffic s (count s u off n) := by
  refine ⟨_, s.hw.counters, s.link.ports, s.link.nextMsg, s.net, s.dir, rfl, fun _ => rfl, fun k h1 h2 => ?_⟩
  rw [amGet_amMod, if_neg]
  omega

theorem counters_traffic (s : State) (c : AMap Nat) : Traffic s { s with hw := { s.hw with counters := c } } :=
  ⟨s.hw.counts, c, s.link.ports, s.link.nextMsg, s.net, s.dir, rfl, fun _ => rfl, fun _ _ _ => rfl⟩

theorem event_traffic (s : State) (u code ctx k : Nat) : Traffic s (event s u code ctx k) := by
  obtain ⟨c, hc⟩ := event_eq s u code ctx k
  rw [hc]
  exact counters_traffic s c

theorem arrivalUpTo_traffic (u code ctx n : Nat) (s : State) : Traffic s (arrivalUpTo u code ctx n s) := by
  induction n generalizing s with
  | zero => exact .refl s
  | succ n ih =>
    rw [arrivalUpTo]
    refine .trans ?_ (ih _)
    split
    · exact counters_traffic s _
    · exact .refl s

theorem pumpPort_traffic (u n : Nat) (s : State) : Traffic s (pumpPort u n s) := by
  induction n generalizing s with
  | zero => exact .refl s
  | succ n ih =>
    unfold pumpPort
    dsimp only
    split
    · exact .refl s
    · split
      · exact .refl s
      · split
        · exact .refl s
        · refine .trans ?_ (ih _)
          refine .trans ?_ (event_traffic ..)
          refine .trans ?_ (count_traffic _ _ _ _ (.inl rfl))
          refine .trans ?_ (emitData_traffic ..)
          exact modPort_traffic s u _ fun _ => rfl

theorem enqueue_traffic (u vc route : Nat) (bs : List Byte) (m : NetMsg) (s : State) : Traffic s (enqueue u vc route bs m s) := by
  have hnext : Traffic s { s with link := { s.link with nextMsg := s.link.nextMsg + 1 } } :=
    ⟨s.hw.counts, s.hw.counters, s.link.ports, _, s.net, s.dir, rfl, fun _ => rfl, fun _ _ _ => rfl⟩
  unfold enqueue
  dsimp only
  refine hnext.trans ((arrivalUpTo_traffic u 0xD080 0 8 _).trans ?_)
  exact (modPort_traffic _ u _ (fun p => by rfl)).trans (pumpPort_traffic ..)

theorem countRow_traffic (u src : Nat) (m : NetMsg) (s : State) : Traffic s (countRow u src m s) := by
  unfold countRow
  split
  · exact count_traffic _ _ _ _ (.inr rfl)
  · exact .refl s

theorem send_traffic (s : State) (m : NetMsg) : Traffic s (send s m) := by
  unfold send
  dsimp only
  split
  · exact traffic_net s _
  · split
    · exact traffic_net s _
    · split
      · exact .refl s
      · split
        · exact (traffic_net s _).trans ((countRow_traffic ..).trans (enqueue_traffic ..))
        · exact traffic_net s _

theorem sendGroups_traffic (kind : Nat) (ps : List Nat) (a0 a1 a2 : Nat) (es : List DirEntry) (s : State) (hi : Idle s) :
    Traffic s (sendGroups kind ps a0 a1 a2 es s) := .foldl _ (fun s _ _ => send_traffic s _) ps s hi

/-! ## What goes on where nothing is in flight -/

theorem endJob_idle (s : State) (id : Nat) (e : End) (hi : Idle s) : endJob s id e = s := by
  have hmap : s.gz.jobs.map (fun j => if j.id == id then { j with phase := .ending e } else j) = s.gz.jobs := by
    rw [hi]
    rfl
  show { s with gz := { s.gz with jobs := _ } } = s
  rw [hmap]

/-- With nothing in flight no unit finds a command to go on with. -/
theorem pumpUnit_idle (run : Job → State → RunRes) (u n : Nat) (s : State) (hi : Idle s) : pumpUnit run u n s = s := by
  cases n with
  | zero => rfl
  | succ n =>
    have hfind : s.gz.jobs.find? (fun j => j.unit == u && retries j) = none := by rw [hi]; rfl
    have hnext : nextIn s u = none := by
      unfold nextIn
      rw [hi]
      rfl
    rw [pumpUnit, hfind]
    dsimp only
    rw [hnext]
    split <;> rfl

theorem pumpDie_idle (d : Nat) (s : State) (hi : Idle s) : pumpDie d s = s := by
  have hcf : pumpCf d s = s := pumpUnit_idle cfRun (cfUnit d) _ s hi
  rw [pumpDie, hcf]
  exact pumpUnit_idle wsRun (wsUnit d) _ s hi

theorem foldl_fixed {α : Type} (f : State → α → State) (s : State) (h : ∀ x, f s x = s) (l : List α) : l.foldl f s = s := by
  induction l with
  | nil => rfl
  | cons x l ih => rw [List.foldl_cons, h, ih]

theorem pumpDies_idle (s : State) (hi : Idle s) : pumpDies s = s := foldl_fixed _ s (fun d => pumpDie_idle d s hi) _

/-! ## What is lost with a port -/

theorem abortUpdate_traffic (e : End) (s : State) (hi : Idle s) : Traffic s (abortUpdate e s) := by
  unfold abortUpdate
  split
  · exact .refl s
  · have hsent := sendGroups_traffic 9 (livePeers s) (s.dir.epoch + 1) 0 0 [] s hi
    refine hsent.trans ?_
    have hi' := hsent.idle hi
    generalize sendGroups 9 (livePeers s) (s.dir.epoch + 1) 0 0 [] s = t at hi'
    have hdrop : ∃ d, dropStaged t = { t with dir := d } := by
      unfold dropStaged
      split
      · exact ⟨_, pumpDies_idle _ (by exact hi')⟩
      · exact ⟨t.dir, rfl⟩
    obtain ⟨d, hd⟩ := hdrop
    rw [hd]
    have hclose : ∃ d', closeUpdate e { t with dir := d } = { t with dir := d' } := by
      unfold closeUpdate
      split
      · exact ⟨d, rfl⟩
      · rw [endJob_idle _ _ _ (by exact hi')]
        dsimp only
        rw [hi']
        unfold nextUpdate
        split
        · exact ⟨_, rfl⟩
        · dsimp only
          rw [hi']
          exact ⟨_, rfl⟩
    obtain ⟨d', hd'⟩ := hclose
    rw [hd']
    exact traffic_dir t d'

theorem loseMsg_traffic (u : Nat) (m : NetMsg) (s : State) (hi : Idle s) : Traffic s (loseMsg u m s) := by
  have hreceived : Traffic s (receive s m) := traffic_net s _
  unfold loseMsg
  dsimp only
  split
  · refine hreceived.trans (.foldl _ (fun s j hs => ?_) _ _ (by exact hi))
    rw [endJob_idle s _ _ hs]
    exact .refl s
  · exact hreceived.trans (abortUpdate_traffic _ _ (by exact hi))
  · exact hreceived

theorem moveMsgs_traffic (u : Nat) (ms : List OutMsg) (s : State) (hi : Idle s) : Traffic s (moveMsgs u ms s) := by
  induction ms generalizing s with
  | nil => exact .refl s
  | cons m ms ih =>
    unfold moveMsgs
    dsimp only
    have hfirst : Traffic s (match pickPort s (bits m.route 29 3) (bits m.route 13 3) (bits m.route 0 13) with
        | some v => enqueue v m.vc m.route m.bytes m.what s
        | none => loseMsg u m.what s) := by
      split
      · exact enqueue_traffic ..
      · exact loseMsg_traffic u m.what s hi
    exact hfirst.trans (ih _ (hfirst.idle hi))

/-- Where no engine holds anything, a device lost takes nothing with it. -/
theorem loseDevice_bare (u dev : Nat) (s : State) (hi : Idle s) (hb : Bare s) : loseDevice u dev s = s := by
  obtain ⟨-, hws, hcf, hch⟩ := hb
  have hchains : ∀ d, chainsOf s d = [] := fun d => by rw [chainsOf, hch]; rfl
  have hwsOf : ∀ d, wsOf s d = {} := fun d => by rw [wsOf, hws]; rfl
  have hcfOf : ∀ d, cfOf s d = {} := fun d => by rw [cfOf, hcf]; rfl
  have hlc : ∀ e, loseChains dev e s = s := fun e => foldl_fixed _ s (fun d => by
    dsimp only
    rw [hchains, List.foldl_nil, hi]
    rfl) _
  have hlo : ∀ pos e, loseCounts pos e s = s := fun pos e => foldl_fixed _ s (fun d => by rw [hwsOf]; rfl) _
  have hlm : ∀ pos e, loseClaims pos e s = s := fun pos e => foldl_fixed _ s (fun d => by rw [hcfOf]; rfl) _
  unfold loseDevice
  dsimp only
  rw [hlc]
  split
  · rfl
  · rw [hlo, hlm]
    exact foldl_fixed _ s (fun d => by rw [hwsOf]; rfl) _

theorem portLeft_traffic (u : Nat) (s : State) (hi : Idle s) (hb : Bare s) : Traffic s (portLeft u s) := by
  have hcleared := modPort_traffic s u (fun p => { p with msgs := [], queue := [], unacked := [], gather := [] }) fun _ => rfl
  have hmoved := hcleared.trans (moveMsgs_traffic u (portOf s u).msgs _ (hcleared.idle hi))
  unfold portLeft
  dsimp only
  generalize moveMsgs u (portOf s u).msgs (modPort s u fun p => { p with msgs := [], queue := [], unacked := [], gather := [] }) = t
    at hmoved ⊢
  have hi' := hmoved.idle hi
  have hlost : ∀ l : List Nat, l.foldl (fun s d => loseDevice u d s) t = t :=
    fun l => foldl_fixed _ t (fun d => loseDevice_bare u d t hi' (hmoved.bare hb)) l
  rw [hlost, pumpDies_idle t hi']
  exact hmoved

end Sys2Proof.Proofs
end

section
/-! PROOFS. Port states and what moves them (12 R318, R319, R326). -/

namespace Sys2Proof.Proofs

open Sys2Proof Sys2Proof.Machine Sys2Proof.Laws

/-! ## Counts that a ledger entry leaves -/

/-- A ledger entry counts itself at 0x30 and nowhere else. -/
def Counted (s t : State) : Prop := ∀ k, k ≠ 256 * uid 6 12 0 + 0x30 → amGet 0 t.hw.counts k = amGet 0 s.hw.counts k

theorem Counted.refl (s : State) : Counted s s := fun _ _ => rfl

theorem Counted.trans {s t u : State} (h : Counted s t) (k : Counted t u) : Counted s u := fun x hx => (k x hx).trans (h x hx)

theorem Counted.countOf {s t : State} (h : Counted s t) (u off : Nat) (hoff : off < 256) (hne : off ≠ 0x30) :
    countOf t u off = countOf s u off := h _ (by omega)

theorem numberEntry_counted (s : State) (e : LedgerEvent) : Counted s (numberEntry s e) := by
  intro k hk
  show amGet 0 (count s (uid 6 12 0) 0x30 1).hw.counts k = _
  unfold count
  dsimp only
  rw [amGet_amMod, if_neg]
  omega

theorem closePage_counted (reason : Nat) (s : State) : Counted s (closePage reason s) := by
  by_cases h : s.tr.openPage = []
  · rw [closePage_empty reason s h]
    exact .refl s
  · rw [closePage_eq reason s h]
    exact fun _ _ => rfl

theorem appendAll_counted (es : List LedgerEvent) (s : State) : Counted s (appendAll es s) := by
  induction es generalizing s with
  | nil => exact .refl s
  | cons e es ih =>
    unfold appendAll
    dsimp only
    refine (numberEntry_counted s e).trans (Counted.trans ?_ (ih _))
    split
    · exact closePage_counted 0 _
    · exact .refl _

theorem numberEntries_counted (l : List LedgerEvent) (s : State) : Counted s (l.foldl numberEntry s) := by
  induction l generalizing s with
  | nil => exact .refl s
  | cons e l ih => exact (numberEntry_counted s e).trans (ih _)

theorem appendEntry_counted (e : LedgerEvent) (s : State) : Counted s (appendEntry e s) := by
  have hseal : ∀ t, Counted t (sealPage 0 t) := by
    intro t
    unfold sealPage
    split
    · exact .refl t
    · have hmark : Counted t (snapMark t) := fun _ _ => rfl
      exact (hmark.trans (numberEntries_counted _ _)).trans ((closePage_counted 0 _).trans (appendAll_counted _ _))
  unfold appendEntry
  dsimp only
  split
  · exact (numberEntry_counted s e).trans (hseal _)
  · exact numberEntry_counted s e

theorem ledgerEv_counted (die : Nat) (e : LedgerEvent) (s : State) : Counted s (ledgerEv die e s) := by
  unfold ledgerEv
  split
  · exact appendEntry_counted e s
  · exact .refl s

/-! ## Entering a state -/

/-- A port's record as it enters a state (12 R318). -/
def entered (st : Nat) (p : Port) : Port :=
  { p with
    state := st, attempts := 0, retraining := false, trained := false, partner := if st ≤ 1 || st = 7 then none else p.partner }

/-- The first part of a change of state: the record, readiness, the ledger and the count of degradations (12 R318). -/
def portNoted (u st : Nat) (s : State) : State :=
  let p := portOf s u
  let s := modPort s u (entered st)
  let s := if p.state = 2 || st = 2 then modDie s (uDie u) (fun d => { d with generation := d.generation + 1 }) else s
  let s := if st = 3 || st = 5 || st = 6 then
      ledger (uDie u) (hwOrigin (uDie u)) 9 u st 0 p.state st (peerDevice p) s else s
  if st = 3 then count s u 0x50 1 else s

theorem setPort_same (u st : Nat) (s : State) (h : (portOf s u).state = st) : setPort u st s = s := by
  unfold setPort
  dsimp only
  rw [if_pos h]

theorem setPort_changes (u st : Nat) (s : State) (h : (portOf s u).state ≠ st) :
    setPort u st s =
      if st = 2 then linkUp u (portNoted u st s)
      else if (portOf s u).state = 2 then
        modPort (portLeft u (modPort (portNoted u st s) u (fun q => { q with partner := (portOf s u).partner }))) u
          (fun q => { q with partner := if st ≤ 1 || st = 7 then none else (portOf s u).partner })
      else portNoted u st s := by
  unfold setPort
  dsimp only
  rw [if_neg h]
  rfl

/-- What a change of state leaves alone. -/
structure PortKeeps (s t : State) : Prop where
  jobs : t.gz.jobs = s.gz.jobs
  bare : t.mm = s.mm ∧ t.ws = s.ws ∧ t.cf = s.cf ∧ t.chains = s.chains
  items : t.hw.items = s.hw.items
  rx : t.link.rx = s.link.rx
  mem : t.mem = s.mem
  now : t.now = s.now
  counts : ∀ k, k % 256 ≠ 0x10 → k % 256 ≠ 0x18 → k % 256 ≠ 0x30 → k % 256 ≠ 0x50 → amGet 0 t.hw.counts k = amGet 0 s.hw.counts k

theorem PortKeeps.refl (s : State) : PortKeeps s s := ⟨rfl, ⟨rfl, rfl, rfl, rfl⟩, rfl, rfl, rfl, rfl, fun _ _ _ _ _ => rfl⟩

theorem PortKeeps.trans {s t u : State} (h : PortKeeps s t) (k : PortKeeps t u) : PortKeeps s u := by
  obtain ⟨hj, ⟨hmm, hws, hcf, hch⟩, hi, hr, hm, hn, hc⟩ := h
  obtain ⟨kj, ⟨kmm, kws, kcf, kch⟩, ki, kr, km, kn, kc⟩ := k
  exact ⟨kj.trans hj, ⟨kmm.trans hmm, kws.trans hws, kcf.trans hcf, kch.trans hch⟩, ki.trans hi, kr.trans hr, km.trans hm,
    kn.trans hn, fun k h1 h2 h3 h4 => (kc k h1 h2 h3 h4).trans (hc k h1 h2 h3 h4)⟩

theorem PortKeeps.idle {s t : State} (h : PortKeeps s t) (hi : Idle s) : Idle t := h.jobs.trans hi

theorem PortKeeps.bareOf {s t : State} (h : PortKeeps s t) (hb : Bare s) : Bare t := by
  obtain ⟨hmm, hws, hcf, hch⟩ := h.bare
  rw [Bare, hmm, hws, hcf, hch]
  exact hb

theorem PortKeeps.mode {s t : State} (h : PortKeeps s t) (u : Nat) : portMode t u = portMode s u ∧ portRole t u = portRole s u := by
  unfold portMode portRole item
  rw [h.items]
  exact ⟨rfl, rfl⟩

theorem PortKeeps.count {s t : State} (h : PortKeeps s t) (u off : Nat) (hoff : off < 256) (h1 : off ≠ 0x10) (h2 : off ≠ 0x18)
    (h3 : off ≠ 0x30) (h4 : off ≠ 0x50) : countOf t u off = countOf s u off :=
  h.counts _ (by omega) (by omega) (by omega) (by omega)

theorem Traffic.portKeeps {s t : State} (h : Traffic s t) : PortKeeps s t := by
  obtain ⟨_, _, _, _, _, _, rfl, -, hc⟩ := h
  exact ⟨rfl, ⟨rfl, rfl, rfl, rfl⟩, rfl, rfl, rfl, rfl, fun k h1 h2 _ _ => hc k h1 h2⟩

theorem modPort_portKeeps (s : State) (u : Nat) (f : Port → Port) : PortKeeps s (modPort s u f) :=
  ⟨rfl, ⟨rfl, rfl, rfl, rfl⟩, rfl, rfl, rfl, rfl, fun _ _ _ _ _ => rfl⟩

theorem ledger_portKeeps (die o re ob fi c old new aux : Nat) (s : State) : PortKeeps s (ledger die o re ob fi c old new aux s) := by
  obtain ⟨-, hn, -, -, hm, hmm, hws, -, hcf, -, -, -, -, hch, hlink, -, -, -, -, hj, -, -, -, hi, -, -, -⟩ :=
    ledger_frame die o re ob fi c old new aux s
  exact ⟨hj, ⟨hmm, hws, hcf, hch⟩, hi, by rw [hlink], hm, hn, fun k _ _ h3 _ => ledgerEv_counted _ _ s k (by omega)⟩

theorem portOf_ledger (die o re ob fi c old new aux v : Nat) (s : State) :
    portOf (ledger die o re ob fi c old new aux s) v = portOf s v := by
  obtain ⟨-, -, -, -, -, -, -, -, -, -, -, -, -, -, hlink, -⟩ := ledger_frame die o re ob fi c old new aux s
  rw [portOf, hlink]
  rfl

theorem portNoted_keeps (u st : Nat) (s : State) : PortKeeps s (portNoted u st s) := by
  have hdie : ∀ s : State, PortKeeps s (modDie s (uDie u) (fun d => { d with generation := d.generation + 1 })) :=
    fun s => ⟨rfl, ⟨rfl, rfl, rfl, rfl⟩, rfl, rfl, rfl, rfl, fun _ _ _ _ _ => rfl⟩
  have hcount : ∀ s : State, PortKeeps s (count s u 0x50 1) := by
    refine fun s => ⟨rfl, ⟨rfl, rfl, rfl, rfl⟩, rfl, rfl, rfl, rfl, fun k _ _ _ h4 => ?_⟩
    show amGet 0 (amMod 0 s.hw.counts (256 * u + 0x50) (· + 1)) k = _
    rw [amGet_amMod, if_neg]
    omega
  unfold portNoted
  extract_lets p s1 s2 s3
  have h1 : PortKeeps s s1 := modPort_portKeeps s u _
  have h2 : PortKeeps s s2 := by
    show PortKeeps s (if _ then _ else _)
    split
    · exact h1.trans (hdie s1)
    · exact h1
  have h3 : PortKeeps s s3 := by
    show PortKeeps s (if _ then _ else _)
    split
    · exact h2.trans (ledger_portKeeps ..)
    · exact h2
  split
  · exact h3.trans (hcount s3)
  · exact h3

theorem portOf_portNoted (u st v : Nat) (s : State) :
    portOf (portNoted u st s) v = if v = u then entered st (portOf s u) else portOf s v := by
  unfold portNoted
  extract_lets p s1 s2 s3
  have h1 : portOf s1 v = if v = u then entered st (portOf s u) else portOf s v := portOf_modPort s u v _
  have h2 : portOf s2 v = portOf s1 v := by
    show portOf (if _ then _ else _) v = _
    split <;> rfl
  have h3 : portOf s3 v = portOf s2 v := by
    show portOf (if _ then _ else _) v = _
    split
    · exact portOf_ledger ..
    · rfl
  split
  · exact (show portOf (count s3 u 0x50 1) v = portOf s3 v from rfl).trans (h3.trans (h2.trans h1))
  · exact h3.trans (h2.trans h1)

theorem linkUp_portKeeps (u : Nat) (s : State) : PortKeeps s (linkUp u s) ∧ (portOf (linkUp u s) u).state = (portOf s u).state := by
  unfold linkUp
  dsimp only
  split
  · exact ⟨⟨rfl, ⟨rfl, rfl, rfl, rfl⟩, rfl, rfl, rfl, rfl, fun _ _ _ _ _ => rfl⟩, by
      show (portOf (modPort s u _) u).state = _
      rw [portOf_modPort, if_pos rfl]⟩
  · exact ⟨modPort_portKeeps s u _, by rw [portOf_modPort, if_pos rfl]⟩

/-- What was on its way over a port that leaves up moves, and the port keeps its new state (12 R321). -/
theorem portLeft_portKeeps (u : Nat) (x y : Option LinkMgmt) (s : State) (hi : Idle s) (hb : Bare s) :
    let t := modPort (portLeft u (modPort s u (fun q => { q with partner := x }))) u (fun q => { q with partner := y })
    PortKeeps s t ∧ (portOf t u).state = (portOf s u).state := by
  have hpart := modPort_traffic s u (fun q => { q with partner := x }) fun _ => rfl
  have hleft := portLeft_traffic u (modPort s u (fun q => { q with partner := x })) (hpart.idle hi) (hpart.bare hb)
  have hback := modPort_traffic (portLeft u (modPort s u (fun q => { q with partner := x }))) u (fun q => { q with partner := y })
    fun _ => rfl
  have hall := (hpart.trans hleft).trans hback
  exact ⟨hall.portKeeps, hall.frame.2.2.2.2.2.2.2.2.2.2.2.2 u⟩

/-- A port is in the state it is set to (12 R318); nothing else moves but its traffic. -/
theorem setPort_state (u st : Nat) (s : State) (hi : Idle s) (hb : Bare s) :
    PortKeeps s (setPort u st s) ∧ (portOf (setPort u st s) u).state = st := by
  by_cases h : (portOf s u).state = st
  · rw [setPort_same u st s h]
    exact ⟨.refl s, h⟩
  · rw [setPort_changes u st s h]
    have hnoted := portNoted_keeps u st s
    have hstate : (portOf (portNoted u st s) u).state = st := by
      rw [portOf_portNoted, if_pos rfl]
      rfl
    split
    · obtain ⟨hup, hsame⟩ := linkUp_portKeeps u (portNoted u st s)
      exact ⟨hnoted.trans hup, hsame.trans hstate⟩
    · split
      · obtain ⟨hleft, hsame⟩ := portLeft_portKeeps u (portOf s u).partner
          (if st ≤ 1 || st = 7 then none else (portOf s u).partner) (portNoted u st s) (hnoted.idle hi) (hnoted.bareOf hb)
        exact ⟨hnoted.trans hleft, hsame.trans hstate⟩
      · exact ⟨hnoted, hstate⟩

/-! ## Identities -/

/-- Only the other ports matter to the identity check of one (12 R326). -/
theorem identityOk_modPort (s : State) (u : Nat) (f : Port → Port) (m : LinkMgmt) :
    identityOk (modPort s u f) u m = identityOk s u m := by
  have hport : ∀ v, v ≠ u → portOf (modPort s u f) v = portOf s v := fun v hv => by rw [portOf_modPort, if_neg hv]
  have hcond : (fun v => decide (v = u) || !carries (modPort s u f) v || portRole (modPort s u f) v != 0 ||
      ((connectorPorts u).contains v == (peerDevice (portOf (modPort s u f) v) == m.device.toNat))) =
      (fun v => decide (v = u) || !carries s v || portRole s v != 0 ||
      ((connectorPorts u).contains v == (peerDevice (portOf s v) == m.device.toNat))) := by
    funext v
    by_cases hv : v = u
    · simp [hv]
    · unfold carries
      rw [hport v hv]
      rfl
  unfold identityOk
  dsimp only
  rw [hcond]
  rfl

/-- A trained port whose partner is known settles (12 R319, R326). -/
theorem settlePort_state (u : Nat) (f : Port → Port) (s : State) (m : LinkMgmt) (d : Nat) (hi : Idle s) (hb : Bare s)
    (hm : (f (portOf s u)).partner = some m) (hd : (f (portOf s u)).delayNs = d) :
    Idle (settlePort u (modPort s u f)) ∧ (portOf (settlePort u (modPort s u f)) u).state = settled s u m d := by
  have hport : portOf (modPort s u f) u = f (portOf s u) := by rw [portOf_modPort, if_pos rfl]
  have hst := setPort_state u (if identityOk s u m && d ≤ 26 then 2 else 6) (modPort s u f) hi hb
  unfold settlePort
  rw [hport, hm]
  dsimp only
  rw [identityOk_modPort, hd]
  refine ⟨hst.1.idle hi, hst.2.trans ?_⟩
  unfold settled
  simp only [Bool.and_eq_true, decide_eq_true_eq]

theorem settlePort_unknown (u : Nat) (f : Port → Port) (s : State) (hm : (f (portOf s u)).partner = none) :
    settlePort u (modPort s u f) = modPort s u f := by
  have hport : portOf (modPort s u f) u = f (portOf s u) := by rw [portOf_modPort, if_pos rfl]
  unfold settlePort
  rw [hport, hm]

/-! ## The obligation -/

/-- A settled change of a port's record. -/
theorem gets_modPort (u : Nat) (f : Port → Port) (s : State) (e : Host.Outcome State Fault Refusal) (hi : Idle s)
    (he : e = .next (settle (modPort s u f))) : ∃ t, e = .next t ∧ portOf t u = f (portOf s u) := by
  refine ⟨passed (modPort s u f), he.trans (congrArg _ (settle_idle (modPort s u f) hi)), ?_⟩
  show portOf (modPort s u f) u = _
  rw [portOf_modPort, if_pos rfl]

/-- A settled change of a port's state. -/
theorem gets_setPort (u st : Nat) (s : State) (e : Host.Outcome State Fault Refusal) (hi : Idle s) (hb : Bare s)
    (he : e = .next (settle (setPort u st s))) : ∃ t, e = .next t ∧ (portOf t u).state = st := by
  obtain ⟨hk, hst⟩ := setPort_state u st s hi hb
  exact ⟨passed (setPort u st s), he.trans (congrArg _ (settle_idle _ (hk.idle hi))), hst⟩

theorem gets_settlePort (u : Nat) (f : Port → Port) (s : State) (m : LinkMgmt) (d : Nat) (e : Host.Outcome State Fault Refusal)
    (hi : Idle s) (hb : Bare s) (hm : (f (portOf s u)).partner = some m) (hd : (f (portOf s u)).delayNs = d)
    (he : e = .next (settle (settlePort u (modPort s u f)))) : ∃ t, e = .next t ∧ (portOf t u).state = settled s u m d := by
  obtain ⟨hi', hst⟩ := settlePort_state u f s m d hi hb hm hd
  exact ⟨_, he.trans (congrArg _ (settle_idle _ hi')), hst⟩

/-- A second write of an entry replaces the first. -/
theorem amPut_amPut {α : Type} (m : AMap α) (x : Nat) (v w : α) : amPut (amPut m x v) x w = amPut m x w := by
  induction m with
  | nil => simp [amPut]
  | cons p m ih =>
    obtain ⟨k, y⟩ := p
    rw [amPut, amPut]
    split
    · simp [amPut]
    · split
      · simp [amPut, *]
      · next h1 h2 => rw [amPut, if_neg h1, if_neg h2, ih]

theorem modPort_modPort (s : State) (u : Nat) (f g : Port → Port) : modPort (modPort s u f) u g = modPort s u (g ∘ f) := by
  have hput : amMod {} (amMod {} s.link.ports u f) u g = amMod {} s.link.ports u (g ∘ f) := by
    rw [amMod, amMod, amMod, amGet_amPut, if_pos rfl, amPut_amPut]
    rfl
  show { s with link := { s.link with ports := amMod {} (amMod {} s.link.ports u f) u g } } = _
  rw [hput]
  rfl

/-- Settles O55: each event is the branch of its port's state, by `setPort_state` and `settlePort_state`. -/
theorem portsChangeState : Obligations.PortsChangeState := by
  intro port s hi hb u p st gets
  refine ⟨?detect, ?idleDetect, ?failed, ?passes, ?frame, ?again, ?probation⟩
  case detect =>
    intro hst hmode
    refine gets_setPort u 1 s _ hi hb ?_
    show execPartnerDetect port s = _
    unfold execPartnerDetect
    dsimp only
    rw [if_pos (by simpa using ⟨hst, hmode⟩)]
  case idleDetect =>
    intro hnot
    show execPartnerDetect port s = _
    unfold execPartnerDetect
    dsimp only
    rw [if_neg, settle_idle s hi]
    intro h
    have h' : st = 0 ∧ portMode s u ≠ 2 := by simpa using h
    exact hnot.elim (fun hne => hne h'.1) h'.2
  case failed =>
    intro e
    have he : e = .next (settle (if p.state = 1 || p.state = 3 then trainFailed u s
      else if p.state = 5 then modPort s u (fun p => { p with retraining := false }) else s)) := rfl
    refine ⟨fun hst => ?_, fun hst => ?_, fun h1 h3 h5 => ?_⟩
    · rw [if_pos (by simpa using hst)] at he
      refine ⟨fun hmany => ?_, fun hfew => ?_⟩
      · refine gets_setPort u 5 s e hi hb (he.trans ?_)
        rw [trainFailed]
        rw [if_pos (by exact Nat.succ_le_succ hmany)]
      · refine gets_modPort u (fun q => { q with attempts := p.attempts + 1 }) s e hi (he.trans ?_)
        rw [trainFailed]
        rw [if_neg (by show ¬ 3 ≤ p.attempts + 1; omega)]
    · have hst' : p.state = 5 := hst
      rw [if_neg (by simp [hst']), if_pos hst'] at he
      exact gets_modPort u _ s e hi he
    · rw [if_neg (by simpa using ⟨h1, h3⟩), if_neg h5, settle_idle s hi] at he
      exact he
  case passes =>
    intro d rtt e
    have hcomp : ∀ s : State, modPort (modPort s u (fun p => { p with delayNs := d, rtt := rtt.toNat })) u
        (fun p => { p with attempts := 0, trained := true }) =
        modPort s u (fun p => { p with delayNs := d, rtt := rtt.toNat, attempts := 0, trained := true }) :=
      fun s => modPort_modPort s u _ _
    have he : e = .next (settle (if p.state = 1 then
        (if portMode s u = 1 then
          setPort u 2 (modPort s u (fun p => { p with delayNs := d, rtt := rtt.toNat, attempts := 0, trained := true }))
        else if 26 < d then
          setPort u 6 (modPort s u (fun p => { p with delayNs := d, rtt := rtt.toNat, attempts := 0, trained := true }))
        else settlePort u (modPort s u (fun p => { p with delayNs := d, rtt := rtt.toNat, attempts := 0, trained := true })))
      else if p.state = 3 || (p.state = 5 && p.retraining) then
        setPort u 4 (setCount (modPort s u (fun p => { p with delayNs := d, rtt := rtt.toNat })) u 0x48 0)
      else s)) := by
      rw [← hcomp]
      rfl
    refine ⟨fun hst => ?_, fun hst => ?_, fun h1 h3 h5 => ?_⟩
    · rw [if_pos (by exact hst)] at he
      refine ⟨fun hmode => ?_, fun hmode => ⟨fun hlong => ?_, fun hshort => ⟨fun hnone => ?_, fun m hm => ?_⟩⟩⟩
      · rw [if_pos hmode] at he
        exact gets_setPort u 2 (modPort s u (fun p => { p with delayNs := d, rtt := rtt.toNat, attempts := 0, trained := true })) e hi hb he
      · rw [if_neg hmode, if_pos hlong] at he
        exact gets_setPort u 6 (modPort s u (fun p => { p with delayNs := d, rtt := rtt.toNat, attempts := 0, trained := true })) e hi hb he
      · rw [if_neg hmode, if_neg (by omega), settlePort_unknown u _ s (by exact hnone)] at he
        exact gets_modPort u _ s e hi he
      · rw [if_neg hmode, if_neg (by omega)] at he
        exact gets_settlePort u _ s m d e hi hb hm rfl he
    · have hst1 : p.state ≠ 1 := by
        obtain h | h := hst
        · exact fun h1 => absurd (h.symm.trans h1) (by decide)
        · exact fun h1 => absurd (h.1.symm.trans h1) (by decide)
      have hst4 : p.state ≠ 4 := by
        obtain h | h := hst
        · exact fun h1 => absurd (h.symm.trans h1) (by decide)
        · exact fun h1 => absurd (h.1.symm.trans h1) (by decide)
      rw [if_neg hst1, if_pos (by simpa using hst)] at he
      obtain ⟨hk, hst'⟩ := setPort_state u 4 (setCount (modPort s u (fun p => { p with delayNs := d, rtt := rtt.toNat })) u 0x48 0)
        hi hb
      have hs := he.trans (congrArg _ (settle_idle _ (hk.idle hi)))
      refine ⟨⟨_, hs, hst'⟩, _, hs, ?_⟩
      refine (hk.count u 0x48 (by decide) (by decide) (by decide) (by decide) (by decide)).trans ?_
      show amGet 0 (amPut _ _ 0) _ = 0
      rw [amGet_amPut, if_pos rfl]
    · rw [if_neg h1, if_neg (by simpa using ⟨h3, fun h => by simpa using fun hr => h5 ⟨h, hr⟩⟩), settle_idle s hi] at he
      exact he
  case frame =>
    intro m e
    have he : e = .next (settle (if portMode s u != 0 || p.state = 0 || p.state = 5 || p.state = 7 then s
      else match p.state with
        | 1 => if p.trained then settlePort u (modPort s u (fun p => { p with partner := some m }))
          else modPort s u (fun p => { p with partner := some m })
        | 2 => if identityOk s u m then modPort s u (fun p => { p with partner := some m })
          else setPort u 6 (modPort s u (fun p => { p with partner := some m }))
        | 4 => if p.trained then settlePort u (modPort s u (fun p => { p with partner := some m }))
          else modPort s u (fun p => { p with partner := some m })
        | 6 => if p.partner = some m then modPort s u (fun p => { p with partner := some m })
          else settlePort u (modPort s u (fun p => { p with partner := some m }))
        | _ => modPort s u (fun p => { p with partner := some m }))) := rfl
    refine ⟨fun hnot => ?_, fun hmode => ⟨fun hst => ?_, fun hst => ?_, fun hst => ?_, fun hst => ?_⟩⟩
    · rw [if_pos (by simpa [or_assoc] using hnot), settle_idle s hi] at he
      exact he
    · have hset : e = .next (settle (if p.trained then settlePort u (modPort s u (fun p => { p with partner := some m }))
          else modPort s u (fun p => { p with partner := some m }))) := by
        obtain h | h := hst
        · rw [show p.state = 1 from h, if_neg (by simp [hmode])] at he
          exact he
        · rw [show p.state = 4 from h, if_neg (by simp [hmode])] at he
          exact he
      refine ⟨fun hno => ?_, fun hyes => ?_⟩
      · rw [if_neg (by simp [hno])] at hset
        exact gets_modPort u _ s e hi hset
      · rw [if_pos hyes] at hset
        exact gets_settlePort u _ s m p.delayNs e hi hb rfl rfl hset
    · rw [show p.state = 3 from hst, if_neg (by simp [hmode])] at he
      exact gets_modPort u _ s e hi he
    · have hset : e = .next (settle (if identityOk s u m then modPort s u (fun p => { p with partner := some m })
          else setPort u 6 (modPort s u (fun p => { p with partner := some m })))) := by
        rw [show p.state = 2 from hst, if_neg (by simp [hmode])] at he
        exact he
      split at hset
      · next hok =>
        rw [if_pos hok]
        obtain ⟨t, ht, hport⟩ := gets_modPort u _ s e hi hset
        exact ⟨t, ht, by rw [hport]; exact hst⟩
      · next hbad =>
        rw [if_neg hbad]
        exact gets_setPort u 6 (modPort s u (fun p => { p with partner := some m })) e hi hb hset
    · have hset : e = .next (settle (if p.partner = some m then modPort s u (fun p => { p with partner := some m })
          else settlePort u (modPort s u (fun p => { p with partner := some m })))) := by
        rw [show p.state = 6 from hst, if_neg (by simp [hmode])] at he
        exact he
      split at hset
      · next hsame =>
        rw [if_pos hsame]
        obtain ⟨t, ht, hport⟩ := gets_modPort u _ s e hi hset
        exact ⟨t, ht, by rw [hport]; exact hst⟩
      · next hnew =>
        rw [if_neg hnew]
        exact gets_settlePort u _ s m p.delayNs e hi hb rfl rfl hset
  case again =>
    intro e
    have he : e = .next (settle (if p.state = 5 then modPort s u (fun p => { p with retraining := true }) else s)) := rfl
    refine ⟨fun hst => ?_, fun hst => ?_⟩
    · rw [if_pos hst] at he
      exact gets_modPort u _ s e hi he
    · rw [if_neg hst, settle_idle s hi] at he
      exact he
  case probation =>
    intro e
    have he : ∀ c, e c = .next (settle (if p.state != 4 then s else if !c then setCount s u 0x48 0
      else if portMode s u = 1 then setPort u 2 s
      else settlePort u (modPort s u (fun p => { p with trained := true })))) := fun _ => rfl
    refine ⟨fun hst c => ?_, fun hst => ?_⟩
    · rw [he, if_pos (by simpa using hst), settle_idle s hi]
    · have hgo : ∀ c, e c = .next (settle (if !c then setCount s u 0x48 0
          else if portMode s u = 1 then setPort u 2 s
          else settlePort u (modPort s u (fun p => { p with trained := true })))) := fun c => by
        rw [he, if_neg (by simpa using hst)]
      refine ⟨⟨passed (setCount s u 0x48 0), ?_, ?_, rfl⟩, fun hmode => ?_, fun hmode => ⟨fun hnone => ?_, fun m hm => ?_⟩⟩
      · rw [hgo, if_pos (by decide), settle_idle (setCount s u 0x48 0) hi]
      · show amGet 0 (amPut _ _ 0) _ = 0
        rw [amGet_amPut, if_pos rfl]
      · have h := hgo true
        rw [if_neg (by decide), if_pos hmode] at h
        exact gets_setPort u 2 s _ hi hb h
      · have h := hgo true
        rw [if_neg (by decide), if_neg hmode, settlePort_unknown u _ s (by exact hnone)] at h
        exact gets_modPort u _ s _ hi h
      · have h := hgo true
        rw [if_neg (by decide), if_neg hmode] at h
        exact gets_settlePort u _ s m p.delayNs _ hi hb hm rfl h

end Sys2Proof.Proofs
end

section
/-! PROOFS. Frames on an up port, and ingest frames (12 R310-R324). -/

namespace Sys2Proof.Proofs

open Sys2Proof Sys2Proof.Machine Sys2Proof.Laws

/-! ## A broken frame -/

/-- A port's record after a broken frame (12 R312, R316). -/
def nakked (p : Port) : Port := { p with nak := true, crcRun := p.crcRun + 1 }

/-- The counts of a broken frame, and its port's record (12 R311, R312). -/
def brokenNoted (u : Nat) (s : State) : State := modPort (setCount (count s u 0x30 1) u 0x48 0) u nakked

theorem badFrame_eq (u : Nat) (s : State) :
    badFrame u s = if 16 ≤ (portOf s u).crcRun + 1 then setPort u 1 (brokenNoted u s)
      else if carries s u then sendIdle u (brokenNoted u s) else brokenNoted u s := by
  have hport : portOf (brokenNoted u s) u = nakked (portOf s u) := by
    rw [brokenNoted, portOf_modPort, if_pos rfl]
    rfl
  have hcarries : carries (brokenNoted u s) u = carries s u := by
    rw [carries, hport]
    rfl
  rw [← hcarries, show (portOf s u).crcRun + 1 = (portOf (brokenNoted u s) u).crcRun from by rw [hport]; rfl]
  rfl

/-- A broken frame is counted once. -/
theorem countOf_brokenNoted (u : Nat) (s : State) : countOf (brokenNoted u s) u 0x30 = countOf s u 0x30 + 1 := by
  show amGet 0 (amPut (amMod 0 s.hw.counts (256 * u + 0x30) (· + 1)) (256 * u + 0x48) 0) (256 * u + 0x30) = _
  rw [amGet_amPut, if_neg (by omega), amGet_amMod, if_pos rfl]
  rfl

/-- A port that leaves up for training counts nothing at 0x30. -/
theorem setPort_training_count (u : Nat) (s : State) (hi : Idle s) (hb : Bare s) (hup : (portOf s u).state = 2) :
    countOf (setPort u 1 s) u 0x30 = countOf s u 0x30 := by
  have hnoted : portNoted u 1 s = modDie (modPort s u (entered 1)) (uDie u) (fun d => { d with generation := d.generation + 1 }) := by
    unfold portNoted
    dsimp only
    rw [if_neg (by decide : ¬(1 : Nat) = 3), if_neg (by decide), if_pos (by simp [hup])]
  rw [setPort_changes u 1 s (by rw [hup]; decide), if_neg (by decide), if_pos hup, hnoted]
  set x : State := modDie (modPort s u (entered 1)) (uDie u) (fun d => { d with generation := d.generation + 1 })
  have hpart := modPort_traffic x u (fun q => { q with partner := (portOf s u).partner }) fun _ => rfl
  have hleft := portLeft_traffic u (modPort x u (fun q => { q with partner := (portOf s u).partner })) (hpart.idle hi) (hpart.bare hb)
  have hback := modPort_traffic (portLeft u (modPort x u (fun q => { q with partner := (portOf s u).partner }))) u
    (fun q => { q with partner := if (1 : Nat) ≤ 1 || (1 : Nat) = 7 then none else (portOf s u).partner }) fun _ => rfl
  exact ((hpart.trans hleft).trans hback).count u 0x30 (by decide) (by decide) (by decide)

theorem badFrame_facts (u : Nat) (s : State) (hi : Idle s) (hb : Bare s) (hup : (portOf s u).state = 2) :
    Idle (badFrame u s) ∧ countOf (badFrame u s) u 0x30 = countOf s u 0x30 + 1 ∧ (badFrame u s).link.rx = s.link.rx ∧
    ((portOf s u).crcRun + 1 < 16 → portOf (badFrame u s) u = nakked (portOf s u)) ∧
    (16 ≤ (portOf s u).crcRun + 1 → (portOf (badFrame u s) u).state = 1) := by
  have hport : portOf (brokenNoted u s) u = nakked (portOf s u) := by
    rw [brokenNoted, portOf_modPort, if_pos rfl]
    rfl
  rw [badFrame_eq]
  split
  · next hmany =>
    obtain ⟨hk, hst⟩ := setPort_state u 1 (brokenNoted u s) hi hb
    refine ⟨hk.idle hi, ?_, hk.rx, fun h => absurd h (by omega), fun _ => hst⟩
    rw [setPort_training_count u (brokenNoted u s) hi hb (by rw [hport]; exact hup), countOf_brokenNoted]
  · next hfew =>
    split
    · exact ⟨hi, countOf_brokenNoted u s, rfl, fun _ => hport, fun h => absurd h hfew⟩
    · exact ⟨hi, countOf_brokenNoted u s, rfl, fun _ => hport, fun h => absurd h hfew⟩

/-! ## A good frame -/

/-- A port's record once a good frame's credits and acknowledgement have been taken (12 R314, R316). -/
def acked (b : List Byte) (p : Port) : Port :=
  let p := takeCredits ((List.range 4).map (fun i => fld b (8 + i) 1)) { p with crcRun := 0 }
  if bit (fld b 4 4) 17 then release (bits (fld b 4 4) 0 16) p else p

/-- A port after a good frame's counts, credits and acknowledgement. -/
def ackedPort (u : Nat) (b : List Byte) (s : State) : State := modPort (count s u 0x48 2048) u (acked b)

theorem release_frame (a : Nat) (p : Port) :
    (release a p).state = p.state ∧ (release a p).fseqRx = p.fseqRx ∧ (release a p).nak = p.nak ∧ (release a p).queue = p.queue ∧
    (release a p).unacked = if p.unacked.any (fun t => t.fseq == a) then (p.unacked.dropWhile (fun t => t.fseq != a)).drop 1
      else p.unacked := by
  unfold release
  split
  · exact ⟨rfl, rfl, rfl, rfl, rfl⟩
  · exact ⟨rfl, rfl, rfl, rfl, rfl⟩

theorem acked_frame (b : List Byte) (p : Port) :
    (acked b p).state = p.state ∧ (acked b p).fseqRx = p.fseqRx ∧ (acked b p).nak = p.nak ∧ (acked b p).queue = p.queue := by
  unfold acked
  dsimp only
  split
  · obtain ⟨hs, hf, hn, hq, -⟩ := release_frame (bits (fld b 4 4) 0 16)
      (takeCredits ((List.range 4).map (fun i => fld b (8 + i) 1)) { p with crcRun := 0 })
    exact ⟨hs, hf, hn, hq⟩
  · exact ⟨rfl, rfl, rfl, rfl⟩

theorem acked_unacked (b : List Byte) (p : Port) (hack : bit (fld b 4 4) 17 = true)
    (hany : p.unacked.any (fun t => t.fseq == bits (fld b 4 4) 0 16) = true) :
    (acked b p).unacked = (p.unacked.dropWhile (fun t => t.fseq != bits (fld b 4 4) 0 16)).drop 1 := by
  unfold acked
  dsimp only
  rw [if_pos hack, (release_frame _ _).2.2.2.2]
  exact if_pos hany

theorem portOf_ackedPort (u : Nat) (b : List Byte) (s : State) : portOf (ackedPort u b s) u = acked b (portOf s u) := by
  rw [ackedPort, portOf_modPort, if_pos rfl]
  rfl

/-- With nothing to send, a port's pump does nothing. -/
theorem pumpPortAll_empty (u : Nat) (s : State) (h : (portOf s u).queue = []) : pumpPortAll u s = s := by
  rw [pumpPortAll, h]
  rfl

theorem goodFrame_eq (u : Nat) (b : List Byte) (s : State) (hup : (portOf s u).state = 2) (hmode : portMode s u = 0)
    (hnak : bit (fld b 4 4) 16 = false) :
    goodFrame u b s = pumpPortAll u (if bits (fld b 0 4) 18 2 = 0 then
      dataFrame u (bits (fld b 0 4) 0 16) (bits (fld b 0 4) 16 2) (fld b 12 4) (bit (fld b 0 4) 20) (bit (fld b 0 4) 21)
        (sub b 16 (bits (fld b 0 4) 22 8)) (ackedPort u b s) else ackedPort u b s) := by
  have hfirst : carries (modPort (count s u 0x48 2048) u (fun p => { p with crcRun := 0 })) u = true := by
    rw [carries, portOf_modPort, if_pos rfl]
    show (decide ((portOf s u).state = 2) && decide (portMode s u = 0)) = true
    rw [hup, hmode]
    rfl
  have hacked : carries (ackedPort u b s) u = true := by
    rw [carries, portOf_ackedPort, (acked_frame b _).1]
    show (decide ((portOf s u).state = 2) && decide (portMode s u = 0)) = true
    rw [hup, hmode]
    rfl
  have hcomp : (if bit (fld b 4 4) 17 then
      modPort (modPort (modPort (count s u 0x48 2048) u (fun p => { p with crcRun := 0 })) u
        (takeCredits ((List.range 4).map (fun i => fld b (8 + i) 1)))) u (release (bits (fld b 4 4) 0 16))
      else modPort (modPort (count s u 0x48 2048) u (fun p => { p with crcRun := 0 })) u
        (takeCredits ((List.range 4).map (fun i => fld b (8 + i) 1)))) = ackedPort u b s := by
    unfold ackedPort acked
    split
    · rw [modPort_modPort, modPort_modPort]
      rfl
    · rw [modPort_modPort]
      rfl
  unfold goodFrame
  dsimp only
  rw [if_neg (by simp [hfirst]), hcomp, hnak, if_neg (by decide : ¬false = true), if_neg (by simp [hacked])]

/-- A data frame in sequence (12 R310, R316). -/
theorem acceptData_facts (u vc route : Nat) (som eom : Bool) (bs : List Byte) (s : State) :
    let t := acceptData u vc route som eom bs s
    t.gz = s.gz ∧ (portOf t u).fseqRx = ((portOf s u).fseqRx + 1) % 65536 ∧ (portOf t u).nak = false ∧
    (portOf t u).accepted = true ∧ (portOf t u).queue = (portOf s u).queue ∧ countOf t u 0x18 = countOf s u 0x18 + 1 ∧
    (som = true → eom = true → bits route 0 13 = myDevice s →
      t.link.rx = s.link.rx ++ [⟨u, vc, bits route 16 13, bits route 29 3, bits route 13 3, bs⟩]) ∧
    (eom = false ∨ bits route 0 13 ≠ myDevice s → t.link.rx = s.link.rx) := by
  let f (p : Port) : Port := { p with
    fseqRx := (p.fseqRx + 1) % 65536, nak := false, accepted := true, freed := vcAdd p.freed vc 1
    gather := amPut p.gather vc (if eom then [] else (if som then [] else amGet [] (portOf s u).gather vc) ++ bs) }
  have hport : portOf (modPort s u f) u = f (portOf s u) := by rw [portOf_modPort, if_pos rfl]
  have hcount : countOf (count (modPort s u f) u 0x18 1) u 0x18 = countOf s u 0x18 + 1 := by
    rw [countOf_count, if_pos rfl]
    rfl
  have heq : acceptData u vc route som eom bs s = if eom then
      deliver u vc route ((if som then [] else amGet [] (portOf s u).gather vc) ++ bs) (count (modPort s u f) u 0x18 1)
      else count (modPort s u f) u 0x18 1 := rfl
  intro t
  have hstays : ∀ x : State, x.gz = s.gz → x.link.ports = (modPort s u f).link.ports →
      x.hw.counts = (count (modPort s u f) u 0x18 1).hw.counts →
      x.gz = s.gz ∧ (portOf x u).fseqRx = ((portOf s u).fseqRx + 1) % 65536 ∧ (portOf x u).nak = false ∧
      (portOf x u).accepted = true ∧ (portOf x u).queue = (portOf s u).queue ∧ countOf x u 0x18 = countOf s u 0x18 + 1 := by
    intro x hgz hp hc
    have hpx : portOf x u = f (portOf s u) := by
      rw [← hport, portOf, hp]
      rfl
    rw [hpx]
    refine ⟨hgz, rfl, rfl, rfl, rfl, ?_⟩
    rw [← hcount, countOf, hc]
    rfl
  have ht : t = if eom then
      deliver u vc route ((if som then [] else amGet [] (portOf s u).gather vc) ++ bs) (count (modPort s u f) u 0x18 1)
      else count (modPort s u f) u 0x18 1 := heq
  clear_value t
  subst ht
  cases eom
  case false =>
    obtain ⟨h1, h2, h3, h4, h5, h6⟩ := hstays (count (modPort s u f) u 0x18 1) rfl rfl rfl
    exact ⟨h1, h2, h3, h4, h5, h6, fun _ h => absurd h (by decide), fun _ => rfl⟩
  case true =>
    by_cases hmine : bits route 0 13 = myDevice s
    · rw [if_pos rfl, deliver, if_pos (by exact hmine)]
      obtain ⟨h1, h2, h3, h4, h5, h6⟩ := hstays { count (modPort s u f) u 0x18 1 with
        link := { (count (modPort s u f) u 0x18 1).link with
          rx := s.link.rx ++ [⟨u, vc, bits route 16 13, bits route 29 3, bits route 13 3,
            (if som then [] else amGet [] (portOf s u).gather vc) ++ bs⟩] } } rfl rfl rfl
      refine ⟨h1, h2, h3, h4, h5, h6, fun hsom _ _ => ?_, fun h => ?_⟩
      · rw [hsom]
        rfl
      · exact h.elim (fun h => absurd h (by decide)) (fun h => absurd hmine h)
    · rw [if_pos rfl, deliver, if_neg (by exact hmine)]
      obtain ⟨h1, h2, h3, h4, h5, h6⟩ := hstays (count (modPort s u f) u 0x18 1) rfl rfl rfl
      exact ⟨h1, h2, h3, h4, h5, h6, fun _ _ h => absurd h hmine, fun _ => rfl⟩

/-! ## Replay -/

/-- Frames sent again leave all but the messages on their way. -/
theorem replayFrames_eq (u : Nat) (ts : List TxFrame) (s : State) :
    ∃ n, ts.foldl (fun s t => emitData u t s) s = { s with net := n } := by
  induction ts generalizing s with
  | nil => exact ⟨s.net, rfl⟩
  | cons t ts ih =>
    have hone : ∃ n, emitData u t s = { s with net := n } := by
      unfold emitData
      dsimp only
      split
      · exact ⟨s.net, rfl⟩
      · exact ⟨_, rfl⟩
    obtain ⟨n, hn⟩ := hone
    obtain ⟨k, hk⟩ := ih { s with net := n }
    exact ⟨k, by rw [List.foldl_cons, hn, hk]⟩

/-- A port's record with every unacknowledged frame sent once more. -/
def resent (p : Port) : Port := { p with unacked := p.unacked.map (fun t => { t with sends := t.sends + 1 }) }

/-- While no frame has been sent 16 times, a replay only sends again (12 R316). -/
theorem replayAll_facts (u : Nat) (s : State) (hfew : ∀ x ∈ (portOf s u).unacked, x.sends < 16) :
    (replayAll u s).gz = s.gz ∧ portOf (replayAll u s) u = resent (portOf s u) ∧
    countOf (replayAll u s) u 0x40 = countOf s u 0x40 := by
  have hnone : ((portOf s u).unacked.map (fun t => { t with sends := t.sends + 1 })).any (fun t => decide (16 < t.sends)) = false := by
    rw [List.any_eq_false]
    intro t ht
    obtain ⟨x, hx, rfl⟩ := List.mem_map.1 ht
    have := hfew x hx
    simp
    omega
  have hport : portOf (modPort s u (fun p => { p with unacked := (portOf s u).unacked.map (fun t => { t with sends := t.sends + 1 }) })) u =
      resent (portOf s u) := by
    rw [portOf_modPort, if_pos rfl]
    rfl
  obtain ⟨n, hn⟩ := replayFrames_eq u ((portOf s u).unacked.map (fun t => { t with sends := t.sends + 1 }))
    (modPort s u (fun p => { p with unacked := (portOf s u).unacked.map (fun t => { t with sends := t.sends + 1 }) }))
  unfold replayAll
  dsimp only
  rw [hn, hnone, if_neg (by decide)]
  set ts := (portOf s u).unacked.map (fun t => { t with sends := t.sends + 1 })
  set x : State := { modPort s u (fun p => { p with unacked := ts }) with net := n }
  obtain ⟨c, hc⟩ := event_eq (count x u 0x38 ts.length) u 0xD002 0 ts.length
  rw [hc]
  have hcount : countOf (count x u 0x38 ts.length) u 0x40 = countOf s u 0x40 := by
    rw [countOf_count, if_neg (by omega)]
    rfl
  exact ⟨rfl, hport, hcount⟩

end Sys2Proof.Proofs
end

section
/-! PROOFS. Ingest frames (12 R322-R324), and the obligation on frames. -/

namespace Sys2Proof.Proofs

open Sys2Proof Sys2Proof.Machine Sys2Proof.Laws

/-! ## Parts of a field -/

theorem getElem_sub (b : List Byte) (off n i : Nat) (h : i < (sub b off n).length) : (sub b off n)[i] = b.getD (off + i) 0 := by
  have hi : i < n := by simpa using h
  simp only [sub]
  by_cases hin : off + i < b.length
  · rw [List.getElem_append_left (by rw [List.length_take, List.length_drop]; omega), List.getElem_take, List.getElem_drop,
      List.getD_eq_getElem _ _ hin]
  · rw [List.getElem_append_right (by rw [List.length_take, List.length_drop]; omega), List.getElem_replicate,
      List.getD_eq_default _ _ (by omega)]

theorem sub_sub (b : List Byte) (off m a n : Nat) (h : a + n ≤ m) : sub (sub b off m) a n = sub b (off + a) n := by
  refine List.ext_getElem (by simp) fun i h1 h2 => ?_
  have hi : i < n := by simpa using h1
  have hlen : a + i < (sub b off m).length := by rw [sub_length]; omega
  rw [getElem_sub, getElem_sub, List.getD_eq_getElem _ _ hlen, getElem_sub, Nat.add_assoc]

theorem sub_append_sub (b : List Byte) (off m n : Nat) : sub b off m ++ sub b (off + m) n = sub b off (m + n) := by
  refine List.ext_getElem (by simp) fun i h1 h2 => ?_
  rw [getElem_sub]
  by_cases hi : i < m
  · rw [List.getElem_append_left (by simpa using hi), getElem_sub]
  · have hle : m ≤ i := Nat.le_of_not_lt hi
    rw [List.getElem_append_right (by simpa using hle), getElem_sub, sub_length]
    congr 1
    omega

/-! ## A record's store -/

/-- A store in two parts leaves what one store leaves. -/
theorem byteAt_split_store (s : State) (w : Who) (a k x : Nat) (bs : List Byte) (h : Memory.wf s.mem.cells = true) (hk : k ≤ bs.length) :
    byteAt (storeNow (storeNow s w a (bs.take k)) w (a + k) (bs.drop k)) x = byteAt (storeNow s w a bs) x := by
  have h1 := storeNow_wf s w a (bs.take k) h
  have htake : (bs.take k).length = k := by rw [List.length_take]; omega
  rw [byteAt_storeNow _ w _ _ x h1, byteAt_storeNow s w a _ x h, byteAt_storeNow s w a bs x h, htake, List.length_drop]
  by_cases hlast : a + k ≤ x ∧ x < a + bs.length
  · rw [if_pos ⟨hlast.1, by omega⟩, if_pos ⟨by omega, hlast.2⟩, List.getD_eq_getElem?_getD, List.getElem?_drop,
      List.getD_eq_getElem?_getD]
    congr 2
    omega
  · rw [if_neg (by omega)]
    by_cases hfirst : a ≤ x ∧ x < a + k
    · rw [if_pos hfirst, if_pos ⟨hfirst.1, by omega⟩, List.getD_eq_getElem?_getD, List.getElem?_take, if_pos (by omega),
        List.getD_eq_getElem?_getD]
    · rw [if_neg hfirst, if_neg (by omega)]

theorem recordStore_eq (s : State) (w : Who) (a : Nat) (bs : List Byte) (hp : poisonIn s (a + bs.length / 32 * 32) 1 = none) :
    recordStore s w a bs = storeNow (storeNow s w a (bs.take (bs.length / 32 * 32))) w (a + bs.length / 32 * 32)
      (bs.drop (bs.length / 32 * 32)) := by
  have hclean := poisonIn_cleaner (storeNow_cleaner s w a (bs.take (bs.length / 32 * 32))) _ 1 hp
  unfold recordStore
  dsimp only
  rw [hclean]
  rfl

theorem count_cleaner (s : State) (u off n : Nat) : Cleaner s (count s u off n) :=
  ⟨rfl, rfl, fun _ h => h, fun k h => ⟨k, h, rfl, fun _ h => h⟩⟩

/-- A record and then its count stand in memory, and nothing else changes (12 R324). -/
theorem record_then_count (s : State) (w : Who) (a b v : Nat) (bs : List Byte) (hc : Calm s [])
    (hp : poisonIn s (a + bs.length / 32 * 32) 1 = none) (hb : poisonIn s (b / 32 * 32) 32 = none)
    (hapart : a + bs.length ≤ b ∨ b + 8 ≤ a) (unit off : Nat) :
    let t := sigStore (count (recordStore s w a bs) unit off 1) w b v
    Calm t [] ∧ t.link = s.link ∧ countOf t unit off = countOf s unit off + 1 ∧ bytesAt t a bs.length = bs ∧ word t b = v % 2 ^ 64 ∧
    MemSame s t [(a, bs.length), (b, 8)] := by
  intro t
  have hrec := recordStore_eq s w a bs hp
  set u := count (recordStore s w a bs) unit off 1 with hu
  have hcu : Calm u [] := by
    have hcrec : Calm (recordStore s w a bs) [] := by
      rw [hrec]
      exact calm_storeNow w _ _ (calm_storeNow w _ _ hc)
    exact hcrec
  have hpu : poisonIn u (b / 32 * 32) 32 = none := by
    have hprec : poisonIn (recordStore s w a bs) (b / 32 * 32) 32 = none := by
      rw [hrec]
      exact poisonIn_cleaner (storeNow_cleaner ..) _ _ (poisonIn_cleaner (storeNow_cleaner ..) _ _ hb)
    exact poisonIn_cleaner (count_cleaner _ unit off 1) _ _ hprec
  have ht : t = storeNow u w b (leBytes 8 v) := by
    show sigStore u w b v = _
    unfold sigStore
    rw [hpu]
    rfl
  have hlinku : u.link = s.link := by
    show (recordStore s w a bs).link = s.link
    rw [hrec]
    simp
  have hcount : countOf u unit off = countOf s unit off + 1 := by
    rw [hu, countOf_count, if_pos rfl, hrec, countOf, (storeNow_frame _ w _ _).2.2.2.2.1, (storeNow_frame s w _ _).2.2.2.2.1]
    rfl
  have hbyte : ∀ x, byteAt u x = byteAt (storeNow s w a bs) x := fun x => by
    refine Eq.trans (byteAt_of_mem (s := recordStore s w a bs) (by rfl) x) ?_
    rw [hrec]
    exact byteAt_split_store s w a _ x bs hc.2.1 (Nat.div_mul_le_self _ _)
  clear_value t u
  subst ht
  refine ⟨calm_storeNow w _ _ hcu, by simp [hlinku], ?_, ?_, word_storeNow u w b v hcu.2.1, fun x hx => ?_⟩
  · rw [← hcount, countOf, (storeNow_frame u w _ _).2.2.2.2.1]
    rfl
  · rw [bytesAt_storeNow_apart u w b a bs.length (leBytes 8 v) hcu.2.1 (by rw [leBytes_length]; omega),
      bytesAt_congr fun x _ _ => hbyte x, bytesAt_storeNow s w a bs hc.2.1]
  · have ha := hx (a, bs.length) (by simp)
    have hb' := hx (b, 8) (by simp)
    rw [byteAt_storeNow u w b _ x hcu.2.1, leBytes_length, if_neg hb', hbyte, byteAt_storeNow s w a bs x hc.2.1, if_neg ha]

/-! ## Ingest -/

/-- The port of an ingest interface is no ingest engine. -/
theorem ingestPort_ne (d i : Nat) (hi : i < 8) (o o' : Nat) (ho : o < 256) (ho' : o' < 256) :
    256 * ingestPort d i + o ≠ 256 * uid 0xE d 0 + o' := by
  unfold ingestPort uid
  omega

/-- The two counts of a dropped ingest frame (12 R322). -/
theorem count_pair (s : State) (u v o o' : Nat) (h : 256 * v + o' ≠ 256 * u + o) :
    countOf (count (count s u o 1) v o' 1) u o = countOf s u o + 1 ∧
    countOf (count (count s u o 1) v o' 1) v o' = countOf s v o' + 1 := by
  refine ⟨?_, ?_⟩
  · rw [countOf_count, if_neg fun h' => h h'.symm, countOf_count, if_pos rfl]
  · rw [countOf_count, if_pos rfl, countOf_count, if_neg h]

/-- The bytes of an ingest record (12 R324). -/
def ingestBytes (iface : Nat) (f : List Byte) : List Byte :=
  leBytes 2 (fld (sub f 62 16) 12 2) ++ [BitVec.ofNat 8 iface, 0] ++ sub f 66 8 ++ leBytes 4 0 ++ sub f 22 16 ++
    sub f 78 (fld (sub f 62 16) 12 2)

theorem ingestBytes_length (iface : Nat) (f : List Byte) : (ingestBytes iface f).length = 32 + fld (sub f 62 16) 12 2 := by
  simp only [ingestBytes, List.length_append, leBytes_length, sub_length, List.length_cons, List.length_nil]

/-- A record is written with the bytes that R324 names, and its count after it. -/
theorem ingestRecord_eq (d i : Nat) (r : IngestRing) (f : List Byte) (s : State) :
    ingestRecord d i r f s =
      (sigStore (count (recordStore s ⟨uid 0xE d 0, hwOrigin d, 0, s.gz.nextJob, 0⟩
        (r.base + r.written % 2 ^ (r.log2 - r.slotLog2) * 2 ^ r.slotLog2) (ingestBytes i f)) (uid 0xE d 0) 0x10 1)
        ⟨uid 0xE d 0, hwOrigin d, 0, s.gz.nextJob, 0⟩ r.tailAddr (r.written + 1), { r with written := r.written + 1 }) := by
  have hbytes : leBytes 2 (fld (sub f 62 16) 12 2) ++ leBytes 1 i ++ leBytes 1 0 ++ sub (sub f 62 16) 4 4 ++ sub (sub f 62 16) 8 4 ++
      leBytes 4 0 ++ sub f 22 16 ++ sub f 78 (fld (sub f 62 16) 12 2) = ingestBytes i f := by
    have hmid : sub (sub f 62 16) 4 4 ++ sub (sub f 62 16) 8 4 = sub f 66 8 := by
      rw [sub_sub f 62 16 4 4 (by decide), sub_sub f 62 16 8 4 (by decide)]
      exact sub_append_sub f 66 4 4
    rw [ingestBytes, ← hmid]
    simp only [List.append_assoc]
    rfl
  unfold ingestRecord
  dsimp only
  rw [hbytes]

/-- A missed verdict is counted and noted with its time (12 R317). -/
def missNoted (u : Nat) (s : State) : State :=
  modPort (count s u 0x40 1) u (fun p => { p with misses := s.now :: p.misses.filter (fun t => s.now - t < 1000000) })

theorem countOf_missNoted (u : Nat) (s : State) : countOf (missNoted u s) u 0x40 = countOf s u 0x40 + 1 := by
  show countOf (count s u 0x40 1) u 0x40 = _
  rw [countOf_count, if_pos rfl]

theorem carries_state {s : State} {u : Nat} (h : carries s u = true) : (portOf s u).state = 2 := by
  simp only [carries, Bool.and_eq_true, decide_eq_true_eq] at h
  exact h.1

theorem countOf_ackedPort (u : Nat) (b : List Byte) (s : State) : countOf (ackedPort u b s) u 0x18 = countOf s u 0x18 := by
  show countOf (count s u 0x48 2048) u 0x18 = _
  rw [countOf_count, if_neg (by omega)]

theorem missed_eq {port : Word32} (u : Nat) (s : State) (hu : u = port.toNat) (hcar : carries s u = true)
    (hne : (portOf s u).unacked ≠ []) :
    exec (.verdictWindowExpiry port) s = .next (settle (
      if 8 ≤ ((portOf s u).misses.filter (fun t => s.now - t < 1000000)).length + 1 then setPort u 3 (missNoted u s)
      else replayAll u (missNoted u s))) := by
  have hport : (portOf (missNoted u s) u).misses.length =
      ((portOf s u).misses.filter (fun t => s.now - t < 1000000)).length + 1 := by
    rw [missNoted, portOf_modPort, if_pos rfl]
    rfl
  show execVerdictWindowExpiry port s = _
  unfold execVerdictWindowExpiry
  dsimp only
  rw [← hu, if_neg (by simp [hcar, hne]), ← hport]
  rfl

/-- Settles O56: broken and good frames by their own lemmas, a missed verdict as a replay, an ingest record as two stores. -/
theorem portsTakeFramesAndIngest : Obligations.PortsTakeFramesAndIngest := by
  refine ⟨fun port b s hi hb => ?_, fun die iface s hc => ?_⟩
  · intro u p h0 h1 route broken e
    refine ⟨?other, ?frames, ?verdict⟩
    case other =>
      intro hnot
      show execPassFrame port b s = _
      unfold execPassFrame
      dsimp only
      rw [if_pos (by simpa using hnot), settle_idle s hi]
    case frames =>
      intro hst hmode
      have he : e = .next (settle (if crc64 (sub b 0 248) != fld b 248 8 || bits h0 18 2 = 3 || 232 < bits h0 22 8 then badFrame u s
          else goodFrame u b s)) := by
        show execPassFrame port b s = _
        unfold execPassFrame
        dsimp only
        rw [if_neg (by simp [show (portOf s port.toNat).state = 2 from hst, show portMode s port.toNat = 0 from hmode])]
      refine ⟨fun hbad => ?_, fun hgood hnak hqueue => ?_⟩
      · rw [if_pos (by simpa [or_assoc] using hbad)] at he
        obtain ⟨hi', hcount, hrx, hfew, hmany⟩ := badFrame_facts u s hi hb hst
        exact ⟨_, he.trans (congrArg _ (settle_idle _ hi')), hcount, hrx, hfew, hmany⟩
      · rw [if_neg (by simpa [broken, or_assoc] using hgood), goodFrame_eq u b s hst hmode hnak] at he
        obtain ⟨-, hseq, hnakk, hq⟩ := acked_frame b p
        have hport := portOf_ackedPort u b s
        refine ⟨fun htype => ⟨fun hin => ?_, fun hout => ?_⟩, fun htype hack hany => ?_⟩
        · rw [if_pos (by exact htype), dataFrame, if_pos (by rw [hport, hseq]; exact hin)] at he
          obtain ⟨hgz, hfs, hnk, hac, hqu, hcn, hmine, hother⟩ := acceptData_facts u (bits (fld b 0 4) 16 2) (fld b 12 4)
            (bit (fld b 0 4) 20) (bit (fld b 0 4) 21) (sub b 16 (bits (fld b 0 4) 22 8)) (ackedPort u b s)
          set y := acceptData u (bits (fld b 0 4) 16 2) (fld b 12 4)
            (bit (fld b 0 4) 20) (bit (fld b 0 4) 21) (sub b 16 (bits (fld b 0 4) 22 8)) (ackedPort u b s)
          have hempty : (portOf (sendIdle u y) u).queue = [] := by
            show (portOf y u).queue = []
            rw [hqu, hport, hq]
            exact hqueue
          have hidle : Idle y := (congrArg GelozSt.jobs hgz).trans hi
          rw [pumpPortAll_empty u _ hempty, settle_idle (sendIdle u y) hidle] at he
          rw [hport, hseq] at hfs
          exact ⟨_, he, hfs, hnk, hac, hcn.trans (by rw [countOf_ackedPort]), hmine, hother⟩
        · rw [if_pos (by exact htype), dataFrame, if_neg (by rw [hport, hseq]; exact hout)] at he
          obtain ⟨y, hy, hgz, hrx, hpy⟩ : ∃ y, (if ((portOf (ackedPort u b s) u).fseqRx + 65536 - bits (fld b 0 4) 0 16) % 65536 ≤ 1024
              then ackedPort u b s else modPort (ackedPort u b s) u (fun p => { p with nak := true })) = y ∧ y.gz = s.gz ∧
              y.link.rx = s.link.rx ∧ portOf y u = { acked b p with
                nak := p.nak || decide (1024 < (p.fseqRx + 65536 - bits h0 0 16) % 65536) } := by
            rw [hport, hseq]
            by_cases hnear : (p.fseqRx + 65536 - bits (fld b 0 4) 0 16) % 65536 ≤ 1024
            · refine ⟨_, if_pos hnear, rfl, rfl, ?_⟩
              rw [hport, decide_eq_false (by exact Nat.not_lt.2 hnear), Bool.or_false, ← hnakk]
            · refine ⟨_, if_neg hnear, rfl, rfl, ?_⟩
              rw [portOf_modPort, if_pos rfl, hport, decide_eq_true (by exact Nat.not_le.1 hnear), Bool.or_true]
          rw [hy] at he
          have hempty : (portOf (sendIdle u y) u).queue = [] := by
            show (portOf y u).queue = []
            rw [hpy]
            exact hq.trans hqueue
          have hidle : Idle y := (congrArg GelozSt.jobs hgz).trans hi
          rw [pumpPortAll_empty u _ hempty, settle_idle (sendIdle u y) hidle] at he
          refine ⟨_, he, ?_, hrx, ?_⟩
          · show (portOf y u).fseqRx = _
            rw [hpy]
            exact hseq
          · show (portOf y u).nak = _
            rw [hpy]
        · rw [if_neg (by show ¬bits h0 18 2 = 0; rw [htype]; decide), pumpPortAll_empty u _ (by rw [hport, hq]; exact hqueue)] at he
          refine ⟨_, he.trans (congrArg _ (settle_idle _ (by exact hi))), rfl, ?_⟩
          show (portOf (ackedPort u b s) u).unacked = _
          rw [hport]
          exact acked_unacked b p hack hany
    case verdict =>
      intro v recent
      refine ⟨fun hnot => ?_, fun hcar hne => ⟨fun hfew hsends => ?_, fun hmany => ?_⟩⟩
      · show execVerdictWindowExpiry port s = _
        unfold execVerdictWindowExpiry
        dsimp only
        rw [if_pos (by obtain h | h := hnot <;> simp [u, p] at h <;> simp [h]), settle_idle s hi]
      · have hmiss := missed_eq u s rfl hcar hne
        rw [if_neg (by show ¬8 ≤ recent.length + 1; omega)] at hmiss
        have hported : portOf (missNoted u s) u = { p with misses := s.now :: recent } := by
          rw [missNoted, portOf_modPort, if_pos rfl]
          rfl
        obtain ⟨hgz, hpu, hcu⟩ := replayAll_facts u (missNoted u s) (by rw [hported]; exact hsends)
        refine ⟨_, hmiss.trans (congrArg _ (settle_idle _ ((congrArg GelozSt.jobs hgz).trans hi))), hcu.trans (countOf_missNoted u s),
          ?_, ?_, ?_⟩
        · show (portOf (replayAll u (missNoted u s)) u).state = 2
          rw [hpu, hported]
          exact carries_state hcar
        · show (portOf (replayAll u (missNoted u s)) u).unacked = _
          rw [hpu, hported]
          rfl
        · show (portOf (replayAll u (missNoted u s)) u).misses = _
          rw [hpu, hported]
          rfl
      · have hmiss := missed_eq u s rfl hcar hne
        rw [if_pos (by show 8 ≤ recent.length + 1; omega)] at hmiss
        obtain ⟨hk, hst⟩ := setPort_state u 3 (missNoted u s) hi hb
        exact ⟨_, hmiss.trans (congrArg _ (settle_idle _ (hk.idle hi))),
          (hk.count u 0x40 (by decide) (by decide) (by decide) (by decide) (by decide)).trans (countOf_missNoted u s), hst⟩
  · intro d port u on
    have hne := ingestPort_ne d iface.val iface.isLt 0x58 0x18 (by decide) (by decide)
    have hne' := ingestPort_ne d iface.val iface.isLt 0x60 0x20 (by decide) (by decide)
    refine ⟨fun fcs f => ?_, fun target source => ?_⟩
    · intro e dropped
      have hdrop : ∀ o o', 256 * port + o' ≠ 256 * u + o → e = .next (settle (count (count s u o 1) port o' 1)) →
          ∃ t, e = .next t ∧ countOf t u o = countOf s u o + 1 ∧ countOf t port o' = countOf s port o' + 1 ∧
            t.mem = s.mem ∧ t.link = s.link := by
        intro o o' h he
        obtain ⟨h1, h2⟩ := count_pair s u port o o' h
        exact ⟨_, he.trans (congrArg _ (settle_idle _ (by exact hc.1))), h1, h2, rfl, rfl⟩
      have heq : e = execIngestFrame die iface fcs f s := rfl
      clear_value e
      unfold execIngestFrame at heq
      dsimp only at heq
      refine ⟨fun hoff => ?_, fun hon hnone => ?_, fun x hon hx => ⟨fun hbad => ?_, fun r hgood hr => ?_⟩⟩
      · rw [heq, if_pos (by simpa [on, imp_iff_not_or] using hoff), settle_idle s hc.1]
      · rw [if_neg (by simpa [on] using hon), show amFind s.link.ingest (die.val + 8) = none from hnone] at heq
        exact hdrop _ _ hne heq
      · rw [if_neg (by simpa [on] using hon), show amFind s.link.ingest (die.val + 8) = some x from hx] at heq
        dsimp only at heq
        rw [if_pos hbad] at heq
        exact hdrop _ _ hne heq
      · rw [if_neg (by simpa [on] using hon), show amFind s.link.ingest (die.val + 8) = some x from hx] at heq
        dsimp only at heq
        rw [if_neg (by simpa using hgood), hr] at heq
        dsimp only at heq
        intro slots n a record full
        refine ⟨fun hfull => ?_, fun hroom hp htail hapart => ?_⟩
        · rw [if_pos (by simpa [full, Option.isSome_iff_ne_none] using hfull)] at heq
          exact hdrop _ _ hne' heq
        · rw [if_neg (by simpa [full, Option.isSome_iff_ne_none] using hroom), ingestRecord_eq] at heq
          have hlen := ingestBytes_length iface.val f
          have hrec := record_then_count s ⟨u, hwOrigin d, 0, s.gz.nextJob, 0⟩ a r.tailAddr (r.written + 1) (ingestBytes iface.val f) hc
            (by rw [hlen]; exact hp) htail (by rw [hlen]; exact hapart _ (List.mem_singleton_self _) _ (List.mem_singleton_self _)) u 0x10
          obtain ⟨hcalm, hlink, hcount, hbytes, hword, hsame⟩ := hrec
          rw [hlen] at hbytes hsame
          set z := sigStore (count (recordStore s ⟨u, hwOrigin d, 0, s.gz.nextJob, 0⟩ a (ingestBytes iface.val f)) u 0x10 1)
            ⟨u, hwOrigin d, 0, s.gz.nextJob, 0⟩ r.tailAddr (r.written + 1)
          have hidle : Idle { z with link := { z.link with ingest := amPut z.link.ingest d { x with
            rings := x.rings.set (fld f 65 1) { r with written := r.written + 1 } } } } := hcalm.1
          refine ⟨_, heq.trans (congrArg _ (settle_idle _ hidle)), ?_, ?_, hcount, ?_,
            { x with rings := x.rings.set (fld f 65 1) { r with written := r.written + 1 } }, ?_, rfl, ?_⟩
          · exact (bytesAt_of_mem (s := z) (by rfl) a _).trans hbytes
          · exact (word_of_mem (s := z) (by rfl) _).trans hword
          · exact MemSame.of_mem hsame rfl
          · exact (amFind_amPut ..).trans (if_pos rfl)
          · have hin : fld f 65 1 < x.rings.length := (List.getElem?_eq_some_iff.1 hr).1
            exact List.getElem?_set_self hin
    · intro e ours
      have heq : e = execNeighborSolicitation die iface target source s := rfl
      clear_value e
      unfold execNeighborSolicitation at heq
      dsimp only at heq
      refine ⟨fun h => ?_, fun h => ?_⟩
      · rw [if_pos (by simpa [ours, on, and_assoc] using h)] at heq
        exact ⟨_, heq.trans (congrArg _ (settle_idle _ (by exact hc.1))), rfl, rfl, rfl⟩
      · rw [if_neg (by simpa [ours, on, and_assoc] using h), settle_idle s hc.1] at heq
        exact heq

end Sys2Proof.Proofs
end

section
/-! PROOFS. What stays where it is when every unit is let go on, and watchdogs (01 R26-R28). -/

namespace Sys2Proof.Proofs

open Sys2Proof Sys2Proof.Machine Sys2Proof.Laws

/-! ## Commands that no unit takes up -/

/-- A command in flight that no unit takes up when it is let go on: it is not queued and retries nothing. -/
def Rests (j : Job) : Prop := j.phase ≠ .inUnit ∧ j.phase ≠ .waitClaim ∧ j.phase ≠ .waitDir ∧ ∀ b, j.phase ≠ .chain b

theorem rests_ending {j : Job} {e : End} (h : j.phase = .ending e) : Rests j :=
  ⟨by simp [h], by simp [h], by simp [h], by simp [h]⟩

theorem Rests.queued {j : Job} (h : Rests j) : queued j = false := by
  unfold Machine.queued
  split
  · next hp => exact absurd hp h.1
  · rfl

theorem Rests.retries {j : Job} (h : Rests j) : retries j = false := by
  unfold Machine.retries
  split
  · next hp => exact absurd hp h.2.1
  · next hp => exact absurd hp h.2.2.1
  · rfl

theorem pumpUnit_rests (run : Job → State → RunRes) (u n : Nat) (s : State) (h : ∀ j ∈ s.gz.jobs, Rests j) :
    pumpUnit run u n s = s := by
  cases n with
  | zero => rfl
  | succ n =>
    have hfind : s.gz.jobs.find? (fun j => j.unit == u && retries j) = none :=
      List.find?_eq_none.2 fun j hj => by simp [(h j hj).retries]
    have hfilter : s.gz.jobs.filter (fun j => j.unit == u && queued j) = [] :=
      List.filter_eq_nil_iff.2 fun j hj => by simp [(h j hj).queued]
    have hnext : nextIn s u = none := by
      unfold nextIn
      rw [hfilter]
      rfl
    rw [pumpUnit, hfind]
    dsimp only
    rw [hnext]
    split <;> rfl

theorem pumpDie_rests (d : Nat) (s : State) (h : ∀ j ∈ s.gz.jobs, Rests j) : pumpDie d s = s := by
  have hcf : pumpCf d s = s := pumpUnit_rests cfRun (cfUnit d) _ s h
  rw [pumpDie, hcf]
  exact pumpUnit_rests wsRun (wsUnit d) _ s h

theorem pumpDies_rests (s : State) (h : ∀ j ∈ s.gz.jobs, Rests j) : pumpDies s = s :=
  foldl_fixed _ s (fun d => pumpDie_rests d s h) _

theorem pumpFlush_rests (d : Nat) (s : State) (h : ∀ j ∈ s.gz.jobs, Rests j) : pumpFlush d s = s :=
  pumpUnit_rests flushRun (uid 0 d 0) _ s h

theorem pumpDrovers_rests (d : Nat) (s : State) (h : ∀ j ∈ s.gz.jobs, Rests j) : pumpDrovers d s = s := by
  have hnone : s.gz.jobs.filterMap (fun j => match j.phase, launchOf j with
      | .inUnit, some p => if uDie j.unit = d then some (j, p) else none
      | _, _ => none) = [] := by
    refine List.filterMap_eq_nil_iff.2 fun j hj => ?_
    split
    · next hp _ => exact absurd hp (h j hj).1
    · rfl
  have hready : launchReady s d = [] := (congrArg (List.filter _) hnone).trans rfl
  unfold pumpDrovers pumpLaunch
  dsimp only
  rw [hready]
  rfl

theorem pumpChains_rests (d : Nat) (js : List Job) (s : State) (h : ∀ j ∈ js, Rests j) : pumpChains d js s = s := by
  induction js with
  | nil => rfl
  | cons j js ih =>
    have hrest := ih fun k hk => h k (List.mem_cons_of_mem _ hk)
    unfold pumpChains
    split
    · next hp => exact absurd hp ((h j List.mem_cons_self).2.2.2 false)
    · exact hrest

/-- A partition with an empty queue stays as it is. -/
theorem pumpPart_empty (u p : Nat) (s : State) (h : (partOf s u p).queue = []) : pumpPart u p s = s := by
  have hnext : nextQueued s u p = none := by
    unfold nextQueued
    rw [h]
    rfl
  unfold pumpPart
  rw [h]
  unfold pump
  rw [hnext]

/-- Where every command in flight rests and no engine's queue holds one, nothing goes on. -/
theorem pumpAll_rests (s : State) (h : ∀ j ∈ s.gz.jobs, Rests j) (hq : ∀ u p, (partOf s u p).queue = []) : pumpAll s = s := by
  have hparts : ∀ e : Nat × Engine, e.2.parts.foldl (fun s p => pumpPart e.1 p.1 s) s = s :=
    fun e => foldl_fixed _ s (fun p => pumpPart_empty e.1 p.1 s (hq _ _)) _
  have hengines : pumpEngines s = s := foldl_fixed _ s hparts _
  unfold pumpAll
  rw [hengines]
  refine foldl_fixed _ s (fun d => ?_) _
  rw [pumpDie_rests d s h, pumpFlush_rests d s h, pumpDrovers_rests d s h]
  exact pumpChains_rests d _ s h

theorem partOf_bare {s : State} (h : s.mm = []) (u p : Nat) : partOf s u p = {} := by
  rw [partOf, engineOf, h]
  rfl

/-! ## Changes of health -/

/-- A state that differs from another in health, dies, and what the ledger touches. -/
def HealthOnly (s t : State) : Prop :=
  ∃ n h d c r f, t = { s with
    hw := { s.hw with counts := n, health := h, dies := d }
    gz := { s.gz with ctxs := c }
    tr := r
    flash := f }

theorem HealthOnly.refl (s : State) : HealthOnly s s := ⟨_, _, _, _, _, _, rfl⟩

theorem HealthOnly.trans {s t u : State} (h : HealthOnly s t) (k : HealthOnly t u) : HealthOnly s u := by
  obtain ⟨_, _, _, _, _, _, rfl⟩ := h
  obtain ⟨_, _, _, _, _, _, rfl⟩ := k
  exact ⟨_, _, _, _, _, _, rfl⟩

theorem HealthOnly.frame {s t : State} (h : HealthOnly s t) :
    t.mem = s.mem ∧ t.mm = s.mm ∧ t.gz.jobs = s.gz.jobs ∧ t.gz.rings = s.gz.rings ∧ t.sig = s.sig ∧ t.now = s.now ∧
    t.hw.abandoned = s.hw.abandoned ∧ t.hw.items = s.hw.items ∧ t.gz.windows = s.gz.windows ∧ t.snap = s.snap ∧ t.link = s.link := by
  obtain ⟨_, _, _, _, _, _, rfl⟩ := h
  exact ⟨rfl, rfl, rfl, rfl, rfl, rfl, rfl, rfl, rfl, rfl, rfl⟩

theorem LedgerOnly.healthOnly {s t : State} (h : LedgerOnly s t) : HealthOnly s t := by
  obtain ⟨_, _, _, _, rfl⟩ := h
  exact ⟨_, _, _, _, _, _, rfl⟩

theorem modHealth_healthOnly (s : State) (u : Nat) (f : Health → Health) : HealthOnly s (modHealth s u f) := ⟨_, _, _, _, _, _, rfl⟩

theorem setReady_healthOnly (u : Nat) (r : Bool) (cause : Nat) (s : State) : HealthOnly s (setReady u r cause s) := by
  unfold setReady
  split
  · exact .refl s
  · exact HealthOnly.trans ⟨_, _, _, _, _, _, rfl⟩ (ledgerEv_ledgerOnly ..).healthOnly

theorem health_ledger (die o re ob fi c old new aux x : Nat) (s : State) :
    health (ledger die o re ob fi c old new aux s) x = health s x := by
  obtain ⟨_, _, _, _, ht⟩ := ledgerEv_ledgerOnly die (mkEv o re ob fi c old new aux) s
  unfold ledger
  rw [ht]
  rfl

/-- What a change of readiness leaves of a unit's health (14 R372). -/
theorem health_setReady (u x : Nat) (r : Bool) (cause : Nat) (s : State) :
    health (setReady u r cause s) x =
      if x = u ∧ (health s u).ready ≠ r then { health s u with ready := r, lastCause := cause } else health s x := by
  unfold setReady
  split
  · next h => rw [if_neg (fun k => k.2 h)]
  · next h =>
    rw [health_ledger]
    refine (show _ = health (modHealth s u fun h => { h with ready := r, lastCause := cause }) x from rfl).trans ?_
    rw [health_modHealth]
    by_cases hx : x = u
    · rw [if_pos hx, if_pos ⟨hx, h⟩]
    · rw [if_neg hx, if_neg (fun k => hx k.1)]

theorem ready_setReady (u : Nat) (r : Bool) (cause : Nat) (s : State) : (health (setReady u r cause s) u).ready = r := by
  rw [health_setReady]
  by_cases h : (health s u).ready = r
  · rw [if_neg (fun k => k.2 h), h]
  · rw [if_pos ⟨rfl, h⟩]

/-! ## Resetting a receiver -/

/-- A handshake is noted as abandoned. -/
def abandonedNoted (u b r : Nat) (s : State) : State :=
  { s with hw := { s.hw with abandoned := s.hw.abandoned.filter (· != (u, b, r)) ++ [(u, b, r)] } }

/-- A receiver that is reset is not ready, and its handshake is abandoned (01 R28). -/
theorem resetReceiver_facts (u b r : Nat) (s : State) :
    HealthOnly (abandonedNoted u b r s) (resetReceiver u b r s) ∧ (health (resetReceiver u b r s) r).ready = false ∧
    ((health s r).ready = true → (health (resetReceiver u b r s) r).resetting = true) := by
  have heq : resetReceiver u b r s = if (health s r).ready then
      setReady r false 5 (modHealth (abandonedNoted u b r s) r (fun h => { h with resetting := true }))
      else abandonedNoted u b r s := rfl
  rw [heq]
  by_cases h : (health s r).ready = true
  · rw [if_pos h]
    refine ⟨(modHealth_healthOnly ..).trans (setReady_healthOnly ..), ready_setReady .., fun _ => ?_⟩
    rw [health_setReady, health_modHealth, if_pos rfl]
    split <;> rfl
  · rw [if_neg h]
    exact ⟨.refl _, Bool.eq_false_iff.2 h, fun k => absurd k h⟩

theorem resetReceiver_abandoned (u b r : Nat) (s : State) : (u, b, r) ∈ (resetReceiver u b r s).hw.abandoned := by
  rw [(resetReceiver_facts u b r s).1.frame.2.2.2.2.2.2.1]
  simp [abandonedNoted]

/-- An end that charges no points leaves the units as they were. -/
theorem settle_ended_hw (s : State) (j : Job) (e : End) (hj : s.gz.jobs = [j]) (hp : j.phase = .ending e)
    (hw : s.sig.waiters = []) (hpts : endPoints e = 0) : (settle s).hw = s.hw := by
  obtain ⟨un, hl⟩ := leaving_eq s j e
  have hcalm := (finish_calm (leaving s j e) j e (by rw [hl]; exact hw) hpts).1
  rw [settle_ended s j e hj hp]
  show (finish (leaving s j e) j e).hw = s.hw
  rw [hcalm, hl]

theorem detach_calm {s : State} {js : List Job} {id : Nat} (h : Calm s js) : detach s id = s := by
  show { s with sig := { s.sig with waiters := s.sig.waiters.filter _ } } = s
  have hw : s.sig.waiters.filter (fun w => w.who != .job id) = s.sig.waiters := by rw [h.2.2]; rfl
  rw [hw]

/-- A fault in a partition that holds nothing touches no command, no byte and no queue (04 R119). -/
theorem partFault_bare (s : State) (u p hit : Nat) (hmm : s.mm = []) :
    (partFault s u p hit).gz.jobs = s.gz.jobs ∧ (partFault s u p hit).mem = s.mem ∧
    ∀ x q, (partOf (partFault s u p hit) x q).queue = [] := by
  set d := if uKind hit = 2 && fieldEngine hit = u && (partFields (shapeOf s u) p).contains (uInst hit % 16) then hit else u with hd
  set x := modPart s u p (fun pt => { pt with exec := none, x := spoil UNIT_FAULT d pt.x, y := spoil UNIT_FAULT d pt.y })
  have hempty : partOf s u p = {} := partOf_bare hmm u p
  have heq : partFault s u p hit =
      if d = u then count x u 0x30 1 else setReady d false 10 (count (count x u 0x30 1) d 0x14 1) := by
    unfold partFault
    rw [hempty]
    show (if d = u then count (charge d 0 x) u 0x30 1 else setReady d false 10 (count (count (charge d 0 x) u 0x30 1) d 0x14 1)) = _
    rw [charge_zero]
  have hqueue : ∀ y q, (partOf x y q).queue = [] := by
    intro y q
    by_cases hy : y = u
    · rw [hy, partOf_modPart]
      split
      · rw [hempty]
      · rw [partOf_bare hmm]
    · have hengine : engineOf x y = engineOf s y := by
        show engineOf (modEngine s u _) y = _
        rw [engineOf_modEngine, if_neg hy]
      rw [partOf, hengine]
      exact congrArg Part.queue (partOf_bare hmm y q)
  rw [heq]
  split
  · exact ⟨rfl, rfl, hqueue⟩
  · obtain ⟨hmem, hm, hjobs, -⟩ := (setReady_healthOnly d false 10 (count (count x u 0x30 1) d 0x14 1)).frame
    refine ⟨hjobs, hmem, fun y q => ?_⟩
    rw [partOf, engineOf, hm]
    exact hqueue y q

/-- The counts of a late acknowledge: at its boundary, at the silent block and on the die (01 R28; 14 R386). -/
def lateCounted (u b : Nat) (s : State) : State :=
  let s := if uKind u = 0xF then count s u 0x18 1 else s
  let s := match s.hw.abandoned.find? (fun a => a.1 == u && a.2.1 == b) with
    | some (_, _, r) => if uKind r = 0 && uInst r != 0 then count s r 0x20 1 else s
    | none => s
  if isLD (uDie u) then count s (uid 0 (uDie u) 0) 0x18 1 else s

theorem uKind_block (d : Nat) (hd : d < 16) : uKind (uid 0 d 0) = 0 := by
  unfold uKind bits uid
  omega

theorem lateCounted_facts (u b : Nat) (s : State) :
    (∃ n, lateCounted u b s = { s with hw := { s.hw with counts := n } }) ∧
    (uKind u = 0xF → countOf (lateCounted u b s) u 0x18 = countOf s u 0x18 + 1) := by
  unfold lateCounted
  extract_lets s1 s2
  have h1 : ∃ n, s1 = { s with hw := { s.hw with counts := n } } := by
    show ∃ n, (if uKind u = 0xF then count s u 0x18 1 else s) = _
    split
    · exact ⟨_, rfl⟩
    · exact ⟨s.hw.counts, rfl⟩
  have h2 : (∃ n, s2 = { s1 with hw := { s1.hw with counts := n } }) ∧ countOf s2 u 0x18 = countOf s1 u 0x18 := by
    have hs2 : s2 = match s1.hw.abandoned.find? (fun a => a.1 == u && a.2.1 == b) with
        | some (_, _, r) => if uKind r = 0 && uInst r != 0 then count s1 r 0x20 1 else s1
        | none => s1 := rfl
    rw [hs2]
    split
    · split
      · exact ⟨⟨_, rfl⟩, by rw [countOf_count, if_neg (by omega)]⟩
      · exact ⟨⟨s1.hw.counts, rfl⟩, rfl⟩
    · exact ⟨⟨s1.hw.counts, rfl⟩, rfl⟩
  obtain ⟨n1, hn1⟩ := h1
  obtain ⟨⟨n2, hn2⟩, hc2⟩ := h2
  have hboundary : uKind u = 0xF → countOf s1 u 0x18 = countOf s u 0x18 + 1 := by
    intro hk
    show countOf (if uKind u = 0xF then count s u 0x18 1 else s) u 0x18 = _
    rw [if_pos hk, countOf_count, if_pos rfl]
  have hs2 : s2 = { s with hw := { s.hw with counts := n2 } } := by rw [hn2, hn1]
  clear_value s2 s1
  subst hs2
  refine ⟨?_, fun hk => ?_⟩
  · split
    · exact ⟨_, rfl⟩
    · exact ⟨n2, rfl⟩
  · rw [← hboundary hk, ← hc2]
    split
    · rw [countOf_count, if_neg]
      intro h
      have hd : uDie u < 16 := Nat.mod_lt _ (by decide)
      have hu : u = uid 0 (uDie u) 0 := by omega
      rw [hu, uKind_block _ hd] at hk
      exact absurd hk (by decide)
    · rfl

/-- A late acknowledge changes counts alone (01 R28; 14 R386). -/
theorem lateAcknowledge_eq (unit : Word32) (b : Byte) (s : State) : ∃ c n,
    (uKind unit.toNat = 0xF → amGet 0 n (256 * unit.toNat + 0x18) = countOf s unit.toNat 0x18 + 1) ∧
    exec (.lateAcknowledge unit b) s = .next (settle { s with hw := { s.hw with
      lateAcks := amMod 0 s.hw.lateAcks (256 * unit.toNat + b.toNat) (· + 1), counts := n, counters := c } }) := by
  have heq : exec (.lateAcknowledge unit b) s = .next (settle (event (lateCounted unit.toNat b.toNat
      { s with hw := { s.hw with lateAcks := amMod 0 s.hw.lateAcks (256 * unit.toNat + b.toNat) (· + 1) } })
      (uid 0 (uDie unit.toNat) 0) 0x0001 0 1)) := rfl
  obtain ⟨⟨n, hn⟩, hcount⟩ := lateCounted_facts unit.toNat b.toNat
    { s with hw := { s.hw with lateAcks := amMod 0 s.hw.lateAcks (256 * unit.toNat + b.toNat) (· + 1) } }
  rw [hn] at heq hcount
  obtain ⟨c, hc⟩ := event_eq { s with hw := { s.hw with
    lateAcks := amMod 0 s.hw.lateAcks (256 * unit.toNat + b.toNat) (· + 1), counts := n } } (uid 0 (uDie unit.toNat) 0) 0x0001 0 1
  exact ⟨c, n, hcount, heq.trans (congrArg (fun x => Host.Outcome.next (settle x)) hc)⟩

/-- A command that waits for a signal or is parked is stopped by ending it. -/
theorem stopJob_waiting (s : State) (j : Job) (e : End) (hc : Calm s [j]) (hp : j.phase = .parked ∨ ∃ p, j.phase = .waitSignal p) :
    stopJob j e s = endJob s j.id e := by
  unfold stopJob
  obtain hp | ⟨p, hp⟩ := hp
  · rw [hp]
  · rw [hp]
    exact congrArg (fun x => endJob x j.id e) (detach_calm hc)

/-- An expiry that ends the one command in flight answers it, and leaves the units as the reset left them. -/
theorem expiry_ends (s : State) (j : Job) (u b r : Nat) (e : End) (hb : Bare s) (hc : Calm s [j])
    (hp : j.phase = .parked ∨ ∃ p, j.phase = .waitSignal p) (hpts : endPoints e = 0) :
    Answered s (settle (pumpAll (resetReceiver u b r (stopJob j e s)))) j e ∧
    (settle (pumpAll (resetReceiver u b r (stopJob j e s)))).hw = (resetReceiver u b r (stopJob j e s)).hw := by
  rw [stopJob_waiting s j e hc hp]
  obtain ⟨hmem, hmm, hjobs, hrings, hsig, hnow, -⟩ := (resetReceiver_facts u b r (endJob s j.id e)).1.frame
  have hone := hjobs.trans (jobs_endJob_one s j e hc.1)
  rw [pumpAll_rests _ (by rw [hone]; simpa using rests_ending rfl) (fun u p => by rw [partOf_bare (hmm.trans hb.1)])]
  exact ⟨answered_settle hone rfl (by rw [hmem]; exact hc.2.1) (by rw [hsig]; exact hc.2.2) (.of_rings hrings _) hnow
    ⟨rfl, rfl, rfl, rfl, rfl⟩, settle_ended_hw _ _ _ hone rfl (by rw [hsig]; exact hc.2.2) hpts⟩

/-- A handshake into a field that times out, where nothing is in flight (04 R119). -/
theorem fieldFault_facts (s : State) (u p b f : Nat) (hmm : s.mm = []) (hi : Idle s) :
    ∃ t, pumpAll (resetReceiver u b f (partFault s u p f)) = t ∧ Idle t ∧ (u, b, f) ∈ t.hw.abandoned ∧ (health t f).ready = false ∧ t.mem = s.mem := by
  obtain ⟨hpj, hpm, hpq⟩ := partFault_bare s u p f hmm
  obtain ⟨hh, hready, -⟩ := resetReceiver_facts u b f (partFault s u p f)
  obtain ⟨hmem, hm, hjobs, -⟩ := hh.frame
  have hidle : Idle (resetReceiver u b f (partFault s u p f)) := (hjobs.trans hpj).trans hi
  have ht := pumpAll_rests (resetReceiver u b f (partFault s u p f)) (by rw [hidle]; simp)
    (fun x q => by rw [partOf, engineOf, hm]; exact hpq x q)
  exact ⟨_, ht, hidle, resetReceiver_abandoned .., hready, hmem.trans hpm⟩

theorem exec_expiry_field (unit : Word32) (part b : Byte) (silent : Word32) (s : State)
    (u f : Nat) (hu : u = unit.toNat) (hfield : f = uid 2 (uDie u) (16 * uInst u + (b.toNat - 16)))
    (hf : uKind u = 1 ∧ 16 ≤ b.toNat ∧ b.toNat < 32) :
    exec (.watchdogExpiry unit part b silent) s =
      .next (settle (pumpAll (resetReceiver u b.toNat f (partFault s u part.toNat f)))) := by
  subst hfield
  subst hu
  obtain ⟨hk, hlo, hhi⟩ := hf
  show execWatchdogExpiry unit part b silent s = _
  unfold execWatchdogExpiry
  dsimp only
  rw [if_pos (by simp [hk, hlo, hhi])]

/-- Settles O49: an expiry by what rests, a receiver's reset by its readiness, a late acknowledge by its counts. -/
theorem watchdogsEndAndReset : Obligations.WatchdogsEndAndReset := by
  refine ⟨fun unit part b silent s => ?expiry, fun unit b completed s hi => ?reset, fun unit b s hi => ?late⟩
  case expiry =>
    intro u r field f e reset hb
    refine ⟨fun hf hi hop => ?_, fun hf j hc hop hp => ?_, fun hf hi => ?_⟩
    · have he : e = .next (settle (pumpAll (resetReceiver u b.toNat r s))) := by
        show execWatchdogExpiry unit part b silent s = _
        unfold execWatchdogExpiry
        dsimp only
        rw [if_neg (by simpa [field, u] using hf), hop]
      obtain ⟨hh, hready, hres⟩ := resetReceiver_facts u b.toNat r s
      obtain ⟨hmem, hmm, hjobs, -⟩ := hh.frame
      have hidle : Idle (resetReceiver u b.toNat r s) := hjobs.trans hi
      rw [pumpAll_rests _ (by rw [hidle]; simp) (fun u p => by rw [partOf_bare (hmm.trans hb.1)])] at he
      exact ⟨_, he.trans (congrArg _ (settle_idle _ hidle)), ⟨resetReceiver_abandoned .., hready, hres⟩, hmem⟩
    · have he : e = .next (settle (pumpAll (resetReceiver u b.toNat r
          (stopJob j { fails TIMEOUT r with origin := some (hwOrigin (uDie r)) } s)))) := by
        show execWatchdogExpiry unit part b silent s = _
        unfold execWatchdogExpiry
        dsimp only
        rw [if_neg (by simpa [field, u] using hf), hop]
      obtain ⟨hans, hhw⟩ := expiry_ends s j u b.toNat r { fails TIMEOUT r with origin := some (hwOrigin (uDie r)) } hb hc hp (by rfl)
      obtain ⟨-, hready, hres⟩ := resetReceiver_facts u b.toNat r (stopJob j { fails TIMEOUT r with origin := some (hwOrigin (uDie r)) } s)
      rw [stopJob_waiting s j _ hc hp] at he hans hhw hready hres
      refine ⟨_, he, ?_, hans⟩
      show (_ ∈ (settle _).hw.abandoned) ∧ (amGet {} (settle _).hw.health r).ready = false ∧
        (_ → (amGet {} (settle _).hw.health r).resetting = true)
      rw [hhw]
      exact ⟨resetReceiver_abandoned .., hready, hres⟩
    · obtain ⟨t, ht, hidle, hab, hready, hmem⟩ := fieldFault_facts s u part.toNat b.toNat f hb.1 hi
      have he := exec_expiry_field unit part b silent s u f rfl rfl hf
      rw [ht, settle_idle t hidle] at he
      exact ⟨_, he, hab, hready, hmem⟩
  case reset =>
    intro u e
    refine ⟨fun hnone => ?_, fun r hr => ?_⟩
    · show execReceiverResetExpiry unit b completed s = _
      unfold execReceiverResetExpiry
      dsimp only
      rw [hnone, settle_idle s hi]
    · intro h left
      refine ⟨fun hdone hres hleft hwell => ?_, fun hlate => ?_⟩
      · have he : e = .next (settle (setReady r true 5 (modHealth { s with hw := { s.hw with abandoned := left } } r
            (fun h => { h with resetting := false })))) := by
          show execReceiverResetExpiry unit b completed s = _
          unfold execReceiverResetExpiry
          dsimp only
          rw [hr]
          dsimp only
          rw [if_pos hdone, if_pos (by rw [hleft, Bool.not_false, Bool.and_true]; exact hres), if_neg (by exact Bool.eq_false_iff.1 hwell)]
        have hh := setReady_healthOnly r true 5 (modHealth { s with hw := { s.hw with abandoned := left } } r
            (fun h => { h with resetting := false }))
        obtain ⟨-, -, hjobs, -, -, -, hab, -⟩ := hh.frame
        refine ⟨_, he.trans (congrArg _ (settle_idle _ (hjobs.trans hi))), hab, ready_setReady .., ?_⟩
        refine (congrArg Health.resetting (health_setReady r r true 5 _)).trans ?_
        rw [health_modHealth, if_pos rfl]
        split <;> rfl
      · have he : e = .next (settle (ledger (uDie r) (hwOrigin (uDie r)) 0xE r 14 0 0 b.toNat 0
            (modHealth { s with hw := { s.hw with abandoned := left } } r
              (fun h => { h with failed := true, resetting := false })))) := by
          show execReceiverResetExpiry unit b completed s = _
          unfold execReceiverResetExpiry
          dsimp only
          rw [hr]
          dsimp only
          rw [if_neg (by simp [hlate])]
        set x := modHealth { s with hw := { s.hw with abandoned := left } } r (fun h => { h with failed := true, resetting := false })
        have hx : health x r = { h with failed := true, resetting := false } := by
          rw [health_modHealth, if_pos rfl]
          rfl
        obtain ⟨-, -, hjobs, -, -, -, hab, -⟩ := (ledgerEv_ledgerOnly (uDie r) (mkEv (hwOrigin (uDie r)) 0xE r 14 0 0 b.toNat 0) x).healthOnly.frame
        have hhealth := (health_ledger (uDie r) (hwOrigin (uDie r)) 0xE r 14 0 0 b.toNat 0 r x).trans hx
        have hfailed := congrArg Health.failed hhealth
        have hready := congrArg Health.ready hhealth
        have hresetting := congrArg Health.resetting hhealth
        exact ⟨_, he.trans (congrArg _ (settle_idle _ (hjobs.trans hi))), hab, hfailed, hready, hresetting⟩
  case late =>
    intro u
    obtain ⟨c, n, hn, heq⟩ := lateAcknowledge_eq unit b s
    refine ⟨_, heq.trans (congrArg _ (settle_idle _ (by exact hi))), ?_, hn, rfl, rfl, rfl, rfl⟩
    exact (amGet_amMod ..).trans (if_pos rfl)

end Sys2Proof.Proofs
end

section
/-! PROOFS. What reading a block leaves: counts, poison and map-outs, and no byte (08 R232, R240, R241). -/

namespace Sys2Proof.Proofs

open Sys2Proof Sys2Proof.Machine Sys2Proof.Laws

/-- The key of the ledger's own count. -/
def ledgerKey : Nat := 256 * uid 6 12 0 + 0x30

/-- Work on a channel where nothing waits for a signal: no byte and no command changes, no block is cleared, and no count but the
ledger's. -/
structure BlockWork (s t : State) : Prop where
  cells : t.mem.cells = s.mem.cells
  undef : t.mem.undef = s.mem.undef
  kept : t.mem.kept = s.mem.kept
  poison : ∀ b ∈ s.mem.poison, b ∈ t.mem.poison
  jobs : t.gz.jobs = s.gz.jobs
  waiters : t.sig.waiters = []
  counts : Counted s t
  ctl : t.mm = s.mm ∧ t.gz.rings = s.gz.rings ∧ t.now = s.now

theorem BlockWork.refl {s : State} (h : s.sig.waiters = []) : BlockWork s s := ⟨rfl, rfl, rfl, fun _ h => h, rfl, h, .refl s, rfl, rfl, rfl⟩

theorem BlockWork.trans {s t u : State} (h : BlockWork s t) (k : BlockWork t u) : BlockWork s u :=
  ⟨k.cells.trans h.cells, k.undef.trans h.undef, k.kept.trans h.kept, fun b hb => k.poison b (h.poison b hb), k.jobs.trans h.jobs,
    k.waiters, h.counts.trans k.counts,
    k.ctl.1.trans h.ctl.1, k.ctl.2.1.trans h.ctl.2.1, k.ctl.2.2.trans h.ctl.2.2⟩

theorem BlockWork.foldl {α : Type} (f : State → α → State) (h : ∀ s x, s.sig.waiters = [] → BlockWork s (f s x)) (l : List α)
    (s : State) (hw : s.sig.waiters = []) : BlockWork s (l.foldl f s) := by
  induction l generalizing s with
  | nil => exact .refl hw
  | cons x l ih => exact (h s x hw).trans (ih _ (h s x hw).waiters)

theorem BlockWork.memSame {s t : State} (h : BlockWork s t) : MemSame s t [] := fun x _ => byteAt_congr h.cells h.undef x

theorem BlockWork.blockPoisoned {s t : State} (h : BlockWork s t) (b : Nat) (hb : blockPoisoned s b = true) :
    blockPoisoned t b = true := by
  unfold Machine.blockPoisoned at hb ⊢
  rw [h.kept]
  simp only [Bool.or_eq_true, List.contains_iff_mem] at hb ⊢
  exact hb.imp_left (h.poison b)

theorem BlockWork.countOf {s t : State} (h : BlockWork s t) (u off : Nat) (hne : 256 * u + off ≠ ledgerKey) :
    countOf t u off = countOf s u off := h.counts _ hne

/-! ## The parts of a channel's work -/

theorem modChan_work (s : State) (u : Nat) (f : Chan → Chan) (hw : s.sig.waiters = []) : BlockWork s (modChan s u f) :=
  ⟨rfl, rfl, rfl, fun _ h => h, rfl, hw, fun _ _ => rfl, rfl, rfl, rfl⟩

theorem modSide_work (s : State) (u : Nat) (f : Side → Side) (hw : s.sig.waiters = []) : BlockWork s (modSide s u f) :=
  ⟨rfl, rfl, rfl, fun _ h => h, rfl, hw, fun _ _ => rfl, rfl, rfl, rfl⟩

theorem actOn_work (obj : OrderObj) (o : Order) (s : State) (hw : s.sig.waiters = []) : BlockWork s (actOn obj o s) :=
  ⟨rfl, rfl, rfl, fun _ h => h, rfl, hw, fun _ _ => rfl, rfl, rfl, rfl⟩

theorem modHealth_work (s : State) (u : Nat) (f : Health → Health) (hw : s.sig.waiters = []) : BlockWork s (modHealth s u f) :=
  ⟨rfl, rfl, rfl, fun _ h => h, rfl, hw, fun _ _ => rfl, rfl, rfl, rfl⟩

theorem counters_work (s : State) (c : AMap Nat) (hw : s.sig.waiters = []) :
    BlockWork s { s with hw := { s.hw with counters := c } } := ⟨rfl, rfl, rfl, fun _ h => h, rfl, hw, fun _ _ => rfl, rfl, rfl, rfl⟩

theorem event_work (s : State) (u code ctx k : Nat) (hw : s.sig.waiters = []) : BlockWork s (event s u code ctx k) := by
  obtain ⟨c, hc⟩ := event_eq s u code ctx k
  rw [hc]
  exact counters_work s c hw

theorem arrivalUpTo_work (u code ctx n : Nat) (s : State) (hw : s.sig.waiters = []) : BlockWork s (arrivalUpTo u code ctx n s) := by
  induction n generalizing s with
  | zero => exact .refl hw
  | succ n ih =>
    rw [arrivalUpTo]
    split
    · exact (counters_work s _ hw).trans (ih _ hw)
    · exact ih _ hw

theorem record_work (s : State) (c : Nat) (l : List (Nat × Nat)) (hw : s.sig.waiters = []) : BlockWork s (record s c l) := by
  unfold record
  dsimp only
  split
  · exact .refl hw
  · exact ⟨rfl, rfl, rfl, fun _ h => h, rfl, hw, fun _ _ => rfl, rfl, rfl, rfl⟩

theorem ledger_work (die o re ob fi c old new aux : Nat) (s : State) (hw : s.sig.waiters = []) :
    BlockWork s (ledger die o re ob fi c old new aux s) := by
  obtain ⟨hmem, hmm, hjobs, hrings, hsig, hnow, -⟩ := (ledgerEv_ledgerOnly die (mkEv o re ob fi c old new aux) s).healthOnly.frame
  unfold ledger
  exact ⟨by rw [hmem], by rw [hmem], by rw [hmem], by rw [hmem]; exact fun _ h => h, hjobs, by rw [hsig]; exact hw, ledgerEv_counted _ _ _,
    hmm, hrings, hnow⟩

theorem ledgerEv_work (die : Nat) (e : LedgerEvent) (s : State) (hw : s.sig.waiters = []) : BlockWork s (ledgerEv die e s) := by
  obtain ⟨hmem, hmm, hjobs, hrings, hsig, hnow, -⟩ := (ledgerEv_ledgerOnly die e s).healthOnly.frame
  exact ⟨by rw [hmem], by rw [hmem], by rw [hmem], by rw [hmem]; exact fun _ h => h, hjobs, by rw [hsig]; exact hw, ledgerEv_counted _ _ _,
    hmm, hrings, hnow⟩

theorem setReady_work (u : Nat) (r : Bool) (cause : Nat) (s : State) (hw : s.sig.waiters = []) : BlockWork s (setReady u r cause s) := by
  unfold setReady
  split
  · exact .refl hw
  · refine BlockWork.trans ?_ (ledger_work _ _ _ _ _ _ _ _ _ _ (by exact hw))
    exact ⟨rfl, rfl, rfl, fun _ h => h, rfl, hw, fun _ _ => rfl, rfl, rfl, rfl⟩

theorem sideCheck_work (side : Nat) (s : State) (hw : s.sig.waiters = []) : BlockWork s (sideCheck side s) := by
  unfold sideCheck
  dsimp only
  split
  · exact setReady_work _ _ _ _ hw
  · split
    · exact setReady_work _ _ _ _ hw
    · exact .refl hw

theorem setChanState_work (ch : Nat) (c : ChanState) (s : State) (hw : s.sig.waiters = []) : BlockWork s (setChanState ch c s) :=
  ⟨rfl, rfl, rfl, fun _ h => h, rfl, hw, fun _ _ => rfl, rfl, rfl, rfl⟩

/-- With no waiter, the poison of a lost channel tells none. -/
theorem losePoison_eq (ch : Nat) (s : State) (hw : s.sig.waiters = []) : losePoison ch s = s := by
  unfold losePoison
  rw [hw]
  rfl

theorem hardMapOut_work (ch origin : Nat) (s : State) (hw : s.sig.waiters = []) : BlockWork s (hardMapOut ch origin s) := by
  unfold hardMapOut
  extract_lets side s1 s2 s3 s4
  have h1 : BlockWork s s1 := setChanState_work ch .lost s hw
  have h2 : BlockWork s s2 := h1.trans (modChan_work s1 ch _ h1.waiters)
  have h3 : BlockWork s s3 := h2.trans (modSide_work s2 side _ h2.waiters)
  have h4 : BlockWork s s4 := h3.trans (ledger_work _ _ _ _ _ _ _ _ _ _ h3.waiters)
  have h5 : BlockWork s (reportContexts ch origin s4) :=
    h4.trans (.foldl _ (fun s _ hs => ledger_work _ _ _ _ _ _ _ _ _ s hs) _ s4 h4.waiters)
  rw [losePoison_eq ch _ h5.waiters]
  exact h5.trans (sideCheck_work side _ h5.waiters)

theorem autoHard_work (ch : Nat) (s : State) (hw : s.sig.waiters = []) : BlockWork s (autoHard ch s) :=
  (actOn_work _ _ s hw).trans (hardMapOut_work ch _ _ hw)

theorem softMapOut_work (ch origin : Nat) (s : State) (hw : s.sig.waiters = []) : BlockWork s (softMapOut ch origin s) :=
  (modSide_work s _ _ hw).trans (ledger_work _ _ _ _ _ _ _ _ _ _ hw)

theorem autoSoft_work (ch : Nat) (s : State) (hw : s.sig.waiters = []) : BlockWork s (autoSoft ch s) := by
  unfold autoSoft
  dsimp only
  split
  · exact (actOn_work _ _ s hw).trans (softMapOut_work ch _ _ hw)
  · split
    · exact (modSide_work s _ _ hw).trans (ledgerEv_work _ _ _ hw)
    · exact .refl hw

theorem mem_insertSorted (x y : Nat) (l : List Nat) : y ∈ insertSorted x l ↔ y = x ∨ y ∈ l := by
  induction l with
  | nil => simp [insertSorted]
  | cons z l ih =>
    unfold insertSorted
    split
    · simp
    · split
      · next h => simp [h]
      · simp only [List.mem_cons, ih]
        tauto

/-- A block that is poisoned is so afterwards, and nothing else changes but the ledger (08 R241). -/
theorem poisonBlock_work (b : Nat) (s : State) (hw : s.sig.waiters = []) :
    BlockWork s (poisonBlock s b) ∧ blockPoisoned (poisonBlock s b) b = true := by
  unfold poisonBlock
  split
  · next h => exact ⟨.refl hw, h⟩
  · dsimp only
    set s1 : State := { s with mem := { s.mem with poison := insertSorted b s.mem.poison } }
    set s2 : State := ledger (uDie (chanOf s (32 * b))) (hwOrigin (uDie (chanOf s (32 * b)))) 8 (chanOf s (32 * b)) 0 0 0 0
      (32 * b % 2 ^ 35) s1
    have h1 : BlockWork s s1 := ⟨rfl, rfl, rfl, fun x hx => (mem_insertSorted b x _).2 (.inr hx), rfl, hw, fun _ _ => rfl, rfl, rfl, rfl⟩
    have h2 : BlockWork s1 s2 := ledger_work _ _ _ _ _ _ _ _ _ _ h1.waiters
    have h3 : BlockWork s2 (poisonWaiters s2 b) := by
      unfold poisonWaiters
      dsimp only
      rw [h2.waiters]
      exact ⟨rfl, rfl, rfl, fun _ h => h, rfl, rfl, fun _ _ => rfl, rfl, rfl, rfl⟩
    refine ⟨(h1.trans h2).trans h3, (h2.trans h3).blockPoisoned b ?_⟩
    have hb : b ∈ s1.mem.poison := (mem_insertSorted b b _).2 (.inl rfl)
    unfold blockPoisoned
    simp [hb]

/-! ## Reading a block -/

theorem correctedBlock_work (ch : Nat) (ctx : Option Nat) (s : State) (hw : s.sig.waiters = []) :
    BlockWork (count (count s (channelSide ch) 0x28 1) ch 0x20 1) (correctedBlock ch ctx s) := by
  unfold correctedBlock
  extract_lets side s1 s2 s3 pol
  have hw1 : s1.sig.waiters = [] := hw
  have h2 : BlockWork s1 s2 := by
    cases ctx with
    | none => exact .refl hw1
    | some c => exact record_work s1 c _ hw1
  have h3 : BlockWork s1 s3 := h2.trans (modChan_work s2 ch _ h2.waiters)
  split
  · exact h3.trans (autoSoft_work ch s3 h3.waiters)
  · exact h3

theorem uncorrectableBlock_work (ch b : Nat) (ctx : Option Nat) (s : State) (hw : s.sig.waiters = []) :
    BlockWork (count (count s (channelSide ch) 0x30 1) ch 0x28 1) (uncorrectableBlock ch b ctx s) ∧
    blockPoisoned (uncorrectableBlock ch b ctx s) b = true := by
  unfold uncorrectableBlock
  extract_lets side s1 s2 s3 s4 pol
  have hw1 : s1.sig.waiters = [] := hw
  have h2 : BlockWork s1 s2 := by
    cases ctx with
    | none => exact .refl hw1
    | some c => exact record_work s1 c _ hw1
  have h3 : BlockWork s1 s3 := h2.trans (modChan_work s2 ch _ h2.waiters)
  obtain ⟨h4, hb⟩ := poisonBlock_work b s3 h3.waiters
  have h5 : BlockWork s1 s4 := h3.trans h4
  split
  · have h6 := autoHard_work ch s4 h5.waiters
    exact ⟨h5.trans h6, h6.blockPoisoned b hb⟩
  · exact ⟨h5, hb⟩

/-! ## Serving a request -/

/-- Who makes a channel request. -/
def requester (r : ChanReq) (s : State) : Who :=
  ⟨r.unit.toNat, unitOrigin r.unit.toNat (0x4000 + r.ctx.toNat), r.ctx.toNat, s.gz.nextJob, 256 * r.ctx.toNat⟩

/-- A read of a block. -/
def readServed (ch b c : Nat) (e : Ecc) (s : State) : State :=
  if chanPoisoned (chan s ch) || blockPoisoned s b then s else readBlock ch b (some c) e s

/-- A write to a block. -/
def writeServed (ch b c off : Nat) (bs : List Byte) (e : Ecc) (w : Who) (s : State) : State :=
  if bs.isEmpty then s
  else if off = 0 && bs.length = 32 then (if chanPoisoned (chan s ch) then s else storeNow s w (32 * b) bs)
  else if chanPoisoned (chan s ch) || blockPoisoned s b then s
  else if blockPoisoned (readBlock ch b (some c) e s) b || chanPoisoned (chan (readBlock ch b (some c) e s) ch) then
    readBlock ch b (some c) e s
  else storeNow (readBlock ch b (some c) e s) w (32 * b + off) bs

/-- What a channel does with a request that it does not park. -/
def served (ch : Nat) (r : ChanReq) (e : Ecc) (s : State) : State :=
  match r.write with
  | none => readServed ch (r.block.toNat / 32) r.ctx.toNat e s
  | some (off, bs) => writeServed ch (r.block.toNat / 32) r.ctx.toNat off (bs.take (32 - off)) e (requester r s) s

theorem serveRequest_eq (ch : Nat) (r : ChanReq) (e : Ecc) (s : State) (h : onChannel s ch (r.block.toNat / 32) = true) :
    serveRequest ch r e s = served ch r e (event s (channelSide ch) (0xA001 + r.cls.val) r.ctx.toNat 1) := by
  unfold serveRequest served
  dsimp only
  rw [if_neg (by simp [h])]
  cases r.write <;> rfl

/-- The state with other performance counters. -/
def recounted (s : State) (c : AMap Nat) : State := { s with hw := { s.hw with counters := c } }

theorem arrival_recounts (s : State) (u code ctx : Nat) : ∃ c, arrival s u code ctx = recounted s c := by
  have hall : ∀ n s, ∃ c, arrivalUpTo u code ctx n s = recounted s c := by
    intro n
    induction n with
    | zero => exact fun s => ⟨s.hw.counters, rfl⟩
    | succ n ih =>
      intro s
      rw [arrivalUpTo]
      split
      · obtain ⟨c, hc⟩ := ih (addCounter s u n 1)
        exact ⟨c, hc⟩
      · exact ih s
  exact hall 8 s

theorem event_recounts (s : State) (u code ctx k : Nat) : ∃ c, event s u code ctx k = recounted s c := event_eq s u code ctx k

theorem exec_channelRequest_off (ch : Word32) (r : ChanReq) (e : Ecc) (s : State) (hi : Idle s)
    (h : onChannel s ch.toNat (r.block.toNat / 32) = false) : exec (.channelRequest ch r e) s = .next (passed s) := by
  show execChannelRequest ch r e s = _
  unfold execChannelRequest
  dsimp only
  rw [h, if_pos (by decide), settle_idle s hi]

theorem exec_channelRequest_parked (ch : Word32) (r : ChanReq) (e : Ecc) (s : State)
    (h : onChannel s ch.toNat (r.block.toNat / 32) = true) (ht : (chan s ch.toNat).training = true) :
    ∃ c, exec (.channelRequest ch r e) s =
      .next (settle (modChan (recounted s c) ch.toNat (fun x => { x with queue := x.queue ++ [(r, s.now)] }))) := by
  obtain ⟨c, hc⟩ := arrival_recounts s (channelSide ch.toNat) 0xA080 r.ctx.toNat
  refine ⟨c, ?_⟩
  show execChannelRequest ch r e s = _
  unfold execChannelRequest
  dsimp only
  rw [h, if_neg (by decide), hc, if_pos (by exact ht)]
  rfl

theorem exec_channelRequest_served (ch : Word32) (r : ChanReq) (e : Ecc) (s : State)
    (h : onChannel s ch.toNat (r.block.toNat / 32) = true) (ht : (chan s ch.toNat).training = false) :
    ∃ c, exec (.channelRequest ch r e) s = .next (settle (served ch.toNat r e (recounted s c))) := by
  obtain ⟨c, hc⟩ := arrival_recounts s (channelSide ch.toNat) 0xA080 r.ctx.toNat
  obtain ⟨c', hc'⟩ := event_recounts (recounted s c) (channelSide ch.toNat) (0xA001 + r.cls.val) r.ctx.toNat 1
  refine ⟨c', ?_⟩
  show execChannelRequest ch r e s = _
  unfold execChannelRequest
  dsimp only
  rw [h, if_neg (by decide), hc, if_neg (by show ¬(chan s ch.toNat).training = true; rw [ht]; decide),
    serveRequest_eq _ _ _ _ (by exact h), hc']
  rfl

/-- A read changes no byte; an error is counted, and an uncorrectable block is poisoned (08 R240, R241). -/
theorem readBlock_facts (ch b : Nat) (ctx : Option Nat) (e : Ecc) (s : State) (hw : s.sig.waiters = [])
    (hch : 256 * ch + 0x20 ≠ ledgerKey) (hch' : 256 * ch + 0x28 ≠ ledgerKey) :
    (readBlock ch b ctx e s).gz.jobs = s.gz.jobs ∧ MemSame s (readBlock ch b ctx e s) [] ∧
    (e = .corrected → countOf (readBlock ch b ctx e s) ch 0x20 = countOf s ch 0x20 + 1) ∧
    (e = .uncorrectable → countOf (readBlock ch b ctx e s) ch 0x28 = countOf s ch 0x28 + 1 ∧
      blockPoisoned (readBlock ch b ctx e s) b = true) := by
  cases e with
  | clean => exact ⟨rfl, fun _ _ => rfl, by simp, by simp⟩
  | corrected =>
    have hwork := correctedBlock_work ch ctx s hw
    refine ⟨hwork.jobs, hwork.memSame, fun _ => ?_, by simp⟩
    refine (hwork.countOf ch 0x20 hch).trans ?_
    rw [countOf_count, if_pos rfl, countOf_count, if_neg (by omega)]
  | uncorrectable =>
    obtain ⟨hwork, hb⟩ := uncorrectableBlock_work ch b ctx s hw
    refine ⟨hwork.jobs, hwork.memSame, by simp, fun _ => ⟨?_, hb⟩⟩
    refine (hwork.countOf ch 0x28 hch').trans ?_
    rw [countOf_count, if_pos rfl, countOf_count, if_neg (by omega)]

theorem keptHas_cleared (k : KeptPoison) (b : Nat) (h : k.cleared.contains b = true) : keptHas k b = false := by
  unfold keptHas
  rw [h]
  split
  · exact Bool.and_false _
  · rfl

/-- A whole write clears its block (08 R241). -/
theorem storeNow_block (s : State) (w : Who) (b : Nat) (bs : List Byte) (hlen : bs.length = 32) :
    blockPoisoned (storeNow s w (32 * b) bs) b = false := by
  have hblocks : (List.range ((32 * b + bs.length) / 32 - (32 * b + 31) / 32)).map (fun i => (32 * b + 31) / 32 + i) = [b] := by
    have h1 : (32 * b + 31) / 32 = b := by omega
    have h2 : (32 * b + bs.length) / 32 - b = 1 := by omega
    rw [h1, h2]
    rfl
  have hmem := storeNow_mem s w (32 * b) bs
  unfold blockPoisoned
  rw [hmem, Bool.or_eq_false_iff]
  refine ⟨?_, ?_⟩
  · dsimp only [unpoison]
    split
    · next h => simp [List.isEmpty_iff.1 h]
    · simp [hlen]
  · dsimp only [unkeep]
    rw [hblocks, List.any_map, List.any_eq_false]
    intro k _ hk
    have hcleared : ([b].filter (keptHas k) ++ k.cleared).contains b = true := by simp [keptHas_unkeep k _ b hk]
    exact absurd hk (by rw [Function.comp_apply, keptHas_cleared _ b hcleared]; decide)

/-- A unit that holds a block is a channel, or none. -/
theorem onChannel_unit {s : State} {u b : Nat} (h : onChannel s u b = true) : u = 0 ∨ 0xB * 2 ^ 28 ≤ u := by
  simp only [onChannel, Bool.and_eq_true, beq_iff_eq] at h
  obtain ⟨-, h⟩ := h
  rw [← h]
  unfold chanOf
  split
  · right
    unfold chanUnit uid
    omega
  · exact .inl rfl

/-- A read counts nothing at 0x30 of its channel (08 R240). -/
theorem readBlock_patrol (ch b : Nat) (ctx : Option Nat) (e : Ecc) (s : State) (hw : s.sig.waiters = [])
    (hch : ch = 0 ∨ 0xB * 2 ^ 28 ≤ ch) : countOf (readBlock ch b ctx e s) ch 0x30 = countOf s ch 0x30 := by
  have hkey : 256 * ch + 0x30 ≠ ledgerKey := by unfold ledgerKey uid; omega
  have hside : 256 * ch + 0x30 ≠ 256 * channelSide ch + 0x30 := by
    have hdie : uDie ch < 16 := Nat.mod_lt _ (by decide)
    have hinst : uInst ch < 2 ^ 24 := Nat.mod_lt _ (by decide)
    unfold channelSide uid
    omega
  cases e with
  | clean => rfl
  | corrected =>
    refine ((correctedBlock_work ch ctx s hw).countOf ch 0x30 hkey).trans ?_
    rw [countOf_count, if_neg (by omega), countOf_count, if_neg (by omega)]
  | uncorrectable =>
    refine ((uncorrectableBlock_work ch b ctx s hw).1.countOf ch 0x30 hkey).trans ?_
    rw [countOf_count, if_neg (by omega), countOf_count, if_neg hside]

/-- Settles O50: each request by its branch of `served`. -/
theorem channelsServeAndScrub : Obligations.ChannelsServeAndScrub := by
  intro ch s hc u
  refine ⟨fun r e => ?request, fun block e => ?patrol⟩
  case request =>
    intro b go bad
    have hkey : ∀ off, off < 0x30 → 256 * u + off ≠ ledgerKey := fun off ho => by unfold ledgerKey uid; omega
    refine ⟨fun h => exec_channelRequest_off ch r e s hc.1 h, fun h ht => ?_, fun h ht => ?_⟩
    · obtain ⟨c, he⟩ := exec_channelRequest_parked ch r e s h ht
      refine ⟨_, he.trans (congrArg _ (settle_idle _ (by exact hc.1))), ?_, fun _ _ => rfl⟩
      show (chan (modChan (recounted s c) u _) u).queue = _
      rw [chan, modChan, amGet_amMod, if_pos rfl]
      rfl
    · obtain ⟨c, he⟩ := exec_channelRequest_served ch r e s h ht
      refine ⟨fun hr => ?_, fun off bs hr hfit hne => ⟨fun hoff hlen hlost => ?_, fun hlen hbad hclean => ?_, fun hnot => ?_⟩⟩
      · have hs : served u r e (recounted s c) = readServed u b r.ctx.toNat e (recounted s c) := by
          unfold served
          rw [hr]
        rw [hs, readServed] at he
        obtain ⟨hjobs, hmem, hce, hue⟩ := readBlock_facts u b (some r.ctx.toNat) e (recounted s c) hc.2.2 (hkey _ (by decide)) (hkey _ (by decide))
        by_cases hb : bad = true
        · rw [if_pos (by exact hb), settle_idle (recounted s c) hc.1] at he
          exact ⟨_, he, fun _ _ => rfl, fun hgood => absurd hb (by rw [hgood]; decide)⟩
        · rw [if_neg (by exact hb), settle_idle _ (hjobs.trans hc.1)] at he
          exact ⟨_, he, hmem, fun _ => ⟨hce, hue⟩⟩
      all_goals
        have htake : bs.take (32 - off) = bs := List.take_of_length_le (by omega)
        have hs : served u r e (recounted s c) = writeServed u b r.ctx.toNat off bs e (requester r (recounted s c)) (recounted s c) := by
          unfold served
          rw [hr]
          dsimp only
          rw [htake]
        rw [hs, writeServed, if_neg (by simpa using hne)] at he
      · rw [if_pos (by simp [hoff, hlen]), if_neg (by show ¬chanPoisoned (chan s u) = true; rw [hlost]; decide)] at he
        set w := requester r (recounted s c)
        have hcalm := calm_storeNow w (32 * b) bs (s := recounted s c) hc
        have hbytes := bytesAt_storeNow (recounted s c) w (32 * b) bs hc.2.1
        rw [hlen] at hbytes
        refine ⟨_, he.trans (congrArg _ (settle_idle _ hcalm.1)), hbytes, storeNow_block _ w b bs hlen, fun x hx => ?_⟩
        refine (byteAt_storeNow (recounted s c) w (32 * b) bs x hc.2.1).trans ?_
        rw [hlen, if_neg (hx (32 * b, 32) (by simp))]
        rfl
      · have hgood : ¬(chanPoisoned (chan s u) || blockPoisoned s b) = true := by
          show ¬bad = true
          rw [hbad]
          decide
        have hgood' : ¬(blockPoisoned s b || chanPoisoned (chan s u)) = true := by
          rw [Bool.or_comm]
          exact hgood
        have hread : readBlock u b (some r.ctx.toNat) e (recounted s c) = recounted s c := by
          rw [hclean]
          rfl
        rw [if_neg (by simp; omega), if_neg (by exact hgood), hread, if_neg (by exact hgood')] at he
        set w := requester r (recounted s c)
        have hcalm := calm_storeNow w (32 * b + off) bs (s := recounted s c) hc
        refine ⟨_, he.trans (congrArg _ (settle_idle _ hcalm.1)),
          (bytesAt_of_mem (s := storeNow (recounted s c) w (32 * b + off) bs) (by rfl) _ _).trans
            (bytesAt_storeNow (recounted s c) w (32 * b + off) bs hc.2.1),
          fun x hx => ?_⟩
        refine (byteAt_storeNow (recounted s c) w (32 * b + off) bs x hc.2.1).trans ?_
        rw [if_neg (hx (32 * b + off, bs.length) (by simp))]
        rfl
      · by_cases hwhole : off = 0 ∧ bs.length = 32
        · have hlost : chanPoisoned (chan s u) = true := hnot.resolve_right fun h => by omega
          rw [if_pos (by simp [hwhole]), if_pos (by exact hlost), settle_idle (recounted s c) hc.1] at he
          exact ⟨_, he, fun _ _ => rfl⟩
        · have hstop : (chanPoisoned (chan s u) || blockPoisoned s b) = true := by
            obtain h | ⟨-, h⟩ := hnot
            · rw [h]
              rfl
            · exact h
          rw [if_neg (by simpa using hwhole), if_pos (by exact hstop), settle_idle (recounted s c) hc.1] at he
          exact ⟨_, he, fun _ _ => rfl⟩
  case patrol =>
    intro b go
    refine ⟨fun h => ?_, fun h hlost => ?_⟩
    · show execPatrolScrub ch block e s = _
      unfold execPatrolScrub
      dsimp only
      rw [if_pos (by simpa using h), settle_idle s hc.1]
    · have hu := onChannel_unit h
      have hkey : ∀ off, off < 256 → 256 * u + off ≠ ledgerKey := fun off ho => by unfold ledgerKey uid; omega
      obtain ⟨c, hev⟩ := event_recounts (count s u 0x30 (b2n (lastBlock s b))) (channelSide u) 0xA003 0 1
      have he : go = .next (settle (if blockPoisoned s b then recounted (count s u 0x30 (b2n (lastBlock s b))) c
          else readBlock u b none e (recounted (count s u 0x30 (b2n (lastBlock s b))) c))) := by
        show execPatrolScrub ch block e s = _
        unfold execPatrolScrub
        dsimp only
        rw [if_neg (by simp [show onChannel s ch.toNat (block.toNat / 32) = true from h,
          show chanPoisoned (chan s ch.toNat) = false from hlost]), hev]
        rfl
      set x := recounted (count s u 0x30 (b2n (lastBlock s b))) c
      have hx30 : countOf x u 0x30 = countOf s u 0x30 + b2n (lastBlock s b) := by
        show countOf (count s u 0x30 _) u 0x30 = _
        rw [countOf_count, if_pos rfl]
      have hxoff : ∀ off, off < 0x30 → countOf x u off = countOf s u off := fun off ho => by
        show countOf (count s u 0x30 _) u off = _
        rw [countOf_count, if_neg (by omega)]
      by_cases hb : blockPoisoned s b = true
      · rw [if_pos hb, settle_idle x hc.1] at he
        exact ⟨_, he, fun _ _ => rfl, hx30, fun hgood => absurd hb (by rw [hgood]; decide)⟩
      · obtain ⟨hjobs, hmem, hce, hue⟩ := readBlock_facts u b none e x hc.2.2 (hkey _ (by decide)) (hkey _ (by decide))
        rw [if_neg hb, settle_idle _ (hjobs.trans hc.1)] at he
        rw [hxoff _ (by decide)] at hce hue
        exact ⟨_, he, hmem, (readBlock_patrol u b none e x hc.2.2 hu).trans hx30, fun _ => ⟨hce, hue⟩⟩

end Sys2Proof.Proofs
end

section
/-! PROOFS. Retraining, the re-stripe and postponed map-outs (08 R243-R251). -/

namespace Sys2Proof.Proofs

open Sys2Proof Sys2Proof.Machine Sys2Proof.Laws

/-! ## What the end of a command leaves of channels and counts -/

theorem storeNow_places (s : State) (w : Who) (a : Nat) (bs : List Byte) :
    (storeNow s w a bs).mem.chans = s.mem.chans ∧ (storeNow s w a bs).mem.sides = s.mem.sides := by
  rw [storeNow_mem]
  exact ⟨rfl, rfl⟩

theorem finish_places (s : State) (j : Job) (e : End) :
    (finish s j e).mem.chans = s.mem.chans ∧ (finish s j e).mem.sides = s.mem.sides := by
  have hreply : (replyWritten s j e).mem.chans = s.mem.chans ∧ (replyWritten s j e).mem.sides = s.mem.sides := by
    unfold replyWritten
    split
    · rw [writeReply_mem]
      exact storeNow_places ..
    · exact ⟨rfl, rfl⟩
  rw [finish_mem]
  rcases writeDone_cases (unreserve (replyWritten s j e) j.ring) j.ring j.id (hdrOf j.cmd) with hd | ⟨-, w, hd⟩
  · rw [hd]
    exact hreply
  · rw [hd]
    obtain ⟨h1, h2⟩ := storeNow_places (unreserve (replyWritten s j e) j.ring) w (hdrOf j.cmd).doneAddr.toNat
      (leBytes 8 (hdrOf j.cmd).doneValue.toNat)
    exact ⟨h1.trans hreply.1, h2.trans hreply.2⟩

theorem quarantine_work (u : Nat) (s : State) (hw : s.sig.waiters = []) : BlockWork s (quarantine u s) := by
  unfold quarantine
  dsimp only
  have h1 := actOn_work (.unit (BitVec.ofNat 32 u)) ⟨kernelOrigin (uDie u), 0, 6, 0, none⟩ s hw
  have h2 := h1.trans (ledger_work (uDie u) (kernelOrigin (uDie u)) 6 u 0 0 0 0 ((health s u).points / 65536) _ h1.waiters)
  have h3 := h2.trans (modHealth_work _ u (fun h => { h with quarantined := true, probation := false }) h2.waiters)
  exact h3.trans (setReady_work u false 2 _ h3.waiters)

theorem charge_work (u pts : Nat) (s : State) (hw : s.sig.waiters = []) : BlockWork s (charge u pts s) := by
  unfold charge
  dsimp only
  split
  · exact .refl hw
  · split
    · exact (modHealth_work s _ _ hw).trans (quarantine_work _ _ hw)
    · exact modHealth_work s _ _ hw

theorem finish_counted (s : State) (j : Job) (e : End) (hw : s.sig.waiters = []) : Counted s (finish s j e) := by
  have hu := unreserved_calmEnd s j e hw
  have hd := hu.trans (writeDone_calmOnly (unreserve (replyWritten s j e) j.ring) j.ring j.id (hdrOf j.cmd) (hu.waiters hw)).calmEnd
  have hw' := hd.waiters hw
  obtain ⟨_, _, _, _, _, hd⟩ := hd
  rw [finish_eq]
  refine Counted.trans ?_ (charge_work e.detail (endPoints e)
    (modCtx (writeDone (unreserve (replyWritten s j e) j.ring) j.ring j.id (hdrOf j.cmd)) (j.ring / 256)
      (fun c => { c with chk := recordEnd (hdrOf j.cmd) e c.chk })) hw').counts
  intro k _
  show amGet 0 (writeDone _ _ _ _).hw.counts k = _
  rw [hd]

/-- The end of the one command in flight leaves channels, sides and all counts but the ledger's. -/
theorem settle_ended_places (s : State) (j : Job) (e : End) (hj : s.gz.jobs = [j]) (hp : j.phase = .ending e) (hw : s.sig.waiters = []) :
    (settle s).mem.chans = s.mem.chans ∧ (settle s).mem.sides = s.mem.sides ∧ Counted s (settle s) := by
  obtain ⟨un, hl⟩ := leaving_eq s j e
  rw [settle_ended s j e hj hp]
  obtain ⟨hch, hsd⟩ := finish_places (leaving s j e) j e
  have hct := finish_counted (leaving s j e) j e (by rw [hl]; exact hw)
  rw [hl] at hch hsd hct ⊢
  exact ⟨hch, hsd, hct⟩

/-! ## Training -/

theorem chan_modChan (s : State) (u x : Nat) (f : Chan → Chan) :
    chan (modChan s u f) x = if x = u then f (chan s u) else chan s x := amGet_amMod _ _ _ _ _

theorem sideOf_modSide (s : State) (u x : Nat) (f : Side → Side) :
    sideOf (modSide s u f) x = if x = u then f (sideOf s u) else sideOf s x := amGet_amMod _ _ _ _ _

theorem chan_trainChannel (c x : Nat) (s : State) :
    chan (trainChannel c s) x = if x = c then { chan s c with training := true } else chan s x := chan_modChan _ _ _ _

theorem sideOf_trainChannel (c x : Nat) (s : State) :
    sideOf (trainChannel c s) x =
      if x = channelSide c then { sideOf s x with retraining := some c, due := (sideOf s x).due.filter (· != c) } else sideOf s x := by
  show sideOf (modSide s (channelSide c) (fun d => { d with retraining := some c, due := d.due.filter (· != c) })) x = _
  rw [sideOf_modSide]
  split
  · next h => rw [h]
  · rfl

/-- The next due channel of a side that trains none trains (08 R243). -/
theorem nextRetrain_facts (u : Nat) (s : State) (hdue : u ∉ (sideOf s (channelSide u)).due)
    (hside : ∀ n ∈ (sideOf s (channelSide u)).due, channelSide n = channelSide u) (hfree : (sideOf s (channelSide u)).retraining = none) :
    let t := nextRetrain (channelSide u) s
    chan t u = chan s u ∧ (sideOf t (channelSide u)).retraining = (sideOf s (channelSide u)).due.head? ∧
    (∀ n, (sideOf s (channelSide u)).due.head? = some n → (chan t n).training = true) ∧ t.hw = s.hw ∧ t.gz = s.gz ∧ t.sig = s.sig ∧
    t.mm = s.mm ∧ t.now = s.now ∧ t.mem.cells = s.mem.cells := by
  intro t
  cases hl : (sideOf s (channelSide u)).due with
  | nil =>
    have ht : t = s := by
      show nextRetrain (channelSide u) s = s
      rw [nextRetrain, hl]
    rw [ht]
    exact ⟨rfl, hfree, by simp, rfl, rfl, rfl, rfl, rfl, rfl⟩
  | cons c l =>
    rw [hl] at hdue hside
    have ht : t = trainChannel c s := by
      show nextRetrain (channelSide u) s = _
      rw [nextRetrain, hl]
      exact if_pos (by rw [hfree]; rfl)
    have hcu : u ≠ c := fun h => hdue (by rw [h]; exact List.mem_cons_self)
    have hcs : channelSide u = channelSide c := (hside c List.mem_cons_self).symm
    rw [ht]
    refine ⟨?_, ?_, ?_, rfl, rfl, rfl, rfl, rfl, rfl⟩
    · rw [chan_trainChannel, if_neg hcu]
    · rw [sideOf_trainChannel, if_pos hcs]
      rfl
    · intro n hn
      obtain rfl : c = n := Option.some.inj hn
      rw [chan_trainChannel, if_pos rfl]

/-! ## Hard map-out -/

theorem sideCheck_mem (side : Nat) (s : State) : (sideCheck side s).mem = s.mem := by
  unfold sideCheck
  dsimp only
  split
  · exact (setReady_frame ..).2.2.2.2.1
  · split
    · exact (setReady_frame ..).2.2.2.2.1
    · rfl

theorem ledger_mem (die o re ob fi c old new aux : Nat) (s : State) : (ledger die o re ob fi c old new aux s).mem = s.mem :=
  (ledger_frame die o re ob fi c old new aux s).2.2.2.2.1

theorem reportContexts_mem (ch origin : Nat) (s : State) : (reportContexts ch origin s).mem = s.mem := by
  have hall : ∀ (l : List (Nat × Ctx)) (s : State), (l.foldl (fun s c => ledger (uDie ch) origin 8 c.1 2 c.1 0 0 0 s) s).mem = s.mem := by
    intro l
    induction l with
    | nil => exact fun _ => rfl
    | cons c l ih => exact fun s => (ih _).trans (ledger_mem ..)
  exact hall _ s

/-- A side from which a channel has been mapped out hard (08 R250, R251). -/
def sideLost (ch : Nat) (d : Side) : Side :=
  { d with
    frozen := d.front.isSome
    pendingSoft := if d.pendingSoft = some ch then none else d.pendingSoft
    due := d.due.filter (· != ch)
    retraining := if d.retraining = some ch then none else d.retraining }

/-- A channel that has been mapped out hard (08 R250). -/
def chanLost (c : Chan) : Chan := { c with state := .lost, training := false, queue := [], wasLost := true }

theorem hardMapOut_places (ch origin : Nat) (s : State) (hw : s.sig.waiters = []) :
    chan (hardMapOut ch origin s) ch = chanLost (chan s ch) ∧
    sideOf (hardMapOut ch origin s) (channelSide ch) = sideLost ch (sideOf s (channelSide ch)) := by
  have hmem : (hardMapOut ch origin s).mem = (modSide (modChan (setChanState ch .lost s) ch
      (fun c => { c with training := false, queue := [], wasLost := true })) (channelSide ch) (sideLost ch)).mem := by
    unfold hardMapOut
    dsimp only
    rw [losePoison_eq, sideCheck_mem, reportContexts_mem, ledger_mem]
    · rfl
    · exact (BlockWork.foldl _ (fun s _ hs => ledger_work _ _ _ _ _ _ _ _ _ s hs) _ _ (ledger_work _ _ _ _ _ _ _ _ _ _ (by exact hw)).waiters).waiters
  refine ⟨?_, ?_⟩
  · have hsame : chan (hardMapOut ch origin s) ch = chan (modChan (setChanState ch .lost s) ch
        (fun c => { c with training := false, queue := [], wasLost := true })) ch := by
      rw [chan, hmem]
      rfl
    rw [hsame]
    rw [chan_modChan, if_pos rfl]
    have hstate : chan (setChanState ch .lost s) ch = { chan s ch with state := .lost } := by
      show chan (modChan s ch _) ch = _
      rw [chan_modChan, if_pos rfl]
    rw [hstate]
    rfl
  · rw [sideOf, hmem]
    show sideOf (modSide _ (channelSide ch) _) _ = _
    rw [sideOf_modSide, if_pos rfl]
    rfl

/-! ## The end of training -/

/-- A side that trains no channel. -/
def sideFreed (d : Side) : Side := { d with retraining := none }

/-- A channel that does not train. -/
def chanRested (c : Chan) : Chan := { c with training := false }

/-- A channel's training has ended, and is counted (08 R244). -/
def trainingOver (u : Nat) (s : State) : State :=
  modChan (modSide (count (count s (channelSide u) 0x38 1) u 0x18 1) (channelSide u) sideFreed) u chanRested

theorem endTraining_inService (u : Nat) (ok : Bool) (s : State) (h : (chan s u).state = .inService) :
    endTraining u ok s = if ok then serveQueue u (chan s u).queue.length (endCalibrations u (done 0) (trainingOver u s))
      else autoHard u (endCalibrations u (unitFault u) (trainingOver u s)) := by
  unfold endTraining
  dsimp only
  rw [h] <;> rfl

theorem endTraining_returnable (u : Nat) (ok : Bool) (s : State) (h : (chan s u).state = .returnable) :
    endTraining u ok s = endCalibrations u (done (b2n (!ok))) (trainingOver u s) := by
  unfold endTraining
  dsimp only
  rw [h] <;> rfl

theorem endTraining_out (u : Nat) (ok : Bool) (s : State) (h : (chan s u).state = .softOut ∨ (chan s u).state = .lost) :
    endTraining u ok s = if ok then endCalibrations u (done 0)
        (setChanState u .returnable (modChan (trainingOver u s) u (fun c => { c with wasLost := (chan s u).state == .lost })))
      else endCalibrations u (done 1) (trainingOver u s) := by
  unfold endTraining
  dsimp only
  obtain h | h := h
  · rw [h] <;> rfl
  · rw [h] <;> rfl

/-- The state a training leaves its channel in (08 R244-R246). -/
def trainedState (st : ChanState) (ok : Bool) : ChanState :=
  match st, ok with
  | .inService, true => .inService
  | .inService, false => .lost
  | .returnable, _ => .returnable
  | _, true => .returnable
  | st, false => st

/-- How a calibration ends with its channel's training (08 R246). -/
def calibrationEnd (u : Nat) (st : ChanState) (ok : Bool) : End :=
  match st, ok with
  | .inService, true => done 0
  | .inService, false => unitFault u
  | _, true => done 0
  | _, false => done 1

theorem trainingOver_places (u : Nat) (s : State) :
    chan (trainingOver u s) u = chanRested (chan s u) ∧
    sideOf (trainingOver u s) (channelSide u) = sideFreed (sideOf s (channelSide u)) ∧
    countOf (trainingOver u s) u 0x18 = countOf s u 0x18 + 1 := by
  refine ⟨?_, ?_, ?_⟩
  · rw [trainingOver, chan_modChan, if_pos rfl]
    rfl
  · have h := sideOf_modSide (count (count s (channelSide u) 0x38 1) u 0x18 1) (channelSide u) (channelSide u) sideFreed
    rw [if_pos rfl] at h
    exact h
  · show countOf (count (count s (channelSide u) 0x38 1) u 0x18 1) u 0x18 = _
    rw [countOf_count, if_pos rfl, countOf_count, if_neg (by omega)]

/-- What a training that has ended leaves of its channel, its side and the commands in flight. -/
structure Trained (u : Nat) (st : ChanState) (js : List Job) (s t : State) : Prop where
  training : (chan t u).training = false
  state : (chan t u).state = st
  due : (sideOf t (channelSide u)).due = (sideOf s (channelSide u)).due
  free : (sideOf t (channelSide u)).retraining = none
  count : countOf t u 0x18 = countOf s u 0x18 + 1
  jobs : t.gz.jobs = js
  waiters : t.sig.waiters = []
  ctl : t.mm = s.mm ∧ t.gz.rings = s.gz.rings ∧ t.now = s.now ∧ t.mem.cells = s.mem.cells

theorem trainingOver_trained (u : Nat) (s : State) (hw : s.sig.waiters = []) :
    Trained u (chan s u).state s.gz.jobs s (trainingOver u s) := by
  obtain ⟨hchan, hside, hcount⟩ := trainingOver_places u s
  refine ⟨?_, ?_, ?_, ?_, hcount, rfl, hw, rfl, rfl, rfl, rfl⟩
  · rw [hchan]
    rfl
  · rw [hchan]
    rfl
  · rw [hside]
    rfl
  · rw [hside]
    rfl

/-- The commands in flight do not matter to a channel's training. -/
theorem Trained.withJobs {u : Nat} {st : ChanState} {js : List Job} {s t : State} (h : Trained u st js s t) (l : List Job) :
    Trained u st l s { t with gz := { t.gz with jobs := l } } :=
  ⟨h.training, h.state, h.due, h.free, h.count, rfl, h.waiters, h.ctl⟩

/-- A channel that is out becomes returnable. -/
theorem Trained.returnable {u : Nat} {st : ChanState} {js : List Job} {s t : State} (h : Trained u st js s t) (f : Chan → Chan)
    (hf : ∀ c, (f c).training = c.training) : Trained u .returnable js s (setChanState u .returnable (modChan t u f)) := by
  have hret : chan (setChanState u .returnable (modChan t u f)) u = { f (chan t u) with state := .returnable } := by
    refine (chan_modChan (modChan t u f) u u (fun c => { c with state := .returnable })).trans ?_
    rw [if_pos rfl, chan_modChan, if_pos rfl]
  refine ⟨?_, ?_, h.due, h.free, h.count, h.jobs, h.waiters, h.ctl⟩
  · rw [hret]
    exact (hf _).trans h.training
  · rw [hret]

/-- A channel in service is mapped out hard. -/
theorem Trained.lost {u : Nat} {st : ChanState} {js : List Job} {s t : State} (h : Trained u st js s t)
    (hdue : u ∉ (sideOf s (channelSide u)).due) : Trained u .lost js s (autoHard u t) := by
  have hwork := autoHard_work u t h.waiters
  obtain ⟨hchan, hside⟩ := hardMapOut_places u (kernelOrigin (uDie u)) (mapOutAct u 1 t) h.waiters
  have hside' : sideOf (autoHard u t) (channelSide u) = sideLost u (sideOf t (channelSide u)) := hside
  have hchan' : chan (autoHard u t) u = chanLost (chan t u) := hchan
  obtain ⟨hmm, hrings, hnow, hcells⟩ := h.ctl
  obtain ⟨kmm, krings, know⟩ := hwork.ctl
  refine ⟨?_, ?_, ?_, ?_, (hwork.countOf u 0x18 ?_).trans h.count, hwork.jobs.trans h.jobs, hwork.waiters, kmm.trans hmm,
    krings.trans hrings, know.trans hnow, hwork.cells.trans hcells⟩
  · rw [hchan']
    rfl
  · rw [hchan']
    rfl
  · rw [hside', ← h.due]
    have hnot : ∀ x ∈ (sideOf t (channelSide u)).due, (x != u) = true := fun x hx => by
      rw [h.due] at hx
      refine bne_iff_ne.2 fun hxu => ?_
      subst hxu
      exact hdue hx
    exact List.filter_eq_self.2 hnot
  · rw [hside']
    show (if (sideOf t (channelSide u)).retraining = some u then none else (sideOf t (channelSide u)).retraining) = none
    rw [h.free]
    rfl
  · unfold ledgerKey
    omega

theorem endTraining_trained (u : Nat) (ok : Bool) (s : State) (js : End → List Job) (hw : s.sig.waiters = [])
    (hq : (chan s u).queue = []) (hdue : u ∉ (sideOf s (channelSide u)).due)
    (hcal : ∀ e x, x.gz.jobs = s.gz.jobs → endCalibrations u e x = { x with gz := { x.gz with jobs := js e } }) :
    Trained u (trainedState (chan s u).state ok) (js (calibrationEnd u (chan s u).state ok)) s (endTraining u ok s) := by
  have hover := trainingOver_trained u s hw
  have hout : (chan s u).state = .softOut ∨ (chan s u).state = .lost →
      Trained u (if ok then .returnable else (chan s u).state) (js (if ok then done 0 else done 1)) s (endTraining u ok s) := by
    intro h
    rw [endTraining_out u ok s h]
    cases ok with
    | true =>
      rw [if_pos rfl, if_pos rfl, if_pos rfl, hcal _ _ (by rfl)]
      exact (hover.returnable (fun c => { c with wasLost := (chan s u).state == .lost }) fun _ => rfl).withJobs _
    | false =>
      rw [if_neg (by decide), if_neg (by decide), if_neg (by decide), hcal _ _ (by rfl)]
      exact hover.withJobs _
  cases hst : (chan s u).state with
  | inService =>
    rw [endTraining_inService u ok s hst]
    rw [hst] at hover
    cases ok with
    | true =>
      rw [if_pos rfl, hq, hcal _ _ (by rfl)]
      exact hover.withJobs _
    | false =>
      rw [if_neg (by decide), hcal _ _ (by rfl)]
      exact (hover.withJobs _).lost hdue
  | returnable =>
    rw [endTraining_returnable u ok s hst, hcal _ _ (by rfl)]
    rw [hst] at hover
    cases ok
    · exact hover.withJobs _
    · exact hover.withJobs _
  | softOut =>
    have h := hout (.inl hst)
    rw [hst] at h
    cases ok
    · exact h
    · exact h
  | lost =>
    have h := hout (.inr hst)
    rw [hst] at h
    cases ok
    · exact h
    · exact h

/-! ## Going on -/

/-- Where every command in flight rests, no unit holds anything and none waits for a barrier, nothing goes on. -/
theorem goOn_rests (n : Nat) (s : State) (h : ∀ j ∈ s.gz.jobs, Rests j ∧ barrierCmd j = none) (hmm : s.mm = []) :
    goOn n s = settle s := by
  have hnew : sendNewArrival n s = s := by
    have hnone : s.gz.jobs.find? (fun j => n ≤ j.id && (barrierCmd j).isSome) = none :=
      List.find?_eq_none.2 fun j hj => by simp [(h j hj).2]
    rw [sendNewArrival, hnone]
  rw [goOn, hnew, pumpAll_rests s (fun j hj => (h j hj).1) (fun u p => by rw [partOf_bare hmm])]

theorem resumeParked_none (s : State) (h : ∀ j ∈ s.gz.jobs, j.phase ≠ .parked) : resumeParked s = s := by
  have hnil : s.gz.jobs.filter (fun j => j.phase == .parked) = [] :=
    List.filter_eq_nil_iff.2 fun j hj => by simpa using h j hj
  rw [resumeParked, hnil]
  rfl

theorem noteParked_facts (u : Nat) (s : State) :
    (noteParked u s).gz = s.gz ∧ (noteParked u s).mem = s.mem ∧ (noteParked u s).sig = s.sig ∧ (noteParked u s).mm = s.mm ∧
    (noteParked u s).now = s.now ∧ countOf (noteParked u s) u 0x18 = countOf s u 0x18 := by
  refine ⟨rfl, rfl, rfl, rfl, rfl, ?_⟩
  show amGet 0 (amMod 0 (amMod 0 s.hw.counts (256 * channelSide u + 0x40) _) (256 * u + 0x38) _) (256 * u + 0x18) = _
  rw [amGet_amMod, if_neg (by omega), amGet_amMod, if_neg (by omega)]
  rfl

/-- The state when a retrain has completed, before anything goes on. -/
def retrained (u : Nat) (ok : Bool) (s : State) : State := retrainDone u ok (if ok then noteParked u s else s)

/-- What a completed retrain leaves (08 R243-R246). -/
structure Retrained (u : Nat) (ok : Bool) (s t : State) : Prop where
  training : (chan t u).training = false
  count : countOf t u 0x18 = countOf s u 0x18 + 1
  retraining : (sideOf t (channelSide u)).retraining = (sideOf s (channelSide u)).due.head?
  next : ∀ n, (sideOf s (channelSide u)).due.head? = some n → (chan t n).training = true
  state : (chan t u).state = trainedState (chan s u).state ok

theorem Retrained.of_places {u : Nat} {ok : Bool} {s t x : State} (h : Retrained u ok s t) (hc : x.mem.chans = t.mem.chans)
    (hs : x.mem.sides = t.mem.sides) (hn : Counted t x) : Retrained u ok s x := by
  have hchan : ∀ v, chan x v = chan t v := fun v => by rw [chan, hc]; rfl
  have hside : ∀ v, sideOf x v = sideOf t v := fun v => by rw [sideOf, hs]; rfl
  refine ⟨by rw [hchan]; exact h.training, (hn _ ?_).trans h.count, by rw [hside]; exact h.retraining,
    fun n hd => by rw [hchan]; exact h.next n hd, by rw [hchan]; exact h.state⟩
  omega

theorem retrained_facts (u : Nat) (ok : Bool) (s : State) (js : End → List Job) (hw : s.sig.waiters = [])
    (hq : (chan s u).queue = []) (hdue : u ∉ (sideOf s (channelSide u)).due)
    (hside : ∀ n ∈ (sideOf s (channelSide u)).due, channelSide n = channelSide u) (hre : (sideOf s (channelSide u)).retraining = some u)
    (hcal : ∀ e x, x.gz.jobs = s.gz.jobs → endCalibrations u e x = { x with gz := { x.gz with jobs := js e } }) :
    let t := retrained u ok s
    Retrained u ok s t ∧ t.gz.jobs = js (calibrationEnd u (chan s u).state ok) ∧ t.sig.waiters = [] ∧
    t.mm = s.mm ∧ t.gz.rings = s.gz.rings ∧ t.now = s.now ∧ t.mem.cells = s.mem.cells := by
  intro t
  obtain ⟨s1, hs1, hgz, hmem, hsig, hmm, hnow, hcount⟩ : ∃ x, (if ok then noteParked u s else s) = x ∧ x.gz = s.gz ∧ x.mem = s.mem ∧
      x.sig = s.sig ∧ x.mm = s.mm ∧ x.now = s.now ∧ countOf x u 0x18 = countOf s u 0x18 := by
    cases ok
    · exact ⟨s, rfl, rfl, rfl, rfl, rfl, rfl, rfl⟩
    · exact ⟨_, rfl, noteParked_facts u s⟩
  have hchan : chan s1 u = chan s u := by rw [chan, hmem]; rfl
  have hsd : sideOf s1 (channelSide u) = sideOf s (channelSide u) := by rw [sideOf, hmem]; rfl
  have htr := endTraining_trained u ok s1 js (by rw [hsig]; exact hw) (by rw [hchan]; exact hq) (by rw [hsd]; exact hdue)
    (fun e x hx => hcal e x (by rw [hx, hgz]))
  have ht : t = nextRetrain (channelSide u) (endTraining u ok s1) := by
    show retrained u ok s = _
    rw [retrained, hs1, retrainDone, hsd, if_pos hre]
  obtain ⟨hcu, hhead, hnext, hhw, htgz, htsig, htmm, htnow, htcells⟩ := nextRetrain_facts u (endTraining u ok s1)
    (by rw [htr.due, hsd]; exact hdue) (by rw [htr.due, hsd]; exact hside) htr.free
  rw [← ht] at hcu hhead hnext hhw htgz htsig htmm htnow htcells
  rw [htr.due, hsd] at hhead hnext
  obtain ⟨kmm, krings, know, kcells⟩ := htr.ctl
  have hstate := htr.state
  have hjobs := htr.jobs
  rw [hchan] at hstate hjobs
  refine ⟨⟨by rw [hcu]; exact htr.training, ?_, hhead, hnext, by rw [hcu]; exact hstate⟩, by rw [htgz]; exact hjobs,
    by rw [htsig]; exact htr.waiters, by rw [htmm, kmm, hmm], by rw [htgz, krings, hgz], by rw [htnow, know, hnow], by rw [htcells, kcells, hmem]⟩
  rw [countOf, hhw]
  exact htr.count.trans (by rw [hcount])

/-! ## The re-stripe -/

theorem moveGranules_mem (a n : Nat) (s : State) : ∃ p, moveGranules a n s = { s with mem := { s.mem with poison := p } } := by
  induction n generalizing a s with
  | zero => exact ⟨s.mem.poison, rfl⟩
  | succ n ih =>
    unfold moveGranules
    split
    · obtain ⟨p, hp⟩ := ih (a + 256) (keepPoison a s)
      exact ⟨p, hp⟩
    · exact ih (a + 256) s

/-- A stripe has moved: the front advances (08 R249). -/
def stripeMoved (u f : Nat) (p : List Nat) (s : State) : State :=
  modSide { s with mem := { s.mem with poison := p } } u (fun d => { d with front := some f })

/-- The one command in flight, which calibrates a channel, ends with it. -/
theorem endCalibrations_one (u : Nat) (e : End) (s : State) (j : Job) (h : Hdr) (p : PCalibrate) (hj : s.gz.jobs = [j])
    (hcmd : j.cmd = .calibrateChannel h p) (hp : j.phase = .retrain) (hch : p.channel.toNat = u) :
    endCalibrations u e s = { s with gz := { s.gz with jobs := [{ j with phase := .ending e }] } } := by
  simp [endCalibrations, hj, hcmd, hp, hch, endJob, modJob]

theorem exec_restripeMove (side : Word32) (s : State) (f : Nat) (hf : (sideOf s side.toNat).front = some f)
    (hfr : (sideOf s side.toNat).frozen = false) (hre : (sideOf s side.toNat).retraining = none) :
    ∃ p, exec (.restripeMove side) s = .next (settle (
      if (sideOf s side.toNat).populated ≤ f + 256 * (interleaved (sideOf s side.toNat) - 1) + chanBytes then
        restripeDone side.toNat (stripeMoved side.toNat (f + 256 * (interleaved (sideOf s side.toNat) - 1)) p s)
      else stripeMoved side.toNat (f + 256 * (interleaved (sideOf s side.toNat) - 1)) p s)) := by
  obtain ⟨p, hp⟩ : ∃ p, (if s.mem.chans.any (fun c => channelSide c.1 == side.toNat && chanPoisoned c.2) then
      moveGranules (sideBase side.toNat + f) (interleaved (sideOf s side.toNat) - 1) s else s) =
      { s with mem := { s.mem with poison := p } } := by
    split
    · exact moveGranules_mem ..
    · exact ⟨s.mem.poison, rfl⟩
  refine ⟨p, ?_⟩
  show execRestripeMove side s = _
  unfold execRestripeMove
  dsimp only
  rw [hf]
  dsimp only
  rw [hfr, hre, if_neg (by decide), hp]
  rfl

/-- The last stripe takes the channel out and shrinks its side (08 R249). -/
theorem restripeDone_facts (u : Nat) (s : State) :
    ((restripeDone u s).mem.cells = s.mem.cells ∧ (restripeDone u s).mem.undef = s.mem.undef) ∧ (restripeDone u s).gz.jobs = s.gz.jobs ∧
    (chan (restripeDone u s) (chanUnit u (sideOf s u).outgoing)).state = .softOut ∧
    sideOf (restripeDone u s) u = { sideOf s u with
      out := insertSorted (sideOf s u).outgoing (sideOf s u).out
      populated := (sideOf s u).populated - chanBytes
      front := none
      outgoing := 0 } := by
  set x := modSide (setChanState (chanUnit u (sideOf s u).outgoing) .softOut s) u (fun d =>
    { d with out := insertSorted d.outgoing d.out, populated := (sideOf s u).populated - chanBytes, front := none, outgoing := 0 })
  have hmem : (restripeDone u s).mem = x.mem := by
    unfold restripeDone
    dsimp only
    rw [sideCheck_mem, ledger_mem]
  have hjobs : (restripeDone u s).gz.jobs = s.gz.jobs := by
    unfold restripeDone sideCheck
    dsimp only
    split
    · rw [(setReady_healthOnly ..).frame.2.2.1]
      exact (ledgerEv_ledgerOnly ..).healthOnly.frame.2.2.1
    · split
      · rw [(setReady_healthOnly ..).frame.2.2.1]
        exact (ledgerEv_ledgerOnly ..).healthOnly.frame.2.2.1
      · exact (ledgerEv_ledgerOnly ..).healthOnly.frame.2.2.1
  refine ⟨⟨by rw [hmem]; rfl, by rw [hmem]; rfl⟩, hjobs, ?_, ?_⟩
  · rw [chan, hmem]
    have hout := chan_modChan s (chanUnit u (sideOf s u).outgoing) (chanUnit u (sideOf s u).outgoing) (fun c => { c with state := .softOut })
    rw [if_pos rfl] at hout
    exact congrArg Chan.state hout
  · rw [sideOf, hmem]
    show sideOf x u = _
    rw [sideOf_modSide, if_pos rfl]
    rfl

/-- A soft map-out begins its side's re-stripe (08 R249). -/
theorem softMapOut_places (ch origin : Nat) (s : State) :
    (softMapOut ch origin s).gz.jobs = s.gz.jobs ∧
    sideOf (softMapOut ch origin s) (channelSide ch) =
      { sideOf s (channelSide ch) with front := some 0, outgoing := chanNo ch, frozen := false, pendingSoft := none } := by
  refine ⟨(ledgerEv_ledgerOnly ..).healthOnly.frame.2.2.1, ?_⟩
  have hmem : (softMapOut ch origin s).mem = (modSide s (channelSide ch)
      (fun d => { d with front := some 0, outgoing := chanNo ch, frozen := false, pendingSoft := none })).mem := ledger_mem ..
  rw [sideOf, hmem]
  show sideOf (modSide s (channelSide ch) _) _ = _
  rw [sideOf_modSide, if_pos rfl]

/-- Settles O51: each clause by its own lemmas. -/
theorem channelsRetrainAndRestripe : Obligations.ChannelsRetrainAndRestripe := by
  refine ⟨fun ch s hi => ?start, fun ch ok s => ?complete, fun side s hi => ?move, fun side s hi => ?retry⟩
  case start =>
    intro u sd e
    have hcal : calibrating s u = false := by
      unfold calibrating
      rw [hi]
      rfl
    have he : e = .next (settle (if (chan s u).state == .inService || calibrating s u then dueRetrain (calibrating s u) u s else s)) := rfl
    rw [hcal, Bool.or_false] at he
    refine ⟨fun hst => ?_, fun hst => ⟨fun hnone => ?_, fun c hc hne hdue => ?_⟩⟩
    · rw [if_neg (by simpa using hst), settle_idle s hi] at he
      exact he
    · have hd : dueRetrain false u s = trainChannel u s := by
        unfold dueRetrain
        dsimp only
        rw [show (sideOf s (channelSide u)).retraining = none from hnone]
        rfl
      rw [if_pos (by simpa using hst), hd, settle_idle (trainChannel u s) hi] at he
      refine ⟨_, he, ?_, ?_⟩
      · show (chan (trainChannel u s) u).training = true
        rw [chan_trainChannel, if_pos rfl]
      · show (sideOf (trainChannel u s) (channelSide u)).retraining = some u
        rw [sideOf_trainChannel, if_pos rfl]
    · have hd : dueRetrain false u s = modSide s (channelSide u) (fun d => { d with due := d.due ++ [u] }) := by
        unfold dueRetrain
        dsimp only
        rw [show (sideOf s (channelSide u)).retraining = some c from hc, if_neg (by simpa using hne), if_neg (by simp),
          if_neg (by decide), if_neg (by rw [show (sideOf s (channelSide u)).due.contains u = false from hdue]; decide)]
      rw [if_pos (by simpa using hst), hd, settle_idle (modSide s (channelSide u) (fun d => { d with due := d.due ++ [u] })) hi] at he
      have hside : sideOf (modSide s (channelSide u) (fun d => { d with due := d.due ++ [u] })) (channelSide u) = { sd with due := sd.due ++ [u] } := by
        rw [sideOf_modSide, if_pos rfl]
      exact ⟨_, he, rfl, congrArg Side.due hside, (congrArg Side.retraining hside).trans hc⟩
  case complete =>
    intro u sd c e ends
    refine ⟨fun hi hre => ?_, fun hb hw hq hdue hside hre => ⟨fun hi => ?_, fun j h p hc hcmd hp hch => ?_⟩⟩
    · show execRetrainComplete ch ok s = _
      unfold execRetrainComplete
      dsimp only
      rw [if_neg (by exact hre), settle_idle s hi]
    all_goals
      have he : e = .next (goOn s.gz.nextJob (resumeParked (retrained u ok s))) := by
        show execRetrainComplete ch ok s = _
        unfold execRetrainComplete
        dsimp only
        rw [if_pos (by exact hre)]
        rfl
      have hends : ∀ t, Retrained u ok s t → ends t := by
        intro t ht
        refine ⟨ht.training, ht.count, ht.retraining, ht.next, ht.state.trans ?_⟩
        show trainedState c.state ok = _
        generalize c.state = st
        cases st <;> cases ok <;> rfl
    · obtain ⟨hre', hjobs, hw', hmm, -⟩ := retrained_facts u ok s (fun _ => []) hw hq hdue hside hre (fun e x hx => by
        have hx' : x.gz.jobs = [] := hx.trans hi
        unfold endCalibrations
        rw [hx']
        exact congrArg (fun l => { x with gz := { x.gz with jobs := l } }) hx')
      rw [resumeParked_none _ (by rw [hjobs]; simp), goOn_rests _ _ (by rw [hjobs]; simp) (hmm.trans hb.1), settle_idle _ hjobs] at he
      exact ⟨_, he, hends _ (hre'.of_places rfl rfl (fun _ _ => rfl))⟩
    · obtain ⟨hre', hjobs, hw', hmm, hrings, hnow, hcells⟩ := retrained_facts u ok s (fun e => [{ j with phase := .ending e }]) hw hq hdue
        hside hre (fun e x hx => endCalibrations_one u e x j h p (hx.trans hc.1) hcmd hp (by rw [hch]))
      have hrest : ∀ k ∈ (retrained u ok s).gz.jobs, Rests k ∧ barrierCmd k = none ∧ k.phase ≠ .parked := by
        intro k hk
        rw [hjobs] at hk
        obtain rfl := List.mem_singleton.1 hk
        refine ⟨rests_ending rfl, ?_, by simp⟩
        unfold barrierCmd
        rw [hcmd]
      rw [resumeParked_none _ (fun k hk => (hrest k hk).2.2),
        goOn_rests _ _ (fun k hk => ⟨(hrest k hk).1, (hrest k hk).2.1⟩) (hmm.trans hb.1)] at he
      obtain ⟨hch', hsd', hcnt⟩ := settle_ended_places _ _ _ hjobs rfl hw'
      have hans := answered_settle (s := s) (j := j) hjobs rfl (by rw [hcells]; exact hc.2.1) hw' (.of_rings hrings _) hnow
        ⟨rfl, rfl, rfl, rfl, rfl⟩
      refine ⟨_, he, hends _ (hre'.of_places hch' hsd' hcnt), ?_⟩
      refine Eq.mp (congrArg (Answered s _ j) ?_) hans
      show calibrationEnd u c.state ok = _
      generalize c.state = st
      cases st <;> cases ok <;> rfl
  case move =>
    intro u sd e
    refine ⟨fun hstay => ?_, fun f hf hfr hre => ?_⟩
    · show execRestripeMove side s = _
      unfold execRestripeMove
      dsimp only
      cases hfront : (sideOf s side.toNat).front with
      | none => rw [settle_idle s hi]
      | some f =>
        dsimp only
        rw [if_pos, settle_idle s hi]
        have hstay' : sd.frozen = true ∨ sd.retraining ≠ none := hstay.resolve_left (by rw [show sd.front = some f from hfront]; simp)
        simpa [Option.isSome_iff_ne_none] using hstay'
    · intro f'
      obtain ⟨p, he⟩ := exec_restripeMove side s f hf hfr hre
      have hmoved : sideOf (stripeMoved u f' p s) u = { sd with front := some f' } := by
        rw [stripeMoved, sideOf_modSide, if_pos rfl]
        rfl
      refine ⟨fun hlt => ?_, fun hle => ?_⟩
      · rw [if_neg (by exact Nat.not_le.2 hlt), settle_idle (stripeMoved u f' p s) hi] at he
        exact ⟨_, he, fun x _ => rfl, hmoved⟩
      · obtain ⟨hsame, hjobs, hch, hsd⟩ := restripeDone_facts u (stripeMoved u f' p s)
        rw [if_pos (by exact hle), settle_idle _ (hjobs.trans hi)] at he
        rw [hmoved] at hch hsd
        exact ⟨_, he, fun x _ => byteAt_congr hsame.1 hsame.2 x, hch, hsd⟩
  case retry =>
    intro u e
    have he : e = .next (settle (match (sideOf s u).pendingSoft with
      | none => s
      | some ch => match softStop s ch with
        | none => softMapOut ch (kernelOrigin (uDie ch)) (mapOutAct ch 0 s)
        | some _ => if (chan s ch).state != .inService then modSide s u (fun d => { d with pendingSoft := none }) else s)) := rfl
    refine ⟨fun hnone => ?_, fun ch hch hu => ⟨fun hgo => ?_, fun hstop hst => ?_, fun hstop hst => ?_⟩⟩
    · rw [hnone, settle_idle s hi] at he
      exact he
    · rw [hch] at he
      dsimp only at he
      rw [hgo] at he
      have hwork := softMapOut_places ch (kernelOrigin (uDie ch)) (mapOutAct ch 0 s)
      rw [hu] at hwork
      obtain ⟨hjobs, hside⟩ := hwork
      rw [settle_idle _ (hjobs.trans hi)] at he
      exact ⟨_, he, congrArg Side.front hside, congrArg Side.outgoing hside, congrArg Side.pendingSoft hside⟩
    all_goals
      obtain ⟨x, hx⟩ := Option.ne_none_iff_exists'.1 hstop
      rw [hch] at he
      dsimp only at he
      rw [hx] at he
      dsimp only at he
    · rw [if_neg (by simpa using hst), settle_idle s hi] at he
      exact he
    · rw [if_pos (by simpa using hst), settle_idle (modSide s u (fun d => { d with pendingSoft := none })) hi] at he
      refine ⟨_, he, ?_⟩
      show (sideOf (modSide s u _) u).pendingSoft = none
      rw [sideOf_modSide, if_pos rfl]

end Sys2Proof.Proofs
end

section
/-! PROOFS. Temperature sensors, and what follows from their samples (08 R242; 14 R375). -/

namespace Sys2Proof.Proofs

open Sys2Proof Sys2Proof.Machine Sys2Proof.Laws

/-! ## Samples -/

/-- A state that differs from another in sensors and in what the ledger touches. -/
def SensorOnly (s t : State) : Prop :=
  ∃ n x c r f, t = { s with hw := { s.hw with counts := n, sensors := x }, gz := { s.gz with ctxs := c }, tr := r, flash := f }

theorem SensorOnly.refl (s : State) : SensorOnly s s := ⟨_, _, _, _, _, rfl⟩

theorem SensorOnly.trans {s t u : State} (h : SensorOnly s t) (k : SensorOnly t u) : SensorOnly s u := by
  obtain ⟨_, _, _, _, _, rfl⟩ := h
  obtain ⟨_, _, _, _, _, rfl⟩ := k
  exact ⟨_, _, _, _, _, rfl⟩

theorem SensorOnly.frame {s t : State} (h : SensorOnly s t) :
    t.mem = s.mem ∧ t.gz.jobs = s.gz.jobs ∧ t.hw.dies = s.hw.dies ∧ t.hw.health = s.hw.health := by
  obtain ⟨_, _, _, _, _, rfl⟩ := h
  exact ⟨rfl, rfl, rfl, rfl⟩

theorem LedgerOnly.sensorOnly {s t : State} (h : LedgerOnly s t) : SensorOnly s t := by
  obtain ⟨_, _, _, _, rfl⟩ := h
  exact ⟨_, _, _, _, _, rfl⟩

theorem LedgerOnly.sensors {s t : State} (h : LedgerOnly s t) : t.hw.sensors = s.hw.sensors := by
  obtain ⟨_, _, _, _, rfl⟩ := h
  rfl

theorem modSensor_sensorOnly (s : State) (k : Nat) (f : Sensor → Sensor) : SensorOnly s (modSensor s k f) := ⟨_, _, _, _, _, rfl⟩

theorem sensor_modSensor (s : State) (k x : Nat) (f : Sensor → Sensor) :
    sensor (modSensor s k f) x = if x = k then f (sensor s k) else sensor s x := amGet_amMod _ _ _ _ _

theorem sensor_congr {s t : State} (h : t.hw.sensors = s.hw.sensors) : sensor t = sensor s := by
  funext x
  rw [sensor, h]
  rfl

/-- A sensor set to be ignored or to read: a change clears it (14 R375). -/
def sensorSet (v : Bool) (x : Sensor) : Sensor := if x.ignored = v then x else { x with ignored := v, samples := [], hot := 0 }

theorem sensor_setIgnored (k n unit x : Nat) (v : Bool) (s : State) :
    sensor (setIgnored k n unit v s) x = if x = k then sensorSet v (sensor s k) else sensor s x := by
  unfold setIgnored sensorSet
  split
  · split
    · next h => rw [h]
    · rfl
  · have hs := (ledgerEv_ledgerOnly (uDie unit) (mkEv (hwOrigin (uDie unit)) 0xE unit (if v then 12 else 13) 0 0 n 0)
      (modSensor s k (fun x => { x with ignored := v, samples := [], hot := 0 }))).sensors
    unfold ledger
    rw [sensor_congr hs, sensor_modSensor]

theorem setIgnored_sensorOnly (k n unit : Nat) (v : Bool) (s : State) : SensorOnly s (setIgnored k n unit v s) := by
  unfold setIgnored
  split
  · exact .refl s
  · exact (modSensor_sensorOnly s k _).trans (ledgerEv_ledgerOnly ..).sensorOnly

/-- Whether a sample is out of range or too far from the last one (14 R375). -/
def badSample (lo hi : Int) (jump : Option Nat) (v : Int) (x : Sensor) : Bool :=
  v < lo || hi < v || (match jump, x.samples with
    | some j, a :: _ => decide (j < (v - a).natAbs)
    | _, _ => false)

/-- A sensor after a sample (14 R375). -/
def sampled (lo hi : Int) (jump : Option Nat) (v : Int) (x : Sensor) : Sensor :=
  if badSample lo hi jump v x then sensorSet true x
  else { sensorSet false x with samples := (v :: (sensorSet false x).samples).take 3 }

theorem takeSample_eq (k n unit : Nat) (lo hi : Int) (jump : Option Nat) (v : Int) (s : State) :
    takeSample k n unit lo hi jump v s = if badSample lo hi jump v (sensor s k) then setIgnored k n unit true s
      else modSensor (setIgnored k n unit false s) k (fun x => { x with samples := (v :: x.samples).take 3 }) := rfl

theorem sensor_takeSample (k n unit x : Nat) (lo hi : Int) (jump : Option Nat) (v : Int) (s : State) :
    sensor (takeSample k n unit lo hi jump v s) x = if x = k then sampled lo hi jump v (sensor s k) else sensor s x := by
  rw [takeSample_eq, sampled]
  split
  · exact sensor_setIgnored ..
  · rw [sensor_modSensor, sensor_setIgnored, sensor_setIgnored]
    split
    · rw [if_pos rfl]
    · rfl

theorem takeSample_sensorOnly (k n unit : Nat) (lo hi : Int) (jump : Option Nat) (v : Int) (s : State) :
    SensorOnly s (takeSample k n unit lo hi jump v s) := by
  rw [takeSample_eq]
  split
  · exact setIgnored_sensorOnly ..
  · exact (setIgnored_sensorOnly ..).trans (modSensor_sensorOnly ..)

theorem takeSamples_sensorOnly (key unit : Nat → Nat) (lo hi : Int) (jump : Option Nat) (n : Nat) (vs : List Int) (s : State) :
    SensorOnly s (takeSamples key unit lo hi jump n vs s) := by
  induction vs generalizing n s with
  | nil => exact .refl s
  | cons v vs ih => exact (takeSample_sensorOnly ..).trans (ih (n + 1) _)

/-- Sensors that no sample is of stay as they are. -/
theorem takeSamples_other (key unit : Nat → Nat) (lo hi : Int) (jump : Option Nat) (n x : Nat) (vs : List Int) (s : State)
    (hx : ∀ i < vs.length, x ≠ key (n + i)) : sensor (takeSamples key unit lo hi jump n vs s) x = sensor s x := by
  induction vs generalizing n s with
  | nil => rfl
  | cons v vs ih =>
    rw [takeSamples, ih (n + 1) _ fun i hi => ?_, sensor_takeSample, if_neg (by exact hx 0 (by simp))]
    have := hx (i + 1) (by simpa using hi)
    rwa [show n + 1 + i = n + (i + 1) by omega]

/-- Each sensor takes its own sample. -/
theorem takeSamples_at (key unit : Nat → Nat) (lo hi : Int) (jump : Option Nat) (n i : Nat) (v : Int) (vs : List Int) (s : State)
    (hkey : ∀ a b, key a = key b → a = b) (hv : vs[i]? = some v) :
    sensor (takeSamples key unit lo hi jump n vs s) (key (n + i)) = sampled lo hi jump v (sensor s (key (n + i))) := by
  induction vs generalizing n i s with
  | nil => simp at hv
  | cons w vs ih =>
    cases i with
    | zero =>
      obtain rfl : w = v := by simpa using hv
      rw [takeSamples, takeSamples_other _ _ _ _ _ _ _ _ _ fun i _ h => by have := hkey _ _ h; omega]
      exact (sensor_takeSample ..).trans (if_pos rfl)
    | succ i =>
      have hih := ih (n + 1) i (takeSample (key n) n (unit n) lo hi jump w s) (by simpa using hv)
      rw [show n + 1 + i = n + (i + 1) by omega] at hih
      rw [takeSamples, hih, sensor_takeSample, if_neg fun h => by have := hkey _ _ h; omega]

/-! ## What follows from a stack's sensors -/

theorem stackAbove_congr {s t : State} (h : t.hw.sensors = s.hw.sensors) : stackAbove t = stackAbove s := by
  funext c k
  unfold stackAbove stackTemp stackSensors
  rw [sensor_congr h]

theorem refreshOf_congr {s t : State} (h : t.hw.sensors = s.hw.sensors) : refreshOf t = refreshOf s := by
  funext k old
  unfold refreshOf
  rw [stackAbove_congr h]

/-- A stack above 105 °C is above 103 °C. -/
theorem stackAbove_lower (s : State) (k : Nat) (h : stackAbove s (celsius 105) k = true) : stackAbove s (celsius 103) k = true := by
  simp only [stackAbove, Bool.or_eq_true, Bool.and_eq_true, Option.any_eq_true, decide_eq_true_eq] at h ⊢
  refine h.imp (fun h => ⟨h.1, by decide⟩) fun ⟨v, hv, hlt⟩ => ⟨v, hv, lt_trans (by decide) hlt⟩

/-- One side follows its stack: its refresh rate and its readiness (08 R242; 14 R375). -/
def sideFollows (stack : Nat) (all : Bool) (s : State) (side : Nat) : State :=
  let s := modSide s side (fun x => { x with refresh := refreshOf s stack x.refresh })
  let h := health s side
  if all then setReady side false 9 s
  else if !h.ready && h.lastCause = 9 then setReady side true 9 s
  else s

theorem stackFollows_eq (stack : Nat) (s : State) :
    stackFollows stack s = thermalHold (stack / 8)
      (sideFollows stack ((stackSensors s stack).all (·.ignored)) (sideFollows stack ((stackSensors s stack).all (·.ignored)) s
        (stackSide stack 0)) (stackSide stack 2)) := rfl

theorem HealthOnly.sensors {s t : State} (h : HealthOnly s t) : t.hw.sensors = s.hw.sensors := by
  obtain ⟨_, _, _, _, _, _, rfl⟩ := h
  rfl

theorem sideFollows_eq (stack : Nat) (all : Bool) (s : State) (side : Nat) :
    HealthOnly (modSide s side (fun x => { x with refresh := refreshOf s stack x.refresh })) (sideFollows stack all s side) := by
  unfold sideFollows
  dsimp only
  split
  · exact setReady_healthOnly ..
  · split
    · exact setReady_healthOnly ..
    · exact .refl _

theorem sideFollows_facts (stack : Nat) (all : Bool) (s : State) (side : Nat) :
    let t := sideFollows stack all s side
    t.hw.sensors = s.hw.sensors ∧ t.mem.cells = s.mem.cells ∧ t.gz.jobs = s.gz.jobs ∧
    (∀ x, (sideOf t x).refresh = if x = side then refreshOf s stack (sideOf s side).refresh else (sideOf s x).refresh) ∧
    (all = true → (health t side).ready = false) ∧ (∀ x, x ≠ side → health t x = health s x) := by
  intro t
  have h := sideFollows_eq stack all s side
  obtain ⟨hmem, -, hjobs, -⟩ := h.frame
  refine ⟨h.sensors, by rw [hmem]; rfl, hjobs, fun x => ?_, fun hall => ?_, fun x hx => ?_⟩
  · rw [sideOf, hmem]
    refine (congrArg Side.refresh (sideOf_modSide s side x _)).trans ?_
    split <;> rfl
  · show (health (sideFollows stack all s side) side).ready = false
    unfold sideFollows
    rw [if_pos hall]
    exact ready_setReady ..
  · show health (sideFollows stack all s side) x = _
    unfold sideFollows
    dsimp only
    have hset : ∀ r c, health (setReady side r c (modSide s side (fun x => { x with refresh := refreshOf s stack x.refresh }))) x = health s x := by
      intro r c
      rw [health_setReady, if_neg fun h => hx h.1]
      rfl
    split
    · exact hset false 9
    · split
      · exact hset true 9
      · rfl

theorem thermalHold_facts (d : Nat) (s : State) :
    (∃ x, thermalHold d s = { s with hw := { s.hw with dies := x } }) ∧
    ((List.range 8).any (fun i => stackAbove s (celsius 105) (8 * d + i)) = true → (dieOf (thermalHold d s) d).thermalHold = true) ∧
    ((List.range 8).any (fun i => stackAbove s (celsius 103) (8 * d + i)) = false → (dieOf (thermalHold d s) d).thermalHold = false) := by
  have hown : ∀ c, ((List.range 8).map (8 * d + ·)).any (stackAbove s c) = (List.range 8).any (fun i => stackAbove s c (8 * d + i)) :=
    fun c => List.any_map ..
  have hmono : (List.range 8).any (fun i => stackAbove s (celsius 105) (8 * d + i)) = true →
      (List.range 8).any (fun i => stackAbove s (celsius 103) (8 * d + i)) = true := by
    intro h
    obtain ⟨i, hi, ha⟩ := List.any_eq_true.1 h
    exact List.any_eq_true.2 ⟨i, hi, stackAbove_lower s _ ha⟩
  unfold thermalHold
  dsimp only
  rw [hown, hown]
  by_cases h105 : (List.range 8).any (fun i => stackAbove s (celsius 105) (8 * d + i)) = true
  · rw [if_pos h105]
    refine ⟨⟨_, rfl⟩, fun _ => ?_, fun h => absurd (hmono h105) (by rw [h]; decide)⟩
    rw [dieOf_modDie, if_pos rfl]
  · rw [if_neg h105]
    by_cases h103 : (List.range 8).any (fun i => stackAbove s (celsius 103) (8 * d + i)) = true
    · rw [if_neg (by simp [h103])]
      exact ⟨⟨_, rfl⟩, fun h => absurd h h105, fun h => absurd h103 (by rw [h]; decide)⟩
    · rw [if_pos (by simpa using h103)]
      refine ⟨⟨_, rfl⟩, fun h => absurd h h105, fun _ => ?_⟩
      rw [dieOf_modDie, if_pos rfl]

theorem stackSide_ne (k : Nat) : stackSide k 0 ≠ stackSide k 2 := by
  unfold stackSide uid
  omega

/-- Both sides of a stack follow it, and its die's hold (01 R31; 08 R242; 14 R375). -/
theorem stackFollows_facts (k : Nat) (s : State) :
    let t := stackFollows k s
    t.hw.sensors = s.hw.sensors ∧ t.mem.cells = s.mem.cells ∧ t.gz.jobs = s.gz.jobs ∧
    (∀ n, n = 0 ∨ n = 2 → (sideOf t (stackSide k n)).refresh = refreshOf s k (sideOf s (stackSide k n)).refresh) ∧
    ((List.range 8).any (fun i => stackAbove s (celsius 105) (8 * (k / 8) + i)) = true → (dieOf t (k / 8)).thermalHold = true) ∧
    ((List.range 8).any (fun i => stackAbove s (celsius 103) (8 * (k / 8) + i)) = false → (dieOf t (k / 8)).thermalHold = false) ∧
    ((stackSensors s k).all (·.ignored) = true →
      (health t (stackSide k 0)).ready = false ∧ (health t (stackSide k 2)).ready = false) := by
  intro t
  obtain ⟨hsens1, hcells1, hjobs1, href1, hready1, -⟩ := sideFollows_facts k ((stackSensors s k).all (·.ignored)) s (stackSide k 0)
  have hne := stackSide_ne k
  have ht : t = _ := stackFollows_eq k s
  set x := sideFollows k ((stackSensors s k).all (·.ignored)) s (stackSide k 0)
  obtain ⟨hsens2, hcells2, hjobs2, href2, hready2, hother2⟩ := sideFollows_facts k ((stackSensors s k).all (·.ignored)) x (stackSide k 2)
  set y := sideFollows k ((stackSensors s k).all (·.ignored)) x (stackSide k 2)
  obtain ⟨⟨d, hd⟩, h105, h103⟩ := thermalHold_facts (k / 8) y
  rw [stackAbove_congr (hsens2.trans hsens1)] at h105 h103
  rw [← ht] at hd h105 h103
  refine ⟨?_, ?_, ?_, ?_, h105, h103, fun hall => ?_⟩
  · rw [hd]
    exact hsens2.trans hsens1
  · rw [hd]
    exact hcells2.trans hcells1
  · rw [hd]
    exact hjobs2.trans hjobs1
  · have hrefresh : ∀ z, (sideOf t z).refresh = (sideOf y z).refresh := fun z => by rw [hd]; rfl
    rintro n (rfl | rfl)
    · rw [hrefresh, href2, if_neg hne, href1, if_pos rfl]
    · rw [hrefresh, href2, if_pos rfl, refreshOf_congr hsens1, href1, if_neg hne.symm]
  · have hhealth : ∀ z, health t z = health y z := fun z => by rw [hd]; rfl
    rw [hhealth, hhealth, hother2 _ hne]
    exact ⟨hready1 hall, hready2 hall⟩

/-- What a sample in range and near the last one leaves, and one that is not (14 R375). -/
theorem sampled_good (lo hi : Int) (jump : Option Nat) (v : Int) (x : Sensor) (hgood : badSample lo hi jump v x = false)
    (hx : x.ignored = false) : (sampled lo hi jump v x).samples = (v :: x.samples).take 3 ∧ (sampled lo hi jump v x).ignored = false := by
  have hset : sensorSet false x = x := if_pos hx
  rw [sampled, hgood, if_neg (by decide), hset]
  exact ⟨rfl, hx⟩

theorem sampled_bad (lo hi : Int) (jump : Option Nat) (v : Int) (x : Sensor) (hbad : badSample lo hi jump v x = true) :
    (sampled lo hi jump v x).ignored = true := by
  rw [sampled, if_pos hbad, sensorSet]
  split
  · next h => exact h
  · rfl

theorem badSample_jump (lo hi : Int) (n : Nat) (v : Int) (x : Sensor) :
    badSample lo hi (some n) v x = false ↔ lo ≤ v ∧ v ≤ hi ∧ ∀ a, x.samples.head? = some a → (v - a).natAbs ≤ n := by
  unfold badSample
  cases hl : x.samples with
  | nil => simp
  | cons a l => simp [and_assoc]

theorem badSample_none (lo hi : Int) (v : Int) (x : Sensor) : badSample lo hi none v x = false ↔ lo ≤ v ∧ v ≤ hi := by
  simp [badSample]

/-! ## Junction sensors -/

theorem countHot_facts (d : Nat) (s : State) : SensorOnly s (countHot d s) ∧
    ∀ k, (sensor (countHot d s) k).ignored = (sensor s k).ignored ∧ (sensor (countHot d s) k).samples = (sensor s k).samples := by
  have hall : ∀ (l : List Nat) (s : State),
      let t := l.foldl (fun s n => modSensor s (junctionKey d n) (fun x =>
        { x with hot := if (reading x).any (fun v => celsius 110 < v) then x.hot + 1 else 0 })) s
      SensorOnly s t ∧ ∀ k, (sensor t k).ignored = (sensor s k).ignored ∧ (sensor t k).samples = (sensor s k).samples := by
    intro l
    induction l with
    | nil => exact fun s => ⟨.refl s, fun _ => ⟨rfl, rfl⟩⟩
    | cons n l ih =>
      intro s
      obtain ⟨honly, hsame⟩ := ih (modSensor s (junctionKey d n) (fun x =>
        { x with hot := if (reading x).any (fun v => celsius 110 < v) then x.hot + 1 else 0 }))
      refine ⟨(modSensor_sensorOnly ..).trans honly, fun k => ?_⟩
      obtain ⟨hi, hs⟩ := hsame k
      rw [sensor_modSensor] at hi hs
      refine ⟨hi.trans ?_, hs.trans ?_⟩ <;> split
      · next h => rw [h]
      · rfl
      · next h => rw [h]
      · rfl
  exact hall _ s

/-- The hold of a die's junctions (14 R375). -/
theorem junctionHold_facts (d : Nat) (s : State) :
    let t := junctionHold d s
    t.hw.sensors = s.hw.sensors ∧ t.mem = s.mem ∧ t.gz.jobs = s.gz.jobs ∧
    ((junctions s d).any (·.ignored) = true → (dieOf t d).junctionHold = true) ∧
    ((junctions s d).any (fun x => 10 < x.hot) = true → (dieOf t d).junctionHold = true ∨
      ((dieOf s d).junctionHold = true ∧ (junctions s d).any (·.ignored) = false)) ∧
    ((dieOf s d).junctionHold = true → (junctions s d).any (·.ignored) = false →
      (junctions s d).any (fun x => (reading x).any (fun v => celsius 105 < v)) = false → (dieOf t d).junctionHold = false) := by
  have hset : ∀ v code aux, let t := ledger d (hwOrigin d) 0xE (uid 0 d 0) code 0 0 aux 0 (modDie s d (fun x => { x with junctionHold := v }))
      t.hw.sensors = s.hw.sensors ∧ t.mem = s.mem ∧ t.gz.jobs = s.gz.jobs ∧ (dieOf t d).junctionHold = v := by
    intro v code aux t
    have h : LedgerOnly (modDie s d (fun x => { x with junctionHold := v })) t := ledgerEv_ledgerOnly ..
    have hdies : t.hw.dies = (modDie s d (fun x => { x with junctionHold := v })).hw.dies := by
      obtain ⟨_, _, _, _, h⟩ := h
      rw [h]
    obtain ⟨hmem, -, hjobs, -⟩ := h.healthOnly.frame
    refine ⟨h.sensors, hmem, hjobs, ?_⟩
    rw [dieOf, hdies]
    show (dieOf (modDie s d _) d).junctionHold = v
    rw [dieOf_modDie, if_pos rfl]
  intro t
  have ht : t = if (dieOf s d).junctionHold then
      if (junctions s d).any (·.ignored) || (junctions s d).any (fun x => (reading x).any (fun v => celsius 105 < v)) then s
      else ledger d (hwOrigin d) 0xE (uid 0 d 0) 11 0 0 (ofInt 64 (junctionTemp s d)) 0 (modDie s d (fun x => { x with junctionHold := false }))
    else if (junctions s d).any (·.ignored) || (junctions s d).any (fun x => 10 < x.hot) then
      ledger d (hwOrigin d) 0xE (uid 0 d 0) 10 0 0 (ofInt 64 (junctionTemp s d)) 0 (modDie s d (fun x => { x with junctionHold := true }))
    else s := rfl
  rw [ht]
  cases hhold : (dieOf s d).junctionHold with
  | true =>
    rw [if_pos rfl]
    by_cases hstay : ((junctions s d).any (·.ignored) || (junctions s d).any (fun x => (reading x).any (fun v => celsius 105 < v))) = true
    · rw [if_pos hstay]
      refine ⟨rfl, rfl, rfl, fun _ => hhold, fun _ => .inl hhold, fun _ h1 h2 => ?_⟩
      rw [h1, h2] at hstay
      exact absurd hstay (by decide)
    · rw [if_neg hstay]
      obtain ⟨h1, h2, h3, h4⟩ := hset false 11 (ofInt 64 (junctionTemp s d))
      rw [Bool.not_eq_true, Bool.or_eq_false_iff] at hstay
      exact ⟨h1, h2, h3, fun h => absurd h (by rw [hstay.1]; decide), fun _ => .inr ⟨rfl, hstay.1⟩, fun _ _ _ => h4⟩
  | false =>
    rw [if_neg (by decide)]
    by_cases hgo : ((junctions s d).any (·.ignored) || (junctions s d).any (fun x => 10 < x.hot)) = true
    · rw [if_pos hgo]
      obtain ⟨h1, h2, h3, h4⟩ := hset true 10 (ofInt 64 (junctionTemp s d))
      exact ⟨h1, h2, h3, fun _ => h4, fun _ => .inl h4, fun h => absurd h (by decide)⟩
    · rw [if_neg hgo]
      rw [Bool.not_eq_true, Bool.or_eq_false_iff] at hgo
      exact ⟨rfl, rfl, rfl, fun h => absurd h (by rw [hgo.1]; decide), fun h => absurd h (by rw [hgo.2]; decide),
        fun h => absurd h (by decide)⟩

end Sys2Proof.Proofs
end

section
/-! PROOFS. The pace governor, tick calibration and the crystal (01 R23-R31), and the obligation on sensors. -/

namespace Sys2Proof.Proofs

open Sys2Proof Sys2Proof.Machine Sys2Proof.Laws

/-! ## Folds that leave something alone -/

/-- What no step of a fold changes, the fold does not change. -/
theorem foldl_view {α β γ : Type} (g : β → γ) (f : β → α → β) (l : List α) (s : β) (h : ∀ x ∈ l, ∀ s, g (f s x) = g s) :
    g (l.foldl f s) = g s := by
  induction l generalizing s with
  | nil => rfl
  | cons x l ih =>
    exact (ih _ fun y hy => h y (List.mem_cons_of_mem _ hy)).trans (h x List.mem_cons_self s)

/-- An entry that is the only one of its key stands between entries of other keys. -/
theorem split_of_filter_one {α : Type} {p : α → Bool} {l : List α} {r : α} (h : l.filter p = [r]) :
    ∃ pre post, l = pre ++ r :: post ∧ (∀ x ∈ pre, p x = false) ∧ ∀ x ∈ post, p x = false := by
  obtain ⟨pre, post, hl, hpre, -, hpost⟩ := List.filter_eq_cons_iff.1 h
  exact ⟨pre, post, hl, fun x hx => by simpa using hpre x hx, fun x hx => by simpa using List.filter_eq_nil_iff.1 hpost x hx⟩

theorem HealthOnly.foldl {α : Type} (f : State → α → State) (h : ∀ s x, HealthOnly s (f s x)) (l : List α) (s : State) :
    HealthOnly s (l.foldl f s) := by
  induction l generalizing s with
  | nil => exact .refl s
  | cons x l ih => exact (h s x).trans (ih _)

/-! ## Permits -/

theorem permits_facts (f : State → Nat → Nat → Nat) (hf : ∀ s t, t.free = s.free → f t = f s) (n : Nat) (s : State) :
    (∃ d c, permits f n s = { s with hw := { s.hw with dies := d, counters := c } }) ∧
    (∀ d < n, (dieOf (permits f n s) d).permit = f s d (dieOf s d).permit) ∧
    (∀ d, n ≤ d → dieOf (permits f n s) d = dieOf s d) := by
  induction n with
  | zero => exact ⟨⟨s.hw.dies, s.hw.counters, rfl⟩, fun d h => absurd h (by omega), fun _ _ => rfl⟩
  | succ n ih =>
    obtain ⟨⟨d, c, heq⟩, hlow, hhigh⟩ := ih
    have hfree : (permits f n s).free = s.free := by rw [heq]
    have hp : (dieOf (permits f n s) n).permit = (dieOf s n).permit := by rw [hhigh n (Nat.le_refl n)]
    unfold permits
    dsimp only
    rw [hf _ _ hfree, hp]
    split
    · next hsame =>
      refine ⟨⟨d, c, heq⟩, fun x hx => ?_, fun x hx => hhigh x (by omega)⟩
      by_cases hn : x = n
      · rw [hn, hp, hsame]
      · exact hlow x (by omega)
    · set y := modDie (permits f n s) n (fun d => { d with permit := f s n (dieOf s n).permit })
      obtain ⟨c', hc'⟩ := event_eq y (uid 0 12 0) 0x0005 0 1
      rw [hc']
      have hdie : ∀ x, dieOf { y with hw := { y.hw with counters := c' } } x =
          if x = n then { dieOf (permits f n s) n with permit := f s n (dieOf s n).permit } else dieOf (permits f n s) x :=
        fun x => dieOf_modDie (permits f n s) n x (fun d => { d with permit := f s n (dieOf s n).permit })
      refine ⟨⟨y.hw.dies, c', ?_⟩, fun x hx => ?_, fun x hx => ?_⟩
      · show { permits f n s with hw := { (permits f n s).hw with dies := y.hw.dies, counters := c' } } = _
        rw [heq]
      · rw [hdie]
        by_cases hn : x = n
        · rw [if_pos hn, hn]
        · rw [if_neg hn]
          exact hlow x (by omega)
      · rw [hdie, if_neg (by omega)]
        exact hhigh x (by omega)

theorem lowerPermit_free (s t : State) (h : t.free = s.free) : lowerPermit t = lowerPermit s := by
  unfold lowerPermit
  rw [h]

theorem raisePermit_free (s t : State) (h : t.free = s.free) : raisePermit t = raisePermit s := by
  unfold raisePermit
  rw [h]

/-- The state in which the governor has noted a sample (01 R29). -/
def paceNoted (p i : Nat) (s : State) : State := { s with mod := { s.mod with pacePower := p, paceCurrent := i } }

/-- What the governor does on a sample (01 R29). -/
def paced (p i : Nat) (s : State) : State :=
  if paceCapOf s < p || 4000 < i then
    let s := permits lowerPermit 12 s
    if 4000 < i then { s with mod := { s.mod with currentLimiting := true } } else s
  else if p < paceCapOf s && i < 4000 then
    let s := permits raisePermit 12 s
    if permitsFull s then { s with mod := { s.mod with currentLimiting := false } } else s
  else s

/-- The permits that a sample leaves (01 R29). -/
def permitAfter (s : State) (p i d : Nat) : Nat :=
  if paceCapOf s < p ∨ 4000 < i then lowerPermit s d (dieOf s d).permit
  else if p < paceCapOf s ∧ i < 4000 then raisePermit s d (dieOf s d).permit
  else (dieOf s d).permit

theorem execPaceSample_eq (power current : Word16) (s : State) :
    execPaceSample power current s =
      .next (settle (paced power.toNat current.toNat (paceNoted power.toNat current.toNat s))) := by
  unfold execPaceSample paced paceNoted
  with_reducible rfl

theorem exec_paceSample (power current : Word16) (s : State) (hi : Idle s) :
    ∃ t, exec (.paceSample power current) s = .next t ∧ t.mod.pacePower = power.toNat ∧ t.mod.paceCurrent = current.toNat ∧
      t.mem = s.mem ∧ t.gz = s.gz ∧ (∀ d < 12, (dieOf t d).permit = permitAfter s power.toNat current.toNat d) ∧
      (4000 < current.toNat → t.mod.currentLimiting = true) := by
  set x := paceNoted power.toNat current.toNat s
  have he : exec (.paceSample power current) s = .next (settle (paced power.toNat current.toNat x)) := execPaceSample_eq power current s
  unfold paced at he
  have hcap : paceCapOf x = paceCapOf s := rfl
  rw [hcap] at he
  by_cases habove : paceCapOf s < power.toNat ∨ 4000 < current.toNat
  · obtain ⟨⟨d, c, heq⟩, hlow, -⟩ := permits_facts lowerPermit lowerPermit_free 12 x
    rw [if_pos (by simpa using habove)] at he
    have hafter : ∀ d, permitAfter s power.toNat current.toNat d = lowerPermit s d (dieOf s d).permit := fun d => if_pos habove
    simp only [hafter]
    generalize permits lowerPermit 12 x = y at he heq hlow
    have hpow : y.mod.pacePower = power.toNat := by rw [heq]; rfl
    have hcurr : y.mod.paceCurrent = current.toNat := by rw [heq]; rfl
    have hmem : y.mem = s.mem := by rw [heq]; rfl
    have hgz : y.gz = s.gz := by rw [heq]; rfl
    by_cases hcur : 4000 < current.toNat
    · rw [if_pos hcur, settle_idle _ (by show y.gz.jobs = []; rw [heq]; exact hi)] at he
      exact ⟨_, he, hpow, hcurr, hmem, hgz, hlow, fun _ => rfl⟩
    · rw [if_neg hcur, settle_idle _ (by rw [heq]; exact hi)] at he
      exact ⟨_, he, hpow, hcurr, hmem, hgz, hlow, fun h => absurd h hcur⟩
  · rw [if_neg (by simpa using habove)] at he
    have hcur : ¬4000 < current.toNat := fun h => habove (.inr h)
    by_cases hbelow : power.toNat < paceCapOf s ∧ current.toNat < 4000
    · obtain ⟨⟨d, c, heq⟩, hlow, -⟩ := permits_facts raisePermit raisePermit_free 12 x
      rw [if_pos (by simpa using hbelow)] at he
      have hafter : ∀ d, permitAfter s power.toNat current.toNat d = raisePermit s d (dieOf s d).permit :=
        fun d => (if_neg habove).trans (if_pos hbelow)
      simp only [hafter]
      generalize permits raisePermit 12 x = y at he heq hlow
      have hpow : y.mod.pacePower = power.toNat := by rw [heq]; rfl
      have hcurr : y.mod.paceCurrent = current.toNat := by rw [heq]; rfl
      have hmem : y.mem = s.mem := by rw [heq]; rfl
      have hgz : y.gz = s.gz := by rw [heq]; rfl
      have hy : Idle y := by rw [heq]; exact hi
      obtain ⟨l, hl⟩ : ∃ l, (if permitsFull y then { y with mod := { y.mod with currentLimiting := false } } else y) =
          { y with mod := { y.mod with currentLimiting := l } } := by
        split
        · exact ⟨_, rfl⟩
        · exact ⟨y.mod.currentLimiting, rfl⟩
      rw [hl, settle_idle _ (by exact hy)] at he
      exact ⟨_, he, hpow, hcurr, hmem, hgz, hlow, fun h => absurd h hcur⟩
    · rw [if_neg (by simpa using hbelow), settle_idle x hi] at he
      have hafter : ∀ d, permitAfter s power.toNat current.toNat d = (dieOf s d).permit :=
        fun d => (if_neg habove).trans (if_neg hbelow)
      simp only [hafter]
      exact ⟨_, he, rfl, rfl, rfl, rfl, fun _ _ => rfl, fun h => absurd h hcur⟩

/-! ## Tick calibration -/

/-- A change of readiness touches readiness and its cause alone. -/
theorem health_setReady_keeps (u x : Nat) (r : Bool) (cause : Nat) (s : State) :
    ∃ rr cc, health (setReady u r cause s) x = { health s x with ready := rr, lastCause := cc } := by
  rw [health_setReady]
  split
  · next h => exact ⟨r, cause, by rw [h.1]⟩
  · exact ⟨(health s x).ready, (health s x).lastCause, rfl⟩

/-- One block's rates (01 R23, R24). -/
def calibrated (die : Nat) (s : State) (r : Word32 × Word32 × Word16) : State :=
  let u := r.1.toNat
  let v := r.2.1.toNat
  if uDie u != die then s
  else
    let s := modHealth s u (fun h => { h with tickRate := v, beatPs := if uKind u = 1 then r.2.2.toNat else h.beatPs })
    if v < 700 * 65536 || 1300 * 65536 < v then setReady u false 6 s else s

theorem calibrated_healthOnly (die : Nat) (s : State) (r : Word32 × Word32 × Word16) : HealthOnly s (calibrated die s r) := by
  unfold calibrated
  dsimp only
  split
  · exact .refl s
  · split
    · exact (modHealth_healthOnly ..).trans (setReady_healthOnly ..)
    · exact modHealth_healthOnly ..

theorem health_calibrated_other (die x : Nat) (s : State) (r : Word32 × Word32 × Word16) (hx : r.1.toNat ≠ x) :
    health (calibrated die s r) x = health s x := by
  unfold calibrated
  dsimp only
  split
  · rfl
  · split
    · rw [health_setReady, if_neg fun h => hx h.1.symm, health_modHealth, if_neg hx.symm]
    · rw [health_modHealth, if_neg hx.symm]

theorem health_calibrated_self (s : State) (r : Word32 × Word32 × Word16) :
    let h := health (calibrated (uDie r.1.toNat) s r) r.1.toNat
    h.tickRate = r.2.1.toNat ∧ (uKind r.1.toNat = 1 → h.beatPs = r.2.2.toNat) ∧
    (r.2.1.toNat < 700 * 65536 ∨ 1300 * 65536 < r.2.1.toNat → h.ready = false) ∧
    (700 * 65536 ≤ r.2.1.toNat → r.2.1.toNat ≤ 1300 * 65536 → h.ready = (health s r.1.toNat).ready) := by
  intro h
  set x := modHealth s r.1.toNat (fun h => { h with
    tickRate := r.2.1.toNat, beatPs := if uKind r.1.toNat = 1 then r.2.2.toNat else h.beatPs })
  have hx : health x r.1.toNat = { health s r.1.toNat with
      tickRate := r.2.1.toNat, beatPs := if uKind r.1.toNat = 1 then r.2.2.toNat else (health s r.1.toNat).beatPs } := by
    rw [health_modHealth, if_pos rfl]
  have hh : h = health (if r.2.1.toNat < 700 * 65536 || 1300 * 65536 < r.2.1.toNat then setReady r.1.toNat false 6 x else x) r.1.toNat := by
    show health (calibrated _ s r) _ = _
    unfold calibrated
    dsimp only
    rw [if_neg (by simp)]
  clear_value h
  subst hh
  by_cases hout : r.2.1.toNat < 700 * 65536 ∨ 1300 * 65536 < r.2.1.toNat
  · rw [if_pos (by simpa using hout)]
    have hrate : (health (setReady r.1.toNat false 6 x) r.1.toNat).tickRate = r.2.1.toNat ∧
        (health (setReady r.1.toNat false 6 x) r.1.toNat).beatPs = if uKind r.1.toNat = 1 then r.2.2.toNat else (health s r.1.toNat).beatPs := by
      obtain ⟨rr, cc, hset⟩ := health_setReady_keeps r.1.toNat r.1.toNat false 6 x
      rw [hset, hx]
      exact ⟨rfl, rfl⟩
    refine ⟨hrate.1, fun hk => ?_, fun _ => ready_setReady .., fun h1 h2 => by omega⟩
    rw [hrate.2, if_pos hk]
  · rw [if_neg (by simpa using hout), hx]
    exact ⟨rfl, fun hk => if_pos hk, fun h => absurd h hout, fun _ _ => rfl⟩

/-- A die's tick calibration: each rate is stored, and one out of range takes its block out (01 R23, R24). -/
theorem exec_tickCalibration (die : Die) (rates : List (Word32 × Word32 × Word16)) (s : State) (hi : Idle s) (hc : s.mod.crystal = true) :
    ∃ t, exec (.tickCalibration die rates) s = .next t ∧ (die.val = 12 → t.mod.tickCal = true) ∧
      ∀ x, health t x = health (rates.foldl (calibrated die.val) s) x := by
  have hjobs : Idle (rates.foldl (calibrated die.val) s) :=
    (HealthOnly.foldl _ (calibrated_healthOnly die.val) rates s).frame.2.2.1.trans hi
  have he : exec (.tickCalibration die rates) s = .next (settle (if !s.mod.crystal then s
      else if die.val = 12 then { rates.foldl (calibrated die.val) s with
          mod := { (rates.foldl (calibrated die.val) s).mod with tickCal := true } }
        else rates.foldl (calibrated die.val) s)) := rfl
  rw [hc, if_neg (by decide)] at he
  generalize rates.foldl (calibrated die.val) s = y at he hjobs
  by_cases hmd : die.val = 12
  · rw [if_pos hmd, settle_idle _ (by exact hjobs)] at he
    exact ⟨_, he, fun _ => rfl, fun _ => rfl⟩
  · rw [if_neg hmd, settle_idle y hjobs] at he
    exact ⟨_, he, fun h => absurd h hmd, fun _ => rfl⟩

/-- The only rate of a block is the one it keeps. -/
theorem health_rates (rates : List (Word32 × Word32 × Word16)) (r : Word32 × Word32 × Word16) (s : State)
    (hone : rates.filter (fun q => q.1 = r.1) = [r]) :
    ∃ x, health (rates.foldl (calibrated (uDie r.1.toNat)) s) r.1.toNat = health (calibrated (uDie r.1.toNat) x r) r.1.toNat ∧
      health x r.1.toNat = health s r.1.toNat := by
  obtain ⟨pre, post, hl, hpre, hpost⟩ := split_of_filter_one hone
  have hskip : ∀ l : List (Word32 × Word32 × Word16), (∀ q ∈ l, decide (q.1 = r.1) = false) → ∀ s,
      health (l.foldl (calibrated (uDie r.1.toNat)) s) r.1.toNat = health s r.1.toNat := by
    intro l h s
    refine foldl_view (fun s => health s r.1.toNat) _ l s fun q hq s => health_calibrated_other _ _ s q fun hn => ?_
    exact of_decide_eq_false (h q hq) (BitVec.eq_of_toNat_eq hn)
  rw [hl, List.foldl_append, List.foldl_cons]
  exact ⟨pre.foldl (calibrated (uDie r.1.toNat)) s, hskip post hpost _, hskip pre hpre s⟩

/-! ## The crystal -/

/-- The crystal is lost, or back: the notes of it on the module (01 R25). -/
def crystalNoted (v : Bool) (s : State) : State := { s with mod := { s.mod with crystal := v, tickCal := v } }

theorem crystalLedgered (v : Bool) (code : Nat) (s : State) :
    let t := ledger 12 (hwOrigin 12) 0xE mdBlock code 0 0 0 0 (crystalNoted v s)
    t.mod.crystal = v ∧ t.mod.tickCal = v ∧ t.gz.jobs = s.gz.jobs ∧ ∀ x, health t x = health s x := by
  intro t
  have hmod : t.mod = (crystalNoted v s).mod := (ledger_frame 12 (hwOrigin 12) 0xE mdBlock code 0 0 0 0 (crystalNoted v s)).2.2.2.1
  refine ⟨by rw [hmod]; rfl, by rw [hmod]; rfl, (ledgerEv_ledgerOnly ..).healthOnly.frame.2.2.1, fun x => ?_⟩
  exact health_ledger 12 (hwOrigin 12) 0xE mdBlock code 0 0 0 0 x (crystalNoted v s)

theorem setReady_mod (u : Nat) (r : Bool) (c : Nat) (s : State) : (setReady u r c s).mod = s.mod := (setReady_frame u r c s).2.2.2.1

theorem sensorSet_ignored (v : Bool) (x : Sensor) : (sensorSet v x).ignored = v := by
  unfold sensorSet
  split
  · next h => exact h
  · rfl

/-- Settles O52: samples by `sampled`, what follows by the stack's and the die's own lemmas, permits by `permitAfter`. -/
theorem sensorsPaceAndCalibration : Obligations.SensorsPaceAndCalibration := by
  refine ⟨⟨fun stack vs s hi => ?stack, fun die vs s hi => ?junction, fun unit n s hi => ?timeout⟩,
    fun power current s hi => ?pace, fun die rates s hi => ?rates, fun s hi => ⟨fun hc => ?loss, fun hc => ?lost, fun hc => ?restore, fun hc => ?whole⟩⟩
  case stack =>
    intro k d
    set x := takeSamples (fun n => 16 * k + n) (stackSide k) (celsius (-20)) (celsius 130) (some 80) 0 (vs.take 4) s with hx
    have he : exec (.stackSensorSample stack vs) s = .next (settle (stackFollows k x)) := rfl
    have honly : SensorOnly s x := takeSamples_sensorOnly ..
    obtain ⟨hmem, hjobs, -, -⟩ := honly.frame
    obtain ⟨hsens, hcells, hj, hrefresh, h105, h103, hready⟩ := stackFollows_facts k x
    rw [settle_idle _ (hj.trans (hjobs.trans hi))] at he
    have hsensor : ∀ key, sensor (passed (stackFollows k x)) key = sensor x key := fun key => congrFun (sensor_congr hsens) key
    have hside : ∀ u, sideOf x u = sideOf s u := fun u => by rw [sideOf, hmem]; rfl
    refine ⟨_, he, hcells.trans (by rw [hmem]), fun n v hn hv => ?_, fun key hkey => ?_, fun n hn => ?_, ?_, ?_, ?_⟩
    · have hat := takeSamples_at (fun n => 16 * k + n) (stackSide k) (celsius (-20)) (celsius 130) (some 80) 0 n v (vs.take 4) s
        (fun a b h => by simpa using h) (by rw [List.getElem?_take, if_pos hn]; exact hv)
      rw [Nat.zero_add, ← hx] at hat
      intro old good
      have hiff := badSample_jump (celsius (-20)) (celsius 130) 80 v old
      rw [hsensor, hat]
      refine ⟨fun hgood hold => sampled_good _ _ _ _ _ (hiff.2 hgood) hold, fun hbad => sampled_bad _ _ _ _ _ ?_⟩
      exact Bool.not_eq_false _ ▸ fun h => hbad (hiff.1 h)
    · rw [hsensor]
      refine takeSamples_other _ _ _ _ _ _ _ _ _ fun i hlt h => hkey ?_
      rw [List.length_take] at hlt
      omega
    · show (sideOf (stackFollows k x) _).refresh = refreshOf (stackFollows k x) k _
      rw [hrefresh n hn, refreshOf_congr hsens, hside]
    · show (List.range 8).any (fun i => stackAbove (stackFollows k x) _ _) = true → (dieOf (stackFollows k x) d).thermalHold = true
      rw [stackAbove_congr hsens]
      exact h105
    · show (List.range 8).any (fun i => stackAbove (stackFollows k x) _ _) = false → (dieOf (stackFollows k x) d).thermalHold = false
      rw [stackAbove_congr hsens]
      exact h103
    · show (stackSensors (stackFollows k x) k).all _ = true → (health (stackFollows k x) _).ready = false ∧ (health (stackFollows k x) _).ready = false
      unfold stackSensors
      rw [sensor_congr hsens]
      exact hready
  case junction =>
    intro d
    set x := takeSamples (junctionKey d) (fun _ => uid 0 d 0) (celsius (-20)) (celsius 150) none 0 (vs.take 16) s with hx
    set y := countHot d x
    have he : exec (.junctionSensorSample die vs) s = .next (settle (junctionHold d y)) := rfl
    obtain ⟨honly, hhot⟩ := countHot_facts d x
    obtain ⟨hmem, hjobs, hdies, -⟩ := ((takeSamples_sensorOnly (junctionKey d) (fun _ => uid 0 d 0) (celsius (-20)) (celsius 150) none 0
      (vs.take 16) s).trans honly).frame
    obtain ⟨hsens, hmem', hj, hign, hlong, hfall⟩ := junctionHold_facts d y
    rw [settle_idle _ (hj.trans (hjobs.trans hi))] at he
    have hsensor : ∀ key, sensor (passed (junctionHold d y)) key = sensor y key := fun key => congrFun (sensor_congr hsens) key
    have hjunctions : junctions (passed (junctionHold d y)) d = junctions y d := List.map_congr_left fun n _ => hsensor _
    have hdie : dieOf y d = dieOf s d := by rw [dieOf, hdies]; rfl
    rw [hdie] at hlong hfall
    refine ⟨_, he, hmem'.trans hmem, fun n v hn hv => ?_, fun h => ?_, fun hhold hnone hcool => ?_⟩
    · have hat := takeSamples_at (junctionKey d) (fun _ => uid 0 d 0) (celsius (-20)) (celsius 150) none 0 n v (vs.take 16) s
        (fun a b h => by unfold junctionKey at h; omega) (by rw [List.getElem?_take, if_pos hn]; exact hv)
      rw [Nat.zero_add, ← hx] at hat
      intro old good
      have hiff := badSample_none (celsius (-20)) (celsius 150) v old
      obtain ⟨hi', hs'⟩ := hhot (junctionKey d n)
      rw [hsensor, hi', hs', hat]
      refine ⟨fun hgood hold => sampled_good _ _ _ _ _ (hiff.2 hgood) hold, fun hbad => sampled_bad _ _ _ _ _ ?_⟩
      exact Bool.not_eq_false _ ▸ fun h => hbad (hiff.1 h)
    · rw [hjunctions] at h ⊢
      exact h.elim (fun h => .inl (hign h)) hlong
    · rw [hjunctions] at hnone
      refine hfall hhold hnone ?_
      rw [List.any_eq_false]
      intro z hz
      obtain ⟨n, hn, rfl⟩ := List.mem_map.1 hz
      rw [Bool.not_eq_true, Option.any_eq_false]
      intro v hv
      have hle := hcool n v (List.mem_range.1 hn) ((congrArg reading (hsensor _)).trans hv)
      simpa using hle
  case timeout =>
    intro u d stack e
    refine ⟨fun hs => ?_, fun hs hk hcd => ?_, fun hs hnot => ?_⟩
    · have he : e = .next (settle (stackFollows (8 * d + uInst u / 2) (setIgnored (16 * (8 * d + uInst u / 2) + n.val) n.val
          (stackSide (8 * d + uInst u / 2) n.val) true s))) := by
        show execSensorTimeout unit n s = _
        unfold execSensorTimeout
        dsimp only
        rw [if_pos (by simpa [stack, u] using hs)]
      obtain ⟨hsens, -, hj, -⟩ := stackFollows_facts (8 * d + uInst u / 2) (setIgnored (16 * (8 * d + uInst u / 2) + n.val) n.val
          (stackSide (8 * d + uInst u / 2) n.val) true s)
      rw [settle_idle _ (hj.trans ((setIgnored_sensorOnly ..).frame.2.1.trans hi))] at he
      refine ⟨_, he, ?_⟩
      show (sensor (stackFollows _ _) _).ignored = true
      rw [sensor_congr hsens, sensor_setIgnored, if_pos rfl]
      exact sensorSet_ignored true _
    · have he : e = .next (settle (junctionHold d (setIgnored (junctionKey d n.val) n.val (uid 0 d 0) true s))) := by
        show execSensorTimeout unit n s = _
        unfold execSensorTimeout
        dsimp only
        rw [if_neg (by simpa [stack, u] using hs), if_pos (by simp [show uKind unit.toNat = 0 from hk, show isCD (uDie unit.toNat) = true from hcd])]
      set x := setIgnored (junctionKey d n.val) n.val (uid 0 d 0) true s
      obtain ⟨hsens, -, hj, hign, -⟩ := junctionHold_facts d x
      have hx : (sensor x (junctionKey d n.val)).ignored = true := by
        rw [sensor_setIgnored, if_pos rfl]
        exact sensorSet_ignored true _
      rw [settle_idle _ (hj.trans ((setIgnored_sensorOnly ..).frame.2.1.trans hi))] at he
      refine ⟨_, he, ?_, hign (List.any_eq_true.2 ⟨_, List.mem_map.2 ⟨n.val, List.mem_range.2 n.isLt, rfl⟩, hx⟩)⟩
      show (sensor (junctionHold d x) _).ignored = true
      rw [sensor_congr hsens]
      exact hx
    · show execSensorTimeout unit n s = _
      unfold execSensorTimeout
      dsimp only
      rw [if_neg (by simpa [stack, u] using hs), if_neg (by simpa [u, d] using hnot), settle_idle s hi]
  case pace =>
    intro p i above
    obtain ⟨t, he, hpow, hcur, hmem, hgz, hpermit, hlimit⟩ := exec_paceSample power current s hi
    refine ⟨t, he, hpow, hcur, hmem, hgz, fun d hd => ?_, hlimit⟩
    intro old new
    have hnew : new = permitAfter s p i d := hpermit d hd
    unfold permitAfter lowerPermit raisePermit at hnew
    refine ⟨fun h => ?_, fun hp hi' hfull => ?_, fun h1 h2 => ?_⟩
    · rw [if_pos h] at hnew
      split at hnew
      · omega
      · omega
    · rw [if_neg (by omega), if_pos ⟨hp, hi'⟩] at hnew
      omega
    · rw [if_neg h1, if_neg h2] at hnew
      exact hnew
  case rates =>
    intro e
    refine ⟨fun hc => ?_, fun hc => ?_⟩
    · show execTickCalibration die rates s = _
      unfold execTickCalibration
      dsimp only
      rw [hc, if_pos (by decide), settle_idle s hi]
    · obtain ⟨t, he, hmd, hhealth⟩ := exec_tickCalibration die rates s hi hc
      refine ⟨t, he, hmd, fun r _ hdie hone => ?_, fun u hu => ?_⟩
      · obtain ⟨x, hx, hsame⟩ := health_rates rates r s hone
        rw [hhealth, ← hdie, hx, ← hsame]
        exact health_calibrated_self x r
      · rw [hhealth]
        exact foldl_view (fun s => health s u) _ rates s fun r hr s => health_calibrated_other _ _ s r (hu r hr)
  case loss =>
    obtain ⟨hcr, htc, hjobs, hhealth⟩ := crystalLedgered false 15 s
    have he : exec .crystalLoss s = .next (settle (setReady lpddrUnit false 6
        (ledger 12 (hwOrigin 12) 0xE mdBlock 15 0 0 0 0 (crystalNoted false s)))) := by
      show execCrystalLoss s = _
      unfold execCrystalLoss
      rw [hc, if_neg (by decide)]
      rfl
    set y := ledger 12 (hwOrigin 12) 0xE mdBlock 15 0 0 0 0 (crystalNoted false s)
    rw [settle_idle _ ((setReady_healthOnly ..).frame.2.2.1.trans (hjobs.trans hi))] at he
    refine ⟨_, he, ?_, ?_, ready_setReady lpddrUnit false 6 y, fun u hu => ?_⟩
    · show (setReady lpddrUnit false 6 y).mod.crystal = false
      rw [setReady_mod, hcr]
    · show (setReady lpddrUnit false 6 y).mod.tickCal = false
      rw [setReady_mod, htc]
    · show health (setReady lpddrUnit false 6 y) u = _
      rw [health_setReady, if_neg fun h => hu h.1, hhealth]
  case lost =>
    show execCrystalLoss s = _
    unfold execCrystalLoss
    rw [hc, if_pos (by decide), settle_idle s hi]
  case restore =>
    obtain ⟨hcr, htc, hjobs, hhealth⟩ := crystalLedgered true 16 s
    set y := ledger 12 (hwOrigin 12) 0xE mdBlock 16 0 0 0 0 (crystalNoted true s)
    have he : exec .crystalRestore s = .next (settle (if !(health y lpddrUnit).ready && (health y lpddrUnit).lastCause = 6 then
        setReady lpddrUnit true 6 y else y)) := by
      show execCrystalRestore s = _
      unfold execCrystalRestore
      rw [hc, if_neg (by decide)]
      rfl
    rw [hhealth] at he
    by_cases hback : (health s lpddrUnit).ready = false ∧ (health s lpddrUnit).lastCause = 6
    · rw [if_pos (by simp [hback]), settle_idle _ ((setReady_healthOnly ..).frame.2.2.1.trans (hjobs.trans hi))] at he
      refine ⟨_, he, ?_, ?_, fun _ _ => ready_setReady lpddrUnit true 6 y⟩
      · show (setReady lpddrUnit true 6 y).mod.crystal = true
        rw [setReady_mod, hcr]
      · show (setReady lpddrUnit true 6 y).mod.tickCal = true
        rw [setReady_mod, htc]
    · rw [if_neg (by simpa using hback), settle_idle _ (hjobs.trans hi)] at he
      exact ⟨_, he, hcr, htc, fun h1 h2 => absurd ⟨h1, h2⟩ hback⟩
  case whole =>
    show execCrystalRestore s = _
    unfold execCrystalRestore
    rw [hc, if_pos rfl, settle_idle s hi]

end Sys2Proof.Proofs
end

section
/-! PROOFS. Bring-up, gauges, margin plans, rotation and probation (14 R370-R385). -/

namespace Sys2Proof.Proofs

open Sys2Proof Sys2Proof.Machine Sys2Proof.Laws

/-! ## What work on a unit's health leaves alone -/

/-- Work on units' health: no command, no byte, no item, no tap and no rail changes, no count but the ledger's, and of a die at most
its generation. -/
structure UnitWork (s t : State) : Prop where
  jobs : t.gz.jobs = s.gz.jobs
  mem : t.mem = s.mem
  items : t.hw.items = s.hw.items
  now : t.now = s.now
  taps : t.flash.taps = s.flash.taps
  rails : t.flash.rails = s.flash.rails
  counts : Counted s t
  dies : ∀ x, ∃ g, dieOf t x = { dieOf s x with generation := g }

theorem UnitWork.refl (s : State) : UnitWork s s := ⟨rfl, rfl, rfl, rfl, rfl, rfl, .refl s, fun _ => ⟨_, rfl⟩⟩

theorem UnitWork.trans {s t u : State} (h : UnitWork s t) (k : UnitWork t u) : UnitWork s u := by
  refine ⟨k.jobs.trans h.jobs, k.mem.trans h.mem, k.items.trans h.items, k.now.trans h.now, k.taps.trans h.taps,
    k.rails.trans h.rails, h.counts.trans k.counts, fun x => ?_⟩
  obtain ⟨g, hg⟩ := k.dies x
  obtain ⟨g', hg'⟩ := h.dies x
  exact ⟨g, by rw [hg, hg']⟩

theorem UnitWork.foldl {α : Type} (f : State → α → State) (h : ∀ s x, UnitWork s (f s x)) (l : List α) (s : State) :
    UnitWork s (l.foldl f s) := by
  induction l generalizing s with
  | nil => exact .refl s
  | cons x l ih => exact (h s x).trans (ih _)

theorem UnitWork.tapOf {s t : State} (h : UnitWork s t) (u : Nat) : tapOf t u = tapOf s u := by
  unfold Machine.tapOf
  rw [h.taps]

theorem UnitWork.railOf {s t : State} (h : UnitWork s t) (d : Nat) : railOf t d = railOf s d := by
  unfold Machine.railOf
  rw [h.rails]

theorem ledger_unitWork (die o re ob fi c old new aux : Nat) (s : State) : UnitWork s (ledger die o re ob fi c old new aux s) := by
  have hflash : (ledger die o re ob fi c old new aux s).flash.taps = s.flash.taps ∧
      (ledger die o re ob fi c old new aux s).flash.rails = s.flash.rails := by
    unfold ledger ledgerEv
    split
    · obtain ⟨_, _, _, _, _, _, _, h, -⟩ := appendEntry_paged (mkEv o re ob fi c old new aux) s
      rw [h]
      exact ⟨rfl, rfl⟩
    · exact ⟨rfl, rfl⟩
  have hcount : Counted s (ledger die o re ob fi c old new aux s) := ledgerEv_counted _ _ _
  obtain ⟨_, _, _, _, h⟩ := ledgerEv_ledgerOnly die (mkEv o re ob fi c old new aux) s
  have h' : ledger die o re ob fi c old new aux s = _ := h
  refine ⟨?_, ?_, ?_, ?_, hflash.1, hflash.2, hcount, fun x => ⟨(dieOf s x).generation, ?_⟩⟩ <;> rw [h'] <;> rfl

theorem modHealth_unitWork (s : State) (u : Nat) (f : Health → Health) : UnitWork s (modHealth s u f) :=
  ⟨rfl, rfl, rfl, rfl, rfl, rfl, fun _ _ => rfl, fun _ => ⟨_, rfl⟩⟩

theorem actOn_unitWork (obj : OrderObj) (o : Order) (s : State) : UnitWork s (actOn obj o s) :=
  ⟨rfl, rfl, rfl, rfl, rfl, rfl, fun _ _ => rfl, fun _ => ⟨_, rfl⟩⟩

theorem modEngine_unitWork (s : State) (u : Nat) (f : Engine → Engine) : UnitWork s (modEngine s u f) :=
  ⟨rfl, rfl, rfl, rfl, rfl, rfl, fun _ _ => rfl, fun _ => ⟨_, rfl⟩⟩

theorem setReady_unitWork (u : Nat) (r : Bool) (cause : Nat) (s : State) : UnitWork s (setReady u r cause s) := by
  unfold setReady
  split
  · exact .refl s
  · refine UnitWork.trans ?_ (ledger_unitWork ..)
    refine ⟨rfl, rfl, rfl, rfl, rfl, rfl, fun _ _ => rfl, fun x => ?_⟩
    rw [dieOf_modDie]
    split
    · next h => exact ⟨_, by rw [h]; rfl⟩
    · exact ⟨_, rfl⟩

theorem quarantine_unitWork (u : Nat) (s : State) : UnitWork s (quarantine u s) :=
  (actOn_unitWork ..).trans ((ledger_unitWork ..).trans ((modHealth_unitWork ..).trans (setReady_unitWork ..)))

theorem charge_unitWork (u pts : Nat) (s : State) : UnitWork s (charge u pts s) := by
  unfold charge
  extract_lets v lim h p s1
  split
  · exact .refl s
  · split
    · exact (modHealth_unitWork ..).trans (quarantine_unitWork ..)
    · exact modHealth_unitWork ..

/-! ## Health under quarantine and points -/

theorem health_quarantine (u x : Nat) (s : State) :
    health (quarantine u s) x = if x = u then
      { health s u with
        ready := false, quarantined := true, probation := false
        lastCause := if (health s u).ready = false then (health s u).lastCause else 2 }
    else health s x := by
  unfold quarantine
  dsimp only
  rw [health_setReady, health_modHealth, health_modHealth, if_pos rfl, health_ledger, health_ledger]
  by_cases hx : x = u
  · subst hx
    rw [if_pos rfl, if_pos rfl]
    show (if x = x ∧ (health s x).ready ≠ false then { health s x with
        quarantined := true, probation := false, ready := false, lastCause := 2 } else
        { health s x with quarantined := true, probation := false }) = _
    cases hr : (health s x).ready with
    | true => rw [if_pos ⟨rfl, by decide⟩, if_neg (by decide)]
    | false => rw [if_neg (by simp), if_pos rfl, ← hr]
  · rw [if_neg (fun h => hx h.1), if_neg hx, if_neg hx]
    rfl

/-- A charge changes points and readiness, not the count of matching shadow operations. -/
theorem shadow_charge (u pts x : Nat) (s : State) : (health (charge u pts s) x).shadow = (health s x).shadow := by
  unfold charge
  extract_lets v lim h p s1
  have h1 : (health s1 x).shadow = (health s x).shadow := by
    rw [health_modHealth]
    split
    · next hx => rw [hx]
    · rfl
  split
  · rfl
  · split
    · rw [← h1, health_quarantine]
      split
      · next hx => rw [hx]
      · rfl
    · exact h1

/-- A unit that keeps points is charged itself (05 R135). -/
theorem chargedUnit_keepsPoints (u : Nat) (h : keepsPoints u = true) : chargedUnit u = u := by
  simp only [keepsPoints, Bool.and_eq_true, List.contains_iff_mem, List.mem_cons, List.not_mem_nil, or_false] at h
  obtain ⟨-, h⟩ := h
  unfold chargedUnit
  rw [if_neg (by omega), if_neg (by omega)]

/-- The points charged stand in the unit's count. -/
theorem points_charge (u pts : Nat) (s : State) (hu : keepsPoints u = true) (hp : pts ≠ 0) :
    pts * 65536 ≤ (health (charge u pts s) u).points := by
  unfold charge
  extract_lets v lim h p s1
  have hv : v = u := chargedUnit_keepsPoints u hu
  clear_value v
  subst hv
  have h1 : pts * 65536 ≤ (health s1 v).points := by
    rw [health_modHealth, if_pos rfl]
    show _ ≤ decay _ _ _ _ _ + 65536 * pts
    omega
  rw [if_neg (by simp [hp, hu])]
  split
  · rw [health_quarantine, if_pos rfl]
    exact h1
  · exact h1

/-! ## Bring-up -/

/-- Initial training of one channel (14 R370). -/
def trainOne (side : Nat) (bad : List Nat) (s : State) (n : Nat) : State :=
  if (chan s (chanUnit side n)).state == .inService then
    if bad.contains n then
      ledger (uDie side) (hwOrigin (uDie side)) 8 (chanUnit side n) 1 0 0 1 0 (setChanState (chanUnit side n) .softOut s)
    else s
  else if bad.contains n then s
  else setChanState (chanUnit side n) .returnable (modChan s (chanUnit side n) (fun x =>
    { x with wasLost := (chan s (chanUnit side n)).state == .lost || (chan s (chanUnit side n)).wasLost }))

/-- The end of a side's initial training over a list of channel numbers. -/
def sideTrained (l : List Nat) (side : Nat) (s : State) : State :=
  modSide s side (fun x => { x with
    out := l.filter (fun n => (chan s (chanUnit side n)).state != .inService)
    populated := (512 - (l.filter (fun n => (chan s (chanUnit side n)).state != .inService)).length) * chanBytes })

theorem trainSide_eq (side : Nat) (bad : List Nat) (s : State) (l : List Nat) (hl : List.range 512 = l) :
    trainSide side bad s = sideTrained l side (l.foldl (trainOne side bad) s) := by
  unfold trainSide
  rw [hl] <;> rfl

theorem chanUnit_injective (side : Nat) {a b : Nat} (h : chanUnit side a = chanUnit side b) : a = b := by
  unfold chanUnit uid at h
  omega

theorem chan_setChanState (ch x : Nat) (c : ChanState) (s : State) :
    chan (setChanState ch c s) x = if x = ch then { chan s ch with state := c } else chan s x := chan_modChan s ch x _

theorem trainOne_facts (side : Nat) (bad : List Nat) (s : State) (n : Nat) :
    let t := trainOne side bad s n
    t.gz.jobs = s.gz.jobs ∧ t.hw.health = s.hw.health ∧ (∀ m, m ≠ n → chan t (chanUnit side m) = chan s (chanUnit side m)) ∧
    ((chan s (chanUnit side n)).state = .inService →
      (chan t (chanUnit side n)).state = if bad.contains n then .softOut else .inService) := by
  intro t
  have ht : t = trainOne side bad s n := rfl
  have hne : ∀ m, m ≠ n → chanUnit side m ≠ chanUnit side n := fun m hm h => hm (chanUnit_injective side h)
  unfold trainOne at ht
  split at ht
  · next hin =>
    split at ht
    · next hbad =>
      have hmem : t.mem = (setChanState (chanUnit side n) .softOut s).mem := by rw [ht, ledger_mem]
      have hchan : chan t = chan (setChanState (chanUnit side n) .softOut s) := by
        funext x
        rw [chan, hmem]
        rfl
      have hwork := ledger_unitWork (uDie side) (hwOrigin (uDie side)) 8 (chanUnit side n) 1 0 0 1 0 (setChanState (chanUnit side n) .softOut s)
      obtain ⟨-, -, -, -, -, -, -, -, -, -, -, -, -, -, -, -, -, -, -, -, -, -, -, -, hhealth, -⟩ :=
        (ledgerEv_ledgerOnly (uDie side) (mkEv (hwOrigin (uDie side)) 8 (chanUnit side n) 1 0 0 1 0)
          (setChanState (chanUnit side n) .softOut s)).frame
      refine ⟨by rw [ht]; exact hwork.jobs, by rw [ht]; exact hhealth, fun m hm => ?_, fun _ => ?_⟩
      · rw [hchan, chan_setChanState, if_neg (hne m hm)]
      · rw [hchan, chan_setChanState, if_pos rfl, if_pos hbad]
    · next hbad =>
      rw [ht]
      exact ⟨rfl, rfl, fun _ _ => rfl, fun h => by rw [if_neg hbad]; exact h⟩
  · next hin =>
    refine ⟨?_, ?_, fun m hm => ?_, fun h => absurd h (by simpa using hin)⟩ <;> rw [ht] <;> split
    · rfl
    · rfl
    · rfl
    · rfl
    · rfl
    · rw [chan_setChanState, if_neg (hne m hm), chan_modChan, if_neg (hne m hm)]

theorem trainSide_facts (side : Nat) (bad : List Nat) (s : State) :
    let t := trainSide side bad s
    t.gz.jobs = s.gz.jobs ∧ (∀ x, health t x = health s x) ∧
    (∀ n < 512, (chan s (chanUnit side n)).state = .inService →
      (chan t (chanUnit side n)).state = if bad.contains n then .softOut else .inService) := by
  intro t
  obtain ⟨l, hl⟩ : ∃ l, List.range 512 = l := ⟨_, rfl⟩
  have ht : t = sideTrained l side (l.foldl (trainOne side bad) s) := trainSide_eq side bad s l hl
  rw [ht]
  refine ⟨?_, fun x => ?_, fun n hn hin => ?_⟩
  · exact foldl_view (fun s : State => s.gz.jobs) _ _ _ fun n _ s => (trainOne_facts side bad s n).1
  · exact foldl_view (fun s => health s x) _ _ _ fun n _ s => by rw [health, (trainOne_facts side bad s n).2.1]; rfl
  · show (chan (l.foldl (trainOne side bad) s) (chanUnit side n)).state = _
    obtain ⟨pre, post, hsplit⟩ := List.append_of_mem (hl ▸ List.mem_range.2 hn : n ∈ l)
    have hnodup : (pre ++ n :: post).Nodup := by rw [← hsplit, ← hl]; exact List.nodup_range
    have hother : ∀ l : List Nat, n ∉ l → ∀ s, chan (l.foldl (trainOne side bad) s) (chanUnit side n) = chan s (chanUnit side n) := by
      intro l hl s
      exact foldl_view (fun s => chan s (chanUnit side n)) _ _ _ fun m hm s =>
        (trainOne_facts side bad s m).2.2.1 n fun h => hl (h ▸ hm)
    obtain ⟨-, hpost, hdisj⟩ := List.nodup_append.1 hnodup
    rw [hsplit, List.foldl_append, List.foldl_cons, hother post (List.nodup_cons.1 hpost).1]
    have hpre : n ∉ pre := fun h => hdisj n h n List.mem_cons_self rfl
    have hstate := (trainOne_facts side bad (pre.foldl (trainOne side bad) s) n).2.2.2
    rw [hother pre hpre] at hstate
    exact hstate hin

theorem sideCheck_unitWork (side : Nat) (s : State) : UnitWork s (sideCheck side s) := by
  unfold sideCheck
  dsimp only
  split
  · exact setReady_unitWork ..
  · split
    · exact setReady_unitWork ..
    · exact .refl s

theorem health_sideCheck_keeps (side x : Nat) (s : State) :
    ∃ rr cc, health (sideCheck side s) x = { health s x with ready := rr, lastCause := cc } := by
  unfold sideCheck
  dsimp only
  split
  · exact health_setReady_keeps ..
  · split
    · exact health_setReady_keeps ..
    · exact ⟨_, _, rfl⟩

theorem bringupDone_eq (d : Nat) (s : State) : ∃ x, bringupDone d s = { s with hw := { s.hw with dies := x } } := by
  unfold bringupDone
  split
  · exact ⟨_, rfl⟩
  · exact ⟨_, rfl⟩

/-- Whether a unit's bring-up step is due (14 R370). -/
def stepDue (u : Nat) (s : State) : Prop :=
  kernelRuns s = true ∧ (dieOf s (uDie u)).state = 1 ∧ (dieUnits (uDie u)).contains u = true ∧ (health s u).brought = false

/-- A unit takes its bring-up step: its side trains, and it is ready or failed (14 R370, R373). -/
def stepTaken (u : Nat) (ok : Bool) (code : Nat) (bad : List Nat) (s : State) : State :=
  let s := modHealth s u (fun h => { h with brought := true })
  let s := if uKind u = 0xA then trainSide u bad s else s
  if ok then setReady u true 1 s
  else ledger (uDie u) (kernelOrigin (uDie u)) 6 u 3 0 0 0 code
    (modHealth s u (fun h => { h with failed := true, lastCause := 1, lastTest := code }))

theorem exec_bringupStep_due (unit : Word32) (ok : Bool) (code : Word16) (bad : List Nat) (s : State) (h : stepDue unit.toNat s) :
    exec (.bringupStep unit ok code bad) s = .next (settle (bringupDone (uDie unit.toNat)
      (if uKind unit.toNat = 0xA then sideCheck unit.toNat (stepTaken unit.toNat ok code.toNat bad s)
        else stepTaken unit.toNat ok code.toNat bad s))) := by
  obtain ⟨hk, hst, hun, hbr⟩ := h
  show execBringupStep unit ok code bad s = _
  unfold execBringupStep
  dsimp only
  rw [if_neg (by simp only [hk, hst, hun, hbr]; decide)]
  rfl

theorem exec_bringupStep_not (unit : Word32) (ok : Bool) (code : Word16) (bad : List Nat) (s : State) (hi : Idle s)
    (h : ¬stepDue unit.toNat s) : exec (.bringupStep unit ok code bad) s = .next (passed s) := by
  show execBringupStep unit ok code bad s = _
  unfold execBringupStep
  dsimp only
  rw [if_pos ?_, settle_idle s hi]
  rw [← Bool.not_eq_false]
  intro hcond
  simp only [Bool.or_eq_false_iff, Bool.not_eq_false', bne_eq_false_iff_eq] at hcond
  obtain ⟨⟨⟨hk, hst⟩, hun⟩, hbr⟩ := hcond
  exact h ⟨hk, hst, hun, hbr⟩

theorem stepTaken_facts (u : Nat) (ok : Bool) (code : Nat) (bad : List Nat) (s : State) :
    let t := stepTaken u ok code bad s
    t.gz.jobs = s.gz.jobs ∧ (health t u).brought = true ∧ (ok = true → (health t u).ready = true) ∧
    (ok = false → (health t u).failed = true ∧ (health t u).lastTest = code) ∧
    (∀ n, uKind u = 0xA → n < 512 → (chan s (chanUnit u n)).state = .inService →
      (chan t (chanUnit u n)).state = if bad.contains n then .softOut else .inService) := by
  intro t
  set x := modHealth s u (fun h => { h with brought := true }) with hx
  set y := if uKind u = 0xA then trainSide u bad x else x with hy
  have ht : t = if ok then setReady u true 1 y
      else ledger (uDie u) (kernelOrigin (uDie u)) 6 u 3 0 0 0 code
        (modHealth y u (fun h => { h with failed := true, lastCause := 1, lastTest := code })) := rfl
  have hyf : y.gz.jobs = s.gz.jobs ∧ health y u = health x u ∧ (∀ n, uKind u = 0xA → n < 512 →
      (chan s (chanUnit u n)).state = .inService → (chan y (chanUnit u n)).state = if bad.contains n then .softOut else .inService) := by
    rw [hy]
    split
    · obtain ⟨h1, h2, h3⟩ := trainSide_facts u bad x
      exact ⟨h1, h2 u, fun n _ => h3 n⟩
    · next hk => exact ⟨rfl, rfl, fun n h => absurd h hk⟩
  obtain ⟨hjobs, hhealth, hchan⟩ := hyf
  have hbr : (health y u).brought = true := by rw [hhealth, health_modHealth, if_pos rfl]
  cases ok with
  | true =>
    rw [if_pos rfl] at ht
    have hw := setReady_unitWork u true 1 y
    rw [← ht] at hw
    refine ⟨hw.jobs.trans hjobs, ?_, fun _ => by rw [ht]; exact ready_setReady .., by simp, ?_⟩
    · obtain ⟨_, _, h⟩ := health_setReady_keeps u u true 1 y
      rw [ht, h]
      exact hbr
    · unfold chan at hchan ⊢
      rw [hw.mem]
      exact hchan
  | false =>
    rw [if_neg (by decide)] at ht
    have hw := (modHealth_unitWork y u (fun h => { h with failed := true, lastCause := 1, lastTest := code })).trans
      (ledger_unitWork (uDie u) (kernelOrigin (uDie u)) 6 u 3 0 0 0 code _)
    rw [← ht] at hw
    have hh : health t u = { health y u with failed := true, lastCause := 1, lastTest := code } := by
      rw [ht, health_ledger, health_modHealth, if_pos rfl]
    refine ⟨hw.jobs.trans hjobs, by rw [hh]; exact hbr, by simp, fun _ => by rw [hh]; exact ⟨rfl, rfl⟩, ?_⟩
    unfold chan at hchan ⊢
    rw [hw.mem]
    exact hchan

/-! ## Taps, rails and retirement -/

/-- The state with another tap of a region. -/
def tapped (u v : Nat) (s : State) : State := { s with flash := { s.flash with taps := amPut s.flash.taps u v } }

/-- The state with another rail of a die. -/
def railed (d v : Nat) (s : State) : State := { s with flash := { s.flash with rails := amPut s.flash.rails d v } }

theorem tapOf_tapped (u v x : Nat) (s : State) : tapOf (tapped u v s) x = if x = u then v else tapOf s x := by
  unfold Machine.tapOf tapped
  dsimp only
  rw [amGet_amPut]

theorem railOf_railed (d v x : Nat) (s : State) : railOf (railed d v s) x = if x = d then v else railOf s x := by
  unfold Machine.railOf railed
  dsimp only
  rw [amGet_amPut]

theorem setTap_work (o u v : Nat) (s : State) :
    UnitWork (tapped u v s) (setTap o u v s) ∧ ∀ x, health (setTap o u v s) x = health s x :=
  ⟨(actOn_unitWork _ _ (tapped u v s)).trans (ledger_unitWork ..), fun _ => health_ledger ..⟩

theorem setRail_work (o d v : Nat) (s : State) :
    UnitWork (railed d v s) (setRail o d v s) ∧ ∀ x, health (setRail o d v s) x = health s x :=
  ⟨ledger_unitWork .., fun _ => health_ledger ..⟩

/-- A region that is retired is not ready, and nothing of another unit's health changes (14 R380). -/
theorem retire_region (o u : Nat) (s : State) (hu : uKind u ≠ 0) :
    UnitWork s (retire o u s) ∧ (health (retire o u s) u).retired = true ∧ (health (retire o u s) u).ready = false ∧
    (health (retire o u s) u).minSlack = (health s u).minSlack ∧ ∀ x, x ≠ u → health (retire o u s) x = health s x := by
  unfold retire
  dsimp only
  rw [if_neg hu]
  set y := ledger (uDie u) o 7 u 2 0 0 1 0 (marginAct u (modHealth s u (fun h => { h with retired := true, probation := false })))
  have hy : ∀ x, health y x = if x = u then { health s u with retired := true, probation := false } else health s x := by
    intro x
    refine (health_ledger ..).trans ?_
    exact health_modHealth s u x _
  have hw : UnitWork s y := (modHealth_unitWork ..).trans ((actOn_unitWork ..).trans (ledger_unitWork ..))
  obtain ⟨rr, cc, hset⟩ := health_setReady_keeps u u false 4 y
  rw [hy, if_pos rfl] at hset
  refine ⟨hw.trans (setReady_unitWork ..), ?_, ready_setReady .., ?_, fun x hx => ?_⟩
  · rw [hset]
  · rw [hset]
  · rw [health_setReady, if_neg (fun h => hx h.1), hy, if_neg hx]

/-! ## Gauges -/

theorem isRegion_kind (u : Nat) (h : isRegion u = true) : uKind u ≠ 0 := by
  simp only [isRegion, Bool.and_eq_true, List.contains_iff_mem, List.mem_cons, List.not_mem_nil, or_false] at h
  omega

/-- A gauge trip raises the region's tap, or retires it at the highest one (14 R378). -/
theorem gaugeTrip_facts (u : Nat) (s : State) (hu : uKind u ≠ 0) :
    let t := gaugeTrip u s
    t.gz.jobs = s.gz.jobs ∧ t.mem = s.mem ∧ (∀ x, x ≠ u → health t x = health s x ∧ tapOf t x = tapOf s x) ∧
    (health t u).minSlack = (health s u).minSlack ∧
    (tapOf s u < 7 → tapOf t u = tapOf s u + 1 ∧ (health t u).retired = (health s u).retired) ∧
    (7 ≤ tapOf s u → tapOf t u = tapOf s u ∧ (health t u).retired = true ∧ (health t u).ready = false) := by
  intro t
  set y := count s (uid 0 (uDie u) 0) 0x48 1 with hy
  have ht : t = if tapOf y u < 7 then setTap (kernelOrigin (uDie u)) u (tapOf y u + 1) y else retire (kernelOrigin (uDie u)) u y := rfl
  by_cases htap : tapOf s u < 7
  · rw [if_pos (by exact htap)] at ht
    obtain ⟨hw, hh⟩ := setTap_work (kernelOrigin (uDie u)) u (tapOf y u + 1) y
    rw [← ht] at hw hh
    refine ⟨hw.jobs, hw.mem, fun x hx => ⟨hh x, ?_⟩, by rw [hh]; rfl, fun _ => ⟨?_, by rw [hh]; rfl⟩, fun h => absurd htap (by omega)⟩
    · rw [hw.tapOf, tapOf_tapped, if_neg hx]
      rfl
    · rw [hw.tapOf, tapOf_tapped, if_pos rfl]
      rfl
  · rw [if_neg (by exact htap)] at ht
    obtain ⟨hw, hret, hready, hslack, hother⟩ := retire_region (kernelOrigin (uDie u)) u y hu
    rw [← ht] at hw hret hready hslack hother
    exact ⟨hw.jobs, hw.mem, fun x hx => ⟨hother x hx, hw.tapOf x⟩, hslack, fun h => absurd h htap, fun _ => ⟨hw.tapOf u, hret, hready⟩⟩

/-- What a reading of a region leaves (14 R376, R378). -/
def Gauged (s t : State) (u : Nat) (v : Int) : Prop :=
  (health t u).minSlack = lowerSlack v (health s u).minSlack ∧
  (0 ≤ v → tapOf t u = tapOf s u ∧ (health t u).retired = false) ∧
  (v < 0 → tapOf s u < 7 → tapOf t u = tapOf s u + 1 ∧ (health t u).retired = false) ∧
  (v < 0 → 7 ≤ tapOf s u → tapOf t u = tapOf s u ∧ (health t u).retired = true ∧ (health t u).ready = false)

theorem gaugeOne_facts (d : Nat) (s : State) (r : Word32 × Int) :
    let t := gaugeOne d s r
    t.gz.jobs = s.gz.jobs ∧ t.mem = s.mem ∧ (∀ x, x ≠ r.1.toNat → health t x = health s x ∧ tapOf t x = tapOf s x) ∧
    (uDie r.1.toNat = d → d < 16 → isRegion r.1.toNat = true → (health s r.1.toNat).retired = false → Gauged s t r.1.toNat r.2) := by
  intro t
  have ht : t = gaugeOne d s r := rfl
  unfold gaugeOne at ht
  dsimp only at ht
  split at ht
  · next hd =>
    rw [ht]
    exact ⟨rfl, rfl, fun _ _ => ⟨rfl, rfl⟩, fun h => absurd h (by simpa using hd)⟩
  split at ht
  · next hblock =>
    rw [ht]
    refine ⟨rfl, rfl, fun _ _ => ⟨rfl, rfl⟩, fun _ hd hreg => ?_⟩
    have hkind := isRegion_kind _ hreg
    rw [hblock] at hkind
    exact absurd (uKind_block d hd) hkind
  split at ht
  · next hout =>
    rw [ht]
    refine ⟨rfl, rfl, fun _ _ => ⟨rfl, rfl⟩, fun _ _ hreg hret => ?_⟩
    simp [hreg, hret] at hout
  · next hout =>
    simp only [Bool.or_eq_true, Bool.not_eq_true', not_or, Bool.not_eq_false, Bool.not_eq_true] at hout
    obtain ⟨hreg, hret⟩ := hout
    set u := r.1.toNat
    set y := modHealth s u (fun h => { h with minSlack := lowerSlack r.2 h.minSlack })
    have hy : ∀ x, health y x = if x = u then { health s u with minSlack := lowerSlack r.2 (health s u).minSlack } else health s x :=
      fun x => health_modHealth s u x _
    have hself := hy u
    rw [if_pos rfl] at hself
    by_cases hneg : r.2 < 0
    · rw [if_pos hneg] at ht
      obtain ⟨hjobs, hmem, hother, hslack, hlow, hhigh⟩ := gaugeTrip_facts u y (isRegion_kind u hreg)
      rw [← ht] at hjobs hmem hother hslack hlow hhigh
      refine ⟨hjobs, hmem, fun x hx => ⟨?_, (hother x hx).2⟩, fun _ _ _ _ => ⟨?_, fun h => absurd hneg (by omega), fun _ h => ?_, fun _ h => hhigh h⟩⟩
      · rw [(hother x hx).1, hy, if_neg hx]
      · rw [hslack, hself]
      · obtain ⟨htap, hr⟩ := hlow h
        exact ⟨htap, by rw [hr, hself]; exact hret⟩
    · rw [if_neg hneg] at ht
      rw [ht]
      refine ⟨rfl, rfl, fun x hx => ⟨?_, rfl⟩, fun _ _ _ _ => ⟨?_, fun _ => ⟨rfl, ?_⟩, fun h => absurd h hneg, fun h => absurd h hneg⟩⟩
      · rw [hy, if_neg hx]
      · rw [hself]
      · rw [hself]
        exact hret

/-- A reading whose unit is named once is what the unit's gauge leaves. -/
theorem gauges_facts (slack : List (Word32 × Int)) (s : State) (r : Word32 × Int) (hd : uDie r.1.toNat < 16)
    (hone : slack.filter (fun q => q.1 = r.1) = [r]) (hreg : isRegion r.1.toNat = true) (hret : (health s r.1.toNat).retired = false) :
    Gauged s (slack.foldl (gaugeOne (uDie r.1.toNat)) s) r.1.toNat r.2 := by
  obtain ⟨pre, post, hl, hpre, hpost⟩ := split_of_filter_one hone
  have hother : ∀ l : List (Word32 × Int), (∀ q ∈ l, decide (q.1 = r.1) = false) → ∀ s,
      health (l.foldl (gaugeOne (uDie r.1.toNat)) s) r.1.toNat = health s r.1.toNat ∧
      tapOf (l.foldl (gaugeOne (uDie r.1.toNat)) s) r.1.toNat = tapOf s r.1.toNat := by
    intro l hlne s
    have hne : ∀ q ∈ l, r.1.toNat ≠ q.1.toNat := fun q hq h => by
      have := hlne q hq
      rw [decide_eq_false_iff_not] at this
      exact this (BitVec.eq_of_toNat_eq h.symm)
    exact ⟨foldl_view (fun s => health s r.1.toNat) _ _ _ fun q hq s => ((gaugeOne_facts _ s q).2.2.1 _ (hne q hq)).1,
      foldl_view (fun s => tapOf s r.1.toNat) _ _ _ fun q hq s => ((gaugeOne_facts _ s q).2.2.1 _ (hne q hq)).2⟩
  rw [hl, List.foldl_append, List.foldl_cons]
  obtain ⟨hh1, ht1⟩ := hother pre hpre s
  set x := pre.foldl (gaugeOne (uDie r.1.toNat)) s
  obtain ⟨hh2, ht2⟩ := hother post hpost (gaugeOne (uDie r.1.toNat) x r)
  have hg := (gaugeOne_facts (uDie r.1.toNat) x r).2.2.2 rfl hd hreg (by rw [hh1]; exact hret)
  unfold Gauged at hg ⊢
  rw [hh2, ht2]
  rw [hh1, ht1] at hg
  exact hg

/-! ## Margin plans -/

/-- Work of a plan: as work on health, but for taps and counts. -/
structure PlanWork (s t : State) : Prop where
  jobs : t.gz.jobs = s.gz.jobs
  mem : t.mem = s.mem
  rails : t.flash.rails = s.flash.rails
  dies : ∀ x, ∃ g, dieOf t x = { dieOf s x with generation := g }

theorem PlanWork.refl (s : State) : PlanWork s s := ⟨rfl, rfl, rfl, fun _ => ⟨_, rfl⟩⟩

theorem PlanWork.trans {s t u : State} (h : PlanWork s t) (k : PlanWork t u) : PlanWork s u := by
  refine ⟨k.jobs.trans h.jobs, k.mem.trans h.mem, k.rails.trans h.rails, fun x => ?_⟩
  obtain ⟨g, hg⟩ := k.dies x
  obtain ⟨g', hg'⟩ := h.dies x
  exact ⟨g, by rw [hg, hg']⟩

theorem setTap_planWork (o u v : Nat) (s : State) : PlanWork s (setTap o u v s) := by
  obtain ⟨hw, -⟩ := setTap_work o u v s
  exact ⟨hw.jobs, hw.mem, hw.rails, hw.dies⟩

/-- Whether a region's tap can rise (14 R379). -/
def planSteps (fp : List Nat) (s : State) (u : Nat) : Bool := tapOf s u < 7 && fp.contains u

/-- The planner's tap steps raise the tap of each region that can and leave the others (14 R379). -/
theorem planTaps_facts (fp l : List Nat) (s : State) (hl : l.Nodup) :
    PlanWork s (planTaps fp l s).1 ∧ (planTaps fp l s).2 = l.filter (fun u => !planSteps fp s u) ∧
    (∀ x, health (planTaps fp l s).1 x = health s x) ∧
    ∀ x, tapOf (planTaps fp l s).1 x = if l.contains x && planSteps fp s x then tapOf s x + 1 else tapOf s x := by
  induction l generalizing s with
  | nil => exact ⟨.refl s, rfl, fun _ => rfl, fun _ => rfl⟩
  | cons g gs ih =>
    obtain ⟨hg, hgs⟩ := List.nodup_cons.1 hl
    have hcons : planTaps fp (g :: gs) s = if planSteps fp s g then planTaps fp gs (setTap plannerOrigin g (tapOf s g + 1) s)
        else ((planTaps fp gs s).1, g :: (planTaps fp gs s).2) := rfl
    rw [hcons]
    cases hstep : planSteps fp s g with
    | true =>
      rw [if_pos rfl]
      obtain ⟨hw, hh⟩ := setTap_work plannerOrigin g (tapOf s g + 1) s
      obtain ⟨hplan, hleft, hhealth, htaps⟩ := ih (setTap plannerOrigin g (tapOf s g + 1) s) hgs
      have htap : ∀ x, tapOf (setTap plannerOrigin g (tapOf s g + 1) s) x = if x = g then tapOf s g + 1 else tapOf s x :=
        fun x => (hw.tapOf x).trans (tapOf_tapped ..)
      have hsteps : ∀ x, x ≠ g → planSteps fp (setTap plannerOrigin g (tapOf s g + 1) s) x = planSteps fp s x := fun x hx => by
        rw [planSteps, htap, if_neg hx]
        rfl
      refine ⟨(setTap_planWork ..).trans hplan, ?_, fun x => (hhealth x).trans (hh x), fun x => ?_⟩
      · rw [hleft, List.filter_cons_of_neg (by simp [hstep])]
        exact List.filter_congr fun x hx => by rw [hsteps x fun h => hg (h ▸ hx)]
      · rw [htaps]
        by_cases hx : x = g
        · subst hx
          have hnot : gs.contains x = false := by simpa using hg
          rw [hnot, htap, if_pos rfl]
          simp [hstep]
        · rw [hsteps x hx, htap, if_neg hx, List.contains_cons]
          simp [hx]
    | false =>
      rw [if_neg (by decide)]
      obtain ⟨hplan, hleft, hhealth, htaps⟩ := ih s hgs
      refine ⟨hplan, ?_, hhealth, fun x => ?_⟩
      · rw [List.filter_cons_of_pos (by simp [hstep]), hleft]
      · dsimp only
        rw [htaps]
        by_cases hx : x = g
        · subst hx
          simp [hstep]
        · rw [List.contains_cons]
          simp [hx]

theorem retireAll_facts (l : List Nat) (s : State) (hl : ∀ u ∈ l, uKind u ≠ 0) :
    UnitWork s (l.foldl (fun s u => retire plannerOrigin u s) s) ∧
    ∀ u, (u ∈ l ∨ (health s u).retired = true) → (health (l.foldl (fun s u => retire plannerOrigin u s) s) u).retired = true := by
  induction l generalizing s with
  | nil => exact ⟨.refl s, fun u h => by simpa using h⟩
  | cons x l ih =>
    obtain ⟨hw, hret, -, -, hother⟩ := retire_region plannerOrigin x s (hl x List.mem_cons_self)
    obtain ⟨hws, hrets⟩ := ih (retire plannerOrigin x s) fun u hu => hl u (List.mem_cons_of_mem _ hu)
    refine ⟨hw.trans hws, fun u hu => hrets u ?_⟩
    by_cases hx : u = x
    · exact .inr (hx ▸ hret)
    · rw [hother u hx]
      simpa [hx] using hu

theorem uDie_block (d : Nat) (hd : d < 16) : uDie (uid 0 d 0) = d := by
  unfold uDie bits uid
  omega

/-- A die that is retired (14 R380). -/
def dieRetiredState (d : Nat) (s : State) : State := modDie s d (fun x => { x with dieRetired := true, state := 4 })

theorem retire_die (o d : Nat) (s : State) (hd : d < 16) :
    UnitWork (dieRetiredState d s) (retire o (uid 0 d 0) s) ∧
    ∀ x, (health (retire o (uid 0 d 0) s) x).retired = (health s x).retired := by
  unfold retire
  rw [uDie_block d hd, if_pos (uKind_block d hd)]
  refine ⟨(ledger_unitWork ..).trans (.foldl _ (fun s v => setReady_unitWork v false 4 s) _ _), fun x => ?_⟩
  refine (foldl_view (fun s => (health s x).retired) _ _ _ fun v _ s => ?_).trans ?_
  · obtain ⟨_, _, h⟩ := health_setReady_keeps v x false 4 s
    rw [h]
  · exact congrArg Health.retired (health_ledger ..)

/-- The regions that a plan finds short, those it leaves short, and whether the die-level logic is short (14 R379). -/
def planShort (d : Nat) (s : State) : List Nat :=
  (regions d).filter (fun u => !(health s u).retired && slackBelow (guardPs s d) (health s u).minSlack)

@[inherit_doc planShort] def planLeft (d : Nat) (fp : List Nat) (s : State) : List Nat :=
  (planShort d s).filter (fun u => !planSteps fp s u)

@[inherit_doc planShort] def planDieShort (d : Nat) (s : State) : Bool :=
  !(dieOf s d).dieRetired && slackBelow (guardPs s d) (dieOf s d).dieSlack

/-- What a plan makes of the rail of a die (14 R379). -/
def planRail (d : Nat) (fp : List Nat) (s : State) : Nat :=
  if planLeft d fp s ≠ [] ∨ planDieShort d s = true then (if railOf s d < 800 then railOf s d + 5 else railOf s d)
  else if planShort d s = [] ∧ 6 ≤ (dieOf s d).calmPlans ∧ 680 < railOf s d then railOf s d - 5 else railOf s d

/-- What a plan leaves, and whatever reads alike. -/
structure Planned (d : Nat) (fp : List Nat) (s t : State) : Prop where
  jobs : t.gz.jobs = s.gz.jobs
  mem : t.mem = s.mem
  die : (dieOf t d).calmPlans = (dieOf s d).calmPlans ∧ (dieOf t d).lifeDays = (dieOf s d).lifeDays
  taps : ∀ u, tapOf t u = if (planShort d s).contains u && planSteps fp s u then tapOf s u + 1 else tapOf s u
  rail : railOf t d = planRail d fp s
  retired : 800 ≤ railOf s d → ∀ u ∈ planLeft d fp s, (health t u).retired = true
  dieRetired : 800 ≤ railOf s d → planDieShort d s = true → (dieOf t d).dieRetired = true

theorem uKind_unitsOf {k d n u : Nat} (hk : k < 16) (hd : d < 16) (hn : n ≤ 256) (h : u ∈ unitsOf k d n) : uKind u = k := by
  obtain ⟨i, hi, rfl⟩ := List.mem_map.1 h
  have := List.mem_range.1 hi
  unfold uKind bits uid
  omega

theorem uKind_uid_zero (k d : Nat) (hk : k < 16) (hd : d < 16) : uKind (uid k d 0) = k := by
  unfold uKind bits uid
  omega

theorem regions_kind (d : Nat) (hd : d < 16) : ∀ u ∈ regions d, uKind u ≠ 0 := by
  intro u hu
  simp only [regions, List.mem_append, List.mem_cons, List.not_mem_nil, or_false] at hu
  obtain ((h | h) | h) | h | h := hu
  · rw [uKind_unitsOf (by decide) hd (by decide) h]
    decide
  · rw [uKind_unitsOf (by decide) hd (by decide) h]
    decide
  · rw [uKind_unitsOf (by decide) hd (by decide) h]
    decide
  · rw [h, uKind_uid_zero 7 d (by decide) hd]
    decide
  · rw [h, uKind_uid_zero 8 d (by decide) hd]
    decide

/-- Lists of units of different kinds have no unit in common. -/
theorem nodup_append_of_kinds {l m : List Nat} (hl : l.Nodup) (hm : m.Nodup) (h : ∀ a ∈ l, ∀ b ∈ m, uKind a ≠ uKind b) : (l ++ m).Nodup :=
  List.nodup_append.2 ⟨hl, hm, fun a ha b hb hab => h a ha b hb (hab ▸ rfl)⟩

theorem regions_nodup (d : Nat) (hd : d < 16) : (regions d).Nodup := by
  have hunits : ∀ k n, (unitsOf k d n).Nodup := fun k n =>
    List.Nodup.map (fun a b h => by unfold uid at h; omega) List.nodup_range
  have hkind : ∀ {k n u}, k < 16 → n ≤ 256 → u ∈ unitsOf k d n → uKind u = k := fun hk hn h => uKind_unitsOf hk hd hn h
  have h7 : uKind (uid 7 d 0) = 7 := uKind_uid_zero 7 d (by decide) hd
  have h8 : uKind (uid 8 d 0) = 8 := uKind_uid_zero 8 d (by decide) hd
  unfold regions
  refine nodup_append_of_kinds (nodup_append_of_kinds (nodup_append_of_kinds (hunits ..) (hunits ..) ?_) (hunits ..) ?_) ?_ ?_
  · intro a ha b hb
    rw [hkind (by decide) (by decide) ha, hkind (by decide) (by decide) hb]
    decide
  · intro a ha b hb
    rw [hkind (k := 9) (by decide) (by decide) hb]
    obtain ha | ha := List.mem_append.1 ha <;> rw [hkind (by decide) (by decide) ha] <;> decide
  · refine List.nodup_cons.2 ⟨fun h => ?_, List.nodup_singleton _⟩
    rw [List.mem_singleton] at h
    rw [h, h8] at h7
    exact absurd h7 (by decide)
  · intro a ha b hb
    have hb' : uKind b = 7 ∨ uKind b = 8 := by
      obtain rfl | hb := List.mem_cons.1 hb
      · exact .inl h7
      · rw [List.mem_singleton.1 hb]
        exact .inr h8
    have ha' : uKind a = 2 ∨ uKind a = 3 ∨ uKind a = 9 := by
      obtain ha | ha := List.mem_append.1 ha
      · obtain ha | ha := List.mem_append.1 ha
        · exact .inl (hkind (by decide) (by decide) ha)
        · exact .inr (.inl (hkind (by decide) (by decide) ha))
      · exact .inr (.inr (hkind (by decide) (by decide) ha))
    omega

theorem planActions_eq (d : Nat) (fp : List Nat) (s : State) :
    planActions d fp s =
      let x := (planTaps fp (planShort d s) s).1
      let left := (planTaps fp (planShort d s) s).2
      if !left.isEmpty || planDieShort d s then
        if railOf x d < 800 then setRail plannerOrigin d (railOf x d + 5) x
        else if planDieShort d s then retire plannerOrigin (uid 0 d 0) (left.foldl (fun s u => retire plannerOrigin u s) x)
        else left.foldl (fun s u => retire plannerOrigin u s) x
      else if (planShort d s).isEmpty && 6 ≤ (dieOf x d).calmPlans && 680 < railOf x d then
        setRail plannerOrigin d (railOf x d - 5) x
      else x := by
  unfold planActions
  dsimp only
  rw [List.filter_filter]
  have hshort : (regions d).filter (fun a => slackBelow (guardPs s d) (health s a).minSlack && !(health s a).retired) = planShort d s :=
    List.filter_congr fun x _ => Bool.and_comm ..
  rw [hshort]
  rfl

/-- The actions of a plan (14 R379, R380). -/
theorem planActions_planned (d : Nat) (hd : d < 16) (fp : List Nat) (s : State) : Planned d fp s (planActions d fp s) := by
  have hsub : ∀ u ∈ planShort d s, u ∈ regions d := fun u hu => (List.mem_filter.1 hu).1
  obtain ⟨hplan, hleft, hhealth, htaps⟩ := planTaps_facts fp (planShort d s) s ((regions_nodup d hd).filter _)
  have heq := planActions_eq d fp s
  dsimp only at heq
  have hleft' : (planTaps fp (planShort d s) s).2 = planLeft d fp s := hleft
  rw [hleft'] at heq
  set x := (planTaps fp (planShort d s) s).1
  have hrail : railOf x d = railOf s d := by
    unfold Machine.railOf
    rw [hplan.rails]
  obtain ⟨g, hg⟩ := hplan.dies d
  have hcalm : (dieOf x d).calmPlans = (dieOf s d).calmPlans := by rw [hg]
  rw [hrail, hcalm] at heq
  have hkinds : ∀ u ∈ planLeft d fp s, uKind u ≠ 0 := fun u hu => regions_kind d hd u (hsub u (List.mem_filter.1 hu).1)
  have hwork : ∀ t, UnitWork x t → (800 ≤ railOf s d → ∀ u ∈ planLeft d fp s, (health t u).retired = true) →
      (800 ≤ railOf s d → planDieShort d s = true → (dieOf t d).dieRetired = true) → planRail d fp s = railOf s d →
      Planned d fp s t := by
    intro t hw hret hdie hr
    obtain ⟨g', hg'⟩ := hw.dies d
    refine ⟨hw.jobs.trans hplan.jobs, hw.mem.trans hplan.mem, by rw [hg', hg]; exact ⟨rfl, rfl⟩, fun u => ?_, ?_, hret, hdie⟩
    · rw [hw.tapOf, htaps]
    · rw [hw.railOf, hrail, hr]
  have hraised : ∀ v, planRail d fp s = v → railOf s d < 800 ∨ (planLeft d fp s = [] ∧ planDieShort d s = false) →
      Planned d fp s (setRail plannerOrigin d v x) := by
    intro v hv hlow
    obtain ⟨hw, -⟩ := setRail_work plannerOrigin d v x
    obtain ⟨g', hg'⟩ := hw.dies d
    refine ⟨hw.jobs.trans hplan.jobs, hw.mem.trans hplan.mem, ?_, fun u => ?_, ?_, fun h u hu => ?_, fun h hs => ?_⟩
    · rw [hg']
      show (dieOf x d).calmPlans = _ ∧ (dieOf x d).lifeDays = _
      rw [hg]
      exact ⟨rfl, rfl⟩
    · exact (hw.tapOf u).trans (htaps u)
    · rw [hw.railOf, railOf_railed, if_pos rfl, hv]
    · obtain hlow | ⟨hnil, -⟩ := hlow
      · omega
      · rw [hnil] at hu
        exact absurd hu List.not_mem_nil
    · obtain hlow | ⟨-, hno⟩ := hlow
      · omega
      · rw [hno] at hs
        exact absurd hs (by decide)
  unfold planRail at hwork hraised
  by_cases hact : planLeft d fp s ≠ [] ∨ planDieShort d s = true
  · rw [if_pos hact] at hwork hraised
    rw [if_pos (by simpa using hact)] at heq
    by_cases hlow : railOf s d < 800
    · rw [if_pos hlow] at hraised
      rw [if_pos hlow] at heq
      rw [heq]
      exact hraised _ rfl (.inl hlow)
    · rw [if_neg hlow] at hwork heq
      rw [heq]
      obtain ⟨hall, hret⟩ := retireAll_facts (planLeft d fp s) x hkinds
      split
      · next hdie =>
        obtain ⟨hw, hkeep⟩ := retire_die plannerOrigin d ((planLeft d fp s).foldl (fun s u => retire plannerOrigin u s) x) hd
        have hdst := dieOf_modDie ((planLeft d fp s).foldl (fun s u => retire plannerOrigin u s) x) d d (fun x => { x with dieRetired := true, state := 4 })
        rw [if_pos rfl] at hdst
        obtain ⟨g1, hg1⟩ := hall.dies d
        obtain ⟨g2, hg2⟩ := hw.dies d
        rw [show dieOf (dieRetiredState d _) d = _ from hdst] at hg2
        refine ⟨hw.jobs.trans (hall.jobs.trans hplan.jobs), hw.mem.trans (hall.mem.trans hplan.mem), ?_, fun u => ?_, ?_,
          fun _ u hu => ?_, fun _ _ => ?_⟩
        · rw [hg2, hg1, hg]
          exact ⟨rfl, rfl⟩
        · exact (hw.tapOf u).trans ((hall.tapOf u).trans (htaps u))
        · rw [planRail, if_pos hact, if_neg hlow]
          exact (hw.railOf d).trans ((hall.railOf d).trans hrail)
        · rw [hkeep]
          exact hret u (.inl hu)
        · rw [hg2]
      · next hdie =>
        exact hwork _ hall (fun _ u hu => hret u (.inl hu)) (fun _ h => absurd h hdie) rfl
  · rw [if_neg hact] at hwork hraised
    rw [if_neg (by simpa using hact)] at heq
    rw [not_or, not_not, Bool.not_eq_true] at hact
    obtain ⟨hnil, hno⟩ := hact
    by_cases hcalmer : planShort d s = [] ∧ 6 ≤ (dieOf s d).calmPlans ∧ 680 < railOf s d
    · rw [if_pos hcalmer] at hraised
      rw [if_pos (by simpa [and_assoc] using hcalmer)] at heq
      rw [heq]
      exact hraised _ rfl (.inr ⟨hnil, hno⟩)
    · rw [if_neg hcalmer] at hwork
      rw [if_neg (by simpa [and_assoc] using hcalmer)] at heq
      rw [heq]
      exact hwork _ (.refl x) (fun _ u hu => by rw [hnil] at hu; exact absurd hu List.not_mem_nil)
        (fun _ h => by rw [hno] at h; exact absurd h (by decide)) rfl

/-- The slacks of a plan's regions are read anew (14 R379). -/
def slacksCleared (l : List Nat) (d : Nat) (s : State) : State :=
  modDie (l.foldl (fun s u => modHealth s u (fun h => { h with minSlack := none })) s) d (fun x => { x with dieSlack := none })

theorem slacksCleared_facts (l : List Nat) (d : Nat) (s : State) :
    let t := slacksCleared l d s
    t.gz.jobs = s.gz.jobs ∧ t.mem = s.mem ∧ t.flash.taps = s.flash.taps ∧ t.flash.rails = s.flash.rails ∧
    (∃ g, dieOf t d = { dieOf s d with generation := g, dieSlack := none }) ∧
    ∀ x, health t x = if x ∈ l then { health s x with minSlack := none } else health s x := by
  intro t
  have hw : UnitWork s (l.foldl (fun s u => modHealth s u (fun h => { h with minSlack := none })) s) :=
    .foldl _ (fun s u => modHealth_unitWork s u _) l s
  obtain ⟨g, hg⟩ := hw.dies d
  refine ⟨hw.jobs, hw.mem, hw.taps, hw.rails, ⟨g, ?_⟩, fun x => ?_⟩
  · refine (dieOf_modDie _ d d (fun x => { x with dieSlack := none })).trans ((if_pos rfl).trans ?_)
    rw [hg]
  · show health (l.foldl _ s) x = _
    clear hw hg
    induction l generalizing s with
    | nil => rfl
    | cons u l ih =>
      rw [List.foldl_cons, ih, health_modHealth]
      by_cases hx : x = u
      · subst hx
        by_cases hm : x ∈ l
        · simp [hm]
        · simp [hm]
      · simp [hx]

/-- The state of which a plan is made: the plan is counted, with its calm plans in a row and the projected life (14 R379, R385). -/
def planCounted (d life : Nat) (s : State) : State :=
  count (modDie s d (fun x => { x with calmPlans := if calm s d then (dieOf s d).calmPlans + 1 else 0, lifeDays := life })) (uid 0 d 0) 0x14 1

/-- A plan reads the same regions, taps and rails as before it is counted. -/
theorem planCounted_reads (d life : Nat) (fp : List Nat) (s : State) :
    dieOf (planCounted d life s) d =
      { dieOf s d with calmPlans := if calm s d then (dieOf s d).calmPlans + 1 else 0, lifeDays := life } ∧
    railOf (planCounted d life s) d = railOf s d ∧ planShort d (planCounted d life s) = planShort d s ∧
    planLeft d fp (planCounted d life s) = planLeft d fp s ∧ planDieShort d (planCounted d life s) = planDieShort d s := by
  have hdie : dieOf (planCounted d life s) d =
      { dieOf s d with calmPlans := if calm s d then (dieOf s d).calmPlans + 1 else 0, lifeDays := life } :=
    (dieOf_modDie s d d (fun x =>
      { x with calmPlans := if calm s d then (dieOf s d).calmPlans + 1 else 0, lifeDays := life })).trans (if_pos rfl)
  have hhealth : health (planCounted d life s) = health s := rfl
  have hguard : guardPs (planCounted d life s) = guardPs s := rfl
  have hsteps : planSteps fp (planCounted d life s) = planSteps fp s := rfl
  have hshort : planShort d (planCounted d life s) = planShort d s := by
    unfold planShort
    rw [hhealth, hguard]
  refine ⟨hdie, rfl, hshort, ?_, ?_⟩
  · unfold planLeft
    rw [hshort, hsteps]
  · unfold planDieShort
    rw [hdie, hguard]

/-- A plan that is made or only reported (14 R381). -/
def planMade (d : Nat) (fp : List Nat) (s : State) : State := if bit (marginCfgOf s d) 16 then planActions d fp s else s

theorem exec_marginPlan_runs (die : CDie) (keeps : List Word32) (life : Word16) (s : State) (hk : kernelRuns s = true) :
    exec (.marginPlan die keeps life) s = .next (settle (slacksCleared (regions die.val) die.val
      (planMade die.val (keeps.map (·.toNat)) (planCounted die.val life.toNat s)))) := by
  show execMarginPlan die keeps life s = _
  unfold execMarginPlan
  dsimp only
  rw [if_neg (by rw [hk]; decide)]
  rfl

/-- A plan of a die, from the die as it stands before it (14 R379, R381). -/
theorem planned_result (d : Nat) (hd : d < 16) (fp : List Nat) (life : Nat) (s : State) :
    let t := slacksCleared (regions d) d (planMade d fp (planCounted d life s))
    t.gz.jobs = s.gz.jobs ∧ (dieOf t d).calmPlans = (if calm s d then (dieOf s d).calmPlans + 1 else 0) ∧ (dieOf t d).lifeDays = life ∧
    t.mem = s.mem ∧ (∀ u ∈ regions d, (health t u).minSlack = none) ∧ (dieOf t d).dieSlack = none ∧
    (bit (marginCfgOf s d) 16 = false → t.flash.taps = s.flash.taps ∧ t.flash.rails = s.flash.rails) ∧
    (bit (marginCfgOf s d) 16 = true →
      (∀ u, tapOf t u = if (planShort d s).contains u && planSteps fp s u then tapOf s u + 1 else tapOf s u) ∧
      railOf t d = planRail d fp (planCounted d life s) ∧
      (800 ≤ railOf s d → ∀ u ∈ planLeft d fp s, (health t u).retired = true) ∧
      (800 ≤ railOf s d → planDieShort d (planCounted d life s) = true → (dieOf t d).dieRetired = true)) := by
  intro t
  obtain ⟨hcounted, hrail, hshort, hleft, -⟩ := planCounted_reads d life fp s
  set x := planMade d fp (planCounted d life s) with hx
  obtain ⟨hjobs, hmem, htaps, hrails, ⟨g, hdie⟩, hslack⟩ := slacksCleared_facts (regions d) d x
  have ht : slacksCleared (regions d) d x = t := rfl
  clear_value t
  rw [ht] at hjobs hmem htaps hrails hdie hslack
  have hret : ∀ u, (health t u).retired = (health x u).retired := fun u => by
    rw [hslack]
    split <;> rfl
  have hnone : ∀ u ∈ regions d, (health t u).minSlack = none := fun u hu => by rw [hslack, if_pos hu]
  have hcfg : marginCfgOf (planCounted d life s) d = marginCfgOf s d := rfl
  cases hauto : bit (marginCfgOf s d) 16 with
  | false =>
    have hxs : x = planCounted d life s := by
      rw [hx, planMade, hcfg, hauto]
      rfl
    rw [hxs, hcounted] at hdie
    refine ⟨?_, by rw [hdie], by rw [hdie], ?_, hnone, by rw [hdie], fun _ => ⟨?_, ?_⟩, by simp⟩
    · exact hjobs.trans (by rw [hxs]; rfl)
    · exact hmem.trans (by rw [hxs]; rfl)
    · exact htaps.trans (by rw [hxs]; rfl)
    · exact hrails.trans (by rw [hxs]; rfl)
  | true =>
    have hxs : x = planActions d fp (planCounted d life s) := by
      rw [hx, planMade, hcfg, hauto]
      rfl
    have hp := planActions_planned d hd fp (planCounted d life s)
    rw [← hxs] at hp
    obtain ⟨hcalm, hlife⟩ := hp.die
    rw [hcounted] at hcalm hlife
    refine ⟨hjobs.trans hp.jobs, by rw [hdie]; exact hcalm, by rw [hdie]; exact hlife, hmem.trans hp.mem, hnone, by rw [hdie],
      by simp, fun _ => ⟨fun u => ?_, ?_, fun h u hu => ?_, fun h hs => ?_⟩⟩
    · rw [← hshort]
      exact (congrArg (amGet 0 · u) htaps).trans (hp.taps u)
    · exact (congrArg (amGet 720 · d) hrails).trans hp.rail
    · rw [hret]
      exact hp.retired (by rw [hrail]; exact h) u (by rw [hleft]; exact hu)
    · rw [hdie]
      exact hp.dieRetired (by rw [hrail]; exact h) hs

/-- What a plan of a die leaves (14 R379-R381, R385). -/
theorem marginPlan_result (die : CDie) (keeps : List Word32) (life : Word16) (s : State) (hi : Idle s) (hk : kernelRuns s = true) :
    ∃ t, exec (.marginPlan die keeps life) s = .next t ∧
      (dieOf t die.val).calmPlans = (if calm s die.val then (dieOf s die.val).calmPlans + 1 else 0) ∧
      (dieOf t die.val).lifeDays = life.toNat ∧ t.mem = s.mem ∧ (∀ u ∈ regions die.val, (health t u).minSlack = none) ∧
      (dieOf t die.val).dieSlack = none ∧
      (bit (marginCfgOf s die.val) 16 = false → t.flash.taps = s.flash.taps ∧ t.flash.rails = s.flash.rails) ∧
      (bit (marginCfgOf s die.val) 16 = true →
        (∀ u ∈ regions die.val, tapOf t u =
          if (planShort die.val s).contains u && planSteps (keeps.map (·.toNat)) s u then tapOf s u + 1 else tapOf s u) ∧
        railOf t die.val = (if planLeft die.val (keeps.map (·.toNat)) s ≠ [] ∨ planDieShort die.val s = true then
            (if railOf s die.val < 800 then railOf s die.val + 5 else railOf s die.val)
          else if planShort die.val s = [] ∧ 6 ≤ (if calm s die.val then (dieOf s die.val).calmPlans + 1 else 0) ∧ 680 < railOf s die.val then
            railOf s die.val - 5 else railOf s die.val) ∧
        (800 ≤ railOf s die.val → ∀ u ∈ planLeft die.val (keeps.map (·.toNat)) s, (health t u).retired = true) ∧
        (800 ≤ railOf s die.val → planDieShort die.val s = true → (dieOf t die.val).dieRetired = true)) := by
  have he := exec_marginPlan_runs die keeps life s hk
  have hd : die.val < 16 := die.isLt.trans (by decide)
  have hfacts := planned_result die.val hd (keeps.map (·.toNat)) life.toNat s
  obtain ⟨d, hdv⟩ : ∃ d, die.val = d := ⟨_, rfl⟩
  obtain ⟨fp, hfp⟩ : ∃ fp, keeps.map (·.toNat) = fp := ⟨_, rfl⟩
  rw [hdv, hfp] at he hfacts ⊢
  obtain ⟨t, ht⟩ : ∃ t, slacksCleared (regions d) d (planMade d fp (planCounted d life.toNat s)) = t := ⟨_, rfl⟩
  dsimp only at hfacts
  rw [ht] at he hfacts
  obtain ⟨hjobs, hcalm, hlife, hmem, hslack, hdie, hoff, hon⟩ := hfacts
  obtain ⟨hcounted, hrails, hshort, hleft, hdieShort⟩ := planCounted_reads d life.toNat fp s
  have hrail : planRail d fp (planCounted d life.toNat s) =
      if planLeft d fp s ≠ [] ∨ planDieShort d s = true then (if railOf s d < 800 then railOf s d + 5 else railOf s d)
      else if planShort d s = [] ∧ 6 ≤ (if calm s d then (dieOf s d).calmPlans + 1 else 0) ∧ 680 < railOf s d then
        railOf s d - 5 else railOf s d := by
    unfold planRail
    rw [hshort, hleft, hdieShort, hcounted, hrails]
  rw [hdieShort, hrail] at hon
  refine ⟨passed t, he.trans (congrArg _ (settle_idle t (hjobs.trans hi))), hcalm, hlife, hmem, hslack, hdie, hoff, fun hauto => ?_⟩
  obtain ⟨htaps, hr, hret, hdret⟩ := hon hauto
  exact ⟨fun u _ => htaps u, hr, hret, hdret⟩

/-! ## Rotation and probation -/

theorem testFailed_facts (u code : Nat) (s : State) :
    let t := testFailed u code s
    t.gz.jobs = s.gz.jobs ∧ (health t u).slicedAt = (health s u).slicedAt ∧ (health t u).quarantined = true ∧
    (health t u).ready = false ∧ (health t u).lastTest = code ∧
    ∀ k, k ≠ 256 * uid 6 12 0 + 0x30 → k ≠ 256 * uid 0 (uDie u) 0 + 0x40 → amGet 0 t.hw.counts k = amGet 0 s.hw.counts k := by
  intro t
  set x := count (modHealth s u (fun h => { h with lastTest := code })) (uid 0 (uDie u) 0) 0x40 1
  have ht : t = quarantine u (testEntry u code x) := rfl
  have hw : UnitWork x t := (ledger_unitWork ..).trans (quarantine_unitWork ..)
  have hh : health (testEntry u code x) u = { health s u with lastTest := code } :=
    (health_ledger ..).trans ((health_modHealth s u u (fun h => { h with lastTest := code })).trans (if_pos rfl))
  have hq := health_quarantine u u (testEntry u code x)
  rw [if_pos rfl, ← ht, hh] at hq
  refine ⟨hw.jobs, by rw [hq], by rw [hq], by rw [hq], by rw [hq], fun k h1 h2 => (hw.counts k h1).trans ?_⟩
  exact (amGet_amMod ..).trans (if_neg h2)

/-- Whether a rotation slice of a unit is due (14 R383). -/
def sliceDue (u : Nat) (s : State) : Prop :=
  kernelRuns s = true ∧ isCD (uDie u) = true ∧ uidValid u = true ∧ [1, 3, 7, 8, 9].contains (uKind u) = true ∧ sliceOk s u = true

/-- A slice that starts is counted (14 R383). -/
def sliceBegun (u : Nat) (s : State) : State := modHealth (count s (uid 0 (uDie u) 0) 0x30 1) u (fun h => { h with slicedAt := s.now })

theorem exec_rotationSlice (unit : Word32) (ok : Bool) (code : Word16) (last : Bool) (s : State) (hi : Idle s) :
    (¬sliceDue unit.toNat s → exec (.rotationSlice unit ok code last) s = .next (passed s)) ∧
    (sliceDue unit.toNat s → ∃ x, x = (if ok then sliceBegun unit.toNat s else testFailed unit.toNat code.toNat (sliceBegun unit.toNat s)) ∧
      exec (.rotationSlice unit ok code last) s = .next (settle (if last then count x (uid 0 (uDie unit.toNat) 0) 0x38 1 else x))) := by
  have hheld : rotationHeld s = false := by
    unfold rotationHeld
    rw [show s.gz.jobs = [] from hi]
    rfl
  show (_ → execRotationSlice unit ok code last s = _) ∧ (_ → ∃ x, _ ∧ execRotationSlice unit ok code last s = _)
  unfold execRotationSlice
  dsimp only
  rw [hheld]
  refine ⟨fun hnot => ?_, fun hdue => ?_⟩
  · rw [if_pos ?_, settle_idle s hi]
    rw [← Bool.not_eq_false]
    intro hcond
    simp only [Bool.or_eq_false_iff, Bool.not_eq_false'] at hcond
    obtain ⟨⟨⟨⟨⟨hk, hc⟩, hv⟩, hkind⟩, -⟩, hs⟩ := hcond
    exact hnot ⟨hk, hc, hv, hkind, hs⟩
  · obtain ⟨hk, hc, hv, hkind, hs⟩ := hdue
    exact ⟨_, rfl, congrArg (fun x => Host.Outcome.next (settle x)) (if_neg (by simp only [hk, hc, hv, hkind, hs]; decide))⟩

theorem rotationSlice_facts (u : Nat) (ok : Bool) (code : Nat) (last : Bool) (s x t : State) (hd : isCD (uDie u) = true)
    (hx : x = if ok then sliceBegun u s else testFailed u code (sliceBegun u s))
    (ht : t = if last then count x (uid 0 (uDie u) 0) 0x38 1 else x) :
    t.gz.jobs = s.gz.jobs ∧ (health t u).slicedAt = s.now ∧ countOf t (uid 0 (uDie u) 0) 0x30 = countOf s (uid 0 (uDie u) 0) 0x30 + 1 ∧
    countOf t (uid 0 (uDie u) 0) 0x38 = countOf s (uid 0 (uDie u) 0) 0x38 + b2n last ∧
    (ok = true → (health t u).ready = (health s u).ready) ∧
    (ok = false → (health t u).quarantined = true ∧ (health t u).ready = false ∧ (health t u).lastTest = code) := by
  have hcd : uDie u < 8 := by simpa [isCD] using hd
  have hkey : ∀ off < 256, 256 * uid 0 (uDie u) 0 + off ≠ 256 * uid 6 12 0 + 0x30 := fun off hoff => by
    unfold uid
    omega
  have hb : health (sliceBegun u s) u = { health s u with slicedAt := s.now } := (health_modHealth _ u u _).trans (if_pos rfl)
  have hc : ∀ off, countOf (sliceBegun u s) (uid 0 (uDie u) 0) off =
      if off = 0x30 then countOf s (uid 0 (uDie u) 0) 0x30 + 1 else countOf s (uid 0 (uDie u) 0) off := fun off => by
    refine (countOf_count s (uid 0 (uDie u) 0) 0x30 1 (uid 0 (uDie u) 0) off).trans ?_
    by_cases h : off = 0x30
    · rw [if_pos (by rw [h]), if_pos h]
    · rw [if_neg (by omega), if_neg h]
  have hxf : x.gz.jobs = s.gz.jobs ∧ (health x u).slicedAt = s.now ∧
      (∀ off < 256, off ≠ 0x40 → countOf x (uid 0 (uDie u) 0) off = countOf (sliceBegun u s) (uid 0 (uDie u) 0) off) ∧
      (ok = true → (health x u).ready = (health s u).ready) ∧
      (ok = false → (health x u).quarantined = true ∧ (health x u).ready = false ∧ (health x u).lastTest = code) := by
    cases ok with
    | true =>
      rw [if_pos rfl] at hx
      rw [hx]
      exact ⟨rfl, by rw [hb], fun _ _ _ => rfl, fun _ => by rw [hb], by simp⟩
    | false =>
      rw [if_neg (by decide)] at hx
      obtain ⟨hjobs, hsliced, hq, hr, hl, hcounts⟩ := testFailed_facts u code (sliceBegun u s)
      rw [← hx] at hjobs hsliced hq hr hl hcounts
      exact ⟨hjobs, by rw [hsliced, hb], fun off h1 h2 => hcounts _ (hkey off h1) (by omega), by simp, fun _ => ⟨hq, hr, hl⟩⟩
  obtain ⟨hjobs, hsliced, hcounts, hready, hfail⟩ := hxf
  cases last with
  | true =>
    rw [if_pos rfl] at ht
    rw [ht]
    refine ⟨hjobs, hsliced, ?_, ?_, hready, hfail⟩
    · rw [countOf_count, if_neg (by omega), hcounts _ (by decide) (by decide), hc, if_pos rfl]
    · rw [countOf_count, if_pos rfl, hcounts _ (by decide) (by decide), hc, if_neg (by decide)]
      rfl
  | false =>
    rw [if_neg (by decide)] at ht
    rw [ht]
    refine ⟨hjobs, hsliced, ?_, ?_, hready, hfail⟩
    · rw [hcounts _ (by decide) (by decide), hc, if_pos rfl]
    · rw [hcounts _ (by decide) (by decide), hc, if_neg (by decide)]
      rfl

/-- An engine on probation takes the shape of the engine it copies (14 R385). -/
def shadowed (u : Nat) (s : State) : State :=
  if uKind u = 1 then match shadowSource s (uDie u) with
    | some e => modEngine s u (fun x => { x with shape := shapeOf s e })
    | none => s
  else s

theorem shadowed_facts (u : Nat) (s : State) :
    UnitWork s (shadowed u s) ∧ ∀ x, health (shadowed u s) x = health s x := by
  unfold shadowed
  split
  · split
    · exact ⟨modEngine_unitWork .., fun _ => rfl⟩
    · exact ⟨.refl s, fun _ => rfl⟩
  · exact ⟨.refl s, fun _ => rfl⟩

/-- A shadow operation of a unit on probation (14 R385). -/
def shadowOp (u : Nat) (ok : Bool) (s : State) : State :=
  if ok then
    if (health s u).shadow + 1 < 1000 then modHealth s u (fun h => { h with shadow := (health s u).shadow + 1 })
    else setReady u true 7 (modHealth s u (fun h => { h with shadow := 0, probation := false, points := 0, chargedAt := s.now }))
  else charge u 8 (modHealth s u (fun h => { h with shadow := 0 }))

theorem exec_probationShadowOp (unit : Word32) (ok : Bool) (s : State) (h : (health s unit.toNat).probation = true) :
    exec (.probationShadowOp unit ok) s = .next (settle (shadowOp unit.toNat ok (shadowed unit.toNat s))) := by
  show execProbationShadowOp unit ok s = _
  unfold execProbationShadowOp
  dsimp only
  rw [if_neg (by rw [h]; decide)]
  rfl

theorem shadowOp_jobs (u : Nat) (ok : Bool) (s : State) : (shadowOp u ok s).gz.jobs = s.gz.jobs := by
  unfold shadowOp
  split
  · split
    · rfl
    · exact (setReady_unitWork ..).jobs
  · exact (charge_unitWork ..).jobs

/-- Settles O53: bring-up, gauges, plans, rotation and probation by what each makes of a unit's health, a tap or a rail. -/
theorem marginsAndTests : Obligations.MarginsAndTests := by
  refine ⟨fun unit ok code bad s hi => ?bringup, fun die slack s hi => ?gauge, fun die keeps life s hi => ?plan,
    fun unit ok code last s hi => ?rotation, fun unit ok s hi => ?probation⟩
  case bringup =>
    intro u due e
    refine ⟨exec_bringupStep_not unit ok code bad s hi, fun hdue => ?_⟩
    have he : e = _ := exec_bringupStep_due unit ok code bad s hdue
    obtain ⟨hjobs, hbr, hready, hfail, hchan⟩ := stepTaken_facts u ok code.toNat bad s
    set x := stepTaken u ok code.toNat bad s
    obtain ⟨hw, hkeep⟩ : UnitWork x (if uKind u = 0xA then sideCheck u x else x) ∧
        ∃ rr cc, health (if uKind u = 0xA then sideCheck u x else x) u = { health x u with ready := rr, lastCause := cc } ∧
          (uKind u ≠ 0xA → rr = (health x u).ready) := by
      split
      · next hk =>
        obtain ⟨rr, cc, h⟩ := health_sideCheck_keeps u u x
        exact ⟨sideCheck_unitWork u x, rr, cc, h, fun h => absurd hk h⟩
      · exact ⟨.refl x, _, _, rfl, fun _ => rfl⟩
    obtain ⟨rr, cc, hh, hrr⟩ := hkeep
    change e = .next (settle (bringupDone (uDie u) (if uKind u = 0xA then sideCheck u x else x))) at he
    set y := if uKind u = 0xA then sideCheck u x else x
    obtain ⟨dies, hdone⟩ := bringupDone_eq (uDie u) y
    rw [hdone] at he
    have hmem : ∀ n, chan y n = chan x n := fun n => by rw [chan, hw.mem]; rfl
    refine ⟨_, he.trans (congrArg _ (settle_idle _ ((hw.jobs.trans hjobs).trans hi))), ?_, fun hok hk => ?_, fun hbad => ?_, fun n hk hn hin => ?_⟩
    · show (health y u).brought = true
      rw [hh]
      exact hbr
    · show (health y u).ready = true
      rw [hh, hrr hk]
      exact hready hok
    · show (health y u).failed = true ∧ (health y u).lastTest = _
      rw [hh]
      exact hfail hbad
    · show (chan y (chanUnit u n)).state = _
      rw [hmem]
      exact hchan n hk hn hin
  case gauge =>
    have he : exec (.gaugeRead die slack) s = .next (settle (slack.foldl (gaugeOne die.val) s)) := rfl
    have hjobs : (slack.foldl (gaugeOne die.val) s).gz.jobs = s.gz.jobs :=
      foldl_view (fun s : State => s.gz.jobs) _ _ _ fun r _ s => (gaugeOne_facts die.val s r).1
    have hmem : (slack.foldl (gaugeOne die.val) s).mem = s.mem :=
      foldl_view (fun s : State => s.mem) _ _ _ fun r _ s => (gaugeOne_facts die.val s r).2.1
    refine ⟨_, he.trans (congrArg _ (settle_idle _ (hjobs.trans hi))), hmem, fun r _ hd hone => ?_⟩
    intro u hreg hret
    have hlt : uDie r.1.toNat < 16 := by
      rw [hd]
      exact die.isLt.trans (by decide)
    have hg := gauges_facts slack s r hlt hone hreg hret
    rw [hd] at hg
    exact hg
  case plan =>
    intro d e g calmPlans short steps left dieShort
    refine ⟨fun hk => ?_, fun hk => ?_⟩
    · show execMarginPlan die keeps life s = _
      unfold execMarginPlan
      dsimp only
      rw [if_pos (by rw [hk]; rfl), settle_idle s hi]
    · obtain ⟨t, ht, hcalm, hlife, hmem, hslack, hdie, hoff, hon⟩ := marginPlan_result die keeps life s hi hk
      exact ⟨t, ht, hcalm, hlife, hmem, hslack, hdie, hoff, hon⟩
  case rotation =>
    intro u d due e
    obtain ⟨hnot, hdue⟩ := exec_rotationSlice unit ok code last s hi
    refine ⟨hnot, fun h => ?_⟩
    obtain ⟨x, hx, he⟩ := hdue h
    obtain ⟨hjobs, hrest⟩ := rotationSlice_facts u ok code.toNat last s x _ h.2.1 hx rfl
    exact ⟨_, he.trans (congrArg _ (settle_idle _ (hjobs.trans hi))), hrest⟩
  case probation =>
    intro u e
    refine ⟨fun hno => ?_, fun hyes => ?_⟩
    · show execProbationShadowOp unit ok s = _
      unfold execProbationShadowOp
      dsimp only
      rw [if_pos (by rw [hno]; rfl), settle_idle s hi]
    · have he : e = _ := exec_probationShadowOp unit ok s hyes
      obtain ⟨hw, hh⟩ := shadowed_facts u s
      have he' := he.trans (congrArg _ (settle_idle _ ((shadowOp_jobs u ok (shadowed u s)).trans (hw.jobs.trans hi))))
      set x := shadowed u s
      refine ⟨fun hok hlt => ⟨_, he', ?_⟩, fun hok hge => ⟨_, he', ?_⟩, fun hbad => ⟨_, he', ?_⟩⟩
      · have hself : health (shadowOp u ok x) u = { health x u with shadow := (health x u).shadow + 1 } := by
          unfold shadowOp
          rw [if_pos hok, if_pos (by rw [hh]; exact hlt), health_modHealth, if_pos rfl]
        show (health (shadowOp u ok x) u).shadow = _ ∧ (health (shadowOp u ok x) u).probation = true ∧ (health (shadowOp u ok x) u).ready = _
        rw [hself, hh]
        exact ⟨rfl, hyes, rfl⟩
      · set y := modHealth x u (fun h => { h with shadow := 0, probation := false, points := 0, chargedAt := x.now })
        have hself : shadowOp u ok x = setReady u true 7 y := by
          unfold shadowOp
          rw [if_pos hok, if_neg (by rw [hh]; exact Nat.not_lt.2 hge)]
        have hy : health y u = { health x u with shadow := 0, probation := false, points := 0, chargedAt := x.now } :=
          (health_modHealth x u u _).trans (if_pos rfl)
        obtain ⟨rr, cc, hset⟩ := health_setReady_keeps u u true 7 y
        show (health (shadowOp u ok x) u).ready = true ∧ (health (shadowOp u ok x) u).probation = false ∧ (health (shadowOp u ok x) u).points = 0
        rw [hself]
        refine ⟨ready_setReady .., ?_, ?_⟩ <;> rw [hset, hy]
      · set y := modHealth x u (fun h => { h with shadow := 0 })
        have hself : shadowOp u ok x = charge u 8 y := by
          unfold shadowOp
          rw [if_neg (by rw [hbad]; decide)]
        show (health (shadowOp u ok x) u).shadow = 0 ∧ (_ → _ ≤ (health (shadowOp u ok x) u).points)
        rw [hself, shadow_charge]
        refine ⟨congrArg Health.shadow ((health_modHealth x u u _).trans (if_pos rfl)), fun hk => points_charge u 8 y hk (by decide)⟩
end Sys2Proof.Proofs
end

section
/-! PROOFS. Rings fetch and dispatch: PACKET_FETCH, PACKET_DISPATCH and WAIT_READY_DISPATCH (02 R40, R45-R47; 14 R374). -/

namespace Sys2Proof.Proofs

open Sys2Proof Sys2Proof.Machine Sys2Proof.Laws

/-! ## A refused packet (02 R45) -/

/-- A refusal moves the ring's reply position and nothing else of the ring. -/
theorem ringOf_refused_eq (h : Hdr) (key : Nat) (e : End) (s : State) :
    ringOf (refused h key e s) key = { ringOf s key with replyTail := ((ringOf s key).replyTail + 32) % replySize (ringOf s key) } := by
  obtain ⟨t, ht, hr⟩ := writeReply_storeOnly s key (replyBytes h.seq.toNat (ringOrigin s (key / 256) (key % 256)) 0 e)
  have hring : ringOf (refused h key e s) key = ringOf (writeReply s key
      (replyBytes h.seq.toNat (ringOrigin s (key / 256) (key % 256)) 0 e)) key :=
    ringOf_storeOnly (writeDone_storeOnly ..) key
  rw [hring, hr, ringOf_modRing, if_pos rfl, ringOf_storeOnly ht]

theorem refused_mm (h : Hdr) (key : Nat) (e : End) (s : State) (hw : s.sig.waiters = []) : (refused h key e s).mm = s.mm := by
  have hs := storeNow_calmOnly s ⟨ringCore s key, ringOrigin s (key / 256) (key % 256), key / 256, 0, key⟩
    ((ringOf s key).replyBase + (ringOf s key).replyTail)
    (replyBytes h.seq.toNat (ringOrigin s (key / 256) (key % 256)) 0 e) hw
  obtain ⟨_, _, _, hd⟩ := writeDone_calmOnly (refusalReplied h key e s) key (refusalReplied h key e s).gz.nextJob h (hs.waiters hw)
  obtain ⟨_, _, _, hs⟩ := hs
  have hmm : (refused h key e s).mm = (refusalReplied h key e s).mm := congrArg (fun t => t.mm) hd
  exact hmm.trans (congrArg (fun t => t.mm) hs)

/-- A refusal is its answer and at most a ledger entry. -/
theorem reject_refused (i : Instr) (key : Nat) (e : End) (s : State) : LedgerOnly (refused (hdrOf i) key e s) (reject i key e s) := by
  have heq : reject i key e s = rejectNote i key e (refused (hdrOf i) key e s) := rfl
  rw [heq]
  unfold rejectNote
  dsimp only
  split
  · exact .refl _
  · split
    · split
      · exact ledgerEv_ledgerOnly ..
      · exact .refl _
    · split
      · exact ledgerEv_ledgerOnly ..
      · exact .refl _
    · exact .refl _

/-- The answer to a packet's bytes: the reply position moves on, the slot holds the reply, and nothing comes into flight. -/
structure Turned (s t : State) (key seq : Nat) (addr : Word64) (e : End) : Prop where
  ring : ringOf t key = { ringOf s key with replyTail := ((ringOf s key).replyTail + 32) % replySize (ringOf s key) }
  bytes : addr = 0 → bytesAt t ((ringOf s key).replyBase + (ringOf s key).replyTail) 32 =
    replyBytes seq (ringOrigin s (key / 256) (key % 256)) 0 e
  jobs : t.gz.jobs = s.gz.jobs
  mm : t.mm = s.mm

theorem reject_turned (i : Instr) (key : Nat) (e : End) (s : State) (hm : Memory.wf s.mem.cells = true) (hw : s.sig.waiters = []) :
    Turned s (reject i key e s) key (hdrOf i).seq.toNat (hdrOf i).doneAddr e := by
  have hnote := reject_refused i key e s
  have hring := ringOf_refused_eq (hdrOf i) key e s
  have hbytes := bytesAt_refused (hdrOf i) key e s hm
  have hjobs := refused_jobs (hdrOf i) key e s hw
  have hmm := refused_mm (hdrOf i) key e s hw
  obtain ⟨_, _, _, _, hr⟩ := hnote
  exact ⟨by rw [hr]; exact hring, fun h => by rw [hr]; exact hbytes h, by rw [hr]; exact hjobs, by rw [hr]; exact hmm⟩

/-- A reply that no DONE_VALUE follows (02 R417). -/
theorem writeReply_turned (s : State) (key : Nat) (e : End) (hm : Memory.wf s.mem.cells = true) (hw : s.sig.waiters = []) (h : Hdr)
    (n : Nat) (hseq : h.seq.toNat = n) (haddr : h.doneAddr = 0) :
    Turned s (count (writeReply s key (replyBytes n (ringOrigin s (key / 256) (key % 256)) 0 e)) (ringCore s key) 0x18 1)
      key n 0 e := by
  subst hseq
  have heq : refused h key e s = refusalReplied h key e s := writeDone_of_no_addr _ _ _ _ haddr
  have hreply : refusalReplied h key e s =
      count (writeReply s key (replyBytes h.seq.toNat (ringOrigin s (key / 256) (key % 256)) 0 e)) (ringCore s key) 0x18 1 := by
    have hcore : ringCore (writeReply s key (replyBytes h.seq.toNat (ringOrigin s (key / 256) (key % 256)) 0 e)) key =
        ringCore s key := by
      obtain ⟨t, ht, hr⟩ := writeReply_storeOnly s key (replyBytes h.seq.toNat (ringOrigin s (key / 256) (key % 256)) 0 e)
      unfold ringCore
      rw [hr, ringOf_modRing, if_pos rfl, ringOf_storeOnly ht]
    unfold refusalReplied
    dsimp only
    rw [hcore]
  rw [← hreply, ← heq]
  exact ⟨ringOf_refused_eq .., fun _ => bytesAt_refused _ key e s hm haddr, refused_jobs _ key e s hw, refused_mm _ key e s hw⟩

/-! ## PACKET_FETCH -/

/-- A state in which nothing goes on by itself. -/
def Still (s : State) : Prop := (∀ j ∈ s.gz.jobs, Rests j ∧ barrierCmd j = none ∧ ended s j = none) ∧ s.mm = []

/-- A command in its window, or one that waits for readiness, goes on with neither a unit nor a barrier, and has not ended. -/
theorem resting_phases (s : State) (j : Job) (h : j.phase = .inWindow ∨ j.phase = .waitReady) :
    Rests j ∧ barrierCmd j = none ∧ ended s j = none := by
  obtain h | h := h <;>
    exact ⟨⟨by simp [h], by simp [h], by simp [h], by simp [h]⟩, by unfold barrierCmd; rw [h]; split <;> simp_all, by unfold ended; rw [h]⟩

theorem still_of_one (s : State) (j : Job) (hb : Bare s) (hj : s.gz.jobs = [j]) (h : j.phase = .inWindow ∨ j.phase = .waitReady) :
    Still s := by
  refine ⟨fun k hk => ?_, hb.1⟩
  rw [hj, List.mem_singleton] at hk
  subst hk
  exact resting_phases s k h

theorem still_of_idle (s : State) (hb : Bare s) (hj : s.gz.jobs = []) : Still s :=
  ⟨fun k hk => absurd hk (by rw [hj]; exact List.not_mem_nil), hb.1⟩

theorem firstEnded_none (s : State) (l : List Job) (h : ∀ j ∈ l, ended s j = none) : firstEnded s l = none := by
  induction l with
  | nil => rfl
  | cons j l ih =>
    unfold firstEnded
    rw [h j List.mem_cons_self]
    exact ih fun k hk => h k (List.mem_cons_of_mem _ hk)

theorem goOn_still (n : Nat) (s : State) (h : Still s) : goOn n s = passed s := by
  rw [goOn_rests n s (fun j hj => ⟨(h.1 j hj).1, (h.1 j hj).2.1⟩) h.2]
  exact settle_quiet s (firstEnded_none s _ fun j hj => (h.1 j hj).2.2)

theorem exec_packetFetch (c r : Byte) (s t : State) (h : fetchNext (256 * c.toNat + r.toNat) s = t) :
    exec (.packetFetch c r) s = .next (goOn s.gz.nextJob t) := by
  rw [← h]
  rfl

/-- A ring meets its next packet: open, with nothing that waits or holds it, a free reply slot and no pass-over (02 R43, R46). -/
structure Meets (s : State) (key : Nat) : Prop where
  isOpen : ringOpen s key = true
  free : stalled s key = false
  noPass : (ringOf s key).passOver = none

theorem Meets.facts {s : State} {key : Nat} (h : Meets s key) :
    (ringOf s key).waiting = [] ∧ slotFree (ringOf s key) = true := by
  have hf := h.free
  unfold stalled at hf
  dsimp only at hf
  rw [h.noPass] at hf
  simp only [Option.isNone_none, Bool.true_and, Bool.or_eq_false_iff, Bool.not_eq_false', List.isEmpty_iff] at hf
  exact ⟨hf.1, hf.2.2⟩

theorem fetchNext_short (key : Nat) (s : State) (h : announced (ringOf s key) < 32) : fetchNext key s = s := by
  unfold fetchNext
  dsimp only
  rw [if_pos (by simp [h])]

theorem fetchNext_poisoned (key ch : Nat) (s : State) (hmeet : Meets s key) (h : 32 ≤ announced (ringOf s key))
    (hp : ringPoison s (ringOf s key) (ringOf s key).fetch 32 = some ch) :
    fetchNext key s = stopRing key ⟨0, 0, 0, false, false, false, 0, 0, 0, 0⟩ (fails MEMORY_POISONED ch) true s := by
  unfold fetchNext
  dsimp only
  rw [if_neg (by simp [hmeet.isOpen, hmeet.free, Nat.not_lt.2 h]), hp]

theorem fetchNext_read (key : Nat) (s : State) (hmeet : Meets s key) (h : 32 ≤ announced (ringOf s key))
    (hp : ringPoison s (ringOf s key) (ringOf s key).fetch 32 = none) :
    fetchNext key s =
      let hb := ringBytes s key (ringOf s key).fetch 32
      let len := fld hb 2 1
      if len = 255 then stopRing key (readHdr hb) (fails BAD_LENGTH 255) false s
      else if announced (ringOf s key) < 32 + 16 * len then s
      else fetchPacket key (ringBytes s key (ringOf s key).fetch (32 + 16 * len))
        (ringPoison s (ringOf s key) ((ringOf s key).fetch + 32) (16 * len)) s := by
  unfold fetchNext
  dsimp only
  rw [if_neg (by simp [hmeet.isOpen, hmeet.free, Nat.not_lt.2 h]), hp]

theorem endPass_none (key : Nat) (s : State) (h : (ringOf s key).passOver = none) : endPass key s = s := by
  unfold endPass
  rw [h]

/-- The ring stops behind its answer (02 R42). -/
theorem stopRing_facts (key : Nat) (h : Hdr) (bad : End) (poisoned : Bool) (s : State) (hmeet : Meets s key)
    (hm : Memory.wf s.mem.cells = true) (hw : s.sig.waiters = []) :
    let t := stopRing key h bad poisoned s
    t.gz.jobs = s.gz.jobs ∧ t.mm = s.mm ∧ (ringOf t key).state = .stopped ∧ (ringOf t key).fetch = (ringOf s key).fetch ∧
    ((poisoned = true ∨ h.doneAddr = 0) → bytesAt t ((ringOf s key).replyBase + (ringOf s key).replyTail) 32 =
      replyBytes (if poisoned then 0 else h.seq.toNat) (ringOrigin s (key / 256) (key % 256)) 0 bad) := by
  intro t
  set x := count s (ringCore s key) 0x10 1 with hx
  set y := if poisoned then
      count (writeReply x key (replyBytes 0 (ringOrigin x (key / 256) (key % 256)) 0 bad)) (ringCore x key) 0x18 1
    else reject (.nop h) key bad x with hy
  have ht : t = modRing y key (fun r => { r with state := .stopped }) := by
    show stopRing key h bad poisoned s = _
    unfold stopRing
    rw [endPass_none key s hmeet.noPass]
    dsimp only
    rw [if_neg (by simp [hmeet.facts.2])]
  have hturn : Turned x y key (if poisoned then 0 else h.seq.toNat) (if poisoned then 0 else h.doneAddr) bad := by
    rw [hy]
    cases poisoned with
    | true => exact writeReply_turned x key bad hm hw ⟨0, 0, 0, false, false, false, 0, 0, 0, 0⟩ 0 rfl rfl
    | false => exact reject_turned (.nop h) key bad x hm hw
  have hring : ringOf t key = { ringOf y key with state := .stopped } := by rw [ht, ringOf_modRing, if_pos rfl]
  refine ⟨by rw [ht]; exact hturn.jobs, by rw [ht]; exact hturn.mm, by rw [hring], by rw [hring, hturn.ring]; rfl, fun hor => ?_⟩
  rw [ht]
  refine hturn.bytes ?_
  obtain hor | hor := hor
  · rw [if_pos hor]
  · rw [hor, ite_self]

/-- The ring's state with its fetch position behind the packet. -/
def fetched (key next : Nat) (s : State) : State := modRing s key (fun x => { x with fetch := next })

theorem ringOf_fetched (key next : Nat) (s : State) : ringOf (fetched key next s) key = { ringOf s key with fetch := next } := by
  rw [fetched, ringOf_modRing, if_pos rfl]

/-- What a ring does with the packet it has fetched, once a pass-over has seen it (02 R45, R59, R60). -/
def fetchedMet (key off next : Nat) (i : Instr) (bad : State → Option End) (passing : Bool) (x : State × Bool) : State :=
  if !x.2 then x.1
  else
    let s := if passing then settle x.1 else x.1
    if stalled s key then modRing s key (fun r => { r with fetch := off })
    else accept (preOf s i) (runOf i) i key off next (bad s) s

theorem fetchPacket_eq (key : Nat) (b : List Byte) (poison : Option Nat) (s : State) (i : Instr) (next : Nat) (hmeet : Meets s key)
    (hi : (readPacket b).getD (.nop (readHdr b)) = i) (hn : ((ringOf s key).fetch + b.length) % ringSize (ringOf s key) = next) :
    fetchPacket key b poison s = accept (preOf (fetched key next s) i) (runOf i) i key (ringOf s key).fetch next
      (judge (fetched key next s) key i b poison) (fetched key next s) := by
  have hpass : passStep i key (fetched key next s) = (fetched key next s, true) := by
    unfold passStep
    rw [ringOf_fetched, show ({ ringOf s key with fetch := next } : Ring).passOver = none from hmeet.noPass]
  have hstalled : stalled (fetched key next s) key = false := by
    rw [← hmeet.free]
    unfold stalled
    rw [ringOf_fetched]
    rfl
  have heq : fetchPacket key b poison s = fetchedMet key (ringOf s key).fetch next i (judge · key i b poison)
      (ringOf (fetched key next s) key).passOver.isSome (passStep i key (fetched key next s)) := by
    rw [← hi, ← hn] <;> rfl
  rw [heq, hpass, ringOf_fetched]
  unfold fetchedMet
  dsimp only
  rw [if_neg (by decide), hmeet.noPass]
  exact if_neg (by rw [← Bool.not_eq_true] at hstalled; exact hstalled)

/-! ## The choice among rings (02 R47) -/

/-- The first of two waiting packets comes no later than the second (02 R47). -/
def NotAfter (last : Nat) (x y : Nat × Bool × Nat) : Prop :=
  (x.2.1 = true → y.2.1 = true) ∧ (x.2.1 = y.2.1 → y.2.2 ≤ x.2.2 ∧ (x.2.2 = y.2.2 → rrDist last x.1 ≤ rrDist last y.1))

theorem NotAfter.refl (last : Nat) (x : Nat × Bool × Nat) : NotAfter last x x := ⟨id, fun _ => ⟨Nat.le_refl _, fun _ => Nat.le_refl _⟩⟩

theorem NotAfter.trans {last : Nat} {x y z : Nat × Bool × Nat} (h : NotAfter last x y) (k : NotAfter last y z) : NotAfter last x z := by
  obtain ⟨hclass, hprio⟩ := h
  obtain ⟨kclass, kprio⟩ := k
  refine ⟨fun hx => kclass (hclass hx), fun hxz => ?_⟩
  have hxy : x.2.1 = y.2.1 := by
    cases hx : x.2.1 with
    | true => exact (hclass hx).symm
    | false =>
      cases hy : y.2.1 with
      | false => rfl
      | true => exact absurd (hx.symm.trans (hxz.trans (kclass hy))) (by decide)
  obtain ⟨h1, h2⟩ := hprio hxy
  obtain ⟨k1, k2⟩ := kprio (hxy.symm.trans hxz)
  exact ⟨by omega, fun heq => by have := h2 (by omega); have := k2 (by omega); omega⟩

theorem notAfter_of_before (last : Nat) (a b : Nat × Bool × Nat) :
    if before last a b then NotAfter last a b else NotAfter last b a := by
  unfold before
  by_cases hclass : a.2.1 = b.2.1
  · by_cases hprio : a.2.2 = b.2.2
    · simp only [hclass, hprio, bne_self_eq_false, Bool.false_eq_true, if_false, decide_eq_true_eq]
      split
      · next h => exact ⟨fun h => hclass ▸ h, fun _ => ⟨by omega, fun _ => Nat.le_of_lt h⟩⟩
      · next h => exact ⟨fun h => hclass ▸ h, fun _ => ⟨by omega, fun _ => Nat.le_of_not_lt h⟩⟩
    · simp only [hclass, bne_self_eq_false, Bool.false_eq_true, if_false, bne_iff_ne, ne_eq, hprio, not_false_eq_true, if_true,
        decide_eq_true_eq]
      split
      · next h => exact ⟨fun h => hclass ▸ h, fun _ => ⟨by omega, fun k => by omega⟩⟩
      · next h => exact ⟨fun h => hclass ▸ h, fun _ => ⟨by omega, fun k => by omega⟩⟩
  · unfold NotAfter
    cases ha : a.2.1 <;> cases hb : b.2.1 <;> simp_all

theorem chooseRing_facts (last : Nat) (l : List (Nat × Bool × Nat)) : (l = [] ↔ chooseRing last l = none) ∧
    ∀ x, chooseRing last l = some x → x ∈ l ∧ ∀ y ∈ l, NotAfter last x y := by
  induction l with
  | nil => exact ⟨⟨fun _ => rfl, fun _ => rfl⟩, fun x h => by simp [chooseRing] at h⟩
  | cons a l ih =>
    obtain ⟨hnil, hsome⟩ := ih
    cases hc : chooseRing last l with
    | none =>
      have hl := hnil.2 hc
      subst hl
      refine ⟨⟨by simp, by simp [chooseRing]⟩, fun x h => ?_⟩
      obtain rfl : a = x := by simpa [chooseRing] using h
      refine ⟨List.mem_cons_self, fun y hy => ?_⟩
      rw [List.mem_singleton] at hy
      subst hy
      exact .refl last y
    | some b =>
      obtain ⟨hb, hall⟩ := hsome b hc
      have heq : chooseRing last (a :: l) = if before last b a then some b else some a := by
        rw [chooseRing, hc]
      have hba := notAfter_of_before last b a
      rw [heq]
      cases hbef : before last b a with
      | true =>
        rw [hbef, if_pos rfl] at hba
        refine ⟨by simp, fun x h => ?_⟩
        obtain rfl : b = x := by simpa using h
        refine ⟨List.mem_cons_of_mem _ hb, fun y hy => ?_⟩
        obtain rfl | hy := List.mem_cons.1 hy
        · exact hba
        · exact hall y hy
      | false =>
        rw [hbef, if_neg (by decide)] at hba
        refine ⟨by simp, fun x h => ?_⟩
        obtain rfl : a = x := by simpa using h
        refine ⟨List.mem_cons_self, fun y hy => ?_⟩
        obtain rfl | hy := List.mem_cons.1 hy
        · exact .refl last y
        · exact hba.trans (hall y hy)

/-! ## The three commands -/

/-- What a fetched packet's refusal, or its wait behind a blocked ring, leaves (02 R45, R46). -/
theorem accept_bad (pre : Pre) (run : Job → State → RunRes) (i : Instr) (key off next : Nat) (e : End) (s : State)
    (hm : Memory.wf s.mem.cells = true) (hw : s.sig.waiters = []) :
    Turned s (accept pre run i key off next (some e) s) key (hdrOf i).seq.toNat (hdrOf i).doneAddr e := by
  have h := reject_turned i key e (count s (ringCore s key) 0x10 1) hm hw
  exact ⟨h.ring, h.bytes, h.jobs, h.mm⟩

theorem accept_blocked (pre : Pre) (run : Job → State → RunRes) (i : Instr) (key off next : Nat) (s : State)
    (hb : blocked s key i = true) :
    accept pre run i key off next none s = keepWaiting i key off next true (count s (ringCore s key) 0x10 1) := by
  unfold accept
  dsimp only
  rw [if_neg (by show ¬((ringOf s key).waiting.isEmpty && !blocked s key i) = true; rw [hb]; simp)]

theorem accept_dispatch (pre : Pre) (run : Job → State → RunRes) (i : Instr) (key off next : Nat) (s : State)
    (hw : (ringOf s key).waiting = []) (hb : blocked s key i = false) :
    accept pre run i key off next none s = dispatch pre run i key off next (count s (ringCore s key) 0x10 1) := by
  unfold accept
  dsimp only
  rw [if_pos (by show ((ringOf s key).waiting.isEmpty && !blocked s key i) = true; rw [hb, hw]; rfl)]

/-- A ring that fetches a whole packet answers it, keeps it waiting, or dispatches it (02 R45, R46). -/
theorem fetchNext_whole (key : Nat) (s : State) (i : Instr) (next : Nat) (bad : Option End) (hmeet : Meets s key)
    (hm : Memory.wf s.mem.cells = true) (hw : s.sig.waiters = [])
    (hf : fetchNext key s = accept (preOf (fetched key next s) i) (runOf i) i key (ringOf s key).fetch next bad (fetched key next s)) :
    (∀ e, bad = some e → Turned (fetched key next s) (fetchNext key s) key (hdrOf i).seq.toNat (hdrOf i).doneAddr e) ∧
    (bad = none → blocked (fetched key next s) key i = true → (ringOf (fetchNext key s) key).fetch = next ∧
      (fetchNext key s).gz.jobs = s.gz.jobs ∧ (fetchNext key s).mm = s.mm ∧
      (ringOf (fetchNext key s) key).waiting = [⟨i, (ringOf s key).fetch, next, true⟩]) ∧
    (bad = none → blocked (fetched key next s) key i = false → fetchNext key s =
      dispatch (preOf (fetched key next s) i) (runOf i) i key (ringOf s key).fetch next
        (count (fetched key next s) (ringCore (fetched key next s) key) 0x10 1)) := by
  have hwait : (ringOf (fetched key next s) key).waiting = [] := by
    rw [ringOf_fetched]
    exact hmeet.facts.1
  rw [hf]
  refine ⟨fun e he => ?_, fun hn hb => ?_, fun hn hb => ?_⟩
  · rw [he]
    exact accept_bad _ _ i key _ next e _ hm hw
  · rw [hn, accept_blocked _ _ i key _ next _ hb]
    have hring : ringOf (keepWaiting i key (ringOf s key).fetch next true
        (count (fetched key next s) (ringCore (fetched key next s) key) 0x10 1)) key =
        { ringOf (fetched key next s) key with
          waiting := (ringOf (fetched key next s) key).waiting ++ [⟨i, (ringOf s key).fetch, next, true⟩] } := by
      rw [keepWaiting, ringOf_modRing, if_pos rfl]
      rfl
    rw [hring]
    refine ⟨by rw [ringOf_fetched], rfl, rfl, ?_⟩
    rw [hwait]
    rfl
  · rw [hn]
    exact accept_dispatch _ _ i key _ next _ hwait hb

theorem dispatchHead_parsed (key : Nat) (s : State) (p : Pkt) (rest : List Pkt) (h : (ringOf s key).waiting = p :: rest)
    (hp : p.parsed = true) :
    dispatchHead key {} s = modRing (dispatch (preOf (modRing s key (fun r => { r with waiting := [] })) p.cmd) (runOf p.cmd) p.cmd key
      p.off p.next (modRing s key (fun r => { r with waiting := [] }))) key (fun r => { r with waiting := r.waiting ++ rest }) := by
  unfold dispatchHead
  rw [h]
  dsimp only
  rw [if_pos rfl, if_pos hp]

theorem modJob_own (s : State) (j : Job) (h : s.gz.jobs = [j]) : modJob s j.id (fun k => { k with cmd := j.cmd }) = s := by
  unfold modJob
  rw [h]
  have : [j].map (fun k => if k.id == j.id then { k with cmd := j.cmd } else k) = s.gz.jobs := by
    rw [h]
    simp
  rw [this]

theorem startReady_facts (s : State) (j : Job) (hj : s.gz.jobs = [j]) (hp : j.phase = .waitReady) :
    (notReady s (preOf s j.cmd) = none → startReady {} s j = outcome j (runOf j.cmd j s)) ∧
    (notReady s (preOf s j.cmd) ≠ none → startReady {} s j = s) := by
  unfold startReady
  dsimp only
  refine ⟨fun hr => ?_, fun hr => ?_⟩
  · rw [if_neg (by simp [hp, hr]), if_pos rfl, modJob_own s j hj]
  · rw [if_pos (by simp [Option.isSome_iff_ne_none, hr])]

/-- Settles O48: a fetch by the branches of fetchNext, the choice among rings by induction, the dispatches as they are defined. -/
theorem ringsFetchAndDispatch : Obligations.RingsFetchAndDispatch := by
  refine ⟨fun c r s => ?fetch, fun last l => chooseRing_facts last l, fun unit part s => ?dispatch, fun unit s j hc hb hp => ?ready⟩
  case fetch =>
    intro key ring a header len b next i s1 bad answers e hcalm hb hopen hfree hpass
    have hkey : key / 256 = c.toNat ∧ key % 256 = r.toNat := by
      have : r.toNat < 256 := r.isLt
      show (256 * c.toNat + r.toNat) / 256 = _ ∧ (256 * c.toNat + r.toNat) % 256 = _
      omega
    obtain ⟨hm, hw⟩ : Memory.wf s.mem.cells = true ∧ s.sig.waiters = [] := by
      obtain h | ⟨j, h, -⟩ := hcalm
      · exact h.2
      · exact h.2
    have hstill : ∀ t : State, t.gz.jobs = s.gz.jobs → t.mm = s.mm → goOn s.gz.nextJob t = passed t := by
      intro t hj hmm
      refine goOn_still _ t ?_
      have hbt : t.mm = [] := hmm.trans hb.1
      obtain h | ⟨j, h, hp⟩ := hcalm
      · exact ⟨fun k hk => absurd hk (by rw [hj, h.1]; exact List.not_mem_nil), hbt⟩
      · refine ⟨fun k hk => ?_, hbt⟩
        rw [hj, h.1, List.mem_singleton] at hk
        subst hk
        exact resting_phases t k (.inl hp)
    have hmeet : Meets s key := ⟨hopen, hfree, hpass⟩
    have he : ∀ t, fetchNext key s = t → e = .next (goOn s.gz.nextJob t) := fun t h => exec_packetFetch c r s t h
    have hsame : fetchNext key s = s → e = .next (passed s) := fun h => (he s h).trans (congrArg _ (hstill s rfl rfl))
    refine ⟨fun hshort => hsame (fetchNext_short key s hshort), fun hlong => ⟨fun ch hch => ?_, fun hclean => ?_⟩⟩
    · obtain ⟨hj, hmm, hst, hft, hbytes⟩ := stopRing_facts key ⟨0, 0, 0, false, false, false, 0, 0, 0, 0⟩ (fails MEMORY_POISONED ch) true s hmeet hm hw
      obtain ⟨t, ht⟩ : ∃ t, stopRing key ⟨0, 0, 0, false, false, false, 0, 0, 0, 0⟩ (fails MEMORY_POISONED ch) true s = t := ⟨_, rfl⟩
      rw [ht] at hj hmm hst hft hbytes
      have hbytes := hbytes (.inl rfl)
      rw [hkey.1, hkey.2] at hbytes
      exact ⟨_, (he t ((fetchNext_poisoned key ch s hmeet hlong hch).trans ht)).trans (congrArg _ (hstill t hj hmm)), hst, hft, hbytes⟩
    · have hread := fetchNext_read key s hmeet hlong hclean
      dsimp only at hread
      refine ⟨fun hlen => ?_, fun hlen hshort => ?_, fun hlen hwhole => ?_⟩
      · rw [if_pos hlen] at hread
        obtain ⟨hj, hmm, hst, hft, hbytes⟩ := stopRing_facts key (readHdr header) (fails BAD_LENGTH 255) false s hmeet hm hw
        obtain ⟨t, ht⟩ : ∃ t, stopRing key (readHdr header) (fails BAD_LENGTH 255) false s = t := ⟨_, rfl⟩
        rw [ht] at hj hmm hst hft hbytes
        rw [hkey.1, hkey.2] at hbytes
        exact ⟨_, (he t (hread.trans ht)).trans (congrArg _ (hstill t hj hmm)), hst, hft, fun h => hbytes (.inr h)⟩
      · rw [if_neg hlen, if_pos hshort] at hread
        exact hsame hread
      · rw [if_neg hlen, if_neg (Nat.not_lt.2 hwhole)] at hread
        obtain ⟨hbad, hblocked, hfree⟩ := fetchNext_whole key s i next bad hmeet hm hw
          (hread.trans (fetchPacket_eq key b _ s i next hmeet rfl rfl))
        obtain ⟨t, ht⟩ : ∃ t, fetchNext key s = t := ⟨_, rfl⟩
        have het := he t ht
        rw [ht] at hbad hblocked hfree
        refine ⟨fun x hx => ?_, fun hx hbl => ?_, fun hx hbl => ?_⟩
        · have hturn := hbad x hx
          have hring := ringOf_fetched key next s
          have hj : t.gz.jobs = s.gz.jobs := hturn.jobs
          have hrt := hturn.ring
          have hbytes := hturn.bytes
          rw [hring] at hrt hbytes
          rw [hkey.1, hkey.2] at hbytes
          refine ⟨_, het.trans (congrArg _ (hstill t hj hturn.mm)), ⟨congrArg Ring.replyTail hrt, hbytes⟩, congrArg Ring.fetch hrt, hj⟩
        · obtain ⟨hft, hj, hmm, hwait⟩ := hblocked hx hbl
          exact ⟨_, het.trans (congrArg _ (hstill t hj hmm)), hft, hj, hwait⟩
        · rw [het, hfree hx hbl]
          rfl
  case dispatch =>
    intro u e
    refine ⟨fun hc hb hnone => ?_, fun x p rest hx hwait hp => ?_⟩
    · show execPacketDispatch unit part {} s = _
      unfold execPacketDispatch
      dsimp only
      rw [hnone, chooseRing]
      exact congrArg _ (goOn_still _ s (still_of_idle s hb hc.1))
    · intro s1
      have hhead := dispatchHead_parsed x.1 (serve s u part.toNat x.1) p rest hwait hp
      show execPacketDispatch unit part {} s = _
      unfold execPacketDispatch
      dsimp only
      rw [hx]
      dsimp only
      rw [hhead]
  case ready =>
    intro pre e
    obtain ⟨hready, hnot⟩ := startReady_facts s j hc.1 hp
    have he : e = .next (goOn s.gz.nextJob ((s.gz.jobs.filter (fun j => j.phase == .waitReady &&
        (((preOf s j.cmd).ready ++ sidesOf (preOf s j.cmd)).contains unit.toNat || j.unit = unit.toNat))).foldl (startReady {}) s)) := rfl
    rw [hc.1] at he
    refine ⟨fun hin hr => ?_, fun hr _ => ?_⟩
    · rw [List.filter_cons_of_pos (by rw [hp]; simp only [beq_self_eq_true, Bool.true_and, Bool.or_eq_true]; exact .inl hin), List.filter_nil, List.foldl_cons, List.foldl_nil,
        hready hr] at he
      exact he
    · have hfold : ∀ l : List Job, (∀ k ∈ l, k = j) → l.foldl (startReady {}) s = s := by
        intro l hl
        induction l with
        | nil => rfl
        | cons k l ih =>
          rw [List.foldl_cons, hl k List.mem_cons_self, hnot hr]
          exact ih fun k hk => hl k (List.mem_cons_of_mem _ hk)
      rw [hfold _ fun k hk => List.mem_singleton.1 (List.mem_filter.1 hk).1] at he
      exact he.trans (congrArg _ (goOn_still _ s (still_of_one s j hb hc.1 (.inr hp))))

end Sys2Proof.Proofs
end

section
/-! PROOFS. Drovers: what stores leave of them, their steps and stops, and the instructions of O38 (11 R286-R294). -/

namespace Sys2Proof.Proofs

open Sys2Proof Sys2Proof.Machine Sys2Proof.Laws

/-! ## What a store leaves of a drover -/

/-- Of each drover at most its reservation has changed. -/
def SameDrovers (s t : State) : Prop := ∀ n, ∃ r, droverOf t n = { droverOf s n with resv := r }

theorem SameDrovers.refl (s : State) : SameDrovers s s := fun _ => ⟨_, rfl⟩

theorem SameDrovers.of_drv {s t : State} (h : t.drv = s.drv) : SameDrovers s t := fun n => ⟨_, by rw [droverOf, h]; rfl⟩

theorem SameDrovers.trans {s t u : State} (h : SameDrovers s t) (k : SameDrovers t u) : SameDrovers s u := fun n => by
  obtain ⟨r, hr⟩ := h n
  obtain ⟨r', hr'⟩ := k n
  exact ⟨r', by rw [hr', hr]⟩

/-- A table whose entries change one by one reads as changed. -/
theorem amGet_map {α : Type} (d : α) (g : Nat × α → Nat × α) (m : AMap α) (n : Nat) (hkey : ∀ e, (g e).1 = e.1) :
    amGet d (m.map g) n = amGet d m n ∨ ∃ e ∈ m, e.1 = n ∧ amGet d m n = e.2 ∧ amGet d (m.map g) n = (g e).2 := by
  induction m with
  | nil => exact .inl rfl
  | cons e m ih =>
    obtain ⟨k, v⟩ := e
    have hg : g (k, v) = (k, (g (k, v)).2) := Prod.ext (hkey (k, v)) rfl
    rw [List.map_cons, hg]
    unfold amGet
    by_cases h : n = k
    · rw [if_pos h, if_pos h]
      exact .inr ⟨(k, v), List.mem_cons_self, h.symm, rfl, rfl⟩
    · rw [if_neg h, if_neg h]
      exact ih.imp_right fun ⟨e, he, h'⟩ => ⟨e, List.mem_cons_of_mem _ he, h'⟩

theorem breakResv_sameDrovers (s : State) (a n : Nat) : SameDrovers s (breakResv s a n) := by
  intro x
  unfold breakResv
  split
  · set g : Nat × Drover → Nat × Drover := fun d => match d.2.resv with
      | some r => if a < r + 8 && r < a + n then (d.1, { d.2 with resv := none }) else d
      | none => d with hg
    have hkey : ∀ e, (g e).1 = e.1 := fun e => by
      simp only [hg]
      split
      · split <;> rfl
      · rfl
    have hval : ∀ e, ∃ r, (g e).2 = { e.2 with resv := r } := fun e => by
      simp only [hg]
      split
      · split
        · exact ⟨none, rfl⟩
        · exact ⟨_, rfl⟩
      · exact ⟨_, rfl⟩
    show ∃ r, amGet {} (s.drv.map g) x = { amGet {} s.drv x with resv := r }
    obtain h | ⟨e, -, -, he, h⟩ := amGet_map {} g s.drv x hkey
    · exact ⟨_, by rw [h]⟩
    · obtain ⟨r, hr⟩ := hval e
      exact ⟨r, by rw [h, hr, he]⟩
  · exact ⟨_, rfl⟩

theorem monitors_drv (s : State) (w : Who) (a n : Nat) (h : s.sig.waiters = []) : (monitors s w a n).drv = s.drv := by
  have fold : ∀ (l : List Nat) (s : State), s.sig.waiters = [] → (l.foldl (fun s x => wake (track s w x) x) s).drv = s.drv := by
    intro l
    induction l with
    | nil => exact fun _ _ => rfl
    | cons x l ih =>
      intro s hs
      rw [List.foldl_cons, wake_of_no_waiters (track s w x) x hs]
      exact ih (track s w x) hs
  unfold monitors
  split
  · rfl
  · exact fold _ s h

theorem storeNow_sameDrovers (s : State) (w : Who) (a : Nat) (bs : List Byte) (h : s.sig.waiters = []) :
    SameDrovers s (storeNow s w a bs) := by
  unfold storeNow
  dsimp only
  refine SameDrovers.trans ?_ (.of_drv (monitors_drv _ w a bs.length ((breakResv_calmOnly _ a bs.length).waiters h)))
  exact breakResv_sameDrovers _ a bs.length

theorem storeLazy_sameDrovers (s : State) (w : Who) (a : Nat) (bs : List Byte) (h : s.sig.waiters = []) :
    SameDrovers s (storeLazy s w a bs) := by
  unfold storeLazy
  split
  · exact .refl s
  · exact storeNow_sameDrovers _ w a bs h

theorem charge_drv (u pts : Nat) (s : State) : (charge u pts s).drv = s.drv := by
  obtain ⟨-, -, -, -, -, -, -, -, -, -, -, -, h, -⟩ := charge_frame u pts s
  exact h

theorem writeDone_sameDrovers (s : State) (key job : Nat) (h : Hdr) (hw : s.sig.waiters = []) : SameDrovers s (writeDone s key job h) := by
  obtain hd | ⟨-, w, hd⟩ := writeDone_cases s key job h
  · rw [hd]
    exact .refl s
  · rw [hd]
    exact storeNow_sameDrovers _ _ _ _ hw

theorem replyWritten_sameDrovers (s : State) (j : Job) (e : End) (hw : s.sig.waiters = []) :
    SameDrovers s (replyWritten s j e) ∧ (replyWritten s j e).sig.waiters = [] := by
  unfold replyWritten
  split
  · exact ⟨storeNow_sameDrovers _ _ _ _ hw, (storeNow_calmOnly _ _ _ _ hw).waiters hw⟩
  · exact ⟨.refl s, hw⟩

/-- The end of a command breaks reservations at most. -/
theorem finish_sameDrovers (s : State) (j : Job) (e : End) (hw : s.sig.waiters = []) : SameDrovers s (finish s j e) := by
  rw [finish_eq]
  obtain ⟨hr, hw'⟩ := replyWritten_sameDrovers s j e hw
  refine hr.trans (SameDrovers.trans ?_ (.of_drv (charge_drv ..)))
  exact writeDone_sameDrovers (unreserve (replyWritten s j e) j.ring) _ _ _ hw'

/-- The end of the one command in flight breaks reservations at most. -/
theorem settle_ended_drovers (s : State) (j : Job) (e : End) (hj : s.gz.jobs = [j]) (hp : j.phase = .ending e) (hw : s.sig.waiters = []) :
    SameDrovers s (settle s) := by
  rw [settle_ended s j e hj hp]
  obtain ⟨un, hl⟩ := leaving_eq s j e
  rw [hl]
  exact finish_sameDrovers _ j e hw

/-! ## Steps -/

/-- What no command in flight notices. -/
theorem quiet_of_same {s t : State} (h : Quiet s) (hj : t.gz.jobs = s.gz.jobs) (hl : t.link = s.link) : Quiet t := by
  have hended : ∀ j, ended t j = ended s j := fun j => by
    unfold ended portTestEnd portOf
    rw [hj, hl]
  have hfirst : ∀ l, firstEnded t l = firstEnded s l := by
    intro l
    induction l with
    | nil => rfl
    | cons j l ih => rw [firstEnded, firstEnded, hended, ih]
  unfold Quiet
  rw [hj, hfirst]
  exact h

/-- Work of a drover that no command in flight notices. -/
structure DroverWork (s t : State) : Prop where
  jobs : t.gz.jobs = s.gz.jobs
  link : t.link = s.link

theorem DroverWork.refl (s : State) : DroverWork s s := ⟨rfl, rfl⟩

theorem DroverWork.trans {s t u : State} (h : DroverWork s t) (k : DroverWork t u) : DroverWork s u :=
  ⟨k.jobs.trans h.jobs, k.link.trans h.link⟩

theorem DroverWork.settle {s t : State} (h : DroverWork s t) (hq : Quiet s) : settle t = passed t :=
  settle_quiet t (quiet_of_same hq h.jobs h.link)

theorem event_droverWork (s : State) (u code c k : Nat) : DroverWork s (event s u code c k) := by
  obtain ⟨x, hx⟩ := event_eq s u code c k
  rw [hx]
  exact ⟨rfl, rfl⟩

theorem drvNext_droverWork (n : Nat) (j : Job) (len : Nat) (vec : Bool) (s : State) : DroverWork s (drvNext n j len vec s) := by
  unfold drvNext
  dsimp only
  have h1 : DroverWork s (event (count (modDrover s n (fun d => { d with pc := (d.pc + len) % 2 ^ 64 })) (drvUnit n) 0x18 1)
      (drvUnit n) 0x3001 (j.ring / 256) 1) := by
    refine DroverWork.trans ?_ (event_droverWork ..)
    exact ⟨rfl, rfl⟩
  split
  · exact h1.trans (event_droverWork ..)
  · exact h1

theorem setX_droverWork (n r v : Nat) (s : State) : DroverWork s (setX n r v s) := by
  unfold setX
  split
  · exact .refl s
  · exact ⟨rfl, rfl⟩

theorem modDrover_droverWork (s : State) (n : Nat) (f : Drover → Drover) : DroverWork s (modDrover s n f) := ⟨rfl, rfl⟩

theorem storeLazy_droverWork (s : State) (w : Who) (a : Nat) (bs : List Byte) (hw : s.sig.waiters = []) :
    DroverWork s (storeLazy s w a bs) := by
  obtain ⟨hg, -⟩ := storeLazy_calm s w a bs hw
  refine ⟨congrArg GelozSt.jobs hg, ?_⟩
  obtain ⟨-, -, -, -, -, -, -, -, -, -, -, -, hl, -⟩ := storeLazy_frame s w a bs
  exact hl

/-- A step of a drover that runs. -/
theorem drvStep_runs (n : Nat) (f : Job → State → State × Option Trap) (s : State) (j : Job) (h : Runs s n j) :
    drvStep n f s = match f j s with
      | (s, none) => s
      | (s, some t) => drvStop n t.e t.cause t.addr s := by
  obtain ⟨hj, hf, hw⟩ := h
  unfold drvStep
  rw [hj]
  dsimp only
  rw [hf, hw, if_neg (by decide)] <;> rfl

theorem drvStep_goes (n : Nat) (f : Job → State → State × Option Trap) (s t : State) (j : Job) (h : Runs s n j)
    (hf : f j s = (t, none)) : drvStep n f s = t := by
  rw [drvStep_runs n f s j h, hf]

theorem drvStep_traps (n : Nat) (f : Job → State → State × Option Trap) (s t : State) (tr : Trap) (j : Job) (h : Runs s n j)
    (hf : f j s = (t, some tr)) : drvStep n f s = drvStop n tr.e tr.cause tr.addr t := by
  rw [drvStep_runs n f s j h, hf]

/-! ## The end of a launch (11 R293, R294) -/

/-- Freeing drovers: no command, no ring and no byte changes, no waiter comes. -/
structure Frees (s t : State) : Prop where
  jobs : t.gz.jobs = s.gz.jobs
  rings : t.gz.rings = s.gz.rings
  mem : t.mem = s.mem
  now : t.now = s.now
  waiters : s.sig.waiters = [] → t.sig.waiters = []

theorem Frees.refl (s : State) : Frees s s := ⟨rfl, rfl, rfl, rfl, id⟩

theorem Frees.trans {s t u : State} (h : Frees s t) (k : Frees t u) : Frees s u :=
  ⟨k.jobs.trans h.jobs, k.rings.trans h.rings, k.mem.trans h.mem, k.now.trans h.now, fun hw => k.waiters (h.waiters hw)⟩

theorem freeDrover_frees (j : Job) (status n : Nat) (s : State) : Frees s (freeDrover j status n s) :=
  ⟨rfl, rfl, rfl, rfl, fun h => by
    show s.sig.waiters.filter _ = []
    rw [h]
    rfl⟩

theorem job_freeDrover (j : Job) (status n m : Nat) (s : State) (h : m = n ∨ (droverOf s m).job = none) :
    (droverOf (freeDrover j status n s) m).job = none := by
  have heq : ∃ x : DrvLast, droverOf (freeDrover j status n s) m =
      if m = n then { drvNote x (droverOf s n) with job := none, waiting := false, resv := none } else droverOf s m :=
    ⟨_, droverOf_modDrover s n m (fun d => { drvNote _ d with job := none, waiting := false, resv := none })⟩
  obtain ⟨x, heq⟩ := heq
  rw [heq]
  split
  · rfl
  · next hne => exact h.resolve_left hne

theorem freeDrovers_facts (j : Job) (status : Nat) (ns : List Nat) (s : State) :
    Frees s (freeDrovers j status ns s) ∧
    ∀ m, (m ∈ ns ∨ (droverOf s m).job = none) → (droverOf (freeDrovers j status ns s) m).job = none := by
  induction ns generalizing s with
  | nil => exact ⟨.refl s, fun m h => h.resolve_left List.not_mem_nil⟩
  | cons n ns ih =>
    obtain ⟨hfree, hjob⟩ := ih (freeDrover j status n s)
    refine ⟨(freeDrover_frees j status n s).trans hfree, fun m hm => hjob m ?_⟩
    obtain hm | hm := hm
    · obtain rfl | hm := List.mem_cons.1 hm
      · exact .inr (job_freeDrover j status m m s (.inl rfl))
      · exact .inl hm
    · exact .inr (job_freeDrover j status n m s (.inr hm))

/-- The end that a launch's command takes from an end of its drovers (05 R138; 11 R293). -/
def launchEnd (s : State) (j : Job) (p : PDrvLaunch) (e : End) : End :=
  { e with
    checks := launchChecks s (drvSet (uDie j.unit) p), replays := j.replays
    record := [(0x58, launchChecks s (drvSet (uDie j.unit) p))] }

/-- The end of the one command in flight, a launch. -/
theorem endLaunch_facts (s : State) (j : Job) (p : PDrvLaunch) (e : End) (hc : Calm s [j]) (hp : launchOf j = some p) :
    let t := endLaunch j e s
    t.gz.jobs = [{ j with phase := .ending (launchEnd s j p e) }] ∧ t.gz.rings = s.gz.rings ∧ t.mem = s.mem ∧ t.now = s.now ∧
    t.sig.waiters = [] ∧ ∀ m ∈ drvSet (uDie j.unit) p, (droverOf t m).job = none := by
  intro t
  obtain ⟨hfree, hjob⟩ := freeDrovers_facts j e.status (drvSet (uDie j.unit) p) s
  set x := freeDrovers j e.status (drvSet (uDie j.unit) p) s with hx
  have hy : ∃ y, y = (if e.status = DONE then (drvSet (uDie j.unit) p).foldl (fun s n => count s (uid 3 (uDie j.unit) (n % 64)) 0x10 1) x else x) ∧
      Frees x y ∧ y.drv = x.drv := by
    refine ⟨_, rfl, ?_⟩
    have hfold : ∀ (l : List Nat) (s : State), Frees s (l.foldl (fun s n => count s (uid 3 (uDie j.unit) (n % 64)) 0x10 1) s) ∧
        (l.foldl (fun s n => count s (uid 3 (uDie j.unit) (n % 64)) 0x10 1) s).drv = s.drv := by
      intro l
      induction l with
      | nil => exact fun s => ⟨.refl s, rfl⟩
      | cons n l ih =>
        intro s
        obtain ⟨h1, h2⟩ := ih (count s (uid 3 (uDie j.unit) (n % 64)) 0x10 1)
        exact ⟨Frees.trans (t := count s (uid 3 (uDie j.unit) (n % 64)) 0x10 1) ⟨rfl, rfl, rfl, rfl, id⟩ h1, h2⟩
    split
    · exact hfold _ x
    · exact ⟨.refl x, rfl⟩
  obtain ⟨y, hy, hfreey, hdrv⟩ := hy
  have hf := hfree.trans hfreey
  have hjobs := hf.jobs.trans hc.1
  have hone : (endJob y j.id (launchEnd s j p e)).gz.jobs = [{ j with phase := .ending (launchEnd s j p e) }] :=
    jobs_endJob_one y j _ hjobs
  have ht : t = endJob y j.id (launchEnd s j p e) := by
    have hpump := pumpDrovers_rests (uDie j.unit) (endJob y j.id (launchEnd s j p e)) (by rw [hone]; simpa using rests_ending rfl)
    refine Eq.trans ?_ hpump
    show endLaunch j e s = _
    unfold endLaunch launchEnd
    rw [hp]
    dsimp only
    rw [← hx, ← hy, jobOf_one hjobs, Option.getD_some]
  rw [ht]
  refine ⟨hone, hf.rings, hf.mem, hf.now, hf.waiters hc.2.2, fun m hm => ?_⟩
  show (amGet {} y.drv m).job = none
  rw [hdrv]
  exact hjob m (.inl hm)

/-- What a stop of a drover leaves: the launch is answered, and the drover's record holds the cause (11 R294, R295). -/
theorem drvStop_facts (n : Nat) (e : End) (cause addr : Nat) (s : State) (j : Job) (p : PDrvLaunch) (hr : Runs s n j) (hc : Calm s [j])
    (hp : launchOf j = some p) :
    Answered s (settle (drvStop n e cause addr s)) j (launchEnd s j p e) ∧
    (droverOf (settle (drvStop n e cause addr s)) n).last.head?.map (fun x => (x.cause, x.pc, x.addr)) =
      some (cause, (droverOf s n).pc, addr) := by
  obtain ⟨hjobs, hrings, hmem, hnow, hw, -⟩ := endLaunch_facts s j p e hc hp
  obtain ⟨x, hx⟩ : ∃ x : DrvLast, x.cause = cause ∧ x.pc = (droverOf s n).pc ∧ x.addr = addr ∧
      drvStop n e cause addr s = modDrover (endLaunch j e s) n (drvNote x) := by
    refine ⟨{ ctx := j.ring / 256, status := e.status, seq := (hdrOf j.cmd).seq.toNat, cause := cause, pc := (droverOf s n).pc, addr := addr },
      rfl, rfl, rfl, ?_⟩
    unfold drvStop
    rw [hr.1]
  obtain ⟨hcause, hpc, haddr, hstop⟩ := hx
  rw [hstop]
  set t := modDrover (endLaunch j e s) n (drvNote x) with ht
  have htj : t.gz.jobs = [{ j with phase := .ending (launchEnd s j p e) }] := hjobs
  have htw : t.sig.waiters = [] := hw
  refine ⟨answered_settle htj rfl (by rw [show t.mem = s.mem from hmem]; exact hc.2.1) htw (.of_rings hrings _) hnow ⟨rfl, rfl, rfl, rfl, rfl⟩, ?_⟩
  obtain ⟨r, hd⟩ := settle_ended_drovers t _ _ htj rfl htw n
  have hself : droverOf t n = drvNote x (droverOf (endLaunch j e s) n) := (droverOf_modDrover ..).trans (if_pos rfl)
  rw [hd, hself]
  show some (x.cause, x.pc, x.addr) = _
  rw [hcause, hpc, haddr]

/-! ## Instructions (11 R286) -/

/-- A checked instruction that does not mismatch is counted (05 R138). -/
def drvChecked (k : Nat) (s : State) : State := count (modDrover s k (fun d => { d with checks := d.checks + 1 })) (drvUnit k) 0x28 1

theorem residue_ok (k : Nat) (j : Job) (f : Faults) (s : State) (hf : f.mismatch = 0) : residue k j f s = (drvChecked k s, none) := by
  unfold residue
  dsimp only
  rw [if_pos hf]
  rfl

theorem xr_drvChecked (k r : Nat) (s : State) : xr (droverOf (drvChecked k s) k) r = xr (droverOf s k) r := by
  have h : droverOf (drvChecked k s) k = { droverOf s k with checks := (droverOf s k).checks + 1 } :=
    (droverOf_modDrover s k k (fun d => { d with checks := d.checks + 1 })).trans (if_pos rfl)
  rw [h]
  rfl

/-- An instruction that runs to its end (11 R286). -/
theorem drvInstr_goes (k : Nat) (f : Faults) (j : Job) (s t u : State) (i len : Nat) (fl : Flow) (hfetch : drvFetch s k j = .inr (i, len))
    (hchk : (if scalarChecked i || vecChecked i then residue k j f s else (s, none)) = (t, none))
    (hrun : drvRun k j f i len t = ((u, none), fl)) :
    drvInstr k f j s = (drvRetire k j len (isVector i) fl u, none) := by
  unfold drvInstr
  rw [hfetch]
  dsimp only
  rw [hchk]
  dsimp only
  rw [hrun]

theorem drvRun_scalar (k : Nat) (j : Job) (f : Faults) (i len : Nat) (s : State) (r : DRes × Flow) (h : scalar k j f i len s = some r) :
    drvRun k j f i len s = r := by
  unfold drvRun
  rw [h]

/-- What an integer instruction makes of its value. -/
def intResult (k rd : Nat) (v : Option Nat) (s : State) : DRes :=
  match v with
  | some v => (setX k rd v s, none)
  | none => bad s

/-- An integer instruction of OP-IMM or OP writes its value. -/
theorem scalar_intOp (k : Nat) (j : Job) (f : Faults) (i len : Nat) (s : State) (hop : i % 128 = 0x13 ∨ i % 128 = 0x33) :
    scalar k j f i len s = some (intResult k (rdOf i) (intOp (droverOf s k) i) s, .next) := by
  unfold scalar
  dsimp only
  obtain hop | hop := hop <;> rw [hop] <;> rfl

theorem intOp_addi (d : Drover) (i : Nat) (hop : i % 128 = 0x13) (h3 : f3Of i = 0) :
    intOp d i = some ((xr d (rs1Of i) + immI i) % 2 ^ 64) := by
  unfold intOp
  dsimp only
  rw [hop, h3] <;> rfl

theorem intOp_add (d : Drover) (i : Nat) (hop : i % 128 = 0x33) (h3 : f3Of i = 0) (h7 : f7Of i = 0) :
    intOp d i = some ((xr d (rs1Of i) + xr d (rs2Of i)) % 2 ^ 64) := by
  unfold intOp
  dsimp only
  rw [hop, h3, h7] <;> rfl

theorem drvRetire_next (k : Nat) (j : Job) (len : Nat) (s : State) : drvRetire k j len false .next s = drvNext k j len false s := rfl

/-- A checked addition (11 R286; 05 R138). -/
theorem exec_addition (die : CDie) (n : BitVec 6) (f : Faults) (s : State) (j : Job) (i len v : Nat)
    (hr : Runs s (drvKey die.val n.toNat) j) (hq : Quiet s) (hf : f.mismatch = 0)
    (hfetch : drvFetch s (drvKey die.val n.toNat) j = .inr (i, len)) (hop : i % 128 = 0x13 ∨ i % 128 = 0x33)
    (hchk : scalarChecked i = true) (hvec : isVector i = false)
    (hv : intOp (droverOf (drvChecked (drvKey die.val n.toNat) s) (drvKey die.val n.toNat)) i = some v) :
    exec (.droverInstruction die n f) s = .next (passed (drvNext (drvKey die.val n.toNat) j len false
      (setX (drvKey die.val n.toNat) (rdOf i) v (drvChecked (drvKey die.val n.toNat) s)))) := by
  have hgo := drvInstr_goes (drvKey die.val n.toNat) f j s (drvChecked (drvKey die.val n.toNat) s) _ i len .next hfetch
    (by rw [hchk, Bool.true_or, if_pos rfl]; exact residue_ok _ j f s hf)
    (drvRun_scalar _ j f i len _ _ ((scalar_intOp _ j f i len _ hop).trans (by rw [hv] <;> rfl)))
  rw [hvec, drvRetire_next] at hgo
  have he : exec (.droverInstruction die n f) s = .next (settle (drvStep (drvKey die.val n.toNat) (drvInstr (drvKey die.val n.toNat) f) s)) := rfl
  rw [he, drvStep_goes _ _ _ _ j hr hgo]
  refine congrArg _ (DroverWork.settle ?_ hq)
  exact DroverWork.trans (t := drvChecked (drvKey die.val n.toNat) s) ⟨rfl, rfl⟩ ((setX_droverWork ..).trans (drvNext_droverWork ..))

/-- An instruction that is not checked. -/
theorem exec_unchecked (die : CDie) (n : BitVec 6) (f : Faults) (s u : State) (j : Job) (i len : Nat) (fl : Flow)
    (hr : Runs s (drvKey die.val n.toNat) j) (hq : Quiet s)
    (hfetch : drvFetch s (drvKey die.val n.toNat) j = .inr (i, len))
    (hchk : scalarChecked i = false) (hvc : vecChecked i = false) (hvec : isVector i = false)
    (hrun : scalar (drvKey die.val n.toNat) j f i len s = some ((u, none), fl))
    (hwork : DroverWork s (drvRetire (drvKey die.val n.toNat) j len false fl u)) :
    exec (.droverInstruction die n f) s = .next (passed (drvRetire (drvKey die.val n.toNat) j len false fl u)) := by
  have hgo := drvInstr_goes (drvKey die.val n.toNat) f j s s u i len fl hfetch
    (by rw [hchk, hvc]; rfl) (drvRun_scalar _ j f i len _ _ hrun)
  rw [hvec] at hgo
  have he : exec (.droverInstruction die n f) s = .next (settle (drvStep (drvKey die.val n.toNat) (drvInstr (drvKey die.val n.toNat) f) s)) := rfl
  rw [he, drvStep_goes _ _ _ _ j hr hgo]
  exact congrArg _ (hwork.settle hq)

/-- An opcode other than those of vector instructions. -/
theorem not_vector (i op : Nat) (hop : i % 128 = op) (h : op ≠ 0x57 ∧ op ≠ 0x07 ∧ op ≠ 0x27) :
    isVector i = false ∧ vecChecked i = false := by
  unfold isVector vecChecked
  simp [hop, h]

theorem sext_64 (v : Nat) : sext 64 64 v % 2 ^ 64 = v % 2 ^ 64 := by
  unfold sext ofInt toInt
  split <;> omega

theorem setX_mod (k r v w : Nat) (s : State) (h : v % 2 ^ 64 = w % 2 ^ 64) : setX k r v s = setX k r w s := by
  unfold setX
  rw [h]

/-- Settles O38: the fetched word by its opcode, a failed fetch by the stop of its launch. -/
theorem droversExecuteInstructions : Obligations.DroversExecuteInstructions := by
  intro die n f s j k d cmd checked hr hq hw hmis hhit
  refine ⟨fun i len hfetch => ⟨fun hop h3 => ?addi, fun hop h3 h7 => ?add, fun v hop h3 hv => ?ld, fun hop h3 => ?sd, fun hop h3 => ?beq⟩,
    fun tr p hfetch hc hp hl => ?trap⟩
  case addi =>
    have hv := intOp_addi (droverOf (drvChecked k s) k) i hop h3
    rw [xr_drvChecked] at hv
    exact exec_addition die n f s j i len _ hr hq hmis hfetch (.inl hop) (by unfold scalarChecked; rw [hop, h3] <;> rfl)
      (not_vector i _ hop (by decide)).1 hv
  case add =>
    have hv := intOp_add (droverOf (drvChecked k s) k) i hop h3 h7
    rw [xr_drvChecked, xr_drvChecked] at hv
    exact exec_addition die n f s j i len _ hr hq hmis hfetch (.inr hop) (by unfold scalarChecked; rw [hop, h3, h7] <;> rfl)
      (not_vector i _ hop (by decide)).1 hv
  case ld =>
    obtain ⟨hvec, hvc⟩ := not_vector i _ hop (by decide)
    have hrun : scalar k j f i len s = some ((setX k (rdOf i) v s, none), .next) := by
      have hload : execLoad k j f ((xr d (rs1Of i) + immI i) % 2 ^ 64) 8 (fun v => setX k (rdOf i) (sext 64 64 v)) s = (setX k (rdOf i) v s, none) := by
        unfold execLoad scratchLost
        rw [hhit, Option.isSome_none, Bool.false_and, Bool.false_and, if_neg (by decide), hv]
        exact congrArg (·, none) (setX_mod k _ _ _ s (sext_64 v))
      rw [← hload]
      unfold scalar
      dsimp only
      rw [hop, h3] <;> rfl
    exact exec_unchecked die n f s _ j i len .next hr hq hfetch (by unfold scalarChecked; rw [hop] <;> rfl) hvc hvec hrun
      (by rw [drvRetire_next]; exact (setX_droverWork ..).trans (drvNext_droverWork ..))
  case sd =>
    intro a hsink hcheck
    obtain ⟨hvec, hvc⟩ := not_vector i _ hop (by decide)
    have hrun : scalar k j f i len s = some ((storeLazy s (drvWho k j) a (leBytes 8 (xr d (rs2Of i))), none), .next) := by
      have hstore : execStore k j a 8 (xr d (rs2Of i)) s = (storeLazy s (drvWho k j) a (leBytes 8 (xr d (rs2Of i))), none) := by
        unfold execStore drvStore
        rw [hsink, if_neg (by decide), hcheck]
      rw [← hstore]
      unfold scalar
      dsimp only
      rw [hop, h3] <;> rfl
    exact exec_unchecked die n f s _ j i len .next hr hq hfetch (by unfold scalarChecked; rw [hop] <;> rfl) hvc hvec hrun
      (by rw [drvRetire_next]; exact (storeLazy_droverWork _ _ _ _ hw).trans (drvNext_droverWork ..))
  case beq =>
    obtain ⟨hvec, hvc⟩ := not_vector i _ hop (by decide)
    have hrun : scalar k j f i len s = some ((s, none),
        if xr d (rs1Of i) = xr d (rs2Of i) then .jump ((d.pc + immB i) % 2 ^ 64) else .next) := by
      unfold scalar branchTaken
      dsimp only
      rw [hop, h3]
      by_cases h : xr d (rs1Of i) = xr d (rs2Of i)
      · rw [if_pos h]
        show some ((s, none), if decide (xr d (rs1Of i) = xr d (rs2Of i)) = true then Flow.jump _ else Flow.next) = _
        rw [if_pos (decide_eq_true h)]
      · rw [if_neg h]
        show some ((s, none), if decide (xr d (rs1Of i) = xr d (rs2Of i)) = true then Flow.jump _ else Flow.next) = _
        rw [if_neg (by simpa using h)]
    have hnext := drvNext_droverWork k j len false s
    have hgo := exec_unchecked die n f s _ j i len _ hr hq hfetch (by unfold scalarChecked; rw [hop] <;> rfl) hvc hvec hrun (by
      split
      · exact hnext.trans (modDrover_droverWork ..)
      · exact hnext)
    rw [hgo]
    split <;> rfl
  case trap =>
    have hstep : drvStep k (drvInstr k f) s = drvStop k tr.e tr.cause tr.addr s :=
      drvStep_traps k _ s s tr j hr (by unfold drvInstr; rw [hfetch] <;> rfl)
    have he : exec cmd s = .next (settle (drvStep k (drvInstr k f) s)) := rfl
    rw [hstep] at he
    obtain ⟨hans, hlast⟩ := drvStop_facts k tr.e tr.cause tr.addr s j p hr hc hl
    exact ⟨_, he, hans, hlast⟩

end Sys2Proof.Proofs
end

section
/-! PROOFS. Vector stores of a drover: sink, mirror and memory (11 R300, R302). -/

namespace Sys2Proof.Proofs

open Sys2Proof Sys2Proof.Machine Sys2Proof.Laws

/-! ## Checks that a store keeps -/

theorem storeLazy_cleaner (s : State) (w : Who) (a : Nat) (bs : List Byte) : Cleaner s (storeLazy s w a bs) := by
  unfold storeLazy
  split
  · exact ⟨rfl, rfl, fun _ h => h, fun k hk => ⟨k, hk, rfl, fun _ h => h⟩⟩
  · obtain ⟨hc, hs, hp, hk⟩ := storeNow_cleaner { s with mem := { s.mem with unseen := ⟨w.unit, w.job, w.ring, a, bytesAt s a bs.length⟩ :: s.mem.unseen } } w a bs
    exact ⟨hc, hs, hp, hk⟩

theorem access_congr {s t : State} (hc : t.gz.ctxs = s.gz.ctxs) (hs : t.mem.sides = s.mem.sides) : access t = access s := by
  funext c u a n need
  unfold access ctxOf mapped sideOf
  rw [hc, hs]

/-- A place that a drover may write, it may write after any store (11 R291; 08 R241). -/
theorem drvCheck_write_keeps {s t : State} (h : Cleaner s t) (hc : t.gz.ctxs = s.gz.ctxs) (n : Nat) (j : Job) (a size : Nat) (al : Bool)
    (hs : drvCheck s n j a size pWrite al = none) : drvCheck t n j a size pWrite al = none := by
  have hpart : partialPoison s a size = none → partialPoison t a size = none := by
    unfold partialPoison
    split
    · exact id
    · dsimp only
      intro hnone
      have hhead : (if a % 32 = 0 && 32 ≤ size then none else poisonIn s (a / 32 * 32) 32) = none := by
        split at hnone
        · contradiction
        · next h => exact h
      rw [hhead] at hnone
      have hhead' : (if a % 32 = 0 && 32 ≤ size then none else poisonIn t (a / 32 * 32) 32) = none := by
        split
        · rfl
        · next hn =>
          rw [if_neg hn] at hhead
          exact poisonIn_cleaner h _ _ hhead
      rw [hhead']
      dsimp only at hnone ⊢
      split
      · rfl
      · next hn =>
        rw [if_neg hn] at hnone
        exact poisonIn_cleaner h _ _ hnone
  unfold drvCheck at hs ⊢
  rw [access_congr hc h.sides]
  split at hs
  · contradiction
  · next hal =>
    rw [if_neg hal]
    cases hacc : access s (j.ring / 256) (drvUnit n) a size pWrite with
    | some st =>
      rw [hacc] at hs
      contradiction
    | none =>
      rw [hacc] at hs
      dsimp only at hs ⊢
      rw [if_pos rfl] at hs ⊢
      cases hp : partialPoison s a size with
      | some ch =>
        rw [hp] at hs
        contradiction
      | none => rw [hpart hp]

theorem ctxs_storeLazy (s : State) (w : Who) (a : Nat) (bs : List Byte) : (storeLazy s w a bs).gz.ctxs = s.gz.ctxs :=
  ctxs_storeOnly (storeLazy_storeOnly s w a bs)

theorem mirrorAddr_sameDrovers {s t : State} (h : SameDrovers s t) (n a : Nat) : mirrorAddr (droverOf t n) a = mirrorAddr (droverOf s n) a := by
  obtain ⟨r, hr⟩ := h n
  rw [hr]
  rfl

/-! ## The elements of a vector store -/

theorem mem_unitElems (size : Nat) (vs : List Nat) (a : Nat) (e : Nat × Nat) (h : e ∈ unitElems a size vs) :
    ∃ i < vs.length, e.1 = a + i * size := by
  induction vs generalizing a with
  | nil => exact absurd h List.not_mem_nil
  | cons v vs ih =>
    obtain rfl | h := List.mem_cons.1 h
    · exact ⟨0, by simp, by simp⟩
    · obtain ⟨i, hi, he⟩ := ih (a + size) h
      exact ⟨i + 1, by simpa using hi, by rw [he, Nat.succ_mul]; omega⟩

theorem values_unitElems (size : Nat) (vs : List Nat) (a : Nat) : (unitElems a size vs).map (·.2) = vs := by
  induction vs generalizing a with
  | nil => rfl
  | cons v vs ih => rw [unitElems, List.map_cons, ih]

/-- Stores of elements that nothing stops. -/
theorem storeElems_plain (n : Nat) (j : Job) (size i : Nat) (es : List (Nat × Nat)) (s : State)
    (hes : ∀ e ∈ es, drvCheck s n j e.1 size pWrite true = none) :
    storeElems n j size false i es s = (es.foldl (fun s e => storeLazy s (drvWho n j) e.1 (leBytes size e.2)) s, none) := by
  induction es generalizing i s with
  | nil => rfl
  | cons e es ih =>
    have hnext := ih (i + 1) (storeLazy s (drvWho n j) e.1 (leBytes size e.2)) fun x hx =>
      drvCheck_write_keeps (storeLazy_cleaner ..) (ctxs_storeLazy ..) _ _ _ _ _ (hes x (List.mem_cons_of_mem _ hx))
    rw [List.foldl_cons, ← hnext]
    unfold storeElems
    dsimp only
    rw [hes e List.mem_cons_self, if_neg (by decide)]
    cases es <;> rfl

/-- The same, where each element is mirrored. -/
theorem storeElems_mirrored (n : Nat) (j : Job) (size i : Nat) (es : List (Nat × Nat)) (s : State) (hw : s.sig.waiters = [])
    (hes : ∀ e ∈ es, drvCheck s n j e.1 size pWrite true = none ∧
      drvCheck s n j (mirrorAddr (droverOf s n) e.1) size pWrite true = none) :
    storeElems n j size true i es s = (es.foldl (fun t e => storeLazy (storeLazy t (drvWho n j) e.1 (leBytes size e.2)) (drvWho n j)
      (mirrorAddr (droverOf s n) e.1) (leBytes size e.2)) s, none) := by
  induction es generalizing i s with
  | nil => rfl
  | cons e es ih =>
    set m := mirrorAddr (droverOf s n) e.1
    set x := storeLazy s (drvWho n j) e.1 (leBytes size e.2)
    have hwx : x.sig.waiters = [] := (storeLazy_calm s (drvWho n j) e.1 (leBytes size e.2) hw).2
    set y := storeLazy x (drvWho n j) m (leBytes size e.2)
    have hwy : y.sig.waiters = [] := (storeLazy_calm x (drvWho n j) m (leBytes size e.2) hwx).2
    have hmirror : ∀ a, mirrorAddr (droverOf y n) a = mirrorAddr (droverOf s n) a :=
      mirrorAddr_sameDrovers ((storeLazy_sameDrovers s _ _ _ hw).trans (storeLazy_sameDrovers x _ _ _ hwx)) n
    have hkeep : ∀ a, drvCheck s n j a size pWrite true = none → drvCheck y n j a size pWrite true = none := fun a ha =>
      drvCheck_write_keeps (storeLazy_cleaner ..) (ctxs_storeLazy ..) _ _ _ _ _
        (drvCheck_write_keeps (storeLazy_cleaner ..) (ctxs_storeLazy ..) _ _ _ _ _ ha)
    have hnext := ih (i + 1) y hwy fun e he => by
      rw [hmirror]
      obtain ⟨h1, h2⟩ := hes e (List.mem_cons_of_mem _ he)
      exact ⟨hkeep _ h1, hkeep _ h2⟩
    simp only [hmirror] at hnext
    obtain ⟨h1, h2⟩ := hes e List.mem_cons_self
    rw [List.foldl_cons]
    refine Eq.trans ?_ hnext
    unfold storeElems
    dsimp only
    rw [h1, if_pos rfl]
    dsimp only
    rw [h2]
    cases es <;> rfl

theorem storesFold_droverWork (f : State → Nat × Nat → State) (hf : ∀ s e, s.sig.waiters = [] → DroverWork s (f s e) ∧ (f s e).sig.waiters = [])
    (es : List (Nat × Nat)) (s : State) (hw : s.sig.waiters = []) : DroverWork s (es.foldl f s) := by
  induction es generalizing s with
  | nil => exact .refl s
  | cons e es ih =>
    obtain ⟨h1, h2⟩ := hf s e hw
    exact h1.trans (ih _ h2)

theorem storeLazy_droverStep (s : State) (w : Who) (a : Nat) (bs : List Byte) (hw : s.sig.waiters = []) :
    DroverWork s (storeLazy s w a bs) ∧ (storeLazy s w a bs).sig.waiters = [] :=
  ⟨storeLazy_droverWork s w a bs hw, (storeLazy_calm s w a bs hw).2⟩

/-! ## The sink -/

theorem inSink_iff (d : Drover) (n a : Nat) :
    inSink d n a = true ↔ bit d.statsink 15 = true ∧ scratchBase n + 0xFF000 ≤ a ∧ a < scratchBase n + 0x100000 := by
  simp [inSink, and_assoc]

/-- A store of FP32 elements into the enabled sink (11 R300). -/
theorem vecStore_sink (n : Nat) (j : Job) (off : Nat) (vs : List Nat) (s : State) (hon : bit (droverOf s n).statsink 15 = true)
    (hal : off % 4 = 0) (hne : vs ≠ []) (hlen : off + 4 * vs.length ≤ 4096) :
    vecStore n j 4 true (unitElems (scratchBase n + 0xFF000 + off) 4 vs) s = (sinkAdd n vs s, none) := by
  set es := unitElems (scratchBase n + 0xFF000 + off) 4 vs with hes
  have hplace : ∀ e ∈ es, ∃ i < vs.length, e.1 = scratchBase n + 0xFF000 + off + i * 4 := fun e he => mem_unitElems 4 vs _ e he
  have hin : ∀ e ∈ es, inSink (droverOf s n) n e.1 = true ∧ inSink (droverOf s n) n (e.1 + 3) = true := fun e he => by
    obtain ⟨i, hi, h⟩ := hplace e he
    exact ⟨(inSink_iff ..).2 ⟨hon, by omega, by omega⟩, (inSink_iff ..).2 ⟨hon, by omega, by omega⟩⟩
  have hany : es.any (fun e => meetsSink (droverOf s n) n e.1 4) = true := by
    cases hvs : vs with
    | nil => exact absurd hvs hne
    | cons v vs' =>
      have hmem : (scratchBase n + 0xFF000 + off, v) ∈ es := by
        rw [hes, hvs]
        exact List.mem_cons_self
      refine List.any_eq_true.2 ⟨_, hmem, ?_⟩
      unfold meetsSink
      rw [(hin _ hmem).1]
      rfl
  have hall : es.all (fun e => inSink (droverOf s n) n e.1 && inSink (droverOf s n) n (e.1 + 3)) = true :=
    List.all_eq_true.2 fun e he => by rw [(hin e he).1, (hin e he).2]; rfl
  have hfind : es.find? (fun e => e.1 % 4 != 0) = none := List.find?_eq_none.2 fun e he => by
    obtain ⟨i, hi, h⟩ := hplace e he
    have : scratchBase n % 4 = 0 := by
      unfold scratchBase
      omega
    simp only [bne_iff_ne, ne_eq, not_not]
    omega
  unfold vecStore
  dsimp only
  rw [if_pos hany, hall, if_pos (by decide), hfind]
  dsimp only
  rw [hes, values_unitElems]

/-- Settles O40: the branches of vecStore, the element stores by induction on the elements. -/
theorem vectorStoresFillSinkAndMirror : Obligations.VectorStoresFillSinkAndMirror := by
  intro die n s j k d w hr hq hw
  refine ⟨fun off elems hon hal hne hlen => ?sink, fun addr sew elems => ?mirror⟩
  case sink =>
    intro vs
    have hvec := vecStore_sink k j off.toNat (elems.map (·.toNat)) s hon hal (by simpa using hne) (by simpa using hlen)
    have hgo : (match vecStore k j 4 true (unitElems (scratchBase k + 0xFF000 + off.toNat) 4 (elems.map (·.toNat))) s with
        | (s, none) => (drvNext k j 4 true s, none)
        | r => r) = ((drvNext k j 4 true (sinkAdd k (elems.map (·.toNat)) s), none) : State × Option Trap) := by rw [hvec]
    have he : exec (.sinkStore die n off elems) s = .next (settle (drvNext k j 4 true (sinkAdd k (elems.map (·.toNat)) s))) :=
      congrArg (fun x => Host.Outcome.next (settle x)) (drvStep_goes k _ s _ j hr hgo)
    have hadd : sinkAdd k (elems.map (·.toNat)) s = modDrover s k (fun d => { d with
        sinkSq := w48Add d.sinkSq (sumSquares vs), sinkMax := maxAbs (d.sinkMax :: vs), sinkCount := d.sinkCount + elems.length }) := by
      unfold sinkAdd
      dsimp only
      rw [List.map_map, List.length_map]
      rfl
    rw [hadd] at he
    exact he.trans (congrArg _ (DroverWork.settle ((modDrover_droverWork ..).trans (drvNext_droverWork ..)) hq))
  case mirror =>
    intro size es rs mirror inWin hes
    have hno : es.any (fun e => meetsSink d k e.1 size) = false := by
      rw [List.any_eq_false]
      exact fun e he => by rw [(hes e he).1]; decide
    have hfinish : ∀ t, vecStore k j size true es s = (t, none) → DroverWork s t →
        exec (.mirrorStore die n addr sew elems) s = .next (passed (drvNext k j 4 true t)) := by
      intro t ht hwork
      have hgo : (match vecStore k j size true es s with
          | (s, none) => (drvNext k j 4 true s, none)
          | r => r) = ((drvNext k j 4 true t, none) : State × Option Trap) := by rw [ht]
      have he : exec (.mirrorStore die n addr sew elems) s = .next (settle (drvNext k j 4 true t)) :=
        congrArg (fun x => Host.Outcome.next (settle x)) (drvStep_goes k _ s _ j hr hgo)
      exact he.trans (congrArg _ ((hwork.trans (drvNext_droverWork ..)).settle hq))
    have hplain : DroverWork s (es.foldl (fun s e => storeLazy s w e.1 (leBytes size e.2)) s) :=
      storesFold_droverWork _ (fun s e h => storeLazy_droverStep s w e.1 _ h) es s hw
    have helse : (mirrorOn d && true && es.any (fun e => (decide (d.tmbase ≤ e.1) && decide (e.1 < d.tmbase + mirrorBytes d)) ||
        (decide (d.tmbase ≤ e.1 + size - 1) && decide (e.1 + size - 1 < d.tmbase + mirrorBytes d)))) = false →
        vecStore k j size true es s = (es.foldl (fun s e => storeLazy s w e.1 (leBytes size e.2)) s, none) := by
      intro h
      unfold vecStore
      dsimp only
      rw [if_neg (by rw [hno]; decide), if_neg (by rw [h]; decide)]
      exact storeElems_plain k j size 0 es s fun e he => (hes e he).2
    refine ⟨fun hon hsize hwin => ?_, fun hoff => ?_⟩
    · by_cases hnil : es = []
      · have hfold : ∀ f : State → Nat × Nat → State, es.foldl f s = s := fun f => by rw [hnil]; rfl
        have hz := helse (by rw [hnil, List.any_nil, Bool.and_false])
        rw [hfold] at hz ⊢
        exact hfinish s hz (.refl s)
      · obtain ⟨e0, hmem⟩ := List.exists_mem_of_ne_nil es hnil
        have hsz : mirrorSize d = size := hsize.symm
        have hm : ∀ a, mirrorAddr (droverOf s k) a = mirror a := fun a => by
          unfold mirrorAddr
          dsimp only
          rw [hsz]
        have hb : ∀ a, inWin a → (decide (d.tmbase ≤ a) && decide (a < d.tmbase + mirrorBytes d)) = true := fun a ha => by
          obtain ⟨h1, h2⟩ := ha
          simp only [Bool.and_eq_true, decide_eq_true_eq]
          exact ⟨h1, h2⟩
        have htouched : (mirrorOn d && true && es.any (fun e => (decide (d.tmbase ≤ e.1) && decide (e.1 < d.tmbase + mirrorBytes d)) ||
            (decide (d.tmbase ≤ e.1 + size - 1) && decide (e.1 + size - 1 < d.tmbase + mirrorBytes d)))) = true := by
          have hone : es.any (fun e => (decide (d.tmbase ≤ e.1) && decide (e.1 < d.tmbase + mirrorBytes d)) ||
              (decide (d.tmbase ≤ e.1 + size - 1) && decide (e.1 + size - 1 < d.tmbase + mirrorBytes d))) = true :=
            List.any_eq_true.2 ⟨e0, hmem, by rw [hb _ (hwin e0 hmem).1]; rfl⟩
          rw [hone, Bool.and_true, Bool.and_true]
          exact hon
        have hwhole : es.all (fun e => (decide (d.tmbase ≤ e.1) && decide (e.1 < d.tmbase + mirrorBytes d)) &&
            (decide (d.tmbase ≤ e.1 + size - 1) && decide (e.1 + size - 1 < d.tmbase + mirrorBytes d))) = true :=
          List.all_eq_true.2 fun e he => by
            obtain ⟨h1, h2, -⟩ := hwin e he
            rw [hb _ h1, hb _ h2]
            rfl
        have hvec : vecStore k j size true es s = (es.foldl (fun s e =>
            storeLazy (storeLazy s w e.1 (leBytes size e.2)) w (mirror e.1) (leBytes size e.2)) s, none) := by
          have hst := storeElems_mirrored k j size 0 es s hw fun e he => ⟨(hes e he).2, by rw [hm]; exact (hwin e he).2.2⟩
          simp only [hm] at hst
          rw [← hst]
          unfold vecStore
          dsimp only
          rw [if_neg (by rw [hno]; decide), if_pos htouched, if_pos (by rw [hwhole, Bool.true_and]; exact decide_eq_true hsz)]
        refine hfinish _ hvec (storesFold_droverWork _ (fun s e h => ?_) es s hw)
        obtain ⟨h1, h2⟩ := storeLazy_droverStep s w e.1 (leBytes size e.2) h
        obtain ⟨h3, h4⟩ := storeLazy_droverStep _ w (mirror e.1) (leBytes size e.2) h2
        exact ⟨h1.trans h3, h4⟩
    · refine hfinish _ (helse ?_) hplain
      obtain hoff | hoff := hoff
      · rw [show mirrorOn d = false from hoff]
        rfl
      · have hnone : es.any (fun e => (decide (d.tmbase ≤ e.1) && decide (e.1 < d.tmbase + mirrorBytes d)) ||
            (decide (d.tmbase ≤ e.1 + size - 1) && decide (e.1 + size - 1 < d.tmbase + mirrorBytes d))) = false := by
          rw [List.any_eq_false]
          intro e he h
          obtain ⟨h1, h2⟩ := hoff e he
          simp only [Bool.or_eq_true, Bool.and_eq_true, decide_eq_true_eq] at h
          exact h.elim h1 h2
        rw [hnone, Bool.and_false]

end Sys2Proof.Proofs
end

section
/-! PROOFS. The ends of drovers, their fences, waits on words and stat slots (10 R278, R282, R284; 11 R293, R294, R300). -/

namespace Sys2Proof.Proofs

open Sys2Proof Sys2Proof.Machine Sys2Proof.Laws

/-! ## Stat slots -/

/-- Work of the adder where nothing waits for a word: commands, rings and links are as they were, memory keeps its form, and of a
drover at most the reservation changes. -/
structure AdderWork (s t : State) : Prop where
  gz : t.gz = s.gz
  link : t.link = s.link
  now : t.now = s.now
  waiters : t.sig.waiters = []
  wf : Memory.wf s.mem.cells = true → Memory.wf t.mem.cells = true
  drovers : SameDrovers s t

theorem AdderWork.refl {s : State} (h : s.sig.waiters = []) : AdderWork s s := ⟨rfl, rfl, rfl, h, id, .refl s⟩

theorem AdderWork.trans {s t u : State} (h : AdderWork s t) (k : AdderWork t u) : AdderWork s u :=
  ⟨k.gz.trans h.gz, k.link.trans h.link, k.now.trans h.now, k.waiters, fun hm => k.wf (h.wf hm), h.drovers.trans k.drovers⟩

theorem storeLazy_adderWork (s : State) (w : Who) (a : Nat) (bs : List Byte) (hw : s.sig.waiters = []) :
    AdderWork s (storeLazy s w a bs) := by
  obtain ⟨hg, hw'⟩ := storeLazy_calm s w a bs hw
  obtain ⟨-, hnow, -, -, -, -, -, -, -, -, -, -, hl, -⟩ := storeLazy_frame s w a bs
  exact ⟨hg, hl, hnow, hw', storeLazy_wf s w a bs, storeLazy_sameDrovers s w a bs hw⟩

theorem event_adderWork (s : State) (u code ctx k : Nat) (hw : s.sig.waiters = []) : AdderWork s (event s u code ctx k) := by
  obtain ⟨c, hc⟩ := event_eq s u code ctx k
  rw [hc]
  exact ⟨rfl, rfl, rfl, hw, id, .of_drv rfl⟩

theorem adderEvent_adderWork (s : State) (a ctx : Nat) (ev : ConvEvent) (hw : s.sig.waiters = []) : AdderWork s (adderEvent s a ctx ev) := by
  unfold adderEvent
  split
  · exact event_adderWork _ _ _ _ _ hw
  · exact event_adderWork _ _ _ _ _ hw
  · exact .refl hw

theorem addFp32_adderWork (s : State) (w : Who) (a : Nat) (v : FVal) (hw : s.sig.waiters = []) : AdderWork s (addFp32 s w a v) := by
  have h := storeLazy_adderWork s w a
    (leBytes 4 (ffFP32.encode (ffFP32.round (fAdd (fp32Val (leNat (bytesAt s a 4))) (ffFP32.rnd v))).1)) hw
  exact h.trans (adderEvent_adderWork _ _ _ _ h.waiters)

theorem addInt64_adderWork (s : State) (w : Who) (a n : Nat) (hw : s.sig.waiters = []) : AdderWork s (addInt64 s w a n) := by
  unfold addInt64
  split
  · exact .refl hw
  · exact storeLazy_adderWork _ _ _ _ hw

theorem maxPair_adderWork (s : State) (w : Who) (a : Nat) (v : FVal) (idx : Nat) (hw : s.sig.waiters = []) :
    AdderWork s (maxPair s w a v idx) := by
  unfold maxPair
  dsimp only
  split
  · exact storeLazy_adderWork _ _ _ _ hw
  · exact .refl hw

theorem addEntries_adderWork (w : Who) (sl : Nat) (row : Bool) (es : List (Nat × FVal)) (s : State) (hw : s.sig.waiters = []) :
    AdderWork s (addEntries w sl row es s) := by
  induction es generalizing s with
  | nil => exact .refl hw
  | cons e es ih =>
    obtain ⟨a, v⟩ := e
    unfold addEntries
    cases mapIndex s sl a row with
    | some x =>
      have h := addFp32_adderWork s w x v hw
      exact h.trans (ih _ h.waiters)
    | none =>
      have h := addInt64_adderWork s w (sl + 0x18) 1 hw
      exact h.trans (ih _ h.waiters)

/-- What a producer's statistics leave alone (11 R298). -/
theorem statApply_adderWork (s : State) (w : Who) (slot : Nat) (st : StatAdd) (hw : s.sig.waiters = []) :
    AdderWork s (statApply s w slot st) := by
  unfold statApply
  split
  · exact .refl hw
  · split
    · exact .refl hw
    · next sl _ =>
      split
      · exact .refl hw
      · extract_lets s1 s2 s3 s4
        have h1 : AdderWork s s1 := by
          simp only [s1]
          split
          · exact addFp32_adderWork _ _ _ _ hw
          · exact .refl hw
        have h2 : AdderWork s s2 := by
          refine h1.trans ?_
          simp only [s2]
          split
          · exact maxPair_adderWork _ _ _ _ _ h1.waiters
          · exact .refl h1.waiters
        have h3 : AdderWork s s3 := h2.trans (addInt64_adderWork _ _ _ _ h2.waiters)
        have h4 : AdderWork s s4 := h3.trans (addEntries_adderWork _ _ _ _ _ h3.waiters)
        exact h4.trans (addEntries_adderWork _ _ _ _ _ h4.waiters)

/-- Of each drover at most the reservation and the running values of its sink have changed. -/
def SameButSink (s t : State) : Prop :=
  ∀ n, ∃ r a b c, droverOf t n = { droverOf s n with resv := r, sinkSq := a, sinkMax := b, sinkCount := c }

/-- The running values go to their slot (11 R300). -/
theorem flushSink_facts (n : Nat) (j : Job) (s : State) (hw : s.sig.waiters = []) :
    let t := flushSink n j s
    t.gz = s.gz ∧ t.link = s.link ∧ t.now = s.now ∧ t.sig.waiters = [] ∧
    (Memory.wf s.mem.cells = true → Memory.wf t.mem.cells = true) ∧ SameButSink s t := by
  intro t
  obtain ⟨x, hx, hwork⟩ : ∃ x, t = modDrover x n (fun d => { d with sinkSq := fZero, sinkMax := fZero, sinkCount := 0 }) ∧ AdderWork s x := by
    refine ⟨_, rfl, ?_⟩
    split
    · exact .refl hw
    · exact statApply_adderWork _ _ _ _ hw
  rw [hx]
  refine ⟨hwork.gz, hwork.link, hwork.now, hwork.waiters, hwork.wf, fun m => ?_⟩
  obtain ⟨r, hr⟩ := hwork.drovers m
  have hm := droverOf_modDrover x n m (fun d => { d with sinkSq := fZero, sinkMax := fZero, sinkCount := 0 })
  by_cases h : m = n
  · subst h
    rw [if_pos rfl] at hm
    exact ⟨r, fZero, fZero, 0, by rw [hm, hr]⟩
  · rw [if_neg h] at hm
    exact ⟨r, _, _, _, by rw [hm, hr]⟩

/-! ## Going on -/

theorem droverOf_event (s : State) (u code c k m : Nat) : droverOf (event s u code c k) m = droverOf s m := by
  obtain ⟨x, hx⟩ := event_eq s u code c k
  rw [hx]
  rfl

theorem droverOf_drvNext (n : Nat) (j : Job) (len : Nat) (vec : Bool) (s : State) (m : Nat) :
    droverOf (drvNext n j len vec s) m = if m = n then { droverOf s n with pc := ((droverOf s n).pc + len) % 2 ^ 64 } else droverOf s m := by
  unfold drvNext
  dsimp only
  have h := droverOf_modDrover s n m (fun d => { d with pc := (d.pc + len) % 2 ^ 64 })
  split
  · rw [droverOf_event, droverOf_event]
    exact h
  · rw [droverOf_event]
    exact h

theorem drvNext_rest (n : Nat) (j : Job) (len : Nat) (vec : Bool) (s : State) :
    (drvNext n j len vec s).gz = s.gz ∧ (drvNext n j len vec s).mem = s.mem ∧ (drvNext n j len vec s).sig = s.sig ∧
    (drvNext n j len vec s).now = s.now ∧ (drvNext n j len vec s).link = s.link := by
  unfold drvNext
  dsimp only
  obtain ⟨x, hx⟩ := event_eq (count (modDrover s n (fun d => { d with pc := (d.pc + len) % 2 ^ 64 })) (drvUnit n) 0x18 1) (drvUnit n)
    0x3001 (j.ring / 256) 1
  rw [hx]
  split
  · obtain ⟨y, hy⟩ := event_eq { count (modDrover s n (fun d => { d with pc := (d.pc + len) % 2 ^ 64 })) (drvUnit n) 0x18 1 with
      hw := { (count (modDrover s n (fun d => { d with pc := (d.pc + len) % 2 ^ 64 })) (drvUnit n) 0x18 1).hw with counters := x } }
      (drvUnit n) 0x3002 (j.ring / 256) 1
    rw [hy]
    exact ⟨rfl, rfl, rfl, rfl, rfl⟩
  · exact ⟨rfl, rfl, rfl, rfl, rfl⟩

theorem calm_of_parts {s t : State} {js : List Job} (h : Calm s js) (hg : t.gz = s.gz) (hm : t.mem = s.mem) (hs : t.sig = s.sig) : Calm t js := by
  obtain ⟨hj, hwf, hw⟩ := h
  exact ⟨by rw [hg]; exact hj, by rw [hm]; exact hwf, by rw [hs]; exact hw⟩

theorem quiet_launch {s : State} {j : Job} (hc : Calm s [j]) (hp : j.phase = .launch) : Quiet s :=
  quiet_one hc.1 (by unfold ended; rw [hp])

/-! ## Exit -/

/-- The state in which a drover has exited with its code, before its launch ends (11 R293, R295). -/
def exited (k : Nat) (j : Job) (code : Nat) (s : State) : State :=
  modDrover s k (fun d =>
    { drvNote { ctx := j.ring / 256, status := 0, seq := (hdrOf j.cmd).seq.toNat, exit := code } d with finished := true })

theorem drvExit_eq (k : Nat) (s : State) (j : Job) (p : PDrvLaunch) (hj : drvJob s k = some j) (hl : launchOf j = some p) :
    drvExit k s =
      let z := exited k j (xr (droverOf s k) 10) (flushSink k j s)
      if (drvSet (uDie j.unit) p).all (fun m => (droverOf z m).finished) then
        endLaunch j { done (((drvSet (uDie j.unit) p).map (fun m => amGet 0 (droverOf z m).x 10)).foldl max 0 % 2 ^ 32) with
          verdict := if ((jobOf z j.id).getD j).replays = 0 then 1 else 3 } z
      else z := by
  unfold drvExit
  rw [hj]
  dsimp only
  rw [hl] <;> rfl

/-- What a drover's exit has changed, beside the slot of its sink. -/
theorem exited_facts (k : Nat) (j : Job) (s : State) (hw : s.sig.waiters = []) :
    let s1 := flushSink k j (drvNext k j 4 false s)
    let z := exited k j (xr (droverOf s k) 10) s1
    z.gz = s.gz ∧ z.now = s.now ∧ z.link = s.link ∧ z.sig.waiters = [] ∧ z.mem = s1.mem ∧ s1.gz = s.gz ∧ s1.now = s.now ∧
    (Memory.wf s.mem.cells = true → Memory.wf z.mem.cells = true) ∧
    (∀ m, (droverOf z m).x = (droverOf s m).x ∧ (droverOf z m).checks = (droverOf s m).checks ∧
      (droverOf z m).finished = (m == k || (droverOf s m).finished)) ∧
    ((droverOf z k).last.find? (fun x => x.ctx == j.ring / 256)).map (·.exit) = some (xr (droverOf s k) 10) := by
  intro s1 z
  obtain ⟨hg, hm, hs, hn, hl⟩ := drvNext_rest k j 4 false s
  obtain ⟨hfg, hfl, hfn, hfw, hfwf, hfd⟩ := flushSink_facts k j (drvNext k j 4 false s) (by rw [hs]; exact hw)
  have hz : ∀ m, droverOf z m = if m = k then { drvNote { ctx := j.ring / 256, status := 0, seq := (hdrOf j.cmd).seq.toNat, exit := xr (droverOf s k) 10 } (droverOf s1 k) with finished := true } else droverOf s1 m :=
    fun m => droverOf_modDrover s1 k m (fun d =>
      { drvNote { ctx := j.ring / 256, status := 0, seq := (hdrOf j.cmd).seq.toNat, exit := xr (droverOf s k) 10 } d with finished := true })
  have hs1 : ∀ m, (droverOf s1 m).x = (droverOf s m).x ∧ (droverOf s1 m).checks = (droverOf s m).checks ∧
      (droverOf s1 m).finished = (droverOf s m).finished := fun m => by
    obtain ⟨r, a, b, c, h⟩ := hfd m
    have h' : droverOf s1 m = _ := h
    rw [h', droverOf_drvNext]
    by_cases hmk : m = k
    · rw [if_pos hmk, hmk]
      exact ⟨rfl, rfl, rfl⟩
    · rw [if_neg hmk]
      exact ⟨rfl, rfl, rfl⟩
  refine ⟨hfg.trans hg, hfn.trans hn, hfl.trans hl, hfw, rfl, hfg.trans hg, hfn.trans hn, fun h => hfwf (by rw [hm]; exact h), fun m => ?_, ?_⟩
  · rw [hz]
    obtain ⟨h1, h2, h3⟩ := hs1 m
    by_cases hmk : m = k
    · subst hmk
      rw [if_pos rfl]
      exact ⟨h1, h2, by simp⟩
    · rw [if_neg hmk]
      exact ⟨h1, h2, by rw [h3]; simp [hmk]⟩
  · rw [hz, if_pos rfl]
    show (List.find? _ (_ :: _)).map _ = _
    rw [List.find?_cons_of_pos (by simp)]
    rfl

theorem drvJob_drvNext (k : Nat) (j : Job) (s : State) (hr : Runs s k j) : drvJob (drvNext k j 4 false s) k = some j := by
  obtain ⟨hg, -⟩ := drvNext_rest k j 4 false s
  have hj := hr.1
  unfold drvJob jobOf at hj ⊢
  rw [droverOf_drvNext, if_pos rfl, hg]
  exact hj

/-- An exit that is not the launch's last. -/
theorem ecall_exit (die : CDie) (n : BitVec 6) (s : State) (j : Job) (hr : Runs s (drvKey die.val n.toNat) j)
    (h17 : xr (droverOf s (drvKey die.val n.toNat)) 17 = 0) :
    exec (.droverEcallExit die n) s = .next (settle (drvExit (drvKey die.val n.toNat)
      (drvNext (drvKey die.val n.toNat) j 4 false s))) := by
  refine congrArg (fun x => Host.Outcome.next (settle x)) (drvStep_goes _ _ s _ j hr ?_)
  rw [if_pos (by exact h17)]

theorem ecall_trap (die : CDie) (n : BitVec 6) (s : State) (j : Job) (hr : Runs s (drvKey die.val n.toNat) j)
    (h17 : xr (droverOf s (drvKey die.val n.toNat)) 17 ≠ 0) :
    exec (.droverEcallExit die n) s = .next (settle (drvStop (drvKey die.val n.toNat) badState 8 0 s)) := by
  refine congrArg (fun x => Host.Outcome.next (settle x)) (drvStep_traps _ _ s s ⟨badState, 8, 0⟩ j hr ?_)
  rw [if_neg (by exact h17)]

theorem launchChecks_congr {s t : State} (h : ∀ m, (droverOf t m).checks = (droverOf s m).checks) (ns : List Nat) :
    launchChecks t ns = launchChecks s ns := by
  unfold launchChecks
  rw [List.map_congr_left fun m _ => h m]

/-- The exit of a launch's drover (11 R293). -/
theorem ecall_facts (die : CDie) (n : BitVec 6) (s : State) (j : Job) (p : PDrvLaunch) (hr : Runs s (drvKey die.val n.toNat) j)
    (hc : Calm s [j]) (hp : j.phase = .launch) (hl : launchOf j = some p) (h17 : xr (droverOf s (drvKey die.val n.toNat)) 17 = 0) :
    let k := drvKey die.val n.toNat
    let ns := drvSet (uDie j.unit) p
    let s1 := flushSink k j (drvNext k j 4 false s)
    (ns.all (fun m => m == k || (droverOf s m).finished) = false →
      ∃ t, exec (.droverEcallExit die n) s = .next t ∧ jobOf t j.id = some j ∧ (droverOf t k).finished = true ∧
        ((droverOf t k).last.find? (fun x => x.ctx == j.ring / 256)).map (·.exit) = some (xr (droverOf s k) 10) ∧
        (∀ x, byteAt t x = byteAt s1 x)) ∧
    (ns.all (fun m => m == k || (droverOf s m).finished) = true →
      ∃ t, exec (.droverEcallExit die n) s = .next t ∧
        Answered s1 t j { status := DONE, verdict := if j.replays = 0 then 1 else 3, checks := launchChecks s ns,
                          replays := j.replays, record := [(0x58, launchChecks s ns)],
                          detail := (ns.map (fun m => xr (droverOf s m) 10)).foldl max 0 % 2 ^ 32 } ∧
        (∀ m ∈ ns, (droverOf t m).job = none)) := by
  intro k ns s1
  have he := ecall_exit die n s j hr h17
  obtain ⟨hg, hnow, hlink, hw, hmem, hg1, hn1, hwf, hdrv, hlast⟩ := exited_facts k j s hc.2.2
  have heq := drvExit_eq k (drvNext k j 4 false s) j p (drvJob_drvNext k j s hr) hl
  have hx10 : xr (droverOf (drvNext k j 4 false s) k) 10 = xr (droverOf s k) 10 := by
    rw [droverOf_drvNext, if_pos rfl]
    rfl
  dsimp only at heq
  rw [hx10] at heq
  obtain ⟨z, hz⟩ : ∃ z, exited k j (xr (droverOf s k) 10) (flushSink k j (drvNext k j 4 false s)) = z := ⟨_, rfl⟩
  rw [hz] at hg hnow hlink hw hmem hwf hdrv hlast heq
  have hcz : Calm z [j] := ⟨by rw [hg]; exact hc.1, hwf hc.2.1, hw⟩
  have hall : ns.all (fun m => (droverOf z m).finished) = ns.all (fun m => m == k || (droverOf s m).finished) := by
    congr 1
    funext m
    exact (hdrv m).2.2
  change drvExit k (drvNext k j 4 false s) = if ns.all (fun m => (droverOf z m).finished) then _ else _ at heq
  rw [hall] at heq
  refine ⟨fun hsome => ?_, fun hlastOne => ?_⟩
  · rw [hsome, if_neg (by decide)] at heq
    rw [show drvExit (drvKey die.val n.toNat) _ = z from heq, settle_quiet z (quiet_launch hcz hp)] at he
    refine ⟨_, he, jobOf_one (s := passed z) hcz.1, ?_, hlast, fun x => byteAt_of_mem hmem x⟩
    show (droverOf z k).finished = true
    rw [(hdrv k).2.2]
    simp
  · rw [hlastOne, if_pos rfl, jobOf_one hcz.1, Option.getD_some] at heq
    obtain ⟨e0, he0⟩ : ∃ e : End, ({ done ((ns.map (fun m => amGet 0 (droverOf z m).x 10)).foldl max 0 % 2 ^ 32) with
        verdict := if j.replays = 0 then 1 else 3 } : End) = e := ⟨_, rfl⟩
    change drvExit k (drvNext k j 4 false s) = endLaunch j { done ((ns.map (fun m => amGet 0 (droverOf z m).x 10)).foldl max 0 % 2 ^ 32) with
        verdict := if j.replays = 0 then 1 else 3 } z at heq
    rw [he0] at heq
    obtain ⟨hjobs, hrings, hmemt, hnowt, hwt, hjob⟩ := endLaunch_facts z j p e0 hcz hl
    have hend : launchEnd z j p e0 =
        { status := DONE, verdict := if j.replays = 0 then 1 else 3, checks := launchChecks s ns,
          replays := j.replays, record := [(0x58, launchChecks s ns)],
          detail := (ns.map (fun m => xr (droverOf s m) 10)).foldl max 0 % 2 ^ 32 } := by
      have hmap : ns.map (fun m => amGet 0 (droverOf z m).x 10) = ns.map (fun m => xr (droverOf s m) 10) :=
        List.map_congr_left fun m _ => by rw [(hdrv m).1]; rfl
      unfold launchEnd
      rw [launchChecks_congr fun m => (hdrv m).2.1, ← he0, hmap]
      rfl
    rw [hend] at hjobs
    rw [show drvExit (drvKey die.val n.toNat) _ = _ from heq] at he
    refine ⟨_, he, ?_, fun m hm => ?_⟩
    · refine answered_settle hjobs rfl (by rw [hmemt]; exact hcz.2.1) hwt (.of_rings ?_ _) ?_ ⟨rfl, rfl, rfl, rfl, rfl⟩
      · rw [hrings, hg, hg1]
      · rw [hnowt, hnow, hn1]
    · obtain ⟨r, hd⟩ := settle_ended_drovers _ _ _ hjobs rfl hwt m
      rw [hd]
      exact hjob m hm

/-! ## Waits on words (10 R278, R282) -/

/-- A waiter is attached, or polls; nothing else is changed but the signal table and counts. -/
theorem attach_facts (s : State) (w : Waiter) :
    let t := (attach s w).1
    t.gz = s.gz ∧ t.link = s.link ∧ t.mem = s.mem ∧ t.drv = s.drv ∧ ∃ b, { w with polling := b } ∈ t.sig.waiters := by
  intro t
  have htrack : ∀ x, trackWord s w.addr = some x → ∃ tb, x = { s with sig := { s.sig with table := tb } } := by
    intro x hx
    unfold trackWord at hx
    dsimp only at hx
    split at hx
    · exact ⟨_, (Option.some.inj hx).symm⟩
    · split at hx
      · exact ⟨_, (Option.some.inj hx).symm⟩
      · split at hx
        · exact ⟨_, (Option.some.inj hx).symm⟩
        · contradiction
  have ht : t = (attach s w).1 := rfl
  unfold attach at ht
  split at ht
  · next x hx =>
    obtain ⟨tb, hx⟩ := htrack x hx
    rw [hx] at ht
    rw [ht]
    exact ⟨rfl, rfl, rfl, rfl, false, List.mem_append_right _ (List.mem_singleton.2 rfl)⟩
  · obtain ⟨c, hc⟩ := event_eq s (uid 0 (w.addr / 2 ^ 36 / 8) 0) 0x0002 0 1
    rw [hc] at ht
    rw [ht]
    exact ⟨rfl, rfl, rfl, rfl, true, List.mem_append_right _ (List.mem_singleton.2 rfl)⟩

/-- A CSR write that does not trap (10 R282; 11 R300). -/
theorem exec_sigwait (die : CDie) (n : BitVec 6) (cond : Word64) (s t : State) (j : Job) (hr : Runs s (drvKey die.val n.toNat) j)
    (hq : Quiet s) (ht : writeSigwait (drvKey die.val n.toNat) j cond.toNat s = (t, none)) (hw : DroverWork s t) :
    exec (.sigwait die n cond) s = .next (passed (drvNext (drvKey die.val n.toNat) j 4 false t)) := by
  have he : exec (.sigwait die n cond) s = .next (settle (drvNext (drvKey die.val n.toNat) j 4 false t)) :=
    congrArg (fun x => Host.Outcome.next (settle x)) (drvStep_goes _ _ s _ j hr (by rw [ht]))
  exact he.trans (congrArg _ ((hw.trans (drvNext_droverWork ..)).settle hq))

/-- Settles O39: exits by what the launch's drovers have left, waits and slots by the branches of their CSR writes. -/
theorem droversExitFenceAndWait : Obligations.DroversExitFenceAndWait := by
  refine ⟨fun die n succW s j p => ?exit, fun die n cond value s j => ?wait⟩
  case exit =>
    intro k d ns s1 hr hc hp hl hk
    refine ⟨fun h17 => (ecall_facts die n s j p hr hc hp hl h17).1, fun h17 => (ecall_facts die n s j p hr hc hp hl h17).2, fun h17 => ?_, ?_⟩
    · obtain ⟨hans, hlast⟩ := drvStop_facts k badState 8 0 s j p hr hc hl
      refine ⟨_, ecall_trap die n s j hr h17, hans, ?_⟩
      have h := congrArg (Option.map (fun x : Nat × Nat × Nat => (x.1, x.2.1))) hlast
      rw [Option.map_map] at h
      exact h
    · have hgo := drvStep_goes k (fun j s => (drvNext k j 4 false (if succW then drvVisible k s else s), none)) s _ j hr rfl
      have he : exec (.droverFence die n succW) s = .next (settle (drvNext k j 4 false (if succW then drvVisible k s else s))) :=
        congrArg (fun x => Host.Outcome.next (settle x)) hgo
      refine he.trans (congrArg _ (DroverWork.settle (DroverWork.trans (t := if succW then drvVisible k s else s) ?_ (drvNext_droverWork ..))
        (quiet_launch hc hp)))
      split
      · exact ⟨rfl, rfl⟩
      · exact .refl s
  case wait =>
    intro k d a v cmd left hq
    refine ⟨fun hr hcond => ?_, fun hwait => ?_, fun hr hw hval hbig => ?_⟩
    · have hexec := fun t => exec_sigwait die n cond s t j hr hq
      have hlow : ¬(3 < cond.toNat) := by omega
      refine ⟨fun hbad => ?_, fun hok hacc => ⟨fun hpois => ?_, fun hclean => ⟨fun hholds => ?_, fun hholds => ?_⟩⟩⟩
      · refine hexec (modDrover s k (fun d => { d with sigwait := 3 })) ?_ ⟨rfl, rfl⟩
        unfold writeSigwait
        dsimp only
        rw [if_neg hlow, if_pos]
        obtain h | h := hbad
        · rw [show signalOk s (droverOf s k).sigaddr = false from h]
          rfl
        · rw [Option.isSome_iff_ne_none.2 h, Bool.or_true]
      all_goals
        have hrefuse : ¬((!signalOk s (droverOf s k).sigaddr || (access s (j.ring / 256) (drvUnit k) (droverOf s k).sigaddr 8 pRead).isSome) = true) := by
          rw [show signalOk s (droverOf s k).sigaddr = true from hok,
            show access s (j.ring / 256) (drvUnit k) (droverOf s k).sigaddr 8 pRead = none from hacc]
          decide
      · refine hexec (modDrover s k (fun d => { d with sigwait := 2 })) ?_ ⟨rfl, rfl⟩
        unfold writeSigwait
        dsimp only
        rw [if_neg hlow, if_neg hrefuse, if_pos (Option.isSome_iff_ne_none.2 hpois)]
      all_goals
        have hnp : ¬((poisonIn s ((droverOf s k).sigaddr / 32 * 32) 32).isSome = true) := by
          rw [show poisonIn s ((droverOf s k).sigaddr / 32 * 32) 32 = none from hclean]
          decide
      · refine hexec (modDrover s k (fun d => { d with sigwait := 0, sigval := v })) ?_ ⟨rfl, rfl⟩
        unfold writeSigwait
        dsimp only
        rw [if_neg hlow, if_neg hrefuse, if_neg hnp, if_pos hholds]
      · have hfacts := attach_facts s ⟨.drover k, a, d.sigval, cond.toNat, false, drvUnit k, 0xFFFF⟩
        have hwrite : writeSigwait k j cond.toNat s =
            (modDrover (attach s ⟨.drover k, a, d.sigval, cond.toNat, false, drvUnit k, 0xFFFF⟩).1 k (fun d => { d with waiting := true }), none) := by
          unfold writeSigwait
          dsimp only
          rw [if_neg hlow, if_neg hrefuse, if_neg hnp, if_neg (by rw [Bool.not_eq_true]; exact hholds)]
        obtain ⟨x, hx⟩ : ∃ x, (attach s ⟨.drover k, a, d.sigval, cond.toNat, false, drvUnit k, 0xFFFF⟩).1 = x := ⟨_, rfl⟩
        dsimp only at hfacts
        rw [hx] at hfacts hwrite
        obtain ⟨hg, hlink, hmem, hdrv, b, hmemb⟩ := hfacts
        have he := hexec _ hwrite ⟨congrArg GelozSt.jobs hg, hlink⟩
        obtain ⟨-, hmem', hsig', -, -⟩ := drvNext_rest k j 4 false (modDrover x k (fun d => { d with waiting := true }))
        have hdk : droverOf (drvNext k j 4 false (modDrover x k (fun d => { d with waiting := true }))) k =
            { droverOf s k with waiting := true, pc := ((droverOf s k).pc + 4) % 2 ^ 64 } := by
          have hxk : droverOf x k = droverOf s k := by
            rw [droverOf, hdrv]
            rfl
          rw [droverOf_drvNext, if_pos rfl, droverOf_modDrover, if_pos rfl, hxk]
        refine ⟨_, he, congrArg Drover.waiting hdk, congrArg Drover.pc hdk, ⟨b, ?_⟩, fun y _ => byteAt_of_mem (hmem'.trans hmem) y⟩
        show _ ∈ (drvNext k j 4 false (modDrover x k (fun d => { d with waiting := true }))).sig.waiters
        rw [hsig']
        exact hmemb
    · have he : exec (.droverWaitTimeout die n) s = .next (settle (modDrover
          { s with sig := { s.sig with waiters := s.sig.waiters.filter (fun w => w.who != .drover k) } } k
          (fun d => { d with waiting := false, sigwait := 1 }))) := by
        show execDroverWaitTimeout die n s = _
        unfold execDroverWaitTimeout
        dsimp only
        rw [if_pos hwait]
      exact he.trans (congrArg _ (DroverWork.settle (s := s) ⟨rfl, rfl⟩ hq))
    · obtain ⟨hg, hlink, -⟩ := flushSink_facts k j s hw
      have hwrite : writeStatsink k j value.toNat s = (modDrover (flushSink k j s) k (fun d => { d with statsink := value.toNat }), none) := by
        unfold writeStatsink
        rw [if_neg (by rw [hval]; simp), if_neg]
        intro h
        rw [Bool.and_eq_true, decide_eq_true_eq] at h
        exact absurd (hbig h.1) (Nat.not_le.2 h.2)
      have he : exec (.statsink die n value) s =
          .next (settle (drvNext k j 4 false (modDrover (flushSink k j s) k (fun d => { d with statsink := value.toNat })))) :=
        congrArg (fun x => Host.Outcome.next (settle x)) (drvStep_goes _ _ s _ j hr (by rw [hwrite]))
      exact he.trans (congrArg _ (DroverWork.settle (DroverWork.trans (t := modDrover (flushSink k j s) k (fun d => { d with statsink := value.toNat }))
        ⟨congrArg GelozSt.jobs hg, hlink⟩ (drvNext_droverWork ..)) hq))

end Sys2Proof.Proofs
end

section
/-! PROOFS. DRV_LAUNCH (11 R288, R289). -/

namespace Sys2Proof.Proofs

open Sys2Proof Sys2Proof.Machine Sys2Proof.Laws

/-! ## An end where nothing is in flight

A store wakes waiters, and a waiter that is met ends its command: where none is in flight, none comes to be. -/

theorem Idle.foldl {α : Type} {f : State → α → State} (h : ∀ s x, Idle s → Idle (f s x)) (l : List α) {s : State} (hs : Idle s) :
    Idle (l.foldl f s) := by
  induction l generalizing s with
  | nil => exact hs
  | cons x l ih => exact ih (h s x hs)

theorem meetWaiter_idle {s : State} (w : Waiter) (v : Nat) (h : Idle s) : Idle (meetWaiter s w v) := by
  unfold meetWaiter
  dsimp only
  split
  · show s.gz.jobs.map _ = []
    rw [h]
    rfl
  · exact h

theorem storeNow_idle {s : State} (w : Who) (a : Nat) (bs : List Byte) (h : Idle s) : Idle (storeNow s w a bs) := by
  have hbreak : ∀ {x : State} (n : Nat), Idle x → Idle (breakResv x a n) := by
    intro x n hx
    unfold breakResv
    split
    · exact hx
    · exact hx
  unfold storeNow monitors
  dsimp only
  split
  · exact hbreak _ h
  · refine Idle.foldl (fun s x hs => ?_) _ (hbreak _ h)
    exact Idle.foldl (fun s w hs => meetWaiter_idle w _ hs) _ hs

theorem writeDone_idle {s : State} (key job : Nat) (h : Hdr) (hs : Idle s) : Idle (writeDone s key job h) := by
  unfold writeDone sigStore
  dsimp only
  split
  · exact hs
  · split
    · exact hs
    · exact storeNow_idle _ _ _ hs

theorem finish_idle {s : State} (j : Job) (e : End) (hs : Idle s) : Idle (finish s j e) := by
  have hr : Idle (replyWritten s j e) := by
    unfold replyWritten
    split
    · exact storeNow_idle _ _ _ hs
    · exact hs
  have hd : Idle (writeDone (unreserve (replyWritten s j e) j.ring) j.ring j.id (hdrOf j.cmd)) := writeDone_idle _ _ _ hr
  have hcharged := charge_frame e.detail (endPoints e)
    (modCtx (writeDone (unreserve (replyWritten s j e) j.ring) j.ring j.id (hdrOf j.cmd)) (j.ring / 256)
      (fun c => { c with chk := recordEnd (hdrOf j.cmd) e c.chk }))
  obtain ⟨-, -, -, -, -, -, -, -, -, -, -, -, -, -, -, -, -, -, -, hjobs, -, -⟩ := hcharged
  rw [Idle, finish_eq, hjobs]
  exact hd

/-! ## Starting the drovers of a set -/

theorem startDrovers_rest (j : Job) (p : PDrvLaunch) (ns : List Nat) (i : Nat) (s : State) :
    ∃ d, startDrovers j p i ns s = { s with drv := d } := by
  induction ns generalizing i s with
  | nil => exact ⟨s.drv, rfl⟩
  | cons n ns ih =>
    obtain ⟨d, hd⟩ := ih (i + 1) (startDrover j p i n s)
    exact ⟨d, hd⟩

/-- A drover as a launch starts it, of what it was. -/
def started (j : Job) (p : PDrvLaunch) (i n : Nat) (d : Drover) : Drover :=
  { ({} : Drover) with
    job := some j.id, index := i, scratch := p.scratchBytes.toNat, pc := p.entry.toNat, last := d.last
    x := [(2, (scratchBase n + p.scratchBytes.toNat) % 2 ^ 64), (10, p.argAddr.toNat), (11, i), (12, p.count.toNat), (13, scratchBase n),
      (14, p.scratchBytes.toNat), (15, j.ring / 256)] }

theorem droverOf_startDrover (j : Job) (p : PDrvLaunch) (i n m : Nat) (s : State) :
    droverOf (startDrover j p i n s) m = if m = n then started j p i n (droverOf s n) else droverOf s m :=
  droverOf_modDrover s n m (started j p i n)

theorem droverOf_startDrovers_other (j : Job) (p : PDrvLaunch) (m : Nat) (ns : List Nat) (i : Nat) (s : State) (hm : m ∉ ns) :
    droverOf (startDrovers j p i ns s) m = droverOf s m := by
  induction ns generalizing i s with
  | nil => rfl
  | cons n ns ih =>
    obtain ⟨hne, hns⟩ := not_or.1 (mt List.mem_cons.2 hm)
    show droverOf (startDrovers j p (i + 1) ns (startDrover j p i n s)) m = _
    rw [ih _ _ hns, droverOf_startDrover, if_neg hne]

theorem droverOf_startDrovers (j : Job) (p : PDrvLaunch) (ns : List Nat) (hd : ns.Nodup) (i : Nat) (s : State) (k : Nat)
    (hk : k < ns.length) : droverOf (startDrovers j p i ns s) ns[k] = started j p (i + k) ns[k] (droverOf s ns[k]) := by
  induction ns generalizing i s k with
  | nil => exact absurd hk (Nat.not_lt_zero k)
  | cons n ns ih =>
    obtain ⟨hn, hns⟩ := List.nodup_cons.1 hd
    show droverOf (startDrovers j p (i + 1) ns (startDrover j p i n s)) _ = _
    cases k with
    | zero =>
      show droverOf _ n = started j p i n (droverOf s n)
      rw [droverOf_startDrovers_other j p n ns _ _ hn, droverOf_startDrover, if_pos rfl]
    | succ k =>
      have hk' : k < ns.length := Nat.lt_of_succ_lt_succ hk
      have hne : ns[k] ≠ n := fun h => hn (h ▸ List.getElem_mem hk')
      show droverOf _ ns[k] = started j p (i + (k + 1)) ns[k] (droverOf s ns[k])
      rw [ih hns _ _ k hk', droverOf_startDrover, if_neg hne, show i + 1 + k = i + (k + 1) by omega]

theorem drvSet_nodup (die : Nat) (p : PDrvLaunch) : (drvSet die p).Nodup := by
  refine List.Nodup.map (fun a b h => ?_) List.nodup_range
  unfold drvKey at h
  omega

theorem started_regs (j : Job) (p : PDrvLaunch) (i n : Nat) (d : Drover) (r : Nat) (h2 : r ≠ 2) (hr : r < 10 ∨ 15 < r) :
    xr (started j p i n d) r = 0 := by
  unfold xr started
  split
  · rfl
  · simp only [amGet]
    rw [if_neg (by omega), if_neg (by omega), if_neg (by omega), if_neg (by omega), if_neg (by omega), if_neg (by omega),
      if_neg (by omega)]

/-! ## A launch among no others -/

/-- A launch that has started is not ready again. -/
theorem pumpLaunch_started (die n : Nat) (s : State) (j : Job) (hj : s.gz.jobs = [j]) (hph : j.phase = .launch) :
    pumpLaunch die n s = s := by
  cases n with
  | zero => rfl
  | succ n =>
    have hready : launchReady s die = [] := by
      unfold launchReady
      rw [hj]
      simp [hph]
    unfold pumpLaunch
    dsimp only
    rw [hready]
    rfl

/-- The state in which a launch has started its drovers. -/
def launched (s : State) (j : Job) (p : PDrvLaunch) : State :=
  startDrovers j p 0 (drvSet (uDie j.unit) p)
    (modJob (serve s (uid 3 (uDie j.unit) 0) 0 j.ring) j.id (fun j => { j with phase := .launch }))

/-- The one launch in flight, whose drovers are free, starts (11 R288). -/
theorem pumpDrovers_one (s : State) (j : Job) (p : PDrvLaunch) (hj : s.gz.jobs = [j]) (hp : launchOf j = some p)
    (hph : j.phase = .inUnit) (hf : setFree s (uDie j.unit) p = true) : pumpDrovers (uDie j.unit) s = launched s j p := by
  have hready : launchReady s (uDie j.unit) = [(j, p)] := by
    unfold launchReady
    rw [hj]
    simp [hph, hp, hf]
  obtain ⟨d, hd⟩ := startDrovers_rest j p (drvSet (uDie j.unit) p) 0
    (modJob (serve s (uid 3 (uDie j.unit) 0) 0 j.ring) j.id (fun j => { j with phase := .launch }))
  have hjobs : (launched s j p).gz.jobs = [{ j with phase := .launch }] := by
    show (startDrovers _ _ _ _ _).gz.jobs = _
    rw [hd]
    show s.gz.jobs.map _ = _
    rw [hj]
    simp
  unfold pumpDrovers pumpLaunch
  dsimp only
  rw [hready]
  simp only [List.map_cons, List.map_nil, chooseRing, rank47, List.find?_cons_of_pos, BEq.rfl]
  exact pumpLaunch_started _ _ _ _ hjobs rfl

theorem launched_rest (s : State) (j : Job) (p : PDrvLaunch) (hj : s.gz.jobs = [j]) :
    (launched s j p).gz.jobs = [{ j with phase := .launch }] ∧ (launched s j p).mem = s.mem ∧
    (∀ n, n ∉ drvSet (uDie j.unit) p → droverOf (launched s j p) n = droverOf s n) ∧
    (∀ k < p.count.toNat, droverOf (launched s j p) (drvKey (uDie j.unit) (p.first.toNat + k)) =
      started j p k (drvKey (uDie j.unit) (p.first.toNat + k)) (droverOf s (drvKey (uDie j.unit) (p.first.toNat + k)))) := by
  obtain ⟨d, hd⟩ := startDrovers_rest j p (drvSet (uDie j.unit) p) 0
    (modJob (serve s (uid 3 (uDie j.unit) 0) 0 j.ring) j.id (fun j => { j with phase := .launch }))
  refine ⟨?_, ?_, fun n hn => droverOf_startDrovers_other j p n _ 0 _ hn, fun k hk => ?_⟩
  · show (startDrovers _ _ _ _ _).gz.jobs = _
    rw [hd]
    show s.gz.jobs.map _ = _
    rw [hj]
    simp
  · show (startDrovers _ _ _ _ _).mem = _
    rw [hd]
    rfl
  · have hlen : k < (drvSet (uDie j.unit) p).length := by
      rw [drvSet, List.length_map, List.length_range]
      exact hk
    have hget : (drvSet (uDie j.unit) p)[k] = drvKey (uDie j.unit) (p.first.toNat + k) := by
      simp [drvSet]
    have h := droverOf_startDrovers j p _ (drvSet_nodup (uDie j.unit) p) 0
      (modJob (serve s (uid 3 (uDie j.unit) 0) 0 j.ring) j.id (fun j => { j with phase := .launch })) k hlen
    rw [hget, Nat.zero_add] at h
    exact h

theorem launchBad_begun (s : State) (i : Instr) (c die : Nat) (p : PDrvLaunch) : launchBad (begun s i) c die p = launchBad s c die p := by
  obtain ⟨_, _, hb⟩ := begun_eq s i
  unfold launchBad
  rw [access_congr (s := s) (t := begun s i) (by rw [hb]) (by rw [hb])]

theorem runDrvLaunch_bad {p : PDrvLaunch} {j : Job} {s : State} {st d : Nat}
    (h : launchBad s (j.ring / 256) (uDie j.unit) p = some (st, d)) : runDrvLaunch p j s = ends s (fails st d) := by
  unfold runDrvLaunch
  rw [h]

theorem runDrvLaunch_good {p : PDrvLaunch} {j : Job} {s : State} (h : launchBad s (j.ring / 256) (uDie j.unit) p = none) :
    runDrvLaunch p j s = waits s .inUnit := by
  unfold runDrvLaunch
  rw [h]

theorem setFree_begun (s : State) (i : Instr) (die : Nat) (p : PDrvLaunch) : setFree (begun s i) die p = setFree s die p := by
  obtain ⟨_, _, hb⟩ := begun_eq s i
  rw [hb]
  rfl

theorem launched_registers (j : Job) (p : PDrvLaunch) (k n : Nat) (x : Drover) :
    let d := started j p k n x
    d.index = k ∧ d.pc = p.entry.toNat ∧
    xr d 10 = p.argAddr.toNat ∧ xr d 11 = k ∧ xr d 12 = p.count.toNat ∧ xr d 13 = scratchBase n ∧
    xr d 14 = p.scratchBytes.toNat ∧ xr d 15 = j.ring / 256 ∧ xr d 2 = (scratchBase n + p.scratchBytes.toNat) % 2 ^ 64 ∧
    (∀ r, r ≠ 2 → r < 10 ∨ 15 < r → xr d r = 0) ∧ d.f = [] ∧ d.v = [] ∧ d.fflags = 0 ∧ d.vl = 0 ∧ d.vstart = 0 ∧
    d.vtype = 2 ^ 63 ∧ d.statsink = 0 ∧ d.tmbase = 0 ∧ d.tmshape = 0 ∧ d.tmdst = 0 ∧ d.tmctl = 0 :=
  by
  intro d
  have hr : ∀ r, r ≠ 0 → xr d r = amGet 0 d.x r := fun r h => if_neg h
  refine ⟨rfl, rfl, ?_, ?_, ?_, ?_, ?_, ?_, ?_, started_regs _ _ _ _ _, rfl, rfl, rfl, rfl, rfl, rfl, rfl, rfl, rfl, rfl, rfl⟩ <;>
    rw [hr _ (by decide)] <;> simp [d, started, amGet]

/-- A drover that a launch has just started executes for it. -/
theorem runs_started {t : State} {j l : Job} {p : PDrvLaunch} {k m n : Nat} {x : Drover} (hj : t.gz.jobs = [l]) (hid : l.id = j.id)
    (hd : droverOf t n = started j p k m x) : Runs t n l := by
  refine ⟨?_, ?_, ?_⟩
  · rw [drvJob, hd]
    show jobOf t j.id = _
    rw [← hid]
    exact jobOf_one hj
  · rw [hd]
    rfl
  · rw [hd]
    rfl

theorem exec_drvLaunch (h : Hdr) (p : PDrvLaunch) (s : State) (ha : Accepts s (preDrvLaunch h p s) (.drvLaunch h p)) :
    exec (.drvLaunch h p) s = .next (settle (pumpDrovers (uDie (ringCore s (ringKey h)))
      (conclude (jobFor s (preDrvLaunch h p s) (.drvLaunch h p))
        (runDrvLaunch p (jobFor s (preDrvLaunch h p s) (.drvLaunch h p)) (begun s (.drvLaunch h p)))))) := by
  rw [← arrive_accepted s _ _ _ ha]
  rfl

/-- Settles O37. -/
theorem launchStartsItsDrovers : Obligations.LaunchStartsItsDrovers := by
  intro h p s i pre c die j hidle hacc
  have hi : Idle (begun s i) := (begun_frame s i).2.2.2.2.2.2.2.2.2.2.2.2.2.2.2.2.2.2.2.1.trans hidle
  have hx : exec i s = .next (settle (pumpDrovers die (conclude j (runDrvLaunch p j (begun s i))))) := exec_drvLaunch h p s hacc
  have hdie : uDie j.unit = die := rfl
  have hc : j.ring / 256 = c := rfl
  have hrep : ∀ e, replied s pre i (begun s i) e = settle (finish (begun s i) j e) := fun _ => rfl
  have hlaunch : launchOf j = some p := rfl
  have hnow : (begun s i).now = s.now := (begun_frame s i).2.1
  have hdrv : ∀ n, droverOf (begun s i) n = droverOf s n := by
    obtain ⟨_, _, hb⟩ := begun_eq s i
    intro n
    rw [hb]
    rfl
  have hbytes := byteAt_begun s i
  rw [← launchBad_begun s i, ← setFree_begun s i]
  clear_value j die c i pre
  obtain ⟨b, hb⟩ : ∃ b, begun s i = b := ⟨_, rfl⟩
  rw [hb] at hi hx hnow hdrv hbytes hrep ⊢
  subst hdie hc
  constructor
  · intro st d hbad
    have hfin : Idle (finish b j (fails st d)) := finish_idle _ _ hi
    rw [hx, runDrvLaunch_bad hbad, hrep]
    show Host.Outcome.next (settle (pumpDrovers _ (finish b j (fails st d)))) = _
    rw [pumpDrovers_rests _ _ (by rw [hfin]; simp)]
  · intro hgood hfree
    have hjobs := jobs_park b j .inUnit hi
    have hp := pumpDrovers_one (park b j .inUnit) _ p hjobs hlaunch rfl hfree
    obtain ⟨hone, hmem, hother, hstart⟩ := launched_rest (park b j .inUnit) _ p hjobs
    obtain ⟨t, ht⟩ : ∃ t, launched (park b j .inUnit) { j with phase := .inUnit, since := b.now } p = t := ⟨_, rfl⟩
    rw [ht] at hp hone hmem hother hstart
    rw [hnow] at hone
    refine ⟨passed t, ?_, ?_, fun k hk => ?_, fun n hn => (hother n hn).trans (hdrv n), fun x _ => ?_⟩
    · rw [hx, runDrvLaunch_good hgood]
      exact congrArg Host.Outcome.next ((congrArg settle hp).trans (settle_quiet _ (quiet_one hone rfl)))
    · exact congrArg (Option.map (·.phase)) (jobOf_one (s := passed t) hone)
    · intro n d
      have hd : d = started _ p k n _ := hstart k hk
      refine ⟨runs_started (t := passed t) hone rfl hd, ?_⟩
      rw [hd]
      exact launched_registers _ p k n _
    · exact (byteAt_of_mem hmem x).trans (hbytes x)

end Sys2Proof.Proofs
end

section
/-! PROOFS. Orders at the door of their windows (02 R64-R66, R415). -/

namespace Sys2Proof.Proofs

open Sys2Proof Sys2Proof.Machine Sys2Proof.Laws

/-! ## The ends of orders that are turned away charge no points (05 R135) -/

/-- An end, where there is one, charges no unit. -/
def Uncharged (o : Option End) : Prop := ∀ e, o = some e → endPoints e = 0

theorem uncharged_none : Uncharged none := fun _ h => nomatch h

theorem uncharged_some {e : End} (h : endPoints e = 0) : Uncharged (some e) := by
  rintro _ ⟨⟩
  exact h

theorem Uncharged.ite {c : Prop} [Decidable c] {o q : Option End} (ho : Uncharged o) (hq : Uncharged q) :
    Uncharged (if c then o else q) := by
  split
  · exact ho
  · exact hq

theorem Uncharged.need (b : Bool) : Uncharged (if b then none else some (fails OUT_OF_RANGE 0x28)) := Uncharged.ite uncharged_none (uncharged_some rfl)

theorem snapStop_uncharged (s : State) (core c a : Nat) : Uncharged (snapStop s core c a) := by
  unfold snapStop
  extract_lets bad r n
  exact .ite (uncharged_some rfl) (.ite (uncharged_some rfl) (Uncharged.ite uncharged_none (.ite (uncharged_some rfl) (Uncharged.ite uncharged_none (uncharged_some rfl)))))

theorem itemRange_uncharged (s : State) (u it v : Nat) : Uncharged (itemRange s u it v) := by
  unfold itemRange
  extract_lets need within core a
  have hn : ∀ b, Uncharged (need b) := Uncharged.need
  exact .ite (hn _) (.ite (hn _) (.ite (hn _) (.ite (hn _) (.ite (hn _) (.ite (hn _) (.ite (hn _) (.ite (hn _) (.ite (hn _) (.ite (hn _)
    (.ite (hn _) (.ite (hn _) (.ite (hn _) (.ite (hn _) (.ite (hn _) (.ite (hn _) (.ite (hn _) (.ite (hn _) (.ite (hn _)
    (.ite (snapStop_uncharged _ _ _ _) uncharged_none)))))))))))))))))))

theorem itemCheck_uncharged (s : State) (origin u it v : Nat) : Uncharged (itemCheck s origin u it v) := by
  unfold itemCheck
  refine .ite (uncharged_some rfl) (.ite (uncharged_some rfl) ?_)
  split
  · exact uncharged_some rfl
  · exact itemRange_uncharged _ _ _ _

theorem tablesStop_uncharged (p : PCtxCreate) (u : Nat) (s : State) : Uncharged (tablesStop p u s) := by
  unfold tablesStop
  extract_lets es us
  split
  · exact uncharged_some rfl
  · split
    · exact uncharged_some rfl
    · split
      · exact uncharged_some rfl
      · split
        · exact uncharged_some rfl
        · split
          · exact uncharged_some rfl
          · exact uncharged_none

/-! ## What the gate and the windows touch -/

/-- Work of the kernel's gate: it counts, ledgers and changes windows. -/
def GateWork (s t : State) : Prop :=
  ∃ n k c w r f, t = { s with hw := { s.hw with counts := n, counters := k }, gz := { s.gz with ctxs := c, windows := w }, tr := r, flash := f }

theorem GateWork.trans {s t u : State} (h : GateWork s t) (k : GateWork t u) : GateWork s u := by
  obtain ⟨_, _, _, _, _, _, rfl⟩ := h
  obtain ⟨_, _, _, _, _, _, rfl⟩ := k
  exact ⟨_, _, _, _, _, _, rfl⟩

theorem count_gateWork (s : State) (u id n : Nat) : GateWork s (count s u id n) := ⟨_, _, _, _, _, _, rfl⟩

theorem gateCount_gateWork (d : Nat) (taken : Bool) (s : State) : GateWork s (gateCount d taken s) := by
  obtain ⟨c, h⟩ := event_eq (count s (kernelCore d) (if taken then 0x10 else 0x18) 1) (uid 0 d 0) 0x0004 0 1
  rw [gateCount, h]
  exact ⟨_, _, _, _, _, _, rfl⟩

theorem windows_gateCount (d : Nat) (taken : Bool) (s : State) : (gateCount d taken s).gz.windows = s.gz.windows := by
  obtain ⟨c, h⟩ := event_eq (count s (kernelCore d) (if taken then 0x10 else 0x18) 1) (uid 0 d 0) 0x0004 0 1
  rw [gateCount, h]
  rfl

theorem ledgerEv_gateWork (d : Nat) (e : LedgerEvent) (s : State) : GateWork s (ledgerEv d e s) := by
  obtain ⟨_, _, _, _, h⟩ := ledgerEv_ledgerOnly d e s
  rw [h]
  exact ⟨_, _, _, _, _, _, rfl⟩

theorem windows_ledgerEv (d : Nat) (e : LedgerEvent) (s : State) : (ledgerEv d e s).gz.windows = s.gz.windows := by
  obtain ⟨_, _, _, _, h⟩ := ledgerEv_ledgerOnly d e s
  rw [h]

theorem joinWindow_gateWork (obj : OrderObj) (o : Order) (s : State) : GateWork s (joinWindow obj o s) := by
  unfold joinWindow
  split
  · exact ⟨_, _, _, _, _, _, rfl⟩
  · exact ⟨_, _, _, _, _, _, rfl⟩

/-! ## Joining windows -/

/-- An order takes its place in a window. -/
def withOrder (obj : OrderObj) (o : Order) (w : Window) : Window := if w.obj == obj then { w with orders := w.orders ++ [o] } else w

theorem find_withOrder (obj x : OrderObj) (o : Order) (ws : List Window) :
    (ws.map (withOrder obj o)).find? (fun w => w.obj == x) = (ws.find? (fun w => w.obj == x)).map (withOrder obj o) := by
  have hobj : (fun w : Window => w.obj == x) ∘ withOrder obj o = fun w => w.obj == x := by
    funext w
    show ((withOrder obj o w).obj == x) = _
    unfold withOrder
    split
    · rfl
    · rfl
  rw [List.find?_map, hobj]

theorem obj_windowOf {s : State} {x : OrderObj} {w : Window} (h : windowOf s x = some w) : w.obj = x := by
  simpa using List.find?_some h

theorem joinWindow_open {s : State} {obj : OrderObj} {w : Window} (o : Order) (h : windowOf s obj = some w) (x : OrderObj) :
    windowOf (joinWindow obj o s) x = (windowOf s x).map (withOrder obj o) := by
  unfold joinWindow
  rw [h]
  exact find_withOrder obj x o _

theorem joinWindow_new {s : State} {obj : OrderObj} (o : Order) (h : windowOf s obj = none) (x : OrderObj) :
    windowOf (joinWindow obj o s) x = (windowOf s x).or (if obj = x then some ⟨obj, [o], none⟩ else none) := by
  unfold joinWindow
  rw [h]
  show (s.gz.windows ++ [(⟨obj, [o], none⟩ : Window)]).find? _ = _
  rw [List.find?_append, List.find?_singleton]
  congr 1
  simp

theorem windowOf_joinWindow_other (s : State) (obj x : OrderObj) (o : Order) (hx : x ≠ obj) :
    windowOf (joinWindow obj o s) x = windowOf s x := by
  cases h : windowOf s obj with
  | none => rw [joinWindow_new o h, if_neg (Ne.symm hx), Option.or_none]
  | some w =>
    rw [joinWindow_open o h]
    cases hw : windowOf s x with
    | none => rfl
    | some v =>
      have hv : (v.obj == obj) = false := by
        rw [obj_windowOf hw]
        exact beq_false_of_ne hx
      simp [withOrder, hv]

/-- The orders that wait in the window of an object, if it is open. -/
def ordersAt (s : State) (x : OrderObj) : List Order := ((windowOf s x).map (·.orders)).getD []

theorem windowOf_joinWindow_self (s : State) (obj : OrderObj) (o : Order) :
    ∃ w, windowOf (joinWindow obj o s) obj = some w ∧ w.orders = ordersAt s obj ++ [o] := by
  unfold ordersAt
  cases h : windowOf s obj with
  | none => exact ⟨{ obj := obj, orders := [o], action := none }, by rw [joinWindow_new o h, if_pos rfl, h]; rfl, rfl⟩
  | some w => exact ⟨_, by rw [joinWindow_open o h, h]; rfl, by simp [withOrder, obj_windowOf h]⟩

theorem ordersAt_joinWindow (s : State) (obj x : OrderObj) (o : Order) :
    ordersAt (joinWindow obj o s) x = if x = obj then ordersAt s x ++ [o] else ordersAt s x := by
  split
  · next h =>
    subst h
    obtain ⟨w, hw, ho⟩ := windowOf_joinWindow_self s x o
    rw [ordersAt, hw]
    exact ho
  · next h => rw [ordersAt, windowOf_joinWindow_other s obj x o h, ordersAt]

/-- The orders of a job join the windows of their objects, one after another. -/
def joinEach (j : Job) (objs : List (OrderObj × Nat × Nat)) (s : State) : State :=
  objs.foldl (fun s o => joinWindow o.1 ⟨j.origin, j.ring / 256, o.2.1, o.2.2, some j.id⟩ s) s

theorem joinEach_gateWork (j : Job) (objs : List (OrderObj × Nat × Nat)) (s : State) : GateWork s (joinEach j objs s) := by
  induction objs generalizing s with
  | nil => exact ⟨_, _, _, _, _, _, rfl⟩
  | cons o objs ih => exact (joinWindow_gateWork ..).trans (ih _)

theorem joinEach_others (j : Job) (objs : List (OrderObj × Nat × Nat)) (s : State) (x : OrderObj) (hx : ∀ o ∈ objs, o.1 ≠ x) :
    windowOf (joinEach j objs s) x = windowOf s x := by
  induction objs generalizing s with
  | nil => rfl
  | cons o objs ih =>
    have h := ih (joinWindow o.1 ⟨j.origin, j.ring / 256, o.2.1, o.2.2, some j.id⟩ s) fun p hp => hx p (List.mem_cons_of_mem _ hp)
    exact h.trans (windowOf_joinWindow_other s _ _ _ (hx o List.mem_cons_self).symm)

theorem joinEach_keeps_orders (j : Job) (objs : List (OrderObj × Nat × Nat)) (s : State) (x : OrderObj) (o : Order)
    (ho : o ∈ ordersAt s x) : o ∈ ordersAt (joinEach j objs s) x := by
  induction objs generalizing s with
  | nil => exact ho
  | cons p objs ih =>
    refine ih _ ?_
    rw [ordersAt_joinWindow]
    split
    · exact List.mem_append_left _ ho
    · exact ho

theorem joinEach_joins (j : Job) (objs : List (OrderObj × Nat × Nat)) (s : State) (o : OrderObj × Nat × Nat) (ho : o ∈ objs) :
    ∃ w, windowOf (joinEach j objs s) o.1 = some w ∧ ⟨j.origin, j.ring / 256, o.2.1, o.2.2, some j.id⟩ ∈ w.orders := by
  have hmem : (⟨j.origin, j.ring / 256, o.2.1, o.2.2, some j.id⟩ : Order) ∈ ordersAt (joinEach j objs s) o.1 := by
    induction objs generalizing s with
    | nil => exact nomatch ho
    | cons p objs ih =>
      obtain rfl | ho := List.mem_cons.1 ho
      · refine joinEach_keeps_orders j objs (joinWindow o.1 ⟨j.origin, j.ring / 256, o.2.1, o.2.2, some j.id⟩ s) _ _ ?_
        rw [ordersAt_joinWindow, if_pos rfl]
        exact List.mem_append_right _ List.mem_cons_self
      · exact ih _ ho
  unfold ordersAt at hmem
  cases hw : windowOf (joinEach j objs s) o.1 with
  | none => rw [hw] at hmem; exact nomatch hmem
  | some w => rw [hw] at hmem; exact ⟨w, rfl, hmem⟩

/-! ## What an order's run comes to -/

/-- Where the gate has room the order waits in its windows, else it ends BUSY_DEFER (13 R358). -/
theorem joinAll_cases (objs : List (OrderObj × Nat × Nat)) (j : Job) (s : State) :
    (ledgerRoom s = false → ∃ t, joinAll objs j s = ends t (fails BUSY_DEFER 4) ∧ GateWork s t ∧ t.gz.windows = s.gz.windows) ∧
    (ledgerRoom s = true → ∃ t, joinAll objs j s = waits (joinEach j objs t) .inWindow ∧ GateWork s t ∧ t.gz.windows = s.gz.windows) := by
  have hroom : ledgerRoom (count s (uid 4 (ringOf s j.ring).home 0) 0x28 1) = ledgerRoom s := rfl
  constructor
  · intro hr
    refine ⟨gateCount (ringOf s j.ring).home false (count s (uid 4 (ringOf s j.ring).home 0) 0x28 1), ?_,
      (count_gateWork ..).trans (gateCount_gateWork ..), windows_gateCount ..⟩
    unfold joinAll
    dsimp only
    rw [hroom, hr]
    rfl
  · intro hr
    refine ⟨gateCount (ringOf s j.ring).home true (count s (uid 4 (ringOf s j.ring).home 0) 0x28 1), ?_,
      (count_gateWork ..).trans (gateCount_gateWork ..), windows_gateCount ..⟩
    unfold joinAll
    dsimp only
    rw [hroom, hr]
    rfl

/-- An order that its kernel turns away ends as `orderStop` says; any other goes to its windows. -/
def GoesAs (s : State) (j : Job) (r : RunRes) : Prop :=
  (∀ e, orderStop s j = some e → ∃ t, r = ends t e ∧ GateWork s t ∧ t.gz.windows = s.gz.windows ∧ endPoints e = 0) ∧
  (orderStop s j = none → r = joinAll (ordersOf s j) j s)

theorem GoesAs.joins {s : State} {j : Job} {r : RunRes} (ho : orderStop s j = none) (hr : r = joinAll (ordersOf s j) j s) : GoesAs s j r :=
  ⟨fun e h => absurd (ho.symm.trans h) (by simp), fun _ => hr⟩

theorem GoesAs.turned {s : State} {j : Job} {t : State} {e : End} (ho : orderStop s j = some e) (hg : GateWork s t)
    (hw : t.gz.windows = s.gz.windows) (he : endPoints e = 0) : GoesAs s j (ends t e) := by
  refine ⟨fun e' h => ?_, fun h => absurd (ho.symm.trans h) (by simp)⟩
  obtain rfl : e = e' := Option.some.inj (ho.symm.trans h)
  exact ⟨t, rfl, hg, hw, he⟩

/-- What the gate does with a packet's order that it turns away: it counts and ledgers. -/
theorem refusal_gateWork (d k u : Nat) (e : LedgerEvent) (s : State) :
    GateWork s (ledgerEv k e (gateCount d false (count s u 0x28 1))) ∧
    (ledgerEv k e (gateCount d false (count s u 0x28 1))).gz.windows = s.gz.windows :=
  ⟨((count_gateWork ..).trans (gateCount_gateWork ..)).trans (ledgerEv_gateWork ..),
    (windows_ledgerEv ..).trans (windows_gateCount ..)⟩

theorem cfgWrite_goes (h : Hdr) (p : PCfgWrite) (j : Job) (s : State) (hj : j.cmd = .cfgWrite h p) : GoesAs s j (runCfgWrite p j s) := by
  have ho : orderStop s j = itemCheck s j.origin p.unitId.toNat p.item.toNat (cfgValue p) := by rw [orderStop, hj]
  have hobj : ordersOf s j = [(.item p.unitId p.item, 0x0F02, cfgValue p)] := by rw [ordersOf, hj]
  unfold runCfgWrite
  dsimp only
  cases hc : itemCheck s j.origin p.unitId.toNat p.item.toNat (cfgValue p) with
  | some e =>
    obtain ⟨hg, hw⟩ := refusal_gateWork (ringOf s j.ring).home (min (uDie p.unitId.toNat) 12) (uid 4 (ringOf s j.ring).home 0)
      (mkEv j.origin 1 p.unitId.toNat p.item.toNat (j.ring / 256)
        (itemOld (gateCount (ringOf s j.ring).home false (count s (uid 4 (ringOf s j.ring).home 0) 0x28 1)) p.unitId.toNat p.item.toNat
          (cfgValue p)) (cfgValue p) 0 true) s
    exact .turned (ho.trans hc) hg hw (itemCheck_uncharged _ _ _ _ _ e hc)
  | none =>
    refine .joins (ho.trans hc) ?_
    rw [hobj]

theorem ctxCreate_goes (h : Hdr) (p : PCtxCreate) (j : Job) (s : State) (hj : j.cmd = .ctxCreate h p) : GoesAs s j (runCtxCreate p j s) := by
  have ho : orderStop s j = if (ctxOf s p.ctx.toNat).live then none else tablesStop p j.unit s := by rw [orderStop, hj]
  have hobj : ordersOf s j = [(.ctx p.ctx, effectOf j.cmd)] := by
    unfold ordersOf
    rw [hj]
  unfold runCtxCreate
  dsimp only
  by_cases hl : (ctxOf s p.ctx.toNat).live = true
  · rw [if_pos hl] at ho ⊢
    refine .joins ho ?_
    rw [hobj]
    rfl
  · rw [if_neg hl] at ho ⊢
    cases hc : tablesStop p j.unit s with
    | some e =>
      obtain ⟨hg, hw⟩ := refusal_gateWork (ringOf s j.ring).home 12 (uid 4 (ringOf s j.ring).home 0)
        (mkEv j.origin 0x0D p.ctx.toNat 0 p.ctx.toNat 0 0 e.status true) s
      exact .turned (ho.trans hc) hg hw (tablesStop_uncharged _ _ _ e hc)
    | none =>
      refine .joins (ho.trans hc) ?_
      rw [hobj]
      rfl

theorem rangesStop_read (s : State) (a n : Nat) (ht : rangesTrain s [(0, a, n, 0)] = false) :
    rangesStop s [(a, n)] [] = (poisonIn s a n).map (fun c => .inl (fails MEMORY_POISONED c)) := by
  have hw : (writePoison s []).map (fun c => (Sum.inl (fails MEMORY_POISONED c) : End ⊕ Phase)) = none := rfl
  unfold rangesStop
  rw [if_neg (by rw [List.append_nil]; show ¬ rangesTrain s [(0, a, n, 0)] = true; rw [ht]; simp), hw]
  unfold readPoison
  cases poisonIn s a n <;> rfl

theorem directoryUpdate_goes (h : Hdr) (p : PGrpDirUpdate) (j : Job) (s : State) (hj : j.cmd = .grpDirectoryUpdate h p)
    (ht : rangesTrain s [(0, p.entriesAddr.toNat, 48 * p.count.toNat, 0)] = false) : GoesAs s j (runGrpDirectoryUpdate p j s) := by
  have ho : orderStop s j = if !isMaster s then some (fails NO_PERMISSION (masterField s))
      else match poisonIn s p.entriesAddr.toNat (48 * p.count.toNat) with
        | some ch => some (fails MEMORY_POISONED ch)
        | none => (updateBad s (updateEntries s j.unit p)).map (fun i => fails OUT_OF_RANGE (0x80000000 + 48 * i)) := by
    rw [orderStop, hj] <;> rfl
  have hobj : ordersOf s j = ((updateEntries s j.unit p).foldl (fun m e => amPut m (keyOf e) e) ([] : AMap DirEntry)).map
      (fun e => (.dirKey (BitVec.ofNat 32 e.1), 0x0A01, leNat (dirEntryBytes e.2))) := by
    rw [ordersOf, hj]
  unfold runGrpDirectoryUpdate
  by_cases hm : (!isMaster s) = true
  · rw [if_pos hm] at ho ⊢
    exact .turned ho ⟨_, _, _, _, _, _, rfl⟩ rfl rfl
  · rw [if_neg hm] at ho ⊢
    rw [rangesStop_read _ _ _ ht]
    cases hp : poisonIn s p.entriesAddr.toNat (48 * p.count.toNat) with
    | some ch =>
      rw [hp] at ho
      exact .turned ho ⟨_, _, _, _, _, _, rfl⟩ rfl rfl
    | none =>
      rw [hp] at ho
      dsimp only [Option.map]
      cases hu : updateBad s (updateEntries s j.unit p) with
      | some i =>
        rw [hu] at ho
        obtain ⟨hg, hw⟩ := refusal_gateWork (ringOf s j.ring).home 12 (uid 4 (ringOf s j.ring).home 0)
          (mkEv j.origin 0x0D ((((updateEntries s j.unit p)[i]?).map keyOf).getD 0) 0 (j.ring / 256) 0 0
            (fails OUT_OF_RANGE (0x80000000 + 48 * i)).status true) s
        exact .turned ho hg hw rfl
      | none =>
        rw [hu] at ho
        refine .joins ho ?_
        rw [hobj]

/-- An order on one object, that nothing turns away at the door. -/
theorem runOrder_goes {obj : OrderObj} {j : Job} {s : State} (ho : orderStop s j = none) (hobj : ordersOf s j = [(obj, effectOf j.cmd)]) :
    GoesAs s j (runOrder obj j s) :=
  .joins ho (by rw [hobj]; rfl)

/-- Every order goes as its kernel says. -/
theorem order_goes (i : Instr) (s : State) (j : Job) (hi : isOrder i = true) (hj : j.cmd = i)
    (ht : ∀ h p, i = .grpDirectoryUpdate h p → rangesTrain s [(0, p.entriesAddr.toNat, 48 * p.count.toNat, 0)] = false) :
    GoesAs s j (runOf i j s) := by
  cases i with
  | cfgWrite h p => exact cfgWrite_goes h p j s hj
  | ctxCreate h p => exact ctxCreate_goes h p j s hj
  | grpDirectoryUpdate h p => exact directoryUpdate_goes h p j s hj (ht h p rfl)
  | selftestUnit h p f => exact runOrder_goes (by rw [orderStop, hj]) (by unfold ordersOf; rw [hj])
  | calibrateChannel h p => exact runOrder_goes (by rw [orderStop, hj]) (by unfold ordersOf; rw [hj])
  | ctxDestroy h p => exact runOrder_goes (by rw [orderStop, hj]) (by unfold ordersOf; rw [hj])
  | mapOut h p => exact runOrder_goes (by rw [orderStop, hj]) (by unfold ordersOf; rw [hj])
  | remapEpoch h p => exact runOrder_goes (by rw [orderStop, hj]) (by unfold ordersOf; rw [hj])
  | fwLoad h p f => exact runOrder_goes (by rw [orderStop, hj]) (by unfold ordersOf; rw [hj])
  | _ => exact absurd hi (by simp [isOrder])

theorem exec_order (i : Instr) (s : State) (hi : isOrder i = true) : exec i s = .next (issue (preOf s i) (runOf i) i s) := by
  cases i with
  | cfgWrite h p => rfl
  | ctxCreate h p => rfl
  | grpDirectoryUpdate h p => rfl
  | selftestUnit h p f => rfl
  | calibrateChannel h p => rfl
  | ctxDestroy h p => rfl
  | mapOut h p => rfl
  | remapEpoch h p => rfl
  | fwLoad h p f => rfl
  | _ => exact absurd hi (by simp [isOrder])

/-! ## O45 -/

theorem GateWork.frame {s t : State} (h : GateWork s t) :
    t.hw.items = s.hw.items ∧ t.hw.health = s.hw.health ∧ SameEngines s t ∧ t.pending = s.pending ∧ t.now = s.now ∧ t.mem = s.mem ∧
    t.sig = s.sig ∧ t.gz.jobs = s.gz.jobs ∧ t.gz.rings = s.gz.rings := by
  obtain ⟨_, _, _, _, _, _, rfl⟩ := h
  exact ⟨rfl, rfl, ⟨rfl, rfl, rfl, rfl, rfl, rfl, rfl⟩, rfl, rfl, rfl, rfl, rfl, rfl⟩

theorem begun_gz (s : State) (i : Instr) : (begun s i).gz.windows = s.gz.windows ∧ (begun s i).tr = s.tr ∧
    (begun s i).hw.items = s.hw.items ∧ (begun s i).hw.health = s.hw.health ∧ SameEngines s (begun s i) ∧
    (begun s i).pending = s.pending ∧ (begun s i).sig = s.sig ∧ (begun s i).mem.cells = s.mem.cells := by
  obtain ⟨_, _, h⟩ := begun_eq s i
  rw [h]
  exact ⟨rfl, rfl, rfl, rfl, ⟨rfl, rfl, rfl, rfl, rfl, rfl, rfl⟩, rfl, rfl, rfl⟩

/-- What an order leaves alone at the door (02 R64-R66). -/
def Door (s t : State) (j : Job) : Prop :=
  t.hw.items = s.hw.items ∧ t.hw.health = s.hw.health ∧ SameEngines s t ∧ t.pending = s.pending ∧ MemSame s t (replyWrites s j)

theorem SameEngines.trans {s t u : State} (h : SameEngines s t) (k : SameEngines t u) : SameEngines s u := by
  obtain ⟨h1, h2, h3, h4, h5, h6, h7⟩ := h
  obtain ⟨k1, k2, k3, k4, k5, k6, k7⟩ := k
  exact ⟨k1.trans h1, k2.trans h2, k3.trans h3, k4.trans h4, k5.trans h5, k6.trans h6, k7.trans h7⟩

/-- Whether a place trains is a matter of channels and sides. -/
theorem rangesTrain_congr {s t : State} (hc : t.mem.chans = s.mem.chans) (hs : t.mem.sides = s.mem.sides)
    (rs : List (Nat × Nat × Nat × Nat)) : rangesTrain t rs = rangesTrain s rs := by
  have hscan : ∀ n a, trainScan t a n = trainScan s a n := by
    intro n
    induction n with
    | zero => exact fun _ => rfl
    | succ n ih =>
      intro a
      unfold trainScan training chanOf chan sideOf
      rw [hc, hs, ih]
  unfold rangesTrain
  simp only [hscan, hc]

theorem replyWrites_gateWork {s u : State} {pre : Pre} {i : Instr} (hg : GateWork (begun s i) u) :
    replyWrites u (jobFor s pre i) = replyWrites s (jobFor s pre i) := by
  have h := replyWrites_of_runOnly (s := s) (pre := pre) (i := i) (.refl _)
  rw [← h, replyWrites, replyWrites, ringOf, ringOf, hg.frame.2.2.2.2.2.2.2.2]

/-- Where an order leaves the door, units and memory are as they were. -/
theorem door_gateWork {s u : State} {i : Instr} (hg : GateWork (begun s i) u) :
    u.hw.items = s.hw.items ∧ u.hw.health = s.hw.health ∧ SameEngines s u ∧ u.pending = s.pending ∧ ∀ x, byteAt u x = byteAt s x := by
  obtain ⟨-, -, hbi, hbh, hbe, hbp, -, -⟩ := begun_gz s i
  obtain ⟨hi, hh, hse, hp, -, hmem, -, -, -⟩ := hg.frame
  exact ⟨hi.trans hbi, hh.trans hbh, SameEngines.trans hbe hse, hp.trans hbp, fun x => (byteAt_of_mem hmem x).trans (byteAt_begun s i x)⟩

/-- An order that ends at the door writes its reply and nothing else. -/
theorem door_replied {s u : State} {pre : Pre} {i : Instr} {e : End} (hc : Calm s []) (hg : GateWork (begun s i) u) (he : endPoints e = 0) :
    Answered s (replied s pre i u e) (jobFor s pre i) e ∧ (replied s pre i u e).gz.windows = u.gz.windows ∧
    Door s (replied s pre i u e) (jobFor s pre i) := by
  obtain ⟨hjobs, hm, hw⟩ := calm_begun i hc.1 hc.2.1 hc.2.2
  obtain ⟨-, -, -, -, hn, hmem, hs, hj, hr⟩ := hg.frame
  obtain ⟨hi, hh, hse, hp, hby⟩ := door_gateWork hg
  have hcalm : Calm u [] := ⟨hj.trans hjobs, by rw [hmem]; exact hm, by rw [hs]; exact hw⟩
  refine ⟨answered_replied hcalm (.of_rings hr _) (hn.trans (begun_frame s i).2.1), ?_, ?_⟩
  · rw [replied_of_idle hcalm he]
    exact (finish_calm u (jobFor s pre i) e hcalm.2.2 he).2.2.2.2.1
  · obtain ⟨ymem, yse, -, ⟨yi, yh, -, -, yp, -⟩, -, -⟩ := replyFrame s pre i u e hcalm he
    rw [replyWrites_gateWork hg] at ymem
    exact ⟨yi.trans hi, yh.trans hh, SameEngines.trans hse yse, yp.trans hp, fun x hx => (ymem x hx).trans (hby x)⟩

/-- Settles O45. -/
theorem ordersJoinTheirWindows : Obligations.OrdersJoinTheirWindows := by
  intro i s hi pre j b rest hc ha ht
  have hb : Calm b [] := calm_begun i hc.1 hc.2.1 hc.2.2
  have htrain : ∀ h p, i = .grpDirectoryUpdate h p → rangesTrain b [(0, p.entriesAddr.toNat, 48 * p.count.toNat, 0)] = false := by
    intro h p he
    rw [← ht h p he]
    exact rangesTrain_congr (by simp [b]) (by simp [b]) _
  obtain ⟨hstop, hjoin⟩ := order_goes i b j hi rfl htrain
  have hwin : b.gz.windows = s.gz.windows := (begun_gz s i).1
  have hroom : ledgerRoom b = ledgerRoom s := by
    unfold ledgerRoom
    rw [(begun_gz s i).2.1]
  refine ⟨fun e he => ?_, fun hn hr => ?_, fun hn hr => ?_⟩
  · obtain ⟨u, hrun, hg, hu, h0⟩ := hstop e he
    obtain ⟨hans, hw, hdoor⟩ := door_replied (pre := pre) hc hg h0
    exact ⟨_, exec_of_run_ends (exec_order i s hi) ha hrun, hans, hw.trans (hu.trans hwin), hdoor⟩
  · obtain ⟨u, hrun, hg, hu⟩ := (joinAll_cases (ordersOf b j) j b).1 (hroom.trans hr)
    obtain ⟨hans, hw, hdoor⟩ := door_replied (pre := pre) hc hg (e := fails BUSY_DEFER 4) rfl
    exact ⟨_, exec_of_run_ends (exec_order i s hi) ha ((hjoin hn).trans hrun), hans, hw.trans (hu.trans hwin), hdoor⟩
  · obtain ⟨u, hrun, hg, hu⟩ := (joinAll_cases (ordersOf b j) j b).2 (hroom.trans hr)
    have hgj := hg.trans (joinEach_gateWork j (ordersOf b j) u)
    obtain ⟨-, -, -, -, -, -, -, hjobs, -⟩ := hgj.frame
    obtain ⟨yi, yh, yse, yp, yby⟩ := door_gateWork hgj
    have hone := jobs_park (joinEach j (ordersOf b j) u) j .inWindow (hjobs.trans hb.1)
    refine ⟨_, (exec_of_run_waits (exec_order i s hi) ha ((hjoin hn).trans hrun)).trans
      (congrArg Host.Outcome.next (settle_quiet _ (quiet_one hone rfl))), ?_, ⟨yi, yh, yse, yp, fun x _ => yby x⟩,
      fun o ho => joinEach_joins j _ u o ho, fun obj hobj => ?_⟩
    · exact congrArg (Option.map (·.phase)) (jobOf_one hone)
    · refine (joinEach_others j _ u obj hobj).trans ?_
      rw [windowOf, hu, hwin]
      rfl

end Sys2Proof.Proofs
end

section
/-! PROOFS. Writes of configuration items (02 R415). -/

namespace Sys2Proof.Proofs

open Sys2Proof Sys2Proof.Machine Sys2Proof.Laws

/-! ## What an entry of the ledger leaves of contexts, of the time and of flash -/

/-- Ledger work: besides counts, pages and their numbers it changes of a context only its check record and snapshot. -/
structure Noted (s t : State) : Prop where
  work : LedgerOnly s t
  ctxs : ∀ c, ∃ k n, ctxOf t c = { ctxOf s c with chk := k, snap := n }
  time : t.tr.timeSet = s.tr.timeSet ∧ t.tr.timePtp = s.tr.timePtp ∧ t.tr.timeBase = s.tr.timeBase ∧ t.tr.timeAt = s.tr.timeAt
  debug : t.tr.debugEver = s.tr.debugEver
  net : t.flash.mgmtNet = s.flash.mgmtNet ∧ t.flash.mgmtTable = s.flash.mgmtTable
  taps : t.flash.taps = s.flash.taps ∧ t.flash.rails = s.flash.rails

theorem Noted.refl (s : State) : Noted s s := ⟨.refl s, fun _ => ⟨_, _, rfl⟩, ⟨rfl, rfl, rfl, rfl⟩, rfl, ⟨rfl, rfl⟩, ⟨rfl, rfl⟩⟩

theorem Noted.trans {s t u : State} (h : Noted s t) (k : Noted t u) : Noted s u := by
  obtain ⟨hw, hc, ⟨h1, h2, h3, h4⟩, hd, ⟨h5, h6⟩, h7, h8⟩ := h
  obtain ⟨kw, kc, ⟨k1, k2, k3, k4⟩, kd, ⟨k5, k6⟩, k7, k8⟩ := k
  refine ⟨hw.trans kw, fun c => ?_, ⟨k1.trans h1, k2.trans h2, k3.trans h3, k4.trans h4⟩, kd.trans hd,
    ⟨k5.trans h5, k6.trans h6⟩, k7.trans h7, k8.trans h8⟩
  obtain ⟨_, _, h⟩ := hc c
  obtain ⟨_, _, k⟩ := kc c
  exact ⟨_, _, by rw [k, h]⟩

theorem numberEntry_noted (s : State) (e : LedgerEvent) : Noted s (numberEntry s e) :=
  ⟨numberEntry_ledgerOnly s e, fun _ => ⟨_, _, rfl⟩, ⟨rfl, rfl, rfl, rfl⟩, rfl, ⟨rfl, rfl⟩, ⟨rfl, rfl⟩⟩

theorem numberEntries_noted (l : List LedgerEvent) (s : State) : Noted s (l.foldl numberEntry s) := by
  induction l generalizing s with
  | nil => exact .refl s
  | cons e l ih => exact (numberEntry_noted s e).trans (ih _)

theorem closePage_noted (reason : Nat) (s : State) : Noted s (closePage reason s) := by
  by_cases h : s.tr.openPage = []
  · rw [closePage_empty reason s h]
    exact .refl s
  · rw [closePage_eq reason s h]
    exact ⟨⟨_, _, _, _, rfl⟩, fun _ => ⟨_, _, rfl⟩, ⟨rfl, rfl, rfl, rfl⟩, rfl, ⟨rfl, rfl⟩, ⟨rfl, rfl⟩⟩

theorem snapMark_noted (s : State) : Noted s (snapMark s) := by
  refine ⟨⟨_, _, _, _, rfl⟩, fun c => ?_, ⟨rfl, rfl, rfl, rfl⟩, rfl, ⟨rfl, rfl⟩, ⟨rfl, rfl⟩⟩
  unfold ctxOf snapMark
  dsimp only
  rw [amGet_eq, amGet_eq, amFind_map_of_keys _ (fun e => by split <;> rfl), amFind]
  cases s.gz.ctxs.find? (fun e => e.1 == c) with
  | none => exact ⟨_, _, rfl⟩
  | some e =>
    dsimp only [Option.map_some, Option.getD_some]
    split
    · exact ⟨_, _, rfl⟩
    · exact ⟨_, _, rfl⟩

theorem appendAll_noted (es : List LedgerEvent) (s : State) : Noted s (appendAll es s) := by
  induction es generalizing s with
  | nil => exact .refl s
  | cons e es ih =>
    unfold appendAll
    dsimp only
    refine (numberEntry_noted s e).trans (Noted.trans ?_ (ih _))
    split
    · exact closePage_noted 0 _
    · exact .refl _

theorem appendEntry_noted (e : LedgerEvent) (s : State) : Noted s (appendEntry e s) := by
  unfold appendEntry sealPage
  dsimp only
  split
  · split
    · exact numberEntry_noted s e
    · exact (numberEntry_noted s e).trans ((snapMark_noted _).trans ((numberEntries_noted _ _).trans
        ((closePage_noted 0 _).trans (appendAll_noted _ _))))
  · exact numberEntry_noted s e

theorem ledgerEv_noted (die : Nat) (e : LedgerEvent) (s : State) : Noted s (ledgerEv die e s) := by
  unfold ledgerEv
  split
  · exact appendEntry_noted e s
  · exact ⟨⟨_, _, _, _, rfl⟩, fun _ => ⟨_, _, rfl⟩, ⟨rfl, rfl, rfl, rfl⟩, rfl, ⟨rfl, rfl⟩, ⟨rfl, rfl⟩⟩

theorem itemLedger_noted (origin ctx u it old v : Nat) (s : State) : Noted s (itemLedger origin ctx u it old v s) := by
  unfold itemLedger
  extract_lets d s1
  have h : Noted s s1 := by
    show Noted s (if _ then _ else _)
    split
    · exact ledgerEv_noted ..
    · exact ledgerEv_noted ..
  split
  · exact h.trans (ledgerEv_noted ..)
  · exact h

/-! ## What an item takes survives its entry -/

theorem Noted.hw {s t : State} (h : Noted s t) :
    t.hw.items = s.hw.items ∧ t.hw.wdog = s.hw.wdog ∧ t.hw.factor = s.hw.factor ∧ t.hw.counters = s.hw.counters ∧
    t.hw.selGen = s.hw.selGen ∧ t.hw.stopped = s.hw.stopped ∧ t.snap = s.snap ∧ t.gz.rings = s.gz.rings ∧ t.link = s.link ∧
    t.mem = s.mem ∧ t.now = s.now ∧ t.gz.jobs = s.gz.jobs ∧ t.mm = s.mm := by
  obtain ⟨_, _, _, _, rfl⟩ := h.work
  exact ⟨rfl, rfl, rfl, rfl, rfl, rfl, rfl, rfl, rfl, rfl, rfl, rfl, rfl⟩

theorem ItemTook.noted {s x t : State} {u it v : Nat} (h : ItemTook s x u it v) (k : Noted x t) : ItemTook s t u it v := by
  obtain ⟨hitem, hwdog, hover, hfac, hstat, hext, hring, hing, htime, hnet, hdbg, hport, hcnt, hsnap⟩ := h
  obtain ⟨ki, kw, kf, kc, ks, kst, ksn, kr, kl, km, kn, -, -⟩ := k.hw
  obtain ⟨t1, t2, t3, t4⟩ := k.time
  obtain ⟨n1, n2⟩ := k.net
  have hctx : ∀ c, (ctxOf t c).overlap = (ctxOf x c).overlap ∧ (ctxOf t c).statTable = (ctxOf x c).statTable ∧
      (ctxOf t c).extents = (ctxOf x c).extents := by
    intro c
    obtain ⟨_, _, h⟩ := k.ctxs c
    rw [h]
    exact ⟨rfl, rfl, rfl⟩
  have hclock : timeNow t = timeNow x := by
    unfold timeNow
    rw [t1, t3, t4, kn]
  refine ⟨fun h => ?_, fun h => ?_, fun h => ?_, fun h => ?_, fun h => ?_, fun h => ?_, fun h => ?_, fun h => ?_, fun h => ?_,
    fun h => ?_, fun h hb => ?_, fun h hne => ?_, fun h => ?_, fun h h' => ?_⟩
  · exact (show item t u it = item x u it by rw [item, item, ki]).trans (hitem h)
  · exact (show wdogDelayOf t _ _ = wdogDelayOf x _ _ by rw [wdogDelayOf, wdogDelayOf, kw]).trans (hwdog h)
  · exact (hctx _).1.trans (hover h)
  · exact (show factorTable t _ _ = factorTable x _ _ by rw [factorTable, factorTable, kf]).trans (hfac h)
  · exact (hctx _).2.1.trans (hstat h)
  · rw [(hctx _).2.2]
    exact hext h
  · exact (show ringOf t _ = ringOf x _ by rw [ringOf, ringOf, kr]).trans (hring h)
  · rw [kl]
    exact hing h
  · rw [t1, t2, hclock]
    exact htime h
  · rw [n1, n2]
    exact hnet h
  · rw [k.debug]
    exact hdbg h hb
  · exact (show (portOf t _).state = (portOf x _).state by rw [portOf, portOf, kl]).trans (hport h hne)
  · rw [kc, ks, kst]
    exact hcnt h
  · rw [ksn]
    exact hsnap h h'

theorem ItemsElse.noted {s x t : State} {u it v : Nat} (h : ItemsElse s x u it v) (k : Noted x t) : ItemsElse s t u it v := by
  obtain ⟨hitem, hwdog, hfac, hcnt, hsnap, hring, hing, hmem, hctx⟩ := h
  obtain ⟨ki, kw, kf, kc, -, -, ksn, kr, kl, km, -, -, -⟩ := k.hw
  refine ⟨fun u' it' h h' => ?_, ?_, ?_, ?_, ?_, fun key h => ?_, ?_, ?_, fun c => ?_⟩
  · exact (show item t u' it' = item x u' it' by rw [item, item, ki]).trans (hitem u' it' h h')
  · rw [kw]; exact hwdog
  · rw [kf]; exact hfac
  · rw [kc]; exact hcnt
  · rw [ksn]; exact hsnap
  · exact (show ringOf t key = ringOf x key by rw [ringOf, ringOf, kr]).trans (hring key h)
  · rw [kl]; exact hing
  · rw [km]; exact hmem
  · obtain ⟨_, _, hk⟩ := k.ctxs c
    rw [hk]
    exact hctx c

/-! ## What a write of an item sets, row by row -/

/-- The items that a write reaches: an item code of 16 bits, and an item of the MD die block only there. -/
theorem mdBlock_of_itemOn {u it : Nat} (h : itemOn u it = true) (hit : it = iMgmtNet ∨ it = iDebugCfg) : u = mdBlock := by
  obtain rfl | rfl := hit
  · simpa [itemOn, iMgmtNet, iWdog, iPaceCap, iPaceStatus, iPaceCurrent, iCheckLimit, iFactorTable, iMarginCfg, iRotateCfg, iSegLimit,
      iCombineArea, iMapoutPolicy, iPortCfg, iIngestCfg, iCntSel, onMd] using h
  · simpa [itemOn, iDebugCfg, iWdog, iPaceCap, iPaceStatus, iPaceCurrent, iCheckLimit, iFactorTable, iMarginCfg, iRotateCfg, iSegLimit,
      iCombineArea, iMapoutPolicy, iPortCfg, iIngestCfg, iCntSel, onMd] using h

/-! ### The rows of `applyItem` -/

theorem applyItem_cntSel (u it v : Nat) (s : State) (h : iCntSel ≤ it) (h' : it < iCntSel + 8) :
    applyItem u it v s = applyCntSel u (it - iCntSel) v s := by
  have hcnt : (decide (iCntSel ≤ it) && decide (it < iCntSel + 8)) = true := by simp [h, h']
  unfold iCntSel at h h'
  unfold applyItem
  dsimp only
  rw [if_neg (by unfold iWdog; omega), if_neg (by unfold iOverlap; omega), if_neg (by unfold iFactorTable; omega),
    if_neg (by unfold iStatTable; omega), if_neg (by unfold iCtx0Extent; omega), if_neg (by unfold iCtx0Ring; omega),
    if_neg (by unfold iGroupCfg; omega), if_neg (by unfold iPortCfg; omega), if_neg (by unfold iIngestCfg; omega),
    if_neg (by unfold iTimeOfDay; omega), if_neg (by unfold iMgmtNet; omega), if_neg (by unfold iDebugCfg; omega),
    if_pos hcnt]

theorem applyItem_snapRing (u it v : Nat) (s : State) (h : iSnapRing ≤ it) (h' : it < 0x0100) :
    applyItem u it v s = applySnap (it - iSnapRing) (bits v 56 8) (bits v 0 48) (setItem s u it v) := by
  have hsnap : (decide (iSnapRing ≤ it) && decide (it < 0x0100)) = true := by simp [h, h']
  unfold iSnapRing at h
  have hcnt : ¬(decide (iCntSel ≤ it) && decide (it < iCntSel + 8)) = true := by
    unfold iCntSel
    simp
    omega
  unfold applyItem
  dsimp only
  rw [if_neg (by unfold iWdog; omega), if_neg (by unfold iOverlap; omega), if_neg (by unfold iFactorTable; omega),
    if_neg (by unfold iStatTable; omega), if_neg (by unfold iCtx0Extent; omega), if_neg (by unfold iCtx0Ring; omega),
    if_neg (by unfold iGroupCfg; omega), if_neg (by unfold iPortCfg; omega), if_neg (by unfold iIngestCfg; omega),
    if_neg (by unfold iTimeOfDay; omega), if_neg (by unfold iMgmtNet; omega), if_neg (by unfold iDebugCfg; omega),
    if_neg hcnt, if_pos hsnap]

/-- An item of which a write sets nothing but its value. -/
def PlainItem (it : Nat) : Prop :=
  it ∉ [iWdog, iOverlap, iFactorTable, iStatTable, iCtx0Extent, iCtx0Ring, iGroupCfg, iPortCfg, iIngestCfg, iTimeOfDay, iMgmtNet, iDebugCfg] ∧
  ¬(iCntSel ≤ it ∧ it < iCntSel + 8) ∧ ¬(iSnapRing ≤ it ∧ it < 0x0100)

theorem applyItem_plain (u it v : Nat) (s : State) (h : PlainItem it) : applyItem u it v s = setItem s u it v := by
  obtain ⟨hn, hc, hs⟩ := h
  simp only [List.mem_cons, List.not_mem_nil, or_false, not_or] at hn
  obtain ⟨h1, h2, h3, h4, h5, h6, h7, h8, h9, h10, h11, h12⟩ := hn
  unfold applyItem
  dsimp only
  rw [if_neg h1, if_neg h2, if_neg h3, if_neg h4, if_neg h5, if_neg h6, if_neg h7, if_neg h8, if_neg h9, if_neg h10, if_neg h11,
    if_neg h12, if_neg (by simpa using hc), if_neg (by simpa using hs)]

/-- A statement about every item, row by row of `applyItem`. -/
theorem item_rows {P : Nat → Prop} (it : Nat) (wdog : P iWdog) (overlap : P iOverlap) (factor : P iFactorTable) (stat : P iStatTable)
    (extent : P iCtx0Extent) (ring : P iCtx0Ring) (group : P iGroupCfg) (port : P iPortCfg) (ingest : P iIngestCfg)
    (time : P iTimeOfDay) (net : P iMgmtNet) (debug : P iDebugCfg) (cnt : ∀ it, iCntSel ≤ it → it < iCntSel + 8 → P it)
    (snap : ∀ it, iSnapRing ≤ it → it < 0x0100 → P it) (plain : ∀ it, PlainItem it → P it) : P it := by
  by_cases hc : iCntSel ≤ it ∧ it < iCntSel + 8
  · exact cnt it hc.1 hc.2
  · by_cases hs : iSnapRing ≤ it ∧ it < 0x0100
    · exact snap it hs.1 hs.2
    · by_cases hn : it ∈ [iWdog, iOverlap, iFactorTable, iStatTable, iCtx0Extent, iCtx0Ring, iGroupCfg, iPortCfg, iIngestCfg, iTimeOfDay,
          iMgmtNet, iDebugCfg]
      · simp only [List.mem_cons, List.not_mem_nil, or_false] at hn
        rcases hn with rfl | rfl | rfl | rfl | rfl | rfl | rfl | rfl | rfl | rfl | rfl | rfl
        · exact wdog
        · exact overlap
        · exact factor
        · exact stat
        · exact extent
        · exact ring
        · exact group
        · exact port
        · exact ingest
        · exact time
        · exact net
        · exact debug
      · exact plain it ⟨hn, hc, hs⟩

/-! ### The frame of a write -/

/-- At most the entry of one item of one unit has changed among the items. -/
def OnlyItem (s t : State) (u it : Nat) : Prop :=
  t.hw.items = s.hw.items ∨ ∃ x, t.hw.items = amPut s.hw.items (65536 * u + it) x

theorem OnlyItem.elsewhere {s t : State} {u it : Nat} (h : OnlyItem s t u it) (hit : it < 65536) (u' it' : Nat) (hit' : it' < 65536)
    (hne : ¬(u' = u ∧ it' = it)) : item t u' it' = item s u' it' := by
  unfold item
  obtain h | ⟨x, h⟩ := h
  · rw [h]
  · rw [h, amGet_amPut, if_neg (by omega)]

/-- The frame of a write, from what it changes besides its item. -/
theorem itemsElse_of {s t : State} {u it v : Nat} (hit : it < 65536) (items : OnlyItem s t u it)
    (wdog : t.hw.wdog = s.hw.wdog ∨ it = iWdog ∧ ∃ x, t.hw.wdog = amPut s.hw.wdog (256 * u + bits v 24 8) x)
    (factor : t.hw.factor = s.hw.factor ∨ it = iFactorTable ∧ ∃ x, t.hw.factor = amPut s.hw.factor (256 * uDie u + bits v 56 8) x)
    (counters : t.hw.counters = s.hw.counters ∨ (iCntSel ≤ it ∧ it < iCntSel + 8) ∧
      ∃ x, t.hw.counters = amPut s.hw.counters (8 * u + (it - iCntSel)) x)
    (snap : t.snap = s.snap ∨ ∃ n, it = iSnapRing + n ∧ ∀ k, k ≠ n → amFind t.snap k = amFind s.snap k)
    (rings : t.gz.rings = s.gz.rings ∨ it = iCtx0Ring ∧ ∃ x, t.gz.rings = amPut s.gz.rings (bits v 56 8) x)
    (ingest : it ≠ iIngestCfg → t.link.ingest = s.link.ingest) (mem : t.mem.cells = s.mem.cells)
    (ctxs : t.gz.ctxs = s.gz.ctxs ∨ ∃ c f, t.gz.ctxs = amMod {} s.gz.ctxs c f ∧
      (∀ x, (f x).cls = x.cls ∧ (f x).live = x.live ∧ (¬(it = iCtx0Extent ∧ c = 0) → (f x).extents = x.extents) ∧
        (¬(it = iOverlap ∧ c = bits v 8 8) → (f x).overlap = x.overlap) ∧
        (¬(it = iStatTable ∧ c = bits v 56 8) → (f x).statTable = x.statTable))) : ItemsElse s t u it v := by
  refine ⟨items.elsewhere hit, fun k hk => ?_, fun k hk => ?_, fun k hk => ?_, fun n hn hne => ?_, fun key hk => ?_, ingest, mem,
    fun c => ?_⟩
  · obtain h | ⟨rfl, x, h⟩ := wdog
    · rw [h]
    · rw [h, amFind_amPut, if_neg fun e => hk ⟨rfl, e⟩]
  · obtain h | ⟨rfl, x, h⟩ := factor
    · rw [h]
    · rw [h, amFind_amPut, if_neg fun e => hk ⟨rfl, e⟩]
  · obtain h | ⟨⟨h1, h2⟩, x, h⟩ := counters
    · rw [h]
    · rw [h, amFind_amPut, if_neg fun e => hk ⟨h1, h2, e⟩]
  · obtain h | ⟨m, rfl, h⟩ := snap
    · rw [h]
    · exact h n fun e => hne (by rw [e])
  · unfold ringOf
    obtain h | ⟨rfl, x, h⟩ := rings
    · rw [h]
    · rw [h, amGet_amPut, if_neg fun e => hk ⟨rfl, e⟩]
  · unfold ctxOf
    obtain h | ⟨d, f, h, hf⟩ := ctxs
    · rw [h]
      exact ⟨rfl, rfl, fun _ => rfl, fun _ => rfl, fun _ => rfl⟩
    · rw [h, amGet_amMod]
      split
      · next e =>
        subst e
        exact hf _
      · exact ⟨rfl, rfl, fun _ => rfl, fun _ => rfl, fun _ => rfl⟩

theorem setItem_onlyItem (s : State) (u it v : Nat) : OnlyItem s (setItem s u it v) u it := .inr ⟨v, rfl⟩

theorem setItem_else (s : State) (u it v : Nat) (hit : it < 65536) : ItemsElse s (setItem s u it v) u it v :=
  itemsElse_of hit (setItem_onlyItem ..) (.inl rfl) (.inl rfl) (.inl rfl) (.inl rfl) (.inl rfl) (fun _ => rfl) rfl (.inl rfl)

theorem applyMgmtNet_eq (v : Nat) (s : State) :
    ∃ tr fl, applyMgmtNet v s = { setItem s mdBlock iMgmtNet v with tr := tr, flash := fl } := by
  unfold applyMgmtNet
  extract_lets a t old s1 fl tr s2
  have h2 : s2 = { setItem s mdBlock iMgmtNet v with
      tr := { s.tr with slaac := if bit v 48 then s.tr.slaac else [], dhcp4 := if bit v 50 then s.tr.dhcp4 else none }
      flash := { s.flash with mgmtNet := v, mgmtTable := t } } := rfl
  by_cases hold : (old.all fun x => (mgmtAddrs s2).contains x) = true
  · exact ⟨_, _, (if_pos hold).trans h2⟩
  · rw [if_neg hold, h2]
    exact ⟨_, _, rfl⟩

theorem applyDebug_eq (v : Nat) (s : State) :
    ∃ tr md, applyDebug v s = { setItem s mdBlock iDebugCfg v with tr := tr, mod := md } := by
  obtain ⟨x, hx⟩ : ∃ x, setItem s mdBlock iDebugCfg v = x := ⟨_, rfl⟩
  unfold applyDebug
  rw [hx]
  by_cases h0 : bit v 0 = true
  · by_cases h2 : bit v 2 = true
    · exact ⟨{ x.tr with debugEver := true }, x.mod, by simp [h0, h2]⟩
    · exact ⟨{ x.tr with debugEver := true }, { x.mod with tap := .reset, tapIr := 0, tapShift := [] }, by simp [h0, h2]⟩
  · exact ⟨x.tr, { x.mod with tap := .reset, tapIr := 0, tapShift := [] }, by simp [h0]⟩

/-- Every other item, delay, table, counter, ring and byte is as before (02 R415). -/
theorem applyItem_else (u it v : Nat) (s : State) (hit : it < 65536) (hon : itemOn u it = true) (hp : it ≠ iPortCfg) (hg : it ≠ iGroupCfg) :
    ItemsElse s (applyItem u it v s) u it v := by
  revert hit hon hp hg
  refine item_rows (P := fun it => it < 65536 → itemOn u it = true → it ≠ iPortCfg → it ≠ iGroupCfg → ItemsElse s (applyItem u it v s) u it v)
    it ?wdog ?overlap ?factor ?stat ?extent ?ring ?group ?port ?ingest ?time ?net ?debug ?cnt ?snap ?plain
  case wdog => exact fun hit _ _ _ => itemsElse_of hit (.inl rfl) (.inr ⟨rfl, _, rfl⟩) (.inl rfl) (.inl rfl) (.inl rfl) (.inl rfl) (fun _ => rfl) rfl (.inl rfl)
  case overlap =>
    exact fun hit _ _ _ => itemsElse_of hit (.inl rfl) (.inl rfl) (.inl rfl) (.inl rfl) (.inl rfl) (.inl rfl) (fun _ => rfl) rfl
      (.inr ⟨bits v 8 8, fun x => { x with overlap := bit v 0 }, rfl, fun _ => ⟨rfl, rfl, fun _ => rfl, fun h => absurd ⟨rfl, rfl⟩ h, fun _ => rfl⟩⟩)
  case factor => exact fun hit _ _ _ => itemsElse_of hit (.inl rfl) (.inl rfl) (.inr ⟨rfl, _, rfl⟩) (.inl rfl) (.inl rfl) (.inl rfl) (fun _ => rfl) rfl (.inl rfl)
  case stat =>
    exact fun hit _ _ _ => itemsElse_of hit (.inl rfl) (.inl rfl) (.inl rfl) (.inl rfl) (.inl rfl) (.inl rfl) (fun _ => rfl) rfl
      (.inr ⟨bits v 56 8, fun x => { x with statTable := bits v 0 48 }, rfl, fun _ => ⟨rfl, rfl, fun _ => rfl, fun _ => rfl, fun h => absurd ⟨rfl, rfl⟩ h⟩⟩)
  case extent =>
    exact fun hit _ _ _ => itemsElse_of hit (.inr ⟨v, rfl⟩) (.inl rfl) (.inl rfl) (.inl rfl) (.inl rfl) (.inl rfl) (fun _ => rfl) rfl
      (.inr ⟨0, fun c => { c with
        extents := if usedExtent (readExtent (readBytes s (kernelCore 12) (bits v 0 48) 32))
          then amPut c.extents (bits v 56 8) (readExtent (readBytes s (kernelCore 12) (bits v 0 48) 32))
          else amDel c.extents (bits v 56 8) }, rfl, fun _ => ⟨rfl, rfl, fun h => absurd ⟨rfl, rfl⟩ h, fun _ => rfl, fun _ => rfl⟩⟩)
  case ring =>
    intro hit _ _ _
    have hr : ∃ x, (applyItem u iCtx0Ring v s).gz.rings = amPut s.gz.rings (bits v 56 8) x := by
      show ∃ x, (applyCtx0Ring v s).gz.rings = _
      unfold applyCtx0Ring
      dsimp only
      split
      · exact ⟨_, rfl⟩
      · exact ⟨_, rfl⟩
    have hrest : OnlyItem s (applyItem u iCtx0Ring v s) u iCtx0Ring := .inr ⟨v, by
      show (setItem (applyCtx0Ring v s) u iCtx0Ring v).hw.items = _
      unfold applyCtx0Ring
      dsimp only
      split <;> rfl⟩
    have hother : ∃ r, applyCtx0Ring v s = { s with gz := { s.gz with rings := r } } := by
      unfold applyCtx0Ring
      dsimp only
      split
      · exact ⟨_, rfl⟩
      · exact ⟨_, rfl⟩
    obtain ⟨r, hother⟩ := hother
    have heq : applyItem u iCtx0Ring v s = setItem (applyCtx0Ring v s) u iCtx0Ring v := rfl
    rw [heq, hother] at hr hrest ⊢
    exact itemsElse_of hit hrest (.inl rfl) (.inl rfl) (.inl rfl) (.inl rfl) (.inr ⟨rfl, hr⟩) (fun _ => rfl) rfl (.inl rfl)
  case group => exact fun _ _ _ h => absurd rfl h
  case port => exact fun _ _ h _ => absurd rfl h
  case ingest =>
    exact fun hit _ _ _ => itemsElse_of hit (.inr ⟨v, rfl⟩) (.inl rfl) (.inl rfl) (.inl rfl) (.inl rfl) (.inl rfl) (fun h => absurd rfl h) rfl
      (.inl rfl)
  case time =>
    exact fun hit _ _ _ => itemsElse_of hit (.inl rfl) (.inl rfl) (.inl rfl) (.inl rfl) (.inl rfl) (.inl rfl) (fun _ => rfl) rfl (.inl rfl)
  case net =>
    intro hit hon _ _
    obtain rfl := mdBlock_of_itemOn hon (.inl rfl)
    have hwork : ∃ tr fl, applyItem mdBlock iMgmtNet v s = { setItem s mdBlock iMgmtNet v with tr := tr, flash := fl } :=
      applyMgmtNet_eq v s
    obtain ⟨_, _, hwork⟩ := hwork
    rw [hwork]
    exact itemsElse_of hit (.inr ⟨v, rfl⟩) (.inl rfl) (.inl rfl) (.inl rfl) (.inl rfl) (.inl rfl) (fun _ => rfl) rfl (.inl rfl)
  case debug =>
    intro hit hon _ _
    obtain rfl := mdBlock_of_itemOn hon (.inr rfl)
    have hwork : ∃ tr md, applyItem mdBlock iDebugCfg v s = { setItem s mdBlock iDebugCfg v with tr := tr, mod := md } :=
      applyDebug_eq v s
    obtain ⟨_, _, hwork⟩ := hwork
    rw [hwork]
    exact itemsElse_of hit (.inr ⟨v, rfl⟩) (.inl rfl) (.inl rfl) (.inl rfl) (.inl rfl) (.inl rfl) (fun _ => rfl) rfl (.inl rfl)
  case cnt =>
    intro it h h' hit _ _ _
    rw [applyItem_cntSel u it v s h h']
    have hcode : iCntSel + (it - iCntSel) = it := Nat.add_sub_cancel' h
    have hcounters : (applyCntSel u (it - iCntSel) v s).hw.counters = s.hw.counters ∨ (iCntSel ≤ it ∧ it < iCntSel + 8) ∧
        ∃ x, (applyCntSel u (it - iCntSel) v s).hw.counters = amPut s.hw.counters (8 * u + (it - iCntSel)) x := by
      have heq : (applyCntSel u (it - iCntSel) v s).hw.counters =
          if bit v 2 then amPut s.hw.counters (8 * u + (it - iCntSel)) 0 else s.hw.counters := rfl
      rw [heq]
      split
      · exact .inr ⟨⟨h, h'⟩, _, rfl⟩
      · exact .inl rfl
    refine itemsElse_of hit (.inr ⟨v - v % 8 + v % 4, ?_⟩) (.inl rfl) (.inl rfl) hcounters (.inl rfl) (.inl rfl) (fun _ => rfl) rfl (.inl rfl)
    show amPut s.hw.items (65536 * u + (iCntSel + (it - iCntSel))) _ = _
    rw [hcode]
  case snap =>
    intro it h h' hit _ _ _
    rw [applyItem_snapRing u it v s h h']
    refine itemsElse_of hit (.inr ⟨v, rfl⟩) (.inl rfl) (.inl rfl) (.inl rfl) (.inr ⟨it - iSnapRing, (Nat.add_sub_cancel' h).symm, fun k hk => ?_⟩)
      (.inl rfl) (fun _ => rfl) rfl (.inl rfl)
    show amFind (if _ then _ else _) k = _
    split
    · exact (amFind_amDel _ _ _).trans (if_neg hk)
    · exact (amFind_amPut _ _ _ _).trans (if_neg hk)
  case plain =>
    intro it h hit _ _ _
    rw [applyItem_plain u it v s h]
    exact setItem_else s u it v hit

/-! ### What a write sets -/

theorem retrainPorts_portKeeps (s : State) (hi : Idle s) (hb : Bare s) : PortKeeps s (retrainPorts s) := by
  have hfold : ∀ (l : List Nat) (s : State), Idle s → Bare s → PortKeeps s (l.foldl (fun s u => setPort u 1 s) s) := by
    intro l
    induction l with
    | nil => exact fun s _ _ => .refl s
    | cons u l ih =>
      intro s hi hb
      have h := (setPort_state u 1 s hi hb).1
      exact h.trans (ih _ (h.idle hi) (h.bareOf hb))
  exact hfold _ s hi hb

theorem applyPortCfg_portKeeps (u v : Nat) (s : State) (hi : Idle s) (hb : Bare s) : PortKeeps (setItem s u iPortCfg v) (applyPortCfg u v s) := by
  unfold applyPortCfg
  dsimp only
  split
  · exact .refl _
  · exact (setPort_state u _ (setItem s u iPortCfg v) hi hb).1

theorem item_setItem_self (s : State) (u it v : Nat) : item (setItem s u it v) u it = v := by
  rw [item, setItem, amGet_amPut, if_pos rfl]

/-- The item reads as written, but for a counter's CLEAR bit (15 R390). -/
theorem item_applyItem (u it v : Nat) (s : State) (hi : Idle s) (hb : Bare s) (hon : itemOn u it = true) (hsp : spread it = false) :
    item (applyItem u it v s) u it = if iCntSel ≤ it ∧ it < iCntSel + 8 then v - v % 8 + v % 4 else v := by
  revert hon hsp
  refine item_rows (P := fun it => itemOn u it = true → spread it = false → item (applyItem u it v s) u it =
      if iCntSel ≤ it ∧ it < iCntSel + 8 then v - v % 8 + v % 4 else v)
    it ?wdog ?overlap ?factor ?stat ?extent ?ring ?group ?port ?ingest ?time ?net ?debug ?cnt ?snap ?plain
  case wdog => exact fun _ h => absurd h (by decide)
  case overlap => exact fun _ h => absurd h (by decide)
  case factor => exact fun _ h => absurd h (by decide)
  case stat => exact fun _ h => absurd h (by decide)
  case time => exact fun _ h => absurd h (by decide)
  case extent => exact fun _ _ => item_setItem_self _ u iCtx0Extent v
  case ring => exact fun _ _ => item_setItem_self _ u iCtx0Ring v
  case ingest =>
    intro _ _
    show item (setItem s u iIngestCfg v) u iIngestCfg = v
    exact item_setItem_self s u iIngestCfg v
  case net =>
    intro hon _
    obtain rfl := mdBlock_of_itemOn hon (.inl rfl)
    obtain ⟨_, _, hwork⟩ := applyMgmtNet_eq v s
    show item (applyMgmtNet v s) mdBlock iMgmtNet = v
    rw [hwork]
    exact item_setItem_self s mdBlock iMgmtNet v
  case debug =>
    intro hon _
    obtain rfl := mdBlock_of_itemOn hon (.inr rfl)
    obtain ⟨_, _, hwork⟩ := applyDebug_eq v s
    show item (applyDebug v s) mdBlock iDebugCfg = v
    rw [hwork]
    exact item_setItem_self s mdBlock iDebugCfg v
  case group =>
    intro _ _
    have h := (retrainPorts_portKeeps (setItem s u iGroupCfg v) hi hb).items
    show amGet _ (retrainPorts (setItem s u iGroupCfg v)).hw.items _ = v
    rw [h]
    exact item_setItem_self s u iGroupCfg v
  case port =>
    intro _ _
    have h := (applyPortCfg_portKeeps u v s hi hb).items
    show amGet _ (applyPortCfg u v s).hw.items _ = v
    rw [h]
    exact item_setItem_self s u iPortCfg v
  case cnt =>
    intro it h h' _ _
    rw [applyItem_cntSel u it v s h h', if_pos ⟨h, h'⟩]
    show amGet _ (amPut s.hw.items (65536 * u + (iCntSel + (it - iCntSel))) _) _ = _
    rw [Nat.add_sub_cancel' h, amGet_amPut, if_pos rfl]
  case snap =>
    intro it h h' _ _
    have hcnt : ¬(iCntSel ≤ it ∧ it < iCntSel + 8) := by
      unfold iSnapRing at h
      unfold iCntSel
      omega
    rw [applyItem_snapRing u it v s h h', if_neg hcnt]
    exact item_setItem_self s u it v
  case plain =>
    intro it h _ _
    rw [applyItem_plain u it v s h, if_neg h.2.1]
    exact item_setItem_self s u it v

theorem flash_applyMgmtNet (v : Nat) (s : State) : (applyMgmtNet v s).flash.mgmtNet = v ∧
    (applyMgmtNet v s).flash.mgmtTable = if bits v 0 48 = 0 then [] else readBytes s (kernelCore 12) (bits v 0 48) 64 := by
  unfold applyMgmtNet
  extract_lets a t old s1 fl tr s2
  by_cases hold : (old.all fun x => (mgmtAddrs s2).contains x) = true
  · rw [if_pos hold]
    exact ⟨rfl, rfl⟩
  · rw [if_neg hold]
    exact ⟨rfl, rfl⟩

theorem extents_applyCtx0Extent (v : Nat) (s : State) :
    amFind (ctxOf (applyCtx0Extent v s) 0).extents (bits v 56 8) =
      (let e := readExtent (readBytes s (kernelCore 12) (bits v 0 48) 32); if usedExtent e then some e else none) := by
  unfold applyCtx0Extent
  dsimp only
  rw [ctxOf_modCtx, if_pos rfl]
  dsimp only
  split
  · rw [amFind_amPut, if_pos rfl]
  · rw [amFind_amDel, if_pos rfl]

theorem debugEver_applyDebug (v : Nat) (s : State) (h : bit v 0 = true) : (applyDebug v s).tr.debugEver = true := by
  unfold applyDebug
  dsimp only
  rw [if_pos h]
  split
  · rfl
  · rfl

theorem state_applyPortCfg (u v : Nat) (s : State) (hi : Idle s) (hb : Bare s) (hne : item s u iPortCfg ≠ v) :
    (portOf (applyPortCfg u v s) u).state = if bits v 0 2 = 2 then 7 else 0 := by
  have hmode : portMode (setItem s u iPortCfg v) u = bits v 0 2 := congrArg (bits · 0 2) (item_setItem_self s u iPortCfg v)
  unfold applyPortCfg
  dsimp only
  rw [if_neg hne, portReset, hmode]
  exact (setPort_state u _ (setItem s u iPortCfg v) hi hb).2

/-- What a unit reads is a matter of memory, and of what it may already see. -/
theorem readBytes_of_mem {s t : State} (h : t.mem = s.mem) (hf : t.free = s.free) : readBytes t = readBytes s := by
  have hsee : ∀ u a l v, seeThrough t u a l v = seeThrough s u a l v := by
    intro u a l
    induction l with
    | nil => exact fun _ => rfl
    | cons e es ih =>
      intro v
      rw [seeThrough, seeThrough, ih, ih, hf]
  funext u a n
  induction n generalizing a with
  | zero => rfl
  | succ n ih => rw [readBytes, readBytes, ih, byteFor, byteFor, hsee, byteAt_of_mem h, h]

theorem readIngest_of_mem {s t : State} (h : t.mem = s.mem) (hf : t.free = s.free) : readIngest t = readIngest s := by
  unfold readIngest ingestEntries entriesAt readNat
  rw [readBytes_of_mem h hf]

theorem readSnap_of_mem {s t : State} (h : t.mem = s.mem) (hf : t.free = s.free) : readSnap t = readSnap s := by
  unfold readSnap entriesAt
  rw [readBytes_of_mem h hf]

theorem ingest_applyIngest (u a : Nat) (s : State) : amFind (applyIngest u a s).link.ingest (uDie u) =
    if a = 0 then none else some (readIngest s (itemCore u) a) := by
  unfold applyIngest
  dsimp only
  split
  · rw [amFind_amDel, if_pos rfl]
  · rw [amFind_amPut, if_pos rfl]

theorem snap_applySnap (n c a : Nat) (s : State) : amFind (applySnap n c a s).snap n =
    if a = 0 then none else some (readSnap s (kernelCore 12) c a) := by
  unfold applySnap
  dsimp only
  split
  · rw [amFind_amDel, if_pos rfl]
  · rw [amFind_amPut, if_pos rfl]

/-- What an accepted write of an item sets (01 R26; 02 R35; 07 R209, R214; 11 R296; 12 R323; 13 R351, R352, R362; 15 R390, R391). -/
theorem applyItem_took (u it v : Nat) (s : State) (hi : Idle s) (hb : Bare s) (hon : itemOn u it = true) :
    ItemTook s (applyItem u it v s) u it v := by
  refine ⟨item_applyItem u it v s hi hb hon, fun h => ?_, fun h => ?_, fun h => ?_, fun h => ?_, fun h => ?_, fun h => ?_, fun h => ?_,
    fun h => ?_, fun h => ?_, fun h h0 => ?_, fun h hne => ?_, fun h => ?_, fun h h' => ?_⟩
  · subst h
    exact (amGet_amPut _ _ _ _ _).trans (if_pos rfl)
  · subst h
    exact congrArg Ctx.overlap ((ctxOf_modCtx s (bits v 8 8) (bits v 8 8) (fun x => { x with overlap := bit v 0 })).trans (if_pos rfl))
  · subst h
    exact (amGet_amPut _ _ _ _ _).trans (if_pos rfl)
  · subst h
    exact congrArg Ctx.statTable ((ctxOf_modCtx s (bits v 56 8) (bits v 56 8) (fun x => { x with statTable := bits v 0 48 })).trans (if_pos rfl))
  · subst h
    exact extents_applyCtx0Extent v s
  · subst h
    show ringOf (applyCtx0Ring v s) (bits v 56 8) = _
    unfold applyCtx0Ring
    split
    · rw [ringOf_modRing, if_pos rfl]
    · exact (amGet_amPut _ _ _ _ _).trans (if_pos rfl)
  · subst h
    rw [← readIngest_of_mem (s := s) (t := setItem s u iIngestCfg v) rfl rfl]
    exact ingest_applyIngest u (bits v 0 48) (setItem s u iIngestCfg v)
  · subst h
    refine ⟨rfl, rfl, ?_⟩
    show v % 2 ^ 64 + (s.now - s.now) = _
    omega
  · subst h
    obtain ⟨hn, ht⟩ := flash_applyMgmtNet v s
    exact ⟨hn, ht⟩
  · subst h
    exact debugEver_applyDebug v s h0
  · subst h
    exact state_applyPortCfg u v s hi hb hne
  · obtain ⟨h1, h2⟩ := h
    rw [applyItem_cntSel u it v s h1 h2]
    refine ⟨?_, ?_, ?_⟩
    · show amGet 0 (if _ then _ else _) _ = _
      split
      · rw [amGet_amPut, if_pos rfl]
      · rfl
    · exact (amGet_amMod 0 s.hw.selGen u u (fun g => (g + 1) % 256)).trans (if_pos rfl)
    · show _ ∉ s.hw.stopped.filter (· != 8 * u + (it - iCntSel))
      simp
  · rw [applyItem_snapRing u it v s h h', ← readSnap_of_mem (s := s) (t := setItem s u it v) rfl rfl]
    exact snap_applySnap (it - iSnapRing) (bits v 56 8) (bits v 0 48) (setItem s u it v)

/-! ## The commands that write items -/

/-- Every row of `writeOf` is one write by the kernel. -/
theorem exec_writeOf {i : Instr} {it x : Nat} {w : ItemWrite} (s : State) (h : writeOf i = some (it, w, x)) :
    exec i s = writeCmd it w x s ∧ it < 65536 := by
  unfold writeOf at h
  split at h
  case h_25 => exact nomatch h
  case h_22 n =>
    obtain ⟨rfl, rfl, rfl⟩ := h
    exact ⟨rfl, by unfold iCntSel; omega⟩
  case h_23 n =>
    obtain ⟨rfl, rfl, rfl⟩ := h
    exact ⟨rfl, by unfold iCntSel; omega⟩
  case h_24 n =>
    obtain ⟨rfl, rfl, rfl⟩ := h
    exact ⟨rfl, by unfold iSnapRing; omega⟩
  all_goals
    obtain ⟨rfl, rfl, rfl⟩ := h
    exact ⟨rfl, by decide⟩

theorem applyItem_rests (u it v : Nat) (s : State) (hi : Idle s) (hb : Bare s) :
    Idle (applyItem u it v s) ∧ (applyItem u it v s).mm = [] := by
  refine item_rows (P := fun it => Idle (applyItem u it v s) ∧ (applyItem u it v s).mm = [])
    it ?wdog ?overlap ?factor ?stat ?extent ?ring ?group ?port ?ingest ?time ?net ?debug ?cnt ?snap ?plain
  case wdog => exact ⟨hi, hb.1⟩
  case overlap => exact ⟨hi, hb.1⟩
  case factor => exact ⟨hi, hb.1⟩
  case stat => exact ⟨hi, hb.1⟩
  case extent => exact ⟨hi, hb.1⟩
  case ring =>
    show Idle (applyCtx0Ring v s) ∧ (applyCtx0Ring v s).mm = []
    unfold applyCtx0Ring
    split
    · exact ⟨hi, hb.1⟩
    · exact ⟨hi, hb.1⟩
  case group =>
    have h := retrainPorts_portKeeps (setItem s u iGroupCfg v) hi hb
    exact ⟨h.idle hi, (h.bareOf hb).1⟩
  case port =>
    have h := applyPortCfg_portKeeps u v s hi hb
    exact ⟨h.idle hi, (h.bareOf hb).1⟩
  case ingest => exact ⟨hi, hb.1⟩
  case time => exact ⟨hi, hb.1⟩
  case net =>
    obtain ⟨_, _, h⟩ := applyMgmtNet_eq v s
    show Idle (applyMgmtNet v s) ∧ (applyMgmtNet v s).mm = []
    rw [h]
    exact ⟨hi, hb.1⟩
  case debug =>
    obtain ⟨_, _, h⟩ := applyDebug_eq v s
    show Idle (applyDebug v s) ∧ (applyDebug v s).mm = []
    rw [h]
    exact ⟨hi, hb.1⟩
  case cnt =>
    intro it h h'
    rw [applyItem_cntSel u it v s h h']
    exact ⟨hi, hb.1⟩
  case snap =>
    intro it h h'
    rw [applyItem_snapRing u it v s h h']
    exact ⟨hi, hb.1⟩
  case plain =>
    intro it h
    rw [applyItem_plain u it v s h]
    exact ⟨hi, hb.1⟩

/-- Where nothing is in flight nothing goes on after a write. -/
theorem settle_pumpAll_idle (s : State) (hi : Idle s) (hm : s.mm = []) : settle (pumpAll s) = passed s := by
  rw [pumpAll_rests s (by rw [hi]; simp) (fun u p => by rw [partOf_bare hm])]
  exact settle_idle s hi

/-- What the items and their neighbours hold is as before. -/
def ItemsSame (s t : State) : Prop :=
  t.hw.items = s.hw.items ∧ t.hw.wdog = s.hw.wdog ∧ t.hw.factor = s.hw.factor ∧ t.hw.counters = s.hw.counters ∧ t.snap = s.snap ∧
    t.gz.rings = s.gz.rings ∧ t.link = s.link ∧ t.mem = s.mem

theorem itemRefused_same (o c u it v : Nat) (s : State) (hi : Idle s) (hb : Bare s) :
    ItemsSame s (itemRefused o c u it v s) ∧ Idle (itemRefused o c u it v s) ∧ (itemRefused o c u it v s).mm = [] := by
  have h : Noted s (itemRefused o c u it v s) := ledgerEv_noted ..
  obtain ⟨ki, kw, kf, kc, -, -, ksn, kr, kl, km, -, kj, kmm⟩ := h.hw
  exact ⟨⟨ki, kw, kf, kc, ksn, kr, kl, km⟩, kj.trans hi, kmm.trans hb.1⟩

/-- A write of an item by the kernel (02 R415). -/
theorem writeCmd_facts (it x : Nat) (w : ItemWrite) (s : State) (hit : it < 65536) (hi : Idle s) (hb : Bare s) :
    let u := w.unit.toNat
    let v := x &&& itemMask it
    let defined := uidValid u && itemOn u it
    let stop := (itemCheck s w.origin.toNat u it v).orElse (fun _ => itemState s u it v)
    (defined = true → ledgerRoom s = true → stop = none → ∃ t, writeCmd it w x s = .next t ∧ ItemTook s t u it v ∧
      (it ≠ iPortCfg → it ≠ iGroupCfg → ItemsElse s t u it v)) ∧
    (defined = false ∨ (ledgerRoom s = true ∧ stop ≠ none) → ∃ t, writeCmd it w x s = .next t ∧ ItemsSame s t) ∧
    (defined = true → ledgerRoom s = false → writeCmd it w x s = .next (passed s)) := by
  intro u v defined stop
  have hcmd : writeCmd it w x s = .next (settle (
      if !uidValid u || !itemOn u it then itemRefused w.origin.toNat w.ctx.toNat u it v s
      else if !ledgerRoom s then s
      else pumpAll (applyWrite w.origin.toNat w.ctx.toNat u it v s).1)) := rfl
  have hdef : (!uidValid u || !itemOn u it) = !defined := by simp [defined]
  rw [hcmd, hdef]
  obtain ⟨hsame, hidle, hmm⟩ := itemRefused_same w.origin.toNat w.ctx.toNat u it v s hi hb
  refine ⟨fun hd hr hs => ?_, fun h => ?_, fun hd hr => ?_⟩
  · have hwrite : applyWrite w.origin.toNat w.ctx.toNat u it v s = (writeItem w.origin.toNat w.ctx.toNat u it v s, done 0) := by
      unfold applyWrite
      rw [show (itemCheck s w.origin.toNat u it v).orElse (fun _ => itemState s u it v) = none from hs]
    obtain ⟨-, hon⟩ := (Bool.and_eq_true _ _).mp hd
    have hnoted : Noted (applyItem u it v s) (writeItem w.origin.toNat w.ctx.toNat u it v s) := itemLedger_noted ..
    obtain ⟨hai, ham⟩ := applyItem_rests u it v s hi hb
    obtain ⟨-, -, -, -, -, -, -, -, -, -, -, kj, kmm⟩ := hnoted.hw
    rw [hd, hr, if_neg (by decide), if_neg (by decide), hwrite, settle_pumpAll_idle _ (kj.trans hai) (kmm.trans ham)]
    have htook : ItemTook s (writeItem w.origin.toNat w.ctx.toNat u it v s) u it v :=
      ItemTook.noted (applyItem_took u it v s hi hb hon) hnoted
    have helse : it ≠ iPortCfg → it ≠ iGroupCfg → ItemsElse s (writeItem w.origin.toNat w.ctx.toNat u it v s) u it v :=
      fun hp hg => ItemsElse.noted (applyItem_else u it v s hit hon hp hg) hnoted
    exact ⟨_, rfl, htook, helse⟩
  · obtain hd | ⟨hr, hs⟩ := h
    · rw [hd, if_pos (by decide), settle_idle _ hidle]
      exact ⟨_, rfl, hsame⟩
    · cases hd : defined with
      | false =>
        rw [if_pos (by decide), settle_idle _ hidle]
        exact ⟨_, rfl, hsame⟩
      | true =>
        obtain ⟨e, he⟩ := Option.ne_none_iff_exists'.1 hs
        have hwrite : applyWrite w.origin.toNat w.ctx.toNat u it v s = (itemRefused w.origin.toNat w.ctx.toNat u it v s, e) := by
          unfold applyWrite
          rw [show (itemCheck s w.origin.toNat u it v).orElse (fun _ => itemState s u it v) = some e from he]
        rw [hr, if_neg (by decide), if_neg (by decide), hwrite, settle_pumpAll_idle _ hidle hmm]
        exact ⟨_, rfl, hsame⟩
  · rw [hd, hr, if_neg (by decide), if_pos (by decide), settle_idle s hi]

end Sys2Proof.Proofs
end

section
/-! PROOFS. The kernel gate (13 R339). -/

namespace Sys2Proof.Proofs

open Sys2Proof Sys2Proof.Machine Sys2Proof.Laws

/-! ## The gate's checks look at contexts, memory and items -/

theorem itemRange_congr {s t : State} (hc : t.gz.ctxs = s.gz.ctxs) (hm : t.mem = s.mem) (hi : t.hw.items = s.hw.items)
    (hf : t.free = s.free) (u it v : Nat) : itemRange t u it v = itemRange s u it v := by
  have hread : readBytes t = readBytes s := readBytes_of_mem hm hf
  have hacc : access t = access s := access_congr hc (by rw [hm])
  have hctx : ctxOf t = ctxOf s := by
    funext c
    rw [ctxOf, ctxOf, hc]
  have hmap : mapped t = mapped s := by
    funext a n
    unfold mapped sideOf
    rw [hm]
  have hsig : signalOk t = signalOk s := by
    funext a
    unfold signalOk
    rw [hmap]
  have hitem : item t = item s := by
    funext u it
    rw [item, item, hi]
  have hext : extentOk t = extentOk s := by
    funext c b
    unfold extentOk extentClear combineRange areaBase areaSize
    rw [hmap, hc, hitem]
  have hsnap : readSnap t = readSnap s := readSnap_of_mem hm hf
  unfold itemRange snapStop mgmtTableOk ingestOk ingestEntries entriesAt cntSelOk statTableOk heldBy ctx0EntryOk snapReach inCtx0 extentOver readNat
  simp only [hread, hacc, hctx, hsig, hext, hc, hsnap]

theorem itemCheck_counts (s : State) (n : AMap Nat) (o u it v : Nat) :
    itemCheck { s with hw := { s.hw with counts := n } } o u it v = itemCheck s o u it v := by
  have hp : ∀ a k, poisonIn { s with hw := { s.hw with counts := n } } a k = poisonIn s a k :=
    (show SamePlaces s { s with hw := { s.hw with counts := n } } from ⟨rfl, rfl, rfl, rfl⟩).poisonIn
  have hr := itemRange_congr (s := s) (t := { s with hw := { s.hw with counts := n } }) rfl rfl rfl rfl u it v
  unfold itemCheck
  simp only [hp, hr]

theorem gateRange_counts (s : State) (n : AMap Nat) (c : GateCall) : gateRange { s with hw := { s.hw with counts := n } } c = gateRange s c := by
  unfold gateRange
  dsimp only
  split
  · exact itemCheck_counts s n _ _ _ _
  · rfl
  · rfl
  · rfl

theorem gateRead_counts (s : State) (n : AMap Nat) (u it : Nat) :
    gateRead { s with hw := { s.hw with counts := n } } u it = gateRead s u it := rfl

/-- The state in which a gate has counted a call that it meets. -/
def metCall (d : Nat) (s : State) : State :=
  if d = 12 then count s (uid 5 12 0) 0x10 1 else if isCD d then count s (uid 4 d 0) 0x28 1 else s

theorem metCall_eq (d : Nat) (s : State) : ∃ n, metCall d s = { s with hw := { s.hw with counts := n } } := by
  unfold metCall
  split
  · exact ⟨_, rfl⟩
  · split
    · exact ⟨_, rfl⟩
    · exact ⟨_, rfl⟩

/-! ## The gate's answers -/

theorem exec_gate_refused (die : Die) (c : GateCall) (s : State) (e : End) (h : gateCheck (metCall die.val s) c = some e) :
    exec (.kernelGateCall die c) s = .next (settle (gateAnswer die.val e [] (gateRefused die.val c e (gateCount die.val false (metCall die.val s))))) := by
  have hx : exec (.kernelGateCall die c) s = .next (settle (match gateCheck (metCall die.val s) c with
    | some e => gateAnswer die.val e [] (gateRefused die.val c e (gateCount die.val false (metCall die.val s)))
    | none => gateAnswer die.val (done 0) (if c.kind == .read then gateRead (metCall die.val s) c.object.toNat c.field.toNat else [])
        (gateAct c (gateCount die.val true (metCall die.val s))))) := rfl
  rw [hx, h]

theorem exec_gate_taken (die : Die) (c : GateCall) (s : State) (h : gateCheck (metCall die.val s) c = none) :
    exec (.kernelGateCall die c) s = .next (settle (gateAnswer die.val (done 0)
      (if c.kind == .read then gateRead (metCall die.val s) c.object.toNat c.field.toNat else [])
      (gateAct c (gateCount die.val true (metCall die.val s))))) := by
  have hx : exec (.kernelGateCall die c) s = .next (settle (match gateCheck (metCall die.val s) c with
    | some e => gateAnswer die.val e [] (gateRefused die.val c e (gateCount die.val false (metCall die.val s)))
    | none => gateAnswer die.val (done 0) (if c.kind == .read then gateRead (metCall die.val s) c.object.toNat c.field.toNat else [])
        (gateAct c (gateCount die.val true (metCall die.val s))))) := rfl
  rw [hx, h]

/-- What counting at the gate leaves alone. -/
theorem gateCount_counts (d : Nat) (taken : Bool) (s : State) :
    ∃ n k, gateCount d taken (metCall d s) = { s with hw := { s.hw with counts := n, counters := k } } := by
  obtain ⟨n, hn⟩ := metCall_eq d s
  obtain ⟨k, hk⟩ := event_eq (count (metCall d s) (kernelCore d) (if taken then 0x10 else 0x18) 1) (uid 0 d 0) 0x0004 0 1
  rw [gateCount, hk, hn]
  exact ⟨_, _, rfl⟩

/-- The kept answer of a gate. -/
theorem answer_kept (d : Nat) (e : End) (read : List Nat) (s : State) :
    amFind (gateAnswer d e read s).tr.gate d = some (e.status, e.detail, read) :=
  (amFind_amPut _ _ _ _).trans (if_pos rfl)

/-- A call that a gate turns away leaves all but its ledger entry. -/
theorem gateRefused_noted (d : Nat) (c : GateCall) (e : End) (s : State) : Noted s (gateRefused d c e s) := by
  unfold gateRefused
  split
  · split
    · exact .refl s
    · exact ledgerEv_noted ..
  · split
    · exact .refl s
    · exact ledgerEv_noted ..

theorem gateCheck_eq (die : Die) (c : GateCall) (s : State) :
    gateCheck (metCall die.val s) c =
      if !gateAllows c.kind c.origin.toNat then some (fails NO_PERMISSION 0)
      else if !gateTarget c.kind c.object.toNat c.field.toNat then some (fails NO_PERMISSION (if c.kind == .write then 0x24 else 0))
      else match gateRange s c with
        | some e => some e
        | none => if c.kind != .read && !ledgerRoom s then some (fails BUSY_DEFER 4) else none := by
  obtain ⟨n, hn⟩ := metCall_eq die.val s
  unfold gateCheck
  rw [hn, gateRange_counts]
  rfl

/-! ## The obligation's first half -/

/-- What the gate answers, in a settled state. -/
def Answers (die : Die) (c : GateCall) (s : State) (e : End) (read : List Nat) (P : State → Prop) : Prop :=
  ∃ t, exec (.kernelGateCall die c) s = .next t ∧ amFind t.tr.gate die.val = some (e.status, e.detail, read) ∧ P t

/-- What a refused call leaves as it was. -/
def GateSame (s t : State) : Prop :=
  t.hw.items = s.hw.items ∧ t.hw.health = s.hw.health ∧ t.gz.windows = s.gz.windows ∧ t.flash.taps = s.flash.taps ∧
    t.flash.rails = s.flash.rails ∧ t.mem = s.mem

theorem answers_refused {die : Die} {c : GateCall} {s : State} {e : End} (hi : Idle s) (h : gateCheck (metCall die.val s) c = some e) :
    Answers die c s e [] (GateSame s) := by
  obtain ⟨n, k, hg⟩ := gateCount_counts die.val false s
  have hx := exec_gate_refused die c s e h
  have hnoted := gateRefused_noted die.val c e (gateCount die.val false (metCall die.val s))
  obtain ⟨x, hxe⟩ : ∃ x, gateRefused die.val c e (gateCount die.val false (metCall die.val s)) = x := ⟨_, rfl⟩
  rw [hxe] at hx hnoted
  rw [hg] at hnoted
  obtain ⟨hit, -, -, -, -, -, -, -, -, hmem, -, hjobs, -⟩ := hnoted.hw
  obtain ⟨-, -, -, -, -, -, -, -, -, -, -, -, -, -, -, -, -, -, -, -, -, -, hwin, -, hhealth, -, -⟩ := hnoted.work.frame
  have hidle : Idle (gateAnswer die.val e [] x) := hjobs.trans hi
  rw [settle_idle _ hidle] at hx
  exact ⟨_, hx, answer_kept die.val e [] x, hit, hhealth, hwin, hnoted.taps.1, hnoted.taps.2, hmem⟩

/-- A call that the gate takes acts on a state of which only counters have moved. -/
theorem answers_taken {die : Die} {c : GateCall} {s : State} {P : State → Prop} (h : gateCheck (metCall die.val s) c = none)
    (hP : ∀ n k, let x := gateAct c { s with hw := { s.hw with counts := n, counters := k } }
      x.gz.jobs = [] ∧ ∀ g f, P { x with tr := { x.tr with gate := g }, free := f }) :
    Answers die c s (done 0) (if c.kind = .read then gateRead s c.object.toNat c.field.toNat else []) P := by
  obtain ⟨n, k, hg⟩ := gateCount_counts die.val true s
  obtain ⟨m, hm⟩ := metCall_eq die.val s
  have hread : (if c.kind == .read then gateRead (metCall die.val s) c.object.toNat c.field.toNat else []) =
      if c.kind = .read then gateRead s c.object.toNat c.field.toNat else [] := by
    rw [hm, gateRead_counts]
    simp only [beq_iff_eq]
  have hx := exec_gate_taken die c s h
  rw [hread, hg] at hx
  obtain ⟨hjobs, hp⟩ := hP n k
  obtain ⟨x, hxe⟩ : ∃ x, gateAct c { s with hw := { s.hw with counts := n, counters := k } } = x := ⟨_, rfl⟩
  dsimp only at hjobs hp
  rw [hxe] at hx hjobs hp
  have hidle : Idle (gateAnswer die.val (done 0) (if c.kind = .read then gateRead s c.object.toNat c.field.toNat else []) x) := hjobs
  rw [settle_idle _ hidle] at hx
  exact ⟨_, hx, answer_kept die.val (done 0) _ x, hp _ _⟩

/-! ## What a taken call does -/

theorem write_taken (c : GateCall) (s : State) (hk : c.kind = .write) (hi : Idle s) :
    let x := gateAct c s
    x.gz.jobs = [] ∧ x.hw.items = s.hw.items ∧ ∃ w, windowOf x (.item c.object c.field) = some w ∧
      ⟨c.origin.toNat, c.ctx.toNat, 0x0F02, gateValue c, none⟩ ∈ w.orders := by
  intro x
  have hx : x = joinWindow (.item c.object c.field) ⟨c.origin.toNat, c.ctx.toNat, 0x0F02, gateValue c, none⟩ s := by
    show gateAct c s = _
    unfold gateAct
    rw [hk]
  obtain ⟨hit, -, -, -, -, -, -, hjobs, -⟩ :=
    (joinWindow_gateWork (.item c.object c.field) ⟨c.origin.toNat, c.ctx.toNat, 0x0F02, gateValue c, none⟩ s).frame
  obtain ⟨w, hw, ho⟩ := windowOf_joinWindow_self s (.item c.object c.field) ⟨c.origin.toNat, c.ctx.toNat, 0x0F02, gateValue c, none⟩
  rw [hx]
  refine ⟨hjobs.trans hi, hit, w, hw, ?_⟩
  rw [ho]
  exact List.mem_append_right _ List.mem_cons_self

/-- Units set not ready one after another are not ready. -/
theorem notReady_foldl (l : List Nat) (s : State) (x : Nat) (h : x ∈ l ∨ (health s x).ready = false) :
    (health (l.foldl (fun s v => setReady v false 4 s) s) x).ready = false := by
  induction l generalizing s with
  | nil =>
    obtain h | h := h
    · exact nomatch h
    · exact h
  | cons v l ih =>
    refine ih _ ?_
    by_cases hx : x = v
    · subst hx
      exact .inr (ready_setReady ..)
    · obtain h | h := h
      · exact .inl ((List.mem_cons.1 h).resolve_left hx)
      · refine .inr ?_
        rw [health_setReady, if_neg fun k => hx k.1]
        exact h

/-- A retired die-level block: the die and every unit of it (14 R380). -/
theorem retire_block (o u : Nat) (s : State) (hu : uKind u = 0) :
    (retire o u s).gz.jobs = s.gz.jobs ∧ (dieOf (retire o u s) (uDie u)).dieRetired = true ∧ (dieOf (retire o u s) (uDie u)).state = 4 ∧
    ∀ x ∈ dieUnits (uDie u), (health (retire o u s) x).ready = false := by
  have hr : retire o u s = (dieUnits (uDie u)).foldl (fun s v => setReady v false 4 s)
      (ledger (uDie u) o 7 u 2 0 0 1 0 (dieRetiredState (uDie u) s)) := if_pos hu
  have hw : UnitWork (dieRetiredState (uDie u) s) (retire o u s) := by
    rw [hr]
    exact (ledger_unitWork ..).trans (.foldl _ (fun s v => setReady_unitWork v false 4 s) _ _)
  obtain ⟨g, hg⟩ := hw.dies (uDie u)
  have hd : dieOf (dieRetiredState (uDie u) s) (uDie u) = { dieOf s (uDie u) with dieRetired := true, state := 4 } := by
    rw [dieRetiredState, dieOf_modDie, if_pos rfl]
  refine ⟨hw.jobs, by rw [hg, hd], by rw [hg, hd], fun x hx => ?_⟩
  rw [hr]
  exact notReady_foldl (dieUnits (uDie u)) _ x (.inl hx)

theorem append_taken (c : GateCall) (s : State) (hk : c.kind = .append) :
    let x := gateAct c s
    x.gz.jobs = s.gz.jobs ∧ x.hw.items = s.hw.items ∧ (s.tr.ledgerOpen = true → s.tr.nextSeq < x.tr.nextSeq) := by
  intro x
  have hx : x = ledgerEv 12 (mkEv c.origin.toNat 0x10 c.object.toNat 0 c.ctx.toNat 0 0 c.value.toNat) s := by
    show gateAct c s = _
    unfold gateAct
    rw [hk] <;> rfl
  have hn : Noted s x := by
    rw [hx]
    exact ledgerEv_noted ..
  obtain ⟨hit, -, -, -, -, -, -, -, -, -, -, hjobs, -⟩ := hn.hw
  refine ⟨hjobs, hit, fun ho => ?_⟩
  have hstep : ∀ e, s.tr.nextSeq < (appendEntry e s).tr.nextSeq := by
    intro e
    unfold appendEntry
    dsimp only
    split
    · obtain ⟨-, -, -, -, -, -, hseq, -⟩ := (sealPage_paged 0 (numberEntry s e)).frame
      exact Nat.lt_of_lt_of_le (Nat.lt_succ_self _) hseq
    · exact Nat.lt_succ_self _
  rw [hx, ledgerEv_open _ s ho]
  exact hstep _

theorem isCdBlock_kind {u : Nat} (h : isCdBlock u = true) : uKind u = 0 := by
  unfold isCdBlock at h
  simp only [Bool.and_eq_true, decide_eq_true_eq] at h
  exact h.1.1

/-- The calls that a gate takes, kind by kind (13 R339; 14 R378-R380). -/
theorem gate_takes (die : Die) (c : GateCall) (s : State) (hi : Idle s) (h : gateCheck (metCall die.val s) c = none) :
    let u := c.object.toNat
    (c.kind = .read → Answers die c s (done 0) (gateRead s u c.field.toNat) (fun t => t.hw.items = s.hw.items ∧ t.mem = s.mem)) ∧
    (c.kind = .write → Answers die c s (done 0) [] (fun t => t.hw.items = s.hw.items ∧
      ∃ w, windowOf t (.item c.object c.field) = some w ∧ ⟨c.origin.toNat, c.ctx.toNat, 0x0F02, gateValue c, none⟩ ∈ w.orders)) ∧
    (c.kind = .tap → Answers die c s (done 0) [] (fun t => tapOf t u = c.value.toNat ∧ ∀ x, x ≠ u → tapOf t x = tapOf s x)) ∧
    (c.kind = .rail → Answers die c s (done 0) [] (fun t => railOf t (uDie u) = c.value.toNat ∧
      ∀ x, x ≠ uDie u → railOf t x = railOf s x)) ∧
    (c.kind = .retire → Answers die c s (done 0) [] (fun t =>
      (isRegion u = true → (health t u).retired = true ∧ (health t u).ready = false) ∧
      (isCdBlock u = true → (dieOf t (uDie u)).dieRetired = true ∧ (dieOf t (uDie u)).state = 4 ∧
        ∀ x ∈ dieUnits (uDie u), (health t x).ready = false))) ∧
    (c.kind = .append → Answers die c s (done 0) [] (fun t => t.hw.items = s.hw.items ∧
      (s.tr.ledgerOpen = true → s.tr.nextSeq < t.tr.nextSeq))) := by
  intro u
  have hno : c.kind ≠ .read → (if c.kind = .read then gateRead s u c.field.toNat else []) = [] := fun hk => if_neg hk
  refine ⟨fun hk => ?_, fun hk => ?_, fun hk => ?_, fun hk => ?_, fun hk => ?_, fun hk => ?_⟩
  · have hact : ∀ y, gateAct c y = y := fun y => by unfold gateAct; rw [hk]
    have ha := answers_taken (P := fun t => t.hw.items = s.hw.items ∧ t.mem = s.mem) h fun n k => by
      intro x
      have hx : x = { s with hw := { s.hw with counts := n, counters := k } } := hact _
      rw [hx]
      exact ⟨hi, fun _ _ => ⟨rfl, rfl⟩⟩
    rw [if_pos hk] at ha
    exact ha
  · rw [← hno (by rw [hk]; decide)]
    refine answers_taken h fun n k => ?_
    obtain ⟨hjobs, hit, w, hw, ho⟩ := write_taken c { s with hw := { s.hw with counts := n, counters := k } } hk hi
    exact ⟨hjobs, fun _ _ => ⟨hit, w, hw, ho⟩⟩
  · rw [← hno (by rw [hk]; decide)]
    refine answers_taken h fun n k => ?_
    have hact : ∀ y, gateAct c y = setTap c.origin.toNat u c.value.toNat y := fun y => by unfold gateAct; rw [hk]
    obtain ⟨y, hy⟩ : ∃ y : State, { s with hw := { s.hw with counts := n, counters := k } } = y := ⟨_, rfl⟩
    have htap : ∀ x, tapOf y x = tapOf s x := fun x => by rw [← hy]; rfl
    have hyj : y.gz.jobs = [] := by rw [← hy]; exact hi
    rw [hy, hact]
    obtain ⟨hw, -⟩ := setTap_work c.origin.toNat u c.value.toNat y
    have htaps : ∀ x, tapOf (setTap c.origin.toNat u c.value.toNat y) x = if x = u then c.value.toNat else tapOf s x :=
      fun x => (hw.tapOf x).trans ((tapOf_tapped ..).trans (by rw [htap]))
    exact ⟨hw.jobs.trans hyj, fun _ _ => ⟨(htaps u).trans (if_pos rfl), fun x hx => (htaps x).trans (if_neg hx)⟩⟩
  · rw [← hno (by rw [hk]; decide)]
    refine answers_taken h fun n k => ?_
    have hact : ∀ y, gateAct c y = setRail c.origin.toNat (uDie u) c.value.toNat y := fun y => by unfold gateAct; rw [hk]
    obtain ⟨y, hy⟩ : ∃ y : State, { s with hw := { s.hw with counts := n, counters := k } } = y := ⟨_, rfl⟩
    have hrail : ∀ x, railOf y x = railOf s x := fun x => by rw [← hy]; rfl
    have hyj : y.gz.jobs = [] := by rw [← hy]; exact hi
    rw [hy, hact]
    obtain ⟨hw, -⟩ := setRail_work c.origin.toNat (uDie u) c.value.toNat y
    have hrails : ∀ x, railOf (setRail c.origin.toNat (uDie u) c.value.toNat y) x = if x = uDie u then c.value.toNat else railOf s x :=
      fun x => (hw.railOf x).trans ((railOf_railed ..).trans (by rw [hrail]))
    exact ⟨hw.jobs.trans hyj, fun _ _ => ⟨(hrails _).trans (if_pos rfl), fun x hx => (hrails x).trans (if_neg hx)⟩⟩
  · rw [← hno (by rw [hk]; decide)]
    refine answers_taken h fun n k => ?_
    have hact : ∀ y, gateAct c y = retire c.origin.toNat u y := fun y => by unfold gateAct; rw [hk]
    obtain ⟨y, hy⟩ : ∃ y : State, { s with hw := { s.hw with counts := n, counters := k } } = y := ⟨_, rfl⟩
    have hyj : y.gz.jobs = [] := by rw [← hy]; exact hi
    rw [hy, hact]
    have hjobs : (retire c.origin.toNat u y).gz.jobs = [] := by
      by_cases hkind : uKind u = 0
      · exact (retire_block c.origin.toNat u y hkind).1.trans hyj
      · exact (retire_region c.origin.toNat u y hkind).1.jobs.trans hyj
    refine ⟨hjobs, fun _ _ => ⟨fun hreg => ?_, fun hblk => ?_⟩⟩
    · obtain ⟨-, hret, hready, -, -⟩ := retire_region c.origin.toNat u y (isRegion_kind u hreg)
      exact ⟨hret, hready⟩
    · obtain ⟨-, hd, hst, hun⟩ := retire_block c.origin.toNat u y (isCdBlock_kind hblk)
      exact ⟨hd, hst, hun⟩
  · rw [← hno (by rw [hk]; decide)]
    refine answers_taken h fun n k => ?_
    obtain ⟨hjobs, hit, hseq⟩ := append_taken c { s with hw := { s.hw with counts := n, counters := k } } hk
    exact ⟨hjobs.trans hi, fun _ _ => ⟨hit, hseq⟩⟩

/-- Settles O47. -/
theorem gateAndItemWrites : Obligations.GateAndItemWrites := by
  refine ⟨fun die c s hi => ?_, fun i it w x s hw hi hb => ?_⟩
  · intro d o u fld v answers refused
    have hrefused : ∀ e, gateCheck (metCall die.val s) c = some e → refused e := fun e h => answers_refused hi h
    have hcheck := gateCheck_eq die c s
    refine ⟨fun ha => hrefused _ ?_, fun ha ht => hrefused _ ?_, fun ha ht => ⟨fun e hr => hrefused _ ?_, fun hr => ?_⟩⟩
    · rw [hcheck, if_pos (by rw [show gateAllows c.kind c.origin.toNat = false from ha]; rfl)]
    · rw [hcheck, if_neg (by rw [show gateAllows c.kind c.origin.toNat = true from ha]; decide),
        if_pos (by rw [show gateTarget c.kind c.object.toNat c.field.toNat = false from ht]; rfl)]
      simp only [beq_iff_eq]
    · rw [hcheck, if_neg (by rw [show gateAllows c.kind c.origin.toNat = true from ha]; decide),
        if_neg (by rw [show gateTarget c.kind c.object.toNat c.field.toNat = true from ht]; decide), hr]
    · rw [if_neg (by rw [show gateAllows c.kind c.origin.toNat = true from ha]; decide),
        if_neg (by rw [show gateTarget c.kind c.object.toNat c.field.toNat = true from ht]; decide), hr] at hcheck
      refine ⟨fun hk hroom => hrefused _ ?_, fun hk => ?_, fun hroom => ?_⟩
      · rw [hcheck]
        exact if_pos (by simp [hk, hroom])
      · exact (gate_takes die c s hi (hcheck.trans (if_neg (by simp [hk])))).1 hk
      · exact (gate_takes die c s hi (hcheck.trans (if_neg (by simp [hroom])))).2
  · obtain ⟨hx, hit⟩ := exec_writeOf s hw
    rw [hx]
    exact writeCmd_facts it x w s hit hi hb

end Sys2Proof.Proofs
end

section
/-! PROOFS. Messages that stay on this device, and what the owner's Watershed returns (06 R176; 07 R188-R190). -/

namespace Sys2Proof.Proofs

open Sys2Proof Sys2Proof.Machine Sys2Proof.Laws

/-! ## Messages to this device -/

/-- A message to a die of this device goes over no port. -/
theorem send_here {s : State} {m : NetMsg} {die src : Nat} (h : destOf s m = some (deviceOf s (myPos s), die, src)) :
    send s m = { s with net := s.net ++ [m] } := by
  unfold send
  rw [h]
  dsimp only
  rw [if_pos (show deviceOf s (myPos s) = myDevice s from rfl)]

/-- Changes of messages alone. -/
def withNet (s : State) (n : List NetMsg) : State := { s with net := n }

theorem confirmRow_here {s : State} {m : RowMsg} (a : LandAns) (h : m.srcPos.toNat = myPos s) :
    confirmRow m a s = withNet s (s.net ++ [.confirm ⟨m.ctx, m.tag, m.kind == .gradRow, m.token, m.rank, a⟩ m.srcPos.toNat m.srcDie.val]) := by
  refine send_here (die := m.srcDie.val) (src := m.srcDie.val) ?_
  show some (deviceOf s m.srcPos.toNat, _, _) = _
  rw [h]

theorem quiet_withNet {s : State} {n : List NetMsg} (h : Quiet s) : Quiet (withNet s n) := quiet_of_same h rfl rfl

/-- An owner's record of a tag that it has not cancelled turns no row away. -/
theorem notCancelled {s : State} {d tag : Nat} (h : (ownOf s d tag).all (fun t => !t.cancelled) = true) :
    (ownOf s d tag).any (fun t => t.cancelled) = false := by
  cases ho : ownOf s d tag with
  | none => rfl
  | some t =>
    rw [ho] at h
    simpa using h

/-! ## Lookups (06 R176) -/

/-- The owner of a forward row's expert, or of a lookup's range, meets it (06 R168, R173, R176). -/
theorem ownerRow_met {s : State} {d : Nat} {m : RowMsg} {e : DirEntry} (hc : (ownOf s d m.tag.toNat).any (fun t => t.cancelled) = false)
    (he : dirAt s m.layer.toNat m.expert.toNat = some e) (ho : ownerOf e = 8 * myPos s + d) (ht : (e.type == 2) = m.lookup)
    (hv : tooOld s m = false) (hk : m.kind = .fwdRow) :
    ownerRow d m s = if m.lookup then serveLookup d m e s else landExpertRow d m e s := by
  unfold ownerRow
  rw [hc, he]
  dsimp only
  rw [if_neg (by decide), if_neg (by rw [ht, ho]; simp), hv, if_neg (by decide), hk]
  cases m.lookup <;> rfl

theorem contribution_of_mem {s t : State} (hi : t.hw.items = s.hw.items) (d : Nat) (m : RowMsg) (grad : Bool) (sigma : Nat) (row : List Byte) :
    contribution t d m grad sigma row = contribution s d m grad sigma row := by
  have hp : myPos t = myPos s := by
    unfold myPos item
    rw [hi]
  unfold contribution
  rw [hp]

/-- The owner reads a row of its shard and returns it (06 R176). -/
theorem serveLookup_here {s : State} {d : Nat} {m : RowMsg} {e : DirEntry} (hk : m.kind = .fwdRow) (hp : m.srcPos.toNat = myPos s)
    (ha : access s m.ctx.toNat (wsUnit d) (e.slotBase.toNat + m.word6.toNat * m.rowBytes.toNat) m.rowBytes.toNat pRead = none)
    (hpo : poisonIn s (e.slotBase.toNat + m.word6.toNat * m.rowBytes.toNat) m.rowBytes.toNat = none) :
    serveLookup d m e s = withNet s (s.net ++
      [.confirm ⟨m.ctx, m.tag, false, m.token, m.rank, .landed⟩ m.srcPos.toNat m.srcDie.val,
       .row (contribution s d m false 0 (readBytes s (wsUnit d) (e.slotBase.toNat + m.word6.toNat * m.rowBytes.toNat) m.rowBytes.toNat))
        m.srcPos.toNat m.srcDie.val]) := by
  unfold serveLookup
  dsimp only
  rw [ha]
  dsimp only
  rw [confirmRow_here .landed hp, hk]
  obtain ⟨x, hx⟩ : ∃ x, withNet s (s.net ++ [.confirm ⟨m.ctx, m.tag, MsgKind.fwdRow == .gradRow, m.token, m.rank, .landed⟩ m.srcPos.toNat
    m.srcDie.val]) = x := ⟨_, rfl⟩
  have hxm : x.mem = s.mem := by rw [← hx]; rfl
  have hxp : poisonIn x (e.slotBase.toNat + m.word6.toNat * m.rowBytes.toNat) m.rowBytes.toNat = none :=
    ((SamePlaces.of_mem hxm).poisonIn _ _).trans hpo
  have hxpos : m.srcPos.toNat = myPos x := by rw [← hx]; exact hp
  rw [hx, hxp, if_neg (by simp), send_here (die := m.srcDie.val) (src := (Fin.ofNat 8 d).val) (by
      show some (deviceOf x m.srcPos.toNat, _, _) = _
      rw [hxpos]
      rfl), readBytes_of_mem hxm (by rw [← hx]; rfl), contribution_of_mem (s := s) (by rw [← hx]; rfl), ← hx]
  show withNet s ((s.net ++ [_]) ++ [_]) = _
  rw [List.append_assoc]
  rfl

/-! ## Return words (07 R188, R189) -/

/-- The row of the one landed slot goes back to its source on this device. -/
theorem returnSlot_here {s : State} {d : Nat} {e : DirEntry} {x : Half} {r : Landed} (hp : r.srcPos = myPos s)
    (ha : access s x.ctx (wsUnit d) (e.slotBase.toNat + r.slot * x.rowBytes) x.rowBytes pRead = none)
    (hpo : poisonIn s (e.slotBase.toNat + r.slot * x.rowBytes) x.rowBytes = none) :
    ∃ c : RowMsg, returnSlot d e x false r s = withNet s (s.net ++ [.row c r.srcPos r.srcDie]) ∧ c.kind = .fwdContrib ∧
      c.row = readBytes s (wsUnit d) (e.slotBase.toNat + r.slot * x.rowBytes) x.rowBytes ∧ c.tag = BitVec.ofNat 24 x.tag ∧
      c.token = BitVec.ofNat 16 r.token ∧ c.rank = BitVec.ofNat 3 r.rank := by
  have haddr : e.slotBase.toNat + (0 + r.slot) * x.rowBytes = e.slotBase.toNat + r.slot * x.rowBytes := by rw [Nat.zero_add]
  unfold returnSlot
  extract_lets u cap a tail ok m
  have ha' : a = e.slotBase.toNat + r.slot * x.rowBytes := haddr
  have hok : ok a x.rowBytes = true := by
    show ((access s x.ctx u a x.rowBytes pRead).isNone && (poisonIn s a x.rowBytes).isNone) = true
    rw [ha', ha, hpo]
    rfl
  rw [hok, if_neg (by simp), ← ha']
  refine ⟨contribution s d m false 0 (readBytes s u a x.rowBytes), ?_, rfl, rfl, rfl, rfl, rfl⟩
  refine send_here (die := r.srcDie) (src := (Fin.ofNat 8 d).val) ?_
  show some (deviceOf s r.srcPos, _, _) = _
  rw [hp]
  rfl

/-- What a return word comes to at an owner whose half is held (07 R188, R189). -/
def returned (d : Nat) (e : DirEntry) (x : Half) (v : Nat) (s : State) : State :=
  if x.tag != bits v 40 24 || !x.arrived || bits v 0 20 != landedCount x then event (count s (wsUnit d) 0x38 1) (wsUnit d) 0x7004 0 1
  else
    modWs (if bit v 38 then (x.rows.foldl (fun l r => insertLanded r l) []).foldl (fun s r => returnSlot d e x false r s) s else s) d
      (fun w => { w with halves := amDel w.halves (halfKey e.layer.toNat e.index.toNat false) })

theorem exec_returnWord (die : CDie) (ctx : Byte) (addr value : Word64) (s : State) (e : DirEntry) (x : Half)
    (he : returnEntry s die.val addr.toNat = some e)
    (hc : (ownOf s die.val (bits value.toNat 40 24)).any (fun t => t.cancelled) = false) (hg : bit value.toNat 39 = false)
    (hh : amFind (wsOf s die.val).halves (halfKey e.layer.toNat e.index.toNat false) = some x) :
    exec (.returnWord die ctx addr value) s = .next (settle (returned die.val e x value.toNat s)) := by
  show execReturnWord die ctx addr value s = _
  unfold execReturnWord
  dsimp only
  rw [he]
  dsimp only
  rw [hc, if_neg (by decide), hg, hh]
  rfl

/-- Settles O33. -/
theorem ownersReturnRows : Obligations.OwnersReturnRows := by
  constructor
  · intro die m s e d rb a row hq hl hk hp hc he ho ht hv hacc hpo
    have hrow : ownerRow d m (receive s (.row m (myPos s) d)) = serveLookup d m e (receive s (.row m (myPos s) d)) := by
      rw [ownerRow_met (s := receive s (.row m (myPos s) d)) (notCancelled hc) he ho (by rw [ht, hl]; rfl) hv hk, hl, if_pos rfl]
    have hpo' : poisonIn (receive s (.row m (myPos s) d)) a rb = none := 
      ((SamePlaces.of_mem (s := s) (t := receive s (.row m (myPos s) d)) rfl).poisonIn a rb).trans hpo
    have hx : exec (.lookupRequest die m) s = .next (settle (if m.lookup && m.kind == .fwdRow then
        ownerRow die.val m (receive s (.row m (myPos s) die.val)) else s)) := rfl
    rw [hx, hl, hk, if_pos (by decide), hrow, serveLookup_here (s := receive s (.row m (myPos s) d)) hk hp hacc hpo',
      settle_quiet _ (quiet_withNet (s := receive s (.row m (myPos s) d)) (quiet_of_same hq rfl rfl)), readBytes_of_mem (s := s) (t := receive s (.row m (myPos s) d)) rfl rfl,
      contribution_of_mem (s := s) (t := receive s (.row m (myPos s) d)) rfl]
    rfl
  · intro die ctx addr value s e x r d v tag key a hq hentry hown hgrad hhalf htag harr hrows
    have hcount : landedCount x = 1 := by
      rw [landedCount, hrows]
      rfl
    have hx := exec_returnWord die ctx addr value s e x hentry (notCancelled hown) hgrad hhalf
    refine ⟨fun hn hsend hpos hmine hacc hpo => ?_, fun hn => ?_⟩
    · obtain ⟨c, hsent, hkind, hrow, hctag, htok, hrank⟩ := returnSlot_here (d := d) (e := e) hmine hacc hpo
      have hret : returned d e x v s = modWs (withNet s (s.net ++ [.row c r.srcPos r.srcDie])) d
          (fun w => { w with halves := amDel w.halves key }) := by
        unfold returned
        rw [if_neg (by rw [htag, harr, hn, hcount]; simp [tag]), if_pos hsend, hrows]
        show modWs (returnSlot d e x false r s) d _ = _
        rw [hsent]
      rw [hx, hret]
      refine ⟨_, c, congrArg Host.Outcome.next (settle_quiet _ (quiet_of_same hq rfl rfl)), ?_, rfl, hkind, hrow, ?_, htok, hrank, rfl⟩
      · refine (congrArg (fun w => amFind w.halves key) ((wsOf_modWs (withNet s (s.net ++ [.row c r.srcPos r.srcDie])) d d
          (fun w => { w with halves := amDel w.halves key })).trans (if_pos rfl))).trans ?_
        exact (amFind_amDel _ _ _).trans (if_pos rfl)
      · rw [hctag, htag]
        rfl
    · obtain ⟨k, hk⟩ := event_eq (count s (wsUnit d) 0x38 1) (wsUnit d) 0x7004 0 1
      have hret : returned d e x v s = event (count s (wsUnit d) 0x38 1) (wsUnit d) 0x7004 0 1 := by
        unfold returned
        rw [if_pos (by rw [hcount]; simp [show bits v 0 20 ≠ 1 from hn])]
      rw [hx, hret, hk]
      refine ⟨_, congrArg Host.Outcome.next (settle_quiet _ (quiet_of_same hq rfl rfl)), rfl, rfl, rfl, ?_⟩
      show countOf (count s (wsUnit d) 0x38 1) (wsUnit d) 0x38 = _
      rw [countOf_count, if_pos rfl]

end Sys2Proof.Proofs
end

section
/-! PROOFS. Rows that reach the owner of their expert (06 R168, R169, R173; 07 R186, R187). -/

namespace Sys2Proof.Proofs

open Sys2Proof Sys2Proof.Machine Sys2Proof.Laws

/-- A lazy store leaves its bytes readable. -/
theorem bytesAt_storeLazy (s : State) (w : Who) (a : Nat) (bs : List Byte) (h : Memory.wf s.mem.cells = true) :
    bytesAt (storeLazy s w a bs) a bs.length = bs := by
  refine bytesAt_eq_of_getD fun k hk => ?_
  rw [byteAt_storeLazy s w a bs (a + k) h, if_pos ⟨by omega, by omega⟩, Nat.add_sub_cancel_left]

theorem bytesAt_passed (s : State) (a n : Nat) : bytesAt (passed s) a n = bytesAt s a n :=
  bytesAt_of_mem (s := s) (t := passed s) rfl a n

/-- The half in which the first row of a tag lands. -/
def firstHalf (m : RowMsg) : Half :=
  { ctx := m.ctx.toNat, tag := m.tag.toNat, claim := m.claim.toNat, fmt := m.fmt.toNat, rowBytes := m.row.length, arrived := false
    rows := [⟨m.slot.toNat, m.srcPos.toNat, m.srcDie.val, m.claim.toNat, m.token.toNat, m.rank.toNat⟩] }

/-- The state in which a forward row has been stored, held in its half and confirmed. -/
def landedRow (d : Nat) (m : RowMsg) (e : DirEntry) (s : State) : State :=
  let x := storeLazy s (wsWho s d m.ctx.toNat) (e.slotBase.toNat + m.slot.toNat * m.row.length) m.row
  let y := modWs x d (fun w => { w with halves := amPut w.halves (halfKey m.layer.toNat m.expert.toNat false) (firstHalf m) })
  withNet y (s.net ++ [.confirm ⟨m.ctx, m.tag, false, m.token, m.rank, .landed⟩ m.srcPos.toNat m.srcDie.val])

theorem wsOf_landedRow (d : Nat) (m : RowMsg) (e : DirEntry) (s : State) :
    wsOf (landedRow d m e s) d =
      { wsOf s d with halves := amPut (wsOf s d).halves (halfKey m.layer.toNat m.expert.toNat false) (firstHalf m) } := by
  obtain ⟨-, -, -, -, -, -, hws, -⟩ := storeLazy_frame s (wsWho s d m.ctx.toNat) (e.slotBase.toNat + m.slot.toNat * m.row.length) m.row
  obtain ⟨x, hx⟩ : ∃ x, storeLazy s (wsWho s d m.ctx.toNat) (e.slotBase.toNat + m.slot.toNat * m.row.length) m.row = x := ⟨_, rfl⟩
  have hwsx : wsOf x d = wsOf s d := by rw [← hx, wsOf, hws, ← wsOf]
  unfold landedRow
  rw [hx]
  refine (wsOf_modWs x d d (fun w =>
    { w with halves := amPut w.halves (halfKey m.layer.toNat m.expert.toNat false) (firstHalf m) })).trans ?_
  rw [if_pos rfl, hwsx]

/-- No arrival word is written while the fills are not final (06 R169). -/
theorem tryArrive_waits {s t : State} {d : Nat} {m : RowMsg}
    (hws : wsOf t d = { wsOf s d with halves := amPut (wsOf s d).halves (halfKey m.layer.toNat m.expert.toNat false) (firstHalf m) })
    (hown : (ownOf s d m.tag.toNat).all (fun t => !fillsFinal t) = true) :
    tryArrive d m.layer.toNat m.expert.toNat false t = t := by
  have hhalf : amFind (wsOf t d).halves (halfKey m.layer.toNat m.expert.toNat false) = some (firstHalf m) := by
    rw [hws]
    exact (amFind_amPut _ _ _ _).trans (if_pos rfl)
  have ho : ownOf t d (firstHalf m).tag = ownOf s d m.tag.toNat := by
    unfold ownOf
    rw [hws]
    rfl
  unfold tryArrive
  dsimp only
  rw [hhalf]
  cases dirAt t m.layer.toNat m.expert.toNat with
  | none => rfl
  | some e =>
    dsimp only
    rw [ho]
    cases hr : ownOf s d m.tag.toNat with
    | none => rfl
    | some r =>
      rw [hr] at hown
      have hf : fillsFinal r = false := by simpa using hown
      dsimp only
      rw [hf, if_neg (by simp)]

/-- A row whose half is free lands there, and its arrival word waits for the fills (06 R169). -/
theorem landExpertRow_free {s : State} {d : Nat} {m : RowMsg} {e : DirEntry} (hk : m.kind = .fwdRow) (hp : m.srcPos.toNat = myPos s)
    (hacc : access s m.ctx.toNat (wsUnit d) (e.slotBase.toNat + m.slot.toNat * m.row.length) m.row.length pWrite = none)
    (hown : (ownOf s d m.tag.toNat).all (fun t => !fillsFinal t) = true)
    (hfree : amFind (wsOf s d).halves (halfKey m.layer.toNat m.expert.toNat false) = none) :
    landExpertRow d m e s = landedRow d m e s := by
  obtain ⟨-, -, -, -, hhw, -, -, -, -, -, -, -, -, -, -, -, -, hnet, -⟩ :=
    storeLazy_frame s (wsWho s d m.ctx.toNat) (e.slotBase.toNat + m.slot.toNat * m.row.length) m.row
  have haddr : e.slotBase.toNat + (0 + m.slot.toNat) * m.row.length = e.slotBase.toNat + m.slot.toNat * m.row.length := by rw [Nat.zero_add]
  have hland : landExpertRow d m e s = tryArrive d m.layer.toNat m.expert.toNat false (confirmRow m .landed
      (modWs (storeLazy s (wsWho s d m.ctx.toNat) (e.slotBase.toNat + m.slot.toNat * m.row.length) m.row) d
        (fun w => { w with halves := amPut w.halves (halfKey m.layer.toNat m.expert.toNat false) (firstHalf m) }))) := by
    unfold landExpertRow
    rw [hk]
    dsimp only
    rw [show (MsgKind.fwdRow == MsgKind.gradRow) = false from rfl, hfree, if_neg (by simp), if_neg (by decide), haddr, hacc]
    rfl
  have hconf : confirmRow m .landed
      (modWs (storeLazy s (wsWho s d m.ctx.toNat) (e.slotBase.toNat + m.slot.toNat * m.row.length) m.row) d
        (fun w => { w with halves := amPut w.halves (halfKey m.layer.toNat m.expert.toNat false) (firstHalf m) })) = landedRow d m e s := by
    rw [confirmRow_here .landed (by
      show m.srcPos.toNat = bits (amGet _ (storeLazy s _ _ _).hw.items _) 0 4
      rw [hhw]
      exact hp), hk]
    show withNet _ ((storeLazy s _ _ _).net ++ _) = _
    rw [hnet]
    rfl
  rw [hland, hconf]
  exact tryArrive_waits (wsOf_landedRow d m e s) hown

/-- What a landed row leaves: its bytes at its slot, and nothing else of memory (06 R168). -/
theorem landedRow_facts (d : Nat) (m : RowMsg) (e : DirEntry) (s : State) (hm : Memory.wf s.mem.cells = true) (hw : s.sig.waiters = []) :
    let t := landedRow d m e s
    let a := e.slotBase.toNat + m.slot.toNat * m.row.length
    t.gz = s.gz ∧ t.link = s.link ∧ bytesAt t a m.row.length = m.row ∧ MemSame s t [(a, m.row.length)] ∧
    amFind (wsOf t d).halves (halfKey m.layer.toNat m.expert.toNat false) = some (firstHalf m) ∧
    (wsOf t d).heldRows = (wsOf s d).heldRows ∧
    t.net = s.net ++ [.confirm ⟨m.ctx, m.tag, false, m.token, m.rank, .landed⟩ m.srcPos.toNat m.srcDie.val] := by
  intro t a
  have hmem : t.mem = (storeLazy s (wsWho s d m.ctx.toNat) a m.row).mem := rfl
  have hwst : wsOf t d = _ := wsOf_landedRow d m e s
  refine ⟨(storeLazy_calm s _ a m.row hw).1, ?_, ?_, fun x hx => ?_, ?_, ?_, rfl⟩
  · obtain ⟨-, -, -, -, -, -, -, -, -, -, -, -, hl, -⟩ := storeLazy_frame s (wsWho s d m.ctx.toNat) a m.row
    exact hl
  · exact (bytesAt_of_mem hmem a m.row.length).trans (bytesAt_storeLazy s _ a m.row hm)
  · exact (byteAt_of_mem hmem x).trans ((byteAt_storeLazy s _ a m.row x hm).trans (if_neg (hx _ List.mem_cons_self)))
  · rw [hwst]
    exact (amFind_amPut _ _ _ _).trans (if_pos rfl)
  · rw [hwst]

/-- The record of a tag after a change of it. -/
theorem ownOf_modOwn_self {s : State} {d tag : Nat} {t0 : OwnTag} {f : OwnTag → OwnTag} (h : ownOf s d tag = some t0)
    (hf : ∀ t, (f t).tag = t.tag) : ownOf (modOwn s d tag f) d tag = some (f t0) := by
  have hkey : (fun t : OwnTag => t.tag == tag) ∘ (fun t => if t.tag == tag then f t else t) = fun t => t.tag == tag := by
    funext t
    show ((if t.tag == tag then f t else t).tag == tag) = _
    split
    · rw [hf]
    · rfl
  have htag : t0.tag = tag := by simpa using List.find?_some h
  have hws : wsOf (modOwn s d tag f) d = { wsOf s d with owned := (wsOf s d).owned.map (fun t => if t.tag == tag then f t else t) } :=
    (wsOf_modWs s d d (fun w => { w with owned := w.owned.map (fun t => if t.tag == tag then f t else t) })).trans (if_pos rfl)
  rw [ownOf, hws]
  show ((wsOf s d).owned.map _).find? _ = _
  rw [List.find?_map, hkey, show (wsOf s d).owned.find? _ = _ from h]
  simp [htag]

/-- A row of a cancelled tag is counted, and its slot given back (06 R173). -/
theorem staleRow_facts (d : Nat) (m : RowMsg) (s : State) (t0 : OwnTag) (hp : m.srcPos.toNat = myPos s)
    (ho : ownOf s d m.tag.toNat = some t0) :
    let t := staleRow d m s
    t.gz = s.gz ∧ t.link = s.link ∧ t.mem = s.mem ∧ (ownOf t d m.tag.toNat).map (·.stale) = some (t0.stale + 1) := by
  intro t
  have hsend : ∃ k, t = send (modOwn s d m.tag.toNat (fun t => { t with stale := t.stale + 1 })) (.cancelAck k m.srcPos.toNat m.srcDie.val) :=
    ⟨_, rfl⟩
  obtain ⟨k, hsend⟩ := hsend
  have ht : ∃ n, t = withNet (modOwn s d m.tag.toNat (fun t => { t with stale := t.stale + 1 })) n := by
    rw [hsend, send_here (die := m.srcDie.val) (src := k.ownerDie.val) (by
      show some (deviceOf _ m.srcPos.toNat, _, _) = _
      rw [hp]
      rfl)]
    exact ⟨_, rfl⟩
  obtain ⟨n, ht⟩ := ht
  have hown : ownOf t d m.tag.toNat = some { t0 with stale := t0.stale + 1 } := by
    rw [ht]
    exact ownOf_modOwn_self ho fun _ => rfl
  rw [hown, ht]
  exact ⟨rfl, rfl, rfl, rfl⟩

/-- While a half of another tag is held a row waits (07 R187). -/
theorem landExpertRow_held {s : State} {d : Nat} {m : RowMsg} {e : DirEntry} {x : Half} (hk : m.kind = .fwdRow)
    (hx : amFind (wsOf s d).halves (halfKey m.layer.toNat m.expert.toNat false) = some x) (hne : x.tag ≠ m.tag.toNat) :
    landExpertRow d m e s = modWs s d (fun w => { w with heldRows := w.heldRows ++ [m] }) := by
  unfold landExpertRow
  rw [hk]
  dsimp only
  rw [show (MsgKind.fwdRow == MsgKind.gradRow) = false from rfl, hx, if_pos (by simp [hne])]

/-- The one row of this device that waits is offered again. -/
theorem exec_heldHalfRetry_none (die : CDie) (s : State) (m : RowMsg) (hh : (wsOf s die.val).heldRows = [m]) (hp : m.srcPos.toNat = myPos s) :
    exec (.heldHalfRetry die none) s =
      .next (settle (ownerRow die.val m (modWs s die.val (fun w => { w with heldRows := [] })))) := by
  have hx : exec (.heldHalfRetry die none) s = .next (settle (((wsOf s die.val).heldRows.filter (fun m =>
      (m.srcPos.toNat == myPos s) == (none : Option Word32).isNone)).foldl (fun s m => ownerRow die.val m s)
      (modWs s die.val (fun w => { w with heldRows := (wsOf s die.val).heldRows.filter (fun m =>
        !((m.srcPos.toNat == myPos s) == (none : Option Word32).isNone)) })))) := rfl
  rw [hx, hh]
  simp [hp]

/-- Settles O32. -/
theorem rowsLandInHalves : Obligations.RowsLandInHalves := by
  intro die m s e d key c a landed told hc hl hk hp he ho ht hv
  obtain ⟨hjobs, hm, hw⟩ := hc
  have hx : exec (.exchangeRowArrival die m) s = .next (settle (ownerRow d m (receive s (.row m (myPos s) d)))) := rfl
  have hmatch : (e.type == 2) = m.lookup := by
    rw [ht, hl]
    rfl
  refine ⟨fun hown hacc => ?_, fun t0 hown hcan => ?_⟩
  · have hlive : (ownOf s d m.tag.toNat).any (fun t => t.cancelled) = false := by
      cases ho' : ownOf s d m.tag.toNat with
      | none => rfl
      | some t =>
        rw [ho'] at hown
        simp only [Option.all_some, Bool.and_eq_true, Bool.not_eq_true'] at hown
        simpa using hown.1
    have hopen : (ownOf s d m.tag.toNat).all (fun t => !fillsFinal t) = true := by
      cases ho' : ownOf s d m.tag.toNat with
      | none => rfl
      | some t =>
        rw [ho'] at hown
        simp only [Option.all_some, Bool.and_eq_true, Bool.not_eq_true'] at hown
        simpa using hown.2
    refine ⟨fun hfree => ?_, fun hheld hfree => ?_, fun x hhalf hne => ?_⟩
    · have hland : ownerRow d m (receive s (.row m (myPos s) d)) = landedRow d m e (receive s (.row m (myPos s) d)) := by
        rw [ownerRow_met (s := receive s (.row m (myPos s) d)) hlive he ho hmatch hv hk, hl, if_neg (by decide),
          landExpertRow_free (s := receive s (.row m (myPos s) d)) hk hp hacc hopen hfree]
      obtain ⟨hgz, -, hb, hms, hhalf, -, hnet⟩ := landedRow_facts d m e (receive s (.row m (myPos s) d)) hm hw
      have hidle : Idle (landedRow d m e (receive s (.row m (myPos s) d))) := (congrArg GelozSt.jobs hgz).trans hjobs
      rw [hx, hland, settle_idle _ hidle]
      have hbytes : bytesAt (passed (landedRow d m e (receive s (.row m (myPos s) d)))) a m.row.length = m.row :=
        (bytesAt_passed _ _ _).trans hb
      exact ⟨_, firstHalf m, rfl, hbytes, hms, hhalf, rfl, rfl, rfl,
        rfl, hnet⟩
    · obtain ⟨y, hy⟩ : ∃ y, modWs s d (fun w => { w with heldRows := [] }) = y := ⟨_, rfl⟩
      have hwsy : wsOf y d = { wsOf s d with heldRows := [] } := by
        rw [← hy]
        exact (wsOf_modWs s d d (fun w => { w with heldRows := [] })).trans (if_pos rfl)
      have howny : ownOf y d m.tag.toNat = ownOf s d m.tag.toNat := by
        unfold ownOf
        rw [hwsy]
      have hretry : exec (.heldHalfRetry die none) s = .next (settle (ownerRow d m y)) := by
        rw [exec_heldHalfRetry_none die s m hheld hp, ← hy]
      have hland : ownerRow d m y = landedRow d m e y := by
        rw [ownerRow_met (s := y) (by rw [howny]; exact hlive) (by rw [← hy]; exact he) (by rw [← hy]; exact ho) hmatch
            (by rw [← hy]; exact hv) hk, hl, if_neg (by decide),
          landExpertRow_free (s := y) hk (by rw [← hy]; exact hp) (by rw [← hy]; exact hacc) (by rw [howny]; exact hopen)
            (by rw [hwsy]; exact hfree)]
      obtain ⟨hgz, -, hb, -, hhalf, hrows, hnet⟩ := landedRow_facts d m e y (by rw [← hy]; exact hm) (by rw [← hy]; exact hw)
      have hidle : Idle (landedRow d m e y) := (congrArg GelozSt.jobs hgz).trans (by rw [← hy]; exact hjobs)
      rw [hretry, hland, settle_idle _ hidle]
      have hbytes : bytesAt (passed (landedRow d m e y)) a m.row.length = m.row :=
        (bytesAt_passed _ _ _).trans hb
      exact ⟨_, firstHalf m, rfl, hbytes,
        hrows.trans (by rw [hwsy]), hhalf, rfl, hnet.trans (by rw [← hy]; rfl)⟩
    · have hheldrow : ownerRow d m (receive s (.row m (myPos s) d)) = modWs (receive s (.row m (myPos s) d)) d
          (fun w => { w with heldRows := w.heldRows ++ [m] }) := by
        rw [ownerRow_met (s := receive s (.row m (myPos s) d)) hlive he ho hmatch hv hk, hl, if_neg (by decide)]
        exact landExpertRow_held hk hhalf hne
      rw [hx, hheldrow]
      exact congrArg Host.Outcome.next (settle_idle _ hjobs)
  · have hstale : ownerRow d m (receive s (.row m (myPos s) d)) = staleRow d m (receive s (.row m (myPos s) d)) := by
      unfold ownerRow
      rw [show ownOf (receive s (.row m (myPos s) d)) d m.tag.toNat = some t0 from hown]
      exact if_pos hcan
    obtain ⟨hgz, -, hmem, hst⟩ := staleRow_facts d m (receive s (.row m (myPos s) d)) t0 hp hown
    have hidle : Idle (staleRow d m (receive s (.row m (myPos s) d))) := (congrArg GelozSt.jobs hgz).trans hjobs
    rw [hx, hstale, settle_idle _ hidle]
    exact ⟨_, rfl, fun x => byteAt_of_mem (s := s) hmem x, hst⟩

end Sys2Proof.Proofs
end

section
/-! PROOFS. Count messages, their discard and cancel notices at an owner (06 R151, R157-R161, R169, R173; 07 R202). -/

namespace Sys2Proof.Proofs

open Sys2Proof Sys2Proof.Machine Sys2Proof.Laws

/-! ## Arrival words -/

/-- Work on arrival words: where nothing waits for a word, no command, port or message changes, nor whether a tag's counts have been
filled. -/
def Arriving (d : Nat) (s t : State) : Prop :=
  s.sig.waiters = [] → t.gz = s.gz ∧ t.link = s.link ∧ t.net = s.net ∧ t.sig.waiters = [] ∧
    ∀ tag, (ownOf t d tag).map (·.filled) = (ownOf s d tag).map (·.filled)

theorem Arriving.refl (d : Nat) (s : State) : Arriving d s s := fun h => ⟨rfl, rfl, rfl, h, fun _ => rfl⟩

theorem Arriving.trans {d : Nat} {s t u : State} (h : Arriving d s t) (k : Arriving d t u) : Arriving d s u := by
  intro hw
  obtain ⟨hg, hl, hn, hw', hf⟩ := h hw
  obtain ⟨kg, kl, kn, kw, kf⟩ := k hw'
  exact ⟨kg.trans hg, kl.trans hl, kn.trans hn, kw, fun tag => (kf tag).trans (hf tag)⟩

theorem Arriving.foldl {d : Nat} {α : Type} {f : State → α → State} (h : ∀ s x, Arriving d s (f s x)) (l : List α) (s : State) :
    Arriving d s (l.foldl f s) := by
  induction l generalizing s with
  | nil => exact .refl d s
  | cons x l ih => exact (h s x).trans (ih _)

theorem writeArrival_arriving (d' d c tag : Nat) (grad : Bool) (n : Nat) (e : DirEntry) (s : State) :
    Arriving d' s (writeArrival d c tag grad n e s) := by
  have hfence : Arriving d' s (wsFence s d) := fun h => ⟨rfl, rfl, rfl, h, fun _ => rfl⟩
  have hstore : ∀ (x : State) (w : Who) (a v : Nat), Arriving d' x (sigStore x w a v) := by
    intro x w a v
    unfold sigStore
    split
    · exact .refl d' x
    · intro hw
      obtain ⟨-, -, -, -, -, -, hws, -, -, -, -, -, hl, -, -, -, -, hn, -⟩ := storeNow_frame x w a (leBytes 8 v)
      obtain ⟨hg, hw'⟩ := storeNow_calm x w a (leBytes 8 v) hw
      refine ⟨hg, hl, hn, hw', fun tag => ?_⟩
      unfold ownOf wsOf
      rw [hws]
  unfold writeArrival
  dsimp only
  split
  · exact hfence.trans (hstore _ _ _ _)
  · exact hfence

/-- The records of a die after a change of one. -/
theorem owned_modOwn (s : State) (d tag : Nat) (f : OwnTag → OwnTag) :
    wsOf (modOwn s d tag f) d = { wsOf s d with owned := (wsOf s d).owned.map (fun t => if t.tag == tag then f t else t) } :=
  (wsOf_modWs s d d (fun w => { w with owned := w.owned.map (fun t => if t.tag == tag then f t else t) })).trans (if_pos rfl)

theorem modOwn_arriving (d tag : Nat) (f : OwnTag → OwnTag) (hf : ∀ t, (f t).tag = t.tag ∧ (f t).filled = t.filled) (s : State) :
    Arriving d s (modOwn s d tag f) := by
  refine fun h => ⟨rfl, rfl, rfl, h, fun tag' => ?_⟩
  have hkey : (fun t : OwnTag => t.tag == tag') ∘ (fun t => if t.tag == tag then f t else t) = fun t => t.tag == tag' := by
    funext t
    show ((if t.tag == tag then f t else t).tag == tag') = _
    split
    · rw [(hf t).1]
    · rfl
  rw [ownOf, owned_modOwn]
  show (((wsOf s d).owned.map _).find? _).map _ = _
  rw [List.find?_map, hkey, Option.map_map, ownOf]
  congr 1
  funext t
  show (if t.tag == tag then f t else t).filled = t.filled
  split
  · exact (hf t).2
  · rfl

theorem tryArrive_arriving (d layer expert : Nat) (grad : Bool) (s : State) : Arriving d s (tryArrive d layer expert grad s) := by
  unfold tryArrive
  dsimp only
  split
  · next h e _ _ =>
    split
    · next t _ =>
      split
      · refine Arriving.trans (t := modWs s d (fun w => { w with halves := amPut w.halves (halfKey layer expert grad) { h with arrived := true } }))
          (fun hw => ⟨rfl, rfl, rfl, hw, fun tag => ?_⟩) ?_
        · unfold ownOf
          rw [wsOf_modWs, if_pos rfl]
        · refine Arriving.trans ?_ (writeArrival_arriving _ _ _ _ _ _ _ _)
          split
          · exact .refl _ _
          · exact modOwn_arriving d h.tag (fun t => { t with arrived := expert :: t.arrived }) (fun _ => ⟨rfl, rfl⟩) _
      · exact .refl _ _
    · exact .refl _ _
  · exact .refl _ _

theorem arriveAll_arriving (d c tag layer : Nat) (s : State) : Arriving d s (arriveAll d c tag layer s) := by
  unfold arriveAll
  split
  · exact .refl d s
  · next t _ =>
    refine .foldl (fun s e => ?_) _ s
    split
    · exact .refl d s
    · split
      · exact (modOwn_arriving d tag (fun t => { t with arrived := e.index.toNat :: t.arrived }) (fun _ => ⟨rfl, rfl⟩) s).trans
          (writeArrival_arriving _ _ _ _ _ _ _ _)
      · exact tryArrive_arriving _ _ _ _ _

/-! ## Answers to sources on this device -/

/-- Answers go to their sources in order. -/
theorem answers_here (d : Nat) (f : CountMsg → QuotaAns) (l : List CountMsg) (s : State) (h : ∀ x ∈ l, x.srcPos.toNat = myPos s) :
    l.foldl (fun s x => answer d x (f x) s) s = withNet s (s.net ++ l.map (fun x =>
      .quota ⟨x.ctx, x.tag, BitVec.ofNat 4 (myPos s), Fin.ofNat 8 d, x.spill, f x⟩ x.srcPos.toNat x.srcDie.val)) := by
  induction l generalizing s with
  | nil =>
    rw [List.map_nil, List.append_nil]
    rfl
  | cons x l ih =>
    have hx : answer d x (f x) s = withNet s (s.net ++
        [.quota ⟨x.ctx, x.tag, BitVec.ofNat 4 (myPos s), Fin.ofNat 8 d, x.spill, f x⟩ x.srcPos.toNat x.srcDie.val]) := by
      refine send_here (die := x.srcDie.val) (src := (Fin.ofNat 8 d).val) ?_
      show some (deviceOf s x.srcPos.toNat, _, _) = _
      rw [h x List.mem_cons_self]
    rw [List.foldl_cons, hx, List.map_cons]
    obtain ⟨q, hq⟩ : ∃ q, NetMsg.quota ⟨x.ctx, x.tag, BitVec.ofNat 4 (myPos s), Fin.ofNat 8 d, x.spill, f x⟩ x.srcPos.toNat x.srcDie.val = q :=
      ⟨_, rfl⟩
    rw [hq]
    refine (ih (withNet s (s.net ++ [q])) fun y hy => h y (List.mem_cons_of_mem _ hy)).trans ?_
    exact congrArg (withNet s) (List.append_assoc s.net [q] _)

/-! ## The fill (06 R158) -/

/-- The quotas and bases of each expert that a die owns of a layer (06 R158). -/
def fillsOf (s : State) (d : Nat) (msgs : List CountMsg) (m : CountMsg) : List (Word16 × List (Nat × Nat × Nat × Nat) × Nat) :=
  (ownedHere s d m.layer.toNat).map (fun e =>
    (e.index, fillExpert e.capacity.toNat 0 (fillOrder msgs m.k.toNat m.sources.toNat e.index.toNat)))

/-- What an owner grants one source (06 R158). -/
def grantsOf (fills : List (Word16 × List (Nat × Nat × Nat × Nat) × Nat)) (x : CountMsg) : List (Word16 × BitVec 3 × Word32 × Word32) :=
  fills.flatMap (fun f => (f.2.1.filter (fun q => q.2.1 == x.source.toNat)).map (fun q =>
    (f.1, BitVec.ofNat 3 q.1, BitVec.ofNat 32 q.2.2.1, BitVec.ofNat 32 q.2.2.2)))

/-- The record of a tag whose counts have been filled. -/
def filledOwn (fills : List (Word16 × List (Nat × Nat × Nat × Nat) × Nat)) (t : OwnTag) : OwnTag :=
  { t with fills := fills.foldl (fun m x => amPut m x.1.toNat x.2.2) t.fills, filled := true, spillFilled := t.spillFilled }

/-- The owner answers every source when it has filled (06 R158). -/
def answered (d : Nat) (fills : List (Word16 × List (Nat × Nat × Nat × Nat) × Nat)) (msgs : List CountMsg) (s : State) : State :=
  msgs.foldl (fun s m => answer d m (.granted (grantsOf fills m)) s) s

/-- When the fills of a tag are final its arrival words follow (06 R169). -/
def arrivals (d tag : Nat) (m : CountMsg) (s : State) : State :=
  match ownOf s d tag with
  | some t => if fillsFinal t then arriveAll d m.ctx.toNat tag m.layer.toNat s else s
  | none => s

theorem fillAll_eq (d tag : Nat) (s : State) (t : OwnTag) (m : CountMsg) (ms : List CountMsg) (h : ownOf s d tag = some t)
    (hm : t.msgs = m :: ms) :
    fillAll d tag false s = arrivals d tag m
      (answered d (fillsOf s d (m :: ms) m) (m :: ms) (modOwn s d tag (filledOwn (fillsOf s d (m :: ms) m)))) := by
  unfold fillAll
  rw [h]
  dsimp only
  rw [hm]
  rfl

theorem arrivals_arriving (d tag : Nat) (m : CountMsg) (s : State) : Arriving d s (arrivals d tag m s) := by
  unfold arrivals
  split
  · split
    · exact arriveAll_arriving _ _ _ _ _
    · exact .refl _ _
  · exact .refl _ _

/-- An owner that has every source's counts fills and answers them (06 R157, R158). -/
theorem fillAll_here (d tag : Nat) (s : State) (t : OwnTag) (m : CountMsg) (ms : List CountMsg) (h : ownOf s d tag = some t)
    (hm : t.msgs = m :: ms) (hp : ∀ x ∈ m :: ms, x.srcPos.toNat = myPos s) (hw : s.sig.waiters = []) :
    let y := fillAll d tag false s
    y.gz = s.gz ∧ (ownOf y d tag).map (·.filled) = some true ∧ y.net = s.net ++ (m :: ms).map (fun x =>
      .quota ⟨x.ctx, x.tag, BitVec.ofNat 4 (myPos s), Fin.ofNat 8 d, x.spill, .granted (grantsOf (fillsOf s d (m :: ms) m) x)⟩
        x.srcPos.toNat x.srcDie.val) := by
  intro y
  obtain ⟨fills, hfills⟩ : ∃ f, fillsOf s d (m :: ms) m = f := ⟨_, rfl⟩
  have hown : ownOf (modOwn s d tag (filledOwn fills)) d tag = some (filledOwn fills t) := ownOf_modOwn_self h fun _ => rfl
  have hans := answers_here d (fun x => .granted (grantsOf fills x)) (m :: ms) (modOwn s d tag (filledOwn fills)) hp
  have hy : y = arrivals d tag m (answered d fills (m :: ms) (modOwn s d tag (filledOwn fills))) := by
    show fillAll d tag false s = _
    rw [fillAll_eq d tag s t m ms h hm, hfills]
  have hanswered : answered d fills (m :: ms) (modOwn s d tag (filledOwn fills)) = _ := hans
  rw [hanswered] at hy
  obtain ⟨hg, -, hn, -, hf⟩ := arrivals_arriving d tag m _ (show (withNet (modOwn s d tag (filledOwn fills)) _).sig.waiters = [] from hw)
  rw [hfills, hy]
  refine ⟨hg, (hf tag).trans ?_, hn⟩
  show (ownOf (modOwn s d tag (filledOwn fills)) d tag).map _ = _
  rw [hown]
  rfl

/-! ## O31 -/

theorem withOwn_known {s : State} {d tag : Nat} {t : OwnTag} (h : ownOf s d tag = some t) : withOwn s d tag = s := by
  unfold withOwn
  rw [h]
  rfl

/-- A count message that agrees with those held joins them; the last one brings the fill (06 R151, R158). -/
theorem takeCounts_joins {s : State} {d : Nat} {m : CountMsg} {t : OwnTag} (h : ownOf s d m.tag.toNat = some t)
    (hc : t.cancelled = false) (hr : t.refused = none) (he : s.dir.epoch ≤ m.epoch.toNat) (hs : m.spill = false)
    (hd : (t.msgs ++ [m]).head?.bind (fun f => disagrees f m t.msgs) = none) :
    takeCounts d m s = if (t.msgs ++ [m]).length = m.sources.toNat
      then fillAll d m.tag.toNat false (modOwn s d m.tag.toNat (fun x => { x with msgs := t.msgs ++ [m] }))
      else modOwn s d m.tag.toNat (fun x => { x with msgs := t.msgs ++ [m] }) := by
  unfold takeCounts
  dsimp only
  rw [withOwn_known h, h]
  dsimp only
  rw [hc, if_neg (by decide), if_neg (by omega), hr, hs]
  dsimp only
  rw [if_neg (by decide), hd]
  rfl

/-- The record of a tag that a source has cancelled. -/
theorem ownOf_cancelled {s : State} {d tag : Nat} {t0 : OwnTag} (h : ownOf s d tag = some t0) :
    ownOf (modOwn s d tag (fun t => { newOwn tag with cancelled := true, stale := t.stale })) d tag =
      some { newOwn tag with cancelled := true, stale := t0.stale } := by
  have hkey : (fun t : OwnTag => t.tag == tag) ∘ (fun t => if t.tag == tag then
      { newOwn tag with cancelled := true, stale := t.stale } else t) = fun t => t.tag == tag := by
    funext t
    show ((if t.tag == tag then { newOwn tag with cancelled := true, stale := t.stale } else t).tag == tag) = _
    by_cases ht : t.tag = tag
    · simp [ht, newOwn]
    · simp [ht]
  have htag : t0.tag = tag := by simpa using List.find?_some h
  rw [ownOf, owned_modOwn]
  show ((wsOf s d).owned.map _).find? _ = _
  rw [List.find?_map, hkey, show (wsOf s d).owned.find? _ = _ from h]
  simp [htag]

/-- An owner that holds no counts of a cancelled tag acknowledges the notice (06 R173; 07 R202). -/
theorem exec_cancelNotice (die : CDie) (m : CancelNote) (s : State) (t0 : OwnTag) (h : ownOf s die.val m.tag.toNat = some t0)
    (hm : t0.msgs = []) (hs : t0.spills = []) :
    let y := modOwn (receive s (.cancel m (myPos s) die.val)) die.val m.tag.toNat
      (fun t => { newOwn m.tag.toNat with cancelled := true, stale := t.stale })
    exec (.cancelNotice die m) s = .next (settle (send y (.cancelAck
      ⟨m.ctx, m.tag, BitVec.ofNat 4 (myPos y), Fin.ofNat 8 die.val, heldSlots y die.val m.tag.toNat m.srcPos.toNat m.srcDie.val,
        BitVec.ofNat 32 t0.stale⟩ m.srcPos.toNat m.srcDie.val))) := by
  intro y
  have hown : ownOf (receive s (.cancel m (myPos s) die.val)) die.val m.tag.toNat = some t0 := h
  show execCancelNotice die m s = _
  unfold execCancelNotice
  dsimp only
  rw [withOwn_known hown, hown]
  dsimp only
  rw [hm, hs, ite_self, ite_self]
  rfl

/-- Settles O31. -/
theorem ownersHoldCounts : Obligations.OwnersHoldCounts := by
  refine ⟨fun die m s t0 => ?_, fun die ctx tag s t0 hq hown => ?_, fun die m s t0 => ?_⟩
  · intro d tag all es grants ⟨hjobs, hm, hw⟩ hown hcan href hep hsp hdis
    have hx : exec (.countMessage die m {}) s = .next (settle (takeCounts d m (receive s (.count m (myPos s) d)))) := rfl
    have htake := takeCounts_joins (s := receive s (.count m (myPos s) d)) hown hcan href hep hsp hdis
    rw [hx, htake]
    refine ⟨fun hlen => ?_, fun hlen hall => ?_⟩
    · rw [if_neg hlen]
      exact congrArg Host.Outcome.next (settle_idle _ hjobs)
    · rw [if_pos hlen]
      obtain ⟨y, hy⟩ : ∃ y, modOwn (receive s (.count m (myPos s) d)) d tag (fun x => { x with msgs := t0.msgs ++ [m] }) = y := ⟨_, rfl⟩
      have howny : ownOf y d tag = some { t0 with msgs := all } := by
        rw [← hy]
        exact ownOf_modOwn_self (s := receive s (.count m (myPos s) d)) hown fun _ => rfl
      obtain ⟨m0, ms, hms⟩ : ∃ m0 ms, all = m0 :: ms := List.exists_cons_of_ne_nil (List.concat_ne_nil m t0.msgs)
      obtain ⟨-, hlayer, hk, hsources⟩ := hall m0 (hms ▸ List.mem_cons_self)
      have hhere : ∀ x ∈ m0 :: ms, x.srcPos.toNat = myPos y := by
        intro x hx'
        rw [← hy]
        exact (hall x (hms ▸ hx')).1
      obtain ⟨hg, hf, hn⟩ := fillAll_here d tag y { t0 with msgs := all } m0 ms howny hms hhere (by rw [← hy]; exact hw)
      have hgrants : ∀ x, grantsOf (fillsOf y d (m0 :: ms) m0) x = grants x := by
        intro x
        have hes : ownedHere y d m0.layer.toNat = es := by rw [← hy, hlayer]; rfl
        unfold grantsOf fillsOf
        rw [hes, hk, hsources, ← hms, List.flatMap_map]
      simp only [hgrants] at hn
      rw [← hms] at hn
      have hidle : Idle (fillAll d tag false y) := (congrArg GelozSt.jobs hg).trans (by rw [← hy]; exact hjobs)
      rw [hy, settle_idle _ hidle]
      exact ⟨_, rfl, hf, hn.trans (by rw [← hy]; rfl)⟩
  · have hx : exec (.countDiscardTimer die ctx tag) s = .next (settle (match ownOf s die.val tag.toNat with
      | none => s
      | some t => if ownDone s die.val t then s
        else modOwn s die.val tag.toNat (fun t => { newOwn t.tag with cancelled := t.cancelled, stale := t.stale }))) := rfl
    rw [hx, hown]
    refine ⟨fun hd => ?_, fun hd => ?_⟩
    · dsimp only
      rw [hd, if_neg (by decide)]
      exact congrArg Host.Outcome.next (settle_quiet _ (quiet_of_same hq rfl rfl))
    · dsimp only
      rw [hd, if_pos rfl]
      exact congrArg Host.Outcome.next (settle_quiet _ hq)
  · intro d tag hq hown hmsgs hspills hp
    obtain ⟨y, hy⟩ : ∃ y, modOwn (receive s (.cancel m (myPos s) d)) d tag (fun t => { newOwn tag with cancelled := true, stale := t.stale }) = y :=
      ⟨_, rfl⟩
    have howny : ownOf y d tag = some { newOwn tag with cancelled := true, stale := t0.stale } := by
      rw [← hy]
      exact ownOf_cancelled (s := receive s (.cancel m (myPos s) d)) hown
    have hslots : heldSlots y d tag m.srcPos.toNat m.srcDie.val = heldSlots s d tag m.srcPos.toNat m.srcDie.val := by
      unfold heldSlots
      rw [← hy, owned_modOwn]
      rfl
    have hx : exec (.cancelNotice die m) s = .next (settle (send y (.cancelAck
        ⟨m.ctx, m.tag, BitVec.ofNat 4 (myPos y), Fin.ofNat 8 d, heldSlots y d tag m.srcPos.toNat m.srcDie.val, BitVec.ofNat 32 t0.stale⟩
        m.srcPos.toNat m.srcDie.val))) := by
      rw [← hy]
      exact exec_cancelNotice die m s t0 hown hmsgs hspills
    rw [hx, hslots, send_here (die := m.srcDie.val) (src := (Fin.ofNat 8 d).val) (by
      show some (deviceOf y m.srcPos.toNat, _, _) = _
      rw [hp, ← hy]
      rfl)]
    refine ⟨_, congrArg Host.Outcome.next (settle_quiet _ (quiet_of_same hq (by rw [← hy]; rfl) (by rw [← hy]; rfl))), ?_, ?_, ?_⟩
    · exact congrArg (Option.map (·.cancelled)) howny
    · exact congrArg (Option.map (·.stale)) howny
    · show y.net ++ _ = _
      rw [← hy]
      rfl

end Sys2Proof.Proofs
end

section
/-! PROOFS. Contributions at the Confluence: those that meet their claim, and stale ones (07 R194, R195). -/

namespace Sys2Proof.Proofs

open Sys2Proof Sys2Proof.Machine Sys2Proof.Laws

/-! ## Claims after a change -/

/-- A change of the entries that a search looks for, which leaves them such entries, changes what the search finds. -/
theorem find?_map_if {α : Type} (p : α → Bool) (f : α → α) (hf : ∀ x, p x = true → p (f x) = true) (l : List α) :
    (l.map (fun x => if p x then f x else x)).find? p = (l.find? p).map f := by
  induction l with
  | nil => rfl
  | cons x l ih =>
    rw [List.map_cons]
    cases hx : p x with
    | true => rw [if_pos rfl, List.find?_cons_of_pos (hf x hx), List.find?_cons_of_pos hx, Option.map_some]
    | false => rw [if_neg (by simp), List.find?_cons_of_neg (by simp [hx]), List.find?_cons_of_neg (by simp [hx]), ih]

theorem claimOf_modClaim {s : State} {d tag : Nat} {grad : Bool} {f : Claim → Claim} (hf : ∀ c, (f c).tag = c.tag ∧ (f c).grad = c.grad) :
    claimOf (modClaim s d tag grad f) d tag grad = (claimOf s d tag grad).map f := by
  unfold claimOf modClaim
  rw [(cfOf_modCf s d d _).trans (if_pos rfl)]
  exact find?_map_if _ f (fun c hc => by rw [(hf c).1, (hf c).2]; exact hc) _

theorem claimOf_eq {s : State} {d tag : Nat} {grad : Bool} {c : Claim} (h : claimOf s d tag grad = some c) :
    c ∈ (cfOf s d).claims ∧ c.tag = tag ∧ c.grad = grad := by
  have hp := List.find?_some h
  simp only [Bool.and_eq_true, beq_iff_eq] at hp
  exact ⟨List.mem_of_find?_eq_some h, hp⟩

theorem tagOf_mem {s : State} {d tag : Nat} {g : TagRec} (h : tagOf s d tag = some g) : g ∈ (wsOf s d).tags :=
  List.mem_of_find?_eq_some h

/-! ## The tag of a contribution -/

/-- The state in which a contribution meets the claim table: its slot is no longer outstanding (07 R194). -/
def contributed (d : Nat) (m : RowMsg) (s : State) : State :=
  modTag (receive s (.row m (myPos s) d)) d m.tag.toNat (fun t => { t with
    outstanding := t.outstanding.erase (m.token.toNat, m.rank.toNat, false) })

/-- What a contribution comes to, by what it met at the claim table (07 R194, R195). -/
def contributionMet (d : Nat) (m : RowMsg) (s : State) : (Claim × RouteRec) ⊕ Bool → State
  | .inl (c, q) => afterContribution d m.tag.toNat false (applyContribution d m {} c q s)
  | .inr dup => staleContribution d m dup s

theorem exec_contribution {die : CDie} {m : RowMsg} {s : State} (hk : m.kind = .fwdContrib) :
    exec (.contributionArrival die m {}) s = .next (settle (pumpDie die.val (tryCancelEnd die.val m.tag.toNat
      (contributionMet die.val m (contributed die.val m s) (meets (contributed die.val m s) die.val m false))))) := by
  show execContributionArrival die m {} s = _
  unfold execContributionArrival
  dsimp only
  rw [hk, if_neg (by decide)]
  rfl

theorem meets_contributed (d : Nat) (m : RowMsg) (s : State) : meets (contributed d m s) d m false = meets s d m false := by
  have hp : ∀ a n, poisonIn (contributed d m s) a n = poisonIn s a n := (SamePlaces.of_mem (s := s) (t := contributed d m s) rfl).poisonIn
  have hr : readBytes (contributed d m s) = readBytes s := readBytes_of_mem rfl rfl
  unfold meets
  simp only [hp, hr]
  rfl

/-- No RT_CANCEL of the die waits for its slots. -/
def NoCancel (s : State) (d : Nat) : Prop := ∀ g ∈ (wsOf s d).tags, g.cancelJob = none

theorem NoCancel.contributed {s : State} {d : Nat} (h : NoCancel s d) (m : RowMsg) : NoCancel (contributed d m s) d := by
  intro g hg
  unfold Proofs.contributed modTag at hg
  rw [(wsOf_modWs (receive s (.row m (myPos s) d)) d d _).trans (if_pos rfl)] at hg
  obtain ⟨r, hr, rfl⟩ := List.mem_map.1 hg
  have hrn : r.cancelJob = none := h r hr
  split <;> exact hrn

theorem tagOf_noCancel {s : State} {d tag : Nat} (h : NoCancel s d) : (tagOf s d tag).bind (·.cancelJob) = none := by
  cases ht : tagOf s d tag with
  | none => rfl
  | some g => exact h g (tagOf_mem ht)

theorem tryCancelEnd_noCancel {s : State} {d tag : Nat} (h : NoCancel s d) : tryCancelEnd d tag s = s := by
  unfold tryCancelEnd
  cases ht : tagOf s d tag with
  | none => rfl
  | some g =>
    dsimp only
    rw [h g (tagOf_mem ht)]
    rfl

/-! ## What is applied, and what is stale -/

/-- A claim with a contribution of weight `w` and values `vs` in its row (07 R195). -/
def withRow (w : FVal) (vs : List FVal) (m : RowMsg) (c : Claim) : Claim :=
  { c with rows := amMod (freshRow c.e) c.rows m.token.toNat (applyRow w vs m) }

theorem rowAt_withRow (w : FVal) (vs : List FVal) (m : RowMsg) (c : Claim) (k : Nat) :
    rowAt (withRow w vs m c) k = if k = m.token.toNat then applyRow w vs m (rowAt c m.token.toNat) else rowAt c k :=
  amGet_amMod (freshRow c.e) c.rows m.token.toNat k (applyRow w vs m)

/-- Changes of counters alone. -/
def withCounts (s : State) (k n : AMap Nat) : State := { s with hw := { s.hw with counters := k, counts := n } }

/-- A contribution that meets a claim of the forward direction changes its rows and counters alone. -/
theorem applyContribution_eq {d : Nat} {m : RowMsg} {c : Claim} {q : RouteRec} {s : State} {fc : FCode} (hg : c.grad = false)
    (hf : fmtOf c.fmt = some fc) :
    ∃ k, applyContribution d m {} c q s = modClaim (withCounts s k (count s (cfUnit d) 0x18 1).hw.counts) d
      c.tag false (withRow (fp32Val q.weight) (rowVals fc m.row [] c.e) m) := by
  obtain ⟨k, hk⟩ := event_eq (count s (cfUnit d) 0x18 1) (cfUnit d) 0x8001 c.ctx 1
  refine ⟨k, ?_⟩
  unfold applyContribution
  dsimp only
  rw [hk, hg, hf]
  rfl

/-- A contribution that no command waits for is counted alone. -/
theorem staleContribution_eq {d : Nat} {m : RowMsg} {dup : Bool} {s : State} (hc : ∀ c ∈ (cfOf s d).claims, c.job = none) (hn : NoCancel s d) :
    ∃ k n, staleContribution d m dup s = modCf (withCounts s k n) d
        (fun f => { f with ctxStale := amMod 0 f.ctxStale m.ctx.toNat (· + 1) }) ∧
      amGet 0 n (256 * cfUnit d + 0x30) = countOf s (cfUnit d) 0x30 + 1 := by
  obtain ⟨k, hk⟩ := event_eq (count s (cfUnit d) 0x30 1) (cfUnit d) 0x8002 m.ctx.toNat 1
  obtain ⟨n, hcount, hn30⟩ : ∃ n, (if dup then count (event (count s (cfUnit d) 0x30 1) (cfUnit d) 0x8002 m.ctx.toNat 1) (cfUnit d) 0x38 1
      else event (count s (cfUnit d) 0x30 1) (cfUnit d) 0x8002 m.ctx.toNat 1) = withCounts s k n ∧
      amGet 0 n (256 * cfUnit d + 0x30) = countOf s (cfUnit d) 0x30 + 1 := by
    rw [hk]
    have h30 : countOf (count s (cfUnit d) 0x30 1) (cfUnit d) 0x30 = countOf s (cfUnit d) 0x30 + 1 := (countOf_count s (cfUnit d) 0x30 1 (cfUnit d) 0x30).trans (if_pos rfl)
    cases dup with
    | false => exact ⟨_, rfl, h30⟩
    | true => exact ⟨_, rfl, ((countOf_count (count s (cfUnit d) 0x30 1) (cfUnit d) 0x38 1 (cfUnit d) 0x30).trans (if_neg (by omega))).trans h30⟩
  refine ⟨k, n, ?_, hn30⟩
  have hcf : (cfOf (modCf (withCounts s k n) d
      (fun f => { f with ctxStale := amMod 0 f.ctxStale m.ctx.toNat (· + 1) })) d).claims = (cfOf s d).claims := by
    rw [(cfOf_modCf (withCounts s k n) d d _).trans (if_pos rfl)]
    rfl
  have hbound : (((cfOf s d).claims.filter (fun x => x.tag == m.tag.toNat)).findSome? (·.job)) = none :=
    List.findSome?_eq_none_iff.2 fun c hmem => hc c (List.mem_of_mem_filter hmem)
  unfold staleContribution
  dsimp only
  rw [hcount, hcf, hbound, Option.none_or, tagOf_noCancel (s := modCf (withCounts s k n) d _) hn]

theorem claimOf_of_meets {s : State} {d : Nat} {m : RowMsg} {grad : Bool} {c : Claim} {q : RouteRec} (h : meets s d m grad = .inl (c, q)) :
    claimOf s d m.tag.toNat grad = some c := by
  unfold meets at h
  cases hc : claimOf s d m.tag.toNat grad with
  | none => simp [hc] at h
  | some x =>
    rw [hc] at h
    dsimp only at h
    split_ifs at h
    cases h
    rfl

/-- Settles O34. -/
theorem contributionsAccumulate : Obligations.ContributionsAccumulate := by
  intro die m s d tag rest hcalm hk hn
  have hx := exec_contribution (die := die) (s := s) hk
  rw [meets_contributed] at hx
  have hnc : NoCancel (contributed d m s) d := NoCancel.contributed hn m
  refine ⟨fun c q fc hm hj hf => ?_, fun dup hm hc => ?_⟩
  · have hclaim := claimOf_of_meets hm
    obtain ⟨-, htag, hgrad⟩ := claimOf_eq hclaim
    obtain ⟨k, happ⟩ := applyContribution_eq (d := d) (m := m) (q := q) (s := contributed d m s) hgrad hf
    obtain ⟨x, hxd⟩ : ∃ x, x = withRow (fp32Val q.weight) (rowVals fc m.row [] c.e) m c := ⟨_, rfl⟩
    obtain ⟨t, ht⟩ : ∃ t, applyContribution d m {} c q (contributed d m s) = t := ⟨_, rfl⟩
    rw [happ, htag] at ht
    have hxt : claimOf t d tag false = some x := by
      rw [← ht, claimOf_modClaim (f := withRow _ _ m) (fun c => ⟨rfl, rfl⟩), hxd]
      exact congrArg (Option.map _) hclaim
    have hafter : afterContribution d tag false t = t := by
      unfold afterContribution
      rw [hxt]
      show (match x.job.bind (jobOf t) with | some j => _ | none => t) = t
      rw [hxd, show (withRow (fp32Val q.weight) (rowVals fc m.row [] c.e) m c).job = none from hj]
      rfl
    have hpump : pumpDie d (tryCancelEnd d tag t) = t := by
      rw [tryCancelEnd_noCancel (by rw [← ht]; exact hnc)]
      exact pumpDie_idle d t (by rw [← ht]; exact hcalm.1)
    have hmem : t.mem = s.mem := by rw [← ht]; rfl
    have hws : t.ws = (rest s).ws := by rw [← ht]; rfl
    refine ⟨passed t, x, ?_, hxt, ?_, fun k hk => ?_, by rw [hxd]; rfl, by rw [hxd]; exact hj, hmem, hws⟩
    · rw [hx, hm]
      rw [contributionMet, happ, htag, ht, hafter, hpump, settle_idle t (by rw [← ht]; exact hcalm.1)]
    · rw [hxd, rowAt_withRow, if_pos rfl]
    · rw [hxd, rowAt_withRow, if_neg hk]
  · obtain ⟨k, n, hstale, hn30⟩ := staleContribution_eq (d := d) (m := m) (dup := dup) (s := contributed d m s) hc hnc
    obtain ⟨t, ht⟩ : ∃ t, staleContribution d m dup (contributed d m s) = t := ⟨_, rfl⟩
    have hidle : Idle t := by rw [← ht, hstale]; exact hcalm.1
    have hpump : pumpDie d (tryCancelEnd d tag t) = t := by
      rw [tryCancelEnd_noCancel (by rw [← ht, hstale]; exact hnc)]
      exact pumpDie_idle d t hidle
    refine ⟨passed t, ?_, ?_, ?_, by rw [← ht, hstale]; rfl⟩
    · rw [hx, hm]
      rw [contributionMet, ht, hpump, settle_idle t hidle]
    · show (cfOf t d).claims = _
      rw [← ht, hstale, (cfOf_modCf _ d d _).trans (if_pos rfl)]
      rfl
    · show countOf t (cfUnit d) 0x30 = _
      rw [← ht, hstale]
      exact hn30

end Sys2Proof.Proofs
end

section
/-! PROOFS. Groups where nothing is in flight: heartbeats, terms, the master role, and the loss of a peer (12 R327-R331). -/

namespace Sys2Proof.Proofs

open Sys2Proof Sys2Proof.Machine Sys2Proof.Laws

/-! ## Work that leaves the group -/

/-- The commands in flight, the group, the items and the clock stay. -/
def Aside (s t : State) : Prop := t.gz.jobs = s.gz.jobs ∧ t.grp = s.grp ∧ t.hw.items = s.hw.items ∧ t.now = s.now

theorem Aside.refl (s : State) : Aside s s := ⟨rfl, rfl, rfl, rfl⟩

theorem Aside.trans {s t u : State} (h : Aside s t) (k : Aside t u) : Aside s u :=
  ⟨k.1.trans h.1, k.2.1.trans h.2.1, k.2.2.1.trans h.2.2.1, k.2.2.2.trans h.2.2.2⟩

theorem Aside.idle {s t : State} (h : Aside s t) (hi : Idle s) : Idle t := h.1.trans hi

theorem Aside.foldl {α : Type} (f : State → α → State) (h : ∀ s x, Idle s → Aside s (f s x)) (l : List α) (s : State) (hi : Idle s) :
    Aside s (l.foldl f s) := by
  induction l generalizing s with
  | nil => exact .refl s
  | cons x l ih => exact (h s x hi).trans (ih _ ((h s x hi).idle hi))

theorem Aside.myPos {s t : State} (h : Aside s t) : myPos t = myPos s := by
  unfold Machine.myPos item
  rw [h.2.2.1]

theorem Traffic.aside {s t : State} (h : Traffic s t) : Aside s t := by
  obtain ⟨hgz, -, hitems, -, -, -, -, -, -, -, hnow, hgrp, -⟩ := h.frame
  exact ⟨congrArg GelozSt.jobs hgz, hgrp, hitems, hnow⟩

theorem ledger_aside (die o re ob fi c old new aux : Nat) (s : State) : Aside s (ledger die o re ob fi c old new aux s) := by
  simp [Aside]

theorem modWs_aside (s : State) (d : Nat) (f : Watershed → Watershed) : Aside s (modWs s d f) := .refl _

/-! ## The directory where nothing is in flight -/

theorem dropStaged_idle (s : State) (hi : Idle s) : dropStaged s = { s with dir := { s.dir with staged := none } } := by
  unfold dropStaged
  cases hs : s.dir.staged with
  | some st => exact pumpDies_idle _ (by exact hi)
  | none =>
    show s = { s with dir := { s.dir with staged := none } }
    rw [← hs]

theorem nextUpdate_idle (n : Nat) (s : State) (hi : Idle s) : nextUpdate n s = s := by
  cases n with
  | zero => rfl
  | succ n =>
    unfold nextUpdate
    rw [hi, List.find?_nil]
    split <;> rfl

/-- The end of an update whose command has ended already. -/
theorem closeUpdate_idle (e : End) (s : State) (hi : Idle s) :
    ∃ j a, closeUpdate e s = { s with dir := { s.dir with job := j, acks := a } } := by
  unfold closeUpdate
  cases s.dir.job with
  | none => exact ⟨s.dir.job, s.dir.acks, rfl⟩
  | some id => exact ⟨none, [], (nextUpdate_idle _ _ (by rw [endJob_idle _ _ _ (by exact hi)]; exact hi)).trans (endJob_idle _ _ _ (by exact hi))⟩

theorem applyEntry_aside (epoch : Nat) (e : DirEntry) (s : State) (hi : Idle s) : Aside s (applyEntry epoch e s) := by
  unfold applyEntry
  dsimp only
  refine Aside.trans (.refl _) (.foldl _ (fun s p _ => ?_) _ _ (by exact hi))
  split
  · exact .refl s
  · exact ledger_aside ..

theorem commitStaged_aside (epoch : Nat) (s : State) (hi : Idle s) : Aside s (commitStaged epoch s) := by
  unfold commitStaged
  split
  · exact .refl s
  · next st _ =>
    have happly : Aside s (st.entries.foldl (fun s e => applyEntry epoch e s) { s with dir := { s.dir with staged := none } }) :=
      Aside.trans (.refl _) (.foldl _ (fun s e hs => applyEntry_aside epoch e s hs) _ _ (by exact hi))
    dsimp only
    rw [pumpDies_idle _ (by exact happly.idle hi)]
    exact happly

theorem tryCommit_aside (s : State) (hi : Idle s) : Aside s (tryCommit s) := by
  unfold tryCommit
  split
  · next st _ _ =>
    split
    · have hsent := (sendGroups_traffic 8 (livePeers s) st.epoch 0 0 [] s hi).aside
      have hdone := hsent.trans (commitStaged_aside st.epoch _ (hsent.idle hi))
      obtain ⟨j, a, hclose⟩ := closeUpdate_idle (done 0) _ (hdone.idle hi)
      rw [hclose]
      exact hdone
    · exact .refl s
  · exact .refl s

/-! ## Messages leave the directory -/

theorem emitData_dir (u : Nat) (f : TxFrame) (s : State) : (emitData u f s).dir = s.dir := by
  unfold emitData
  dsimp only
  split <;> rfl

theorem event_dir (s : State) (u code ctx k : Nat) : (event s u code ctx k).dir = s.dir := by
  obtain ⟨c, hc⟩ := event_eq s u code ctx k
  rw [hc]

theorem pumpPort_dir (u n : Nat) (s : State) : (pumpPort u n s).dir = s.dir := by
  induction n generalizing s with
  | zero => rfl
  | succ n ih =>
    unfold pumpPort
    dsimp only
    split
    · rfl
    · split
      · rfl
      · split
        · rfl
        · rw [ih, event_dir]
          exact emitData_dir ..

theorem arrivalUpTo_dir (u code ctx n : Nat) (s : State) : (arrivalUpTo u code ctx n s).dir = s.dir := by
  induction n generalizing s with
  | zero => rfl
  | succ n ih =>
    rw [arrivalUpTo, ih]
    split <;> rfl

theorem enqueue_dir (u vc route : Nat) (bs : List Byte) (m : NetMsg) (s : State) : (enqueue u vc route bs m s).dir = s.dir :=
  (pumpPort_dir ..).trans (arrivalUpTo_dir ..)

theorem countRow_dir (u src : Nat) (m : NetMsg) (s : State) : (countRow u src m s).dir = s.dir := by
  unfold countRow
  split <;> rfl

theorem send_dir (s : State) (m : NetMsg) : (send s m).dir = s.dir := by
  unfold send
  dsimp only
  split
  · rfl
  · split
    · rfl
    · split
      · rfl
      · split
        · exact (enqueue_dir ..).trans (countRow_dir ..)
        · rfl

theorem sendGroups_dir (kind : Nat) (ps : List Nat) (a0 a1 a2 : Nat) (es : List DirEntry) (s : State) :
    (sendGroups kind ps a0 a1 a2 es s).dir = s.dir := by
  unfold sendGroups
  induction ps generalizing s with
  | nil => rfl
  | cons p ps ih => exact (ih _).trans (send_dir ..)

/-! ## The master -/

/-- The group with another master: one that gives the role up lets its barriers go (12 R329). -/
theorem setMaster_idle (m : Option Nat) (s : State) (hi : Idle s) :
    ∃ b w, Aside { s with grp := { s.grp with master := m, barriers := b, waiting := w } } (setMaster m s) ∧
      (b = s.grp.barriers ∧ w = s.grp.waiting ∨ b = [] ∧ w = []) := by
  unfold setMaster
  split
  · next hm =>
    refine ⟨s.grp.barriers, s.grp.waiting, ?_, .inl ⟨rfl, rfl⟩⟩
    rw [← hm]
    exact .refl s
  · dsimp only
    have hledger := ledger_aside 12 (0x2000 + m.getD 0xFFF) 0xA ((m.orElse (fun _ => s.grp.master)).getD 0xFFF) 0 0 (s.grp.master.getD 0xFFF)
      (m.getD 0xFFF) s.grp.term { s with grp := { s.grp with master := m } }
    obtain ⟨t, ht⟩ : ∃ t, ledger 12 (0x2000 + m.getD 0xFFF) 0xA ((m.orElse (fun _ => s.grp.master)).getD 0xFFF) 0 0 (s.grp.master.getD 0xFFF)
      (m.getD 0xFFF) s.grp.term { s with grp := { s.grp with master := m } } = t := ⟨_, rfl⟩
    rw [ht] at hledger ⊢
    have hit : Idle t := hledger.idle hi
    split
    · exact ⟨_, _, hledger, .inl ⟨rfl, rfl⟩⟩
    · refine ⟨[], [], ?_, .inr ⟨rfl, rfl⟩⟩
      rw [dropStaged_idle _ (by exact hit)]
      obtain ⟨j, a, hclose⟩ := closeUpdate_idle (fails NO_PERMISSION (masterField { t with grp := { t.grp with barriers := [], waiting := [] } }))
        { t with grp := { t.grp with barriers := [], waiting := [] }, dir := { t.dir with staged := none } } hit
      rw [hclose]
      obtain ⟨hjobs, hgrp, hitems, hnow⟩ := hledger
      refine ⟨?_, ?_, hitems, hnow⟩
      · show List.map _ t.gz.jobs = s.gz.jobs
        rw [hit, show s.gz.jobs = [] from hi, List.map_nil]
      · show { t.grp with barriers := [], waiting := [] } = _
        rw [hgrp]

theorem resendArrivals_idle (s : State) (hi : Idle s) : resendArrivals s = s := by
  unfold resendArrivals
  rw [hi]
  rfl

/-- What every message heard leaves: the epoch numbers it names, and the highest term (12 R327, R330). -/
def heard (m : GroupMsg) (s : State) : State :=
  { s with grp := { s.grp with
      remapSeen := max s.grp.remapSeen m.remapEpoch.toNat
      peers := amMod {} s.grp.peers m.srcPos.toNat (fun p => { p with dirEpoch := m.dirEpoch.toNat })
      term := max s.grp.term m.term.toNat } }

theorem hear_eq (m : GroupMsg) (s : State) :
    hear m s = if s.grp.term < m.term.toNat ∧ isMaster s = true then setMaster none (heard m s) else heard m s := by
  by_cases hlt : s.grp.term < m.term.toNat
  · have hmax : max s.grp.term m.term.toNat = m.term.toNat := Nat.max_eq_right (Nat.le_of_lt hlt)
    have hheard : heard m s = { s with grp := { s.grp with
        remapSeen := max s.grp.remapSeen m.remapEpoch.toNat
        peers := amMod {} s.grp.peers m.srcPos.toNat (fun p => { p with dirEpoch := m.dirEpoch.toNat })
        term := m.term.toNat } } := by rw [heard, hmax]
    refine (if_pos hlt).trans ?_
    rw [hheard]
    by_cases hm : isMaster s = true
    · exact (if_pos hm).trans (if_pos ⟨hlt, hm⟩).symm
    · exact (if_neg hm).trans (if_neg fun h => hm h.2).symm
  · have hmax : max s.grp.term m.term.toNat = s.grp.term := Nat.max_eq_left (Nat.le_of_not_lt hlt)
    refine (if_neg hlt).trans ?_
    rw [if_neg (fun h => hlt h.1), heard, hmax]
    rfl

theorem isMaster_iff (s : State) : isMaster s = true ↔ s.grp.master = some (myPos s) := decide_eq_true_iff

/-- What a message heard leaves where nothing is in flight: a master of a lower term steps down (12 R329). -/
theorem hear_idle (m : GroupMsg) (s : State) (hi : Idle s) :
    ∃ b w, Aside { s with grp := { (heard m s).grp with
      master := if s.grp.term < m.term.toNat ∧ s.grp.master = some (myPos s) then none else s.grp.master, barriers := b, waiting := w } }
      (hear m s) := by
  rw [hear_eq]
  simp only [isMaster_iff]
  split
  · obtain ⟨b, w, h, -⟩ := setMaster_idle none (heard m s) hi
    exact ⟨b, w, h⟩
  · exact ⟨_, _, .refl _⟩

/-- A device that is not the master hears a message. -/
theorem hear_member (m : GroupMsg) (s : State) (h : s.grp.master ≠ some (myPos s)) : hear m s = heard m s := by
  rw [hear_eq, if_neg]
  exact fun hm => h ((isMaster_iff s).1 hm.2)

/-- A device that claims the role has it at the next term, with nothing staged (12 R329, R330). -/
theorem claimRole_idle (s : State) (hi : Idle s) :
    Idle (claimRole s) ∧ (claimRole s).grp.term = (s.grp.term + 1) % 2 ^ 32 ∧ (claimRole s).grp.master = some (myPos s) ∧
      (claimRole s).dir.staged = none := by
  unfold claimRole
  extract_lets g s1 s2 dir s3 s4
  obtain ⟨b, w, hset, -⟩ := setMaster_idle (some (myPos s1)) s1 hi
  have hs2 : s2 = { setMaster (some (myPos s1)) s1 with dir := { (setMaster (some (myPos s1)) s1).dir with staged := none } } :=
    dropStaged_idle _ (hset.idle hi)
  have hset2 : Aside { s1 with grp := { s1.grp with master := some (myPos s1), barriers := b, waiting := w } } s2 := by
    rw [hs2]
    exact hset
  have hset3 : Aside { s1 with grp := { s1.grp with master := some (myPos s1), barriers := b, waiting := w } } s3 := hset2
  have hstaged : s3.dir.staged = none := by
    show s2.dir.staged = none
    rw [hs2]
  have hset4 := hset3.trans (sendGroups_traffic 2 ((otherPos s3).filter (fun p => reachable s3 (deviceOf s3 p))) (liveMask s3) 0 0 [] s3
    (hset3.idle hi)).aside
  have hstaged4 : s4.dir.staged = none := (congrArg DirSt.staged (sendGroups_dir ..)).trans hstaged
  have hcatch : ∀ p (x : State), Aside x (catchUp p x) ∧ (catchUp p x).dir = x.dir := by
    intro p x
    unfold catchUp
    split
    · exact ⟨((send_traffic ..).trans (send_traffic ..)).aside, (send_dir ..).trans (send_dir ..)⟩
    · exact ⟨.refl x, rfl⟩
  have hfold : ∀ (ps : List Nat) (x : State), Aside x (ps.foldl (fun s p => catchUp p s) x) ∧
      (ps.foldl (fun s p => catchUp p s) x).dir = x.dir := by
    intro ps
    induction ps with
    | nil => exact fun x => ⟨.refl x, rfl⟩
    | cons p ps ih => exact fun x => ⟨(hcatch p x).1.trans (ih _).1, (ih _).2.trans (hcatch p x).2⟩
  have hset5 := hset4.trans (hfold (livePeers s4) s4).1
  rw [resendArrivals_idle _ (hset5.idle hi)]
  exact ⟨hset5.idle hi, congrArg GroupSt.term hset5.2.1, congrArg GroupSt.master hset5.2.1,
    (congrArg DirSt.staged (hfold (livePeers s4) s4).2).trans hstaged4⟩

/-! ## The loss of a peer (12 R328) -/

theorem jobOf_idle {s : State} (hi : Idle s) (id : Nat) : jobOf s id = none := by
  unfold jobOf
  rw [hi]
  rfl

theorem bind_jobOf_idle {s : State} (hi : Idle s) (o : Option Nat) : o.bind (jobOf s) = none := by
  cases o with
  | none => rfl
  | some id => exact jobOf_idle hi id

theorem loseCounts_aside (pos : Nat) (e : End) (s : State) (hi : Idle s) : Aside s (loseCounts pos e s) := by
  refine .foldl _ (fun s d hs => .foldl _ (fun s r hs => ?_) _ s hs) _ s hi
  split
  · split
    · rw [endJob_idle _ _ _ (by exact hs)]
      exact modWs_aside ..
    · exact .refl s
  · exact .refl s

theorem loseClaims_idle (pos : Nat) (e : End) (s : State) (hi : Idle s) : loseClaims pos e s = s := by
  refine foldl_fixed _ s (fun d => ?_) _
  refine foldl_fixed _ s (fun c => ?_) _
  split
  · split
    · rfl
    · unfold loseClaim
      rw [bind_jobOf_idle hi]
  · rfl

theorem loseRows_aside (pos : Nat) (e : End) (s : State) (hi : Idle s) : Aside s (loseRows pos e s) := by
  refine .foldl _ (fun s d hs => .foldl _ (fun s r hs => ?_) _ s hs) _ s hi
  dsimp only
  rw [bind_jobOf_idle hs]
  dsimp only
  split
  · split
    · exact .refl s
    · rw [endJob_idle _ _ _ (by exact hs)]
      exact modWs_aside ..
  · exact .refl s

theorem closeChain_aside (die job : Nat) (e : End) (s : State) (hi : Idle s) : Aside s (closeChain die job e s) := by
  unfold closeChain
  rw [endJob_idle _ _ _ (by exact hi)]
  exact .refl s

theorem loseChains_aside (dev : Nat) (e : End) (s : State) (hi : Idle s) : Aside s (loseChains dev e s) := by
  refine .foldl _ (fun s d hs => ?_) _ s hi
  dsimp only
  have hclosed := Aside.foldl (fun s c => if !c.ended && (((c.members[c.cmd.position.toNat + 1]?).any (fun m => m.1 == dev)) ||
      (c.cmd.position.toNat != 0 && ((c.members[c.cmd.position.toNat - 1]?).any (fun m => m.1 == dev)))) then closeChain d c.job e s else s)
    (fun s c hs => by
      split
      · exact closeChain_aside _ _ _ _ hs
      · exact .refl s) (chainsOf s d) s hs
  rw [hclosed.idle hs]
  exact hclosed

/-- A group whose barriers and arrivals have members of one kind, with the peers and the master of before. -/
def Gathered (P : Nat → Prop) (s t : State) : Prop :=
  Idle t ∧ t.grp.peers = s.grp.peers ∧ t.grp.master = s.grp.master ∧ (∀ b ∈ t.grp.barriers, P b.members) ∧
    ∀ w ∈ t.grp.waiting, P w.2.2

theorem freeBarrier_idle (id members : Nat) (s : State) (hi : Idle s) : freeBarrier id members s = s := by
  unfold freeBarrier barrierJobs
  rw [hi]
  rfl

theorem tellRelease_aside (id members inst : Nat) (ps : List Nat) (s : State) (hi : Idle s) : Aside s (tellRelease id members inst ps s) := by
  refine .foldl _ (fun s p hs => ?_) ps s hi
  split
  · rw [freeBarrier_idle _ _ _ hs]
    exact .refl s
  · exact (send_traffic ..).aside

theorem Gathered.aside {P : Nat → Prop} {s t u : State} (h : Gathered P s t) (k : Aside t u) : Gathered P s u := by
  obtain ⟨hi, hp, hm, hb, hw⟩ := h
  refine ⟨k.idle hi, ?_⟩
  rw [k.2.1]
  exact ⟨hp, hm, hb, hw⟩

theorem arriveAt_gathered {P : Nat → Prop} {s t : State} (pos id members : Nat) (hm : P members) (h : Gathered P s t) :
    Gathered P s (arriveAt pos id members t) := by
  obtain ⟨hi, hp, hma, hb, hw⟩ := h
  have hdropped : ∀ i, Gathered P s { dropBarrier id t with grp := { (dropBarrier id t).grp with instances := i } } := fun i =>
    ⟨hi, hp, hma, fun b hmem => hb b (List.mem_of_mem_filter hmem), hw⟩
  unfold arriveAt
  split
  · next b hfind =>
    split
    · exact (hdropped t.grp.instances).aside (tellRelease_aside _ _ _ _ _ hi)
    · extract_lets b' n t1
      split
      · exact (hdropped _).aside (tellRelease_aside _ _ _ _ _ hi)
      · refine ⟨hi, hp, hma, fun x hx => ?_, hw⟩
        obtain ⟨y, hy, rfl⟩ := List.mem_map.1 hx
        split
        · exact hb b (List.mem_of_find?_eq_some hfind)
        · exact hb y hy
  · split
    · refine ⟨hi, hp, hma, hb, fun w hx => ?_⟩
      rcases List.mem_append.1 hx with hx | hx
      · exact hw w (List.mem_of_mem_filter hx)
      · rw [List.mem_singleton.1 hx]
        exact hm
    · split
      · exact Gathered.aside (t := { t with grp := { t.grp with instances := amPut t.grp.instances id (amGet 0 t.grp.instances id + 1) } })
          ⟨hi, hp, hma, hb, hw⟩ (tellRelease_aside _ _ _ _ _ hi)
      · refine ⟨hi, hp, hma, fun x hx => ?_, hw⟩
        rcases List.mem_append.1 hx with hx | hx
        · exact hb x hx
        · rw [List.mem_singleton.1 hx]
          exact hm

theorem admitWaiting_gathered {P : Nat → Prop} {s : State} (n : Nat) (t : State) (h : Gathered P s t) : Gathered P s (admitWaiting n t) := by
  induction n generalizing t with
  | zero => exact h
  | succ n ih =>
    unfold admitWaiting
    split
    · exact h
    · next w ws hws =>
      split
      · exact h
      · obtain ⟨hi, hp, hm, hb, hw⟩ := h
        rw [hws] at hw
        exact ih _ (arriveAt_gathered _ _ _ (hw w List.mem_cons_self) ⟨hi, hp, hm, hb, fun x hx => hw x (List.mem_cons_of_mem _ hx)⟩)

theorem loseBarriers_gathered (pos : Nat) (e : End) (s : State) (hi : Idle s) :
    Gathered (fun m => bit m pos = false) s (loseBarriers pos e s) := by
  unfold loseBarriers
  extract_lets g s1 s2
  have hs2 : s2 = s1 := by
    show s1.gz.jobs.foldl _ s1 = s1
    rw [show s1.gz.jobs = [] from hi]
    rfl
  rw [hs2]
  refine admitWaiting_gathered _ s1 ⟨hi, rfl, rfl, fun b hb => ?_, fun w hw => ?_⟩
  · simpa using (List.mem_filter.1 hb).2
  · simpa using (List.mem_filter.1 hw).2

/-! ## Heartbeats and claims -/

/-- A device that follows a position where a condition holds (12 R328, R329). -/
theorem follow_idle (c : Bool) (p : Nat) (s : State) (hi : Idle s) :
    ∃ b w, Aside { s with grp := { s.grp with master := if c then some p else s.grp.master, barriers := b, waiting := w } }
      (if c then resendArrivals (setMaster (some p) s) else s) := by
  cases c with
  | false => exact ⟨_, _, .refl s⟩
  | true =>
    obtain ⟨b, w, h, -⟩ := setMaster_idle (some p) s hi
    refine ⟨b, w, ?_⟩
    rw [if_pos rfl, resendArrivals_idle _ (h.idle hi)]
    exact h

/-- What a heartbeat says of its sender, noted (12 R327, R328). -/
def beat (m : GroupMsg) (s : State) : State :=
  { s with grp := { s.grp with
      peers := amMod {} s.grp.peers m.srcPos.toNat (fun p => { p with
        live := true, lost := false, eligible := bit m.arg0.toNat 0, liveSince := if p.live then p.liveSince else s.now
        masterSeen := bits m.arg0.toNat 4 4 })
      checkpoint := max s.grp.checkpoint m.arg2.toNat } }

theorem exec_heartbeat {m : GroupMsg} {s : State} (hof : ofGroup s m = true) (hr : reachable s (deviceOf s m.srcPos.toNat) = true) :
    exec (.heartbeat m) s = .next (settle (
      if (beat m (hear m s)).grp.master.isNone && bits m.arg0.toNat 4 4 = m.srcPos.toNat && m.term.toNat = (beat m (hear m s)).grp.term then
        resendArrivals (setMaster (some m.srcPos.toNat) (beat m (hear m s))) else beat m (hear m s))) := by
  show execHeartbeat m s = _
  unfold execHeartbeat
  dsimp only
  rw [hof, hr, if_neg (by decide)]
  rfl

/-- A heartbeat of a peer that is reached (12 R327, R328). -/
theorem heartbeat_heard (m : GroupMsg) (s : State) (hi : Idle s) (hof : ofGroup s m = true)
    (hr : reachable s (deviceOf s m.srcPos.toNat) = true) :
    let pos := m.srcPos.toNat
    let a := m.arg0.toNat
    let kept := if s.grp.term < m.term.toNat ∧ s.grp.master = some (myPos s) then none else s.grp.master
    ∃ t, exec (.heartbeat m) s = .next t ∧ t.grp.term = max s.grp.term m.term.toNat ∧
      t.grp.master = (if kept = none ∧ bits a 4 4 = pos ∧ m.term.toNat = max s.grp.term m.term.toNat then some pos else kept) ∧
      peerOf t pos = { live := true, lost := false, eligible := bit a 0, dirEpoch := m.dirEpoch.toNat, masterSeen := bits a 4 4,
                       liveSince := if (peerOf s pos).live then (peerOf s pos).liveSince else s.now } ∧
      (∀ q, q ≠ pos → peerOf t q = peerOf s q) ∧ t.grp.checkpoint = max s.grp.checkpoint m.arg2.toNat ∧
      t.grp.remapSeen = max s.grp.remapSeen m.remapEpoch.toNat := by
  intro pos a kept
  obtain ⟨b, w, hheard⟩ := hear_idle m s hi
  have hx := exec_heartbeat hof hr
  obtain ⟨u, hu⟩ : ∃ u, hear m s = u := ⟨_, rfl⟩
  rw [hu] at hheard hx
  have hidle : Idle (beat m u) := hheard.idle hi
  obtain ⟨-, hgrp, -, hnow⟩ := hheard
  have hmaster : (beat m u).grp.master = kept := congrArg GroupSt.master hgrp
  have hterm : (beat m u).grp.term = max s.grp.term m.term.toNat := congrArg GroupSt.term hgrp
  have hpeers : (beat m u).grp.peers = amMod {} (amMod {} s.grp.peers pos (fun p => { p with dirEpoch := m.dirEpoch.toNat })) pos (fun p =>
      { p with live := true, lost := false, eligible := bit a 0, liveSince := if p.live then p.liveSince else s.now, masterSeen := bits a 4 4 }) := by
    unfold beat
    dsimp only
    rw [hgrp, hnow]
    rfl
  obtain ⟨c, hc⟩ : ∃ c : Bool, ((beat m u).grp.master.isNone && bits a 4 4 = pos && m.term.toNat = (beat m u).grp.term) = c := ⟨_, rfl⟩
  obtain ⟨b', w', hfollow⟩ := follow_idle c pos (beat m u) hidle
  rw [hc, settle_idle _ (hfollow.idle hidle)] at hx
  obtain ⟨y, hy⟩ : ∃ y, (if c then resendArrivals (setMaster (some pos) (beat m u)) else beat m u) = y := ⟨_, rfl⟩
  rw [hy] at hfollow hx
  have hy := hfollow.2.1
  have hpeer : ∀ q, peerOf y q = amGet {} (beat m u).grp.peers q := fun q => by
    rw [peerOf, hy]
  refine ⟨passed y, hx, (congrArg GroupSt.term hy).trans hterm, (congrArg GroupSt.master hy).trans ?_, (hpeer pos).trans ?_,
    fun q hq => (hpeer q).trans ?_, (congrArg GroupSt.checkpoint hy).trans ?_,
    (congrArg GroupSt.remapSeen hy).trans (congrArg GroupSt.remapSeen hgrp)⟩
  · rw [← hc, hmaster, hterm]
    simp [and_assoc]
  · rw [hpeers, amGet_amMod, if_pos rfl, amGet_amMod, if_pos rfl]
    rfl
  · rw [hpeers, amGet_amMod, if_neg hq, amGet_amMod, if_neg hq]
    rfl
  · show max u.grp.checkpoint _ = _
    rw [hgrp]
    rfl

/-- Whether a claimant is followed (12 R329). -/
def follows (m : GroupMsg) (s : State) : Bool :=
  s.grp.term < m.term.toNat ||
    (s.grp.term = m.term.toNat && (match s.grp.master with | some p => decide (m.srcPos.toNat < p) | none => true))

theorem follows_iff (m : GroupMsg) (s : State) : follows m s = true ↔ s.grp.term < m.term.toNat ∨
    (s.grp.term = m.term.toNat ∧ (s.grp.master = none ∨ ∃ p, s.grp.master = some p ∧ m.srcPos.toNat < p)) := by
  unfold follows
  cases s.grp.master <;> simp

theorem exec_claim {m : GroupMsg} {s : State} (hof : ofGroup s m = true) :
    exec (.claim m) s = .next (settle (if follows m s then resendArrivals (setMaster (some m.srcPos.toNat) (hear m s)) else hear m s)) := by
  show execClaim m s = _
  unfold execClaim
  dsimp only
  rw [hof, if_neg (by decide)]
  rfl

/-- A claim of a higher term, or of an equal term from a lower position, is followed (12 R329, R330). -/
theorem claim_followed (m : GroupMsg) (s : State) (hi : Idle s) (hof : ofGroup s m = true) :
    ∃ t, exec (.claim m) s = .next t ∧ t.grp.term = max s.grp.term m.term.toNat ∧
      t.grp.master = (if s.grp.term < m.term.toNat ∨
          (s.grp.term = m.term.toNat ∧ (s.grp.master = none ∨ ∃ p, s.grp.master = some p ∧ m.srcPos.toNat < p)) then some m.srcPos.toNat
        else s.grp.master) := by
  obtain ⟨b, w, hheard⟩ := hear_idle m s hi
  obtain ⟨b', w', hfollow⟩ := follow_idle (follows m s) m.srcPos.toNat (hear m s) (hheard.idle hi)
  have hx := exec_claim hof
  rw [settle_idle _ (hfollow.idle (hheard.idle hi))] at hx
  refine ⟨_, hx, (congrArg GroupSt.term hfollow.2.1).trans (congrArg GroupSt.term hheard.2.1), (congrArg GroupSt.master hfollow.2.1).trans ?_⟩
  simp only [← follows_iff]
  have hmaster := congrArg GroupSt.master hheard.2.1
  dsimp only at hmaster ⊢
  rw [hmaster]
  by_cases hf : follows m s = true
  · rw [if_pos hf, if_pos hf]
  · have hterm : ¬ s.grp.term < m.term.toNat := fun h => hf ((follows_iff m s).2 (.inl h))
    rw [if_neg hf, if_neg hf, if_neg fun h => hterm h.1]

/-! ## A lost peer and the role -/

/-- What waits on a lost peer, where nothing is in flight. -/
theorem lose_gathered (p : Nat) (s : State) (hi : Idle s) :
    Gathered (fun m => bit m p = false) s (tryCommit (loseBarriers p (fails PEER_LOST p) (loseChains (deviceOf s p) (fails PEER_LOST p)
      (loseRows p (fails PEER_LOST p) (loseClaims p (fails PEER_LOST p) (loseCounts p (fails PEER_LOST p) s)))))) := by
  have hcounts := loseCounts_aside p (fails PEER_LOST p) s hi
  rw [loseClaims_idle _ _ _ (hcounts.idle hi)]
  have hrows := hcounts.trans (loseRows_aside p (fails PEER_LOST p) _ (hcounts.idle hi))
  have hchains := hrows.trans (loseChains_aside (deviceOf s p) (fails PEER_LOST p) _ (hrows.idle hi))
  have hlost := loseBarriers_gathered p (fails PEER_LOST p) _ (hchains.idle hi)
  have hdone := hlost.aside (tryCommit_aside _ hlost.1)
  obtain ⟨hidle, hp, hm, hb, hw⟩ := hdone
  exact ⟨hidle, hp.trans (congrArg GroupSt.peers hchains.2.1), hm.trans (congrArg GroupSt.master hchains.2.1), hb, hw⟩

/-- A peer that is lost. -/
def unheard (p : Nat) (s : State) : State := modPeer s p (fun x => { x with live := false, lost := true })

theorem peerOf_unheard (p r : Nat) (s : State) :
    peerOf (unheard p s) r = if r = p then { peerOf s p with live := false, lost := true } else peerOf s r := peerOf_modPeer s p r _

/-- A peer noted as lost, and with it the master that it was (12 R328). -/
def lostPeer (p : Nat) (s : State) : State :=
  let s := ledger 12 (hwOrigin 12) 0xA p 0 0 1 0 s.grp.term (unheard p s)
  if s.grp.master = some p then setMaster none s else s

theorem lostPeer_idle (p : Nat) (s : State) (hi : Idle s) :
    Idle (lostPeer p s) ∧ (lostPeer p s).grp.peers = (unheard p s).grp.peers ∧
      (lostPeer p s).grp.master = if s.grp.master = some p then none else s.grp.master := by
  have hledger := ledger_aside 12 (hwOrigin 12) 0xA p 0 0 1 0 s.grp.term (unheard p s)
  unfold lostPeer
  dsimp only
  obtain ⟨t, ht⟩ : ∃ x, ledger 12 (hwOrigin 12) 0xA p 0 0 1 0 s.grp.term (unheard p s) = x := ⟨_, rfl⟩
  rw [ht] at hledger ⊢
  obtain ⟨-, hgrp, -⟩ := id hledger
  have hmaster : t.grp.master = s.grp.master := by rw [hgrp]; rfl
  have hpeers : t.grp.peers = (unheard p s).grp.peers := by rw [hgrp]
  rw [hmaster]
  split
  · obtain ⟨b, w, h, -⟩ := setMaster_idle none t (hledger.idle hi)
    obtain ⟨hjobs, hgrp', -⟩ := id h
    exact ⟨h.idle (hledger.idle hi), (by rw [hgrp']; exact hpeers), by rw [hgrp']⟩
  · exact ⟨hledger.idle hi, hpeers, hmaster⟩

theorem exec_peerLoss {q : BitVec 4} {s : State} (hl : (peerOf s q.toNat).live = true) :
    exec (.peerLossTimer q) s = .next (settle (pumpDies (tryCommit (loseBarriers q.toNat (fails PEER_LOST q.toNat)
      (loseChains (deviceOf (lostPeer q.toNat s) q.toNat) (fails PEER_LOST q.toNat) (loseRows q.toNat (fails PEER_LOST q.toNat)
        (loseClaims q.toNat (fails PEER_LOST q.toNat) (loseCounts q.toNat (fails PEER_LOST q.toNat) (lostPeer q.toNat s))))))))) := by
  show execPeerLossTimer q s = _
  unfold execPeerLossTimer
  dsimp only
  rw [hl, if_neg (by decide)]
  rfl

/-- A peer unheard for 50 ms is lost (12 R328). -/
theorem peerLoss_lost (q : BitVec 4) (s : State) (hi : Idle s) (hl : (peerOf s q.toNat).live = true) :
    ∃ t, exec (.peerLossTimer q) s = .next t ∧
      (peerOf t q.toNat).live = false ∧ (peerOf t q.toNat).lost = true ∧ (∀ r, r ≠ q.toNat → peerOf t r = peerOf s r) ∧
      t.grp.master = (if s.grp.master = some q.toNat then none else s.grp.master) ∧
      (∀ b ∈ t.grp.barriers, bit b.members q.toNat = false) := by
  have hx := exec_peerLoss hl
  obtain ⟨p, hp⟩ : ∃ p, q.toNat = p := ⟨_, rfl⟩
  rw [hp] at hl hx ⊢
  obtain ⟨hi', hpeers', hmaster'⟩ := lostPeer_idle p s hi
  obtain ⟨hidle, hpeers, hmaster, hbars, -⟩ := lose_gathered p (lostPeer p s) hi'
  rw [pumpDies_idle _ hidle, settle_idle _ hidle] at hx
  obtain ⟨t, ht⟩ : ∃ t, tryCommit (loseBarriers p (fails PEER_LOST p) (loseChains (deviceOf (lostPeer p s) p) (fails PEER_LOST p)
    (loseRows p (fails PEER_LOST p) (loseClaims p (fails PEER_LOST p) (loseCounts p (fails PEER_LOST p) (lostPeer p s)))))) = t := ⟨_, rfl⟩
  rw [ht] at hx hpeers hmaster hbars
  have hpeer : ∀ r, peerOf (passed t) r = peerOf (unheard p s) r := fun r => by
    show amGet _ t.grp.peers r = _
    rw [hpeers, hpeers']
    rfl
  refine ⟨_, hx, ?_, ?_, fun r hr => ?_, hmaster.trans hmaster', hbars⟩
  · rw [hpeer, peerOf_unheard, if_pos rfl]
  · rw [hpeer, peerOf_unheard, if_pos rfl]
  · rw [hpeer, peerOf_unheard, if_neg hr]

/-- A claim of the role, made in a state of a known term. -/
theorem claimed_passed (s : State) (hi : Idle s) :
    settle (claimRole s) = passed (claimRole s) ∧ (passed (claimRole s)).grp.term = (s.grp.term + 1) % 2 ^ 32 ∧
      (passed (claimRole s)).grp.master = some (myPos s) ∧ (passed (claimRole s)).dir.staged = none := by
  obtain ⟨hidle, hterm, hmaster, hstaged⟩ := claimRole_idle s hi
  exact ⟨settle_idle _ hidle, hterm, hmaster, hstaged⟩

/-- A successor that the master names claims the role (12 R331). -/
theorem handover_claimed (m : GroupMsg) (q : BitVec 4) (s : State) (hof : ofGroup s m = true)
    (hm : s.grp.master = some m.srcPos.toNat) (ha : m.arg0.toNat = myPos s) (he : eligible s = true) :
    exec (.handover (some m) q) s = .next (settle (claimRole (heard m s))) := by
  have hother : s.grp.master ≠ some (myPos s) := by
    rw [hm]
    intro h
    rw [ofGroup, Option.some.inj h] at hof
    simp at hof
  show execHandover (some m) q s = _
  unfold execHandover
  dsimp only
  rw [hof, if_neg (by decide), hear_member m s hother, if_pos]
  simpa [heard, hm, ha] using And.intro (show m.arg0.toNat = myPos (heard m s) from ha) (show eligible (heard m s) = true from he)

/-- Settles O43. -/
theorem groupsElectAMaster : Obligations.GroupsElectAMaster := by
  intro m s pos me a term claimed hi
  have hclaims : ∀ i (x : State), Idle x → myPos x = me → exec i s = .next (settle (claimRole x)) →
      ∃ t, exec i s = .next t ∧ claimed t x.grp.term := by
    intro i x hix hpos hx
    obtain ⟨hsettle, hterm, hmaster, hstaged⟩ := claimed_passed x hix
    exact ⟨_, hx.trans (congrArg Host.Outcome.next hsettle), hterm, hmaster.trans (congrArg some hpos), hstaged⟩
  refine ⟨congrArg Host.Outcome.next (settle_idle _ ((sendGroups_traffic _ _ _ _ _ _ _ hi).idle hi)), heartbeat_heard m s hi,
    fun q => ⟨peerLoss_lost q s hi, fun hl => ?_⟩, fun hnone hdue hmay => hclaims _ s hi rfl ?_, fun hnot => ?_,
    fun hnot hmay => hclaims _ s hi rfl ?_, fun hnot => ?_, claim_followed m s hi, fun q => ?_, fun q hof hm ha he => ?_⟩
  · show execPeerLossTimer q s = _
    unfold execPeerLossTimer
    dsimp only
    rw [hl, if_pos (by decide), settle_idle _ hi]
  · refine congrArg (fun x => Host.Outcome.next (settle x)) (if_pos ?_)
    simpa [hnone, hmay] using hdue
  · refine congrArg Host.Outcome.next ((congrArg settle (if_neg ?_)).trans (settle_idle s hi))
    rcases hnot with h | h
    · simp [h]
    · simp [h]
  · refine congrArg (fun x => Host.Outcome.next (settle x)) (if_pos ?_)
    rw [hmay]
    simpa [isMaster] using hnot
  · refine congrArg Host.Outcome.next ((congrArg settle (if_neg ?_)).trans (settle_idle s hi))
    rcases hnot with h | h
    · rw [(isMaster_iff s).2 h]
      simp
    · simp [h]
  · refine congrArg Host.Outcome.next (settle_idle _ ?_)
    show Idle (if _ then _ else _)
    split
    · exact (send_traffic ..).idle hi
    · exact hi
  · exact hclaims _ (heard m s) hi rfl (handover_claimed m q s hof hm ha he)

end Sys2Proof.Proofs
end

section
/-! PROOFS. Barriers of a group (12 R332, R333). -/

namespace Sys2Proof.Proofs

open Sys2Proof Sys2Proof.Machine Sys2Proof.Laws

/-! ## Work that touches no command -/

/-- Commands, rings, memory, signal words, the clock and the items stay. -/
def Undisturbed (s t : State) : Prop :=
  t.gz.jobs = s.gz.jobs ∧ t.gz.rings = s.gz.rings ∧ t.mem = s.mem ∧ t.sig = s.sig ∧ t.now = s.now ∧ t.hw.items = s.hw.items

theorem Undisturbed.refl (s : State) : Undisturbed s s := ⟨rfl, rfl, rfl, rfl, rfl, rfl⟩

theorem Undisturbed.trans {s t u : State} (h : Undisturbed s t) (k : Undisturbed t u) : Undisturbed s u := by
  obtain ⟨hj, hr, hm, hs, hn, hi⟩ := h
  obtain ⟨kj, kr, km, ks, kn, ki⟩ := k
  exact ⟨kj.trans hj, kr.trans hr, km.trans hm, ks.trans hs, kn.trans hn, ki.trans hi⟩

theorem Undisturbed.foldl {α : Type} (f : State → α → State) (h : ∀ s x, Undisturbed s (f s x)) (l : List α) (s : State) :
    Undisturbed s (l.foldl f s) := by
  induction l generalizing s with
  | nil => exact .refl s
  | cons x l ih => exact (h s x).trans (ih _)

theorem Undisturbed.calm {s t : State} {js : List Job} (h : Undisturbed s t) (hc : Calm s js) : Calm t js := by
  obtain ⟨hj, -, hm, hs, -, -⟩ := h
  rw [Calm, hj, hm, hs]
  exact hc

theorem Undisturbed.myPos {s t : State} (h : Undisturbed s t) : myPos t = myPos s := by
  unfold Machine.myPos item
  rw [h.2.2.2.2.2]

theorem send_undisturbed (s : State) (m : NetMsg) : Undisturbed s (send s m) := by
  obtain ⟨_, _, _, _, _, _, ht, -, -⟩ := send_traffic s m
  rw [ht]
  exact .refl s

theorem sendGroups_undisturbed (kind : Nat) (ps : List Nat) (a0 a1 a2 : Nat) (es : List DirEntry) (s : State) :
    Undisturbed s (sendGroups kind ps a0 a1 a2 es s) := .foldl _ (fun s _ => send_undisturbed s _) ps s

theorem ledger_undisturbed (die o re ob fi c old new aux : Nat) (s : State) : Undisturbed s (ledger die o re ob fi c old new aux s) := by
  simp [Undisturbed]

/-! ## The one command in flight ends -/

/-- The one command in flight has ended with e, and nothing else of what an answer touches has changed. -/
def Ended (s t : State) (j : Job) (e : End) : Prop :=
  t.gz.jobs = [{ j with phase := .ending e }] ∧ t.gz.rings = s.gz.rings ∧ t.mem = s.mem ∧ t.sig = s.sig ∧ t.now = s.now ∧
    t.hw.items = s.hw.items

theorem Ended.of_endJob {s : State} {j : Job} (hj : s.gz.jobs = [j]) (e : End) : Ended s (endJob s j.id e) j e :=
  ⟨jobs_endJob_one s j e hj, rfl, rfl, rfl, rfl, rfl⟩

theorem Ended.before {s t u : State} {j : Job} {e : End} (h : Undisturbed s t) (k : Ended t u j e) : Ended s u j e := by
  obtain ⟨-, hr, hm, hs, hn, hi⟩ := h
  obtain ⟨kj, kr, km, ks, kn, ki⟩ := k
  exact ⟨kj, kr.trans hr, km.trans hm, ks.trans hs, kn.trans hn, ki.trans hi⟩

theorem Ended.after {s t u : State} {j : Job} {e : End} (h : Ended s t j e) (k : Undisturbed t u) : Ended s u j e := by
  obtain ⟨hj, hr, hm, hs, hn, hi⟩ := h
  obtain ⟨kj, kr, km, ks, kn, ki⟩ := k
  exact ⟨kj.trans hj, kr.trans hr, km.trans hm, ks.trans hs, kn.trans hn, ki.trans hi⟩

/-- An ended command is answered, as seen from where it began. -/
theorem Ended.answers {s₀ s t : State} {j k : Job} {e : End} (h : Ended s t k e) (hm : Memory.wf s.mem.cells = true) (hw : s.sig.waiters = [])
    (hslot : SameSlot s₀ s j.ring) (hnow : s.now = s₀.now) (hk : SameJob j k) : Answered s₀ (settle t) j e := by
  obtain ⟨hj, hr, hmem, hsig, hn, -⟩ := h
  exact answered_settle hj rfl (by rw [hmem]; exact hm) (by rw [hsig]; exact hw) (hslot.trans (.of_rings hr _)) (hn.trans hnow) hk

theorem Ended.answered {s t : State} {j : Job} {e : End} (h : Ended s t j e) (hm : Memory.wf s.mem.cells = true) (hw : s.sig.waiters = []) :
    Answered s (settle t) j e := h.answers hm hw (.of_rings rfl _) rfl (.refl _)

/-- An end that charges no points leaves the group and the directory. -/
theorem Ended.settled {s t : State} {j : Job} {e : End} (h : Ended s t j e) (hw : s.sig.waiters = []) (he : endPoints e = 0) :
    (settle t).grp = t.grp ∧ (settle t).dir = t.dir := by
  obtain ⟨hj, -, -, hsig, -, -⟩ := h
  obtain ⟨un, hl⟩ := leaving_eq t { j with phase := .ending e } e
  obtain ⟨_, _, _, _, _, hf⟩ := finish_calmEnd (leaving t { j with phase := .ending e } e) { j with phase := .ending e } e
    (by rw [hl]; exact (congrArg SigSt.waiters hsig).trans hw) he
  rw [settle_ended t _ e hj rfl, passed, hf, hl]
  exact ⟨rfl, rfl⟩

/-! ## Releases -/

/-- No command in flight waits at a barrier. -/
def NoBarrier (s : State) : Prop := ∀ j ∈ s.gz.jobs, barrierCmd j = none

theorem NoBarrier.of_jobs {s t : State} (h : NoBarrier s) (k : t.gz.jobs = s.gz.jobs) : NoBarrier t := by
  intro j hj
  exact h j (by rw [← k]; exact hj)

theorem barrierCmd_ending (j : Job) (e : End) : barrierCmd { j with phase := .ending e } = none := by
  unfold barrierCmd
  split
  · next h => exact absurd h (by simp)
  · rfl

theorem Ended.noBarrier {s t : State} {j : Job} {e : End} (h : Ended s t j e) : NoBarrier t := by
  intro k hk
  rw [h.1, List.mem_singleton] at hk
  rw [hk]
  exact barrierCmd_ending j e

theorem barrierJobs_none {s : State} (h : NoBarrier s) (id : Nat) : barrierJobs s id = [] :=
  List.filter_eq_nil_iff.2 fun j hj => by simp [h j hj]

theorem freeBarrier_none {s : State} (h : NoBarrier s) (id members : Nat) : freeBarrier id members s = s := by
  unfold freeBarrier
  rw [barrierJobs_none h]

theorem barrierJobs_one {s : State} {j : Job} {id n : Nat} (hj : s.gz.jobs = [j]) (hb : barrierCmd j = some (id, n)) :
    barrierJobs s id = [j] := by
  simp [barrierJobs, hj, hb]

/-- What the command at a barrier that is released ends with (12 R332, R333). -/
def releaseEnd (n members : Nat) : End := if n = members then done 0 else fails BAD_STATE 0x24

theorem freeBarrier_one {s : State} {j : Job} {id n : Nat} (members : Nat) (hj : s.gz.jobs = [j]) (hb : barrierCmd j = some (id, n)) :
    freeBarrier id members s = endJob s j.id (releaseEnd n members) := by
  unfold freeBarrier releaseEnd
  rw [barrierJobs_one hj hb]
  dsimp only
  rw [hb]
  simp

theorem tellRelease_undisturbed (id members inst : Nat) (ps : List Nat) (s : State) (h : NoBarrier s) :
    Undisturbed s (tellRelease id members inst ps s) := by
  unfold tellRelease
  induction ps generalizing s with
  | nil => exact .refl s
  | cons p ps ih =>
    rw [List.foldl_cons]
    split
    · rw [freeBarrier_none h]
      exact ih s h
    · exact (send_undisturbed ..).trans (ih _ (h.of_jobs (send_undisturbed ..).1))

theorem sendGroup_grp (kind pos a0 a1 a2 : Nat) (es : List DirEntry) (s : State) : (sendGroup kind pos a0 a1 a2 es s).grp = s.grp :=
  (send_traffic s _).aside.2.1

theorem freeBarrier_grp (id members : Nat) (s : State) : (freeBarrier id members s).grp = s.grp := by
  unfold freeBarrier
  split <;> rfl

theorem tellRelease_grp (id members inst : Nat) (ps : List Nat) (s : State) : (tellRelease id members inst ps s).grp = s.grp := by
  unfold tellRelease
  induction ps generalizing s with
  | nil => rfl
  | cons p ps ih =>
    rw [List.foldl_cons, ih]
    split
    · exact freeBarrier_grp ..
    · exact sendGroup_grp ..

/-- A release told to positions with this device among them ends the command that waits here. -/
theorem tellRelease_ended {j : Job} {id n : Nat} (members inst : Nat) (ps : List Nat) (s : State) (hj : s.gz.jobs = [j])
    (hb : barrierCmd j = some (id, n)) (hme : myPos s ∈ ps) : Ended s (tellRelease id members inst ps s) j (releaseEnd n members) := by
  unfold tellRelease
  induction ps generalizing s with
  | nil => simp at hme
  | cons p ps ih =>
    rw [List.foldl_cons]
    by_cases hp : p = myPos s
    · have hended := Ended.of_endJob hj (releaseEnd n members)
      rw [if_pos hp, freeBarrier_one members hj hb]
      exact hended.after (tellRelease_undisturbed id members inst ps _ hended.noBarrier)
    · have hsent : Undisturbed s (sendGroup 5 p id members inst [] s) := send_undisturbed ..
      rw [if_neg hp]
      refine .before hsent (ih _ (hsent.1.trans hj) ?_)
      rw [hsent.myPos]
      exact (List.mem_cons.1 hme).resolve_left fun h => hp h.symm

theorem mem_maskPos {s : State} {m : Nat} (h : bit m (myPos s) = true) : myPos s ∈ maskPos m := by
  refine List.mem_filter.2 ⟨List.mem_range.2 ?_, h⟩
  exact Nat.mod_lt _ (by decide)

/-! ## Arrivals at the master -/

theorem arriveAt_undisturbed (pos id members : Nat) (s : State) (h : NoBarrier s) : Undisturbed s (arriveAt pos id members s) := by
  unfold arriveAt
  split
  · split
    · exact Undisturbed.trans (.refl _) (tellRelease_undisturbed _ _ _ _ _ h)
    · extract_lets b n t
      split
      · exact Undisturbed.trans (.refl _) (tellRelease_undisturbed _ _ _ _ _ h)
      · exact .refl _
  · split
    · exact .refl _
    · split
      · exact Undisturbed.trans (.refl _) (tellRelease_undisturbed _ _ _ _ _ h)
      · exact .refl _

theorem admitWaiting_undisturbed (n : Nat) (s : State) (h : NoBarrier s) : Undisturbed s (admitWaiting n s) := by
  induction n generalizing s with
  | zero => exact .refl s
  | succ n ih =>
    unfold admitWaiting
    split
    · exact .refl s
    · next w ws _ =>
      split
      · exact .refl s
      · have harr := arriveAt_undisturbed w.1 w.2.1 w.2.2 { s with grp := { s.grp with waiting := ws } } h
        exact Undisturbed.trans (Undisturbed.trans (.refl s) harr) (ih _ (h.of_jobs harr.1))

theorem admitWaiting_none {s : State} (h : s.grp.waiting = []) (n : Nat) : admitWaiting n s = s := by
  cases n with
  | zero => rfl
  | succ n =>
    unfold admitWaiting
    rw [h]

theorem arriveMaster_noWaiting {pos id members : Nat} {s : State} (h : (arriveAt pos id members s).grp.waiting = []) :
    arriveMaster pos id members s = arriveAt pos id members s := admitWaiting_none h _

/-- A barrier is released: it is off the list, and its instance is counted (12 R332). -/
def releasing (id : Nat) (s : State) : State :=
  { s with grp := { s.grp with
      barriers := s.grp.barriers.filter (fun b => b.id != id)
      instances := amPut s.grp.instances id (amGet 0 s.grp.instances id + 1) } }

/-- The last arrival at a barrier. -/
theorem arriveAt_last {pos id members : Nat} {s : State} {b : Barrier} (hf : s.grp.barriers.find? (fun b => b.id == id) = some b)
    (hm : b.members = members) (ha : (maskPos members).all (fun p => p == pos || b.arrived.contains p) = true) :
    arriveAt pos id members s = tellRelease id members (amGet 0 s.grp.instances id) (maskPos members) (releasing id s) := by
  have hall : (maskPos members).all (fun p => (if b.arrived.contains pos then b.arrived else b.arrived ++ [pos]).contains p) = true := by
    refine List.all_eq_true.2 fun p hp => ?_
    have h := List.all_eq_true.1 ha p hp
    split
    · next hc =>
      rcases Bool.or_eq_true_iff.1 h with h | h
      · rw [eq_of_beq h]
        exact hc
      · exact h
    · rcases Bool.or_eq_true_iff.1 h with h | h
      · simp [eq_of_beq h]
      · simp only [List.contains_eq_mem, decide_eq_true_eq] at h
        simp [h]
  unfold arriveAt
  rw [hf]
  dsimp only
  rw [if_neg (by simp [hm])]
  exact if_pos hall

/-- An arrival that disagrees with those before it. -/
theorem arriveAt_disagree {pos id members : Nat} {s : State} {b : Barrier} (hf : s.grp.barriers.find? (fun b => b.id == id) = some b)
    (hm : b.members ≠ members) :
    arriveAt pos id members s = tellRelease id 0 0 (maskPos (b.members ||| members)) (dropBarrier id s) := by
  unfold arriveAt
  rw [hf]
  exact if_pos (by simpa using hm)

/-- The first arrival at a barrier of several members, where the master has room. -/
theorem arriveAt_first {pos id members : Nat} {s : State} (hf : s.grp.barriers.find? (fun b => b.id == id) = none)
    (hn : s.grp.barriers.length < 64) (hm : (maskPos members).all (fun p => p == pos) = false) :
    arriveAt pos id members s = { s with grp := { s.grp with barriers := s.grp.barriers ++ [⟨id, members, [pos]⟩] } } := by
  unfold arriveAt
  rw [hf]
  dsimp only
  rw [if_neg (by omega), hm]
  rfl

/-- One more instance of a barrier is counted. -/
def instanced (id : Nat) (s : State) : State :=
  { s with grp := { s.grp with instances := amPut s.grp.instances id (amGet 0 s.grp.instances id + 1) } }

/-- The only arrival at a barrier of one member. -/
theorem arriveAt_only {pos id members : Nat} {s : State} (hf : s.grp.barriers.find? (fun b => b.id == id) = none)
    (hn : s.grp.barriers.length < 64) (hm : (maskPos members).all (fun p => p == pos) = true) :
    arriveAt pos id members s = tellRelease id members (amGet 0 s.grp.instances id) (maskPos members)
      (instanced id s) := by
  unfold arriveAt
  rw [hf]
  dsimp only
  rw [if_neg (by omega), if_pos hm]
  rfl

/-! ## GRP_BARRIER (12 R332) -/

/-- The first member of a mask that this device has lost (12 R333). -/
def lostMember (s : State) (m : Nat) : Option Nat := (maskPos m).find? (fun x => x != myPos s && (peerOf s x).lost)

theorem lostMember_begun (s : State) (i : Instr) (m : Nat) : lostMember (begun s i) m = lostMember s m := by
  have hgrp : (begun s i).grp = s.grp := by simp
  have hitems : (begun s i).hw.items = s.hw.items := by simp
  unfold lostMember myPos peerOf item
  rw [hgrp, hitems]

theorem noBarrier_idle {s : State} (h : Idle s) : NoBarrier s := fun j hj => by rw [h] at hj; simp at hj

theorem sendNewArrival_idle {s : State} (n : Nat) (h : Idle s) : sendNewArrival n s = s := by
  unfold sendNewArrival
  rw [h]
  rfl

/-- A GRP_BARRIER of which a member is lost ends at once (12 R328, R333). -/
theorem grpBarrier_lost {h : Hdr} {p : PGrpBarrier} {s : State} {x : Nat} (hc : Calm s [])
    (ha : Accepts s (preGrpBarrier h p s) (.grpBarrier h p)) (hx : lostMember s p.members.toNat = some x) :
    exec (.grpBarrier h p) s = .next (replied s (preGrpBarrier h p s) (.grpBarrier h p) (begun s (.grpBarrier h p)) (fails PEER_LOST x)) := by
  have hrun : runGrpBarrier p (jobFor s (preGrpBarrier h p s) (.grpBarrier h p)) (begun s (.grpBarrier h p)) =
      ends (begun s (.grpBarrier h p)) (fails PEER_LOST x) := by
    unfold runGrpBarrier
    rw [show (maskPos p.members.toNat).find? _ = some x from (lostMember_begun s _ _).trans hx]
  have hbegun := calm_begun (.grpBarrier h p) hc.1 hc.2.1 hc.2.2
  have hidle : Idle (finish (begun s (.grpBarrier h p)) (jobFor s (preGrpBarrier h p s) (.grpBarrier h p)) (fails PEER_LOST x)) :=
    (finish_jobs _ _ _ hbegun.2.2).trans hbegun.1
  show execGrpBarrier h p s = _
  unfold execGrpBarrier
  rw [arrive_accepted s _ _ _ ha, hrun]
  exact congrArg (fun t => Host.Outcome.next (settle t)) (sendNewArrival_idle _ hidle)

/-- A GRP_BARRIER in flight, before its arrival is sent. -/
def atBarrier (h : Hdr) (p : PGrpBarrier) (s : State) : State :=
  park (begun s (.grpBarrier h p)) (jobFor s (preGrpBarrier h p s) (.grpBarrier h p)) .barrier

/-- The command of a GRP_BARRIER in flight. -/
def barrierJob (h : Hdr) (p : PGrpBarrier) (s : State) : Job :=
  { jobFor s (preGrpBarrier h p s) (.grpBarrier h p) with phase := .barrier, since := (begun s (.grpBarrier h p)).now }

theorem atBarrier_facts {h : Hdr} {p : PGrpBarrier} {s : State} (hc : Calm s []) :
    Calm (atBarrier h p s) [barrierJob h p s] ∧ (atBarrier h p s).grp = s.grp ∧ myPos (atBarrier h p s) = myPos s ∧
      (atBarrier h p s).now = s.now ∧ SameSlot s (atBarrier h p s) (barrierJob h p s).ring := by
  obtain ⟨hj, hm, hw⟩ := calm_begun (.grpBarrier h p) hc.1 hc.2.1 hc.2.2
  have hitems : (begun s (.grpBarrier h p)).hw.items = s.hw.items := by simp
  refine ⟨⟨jobs_park _ _ _ hj, hm, hw⟩, ?_, ?_, ?_, SameSlot.of_begun s _ _⟩
  · show (begun s (.grpBarrier h p)).grp = s.grp
    simp
  · unfold myPos item
    rw [show (atBarrier h p s).hw.items = s.hw.items from hitems]
  · show (begun s (.grpBarrier h p)).now = s.now
    simp

theorem grpBarrier_waits {h : Hdr} {p : PGrpBarrier} {s : State} (hc : Calm s [])
    (ha : Accepts s (preGrpBarrier h p s) (.grpBarrier h p)) (hx : lostMember s p.members.toNat = none) :
    exec (.grpBarrier h p) s = .next (settle (sendArrival (barrierJob h p s) (atBarrier h p s))) := by
  have hrun : runGrpBarrier p (jobFor s (preGrpBarrier h p s) (.grpBarrier h p)) (begun s (.grpBarrier h p)) =
      waits (begun s (.grpBarrier h p)) .barrier := by
    unfold runGrpBarrier
    rw [show (maskPos p.members.toNat).find? _ = none from (lostMember_begun s _ _).trans hx]
  have hjobs := (atBarrier_facts (h := h) (p := p) hc).1.1
  show execGrpBarrier h p s = _
  unfold execGrpBarrier
  rw [arrive_accepted s _ _ _ ha, hrun]
  show Host.Outcome.next (settle (sendNewArrival _ (atBarrier h p s))) = _
  unfold sendNewArrival
  rw [hjobs, List.find?_cons_of_pos]
  simp only [Bool.and_eq_true, decide_eq_true_eq]
  exact ⟨Nat.le_refl _, rfl⟩

theorem sendArrival_unknown {j : Job} {s : State} (hm : s.grp.master = none) : sendArrival j s = s := by
  unfold sendArrival
  rw [hm]
  split
  · next h => exact absurd h (by simp)
  · rfl

theorem sendArrival_one {j : Job} {s : State} {id mem q : Nat} (hj : s.gz.jobs = [j]) (hb : barrierCmd j = some (id, mem))
    (hm : s.grp.master = some q) :
    sendArrival j s = if q = myPos s then arriveMaster q id mem s else sendGroup 4 q id mem 0 [] s := by
  unfold sendArrival
  rw [hb, hm]
  dsimp only
  rw [barrierJobs_one hj hb]
  exact if_neg (by simp)

/-- A mask with one position of its own is that position alone exactly when no other is in it. -/
theorem maskPos_all_iff {m me : Nat} (hm : m < 2 ^ 16) (hb : bit m me = true) :
    (maskPos m).all (fun p => p == me) = true ↔ m = 2 ^ me := by
  have hbit : ∀ i, bit m i = m.testBit i := fun i => by
    rw [Nat.testBit_eq_decide_div_mod_eq]
    rfl
  constructor
  · intro h
    refine Nat.eq_of_testBit_eq fun i => ?_
    rw [Nat.testBit_two_pow]
    by_cases hi : me = i
    · rw [← hi, ← hbit, hb]
      simp
    · rw [decide_eq_false hi]
      by_cases hi16 : i < 16
      · by_contra hc
        have hmem : i ∈ maskPos m := List.mem_filter.2 ⟨List.mem_range.2 hi16, by rw [hbit]; simpa using hc⟩
        exact hi (eq_of_beq (List.all_eq_true.1 h i hmem)).symm
      · exact Nat.testBit_lt_two_pow (Nat.lt_of_lt_of_le hm (Nat.pow_le_pow_right (by decide) (by omega)))
  · intro h
    refine List.all_eq_true.2 fun p hp => ?_
    have hpb := (List.mem_filter.1 hp).2
    rw [hbit, h, Nat.testBit_two_pow] at hpb
    simpa using (of_decide_eq_true hpb).symm

/-- A GRP_BARRIER that the master of the group itself sends (12 R332). -/
theorem grpBarrier_master {h : Hdr} {p : PGrpBarrier} {s : State} (hc : Calm s [])
    (ha : Accepts s (preGrpBarrier h p s) (.grpBarrier h p)) (hx : lostMember s p.members.toNat = none)
    (hm : s.grp.master = some (myPos s)) (hb : s.grp.barriers = []) (hw : s.grp.waiting = []) :
    (p.members.toNat = 2 ^ myPos s → ∃ t, exec (.grpBarrier h p) s = .next t ∧
      Answered s t (jobFor s (preGrpBarrier h p s) (.grpBarrier h p)) (done 0)) ∧
    (p.members.toNat ≠ 2 ^ myPos s → ∃ t, exec (.grpBarrier h p) s = .next t ∧
      (jobOf t (jobFor s (preGrpBarrier h p s) (.grpBarrier h p)).id).map (·.phase) = some .barrier ∧
      t.grp.barriers = [⟨p.barrierId.toNat, p.members.toNat, [myPos s]⟩]) := by
  obtain ⟨hcalm, hgrp, hpos, hnow, hslot⟩ := atBarrier_facts (h := h) (p := p) hc
  have hexec := grpBarrier_waits hc ha hx
  rw [sendArrival_one hcalm.1 rfl (by rw [hgrp]; exact hm), if_pos hpos.symm] at hexec
  have hfind : (atBarrier h p s).grp.barriers.find? (fun b => b.id == p.barrierId.toNat) = none := by rw [hgrp, hb]; rfl
  have hroom : (atBarrier h p s).grp.barriers.length < 64 := by rw [hgrp, hb]; decide
  have hfield := fields_of_accepts ha (0x24, _) (List.mem_singleton.2 rfl)
  simp only [Bool.and_eq_true, decide_eq_true_eq] at hfield
  have hmask := maskPos_all_iff (me := myPos s) p.members.isLt hfield.1
  constructor
  · intro honly
    have harr := arriveAt_only hfind hroom (hmask.2 honly)
    have hended : Ended (instanced p.barrierId.toNat (atBarrier h p s)) (arriveAt (myPos s) p.barrierId.toNat p.members.toNat (atBarrier h p s))
        (barrierJob h p s) (releaseEnd p.members.toNat p.members.toNat) := by
      rw [harr]
      refine tellRelease_ended _ _ _ _ hcalm.1 rfl (mem_maskPos ?_)
      exact (congrArg (bit p.members.toNat) hpos).trans hfield.1
    have hwait : (arriveAt (myPos s) p.barrierId.toNat p.members.toNat (atBarrier h p s)).grp.waiting = [] := by
      rw [harr, tellRelease_grp]
      exact (congrArg GroupSt.waiting hgrp).trans hw
    rw [arriveMaster_noWaiting hwait] at hexec
    rw [releaseEnd, if_pos rfl] at hended
    exact ⟨_, hexec, hended.answers hcalm.2.1 hcalm.2.2 hslot hnow ⟨rfl, rfl, rfl, rfl, rfl⟩⟩
  · intro hmore
    have hall : (maskPos p.members.toNat).all (fun q => q == myPos s) = false := by
      rw [← Bool.not_eq_true, hmask]
      exact hmore
    have harr := arriveAt_first hfind hroom hall
    have hwait : (arriveAt (myPos s) p.barrierId.toNat p.members.toNat (atBarrier h p s)).grp.waiting = [] := by
      rw [harr]
      exact (congrArg GroupSt.waiting hgrp).trans hw
    rw [arriveMaster_noWaiting hwait, harr] at hexec
    refine ⟨_, hexec.trans (congrArg Host.Outcome.next (settle_quiet _ (quiet_one (j := barrierJob h p s) hcalm.1 rfl))), congrArg (Option.map _) (jobOf_one hcalm.1), ?_⟩
    show (atBarrier h p s).grp.barriers ++ _ = _
    rw [hgrp, hb]
    rfl

/-! ## Arrivals and releases that reach this device -/

theorem exec_barrierArrive {m : GroupMsg} {s : State} (hof : ofGroup s m = true) (hm : isMaster s = true) :
    exec (.barrierArrive m) s = .next (settle (arriveMaster m.srcPos.toNat m.arg0.toNat m.arg1.toNat s)) := by
  show execBarrierArrive m s = _
  unfold execBarrierArrive
  rw [hof, hm]
  rfl

theorem exec_barrierRelease {m : GroupMsg} {s : State} (hof : ofGroup s m = true) (hm : s.grp.master = some m.srcPos.toNat) :
    exec (.barrierRelease m) s = .next (settle (releaseHere m.arg0.toNat m.arg1.toNat s)) := by
  show execBarrierRelease m s = _
  unfold execBarrierRelease
  rw [hof, if_pos]
  simpa using hm

/-- A member's arrival where the master waits with others: the barrier is open. -/
theorem arrive_opens {m : GroupMsg} {s : State} (hof : ofGroup s m = true) (hm : isMaster s = true) (hw : s.grp.waiting = []) (hi : Idle s)
    (hf : s.grp.barriers.find? (fun b => b.id == m.arg0.toNat) = none) (hn : s.grp.barriers.length < 64)
    (ha : (maskPos m.arg1.toNat).all (fun p => p == m.srcPos.toNat) = false) :
    exec (.barrierArrive m) s = .next (passed { s with grp := { s.grp with
      barriers := s.grp.barriers ++ [⟨m.arg0.toNat, m.arg1.toNat, [m.srcPos.toNat]⟩] } }) := by
  have harr := arriveAt_first hf hn ha
  rw [exec_barrierArrive hof hm, arriveMaster_noWaiting (by rw [harr]; exact hw), harr]
  exact congrArg Host.Outcome.next (settle_idle _ hi)

/-- The last arrival releases the barrier, and the master's own command is DONE (12 R332). -/
theorem arrive_releases {m : GroupMsg} {s : State} {j : Job} {b : Barrier} (hof : ofGroup s m = true) (hm : isMaster s = true)
    (hw : s.grp.waiting = []) (hc : Calm s [j]) (hf : s.grp.barriers.find? (fun b => b.id == m.arg0.toNat) = some b)
    (hb : barrierCmd j = some (m.arg0.toNat, m.arg1.toNat)) (hmem : b.members = m.arg1.toNat) (hme : bit m.arg1.toNat (myPos s) = true)
    (ha : (maskPos m.arg1.toNat).all (fun p => p == m.srcPos.toNat || b.arrived.contains p) = true) :
    ∃ t, exec (.barrierArrive m) s = .next t ∧ Answered s t j (done 0) ∧
      t.grp.barriers = s.grp.barriers.filter (fun b => b.id != m.arg0.toNat) ∧
      amGet 0 t.grp.instances m.arg0.toNat = amGet 0 s.grp.instances m.arg0.toNat + 1 := by
  have harr := arriveAt_last hf hmem ha
  obtain ⟨t, ht⟩ : ∃ t, arriveAt m.srcPos.toNat m.arg0.toNat m.arg1.toNat s = t := ⟨_, rfl⟩
  have hended : Ended (releasing m.arg0.toNat s) t j (releaseEnd m.arg1.toNat m.arg1.toNat) := by
    rw [← ht, harr]
    exact tellRelease_ended _ _ _ _ hc.1 hb (mem_maskPos (s := releasing m.arg0.toNat s) hme)
  have hgrp : t.grp = (releasing m.arg0.toNat s).grp := by
    rw [← ht, harr]
    exact tellRelease_grp ..
  rw [releaseEnd, if_pos rfl] at hended
  rw [exec_barrierArrive hof hm, arriveMaster_noWaiting (by rw [ht, hgrp]; exact hw), ht]
  obtain ⟨hsettled, -⟩ := hended.settled hc.2.2 rfl
  refine ⟨_, rfl, hended.answers hc.2.1 hc.2.2 (.of_rings rfl _) rfl (.refl _), ?_, ?_⟩
  · rw [hsettled, hgrp]
    rfl
  · rw [hsettled, hgrp]
    exact (amGet_amPut 0 s.grp.instances _ _ _).trans (if_pos rfl)

/-- An arrival that disagrees closes the barrier, and the master's own command is BAD_STATE (12 R333). -/
theorem arrive_closes {m : GroupMsg} {s : State} {j : Job} {b : Barrier} {n : Nat} (hof : ofGroup s m = true) (hm : isMaster s = true)
    (hw : s.grp.waiting = []) (hc : Calm s [j]) (hf : s.grp.barriers.find? (fun b => b.id == m.arg0.toNat) = some b)
    (hb : barrierCmd j = some (m.arg0.toNat, n)) (hn : n ≠ 0) (hmem : b.members ≠ m.arg1.toNat)
    (hme : bit (b.members ||| m.arg1.toNat) (myPos s) = true) :
    ∃ t, exec (.barrierArrive m) s = .next t ∧ Answered s t j (fails BAD_STATE 0x24) := by
  have harr := arriveAt_disagree (pos := m.srcPos.toNat) hf hmem
  obtain ⟨t, ht⟩ : ∃ t, arriveAt m.srcPos.toNat m.arg0.toNat m.arg1.toNat s = t := ⟨_, rfl⟩
  have hended : Ended (dropBarrier m.arg0.toNat s) t j (releaseEnd n 0) := by
    rw [← ht, harr]
    exact tellRelease_ended _ _ _ _ hc.1 hb (mem_maskPos (s := dropBarrier m.arg0.toNat s) hme)
  have hgrp : t.grp = (dropBarrier m.arg0.toNat s).grp := by
    rw [← ht, harr]
    exact tellRelease_grp ..
  rw [releaseEnd, if_neg hn] at hended
  rw [exec_barrierArrive hof hm, arriveMaster_noWaiting (by rw [ht, hgrp]; exact hw), ht]
  exact ⟨_, rfl, hended.answers hc.2.1 hc.2.2 (.of_rings rfl _) rfl (.refl _)⟩

/-- A release of the master ends this device's command at the barrier (12 R332, R333). -/
theorem release_ends {m : GroupMsg} {s : State} {j : Job} {n : Nat} (hof : ofGroup s m = true) (hm : s.grp.master = some m.srcPos.toNat)
    (hc : Calm s [j]) (hb : barrierCmd j = some (m.arg0.toNat, n)) :
    ∃ t, exec (.barrierRelease m) s = .next t ∧ Answered s t j (releaseEnd n m.arg1.toNat) := by
  have hended := Ended.of_endJob hc.1 (releaseEnd n m.arg1.toNat)
  have hrel : releaseHere m.arg0.toNat m.arg1.toNat s = endJob s j.id (releaseEnd n m.arg1.toNat) := by
    unfold releaseHere
    rw [freeBarrier_one _ hc.1 hb]
    dsimp only
    rw [barrierJobs_none hended.noBarrier]
  rw [exec_barrierRelease hof hm, hrel]
  exact ⟨_, rfl, hended.answered hc.2.1 hc.2.2⟩

/-! ## The loss of a member -/

/-- What waits on a lost peer, where only a barrier's command is in flight. -/
theorem loseBarriers_ended {s : State} {j : Job} {id mem pos : Nat} (e : End) (hj : s.gz.jobs = [j]) (hb : barrierCmd j = some (id, mem))
    (hbit : bit mem pos = true) : Ended s (loseBarriers pos e s) j e := by
  unfold loseBarriers
  extract_lets g s1 s2
  have hs2 : s2 = endJob s1 j.id e := by
    show s1.gz.jobs.foldl _ s1 = _
    rw [show s1.gz.jobs = [j] from hj, List.foldl_cons, List.foldl_nil, hb]
    exact if_pos hbit
  have hended : Ended s1 s2 j e := by
    rw [hs2]
    exact .of_endJob hj e
  exact Ended.before (t := s1) (.refl s) (hended.after (admitWaiting_undisturbed _ _ hended.noBarrier))

/-- Engines, chains and the directory stay. -/
def SameWork (s t : State) : Prop := t.ws = s.ws ∧ t.cf = s.cf ∧ t.chains = s.chains ∧ t.dir = s.dir

theorem ledger_sameWork (die o re ob fi c old new aux : Nat) (s : State) : SameWork s (ledger die o re ob fi c old new aux s) := by
  simp [SameWork]

/-- A master that changes elsewhere is ledgered alone. -/
theorem setMaster_member (m : Option Nat) (s : State) (h : isMaster s = false) :
    Undisturbed s (setMaster m s) ∧ SameWork s (setMaster m s) := by
  unfold setMaster
  split
  · exact ⟨.refl s, rfl, rfl, rfl, rfl⟩
  · dsimp only
    rw [h, if_pos (by decide)]
    exact ⟨Undisturbed.trans (t := { s with grp := { s.grp with master := m } }) (.refl s) (ledger_undisturbed ..), ledger_sameWork ..⟩

theorem lostPeer_member (p : Nat) (s : State) (h : p ≠ myPos s) : Undisturbed s (lostPeer p s) ∧ SameWork s (lostPeer p s) := by
  have hledger := ledger_undisturbed 12 (hwOrigin 12) 0xA p 0 0 1 0 s.grp.term (unheard p s)
  have hsame := ledger_sameWork 12 (hwOrigin 12) 0xA p 0 0 1 0 s.grp.term (unheard p s)
  unfold lostPeer
  dsimp only
  obtain ⟨t, ht⟩ : ∃ x, ledger 12 (hwOrigin 12) 0xA p 0 0 1 0 s.grp.term (unheard p s) = x := ⟨_, rfl⟩
  rw [ht] at hledger hsame ⊢
  have hund : Undisturbed s t := Undisturbed.trans (t := unheard p s) (.refl s) hledger
  split
  · next hm =>
    have hnot : isMaster t = false := by
      rw [← Bool.not_eq_true, isMaster_iff, hm, hund.myPos]
      exact fun k => h (Option.some.inj k)
    obtain ⟨hset, hw, hc, hch, hd⟩ := setMaster_member none t hnot
    obtain ⟨kw, kc, kch, kd⟩ := hsame
    exact ⟨hund.trans hset, hw.trans kw, hc.trans kc, hch.trans kch, hd.trans kd⟩
  · exact ⟨hund, hsame⟩

/-- A lost peer takes nothing with it where no engine holds anything. -/
theorem lose_bare {s : State} (hws : s.ws = []) (hcf : s.cf = []) (hch : s.chains = []) (hr : ∀ j ∈ s.gz.jobs, Rests j) (dev p : Nat) (e : End) :
    loseChains dev e (loseRows p e (loseClaims p e (loseCounts p e s))) = s := by
  have hchains : ∀ d, chainsOf s d = [] := fun d => by rw [chainsOf, hch]; rfl
  have hwsOf : ∀ d, wsOf s d = {} := fun d => by rw [wsOf, hws]; rfl
  have hcfOf : ∀ d, cfOf s d = {} := fun d => by rw [cfOf, hcf]; rfl
  have hcounts : loseCounts p e s = s := foldl_fixed _ s (fun d => by rw [hwsOf]; rfl) _
  have hclaims : loseClaims p e s = s := foldl_fixed _ s (fun d => by rw [hcfOf]; rfl) _
  have hrows : loseRows p e s = s := foldl_fixed _ s (fun d => by rw [hwsOf]; rfl) _
  rw [hcounts, hclaims, hrows]
  refine foldl_fixed _ s (fun d => ?_) _
  dsimp only
  rw [hchains, List.foldl_nil]
  exact pumpChains_rests d _ s hr

theorem barrierCmd_rests {j : Job} {b : Nat × Nat} (h : barrierCmd j = some b) : Rests j := by
  unfold barrierCmd at h
  split at h
  · next hp => exact ⟨by simp [hp], by simp [hp], by simp [hp], by simp [hp]⟩
  · contradiction

theorem tryCommit_none {s : State} (h : s.dir.job = none) : tryCommit s = s := by
  unfold tryCommit
  rw [h]

theorem tellRelease_dir (id members inst : Nat) (ps : List Nat) (s : State) : (tellRelease id members inst ps s).dir = s.dir := by
  unfold tellRelease
  induction ps generalizing s with
  | nil => rfl
  | cons p ps ih =>
    rw [List.foldl_cons, ih]
    split
    · unfold freeBarrier
      split <;> rfl
    · exact send_dir ..

theorem arriveAt_dir (pos id members : Nat) (s : State) : (arriveAt pos id members s).dir = s.dir := by
  unfold arriveAt
  split
  · split
    · exact tellRelease_dir ..
    · extract_lets b n t
      split
      · exact tellRelease_dir ..
      · rfl
  · split
    · rfl
    · split
      · exact tellRelease_dir ..
      · rfl

theorem admitWaiting_dir (n : Nat) (s : State) : (admitWaiting n s).dir = s.dir := by
  induction n generalizing s with
  | zero => rfl
  | succ n ih =>
    unfold admitWaiting
    split
    · rfl
    · split
      · rfl
      · rw [ih, arriveAt_dir]

theorem loseBarriers_dir (pos : Nat) (e : End) (s : State) : (loseBarriers pos e s).dir = s.dir := by
  unfold loseBarriers
  extract_lets g s1 s2
  rw [admitWaiting_dir]
  have hfold : ∀ (js : List Job) (x : State), (js.foldl (fun s j => match barrierCmd j with
      | some (_, m) => if bit m pos then endJob s j.id e else s
      | none => s) x).dir = x.dir := by
    intro js
    induction js with
    | nil => exact fun _ => rfl
    | cons j js ih =>
      intro x
      rw [List.foldl_cons, ih]
      split
      · split <;> rfl
      · rfl
  exact hfold _ s1

/-- A lost member ends the command at the barrier (12 R333). -/
theorem peerLoss_ends {q : BitVec 4} {s : State} {j : Job} {id mem : Nat} (hc : Calm s [j]) (hws : s.ws = []) (hcf : s.cf = [])
    (hch : s.chains = []) (hd : s.dir.job = none) (hq : q.toNat ≠ myPos s) (hl : (peerOf s q.toNat).live = true)
    (hb : barrierCmd j = some (id, mem)) (hbit : bit mem q.toNat = true) :
    ∃ t, exec (.peerLossTimer q) s = .next t ∧ Answered s t j (fails PEER_LOST q.toNat) := by
  have hx := exec_peerLoss hl
  obtain ⟨p, hp⟩ : ∃ p, q.toNat = p := ⟨_, rfl⟩
  rw [hp] at hx hq hbit ⊢
  obtain ⟨hund, kws, kcf, kch, kdir⟩ := lostPeer_member p s hq
  obtain ⟨t, ht⟩ : ∃ t, lostPeer p s = t := ⟨_, rfl⟩
  rw [ht] at hund kws kcf kch kdir hx
  have hjobs : t.gz.jobs = [j] := hund.1.trans hc.1
  have hended := (loseBarriers_ended (fails PEER_LOST p) hjobs hb hbit).before hund
  rw [lose_bare (kws.trans hws) (kcf.trans hcf) (kch.trans hch) (by
      rw [hjobs]
      simpa using barrierCmd_rests hb),
    tryCommit_none (by rw [loseBarriers_dir, kdir]; exact hd), pumpDies_rests _ (by
      rw [hended.1]
      simpa using rests_ending rfl)] at hx
  exact ⟨_, hx, hended.answered hc.2.1 hc.2.2⟩

end Sys2Proof.Proofs
end

section
/-! PROOFS. Updates of the expert directory between master and members (06 R179). -/

namespace Sys2Proof.Proofs

open Sys2Proof Sys2Proof.Machine Sys2Proof.Laws

/-! ## Staged entries -/

theorem dropStaged_rests (s : State) (h : ∀ j ∈ s.gz.jobs, Rests j) :
    dropStaged s = { s with dir := { s.dir with staged := none } } := by
  unfold dropStaged
  cases hs : s.dir.staged with
  | some st => exact pumpDies_rests _ h
  | none =>
    show s = { s with dir := { s.dir with staged := none } }
    rw [← hs]

theorem applyEntry_facts (epoch : Nat) (e : DirEntry) (s : State) :
    Undisturbed s (applyEntry epoch e s) ∧ ∃ m, (applyEntry epoch e s).dir = { s.dir with entries := putEntryDir s.dir.entries e, moved := m } := by
  unfold applyEntry
  extract_lets k old new moves d s1
  have hfold : ∀ (l : List ((Nat × Nat) × (Nat × Nat))) (x : State),
      Undisturbed x (l.foldl (fun s p => if p.1.2 = p.2.2 then s else ledger 12 (0x2000 + masterField s) 0xA k p.1.1 0 p.1.2 p.2.2 epoch s) x) ∧
      (l.foldl (fun s p => if p.1.2 = p.2.2 then s else ledger 12 (0x2000 + masterField s) 0xA k p.1.1 0 p.1.2 p.2.2 epoch s) x).dir = x.dir := by
    intro l
    induction l with
    | nil => exact fun x => ⟨.refl x, rfl⟩
    | cons p l ih =>
      intro x
      rw [List.foldl_cons]
      split
      · exact ih x
      · exact ⟨(ledger_undisturbed ..).trans (ih _).1, (ih _).2.trans (ledger_sameWork ..).2.2.2⟩
  obtain ⟨hund, hdir⟩ := hfold ((entryFields old).zip (entryFields new)) s1
  exact ⟨Undisturbed.trans (t := s1) (.refl s) hund, _, hdir⟩

theorem applyEntries_facts (epoch : Nat) (es : List DirEntry) (s : State) :
    Undisturbed s (es.foldl (fun s e => applyEntry epoch e s) s) ∧
      ∃ m, (es.foldl (fun s e => applyEntry epoch e s) s).dir = { s.dir with entries := es.foldl putEntryDir s.dir.entries, moved := m } := by
  induction es generalizing s with
  | nil => exact ⟨.refl s, s.dir.moved, rfl⟩
  | cons e es ih =>
    obtain ⟨hund, m, hdir⟩ := applyEntry_facts epoch e s
    obtain ⟨kund, k, kdir⟩ := ih (applyEntry epoch e s)
    refine ⟨hund.trans kund, k, ?_⟩
    rw [List.foldl_cons, kdir, hdir]
    rfl

/-- Committed entries take effect under their epoch (06 R179). -/
theorem commitStaged_facts {epoch : Nat} {s : State} {st : Staged} (hs : s.dir.staged = some st) (h : ∀ j ∈ s.gz.jobs, Rests j) :
    Undisturbed s (commitStaged epoch s) ∧ ∃ m, (commitStaged epoch s).dir = { s.dir with
      staged := none, epoch := epoch, entries := st.entries.foldl putEntryDir s.dir.entries, moved := m } := by
  obtain ⟨hund, m, hdir⟩ := applyEntries_facts epoch st.entries { s with dir := { s.dir with staged := none } }
  have heq : commitStaged epoch s = { (st.entries.foldl (fun s e => applyEntry epoch e s) { s with dir := { s.dir with staged := none } }) with
      dir := { (st.entries.foldl (fun s e => applyEntry epoch e s) { s with dir := { s.dir with staged := none } }).dir with epoch := epoch } } := by
    unfold commitStaged
    rw [hs]
    refine pumpDies_rests _ ?_
    rw [show (State.gz { (st.entries.foldl (fun s e => applyEntry epoch e s) { s with dir := { s.dir with staged := none } }) with
      dir := _ }).jobs = s.gz.jobs from hund.1]
    exact h
  rw [heq]
  refine ⟨Undisturbed.trans (t := { s with dir := { s.dir with staged := none } }) (.refl s) hund, m, ?_⟩
  dsimp only
  rw [hdir]

/-- The end of an open update whose command is the one in flight. -/
theorem closeUpdate_ended {s : State} {j : Job} (e : End) (hj : s.gz.jobs = [j]) (hd : s.dir.job = some j.id) :
    closeUpdate e s = endJob { s with dir := { s.dir with job := none, acks := [] } } j.id e := by
  have hjobs : (endJob { s with dir := { s.dir with job := none, acks := [] } } j.id e).gz.jobs = [{ j with phase := .ending e }] :=
    jobs_endJob_one _ j e hj
  have hnext : ∀ n, nextUpdate n (endJob { s with dir := { s.dir with job := none, acks := [] } } j.id e) =
      endJob { s with dir := { s.dir with job := none, acks := [] } } j.id e := by
    intro n
    cases n with
    | zero => rfl
    | succ n =>
      unfold nextUpdate
      rw [hjobs]
      split <;> rfl
  unfold closeUpdate
  rw [hd]
  exact hnext _

/-- A member acknowledges what it has staged to the master, unless a round is open. -/
theorem tryAck_member {s : State} {st : Staged} {p : Nat} (hs : s.dir.staged = some st) (ha : st.acked = false)
    (hm : s.grp.master = some p) (hp : p ≠ myPos s) :
    tryAck s = if roundOpen s st.entries then s
      else sendGroup 7 p st.epoch 0 0 [] { s with dir := { s.dir with staged := some { st with acked := true } } } := by
  unfold tryAck
  rw [hs]
  dsimp only
  rw [ha, Bool.false_or, hm]
  exact if_congr Iff.rfl rfl (if_neg hp)

theorem tryAck_acked {s : State} {st : Staged} (hs : s.dir.staged = some st) (ha : st.acked = true) : tryAck s = s := by
  unfold tryAck
  rw [hs]
  dsimp only
  rw [ha]
  rfl

/-! ## Messages of the master -/

theorem fromMaster_iff {s : State} {m : GroupMsg} (h : fromMaster s m = true) :
    s.grp.master = some m.srcPos.toNat ∧ m.srcPos.toNat ≠ myPos s := by
  unfold fromMaster ofGroup at h
  simp only [Bool.and_eq_true, decide_eq_true_eq, bne_iff_ne] at h
  exact ⟨h.2, h.1.2⟩

theorem hear_fromMaster {s : State} {m : GroupMsg} (h : fromMaster s m = true) : hear m s = heard m s := by
  obtain ⟨hm, hne⟩ := fromMaster_iff h
  refine hear_member m s ?_
  rw [hm]
  exact fun k => hne (Option.some.inj k)

/-- A prepared update is staged, and acknowledged once no round of its layers is open. -/
theorem dirPrepare_staged {m : GroupMsg} {es : List DirEntry} {s : State} (hi : Idle s) (hf : fromMaster s m = true)
    (hn : m.arg0.toNat = es.length) :
    let staged (a : Bool) : State := { hear m s with dir := { (hear m s).dir with staged := some ⟨es, m.dirEpoch.toNat + 1, a⟩ } }
    exec (.dirPrepare m es) s = .next (passed (if roundOpen s es then staged false
      else sendGroup 7 m.srcPos.toNat (m.dirEpoch.toNat + 1) 0 0 [] (staged true))) := by
  intro staged
  obtain ⟨hm, hne⟩ := fromMaster_iff hf
  have hx : exec (.dirPrepare m es) s = .next (settle (tryAck (staged false))) := by
    show execDirPrepare m es s = _
    unfold execDirPrepare
    rw [hf, if_pos (by simp [hn])]
  have hopen : roundOpen (staged false) es = roundOpen s es := by
    show roundOpen { hear m s with dir := _ } es = _
    rw [hear_fromMaster hf]
    rfl
  have hmaster : (staged true).grp.master = some m.srcPos.toNat := by
    show (hear m s).grp.master = _
    rw [hear_fromMaster hf]
    exact hm
  have hpos : myPos (staged true) = myPos s := by
    show myPos { hear m s with dir := _ } = _
    rw [hear_fromMaster hf]
    rfl
  have hjobs : ∀ a, Idle (staged a) := fun a => by
    show (hear m s).gz.jobs = []
    rw [hear_fromMaster hf]
    exact hi
  have hack : tryAck (staged false) = if roundOpen s es then staged false
      else sendGroup 7 m.srcPos.toNat (m.dirEpoch.toNat + 1) 0 0 [] (staged true) := by
    rw [tryAck_member (s := staged false) rfl rfl (by exact hmaster) (by exact fun k => hne (k.trans hpos)), ← hopen]
  rw [hx, hack]
  refine congrArg Host.Outcome.next (settle_idle _ ?_)
  split
  · exact hjobs false
  · exact (send_undisturbed ..).1.trans (hjobs true)

/-- What a device has staged, in effect (06 R179). -/
def InEffect (s t : State) (st : Staged) (e : Nat) : Prop :=
  t.dir.staged = none ∧ t.dir.epoch = e ∧ t.dir.entries = st.entries.foldl putEntryDir s.dir.entries

/-- A committed update takes effect. -/
theorem dirCommit_final {m : GroupMsg} {s : State} {st : Staged} (hi : Idle s) (hf : fromMaster s m = true) (hs : s.dir.staged = some st) :
    ∃ t, exec (.dirCommit m) s = .next t ∧ InEffect s t st m.arg0.toNat := by
  have hx : exec (.dirCommit m) s = .next (settle (commitStaged m.arg0.toNat (heard m s))) := by
    show execDirCommit m s = _
    unfold execDirCommit
    rw [hf, if_pos rfl, hear_fromMaster hf]
  have hnone : ∀ j ∈ (heard m s).gz.jobs, Rests j := fun j hj => by
    rw [show (heard m s).gz.jobs = [] from hi] at hj
    simp at hj
  obtain ⟨hund, k, hdir⟩ := commitStaged_facts (epoch := m.arg0.toNat) (s := heard m s) hs hnone
  rw [settle_idle _ (hund.1.trans hi)] at hx
  refine ⟨_, hx, ?_⟩
  show InEffect s (commitStaged m.arg0.toNat (heard m s)) st m.arg0.toNat
  rw [InEffect, hdir]
  exact ⟨rfl, rfl, rfl⟩

/-- An aborted update is discarded. -/
theorem dirAbort_dropped {m : GroupMsg} {s : State} (hi : Idle s) (hf : fromMaster s m = true) :
    ∃ t, exec (.dirAbort m) s = .next t ∧ t.dir.staged = none ∧ t.dir.epoch = s.dir.epoch ∧ t.dir.entries = s.dir.entries := by
  have hx : exec (.dirAbort m) s = .next (settle (dropStaged (heard m s))) := by
    show execDirAbort m s = _
    unfold execDirAbort
    rw [hf, if_pos rfl, hear_fromMaster hf]
  rw [dropStaged_idle _ (by exact hi)] at hx
  exact ⟨_, hx.trans (congrArg Host.Outcome.next (settle_idle _ hi)), rfl, rfl, rfl⟩

/-- A member that hears nothing discards what it has staged (12 R330). -/
theorem dirStageDiscard_dropped {s : State} (hi : Idle s) :
    ∃ t, exec .dirStageDiscard s = .next t ∧ t.dir.staged = (if isMaster s then s.dir.staged else none) ∧
      t.dir.epoch = s.dir.epoch ∧ t.dir.entries = s.dir.entries := by
  have hx : exec .dirStageDiscard s = .next (settle (if isMaster s then s else dropStaged s)) := rfl
  rw [dropStaged_idle s hi] at hx
  by_cases hm : isMaster s = true
  · rw [if_pos hm, settle_idle s hi] at hx
    exact ⟨_, hx, (if_pos hm).symm, rfl, rfl⟩
  · rw [if_neg hm] at hx
    exact ⟨_, hx.trans (congrArg Host.Outcome.next (settle_idle _ hi)), (if_neg hm).symm, rfl, rfl⟩

/-! ## The master's own update -/

/-- An acknowledgement noted at the master. -/
def acking (pos : Nat) (s : State) : State :=
  { s with dir := { s.dir with acks := s.dir.acks.filter (· != pos) ++ [pos] } }

theorem exec_dirAck {m : GroupMsg} {s : State} {st : Staged} {id : Nat} (hof : ofGroup s m = true) (hm : isMaster s = true)
    (hd : s.dir.job = some id) (hs : s.dir.staged = some st) (ha : st.acked = true) (he : st.epoch = m.arg0.toNat) :
    exec (.dirAck m) s = .next (settle (tryCommit (acking m.srcPos.toNat s))) := by
  have hack : tryAck (acking m.srcPos.toNat s) = acking m.srcPos.toNat s := tryAck_acked hs ha
  show execDirAck m s = _
  unfold execDirAck
  rw [hof, hm, hd, hs, if_pos (by simp [he])]
  exact congrArg (fun t => Host.Outcome.next (settle (tryCommit t))) hack

theorem acking_contains (s : State) (pos p : Nat) :
    (acking pos s).dir.acks.contains p = (p == pos || s.dir.acks.contains p) := by
  rw [Bool.eq_iff_iff]
  simp only [acking, List.contains_eq_mem, decide_eq_true_eq, List.mem_append, List.mem_filter, bne_iff_ne, List.mem_singleton,
    Bool.or_eq_true, beq_iff_eq]
  tauto

theorem tryCommit_open {s : State} {st : Staged} {id : Nat} (hd : s.dir.job = some id) (hs : s.dir.staged = some st) (ha : st.acked = true) :
    tryCommit s = if (livePeers s).all (fun p => s.dir.acks.contains p) then
      closeUpdate (done 0) (commitStaged st.epoch (sendGroups 8 (livePeers s) st.epoch 0 0 [] s)) else s := by
  unfold tryCommit
  rw [hd, hs]
  dsimp only
  rw [ha, Bool.true_and]

theorem livePeers_acking (s : State) (pos : Nat) : (livePeers (acking pos s)).all (fun p => (acking pos s).dir.acks.contains p) =
    (livePeers s).all (fun p => p == pos || s.dir.acks.contains p) := by
  simp only [acking_contains]
  rfl

theorem rests_dirUpdate {j : Job} (h : j.phase = .dirUpdate) : Rests j := ⟨by simp [h], by simp [h], by simp [h], by simp [h]⟩

/-- The last acknowledgement commits the update, and its command is DONE (06 R179). -/
theorem dirAck_commits {m : GroupMsg} {s : State} {st : Staged} {j : Job} (hc : Calm s [j]) (hp : j.phase = .dirUpdate)
    (hof : ofGroup s m = true) (hm : isMaster s = true)
    (hd : s.dir.job = some j.id) (hs : s.dir.staged = some st) (ha : st.acked = true) (he : st.epoch = m.arg0.toNat)
    (hall : (livePeers s).all (fun p => p == m.srcPos.toNat || s.dir.acks.contains p) = true) :
    ∃ t, exec (.dirAck m) s = .next t ∧ Answered s t j (done 0) ∧ InEffect s t st st.epoch := by
  obtain ⟨u, hu⟩ : ∃ u, sendGroups 8 (livePeers (acking m.srcPos.toNat s)) st.epoch 0 0 [] (acking m.srcPos.toNat s) = u := ⟨_, rfl⟩
  have hx := exec_dirAck hof hm hd hs ha he
  rw [tryCommit_open (s := acking m.srcPos.toNat s) hd hs ha, livePeers_acking, if_pos hall, hu] at hx
  have hsent : Undisturbed s u := by
    rw [← hu]
    exact Undisturbed.trans (t := acking m.srcPos.toNat s) (.refl s) (sendGroups_undisturbed ..)
  have hudir : u.dir = (acking m.srcPos.toNat s).dir := by
    rw [← hu]
    exact sendGroups_dir ..
  obtain ⟨hcom, k, hdir⟩ := commitStaged_facts (epoch := st.epoch) (s := u) (by rw [hudir]; exact hs) (by
    rw [hsent.1, hc.1]
    simpa using rests_dirUpdate hp)
  obtain ⟨v, hv⟩ : ∃ v, commitStaged st.epoch u = v := ⟨_, rfl⟩
  rw [hv] at hcom hdir hx
  have hvs := hsent.trans hcom
  rw [closeUpdate_ended (done 0) (hvs.1.trans hc.1) (by rw [hdir, hudir]; exact hd)] at hx
  have hended : Ended s (endJob { v with dir := { v.dir with job := none, acks := [] } } j.id (done 0)) j (done 0) :=
    .before (t := { v with dir := { v.dir with job := none, acks := [] } }) hvs (.of_endJob (hvs.1.trans hc.1) _)
  refine ⟨_, hx, hended.answered hc.2.1 hc.2.2, ?_⟩
  rw [InEffect, (hended.settled hc.2.2 rfl).2]
  show v.dir.staged = none ∧ v.dir.epoch = st.epoch ∧ v.dir.entries = _
  rw [hdir, hudir]
  exact ⟨rfl, rfl, rfl⟩

/-- An acknowledgement that others have still to follow is noted. -/
theorem dirAck_noted {m : GroupMsg} {s : State} {st : Staged} {j : Job} (hc : Calm s [j]) (hp : j.phase = .dirUpdate)
    (hof : ofGroup s m = true) (hm : isMaster s = true)
    (hd : s.dir.job = some j.id) (hs : s.dir.staged = some st) (ha : st.acked = true) (he : st.epoch = m.arg0.toNat)
    (hall : (livePeers s).all (fun p => p == m.srcPos.toNat || s.dir.acks.contains p) = false) :
    exec (.dirAck m) s = .next (passed (acking m.srcPos.toNat s)) := by
  have hx := exec_dirAck hof hm hd hs ha he
  rw [tryCommit_open (s := acking m.srcPos.toNat s) hd hs ha, livePeers_acking, hall, if_neg (by decide)] at hx
  refine hx.trans (congrArg Host.Outcome.next (settle_quiet _ (quiet_one (j := j) hc.1 ?_)))
  unfold ended
  rw [hp]

/-- An update whose bound expires ends TIMEOUT, and what was staged is discarded (06 R179). -/
theorem dirPrepareExpiry_ends {s : State} {j : Job} (hc : Calm s [j]) (hp : j.phase = .dirUpdate) (hd : s.dir.job = some j.id) :
    ∃ t, exec .dirPrepareExpiry s = .next t ∧ Answered s t j (fails TIMEOUT 0) ∧ t.dir.staged = none ∧ t.dir.entries = s.dir.entries := by
  obtain ⟨u, hu⟩ : ∃ u, sendGroups 9 (livePeers s) (s.dir.epoch + 1) 0 0 [] s = u := ⟨_, rfl⟩
  have hsent : Undisturbed s u := by
    rw [← hu]
    exact sendGroups_undisturbed ..
  have hudir : u.dir = s.dir := by
    rw [← hu]
    exact sendGroups_dir ..
  have hjobs : u.gz.jobs = [j] := hsent.1.trans hc.1
  have hx : exec .dirPrepareExpiry s = .next (settle (closeUpdate (fails TIMEOUT 0) (dropStaged u))) := by
    show Host.Outcome.next (settle (abortUpdate (fails TIMEOUT 0) s)) = _
    unfold abortUpdate
    rw [hd, ← hu]
  rw [dropStaged_rests u (by
    rw [hjobs]
    simpa using rests_dirUpdate hp), closeUpdate_ended (fails TIMEOUT 0) (s := { u with dir := { u.dir with staged := none } }) hjobs
    (by rw [hudir]; exact hd)] at hx
  have hended : Ended s (endJob { u with dir := { u.dir with staged := none, job := none, acks := [] } } j.id (fails TIMEOUT 0)) j
      (fails TIMEOUT 0) :=
    .before (t := { u with dir := { u.dir with staged := none, job := none, acks := [] } }) hsent (.of_endJob hjobs _)
  refine ⟨_, hx, hended.answered hc.2.1 hc.2.2, ?_⟩
  rw [(hended.settled hc.2.2 rfl).2]
  exact ⟨rfl, show u.dir.entries = _ by rw [hudir]⟩

/-- Settles O44. -/
theorem barriersAndDirectoryUpdates : Obligations.BarriersAndDirectoryUpdates := by
  refine ⟨?_, ?_, fun q s j id mem hc hws hcf hch hd hq hl hb hbit => peerLoss_ends hc hws hcf hch hd hq hl hb hbit, ?_⟩
  · intro h p s i pre j id mem me lost hc ha
    refine ⟨fun x hx => grpBarrier_lost hc ha hx, fun hx => ?_⟩
    obtain ⟨hcalm, hgrp, hpos, -, -⟩ := atBarrier_facts (h := h) (p := p) hc
    have hexec := grpBarrier_waits hc ha hx
    refine ⟨fun hm => ?_, fun q hm hq => ?_, fun hm hb hw => grpBarrier_master hc ha hx hm hb hw⟩
    · rw [hexec, sendArrival_unknown (by rw [hgrp]; exact hm)]
      exact congrArg Host.Outcome.next (settle_quiet _ (quiet_one hcalm.1 rfl))
    · rw [hexec, sendArrival_one hcalm.1 rfl (by rw [hgrp]; exact hm), if_neg (by rw [hpos]; exact hq)]
      exact congrArg Host.Outcome.next (settle_quiet _ (quiet_one ((send_undisturbed ..).1.trans hcalm.1) rfl))
  · intro m s pos id mem me hof
    refine ⟨fun hm hw => ⟨fun hi hf hn ha => arrive_opens hof hm hw hi hf hn ha, fun j b hc hf => ⟨fun hb hmem hme ha =>
      arrive_releases hof hm hw hc hf hb hmem hme ha, fun n hb hn hmem hme => arrive_closes hof hm hw hc hf hb hn hmem hme⟩⟩,
      fun j n hm hc hb => release_ends hof hm hc hb⟩
  · intro m es s pos staged final
    refine ⟨fun hi hf => ⟨fun hn => dirPrepare_staged hi hf hn, fun st hs => dirCommit_final hi hf hs, dirAbort_dropped hi hf⟩,
      fun hi => dirStageDiscard_dropped hi, fun j hc hp hd => ⟨fun st hof hm hs ha he =>
        ⟨fun hall => dirAck_commits hc hp hof hm hd hs ha he hall, fun hall => dirAck_noted hc hp hof hm hd hs ha he hall⟩,
      dirPrepareExpiry_ends hc hp hd⟩⟩

end Sys2Proof.Proofs
end

section
/-! PROOFS. Chains: how a member opens, sends its pieces, sends them again, and ends with an abort (11 R304, R305). -/

namespace Sys2Proof.Proofs

open Sys2Proof Sys2Proof.Machine Sys2Proof.Laws

/-! ## Messages between members of this device -/

/-- Changes of a die's chains and of messages alone. -/
def withChains (s : State) (c : AMap (List Chain)) (n : List NetMsg) : State := { s with chains := c, net := n }

theorem readNat_of_mem {s t : State} (h : t.mem = s.mem) (hf : t.free = s.free) : readNat t = readNat s := by
  funext u a n
  unfold readNat
  rw [readBytes_of_mem h hf]

theorem ownPiece_of_mem {s t : State} (h : t.mem = s.mem) (hf : t.free = s.free) : ownPiece t = ownPiece s := by
  funext u p k
  unfold ownPiece
  rw [readNat_of_mem h hf]

/-- A piece sent to the next member on this device (11 R304). -/
theorem sendPiece_here {die : Nat} {c : Chain} {m : ChainMsg} {s : State} {dev x : Nat}
    (hm : c.members[c.cmd.position.toNat + 1]? = some (dev, x)) (hd : dev = myDevice s) :
    ∃ ch, sendPiece die c m s = withChains s ch (s.net ++ [.chain m dev x]) ∧ ∀ d, amGet [] ch d = if d = die then
      (chainsOf s die).map (fun k => if k.job == c.job then { k with sent := k.sent.filter (fun x => x.piece != m.piece) ++ [m] } else k)
      else chainsOf s d := by
  have hsent : toMember (c.members[c.cmd.position.toNat + 1]?) (fun d x => .chain m d x) s = withNet s (s.net ++ [.chain m dev x]) := by
    unfold toMember
    rw [hm]
    exact send_here (die := x) (src := x) (by rw [hd]; rfl)
  unfold sendPiece
  rw [hsent]
  exact ⟨_, rfl, fun d => amGet_amMod [] s.chains die d _⟩

/-- The messages of the pieces from k on, n of them. -/
def ownMsgs (s : State) (u : Nat) (p : PChainReduce) (chk ab : FVal) (dev x k n : Nat) : List NetMsg :=
  (List.range' k n).map (fun k => .chain (outMsg p k (ownPiece s u p k) chk ab) dev x)

theorem ownMsgs_of_mem {s t : State} (h : t.mem = s.mem) (hf : t.free = s.free) : ownMsgs t = ownMsgs s := by
  funext u p chk ab dev x k n
  unfold ownMsgs
  rw [ownPiece_of_mem h hf]

theorem sendOwn_here {die u : Nat} {c : Chain} {chk ab : FVal} {dev x : Nat} (n : Nat) (s : State) (hn : n ≤ pieceCount c.cmd)
    (hm : c.members[c.cmd.position.toNat + 1]? = some (dev, x)) (hd : dev = myDevice s) :
    ∃ ch, sendOwn die u c chk ab n s = withChains s ch (s.net ++ ownMsgs s u c.cmd chk ab dev x (pieceCount c.cmd - n) n) := by
  induction n generalizing s with
  | zero => exact ⟨s.chains, by simp [sendOwn, ownMsgs, withChains]⟩
  | succ n ih =>
    obtain ⟨ch, hsent, -⟩ := sendPiece_here (die := die) (m := outMsg c.cmd (pieceCount c.cmd - (n + 1))
      (ownPiece s u c.cmd (pieceCount c.cmd - (n + 1))) chk ab) hm hd
    obtain ⟨ch', hrest⟩ := ih (withChains s ch (s.net ++ [.chain (outMsg c.cmd (pieceCount c.cmd - (n + 1))
      (ownPiece s u c.cmd (pieceCount c.cmd - (n + 1))) chk ab) dev x])) (by omega) hd
    refine ⟨ch', ?_⟩
    unfold sendOwn
    dsimp only
    rw [hsent, hrest, ownMsgs_of_mem (s := s) (t := withChains s ch _) rfl rfl, show pieceCount c.cmd - n = pieceCount c.cmd - (n + 1) + 1 by omega]
    show withChains s ch' ((s.net ++ _) ++ _) = _
    rw [List.append_assoc, List.singleton_append]
    rfl

/-! ## Opening -/

/-- A chain whose members are all on this device has a way for each hop (11 R305). -/
theorem hopOk_here {s : State} {c : Chain} (h : ∀ m ∈ c.members, m.1 = myDevice s) (pos : Nat) : hopOk s c pos = true := by
  unfold hopOk
  split
  · next d x hm =>
    have hd : d = myDevice s := h _ (List.mem_of_getElem? hm)
    simp [reachable, hd]
  · rfl

/-- The chain that a command opens (11 R303). -/
def newChain (j : Job) (p : PChainReduce) (b : List Byte) : Chain :=
  { job := j.id, ctx := j.ring / 256, cmd := p, members := tableMembers b p.length.toNat
    stats := fld b 0x0E 1, statSlot := fld b 0x0C 2, got := [], sent := [], resent := false, ended := false }

/-- A die with one more chain, whose scratch is undefined (11 R303). -/
def withChain (die : Nat) (j : Job) (p : PChainReduce) (b : List Byte) (s : State) : State :=
  markUndef (modChains s die (fun l => l.filter (fun x => x.cmd.chainId != p.chainId || !x.ended) ++ [newChain j p b]))
    [(fld b 0x10 8, 16 * p.elements.toNat)]

theorem chainsOf_withChain (die : Nat) (j : Job) (p : PChainReduce) (b : List Byte) (s : State) :
    chainsOf (withChain die j p b s) die =
      (chainsOf s die).filter (fun x => x.cmd.chainId != p.chainId || !x.ended) ++ [newChain j p b] := by
  have h := amGet_amMod [] s.chains die die (fun l => l.filter (fun x => x.cmd.chainId != p.chainId || !x.ended) ++ [newChain j p b])
  rw [if_pos rfl] at h
  exact h

/-- The outcome of an opening. -/
def opened : State × Option End → RunRes
  | (s, some e) => ends s e
  | (s, none) => waits s (.chain true)

theorem openMember_waits {die : Nat} {j : Job} {p : PChainReduce} {b : List Byte} {s : State}
    (h : ∀ m ∈ tableMembers b p.length.toNat, m.1 = myDevice s) (hp : p.position.toNat ≠ 0) :
    openMember die j p b s = (withChain die j p b s, none) := by
  have hop := hopOk_here (s := s) (c := newChain j p b) h
  unfold openMember
  extract_lets c pos s1 s2
  rw [show hopOk s c (pos + 1) = true from hop _, show hopOk s c (pos - 1) = true from hop _, if_neg (by simp)]
  exact if_pos (by simpa using hp)

/-- The member at position 0 sends every piece to the next, and ends (11 R304). -/
theorem openMember_first {die : Nat} {j : Job} {p : PChainReduce} {b : List Byte} {s : State} {dev x : Nat}
    (h : ∀ m ∈ tableMembers b p.length.toNat, m.1 = myDevice s) (hp : p.position.toNat = 0)
    (hm : (tableMembers b p.length.toNat)[1]? = some (dev, x)) :
    ∃ ch, openMember die j p b s = (withChains (withChain die j p b s) ch (s.net ++ ownMsgs (withChain die j p b s) j.unit p
      (pieceSums (ownAll (withChain die j p b s) j.unit p)).1 (pieceSums (ownAll (withChain die j p b s) j.unit p)).2 dev x 0 (pieceCount p)),
      some (chainEnd (newChain j p b))) := by
  have hop := hopOk_here (s := s) (c := newChain j p b) h
  obtain ⟨ch, hsent⟩ := sendOwn_here (die := die) (u := j.unit) (c := newChain j p b)
    (chk := (pieceSums (ownAll (withChain die j p b s) j.unit p)).1) (ab := (pieceSums (ownAll (withChain die j p b s) j.unit p)).2)
    (pieceCount p) (withChain die j p b s) (Nat.le_refl _) (by rw [show (newChain j p b).cmd.position.toNat = 0 from hp]; exact hm)
    (show dev = _ from h _ (List.mem_of_getElem? hm))
  rw [show (newChain j p b).cmd = p from rfl, Nat.sub_self] at hsent
  unfold openMember
  extract_lets c pos s1 s2
  rw [show hopOk s c (pos + 1) = true from hop _, show hopOk s c (pos - 1) = true from hop _, if_neg (by simp), if_neg (by simpa using hp)]
  show ∃ ch, (modChain (sendOwn die j.unit c (pieceSums (ownAll s2 j.unit p)).1 (pieceSums (ownAll s2 j.unit p)).2 (pieceCount p) s2) die j.id
    (fun c => { c with ended := true }), some (chainEnd c)) = _
  exact ⟨_, congrArg (fun s => (modChain s die j.id (fun c => { c with ended := true }), some (chainEnd (newChain j p b)))) hsent⟩

/-! ## CHAIN_REDUCE (11 R303-R305) -/

/-- Where nothing of a chain's table and range stands in its way. -/
structure ChainClear (p : PChainReduce) (j : Job) (s : State) : Prop where
  none_open : chainsOf s (uDie j.unit) = []
  table_clean : poisonIn s p.chainAddr.toNat (64 + 8 * p.length.toNat) = none
  table_good : tableBad (tableBytes s j.unit p) p.length.toNat = none

theorem tryChain_differs {p : PChainReduce} {j : Job} {s : State} {d : Nat} (h : ChainClear p j s)
    (hd : tableDiffers s (uDie j.unit) p (tableBytes s j.unit p) = some d) : tryChain p j s = ends s (fails BAD_STATE d) := by
  obtain ⟨hnone, hclean, hgood⟩ := h
  unfold tryChain openChain
  dsimp only
  rw [hnone, if_neg (by simp), hclean]
  dsimp only
  rw [hgood, hd]

theorem tryChain_opens {p : PChainReduce} {j : Job} {s : State} (h : ChainClear p j s)
    (hd : tableDiffers s (uDie j.unit) p (tableBytes s j.unit p) = none)
    (ha : access s (j.ring / 256) j.unit (fld (tableBytes s j.unit p) 0x10 8) (16 * p.elements.toNat) pWrite = none)
    (hs : poisonIn s p.srcAddr.toNat (p.elements.toNat * chainSize p.fmt.toNat) = none)
    (hl : p.position.toNat + 1 ≠ p.length.toNat ∨ fld (tableBytes s j.unit p) 0x0E 1 = 0) :
    tryChain p j s = opened (openMember (uDie j.unit) j p (tableBytes s j.unit p) s) := by
  obtain ⟨hnone, hclean, hgood⟩ := h
  unfold tryChain openChain
  dsimp only
  rw [hnone, if_neg (by simp), hclean]
  dsimp only
  rw [hgood, hd]
  dsimp only
  rw [ha]
  dsimp only
  rw [if_neg (by
    rcases hl with hl | hl
    · simp [hl]
    · simp [hl]), hs]
  rfl

/-! ## Aborts and pieces sent again -/

theorem chainsOf_modChain (s : State) (die x job : Nat) (f : Chain → Chain) :
    chainsOf (modChain s die job f) x = if x = die then (chainsOf s die).map (fun c => if c.job == job then f c else c) else chainsOf s x :=
  amGet_amMod [] s.chains die x _

/-- A command whose chain closes has ended. -/
theorem closeChain_ended {die : Nat} {s : State} {j : Job} (e : End) (hj : s.gz.jobs = [j]) : Ended s (closeChain die j.id e s) j e :=
  ⟨jobs_endJob_one (modChain s die j.id _) j e hj, rfl, rfl, rfl, rfl, rfl⟩

/-- A chain that waits for pieces is not tried again. -/
theorem pumpChains_open {die : Nat} {j : Job} (s : State) (hp : j.phase = .chain true) : pumpChains die [j] s = s := by
  unfold pumpChains pumpChains
  rw [hp]
  split
  · next h => exact absurd h (by simp)
  · rfl

/-- The settling of an ended command keeps messages, chains and the Watersheds. -/
theorem Ended.settled_frame {s t : State} {j : Job} {e : End} (h : Ended s t j e) :
    (settle t).net = t.net ∧ (settle t).chains = t.chains ∧ (settle t).ws = t.ws := by
  obtain ⟨un, hl⟩ := leaving_eq t { j with phase := .ending e } e
  rw [settle_ended t _ e h.1 rfl]
  show (finish _ _ _).net = _ ∧ (finish _ _ _).chains = _ ∧ (finish _ _ _).ws = _
  obtain ⟨-, -, -, -, -, hws, -, -, -, -, hch, -, -, -, hnet, -, -⟩ := finish_frame (leaving t { j with phase := .ending e } e) { j with phase := .ending e } e
  rw [hnet, hch, hws, hl]
  exact ⟨rfl, rfl, rfl⟩

/-! ## What opens in the state in which a packet runs -/

theorem exec_chainReduce (h : Hdr) (p : PChainReduce) (f : Faults) (s : State) :
    exec (.chainReduce h p f) s = .next (issue (preChainReduce h p s) (runChainReduce p f) (.chainReduce h p f) s) := rfl

section
variable {h : Hdr} {p : PChainReduce} {f : Faults} {s : State}

theorem chainClear_begun (hnone : chainsOf s (uDie (jobFor s (preChainReduce h p s) (.chainReduce h p f)).unit) = [])
    (hclean : poisonIn s p.chainAddr.toNat (64 + 8 * p.length.toNat) = none)
    (hgood : tableBad (tableBytes (begun s (.chainReduce h p f)) (jobFor s (preChainReduce h p s) (.chainReduce h p f)).unit p) p.length.toNat = none) :
    ChainClear p (jobFor s (preChainReduce h p s) (.chainReduce h p f)) (begun s (.chainReduce h p f)) := by
  refine ⟨?_, (poisonIn_begun ..).trans hclean, hgood⟩
  have hchains : (begun s (.chainReduce h p f)).chains = s.chains := by simp
  unfold chainsOf
  rw [hchains]
  exact hnone

theorem access_begun (i : Instr) : access (begun s i) = access s := access_congr (by simp) (by simp)

theorem myDevice_begun (i : Instr) : myDevice (begun s i) = myDevice s := by
  have hitems : (begun s i).hw.items = s.hw.items := by simp
  unfold myDevice myGroup myPos item
  rw [hitems]

end

theorem chainEnd_first {c : Chain} (hp : c.cmd.position.toNat = 0) (hr : c.resent = false) : chainEnd c = doneChecked 1 0 0x70 := by
  have hp' : c.cmd.position = 0 := BitVec.eq_of_toNat_eq hp
  unfold chainEnd
  rw [hp', hr]
  rfl

theorem ownMsgs_range (s : State) (u : Nat) (p : PChainReduce) (chk ab : FVal) (dev x n : Nat) :
    ownMsgs s u p chk ab dev x 0 n = (List.range n).map (fun k => .chain (outMsg p k (ownPiece s u p k) chk ab) dev x) := by
  rw [List.range_eq_range']
  rfl

theorem ownAll_of_mem {s t : State} (h : t.mem = s.mem) (hf : t.free = s.free) : ownAll t = ownAll s := by
  funext u p
  unfold ownAll
  rw [ownPiece_of_mem h hf]

/-- How an abort ends a member's command (11 R305; 05 R141). -/
def abortEnd : Option Word32 → End
  | some u => checkFailed u.toNat
  | none => fails BAD_STATE 0x3C

theorem exec_chainAbort {die : CDie} {id : Word32} {failed : Option Word32} {s r : State} {c : Chain}
    (ho : openChain s die.val id.toNat = some c) (hr : receive s (.chainAbort id.toNat (failed.map (·.toNat)) (myDevice s) die.val) = r) :
    exec (.chainAbort die id failed) s = .next (settle (pumpChains die.val r.gz.jobs (closeChain die.val c.job (abortEnd failed) r))) := by
  show execChainAbort die id failed s = _
  unfold execChainAbort
  dsimp only
  rw [hr, show openChain r die.val id.toNat = some c by rw [← hr]; exact ho]
  cases failed <;> rfl

theorem Ended.of_receive {s r t : State} {m : NetMsg} {j : Job} {e : End} (hr : receive s m = r) (h : Ended r t j e) : Ended s t j e := by
  rw [← hr] at h
  exact h

/-- A chain that has closed is open no more. -/
theorem openChain_closed (s : State) (die job : Nat) (e : End) (id : Nat) :
    (openChain (closeChain die job e s) die id).map (·.job) ≠ some job := by
  have hchains : chainsOf (closeChain die job e s) die =
      (chainsOf s die).map (fun c => if c.job == job then { c with ended := true, got := [] } else c) :=
    (chainsOf_modChain s die die job _).trans (if_pos rfl)
  intro h
  obtain ⟨c, hc, hjob⟩ := Option.map_eq_some_iff.1 h
  have hmem := List.mem_of_find?_eq_some hc
  have hopen := List.find?_some hc
  rw [hchains] at hmem
  obtain ⟨k, -, rfl⟩ := List.mem_map.1 hmem
  split at hopen
  · simp at hopen
  · next hne =>
    rw [if_neg hne] at hjob
    exact hne (by simp [hjob])

/-- Settles O41. -/
theorem chainsOpenResendAndAbort : Obligations.ChainsOpenResendAndAbort := by
  constructor
  · intro h p f s i pre j s1 die b ms pos hc ha hnone hclean hgood
    have hclear : ChainClear p j s1 := chainClear_begun hnone hclean hgood
    have hcalm : Calm s1 [] := calm_begun i hc.1 hc.2.1 hc.2.2
    refine ⟨fun d hd => ?_, fun hd hacc hsrc hhere => ⟨fun hpos dev x hm => ?_, fun hpos hlast => ?_⟩⟩
    · exact ⟨_, exec_of_run_ends (exec_chainReduce h p f s) ha (tryChain_differs hclear hd),
        answered_replied hcalm (.of_rings rfl _) (by simp)⟩
    · have hlen : 2 ≤ p.length.toNat := by
        have hfield := fields_of_accepts ha (0x44, 2 ≤ p.length.toNat && p.length.toNat ≤ 8192) (by simp [preChainReduce, pre])
        simp only [Bool.and_eq_true, decide_eq_true_eq] at hfield
        exact hfield.1
      have hhere1 : ∀ m ∈ ms, m.1 = myDevice s1 := fun m hm => (hhere m hm).trans (myDevice_begun i).symm
      obtain ⟨ch, hopen⟩ := openMember_first (die := die) (j := j) (p := p) (s := s1) hhere1 hpos hm
      have hrun : tryChain p j s1 = opened _ := tryChain_opens hclear hd (by rw [access_begun]; exact hacc) (by rw [poisonIn_begun]; exact hsrc)
        (.inl (by rw [show p.position.toNat = 0 from hpos]; omega))
      rw [hopen] at hrun
      rw [ownMsgs_range, ownPiece_of_mem (t := withChain die j p b s1) (s := markUndef s1 [(fld b 0x10 8, 16 * p.elements.toNat)]) rfl rfl,
        ownAll_of_mem (t := withChain die j p b s1) (s := markUndef s1 [(fld b 0x10 8, 16 * p.elements.toNat)]) rfl rfl,
        chainEnd_first (c := newChain j p b) hpos rfl] at hrun
      have hx := exec_of_run_ends (exec_chainReduce h p f s) ha hrun
      have hnet : s1.net = s.net := by simp [s1]
      rw [hnet] at hx
      obtain ⟨n, hn⟩ : ∃ n, s.net ++ (List.range (pieceCount p)).map (fun k => NetMsg.chain
        (outMsg p k (ownPiece (markUndef s1 [(fld b 0x10 8, 16 * p.elements.toNat)]) j.unit p k)
          (pieceSums (ownAll (markUndef s1 [(fld b 0x10 8, 16 * p.elements.toNat)]) j.unit p)).1
          (pieceSums (ownAll (markUndef s1 [(fld b 0x10 8, 16 * p.elements.toNat)]) j.unit p)).2) dev x) = n := ⟨_, rfl⟩
      obtain ⟨w, hw⟩ : ∃ w, withChains (withChain die j p b s1) ch n = w := ⟨_, rfl⟩
      have hwcalm : Calm w [] := by rw [← hw]; exact hcalm
      have hwnow : w.now = s.now := by
        rw [← hw]
        show s1.now = s.now
        simp [s1]
      have hwslot : SameSlot s1 w j.ring := by rw [← hw]; exact .of_rings rfl _
      have hwnet : w.net = n := by rw [← hw]; rfl
      rw [hn, hw] at hx
      refine ⟨_, hx, answered_replied hwcalm hwslot hwnow, ?_⟩
      rw [replied_of_idle hwcalm rfl]
      show (finish w j _).net = s.net ++ _
      refine Eq.trans ?_ (hwnet.trans hn.symm)
      simp
    · have hhere1 : ∀ m ∈ ms, m.1 = myDevice s1 := fun m hm => (hhere m hm).trans (myDevice_begun i).symm
      have hrun : tryChain p j s1 = opened _ := tryChain_opens hclear hd (by rw [access_begun]; exact hacc) (by rw [poisonIn_begun]; exact hsrc)
        (hlast.imp_left fun h => by omega)
      rw [openMember_waits hhere1 hpos] at hrun
      have hx := exec_of_run_waits (exec_chainReduce h p f s) ha hrun
      have hchains : chainsOf (withChain die j p b s1) die = [newChain j p b] := by
        rw [chainsOf_withChain, hclear.none_open]
        rfl
      have hnet : (withChain die j p b s1).net = s.net := by
        show s1.net = s.net
        simp [s1]
      have hidle : Idle (withChain die j p b s1) := hcalm.1
      obtain ⟨w, hw⟩ : ∃ w, withChain die j p b s1 = w := ⟨_, rfl⟩
      rw [hw] at hx hchains hnet hidle
      have hjobs := jobs_park w j (.chain true) hidle
      rw [settle_quiet _ (quiet_one hjobs rfl)] at hx
      refine ⟨_, hx, congrArg (Option.map (·.phase)) (jobOf_one hjobs), ?_, hnet⟩
      show ((chainsOf w die).find? _).map _ = _
      rw [hchains, List.find?_cons_of_pos (by simp [newChain])]
      rfl
  · intro die id s c d
    refine ⟨fun piece m dev x hq hfind hsent hnext hdev => ?_, fun failed j hc hopen hid hp => ?_⟩
    · obtain ⟨ch, hpiece, -⟩ := sendPiece_here (die := d) (m := m) (s := receive s (.chainResend id.toNat piece (myDevice s) d)) hnext hdev
      have hx : exec (.chainResendRequest die id piece) s =
          .next (settle (sendPiece d c m (receive s (.chainResend id.toNat piece (myDevice s) d)))) := by
        show execChainResendRequest die id piece s = _
        unfold execChainResendRequest
        dsimp only
        rw [show (chainsOf (receive s (.chainResend id.toNat piece (myDevice s) die.val)) die.val).find? _ = some c from hfind]
        dsimp only
        rw [hsent]
      rw [hpiece] at hx
      exact ⟨_, hx.trans (congrArg Host.Outcome.next (settle_quiet _ (quiet_of_same hq rfl rfl))), rfl, rfl, rfl⟩
    · obtain ⟨r, hr⟩ : ∃ r, receive s (.chainAbort id.toNat (failed.map (·.toNat)) (myDevice s) d) = r := ⟨_, rfl⟩
      have hjobs : r.gz.jobs = [j] := by rw [← hr]; exact hc.1
      have hchains : chainsOf r d = chainsOf s d := by rw [← hr]; rfl
      have hx := exec_chainAbort (failed := failed) hopen hr
      have hended := Ended.of_receive hr (closeChain_ended (die := d) (abortEnd failed) hjobs)
      rw [hjobs, pumpChains_open _ hp, ← hid] at hx
      refine ⟨_, hx, hended.answered hc.2.1 hc.2.2, ?_⟩
      rw [openChain, chainsOf, hended.settled_frame.2.1, ← hid]
      exact openChain_closed r d j.id (abortEnd failed) id.toNat

end Sys2Proof.Proofs
end

section
/-! PROOFS. Pieces that reach a member of a chain: sent on, written by the last member, or ending the chain (11 R304, R305; 05 R141). -/

namespace Sys2Proof.Proofs

open Sys2Proof Sys2Proof.Machine Sys2Proof.Laws

/-! ## Memory after an end -/

/-- Ranges that an end may write do not change what is read apart from them. -/
theorem bytesAt_of_memSame {s t : State} {l : List (Nat × Nat)} {a n : Nat} (h : MemSame s t l) (hl : Apart [(a, n)] l) :
    bytesAt t a n = bytesAt s a n := by
  refine bytesAt_congr fun x hx hx' => h x fun r hr hin => ?_
  have := hl (a, n) (List.mem_singleton.2 rfl) r hr
  simp only at this
  omega

/-- The settling of an ended command writes its reply and its DONE_ADDR word alone. -/
theorem Ended.memSame {s t : State} {j : Job} {e : End} (h : Ended s t j e) (hm : Memory.wf s.mem.cells = true) :
    MemSame s (settle t) (replyWrites s j) := by
  obtain ⟨hj, hr, hmem, -, -, -⟩ := h
  obtain ⟨un, hl⟩ := leaving_eq t { j with phase := .ending e } e
  have hsame := finish_memSame (leaving t { j with phase := .ending e } e) { j with phase := .ending e } e (by
    rw [hl]
    show Memory.wf t.mem.cells = true
    rw [hmem]
    exact hm)
  have hwrites : replyWrites (leaving t { j with phase := .ending e } e) { j with phase := .ending e } = replyWrites s j := by
    unfold replyWrites ringOf
    rw [hl]
    show _ :: _ = _
    rw [hr]
  rw [settle_ended t _ e hj rfl]
  rw [hwrites] at hsame
  intro x hx
  refine (hsame x hx).trans ?_
  rw [hl]
  exact byteAt_of_mem (s := s) (t := t) hmem x

theorem partialPoison_of_mem {s t : State} (h : t.mem = s.mem) (a n : Nat) : partialPoison t a n = partialPoison s a n := by
  have hp := (SamePlaces.of_mem h).poisonIn
  unfold partialPoison
  simp only [hp]

/-! ## A piece that reaches a member -/

/-- A chain with a piece received. -/
def gathered (m : ChainMsg) (c : Chain) : Chain := { c with got := c.got.filter (fun x => x.piece != m.piece) ++ [m] }

/-- A state with a chain's piece received. -/
def withPiece (d : Nat) (m : ChainMsg) (c : Chain) (s : State) : State := modChain s d c.job (fun _ => gathered m c)

/-- A member's chain and its command, and a piece for it. -/
structure Awaits (die : CDie) (m : ChainMsg) (s : State) (j : Job) (c : Chain) : Prop where
  calm : Calm s [j]
  is_open : openChain s die.val m.chainId.toNat = some c
  job : j.id = c.job
  phase : j.phase = .chain true

section
variable {die : CDie} {m : ChainMsg} {f : Faults} {s r : State} {j : Job} {c : Chain}

theorem exec_piece_differs (h : Awaits die m s j c) (hr : receive s (.chain m (myDevice s) die.val) = r) (ha : pieceAgrees c.cmd m = false) :
    exec (.chainPiece die m f) s =
      .next (settle (pumpChains die.val r.gz.jobs (closeChain die.val c.job (fails BAD_STATE 0x3C) (abortAll c none r)))) := by
  obtain ⟨hc, ho, hid, -⟩ := h
  show execChainPiece die m f s = _
  unfold execChainPiece
  dsimp only
  rw [ho]
  dsimp only
  rw [show jobOf s c.job = some j by rw [← hid]; exact jobOf_one hc.1]
  dsimp only
  rw [hr, ha]
  rfl

/-- What a piece that agrees comes to at a member that has not all pieces, or has them (11 R304). -/
def pieceTaken (d : Nat) (u : Nat) (j : Job) (c : Chain) (bad : Bool) (s : State) : State :=
  match allPieces c with
  | none => s
  | some ms => pumpChains d s.gz.jobs (closeHop d u j c ms bad s)

theorem exec_piece_agrees (h : Awaits die m s j c) (hr : receive s (.chain m (myDevice s) die.val) = r) (ha : pieceAgrees c.cmd m = true)
    (hp : m.piece < pieceCount c.cmd) (hs : poisonIn s c.cmd.srcAddr.toNat (c.cmd.elements.toNat * chainSize c.cmd.fmt.toNat) = none) :
    exec (.chainPiece die m f) s = .next (settle (pieceTaken die.val j.unit j (gathered m c) (f.mismatch != 0)
      (if c.cmd.position.toNat + 1 < c.cmd.length.toNat && m.piece + 1 < pieceCount c.cmd then
        sendPiece die.val (gathered m c) (outMsg c.cmd m.piece (outPiece (withPiece die.val m c r) j.unit (gathered m c) m) fZero fZero)
          (withPiece die.val m c r) else withPiece die.val m c r))) := by
  obtain ⟨hc, ho, hid, -⟩ := h
  have hs' : poisonIn r c.cmd.srcAddr.toNat (c.cmd.elements.toNat * chainSize c.cmd.fmt.toNat) = none := by
    rw [← hr]
    exact ((SamePlaces.of_mem (s := s) (t := receive s _) rfl).poisonIn _ _).trans hs
  show execChainPiece die m f s = _
  unfold execChainPiece pieceTaken
  dsimp only
  rw [ho]
  dsimp only
  rw [show jobOf s c.job = some j by rw [← hid]; exact jobOf_one hc.1]
  dsimp only
  rw [hr, ha, if_neg (by decide), if_neg (by omega), hs']
  dsimp only
  split
  · next hall =>
    rw [show allPieces (gathered m c) = none from hall]
    rfl
  · next ms hall =>
    rw [show allPieces (gathered m c) = some ms from hall]
    rfl

end

/-! ## What a piece comes to -/

theorem abortAll_undisturbed (c : Chain) (failed : Option Nat) (s : State) : Undisturbed s (abortAll c failed s) :=
  .foldl _ (fun s m => by
    split
    · exact .refl s
    · exact send_undisturbed ..) _ s

/-- The last member writes the result (11 R304). -/
theorem closeHop_writes {d u : Nat} {j : Job} {c : Chain} {ms : List ChainMsg} {s : State} (hclean : chainClean c.cmd ms = true)
    (hlast : c.cmd.position.toNat + 1 = c.cmd.length.toNat) (hstats : c.stats = 0)
    (hp : partialPoison s c.cmd.dstAddr.toNat (lastBytes c.cmd (ms.flatMap (outPiece s u c))).length = none) :
    closeHop d u j c ms false s = closeChain d c.job (chainEnd c)
      (storeLazy s (whoOf j) c.cmd.dstAddr.toNat (lastBytes c.cmd (ms.flatMap (outPiece s u c)))) := by
  unfold closeHop
  dsimp only
  rw [hclean, if_neg (by decide), if_pos hlast, hp]
  dsimp only
  rw [if_pos hstats]

/-- A second failure of a member's check ends the chain with the previous member's unit (05 R141). -/
theorem closeHop_fails {d u : Nat} {j : Job} {c : Chain} {ms : List ChainMsg} {s : State} (hr : c.resent = true) :
    closeHop d u j c ms true s = chainFailed d c s := by
  unfold closeHop
  dsimp only
  rw [hr]
  rfl

theorem outPiece_withPiece {d : Nat} {m : ChainMsg} {c : Chain} {r s : State} (hm : r.mem = s.mem) (hf : r.free = s.free) (u : Nat) :
    outPiece (withPiece d m c r) u (gathered m c) = outPiece s u c := by
  funext k
  unfold outPiece
  rw [ownPiece_of_mem (s := s) (t := withPiece d m c r) hm hf]
  rfl

theorem replyWrites_of_rings {s t : State} (h : t.gz.rings = s.gz.rings) (j : Job) : replyWrites t j = replyWrites s j := by
  unfold replyWrites ringOf
  rw [h]

/-- The result that the last member has stored, and its answer. -/
theorem written_answered {s x : State} {j : Job} {d a : Nat} {w : Who} {e : End} {bs : List Byte} (hc : Calm s [j]) (hx : Undisturbed s x)
    (hapart : Apart [(a, bs.length)] (replyWrites s j)) :
    Answered s (settle (closeChain d j.id e (storeLazy x w a bs))) j e ∧
      (settle (closeChain d j.id e (storeLazy x w a bs))).net = x.net ∧
      bytesAt (settle (closeChain d j.id e (storeLazy x w a bs))) a bs.length = bs ∧
      MemSame s (settle (closeChain d j.id e (storeLazy x w a bs))) ((a, bs.length) :: replyWrites s j) := by
  obtain ⟨hj, hr, hmem, hsig, hnow, hitems⟩ := hx
  have hcx : Calm x [j] := Undisturbed.calm ⟨hj, hr, hmem, hsig, hnow, hitems⟩ hc
  obtain ⟨y, hy⟩ : ∃ y, storeLazy x w a bs = y := ⟨_, rfl⟩
  have hcy : Calm y [j] := by rw [← hy]; exact calm_storeLazy w a bs hcx
  have hry : y.gz.rings = s.gz.rings := by rw [← hy, ← hr]; simp
  have hny : y.now = s.now := by rw [← hy, ← hnow]; simp
  have hnet : y.net = x.net := by rw [← hy]; simp
  have hended : Ended y (closeChain d j.id e y) j e := closeChain_ended e hcy.1
  have hsame := hended.memSame hcy.2.1
  rw [replyWrites_of_rings hry] at hsame
  rw [hy]
  refine ⟨hended.answers hcy.2.1 hcy.2.2 (.of_rings hry _) hny (.refl _), hended.settled_frame.1.trans hnet, ?_, fun b hb => ?_⟩
  · rw [bytesAt_of_memSame hsame hapart, ← hy]
    exact bytesAt_storeLazy x w a bs hcx.2.1
  · refine (hsame b fun k hk => hb k (List.mem_cons_of_mem _ hk)).trans ?_
    rw [← hy, byteAt_storeLazy x w a bs b hcx.2.1, if_neg (hb (a, bs.length) List.mem_cons_self)]
    exact byteAt_of_mem hmem b

/-- Settles O42. -/
theorem chainPiecesAreCombined : Obligations.ChainPiecesAreCombined := by
  intro die m f s j c d p got net hc ho hid hph hhere
  have haw : Awaits die m s j c := ⟨hc, ho, hid, hph⟩
  obtain ⟨r, hr⟩ : ∃ r, receive s (.chain m (myDevice s) d) = r := ⟨_, rfl⟩
  have hrs : Undisturbed s r := by rw [← hr]; exact .refl s
  have hrnet : r.net = net := by rw [← hr]; rfl
  refine ⟨fun ha => ?_, fun ha hp hs => ⟨fun hall dev x hm hpiece hpos => ?_, fun ms hall => ⟨fun hf hclean hlast hstats => ?_, fun hf hres hlast => ?_⟩⟩⟩
  · have habort := hrs.trans (abortAll_undisturbed c none r)
    have hended := Ended.before habort (closeChain_ended (die := d) (fails BAD_STATE 0x3C) (habort.1.trans hc.1))
    have hx := exec_piece_differs (f := f) haw hr ha
    rw [hrs.1, hc.1, pumpChains_open _ hph, ← hid] at hx
    exact ⟨_, hx, hended.answered hc.2.1 hc.2.2⟩
  · have hx := exec_piece_agrees (f := f) haw hr ha hp hs
    obtain ⟨ch, hsent, -⟩ := sendPiece_here (die := d) (c := gathered m c) (s := withPiece d m c r)
      (m := outMsg p m.piece (outPiece (withPiece d m c r) j.unit (gathered m c) m) fZero fZero) hm
      (show dev = myDevice (withPiece d m c r) by rw [← hr]; exact hhere _ (List.mem_of_getElem? hm))
    rw [if_pos (by simpa using ⟨hpos, hpiece⟩), hsent, outPiece_withPiece (s := s) (by rw [← hr]; rfl) (by rw [← hr]; rfl), pieceTaken,
      show allPieces (gathered m c) = none from hall] at hx
    have hjobs : (withPiece d m c r).gz.jobs = [j] := hrs.1.trans hc.1
    refine ⟨_, hx.trans (congrArg Host.Outcome.next (settle_quiet _ (quiet_one hjobs (by unfold ended; rw [hph])))), jobOf_one hjobs, ?_⟩
    show (withPiece d m c r).net ++ _ = _
    rw [show (withPiece d m c r).net = net from hrnet]
  · intro bs hpp hapart
    have hx := exec_piece_agrees (f := f) haw hr ha hp hs
    have hout := outPiece_withPiece (d := d) (m := m) (c := c) (r := r) (s := s) (by rw [← hr]; rfl) (by rw [← hr]; rfl) j.unit
    have hund : Undisturbed s (withPiece d m c r) := hrs
    have hclose := closeHop_writes (d := d) (u := j.unit) (j := j) (c := gathered m c) (ms := ms) (s := withPiece d m c r) hclean hlast hstats (by
      rw [hout]
      exact (partialPoison_of_mem (t := withPiece d m c r) (s := s) (by rw [← hr]; rfl) _ _).trans hpp)
    rw [hout] at hclose
    rw [if_neg (by rw [show c.cmd.position.toNat + 1 = c.cmd.length.toNat from hlast]; simp), pieceTaken, show allPieces (gathered m c) = some ms from hall] at hx
    dsimp only at hx
    rw [hf, show ((0 : Nat) != 0) = false from rfl, hclose, hund.1, hc.1, pumpChains_open _ hph, show (gathered m c).job = j.id from hid.symm] at hx
    obtain ⟨hans, hnet, hbytes, hmem⟩ := written_answered (d := d) (a := p.dstAddr.toNat) (w := whoOf j) (e := chainEnd c) (bs := bs) hc hund hapart
    exact ⟨_, hx, hans, hnet.trans hrnet, hbytes, hmem⟩
  · have hx := exec_piece_agrees (f := f) haw hr ha hp hs
    have hund : Undisturbed s (withPiece d m c r) := hrs
    rw [if_neg (by rw [show c.cmd.position.toNat + 1 = c.cmd.length.toNat from hlast]; simp), pieceTaken, show allPieces (gathered m c) = some ms from hall] at hx
    dsimp only at hx
    rw [show (f.mismatch != 0) = true by simpa using hf, closeHop_fails (c := gathered m c) hres, hund.1, hc.1, pumpChains_open _ hph] at hx
    have habort := hund.trans (abortAll_undisturbed (gathered m c) (some (memberUnit c (p.position.toNat - 1))) (withPiece d m c r))
    have hended := Ended.before habort (closeChain_ended (die := d)
      { checkFailed (memberUnit c (p.position.toNat - 1)) 2 [(0x70, 2)] with replays := 1 } (habort.1.trans hc.1))
    rw [hid] at hended
    exact ⟨_, hx, hended.answered hc.2.1 hc.2.2⟩

end Sys2Proof.Proofs
end

section
/-! PROOFS. Cancelling a tag at its source (06 R173; 07 R201, R202). -/

namespace Sys2Proof.Proofs

open Sys2Proof Sys2Proof.Machine Sys2Proof.Laws

/-! ## Messages to dies of this device -/

/-- Messages to dies of this device, sent one after another. -/
theorem foldl_send_here {α : Type} (f : State → α → NetMsg) (l : List α) (s : State) (hf : ∀ n x, f (withNet s n) x = f s x)
    (hd : ∀ x ∈ l, ∃ die src, destOf s (f s x) = some (deviceOf s (myPos s), die, src)) :
    l.foldl (fun s x => send s (f s x)) s = withNet s (s.net ++ l.map (f s)) := by
  induction l generalizing s with
  | nil => simp [withNet]
  | cons x l ih =>
    obtain ⟨die, src, hx⟩ := hd x List.mem_cons_self
    rw [List.foldl_cons, send_here hx]
    have hrest := ih (withNet s (s.net ++ [f s x])) (fun n y => (hf n y).trans (hf _ y).symm) (fun y hy => by
      obtain ⟨die, src, hy⟩ := hd y (List.mem_cons_of_mem _ hy)
      exact ⟨die, src, by rw [hf]; exact hy⟩)
    refine hrest.trans ?_
    have hmap : l.map (f (withNet s (s.net ++ [f s x]))) = l.map (f s) := List.map_congr_left fun y _ => hf _ y
    rw [hmap, List.map_cons]
    show withNet s ((s.net ++ [f s x]) ++ _) = _
    rw [List.append_assoc, List.singleton_append]

/-! ## Tags and claims after a change -/

theorem tagOf_modTag {s : State} {d tag : Nat} {f : TagRec → TagRec} (hf : ∀ g, (f g).tag = g.tag) :
    tagOf (modTag s d tag f) d tag = (tagOf s d tag).map f := by
  unfold tagOf modTag
  rw [(wsOf_modWs s d d _).trans (if_pos rfl)]
  exact find?_map_if _ f (fun g hg => by rw [hf g]; exact hg) _

theorem roundOf_modTag (s : State) (d tag k : Nat) (f : TagRec → TagRec) : roundOf (modTag s d tag f) d k = roundOf s d k := by
  unfold roundOf modTag
  rw [(wsOf_modWs s d d _).trans (if_pos rfl)]

theorem tagOf_closeRound (s : State) (d tag k : Nat) : tagOf (closeRound s d tag) d k = tagOf s d k := by
  unfold tagOf closeRound
  rw [(wsOf_modWs _ d d _).trans (if_pos rfl)]
  rfl

theorem roundOf_closeRound (s : State) (d tag : Nat) : roundOf (closeRound s d tag) d tag = none := by
  unfold roundOf closeRound
  rw [(wsOf_modWs _ d d _).trans (if_pos rfl)]
  refine List.find?_eq_none.2 fun r hr => ?_
  simpa using (List.mem_filter.1 hr).2

/-- Claims that no command is bound to close without an end. -/
theorem cancelClaims_unbound {s : State} {d : Nat} (tag : Nat) (h : ∀ c ∈ (cfOf s d).claims, c.job = none) :
    cancelClaims d tag s = modCf s d (fun c => { c with claims := c.claims.filter (fun x => x.tag != tag) }) := by
  unfold cancelClaims
  extract_lets cs s1
  have hfold : s1 = s := by
    have hall : ∀ l : List Claim, (∀ c ∈ l, c.job = none) → l.foldl (fun s c => match c.job with
        | some id => endJob s id (boundEnd s c id (fails CANCELLED 0x0204))
        | none => s) s = s := by
      intro l
      induction l with
      | nil => exact fun _ => rfl
      | cons c l ih =>
        intro hl
        rw [List.foldl_cons, hl c List.mem_cons_self]
        exact ih fun x hx => hl x (List.mem_cons_of_mem _ hx)
    exact hall cs fun c hc => h c (List.mem_of_mem_filter hc)
  rw [hfold]

/-! ## RT_CANCEL -/

/-- A tag marked cancelled by a command. -/
def cancelMark (id : Nat) (t : TagRec) : TagRec := { t with cancelled := true, cancelJob := some id }

/-- A tag marked cancelled, with its round and its claims closed and the owners not yet told. -/
def cancelling (d tag id : Nat) (s : State) : State :=
  modCf (modTag (closeRound s d tag) d tag (cancelMark id)) d (fun c => { c with claims := c.claims.filter (fun x => x.tag != tag) })

/-- The notice of a cancelled tag. -/
def cancelNote (s : State) (c tag d : Nat) : CancelNote :=
  { ctx := BitVec.ofNat 8 c, tag := BitVec.ofNat 24 tag, srcPos := BitVec.ofNat 4 (myPos s), srcDie := Fin.ofNat 8 d }

/-- The notices to a tag's owners. -/
def cancelNotes (s : State) (c tag d : Nat) (os : List Nat) : List NetMsg := os.map (fun o => .cancel (cancelNote s c tag d) (o / 8) (o % 8))

theorem tagOf_cancelling {s : State} {d tag id : Nat} {tg : TagRec} (h : tagOf s d tag = some tg) :
    tagOf (cancelling d tag id s) d tag = some (cancelMark id tg) := by
  show tagOf (modTag (closeRound s d tag) d tag (cancelMark id)) d tag = _
  rw [tagOf_modTag (f := cancelMark id) (fun _ => rfl), tagOf_closeRound, h]
  rfl

theorem roundOf_cancelling (s : State) (d tag id : Nat) : roundOf (cancelling d tag id s) d tag = none := by
  show roundOf (modTag (closeRound s d tag) d tag (cancelMark id)) d tag = none
  rw [roundOf_modTag, roundOf_closeRound]

theorem claimOf_cancelling (s : State) (d tag id : Nat) (grad : Bool) : claimOf (cancelling d tag id s) d tag grad = none := by
  unfold claimOf cancelling
  rw [(cfOf_modCf _ d d _).trans (if_pos rfl)]
  refine List.find?_eq_none.2 fun c hc => ?_
  have hne : c.tag ≠ tag := by simpa using (List.mem_filter.1 hc).2
  simp [hne]

/-- The run of RT_CANCEL where nothing is in flight and no command is bound to a claim of the die. -/
theorem runRtCancel_idle {p : PRtCancel} {j : Job} {s : State} {d : Nat} {tg : TagRec} (hi : Idle s) (hd : uDie j.unit = d)
    (ht : tagOf s d p.batchTag.toNat = some tg) (hc : ∀ c ∈ (cfOf s d).claims, c.job = none) (ho : ∀ o ∈ tg.owners, o / 8 = myPos s) :
    runRtCancel p j s =
      let s' := withNet (cancelling d p.batchTag.toNat j.id s) (s.net ++ cancelNotes s (j.ring / 256) p.batchTag.toNat d tg.owners)
      if !tg.outstanding.isEmpty then waits s' .waitCancel
      else ends (modTag s' d p.batchTag.toNat (fun t => { t with cancelJob := none })) (cancelEnd j) := by
  unfold runRtCancel
  rw [hd]
  extract_lets d' tag s1 gone s2 s3 gonLand s4 s5 owners note s6 s'
  have hs1 : s1 = s := if_pos (by rw [show tagOf s d tag = some tg from ht]; rfl)
  have hgone : gone = [] := by
    show s1.gz.jobs.filter _ = []
    rw [hs1, hi, List.filter_nil]
  have hs2 : s2 = s := by
    show gone.foldl _ s1 = s
    rw [hgone, hs1, List.foldl_nil]
  have hland : gonLand = fun _ => false := by
    funext t
    show t.landJob.any (fun id => gone.any (fun k => k.id == id)) = false
    rw [hgone]
    cases t.landJob <;> rfl
  have hs4 : s4 = modTag (closeRound s d tag) d tag (cancelMark j.id) := by
    show modTag (closeRound s2 d tag) d tag _ = _
    rw [hland, hs2]
    rfl
  have hs5 : s5 = cancelling d tag j.id s := by
    show cancelClaims d tag s4 = _
    rw [hs4, cancelClaims_unbound]
    · rfl
    · exact hc
  have htag : tagOf s5 d tag = some (cancelMark j.id tg) := by
    rw [hs5]
    exact tagOf_cancelling ht
  have howners : owners = tg.owners := by
    show (match tagOf s5 d tag with | some t => t.owners | none => []) = _
    rw [htag]
    rfl
  have hs6 : s6 = s' := by
    show owners.foldl (fun s o => send s (.cancel note (o / 8) (o % 8))) s5 = _
    rw [howners, hs5]
    refine (foldl_send_here (fun _ o => .cancel note (o / 8) (o % 8)) _ _ (fun _ _ => rfl) fun o hmem => ⟨o % 8, note.srcDie.val, ?_⟩).trans ?_
    · show some (deviceOf _ (o / 8), _, _) = _
      rw [ho o hmem]
      rfl
    · show withNet _ (s.net ++ _) = withNet _ (s.net ++ _)
      rw [show note = cancelNote s (j.ring / 256) tag d by
        show CancelNote.mk _ _ (BitVec.ofNat 4 (myPos s5)) _ = _
        rw [hs5]
        rfl]
      rfl
  rw [hs6, show tagOf s' d tag = some (cancelMark j.id tg) from tagOf_cancelling ht]
  rfl

/-- A command that rests stays in flight when its die is let go on. -/
theorem settle_parked {s : State} {j : Job} {ph : Phase} (d : Nat) (hi : Idle s) (hr : Rests { j with phase := ph, since := s.now })
    (he : ended (park s j ph) { j with phase := ph, since := s.now } = none) : settle (pumpDie d (park s j ph)) = passed (park s j ph) := by
  have hjobs := jobs_park s j ph hi
  rw [pumpDie_rests d _ (by rw [hjobs]; simpa using hr), settle_quiet _ (quiet_one hjobs he)]

theorem uDie_wsUnit {d : Nat} (hd : d < 16) : uDie (wsUnit d) = d := by
  unfold uDie wsUnit bits uid
  omega

theorem exec_rtCancel {h : Hdr} {p : PRtCancel} {s : State} (ha : Accepts s (preRtCancel h s) (.rtCancel h p)) :
    exec (.rtCancel h p) s = .next (settle (pumpDie (homeOf h s) (conclude (jobFor s (preRtCancel h s) (.rtCancel h p))
      (runRtCancel p (jobFor s (preRtCancel h s) (.rtCancel h p)) (begun s (.rtCancel h p)))))) := by
  show execRtCancel h p s = _
  unfold execRtCancel
  rw [arrive_accepted s _ _ _ ha]

/-- What an observer of a tag sees in two states alike. -/
theorem tagOf_of_ws {s t : State} (h : t.ws = s.ws) (d tag : Nat) : tagOf t d tag = tagOf s d tag := by
  unfold tagOf wsOf
  rw [h]

theorem roundOf_of_ws {s t : State} (h : t.ws = s.ws) (d tag : Nat) : roundOf t d tag = roundOf s d tag := by
  unfold roundOf wsOf
  rw [h]

theorem claimOf_of_cf {s t : State} (h : t.cf = s.cf) (d tag : Nat) (grad : Bool) : claimOf t d tag grad = claimOf s d tag grad := by
  unfold claimOf cfOf
  rw [h]

/-- A state that shows a tag cancelled, its round and claims closed, and its owners told. -/
structure Marked (t : State) (d tag : Nat) (net : List NetMsg) : Prop where
  cancelled : (tagOf t d tag).map (·.cancelled) = some true
  round : roundOf t d tag = none
  claim : ∀ grad, claimOf t d tag grad = none
  net : t.net = net

theorem Marked.of_same {t u : State} {d tag : Nat} {net : List NetMsg} (h : Marked t d tag net) (hws : u.ws = t.ws) (hcf : u.cf = t.cf)
    (hnet : u.net = t.net) : Marked u d tag net :=
  ⟨by rw [tagOf_of_ws hws]; exact h.cancelled, by rw [roundOf_of_ws hws]; exact h.round,
    fun g => by rw [claimOf_of_cf hcf]; exact h.claim g, hnet.trans h.net⟩

theorem marked_cancelling {s : State} {d tag id : Nat} {tg : TagRec} (h : tagOf s d tag = some tg) (n : List NetMsg) :
    Marked (withNet (cancelling d tag id s) n) d tag n :=
  ⟨(congrArg (Option.map (·.cancelled)) (tagOf_cancelling (id := id) h)).trans rfl, roundOf_cancelling s d tag id,
    fun g => claimOf_cancelling s d tag id g, rfl⟩

theorem Marked.modTag {t : State} {d tag : Nat} {net : List NetMsg} (h : Marked t d tag net) (f : TagRec → TagRec)
    (hf : ∀ g, (f g).tag = g.tag ∧ (f g).cancelled = g.cancelled) : Marked (Machine.modTag t d tag f) d tag net := by
  refine ⟨?_, (roundOf_modTag ..).trans h.round, h.claim, h.net⟩
  rw [tagOf_modTag (fun g => (hf g).1), Option.map_map]
  refine Eq.trans ?_ h.cancelled
  exact congrArg (fun k => (tagOf t d tag).map k) (funext fun g => (hf g).2)

/-- A cancel that has nothing outstanding ends its command. -/
theorem cancel_ends {s u : State} {d tag : Nat} {net : List NetMsg} {j : Job} {e : End} (hm : Marked u d tag net) (hc : Calm u [])
    (hslot : SameSlot s u j.ring) (hnow : u.now = s.now) :
    ∃ t, settle (pumpDie d (finish u j e)) = t ∧ Marked t d tag net ∧ Answered s t j e := by
  have hidle : Idle (finish u j e) := (finish_jobs _ _ _ hc.2.2).trans hc.1
  rw [pumpDie_idle d _ hidle, settle_idle _ hidle]
  exact ⟨_, rfl, hm.of_same (by simp [passed]) (by simp [passed]) (by simp [passed]), answered_finish hc.1 hc.2.1 hc.2.2 hslot hnow (.refl _)⟩

/-- A cancel that has slots outstanding waits for them. -/
theorem cancel_waits {s u : State} {d tag : Nat} {net : List NetMsg} {j : Job} (hm : Marked u d tag net) (hi : Idle u) (hnow : u.now = s.now) :
    ∃ t, settle (pumpDie d (park u j .waitCancel)) = t ∧ Marked t d tag net ∧ t.gz.jobs = [{ j with phase := .waitCancel, since := s.now }] := by
  rw [settle_parked d hi ⟨by simp, by simp, by simp, by simp⟩ rfl, ← hnow]
  exact ⟨_, rfl, hm.of_same rfl rfl rfl, jobs_park u j _ hi⟩

theorem myPos_begun (s : State) (i : Instr) : myPos (begun s i) = myPos s := by
  have hitems : (begun s i).hw.items = s.hw.items := by simp
  unfold myPos item
  rw [hitems]

/-- RT_CANCEL marks its tag, closes its round and claims, and ends or waits (06 R173; 07 R201, R202). -/
theorem rtCancel_marks {h : Hdr} {p : PRtCancel} {s : State} {tg : TagRec} {d : Nat} {j : Job} (hc : Calm s [])
    (ha : Accepts s (preRtCancel h s) (.rtCancel h p)) (hh : homeOf h s = d) (hd : d < 8) (hj : jobFor s (preRtCancel h s) (.rtCancel h p) = j)
    (ht : tagOf s d p.batchTag.toNat = some tg) (hcl : ∀ c ∈ (cfOf s d).claims, c.job = none) (ho : ∀ o ∈ tg.owners, o / 8 = myPos s) :
    ∃ t, exec (.rtCancel h p) s = .next t ∧
      Marked t d p.batchTag.toNat (s.net ++ cancelNotes s (ringKey h / 256) p.batchTag.toNat d tg.owners) ∧
      (tg.outstanding = [] → Answered s t j { status := DONE, verdict := 1 }) ∧
      (tg.outstanding ≠ [] → t.gz.jobs = [{ j with phase := .waitCancel, since := s.now }]) := by
  have hx := exec_rtCancel ha
  have hslot := SameSlot.of_begun s (.rtCancel h p) j.ring
  have hjr : j.ring = ringKey h := by rw [← hj]; rfl
  have hjd : cancelEnd j = { status := DONE, verdict := 1 } := by rw [← hj]; rfl
  have hju : uDie j.unit = d := by
    rw [← hj, ← hh]
    exact uDie_wsUnit (show homeOf h s < 16 by omega)
  rw [hj, hh] at hx
  obtain ⟨b, hb⟩ : ∃ b, begun s (.rtCancel h p) = b := ⟨_, rfl⟩
  have hbc : Calm b [] := by rw [← hb]; exact calm_begun _ hc.1 hc.2.1 hc.2.2
  have hbcf : cfOf b d = cfOf s d := by rw [← hb, cfOf, cfOf]; simp
  have hbt : tagOf b d p.batchTag.toNat = some tg := by rw [← hb, tagOf_of_ws (s := s) (by simp)]; exact ht
  have hbpos : myPos b = myPos s := by rw [← hb]; exact myPos_begun ..
  have hbnet : b.net = s.net := by rw [← hb]; simp
  have hbnow : b.now = s.now := by rw [← hb]; simp
  rw [hb] at hx hslot
  rw [runRtCancel_idle hbc.1 hju hbt (by rw [hbcf]; exact hcl) (by rw [hbpos]; exact ho), hjr] at hx
  have hnotes : cancelNotes b (ringKey h / 256) p.batchTag.toNat d tg.owners = cancelNotes s (ringKey h / 256) p.batchTag.toNat d tg.owners := by
    unfold cancelNotes cancelNote
    rw [hbpos]
  rw [hbnet, hnotes] at hx
  have hm := marked_cancelling (id := j.id) hbt (s.net ++ cancelNotes s (ringKey h / 256) p.batchTag.toNat d tg.owners)
  obtain ⟨u, hu⟩ : ∃ u, withNet (cancelling d p.batchTag.toNat j.id b) (s.net ++ cancelNotes s (ringKey h / 256) p.batchTag.toNat d tg.owners) =
    u := ⟨_, rfl⟩
  have huc : Calm u [] := by rw [← hu]; exact hbc
  have hun : u.now = s.now := by rw [← hu]; exact hbnow
  have hus : SameSlot s u j.ring := by rw [← hu]; exact hslot
  rw [hu] at hm hx
  dsimp only at hx
  by_cases hout : tg.outstanding = []
  · rw [hout, if_neg (by simp), hjd] at hx
    obtain ⟨t, hst, hmt, hans⟩ := cancel_ends (j := j) (e := { status := DONE, verdict := 1 })
      (hm.modTag (fun t => { t with cancelJob := none }) fun _ => ⟨rfl, rfl⟩) huc hus hun
    exact ⟨t, hx.trans (congrArg Host.Outcome.next hst), hmt, fun _ => hans, fun hne => absurd hout hne⟩
  · rw [if_pos (by simpa using hout)] at hx
    obtain ⟨t, hst, hmt, hjobs⟩ := cancel_waits (j := j) hm huc.1 hun
    exact ⟨t, hx.trans (congrArg Host.Outcome.next hst), hmt, fun h0 => absurd h0 hout, fun _ => hjobs⟩

/-! ## Cancel acknowledgements (07 R202) -/

/-- A slot that an owner names is outstanding no more. -/
def struck (o : List (Nat × Nat × Bool)) (x : Word16 × BitVec 3) : List (Nat × Nat × Bool) :=
  match o.find? (fun y => y.1 == x.1.toNat && y.2.1 == x.2.toNat) with
  | some y => o.erase y
  | none => o

theorem struck_only (x : Word16) (k : BitVec 3) (grad : Bool) : struck [(x.toNat, k.toNat, grad)] (x, k) = [] := by
  unfold struck
  rw [List.find?_cons_of_pos (by simp)]
  simp

/-- A tag from which the slots of an acknowledgement are struck. -/
def strikeTag (m : CancelAck) (t : TagRec) : TagRec := { t with outstanding := m.slots.foldl struck t.outstanding }

/-- A command that has more stale rows. -/
def moreDrops (n : Nat) (j : Job) : Job := { j with drops := j.drops + n }

theorem exec_cancelAck {die : CDie} {m : CancelAck} {s : State} {tg : TagRec} {id : Nat} (ht : tagOf s die.val m.tag.toNat = some tg)
    (hc : tg.cancelJob = some id) :
    exec (.cancelAck die m) s = .next (settle (tryCancelEnd die.val m.tag.toNat
      (modTag (modJob (receive s (.cancelAck m (myPos s) die.val)) id (moreDrops m.stale.toNat)) die.val m.tag.toNat (strikeTag m)))) := by
  have hbind : (tagOf (receive s (.cancelAck m (myPos s) die.val)) die.val m.tag.toNat).bind (fun t => t.cancelJob) = some id := by
    rw [show tagOf (receive s (.cancelAck m (myPos s) die.val)) die.val m.tag.toNat = some tg from ht]
    exact hc
  show execCancelAck die m s = _
  unfold execCancelAck
  dsimp only
  rw [hbind]
  rfl

/-- The cancel of a tag with nothing outstanding ends. -/
theorem tryCancelEnd_done {s : State} {d tag : Nat} {g : TagRec} {j : Job} (ht : tagOf s d tag = some g) (hc : g.cancelJob = some j.id)
    (hj : s.gz.jobs = [j]) (ho : g.outstanding = []) :
    tryCancelEnd d tag s = endJob (modTag s d tag (fun t => { t with cancelJob := none })) j.id (cancelEnd j) := by
  unfold tryCancelEnd
  rw [ht]
  dsimp only
  rw [hc, Option.bind_some, jobOf_one hj]
  dsimp only
  rw [ho]
  rfl

/-- An acknowledgement that names the last outstanding slot ends the cancel. -/
theorem cancelAck_ends {die : CDie} {m : CancelAck} {s : State} {tg : TagRec} {j : Job} {x : Word16} {k : BitVec 3} {grad : Bool}
    (hc : Calm s [j]) (ht : tagOf s die.val m.tag.toNat = some tg) (hcj : tg.cancelJob = some j.id)
    (hout : tg.outstanding = [(x.toNat, k.toNat, grad)]) (hslots : m.slots = [(x, k)]) :
    ∃ t, exec (.cancelAck die m) s = .next t ∧ (tagOf t die.val m.tag.toNat).map (·.outstanding) = some [] ∧
      Answered s t j (cancelEnd (moreDrops m.stale.toNat j)) := by
  have hx := exec_cancelAck ht hcj
  obtain ⟨u, hu⟩ : ∃ u, modTag (modJob (receive s (.cancelAck m (myPos s) die.val)) j.id (moreDrops m.stale.toNat)) die.val m.tag.toNat
    (strikeTag m) = u := ⟨_, rfl⟩
  have hjobs : u.gz.jobs = [moreDrops m.stale.toNat j] := by
    rw [← hu]
    show s.gz.jobs.map _ = _
    rw [hc.1, List.map_singleton, if_pos (by simp)]
  have htag : tagOf u die.val m.tag.toNat = some (strikeTag m tg) := by
    rw [← hu, tagOf_modTag (f := strikeTag m) (fun _ => rfl),
      show tagOf (modJob (receive s (.cancelAck m (myPos s) die.val)) j.id (moreDrops m.stale.toNat)) die.val m.tag.toNat = some tg from ht]
    rfl
  have hnone : (strikeTag m tg).outstanding = [] := by
    show m.slots.foldl struck tg.outstanding = []
    rw [hslots, hout]
    exact struck_only x k grad
  have hum : u.mem = s.mem := by rw [← hu]; rfl
  have hus : u.sig = s.sig := by rw [← hu]; rfl
  have hun : u.now = s.now := by rw [← hu]; rfl
  have hur : u.gz.rings = s.gz.rings := by rw [← hu]; rfl
  rw [hu, tryCancelEnd_done (j := moreDrops m.stale.toNat j) htag hcj hjobs hnone] at hx
  obtain ⟨v, hv⟩ : ∃ v, modTag u die.val m.tag.toNat (fun t => { t with cancelJob := none }) = v := ⟨_, rfl⟩
  have hvtag : tagOf v die.val m.tag.toNat = some { strikeTag m tg with cancelJob := none } := by
    rw [← hv]
    refine (tagOf_modTag (s := u) (f := fun t => { t with cancelJob := none }) (fun _ => rfl)).trans ?_
    rw [htag]
    rfl
  have hvu : Undisturbed u v := by rw [← hv]; exact .refl u
  rw [hv] at hx
  have hended : Ended v (endJob v (moreDrops m.stale.toNat j).id (cancelEnd (moreDrops m.stale.toNat j))) (moreDrops m.stale.toNat j)
      (cancelEnd (moreDrops m.stale.toNat j)) := .of_endJob (hvu.1.trans hjobs) _
  obtain ⟨-, hvr, hvm, hvs, hvn, -⟩ := hvu
  refine ⟨_, hx, ?_, hended.answers (by rw [hvm, hum]; exact hc.2.1) (by rw [hvs, hus]; exact hc.2.2) (.of_rings (hvr.trans hur) _)
    (hvn.trans hun) ⟨rfl, rfl, rfl, rfl, rfl⟩⟩
  rw [tagOf_of_ws (s := v) (hended.settled_frame.2.2)]
  rw [hvtag]
  exact congrArg some hnone

/-- Settles O30. -/
theorem cancelEndsTheTag : Obligations.CancelEndsTheTag := by
  constructor
  · intro h p s tg i pre d j tag hc ha hd ht hcl ho
    obtain ⟨t, hx, hm, hdone, hwait⟩ := rtCancel_marks hc ha rfl hd rfl ht hcl ho
    exact ⟨t, hx, hm.cancelled, hm.round, hm.claim false, hm.claim true, hm.net, hdone, hwait⟩
  · intro die m s tg j x k grad d tag hc _ ht hcj hout hslots
    exact cancelAck_ends hc ht hcj hout hslots

end Sys2Proof.Proofs
end

section
/-! PROOFS. Rows that go out to their owners (06 R166-R172). -/

namespace Sys2Proof.Proofs

open Sys2Proof Sys2Proof.Machine Sys2Proof.Laws

/-! ## O29 -/

/-- A device whose directory names an owner die that no device has for expert 1 of layer 3, with a counted round of tag 9. -/
def dieEightOwns : State :=
  { Tests.withRound Tests.round9Counted { Tests.tag9 with counted := true } with
    dir := { entries := [(dirKey 3 0, Tests.entryOf 0), (dirKey 3 1, { Tests.entryOf 1 with ownerDie := 8 })], epoch := 1 } }

/-- A dispatch of the round's one row. -/
def dispatch9 : PRtDispatch := ⟨0x40800000, 0x40804000, 9, 32, 1⟩

/-- Refutes O29: its first clause bounds the group position of each row's owner but not its die, and a directory entry holds any byte
there. The owner of an entry with die 8 at this device's position counts as die 0 at the next position (8 · position + die), where no
device is reached, so that the dispatch ends LINK_LOST where the clause has it wait for its rows to land. -/
theorem not_rowsGoOutAndLand : ¬ Obligations.RowsGoOutAndLand := by
  intro h
  obtain ⟨hdispatch, -, -⟩ := h
  obtain ⟨t, x, hx, hjobs, -⟩ := hdispatch Tests.hd dispatch9 dieEightOwns Tests.round9Counted (by decide +kernel) (by decide +kernel)
    (by decide +kernel) (by decide +kernel) (by decide +kernel) rfl rfl (by decide +kernel) (by decide +kernel) (by decide +kernel)
    (by decide +kernel) (by decide +kernel) (by decide +kernel) (by decide +kernel)
  have hn := congrArg (fun o => (Tests.got o).gz.jobs.length) hx
  have hone : t.gz.jobs.length = 1 := congrArg List.length hjobs
  exact absurd (hn.trans hone) (by decide +kernel)

end Sys2Proof.Proofs
end

section
/-! PROOFS. A packet that its unit takes up from an empty queue (02 R46, R47), and the count round of its source (06 R157-R161). -/

namespace Sys2Proof.Proofs

open Sys2Proof Sys2Proof.Machine Sys2Proof.Laws

/-! ## One packet in a unit's queue -/

/-- A packet that waits in its unit's queue. -/
def queuedJob (b : State) (j : Job) : Job := { j with phase := .inUnit, since := b.now }

/-- The state in which a unit takes up the packet that waits alone in its queue. -/
def takenUp (b : State) (j : Job) : State := serve (park b j .inUnit) j.unit 0 j.ring

theorem nextIn_one {s : State} {j : Job} (hj : s.gz.jobs = [j]) (hp : j.phase = .inUnit) : nextIn s j.unit = some j := by
  have hq : queued j = true := by
    unfold queued
    rw [hp]
  unfold nextIn
  rw [hj, List.filter_cons_of_pos (by simp [hq]), List.filter_nil]
  have hchoose : chooseRing (lastServed s j.unit 0) ((queueHeads [j]).map (fun k => rank47 s k.ring k.cmd)) = some (rank47 s j.ring j.cmd) := rfl
  dsimp only
  rw [hchoose]
  exact List.find?_cons_of_pos (by simp [rank47])

/-- A unit takes up the packet that waits alone, and rests with it where it comes to rest. -/
theorem pumpUnit_queued {run : Job → State → RunRes} {b v : State} {j : Job} {n : Nat} (hi : Idle b)
    (hv : outcome (queuedJob b j) (run (queuedJob b j) (takenUp b j)) = v) (hr : ∀ k ∈ v.gz.jobs, Rests k) :
    pumpUnit run j.unit (n + 1) (park b j .inUnit) = v := by
  have hjobs : (park b j .inUnit).gz.jobs = [queuedJob b j] := jobs_park b j _ hi
  have hfind : (park b j .inUnit).gz.jobs.find? (fun k => k.unit == j.unit && retries k) = none := by
    rw [hjobs]
    exact List.find?_cons_of_neg (by simp [retries, queuedJob])
  have hbusy : unitBusy (park b j .inUnit) j.unit = false := by
    unfold unitBusy
    rw [hjobs]
    simp [occupies, queuedJob]
  have hnext : nextIn (park b j .inUnit) j.unit = some (queuedJob b j) := nextIn_one hjobs rfl
  rw [pumpUnit, hfind]
  dsimp only
  rw [hbusy, if_neg (by decide), hnext]
  dsimp only
  rw [show serve (park b j .inUnit) j.unit 0 (queuedJob b j).ring = takenUp b j from rfl, hv]
  exact pumpUnit_rests run j.unit n v hr

theorem jobs_takenUp {b : State} (j : Job) (hi : Idle b) : (takenUp b j).gz.jobs = [queuedJob b j] := jobs_park b j _ hi

/-- The command of a run that waits. -/
theorem jobs_outcome_waits {s : State} {j : Job} (ph : Phase) (hj : s.gz.jobs = [j]) :
    (outcome j (waits s ph)).gz.jobs = [{ j with phase := ph, since := s.now }] := by
  show s.gz.jobs.map _ = _
  rw [hj, List.map_singleton, if_pos (by simp)]
  rfl

/-- A packet that waits when its unit has taken it up. -/
theorem pumpUnit_waits {run : Job → State → RunRes} {b w : State} {j : Job} {ph : Phase} {n : Nat} (hi : Idle b)
    (hrun : run (queuedJob b j) (takenUp b j) = waits w ph) (hj : w.gz.jobs = [queuedJob b j]) (hnow : w.now = b.now)
    (hr : Rests { j with phase := ph, since := b.now }) :
    ∃ v, pumpUnit run j.unit (n + 1) (park b j .inUnit) = v ∧ v.gz.jobs = [{ j with phase := ph, since := b.now }] ∧ v.ws = w.ws ∧ v.cf = w.cf ∧
      v.net = w.net ∧ v.mem = w.mem := by
  have hjobs : (outcome (queuedJob b j) (waits w ph)).gz.jobs = [{ j with phase := ph, since := b.now }] := by
    rw [jobs_outcome_waits _ hj, hnow]
    rfl
  exact ⟨_, pumpUnit_queued hi (by rw [hrun]) (by rw [hjobs]; simpa using hr), hjobs, rfl, rfl, rfl, rfl⟩

/-! ## What a unit checks when it takes a packet up -/

theorem lateRange_congr {s t : State} (hc : t.gz.ctxs = s.gz.ctxs) (hs : t.mem.sides = s.mem.sides) (c u : Nat)
    (rs : List (Nat × Nat × Nat × Nat)) : lateRange t c u rs = lateRange s c u rs := by
  have hbad : ∀ rs, badRange t c u rs = badRange s c u rs := by
    intro rs
    induction rs with
    | nil => rfl
    | cons r rs ih => rw [badRange, badRange, access_congr hc hs, ih]
  rw [lateRange, lateRange, hbad]

theorem rangesStop_of_mem {s t : State} (h : t.mem = s.mem) (rs ws : List (Nat × Nat)) : rangesStop t rs ws = rangesStop s rs ws := by
  have hread : ∀ l, readPoison t l = readPoison s l := by
    intro l
    induction l with
    | nil => rfl
    | cons r l ih => rw [readPoison, readPoison, ih, (SamePlaces.of_mem h).poisonIn]
  have hwrite : ∀ l, writePoison t l = writePoison s l := by
    intro l
    induction l with
    | nil => rfl
    | cons r l ih => rw [writePoison, writePoison, ih, partialPoison_of_mem h]
  have htrain := fun l => rangesTrain_congr (s := s) (t := t) (by rw [h]) (by rw [h]) l
  rw [rangesStop, rangesStop, hread, hwrite, htrain]

/-- Owners at this device's position are never lost. -/
theorem ownersLost_here {s : State} {os : List Nat} (h : ∀ o ∈ os, o / 8 = myPos s) : ownersLost s os = none := by
  induction os with
  | nil => rfl
  | cons o os ih =>
    have hnone : ownerLost s (o / 8) = none := if_pos (h o List.mem_cons_self)
    rw [ownersLost, hnone]
    exact ih fun x hx => h x (List.mem_cons_of_mem _ hx)

/-! ## RT_COUNT (06 R157) -/

theorem roundOf_modRound {s : State} {d tag : Nat} {f : Round → Round} (hf : ∀ g, g.tag = tag → (f g).tag = tag) :
    roundOf (modRound s d tag f) d tag = (roundOf s d tag).map f := by
  unfold roundOf modRound
  rw [(wsOf_modWs s d d _).trans (if_pos rfl)]
  exact find?_map_if _ f (fun g hg => by simpa using hf g (by simpa using hg)) _

theorem roundOf_tag {s : State} {d tag : Nat} {r : Round} (h : roundOf s d tag = some r) : r.tag = tag := by
  simpa using List.find?_some h

/-- The owners of a round's layer. -/
def roundOwners (s : State) (r : Round) : List Nat := distinct ((dirLayer s r.layer).map ownerOf)

/-- A round whose counts have gone out for a command. -/
def counting (s : State) (p : PRtCount) (id : Nat) (r : Round) : Round :=
  { r with
    mode := p.mode.toNat, source := p.source.toNat, sources := p.sources.toNat, epoch := s.dir.epoch, owners := roundOwners s r,
    awaiting := roundOwners s r, quotas := [], spillQuotas := [], spilling := false, slots := [], checks := 0,
    quotaAddr := p.quotaAddr.toNat, countJob := some id }

/-- The messages that carry a round's counts to the owners of its layer. -/
def countNotes (s : State) (d : Nat) (r : Round) (cnt : AMap Nat) : List NetMsg :=
  r.owners.map (fun o => .count (countMsg s d r false cnt o) (o / 8) (o % 8))

theorem sendCounts_here {s : State} {d : Nat} {r : Round} (cnt : AMap Nat) (h : ∀ o ∈ r.owners, o / 8 = myPos s) :
    sendCounts s d r false cnt = withNet s (s.net ++ countNotes s d r cnt) :=
  foldl_send_here (fun s o => .count (countMsg s d r false cnt o) (o / 8) (o % 8)) r.owners s (fun _ _ => rfl) fun o ho =>
    ⟨o % 8, (Fin.ofNat 8 d).val, by rw [← h o ho]; rfl⟩

/-- A round that RT_COUNT may count, with its owners on this device (06 R157, R161). -/
structure Countable (d u c : Nat) (p : PRtCount) (r : Round) (s : State) : Prop where
  round : roundOf s d p.batchTag.toNat = some r
  alive : tagDead (tagOf s d p.batchTag.toNat) = false
  chosen : r.choices ≠ []
  uncounted : r.counted = false
  unclaimed : r.countJob = none
  layer : r.layer = p.layer.toNat
  noLookup : r.lookup = false
  noSpill : bit p.mode.toNat 1 = false
  allowed : lateRange s c u [(0x20, p.countAddr.toNat, 4 * r.k * r.experts, pRead), (0x28, p.quotaAddr.toNat, 4 * r.k * r.experts, pWrite)] = none
  free : rangesStop s [(p.countAddr.toNat, 4 * r.k * r.experts)] [(p.quotaAddr.toNat, 4 * r.k * r.experts)] = none
  here : ∀ o ∈ roundOwners s r, o / 8 = myPos s

theorem Countable.takenUp {d u c : Nat} {p : PRtCount} {r : Round} {b : State} (j : Job) (h : Countable d u c p r b) :
    Countable d u c p r (takenUp b j) :=
  ⟨h.round, h.alive, h.chosen, h.uncounted, h.unclaimed, h.layer, h.noLookup, h.noSpill,
    (lateRange_congr rfl rfl c u _).trans h.allowed, (rangesStop_of_mem (s := b) (t := Proofs.takenUp b j) rfl _ _).trans h.free, h.here⟩

/-- A state in which a round's counts have gone out. -/
def countsSent (s : State) (d u : Nat) (p : PRtCount) (id : Nat) (r : Round) : State :=
  withNet (noteOwners (modRound s d p.batchTag.toNat (fun _ => counting s p id r)) d p.batchTag.toNat (roundOwners s r))
    (s.net ++ countNotes s d (counting s p id r) (readCounts s u p.countAddr.toNat r.k r.experts))

/-- The run of RT_COUNT where nothing stops it. -/
theorem runRtCount_sends {p : PRtCount} {j : Job} {s : State} {d : Nat} {r : Round} (hd : uDie j.unit = d)
    (h : Countable d j.unit (j.ring / 256) p r s) : runRtCount p j s = waits (countsSent s d j.unit p j.id r) .waitQuota := by
  have hopen : (tagDead (tagOf s d p.batchTag.toNat) || r.choices.isEmpty || r.counted || r.countJob.isSome) = false := by
    rw [h.alive, h.uncounted, h.unclaimed, List.isEmpty_eq_false_iff.2 h.chosen]
    rfl
  have hlayer : (r.layer != p.layer.toNat) = false := by rw [h.layer, bne_self_eq_false]
  have hlookup : (r.lookup && bit p.mode.toNat 1) = false := by rw [h.noLookup, Bool.false_and]
  unfold runRtCount
  rw [hd]
  dsimp only
  rw [h.round]
  dsimp only
  rw [hopen, if_neg (by decide), hlayer, if_neg (by decide), hlookup, if_neg (by decide), h.noSpill, if_neg (by decide), h.allowed]
  dsimp only
  rw [h.free]
  dsimp only
  rw [show ownersLost s (distinct ((dirLayer s r.layer).map ownerOf)) = none from ownersLost_here h.here]
  dsimp only
  exact congrArg (fun x => waits x .waitQuota) (sendCounts_here _ h.here)

theorem counting_congr {s t : State} (h : t.dir = s.dir) (p : PRtCount) (id : Nat) (r : Round) : counting t p id r = counting s p id r := by
  unfold counting roundOwners dirLayer
  rw [h]

theorem countNotes_congr {s t : State} (h : t.dir = s.dir) (hi : t.hw.items = s.hw.items) (d : Nat) (r : Round) (cnt : AMap Nat) :
    countNotes t d r cnt = countNotes s d r cnt := by
  unfold countNotes countMsg dirLayer myPos item
  rw [h, hi]

theorem readCounts_of_mem {s t : State} (h : t.mem = s.mem) (hf : t.free = s.free) (u a k n : Nat) :
    readCounts t u a k n = readCounts s u a k n := by
  unfold readCounts readNat
  rw [readBytes_of_mem h hf]

theorem exec_rtCount {h : Hdr} {p : PRtCount} {f : Faults} {s : State} (ha : Accepts s (preRtCount h p s) (.rtCount h p f)) :
    exec (.rtCount h p f) s = .next (settle (pumpWs (homeOf h s)
      (park (begun s (.rtCount h p f)) (jobFor s (preRtCount h p s) (.rtCount h p f)) .inUnit))) := by
  show execRtCount h p f s = _
  unfold execRtCount
  rw [arrive_accepted s _ _ _ ha]
  rfl

/-- What a round that may be counted comes to: its counts are sent, and its command waits for quotas. -/
theorem rtCount_sends {h : Hdr} {p : PRtCount} {b : State} {r : Round} {d : Nat} {j : Job} (hi : Idle b) (hu : j.unit = wsUnit d) (hd : d < 8)
    (hc : j.cmd = .rtCount h p {}) (hr : Countable d (wsUnit d) (j.ring / 256) p r b) :
    ∃ t, settle (pumpWs d (park b j .inUnit)) = t ∧ t.gz.jobs = [{ j with phase := .waitQuota, since := b.now }] ∧
      roundOf t d p.batchTag.toNat = some (counting b p j.id r) ∧
      t.net = b.net ++ countNotes b d (counting b p j.id r) (readCounts b (wsUnit d) p.countAddr.toNat r.k r.experts) ∧ t.mem = b.mem := by
  have hrun : wsRun (queuedJob b j) (takenUp b j) = waits (countsSent (takenUp b j) d (wsUnit d) p j.id r) .waitQuota := by
    have hju : (queuedJob b j).unit = wsUnit d := hu
    unfold wsRun
    rw [show (queuedJob b j).cmd = .rtCount h p {} from hc]
    dsimp only
    rw [runRtCount_sends (d := d) (r := r) (by rw [hju, uDie_wsUnit (by omega)]) (by rw [hju]; exact hr.takenUp j), hju]
    rfl
  obtain ⟨w, hw⟩ : ∃ w, countsSent (takenUp b j) d (wsUnit d) p j.id r = w := ⟨_, rfl⟩
  have hwround : roundOf w d p.batchTag.toNat = some (counting b p j.id r) := by
    rw [← hw, countsSent, ← counting_congr (s := b) (t := takenUp b j) rfl]
    refine (roundOf_modTag ..).trans ((roundOf_modRound (f := fun _ => counting (takenUp b j) p j.id r) fun _ _ => show r.tag = _ from roundOf_tag hr.round).trans ?_)
    rw [(hr.takenUp j).round]
    rfl
  have hwnet : w.net = b.net ++ countNotes b d (counting b p j.id r) (readCounts b (wsUnit d) p.countAddr.toNat r.k r.experts) := by
    rw [← hw, ← counting_congr (s := b) (t := takenUp b j) rfl, ← countNotes_congr (s := b) (t := takenUp b j) rfl rfl,
      ← readCounts_of_mem (s := b) (t := takenUp b j) rfl rfl]
    rfl
  obtain ⟨v, hv, hjobs, hws, -, hnet, hmem⟩ := pumpUnit_waits (n := (park b j .inUnit).gz.jobs.length) hi (hrun.trans (by rw [hw]))
    (by rw [← hw]; exact jobs_takenUp j hi) (by rw [← hw]; rfl) ⟨by simp, by simp, by simp, by simp⟩
  have hpump : pumpWs d (park b j .inUnit) = v := by
    unfold pumpWs
    rw [← hu]
    exact hv
  refine ⟨passed v, ?_, hjobs, ?_, hnet.trans hwnet, hmem.trans (by rw [← hw]; rfl)⟩
  · rw [hpump]
    exact settle_quiet v (quiet_one hjobs rfl)
  · exact (roundOf_of_ws (s := w) (t := passed v) hws _ _).trans hwround

/-! ## The last quota message (06 R159, R161) -/

/-- A round with the quotas of its last answer. -/
def quotaTaken (q : List (Word16 × BitVec 3 × Word32 × Word32)) (r : Round) : Round :=
  { r with awaiting := [], checks := r.checks + 2, quotas := grantedMap q r.quotas, spilling := false }

/-- A round whose slots are settled. -/
def slotted (slots : List Slot) (r : Round) : Round := { r with slots := slots, counted := true, countJob := none, awaiting := [] }

/-- The end of a count round without faults. -/
def countEnd (r : Round) : End := { dropEnd (firstSlots r) with verdict := 1, checks := r.checks, record := [(0x60, r.checks)] }

/-- A count of the Watershed's, with the events that it makes. -/
def wsCounted (d off code ctx n : Nat) (s : State) : State := event (count s (wsUnit d) off n) (wsUnit d) code ctx n

/-- A state with a round counted: its quota vector is written, its slots and its tag are noted. -/
def roundCounted (d : Nat) (r : Round) (j : Job) (s : State) : State :=
  modTag (modRound
    (wsCounted d 0x30 0x7003 r.ctx ((firstSlots r).countP (·.spilled)) (wsCounted d 0x28 0x7002 r.ctx (countEnd r).drops
      (storeLazy s (whoOf j) r.quotaAddr (quotaBytes r.k r.experts r.quotas)))) d r.tag (slotted (firstSlots r)))
    d r.tag (fun t => { t with counted := true })

/-- The end by drops is no failed check, and has counted nothing yet. -/
theorem dropEnd_facts (slots : List Slot) : (dropEnd slots).status ≠ CHECK_FAILED ∧ (dropEnd slots).checks = 0 ∧
    (dropEnd slots).record = [] ∧ (dropEnd slots).replays = 0 := by
  unfold dropEnd
  dsimp only
  split
  · exact ⟨show DONE ≠ CHECK_FAILED by decide, rfl, rfl, rfl⟩
  · exact ⟨show DONE_WITH_DROPS ≠ CHECK_FAILED by decide, rfl, rfl, rfl⟩

/-- Checks that find nothing are counted. -/
theorem wsVerdict_clean (u ck : Nat) (e : End) (s : State) (hc : e.checks = 0) (hr : e.record = []) (hp : e.replays = 0) :
    wsVerdict u ck {} { e with replays := 0, verdict := 1 } s = (s, { e with verdict := 1, checks := ck, record := [(0x60, ck)] }) := by
  show (s, { e with replays := 0, verdict := 1, checks := e.checks + ck, record := (0x60, ck) :: e.record }) = _
  rw [hc, hr, Nat.zero_add, ← hp]

theorem countDone_clean {d : Nat} {r : Round} {j : Job} {s : State} (hm : bit r.mode 1 = false) (hj : j.replays = 0) :
    countDone d r j {} s = endJob (roundCounted d r j s) j.id (countEnd r) := by
  obtain ⟨hstatus, hck, hrec, hrep⟩ := dropEnd_facts (firstSlots r)
  have hverdict := wsVerdict_clean (wsUnit d) r.checks (dropEnd (firstSlots r)) s hck hrec hrep
  unfold countDone
  simp only [hm, hj, Bool.false_eq_true, if_false, if_true, Nat.add_zero, hverdict]
  exact if_neg hstatus

/-- A source's round that waits for one owner's quotas alone. -/
structure AwaitsLast (d o : Nat) (r : Round) (j : Job) (s : State) : Prop where
  calm : Calm s [j]
  round : roundOf s d r.tag = some r
  last : r.awaiting = [o]
  first : r.spilling = false
  noSpill : bit r.mode 1 = false
  job : r.countJob = some j.id
  fresh : j.replays = 0
  faultless : faultsOf j.cmd = {}

/-- The last owner's quotas end the round's command. -/
theorem takeQuota_last {d : Nat} {m : QuotaMsg} {r : Round} {j : Job} {s : State} {q : List (Word16 × BitVec 3 × Word32 × Word32)}
    (h : AwaitsLast d (8 * m.ownerPos.toNat + m.ownerDie.val) r j s) (hq : m.ans = .granted q) :
    takeQuota d m {} r j s = endJob (roundCounted d (quotaTaken q r) j (modRound s d r.tag (fun _ => quotaTaken q r))) j.id
      (countEnd (quotaTaken q r)) := by
  have hnone : r.awaiting.filter (· != 8 * m.ownerPos.toNat + m.ownerDie.val) = [] := by
    rw [h.last]
    simp
  have hjob : ∀ f, jobOf (modRound s d r.tag f) j.id = some j := fun _ => jobOf_one h.calm.1
  unfold takeQuota
  simp only [hq, show ¬ 2 ≤ Faults.mismatch {} by decide, show ¬ Faults.mismatch {} = 1 by decide, if_false, hnone, h.first, h.noSpill,
    List.isEmpty_nil, Bool.not_true, Bool.false_and, Bool.false_eq_true, hjob, h.faultless]
  exact countDone_clean (r := quotaTaken q r) h.noSpill h.fresh

theorem wsCounted_eq (d off code ctx n : Nat) (s : State) :
    ∃ k c, wsCounted d off code ctx n s = { s with hw := { s.hw with counts := k, counters := c } } := by
  obtain ⟨c, hc⟩ := event_eq (count s (wsUnit d) off n) (wsUnit d) code ctx n
  exact ⟨_, c, hc⟩

/-- What a counted round leaves: its quota vector, its slots, and the rest of memory. -/
theorem roundCounted_facts {d : Nat} {r : Round} {j : Job} {s : State} (hc : Calm s [j]) :
    let y := roundCounted d r j s
    let qb := quotaBytes r.k r.experts r.quotas
    Calm y [j] ∧ y.gz.rings = s.gz.rings ∧ y.now = s.now ∧ roundOf y d r.tag = (roundOf s d r.tag).map (slotted (firstSlots r)) ∧
      bytesAt y r.quotaAddr qb.length = qb ∧ MemSame s y [(r.quotaAddr, qb.length)] := by
  intro y qb
  obtain ⟨z, hz⟩ : ∃ z, storeLazy s (whoOf j) r.quotaAddr qb = z := ⟨_, rfl⟩
  obtain ⟨x, hx⟩ : ∃ x, wsCounted d 0x30 0x7003 r.ctx ((firstSlots r).countP (·.spilled)) (wsCounted d 0x28 0x7002 r.ctx (countEnd r).drops z) = x :=
    ⟨_, rfl⟩
  have hy : y = modTag (modRound x d r.tag (slotted (firstSlots r))) d r.tag (fun t => { t with counted := true }) := by
    rw [← hx, ← hz]
    rfl
  obtain ⟨k1, c1, h1⟩ := wsCounted_eq d 0x28 0x7002 r.ctx (countEnd r).drops z
  obtain ⟨k2, c2, h2⟩ := wsCounted_eq d 0x30 0x7003 r.ctx ((firstSlots r).countP (·.spilled)) (wsCounted d 0x28 0x7002 r.ctx (countEnd r).drops z)
  have hxz : x = { z with hw := { z.hw with counts := k2, counters := c2 } } := by rw [← hx, h2, h1]
  have hzc : Calm z [j] := by rw [← hz]; exact calm_storeLazy _ _ _ hc
  have hzr : z.gz.rings = s.gz.rings := by rw [← hz]; simp
  have hzn : z.now = s.now := by rw [← hz]; simp
  have hzw : z.ws = s.ws := by rw [← hz]; simp
  have hyz : y.mem = z.mem := by rw [hy, hxz]; rfl
  refine ⟨?_, ?_, ?_, ?_, ?_, ?_⟩
  · rw [hy, hxz]
    exact hzc
  · rw [hy, hxz]
    exact hzr
  · rw [hy, hxz]
    exact hzn
  · rw [hy, roundOf_modTag, roundOf_modRound (f := slotted (firstSlots r)) fun _ hg => hg, roundOf_of_ws (s := s) (t := x) (by rw [hxz]; exact hzw)]
  · rw [bytesAt_of_mem hyz, ← hz]
    exact bytesAt_storeLazy s _ _ qb hc.2.1
  · intro b hb
    rw [byteAt_of_mem hyz, ← hz, byteAt_storeLazy s _ _ qb b hc.2.1, if_neg (hb (r.quotaAddr, qb.length) (List.mem_singleton.2 rfl))]

theorem exec_quotaMessage {die : CDie} {m : QuotaMsg} {s x : State} {r : Round} {j : Job} (hx : receive s (.quota m (myPos s) die.val) = x)
    (ht : r.tag = m.tag.toNat) (h : AwaitsLast die.val (8 * m.ownerPos.toNat + m.ownerDie.val) r j x) (hs : m.spill = false) :
    exec (.quotaMessage die m {}) s = .next (settle (pumpWs die.val (takeQuota die.val m {} r j x))) := by
  have hcond : (r.awaiting.contains (8 * m.ownerPos.toNat + m.ownerDie.val) && r.spilling == m.spill) = true := by
    rw [h.last, h.first, hs]
    simp
  show execQuotaMessage die m {} s = _
  unfold execQuotaMessage
  dsimp only
  rw [hx, ← ht, h.round]
  dsimp only
  rw [hcond, if_pos rfl, h.job, Option.bind_some, jobOf_one h.calm.1]

/-- The last quotas of a round end its command. -/
theorem quotaMessage_ends {die : CDie} {m : QuotaMsg} {s : State} {r : Round} {j : Job} {q : List (Word16 × BitVec 3 × Word32 × Word32)}
    (ht : r.tag = m.tag.toNat) (h : AwaitsLast die.val (8 * m.ownerPos.toNat + m.ownerDie.val) r j s) (hs : m.spill = false)
    (hq : m.ans = .granted q) (ha : Apart (replyWrites s j) [(r.quotaAddr, (quotaBytes r.k r.experts (grantedMap q r.quotas)).length)]) :
    let qb := quotaBytes r.k r.experts (grantedMap q r.quotas)
    ∃ t, exec (.quotaMessage die m {}) s = .next t ∧
      roundOf t die.val r.tag = some (slotted (firstSlots (quotaTaken q r)) (quotaTaken q r)) ∧ bytesAt t r.quotaAddr qb.length = qb ∧
      Answered s t j (countEnd (quotaTaken q r)) ∧ MemSame s t ((r.quotaAddr, qb.length) :: replyWrites s j) := by
  intro qb
  obtain ⟨x, hx⟩ : ∃ x, receive s (.quota m (myPos s) die.val) = x := ⟨_, rfl⟩
  have hax : AwaitsLast die.val (8 * m.ownerPos.toNat + m.ownerDie.val) r j x := by
    rw [← hx]
    exact ⟨h.calm, h.round, h.last, h.first, h.noSpill, h.job, h.fresh, h.faultless⟩
  have hexec := exec_quotaMessage hx ht hax hs
  rw [takeQuota_last hax hq] at hexec
  obtain ⟨z, hz⟩ : ∃ z, modRound x die.val r.tag (fun _ => quotaTaken q r) = z := ⟨_, rfl⟩
  have hzr : roundOf z die.val r.tag = some (quotaTaken q r) := by
    rw [← hz, roundOf_modRound (tag := r.tag) (f := fun _ => quotaTaken q r) (fun _ _ => rfl), hax.round]
    rfl
  have hzc : Calm z [j] := by rw [← hz]; exact hax.calm
  have hzm : z.mem = s.mem := by rw [← hz, ← hx]; rfl
  have hzrings : z.gz.rings = s.gz.rings := by rw [← hz, ← hx]; rfl
  have hznow : z.now = s.now := by rw [← hz, ← hx]; rfl
  rw [hz] at hexec
  obtain ⟨hyc, hyr, hyn, hyround, hybytes, hysame⟩ := roundCounted_facts (d := die.val) (r := quotaTaken q r) hzc
  obtain ⟨y, hy⟩ : ∃ y, roundCounted die.val (quotaTaken q r) j z = y := ⟨_, rfl⟩
  rw [hy] at hexec hyc hyr hyn hyround hybytes hysame
  have hended : Ended y (endJob y j.id (countEnd (quotaTaken q r))) j (countEnd (quotaTaken q r)) := .of_endJob hyc.1 _
  have hpump : pumpWs die.val (endJob y j.id (countEnd (quotaTaken q r))) = endJob y j.id (countEnd (quotaTaken q r)) :=
    pumpUnit_rests wsRun (wsUnit die.val) _ _ (by rw [hended.1]; intro k hk; rw [List.mem_singleton] at hk; rw [hk]; exact rests_ending rfl)
  rw [hpump] at hexec
  have hsame := hended.memSame hyc.2.1
  rw [replyWrites_of_rings (hyr.trans hzrings)] at hsame
  refine ⟨_, hexec, ?_, ?_, hended.answers hyc.2.1 hyc.2.2 (.of_rings (hyr.trans hzrings) _) (hyn.trans hznow) (.refl _), fun b hb => ?_⟩
  · rw [roundOf_of_ws (s := y) (hended.settled_frame.2.2)]
    refine hyround.trans ?_
    rw [show roundOf z die.val (quotaTaken q r).tag = some (quotaTaken q r) from hzr]
    rfl
  · refine (bytesAt_of_memSame hsame fun a hmem b hb => ?_).trans hybytes
    rw [List.mem_singleton] at hmem
    rw [hmem]
    exact (ha b hb _ (List.mem_singleton.2 rfl)).symm
  · refine (hsame b fun k hk => hb k (List.mem_cons_of_mem _ hk)).trans ((hysame b fun k hk => ?_).trans (byteAt_of_mem hzm b))
    rw [List.mem_singleton] at hk
    rw [hk]
    exact hb _ List.mem_cons_self

/-- Settles O28. -/
theorem countRound : Obligations.CountRound := by
  constructor
  · intro h p s r i pre d j b tag n owners hc ha hd hround halive hchoices hcounted hjob hlayer hlookup hmode hlate hstop hhere
    have hbi : Idle b := (calm_begun i hc.1 hc.2.1 hc.2.2).1
    have hbws : b.ws = s.ws := by simp [b]
    have hbdir : b.dir = s.dir := by simp [b]
    have hbitems : b.hw.items = s.hw.items := by simp [b]
    have hbnet : b.net = s.net := by simp [b]
    have hbnow : b.now = s.now := by simp [b]
    have hbcells : b.mem.cells = s.mem.cells := by simp [b]
    have howners : roundOwners b r = owners := by
      unfold roundOwners dirLayer
      rw [hbdir]
      rfl
    have hcount : Countable d (wsUnit d) (j.ring / 256) p r b :=
      ⟨by rw [roundOf_of_ws hbws]; exact hround, by rw [tagOf_of_ws hbws]; exact halive, hchoices, hcounted, hjob, hlayer, hlookup, hmode,
        (lateRange_congr (by simp [b]) (by simp [b]) _ _ _).trans hlate, hstop, fun o ho => (hhere o (howners ▸ ho)).trans (myPos_begun s i).symm⟩
    obtain ⟨t, ht, hjobs, hrt, hnet, hmem⟩ := rtCount_sends (b := b) (j := j) hbi rfl hd rfl hcount
    rw [hbnow] at hjobs
    rw [counting_congr hbdir] at hrt hnet
    rw [countNotes_congr hbdir hbitems, hbnet] at hnet
    refine ⟨t, counting s p j.id r, (exec_rtCount ha).trans (congrArg Host.Outcome.next ht), hjobs, hrt, rfl, rfl, rfl, rfl, rfl, rfl, hnet, ?_⟩
    rw [hmem]
    exact hbcells
  · intro die m s r j h p q d tag r' slots qb hc hcmd hph hrep hround htag hlast hspill hmspill hjob hmode hans hapart
    have haw : AwaitsLast d (8 * m.ownerPos.toNat + m.ownerDie.val) r j s :=
      ⟨hc, by rw [htag]; exact hround, hlast, hspill, hmode, hjob, hrep, by rw [hcmd]; rfl⟩
    obtain ⟨t, hx, hrt, hbytes, hans', hsame⟩ := quotaMessage_ends htag haw hmspill hans hapart
    exact ⟨t, _, hx, by rw [← htag]; exact hrt, rfl, rfl, rfl, hbytes, hans', hsame⟩

end Sys2Proof.Proofs
end

section
/-! PROOFS. CB_COMBINE and CB_RETURN_GRAD: commands bound to a claim, and the row that a combine writes (07 R196-R200, R205). -/

namespace Sys2Proof.Proofs

open Sys2Proof Sys2Proof.Machine Sys2Proof.Laws

/-! ## Binding (07 R196, R197) -/

/-- The expected counts of a claim's rows, as its route records give them (07 R197). -/
def expected (s : State) (d : Nat) (c : Claim) : List Nat := (List.range c.tokens).map (fun t => expectedOf (tokenRecs s d c t))

/-- A claim that a command is bound to. -/
def boundTo (id : Nat) (ex : List Nat) (c : Claim) : Claim := { c with job := some id, expect := ex }

/-- Every row of a claim is short of its expected count, and none has been checked. -/
def AllShort (ex : List Nat) (c : Claim) : Prop :=
  ∀ t, t < c.tokens → (rowAt c t).final = false ∧ (rowAt c t).failed = false ∧ (rowAt c t).got.length < ex.getD t 0

/-- The route records that a claim is read by. -/
def routeRead (s : State) (d : Nat) (c : Claim) : List (List Byte) := readRecs s (cfUnit d) c.route (c.tokens * c.k)

theorem readRecs_of_mem {s t : State} (h : t.mem = s.mem) (hf : t.free = s.free) : readRecs t = readRecs s := by
  funext u a n
  unfold readRecs
  rw [readBytes_of_mem h hf]

theorem tokenRecs_of_mem {s t : State} (h : t.mem = s.mem) (hf : t.free = s.free) : tokenRecs t = tokenRecs s := by
  funext d c k
  unfold tokenRecs
  rw [readRecs_of_mem h hf]

/-- A claim with every row short has none to check. -/
theorem advance_short {d : Nat} {j : Job} {tag : Nat} {grad : Bool} {s : State} {c : Claim} {ex : List Nat} {id : Nat}
    (hc : claimOf s d tag grad = some (boundTo id ex c)) (hs : AllShort ex c) (ht : 0 < c.tokens) :
    advance d j tag grad s = waits s .bound := by
  have hready : readyRows (boundTo id ex c) = [] := List.filter_eq_nil_iff.2 fun t ht => by
    obtain ⟨-, -, hlt⟩ := hs t (List.mem_range.1 ht)
    simp only [Bool.and_eq_true, not_and, decide_eq_true_eq]
    intro _
    exact Nat.not_le.2 hlt
  have hshort : (shortRows (boundTo id ex c)).isEmpty = false := by
    refine List.isEmpty_eq_false_iff.2 (List.ne_nil_of_mem (a := 0) (List.mem_filter.2 ⟨List.mem_range.2 ht, ?_⟩))
    obtain ⟨hf, hd, -⟩ := hs 0 ht
    show (!(rowAt c 0).final && !(rowAt c 0).failed) = true
    rw [hf, hd]
    rfl
  unfold advance
  rw [hc]
  dsimp only
  rw [hready, List.foldl_nil, hc]
  dsimp only
  rw [hshort, if_neg (by decide)]

/-- A state in which a command is bound to its claim. -/
def withBound (s : State) (d id : Nat) (c : Claim) : State := modClaim s d c.tag c.grad (boundTo id (expected s d c))

theorem claimOf_withBound {s : State} {d id tag : Nat} {grad : Bool} {c : Claim} (hc : claimOf s d tag grad = some c) :
    claimOf (withBound s d id c) d tag grad = some (boundTo id (expected s d c) c) := by
  obtain ⟨-, htag, hgrad⟩ := claimOf_eq hc
  unfold withBound
  rw [htag, hgrad, claimOf_modClaim (f := boundTo id (expected s d c)) fun _ => ⟨rfl, rfl⟩, hc]
  rfl

/-- A command whose claim's records are legal is bound to it. -/
theorem bind_legal {d : Nat} {j : Job} {c : Claim} {s : State} (h : recsRsvd 0 (routeRead s d c) = none) :
    Machine.bind d j c s = advance d j c.tag c.grad (withBound s d j.id c) := by
  unfold Machine.bind
  rw [show recsRsvd 0 (readRecs s (cfUnit d) c.route (c.tokens * c.k)) = none from h]
  rfl

/-- A command stays bound to a claim with every row short. -/
theorem bind_waits {d tag : Nat} {grad : Bool} {j : Job} {c : Claim} {s : State} (hc : claimOf s d tag grad = some c)
    (h : recsRsvd 0 (routeRead s d c) = none) (hs : AllShort (expected s d c) c) (ht : 0 < c.tokens) :
    Machine.bind d j c s = waits (withBound s d j.id c) .bound := by
  obtain ⟨-, htag, hgrad⟩ := claimOf_eq hc
  rw [bind_legal h, htag, hgrad]
  exact advance_short (claimOf_withBound hc) hs ht

theorem expected_takenUp (b : State) (j : Job) (d : Nat) (c : Claim) : expected (takenUp b j) d c = expected b d c := by
  unfold expected
  rw [tokenRecs_of_mem (s := b) (t := takenUp b j) rfl rfl]

/-- A Confluence packet whose run binds it to a claim with every row short waits there. -/
theorem cf_waits {b : State} {j : Job} {d tag : Nat} {grad : Bool} {c : Claim} (hi : Idle b) (hu : j.unit = cfUnit d)
    (hc : claimOf b d tag grad = some c) (hrun : cfRun (queuedJob b j) (takenUp b j) = waits (withBound (takenUp b j) d j.id c) .bound) :
    ∃ t x, settle (pumpDie d (park b j .inUnit)) = t ∧ t.gz.jobs = [{ j with phase := .bound, since := b.now }] ∧
      claimOf t d tag grad = some x ∧ x.job = some j.id ∧ x.expect = expected b d c ∧ t.mem = b.mem := by
  obtain ⟨w, hw⟩ : ∃ w, withBound (takenUp b j) d j.id c = w := ⟨_, rfl⟩
  have hclaim : claimOf w d tag grad = some (boundTo j.id (expected (takenUp b j) d c) c) := by
    rw [← hw]
    exact claimOf_withBound hc
  have hex := expected_takenUp b j d c
  rw [hw] at hrun
  obtain ⟨v, hv, hjobs, -, hcf, -, hmem⟩ := pumpUnit_waits (n := (park b j .inUnit).gz.jobs.length) hi hrun
    (by rw [← hw]; exact jobs_takenUp j hi) (by rw [← hw]; rfl) ⟨by simp, by simp, by simp, by simp⟩
  have hrest : ∀ k ∈ v.gz.jobs, Rests k := by
    rw [hjobs]
    intro k hk
    rw [List.mem_singleton.1 hk]
    exact ⟨by simp, by simp, by simp, by simp⟩
  have hpump : pumpDie d (park b j .inUnit) = v := by
    have hpcf : pumpCf d (park b j .inUnit) = v := by
      unfold pumpCf
      rw [← hu]
      exact hv
    unfold pumpDie
    rw [hpcf]
    exact pumpUnit_rests wsRun (wsUnit d) _ v hrest
  refine ⟨passed v, _, ?_, hjobs, (claimOf_of_cf (s := w) (t := passed v) hcf d tag grad).trans hclaim, rfl, hex, hmem.trans (by rw [← hw]; rfl)⟩
  rw [hpump]
  exact settle_quiet v (quiet_one hjobs rfl)

/-! ## The checks of the two commands (07 R196, R205) -/

/-- A claim that a CB_COMBINE may bind to. -/
structure Combinable (d u c : Nat) (i : Instr) (p : PCbCombine) (x : Claim) (s : State) : Prop where
  claim : claimOf s d p.batchTag.toNat false = some x
  route : x.route = p.routeAddr.toNat
  tokens : x.tokens = p.tokens.toNat
  fits : x.e * elemSize p.fmtOut.toNat ≤ p.rowBytes.toNat
  allowed : lateRange s c u [(0x20, x.route, 16 * x.tokens * x.k, pRead)] = none
  free : rangesStop s [(x.route, 16 * x.tokens * x.k)] (outRanges i x) = none
  legal : recsRsvd 0 (routeRead s d x) = none

theorem Combinable.takenUp {d u c : Nat} {i : Instr} {p : PCbCombine} {x : Claim} {b : State} (j : Job) (h : Combinable d u c i p x b) :
    Combinable d u c i p x (takenUp b j) :=
  ⟨h.claim, h.route, h.tokens, h.fits, (lateRange_congr rfl rfl c u _).trans h.allowed,
    (rangesStop_of_mem (s := b) (t := Proofs.takenUp b j) rfl _ _).trans h.free, by
      rw [routeRead, readRecs_of_mem (s := b) (t := Proofs.takenUp b j) rfl rfl]
      exact h.legal⟩

theorem runCbCombine_binds {p : PCbCombine} {j : Job} {s : State} {d : Nat} {x : Claim} (hd : uDie j.unit = d)
    (h : Combinable d j.unit (j.ring / 256) j.cmd p x s) : runCbCombine p j s = Machine.bind d j x s := by
  unfold runCbCombine
  rw [hd]
  dsimp only
  rw [h.claim]
  dsimp only
  rw [h.route, if_neg (by simp), h.tokens, if_neg (by simp), if_neg (Nat.not_lt.2 h.fits), ← h.route, ← h.tokens, h.allowed]
  dsimp only
  rw [h.free]

/-- A claim that a CB_RETURN_GRAD without recomputation may bind to. -/
structure Returnable (d u c : Nat) (i : Instr) (p : PCbReturnGrad) (x : Claim) (s : State) : Prop where
  claim : claimOf s d p.batchTag.toNat true = some x
  route : x.route = p.routeAddr.toNat
  noRecompute : p.recompute = 0
  allowed : lateRange s c u [(0x20, x.route, 16 * (x.tokens * x.k), pRead), (0x30, p.scalarAddr.toNat, 4 * (x.tokens * x.k), pWrite),
    (0x28, p.dxAddr.toNat, x.tokens * x.e * elemSize p.fmtOut.toNat, pWrite)] = none
  free : rangesStop s [(x.route, 16 * (x.tokens * x.k))] ((p.scalarAddr.toNat, 4 * (x.tokens * x.k)) :: outRanges i x) = none
  legal : recsRsvd 0 (routeRead s d x) = none

theorem Returnable.takenUp {d u c : Nat} {i : Instr} {p : PCbReturnGrad} {x : Claim} {b : State} (j : Job) (h : Returnable d u c i p x b) :
    Returnable d u c i p x (takenUp b j) :=
  ⟨h.claim, h.route, h.noRecompute, (lateRange_congr rfl rfl c u _).trans h.allowed,
    (rangesStop_of_mem (s := b) (t := Proofs.takenUp b j) rfl _ _).trans h.free, by
      rw [routeRead, readRecs_of_mem (s := b) (t := Proofs.takenUp b j) rfl rfl]
      exact h.legal⟩

theorem runCbReturnGrad_binds {p : PCbReturnGrad} {j : Job} {s : State} {d : Nat} {x : Claim} (hd : uDie j.unit = d)
    (h : Returnable d j.unit (j.ring / 256) j.cmd p x s) : runCbReturnGrad p {} j s = Machine.bind d j x s := by
  have hre : ¬ p.recompute = 1 := by rw [h.noRecompute]; decide
  unfold runCbReturnGrad
  rw [hd]
  dsimp only
  rw [h.claim]
  dsimp only
  rw [h.route, if_neg (by simp), if_neg (by rw [decide_eq_false hre]; simp), ← h.route, h.allowed]
  dsimp only
  rw [h.free]
  dsimp only
  rw [if_neg hre, if_neg (by decide), if_neg (by decide)]

theorem exec_cbCombine {h : Hdr} {p : PCbCombine} {f : Faults} {s : State} (ha : Accepts s (preCbCombine h p s) (.cbCombine h p f)) :
    exec (.cbCombine h p f) s = .next (settle (pumpDie (homeOf h s)
      (park (begun s (.cbCombine h p f)) (jobFor s (preCbCombine h p s) (.cbCombine h p f)) .inUnit))) := by
  show execCbCombine h p f s = _
  unfold execCbCombine
  rw [arrive_accepted s _ _ _ ha]
  rfl

theorem exec_cbReturnGrad {h : Hdr} {p : PCbReturnGrad} {f : Faults} {s : State} (ha : Accepts s (preCbReturnGrad h p s) (.cbReturnGrad h p f)) :
    exec (.cbReturnGrad h p f) s = .next (settle (pumpDie (homeOf h s)
      (park (begun s (.cbReturnGrad h p f)) (jobFor s (preCbReturnGrad h p s) (.cbReturnGrad h p f)) .inUnit))) := by
  show execCbReturnGrad h p f s = _
  unfold execCbReturnGrad
  rw [arrive_accepted s _ _ _ ha]
  rfl

theorem uDie_cfUnit {d : Nat} (hd : d < 16) : uDie (cfUnit d) = d := by
  unfold uDie cfUnit bits uid
  omega

theorem cfRun_combine {h : Hdr} {p : PCbCombine} {b : State} {j : Job} {d : Nat} {x : Claim} (hu : j.unit = cfUnit d) (hd : d < 8)
    (hj : j.cmd = .cbCombine h p {}) (hx : Combinable d (cfUnit d) (j.ring / 256) j.cmd p x b) :
    cfRun (queuedJob b j) (takenUp b j) = Machine.bind d (queuedJob b j) x (takenUp b j) := by
  have hju : (queuedJob b j).unit = cfUnit d := hu
  unfold cfRun
  rw [show (queuedJob b j).cmd = .cbCombine h p {} from hj]
  exact runCbCombine_binds (by rw [hju, uDie_cfUnit (by omega)]) (by rw [hju]; exact hx.takenUp j)

theorem cfRun_returnGrad {h : Hdr} {p : PCbReturnGrad} {b : State} {j : Job} {d : Nat} {x : Claim} (hu : j.unit = cfUnit d) (hd : d < 8)
    (hj : j.cmd = .cbReturnGrad h p {}) (hx : Returnable d (cfUnit d) (j.ring / 256) j.cmd p x b) :
    cfRun (queuedJob b j) (takenUp b j) = Machine.bind d (queuedJob b j) x (takenUp b j) := by
  have hju : (queuedJob b j).unit = cfUnit d := hu
  unfold cfRun
  rw [show (queuedJob b j).cmd = .cbReturnGrad h p {} from hj]
  exact runCbReturnGrad_binds (by rw [hju, uDie_cfUnit (by omega)]) (by rw [hju]; exact hx.takenUp j)

/-! ## The row that a combine writes (07 R197-R200) -/

/-- What a unit reads does not change where memory, its unseen writes and the index of free values do not. -/
theorem readBytes_apart {s t : State} {u a n : Nat} (hu : t.mem.unseen = s.mem.unseen) (hf : t.free = s.free)
    (h : ∀ x, a ≤ x → x < a + n → byteAt t x = byteAt s x) : readBytes t u a n = readBytes s u a n := by
  have hsee : ∀ a l v, seeThrough t u a l v = seeThrough s u a l v := by
    intro a l
    induction l with
    | nil => exact fun _ => rfl
    | cons e es ih =>
      intro v
      rw [seeThrough, seeThrough, ih, ih, hf]
  induction n generalizing a with
  | zero => rfl
  | succ n ih =>
    rw [readBytes, readBytes, ih fun x h1 h2 => h x (by omega) (by omega), byteFor, byteFor, hsee, hu, h a (Nat.le_refl a) (by omega)]

theorem readRecs_apart {s t : State} {u a n : Nat} (hu : t.mem.unseen = s.mem.unseen) (hf : t.free = s.free)
    (h : ∀ x, a ≤ x → x < a + 16 * n → byteAt t x = byteAt s x) : readRecs t u a n = readRecs s u a n := by
  refine List.map_congr_left fun i hi => readBytes_apart hu hf fun x h1 h2 => h x (by omega) ?_
  have := List.mem_range.1 hi
  omega

/-- The bytes of a row in an output format. -/
def outBytes (fc : FCode) (r : ClaimRow) : List Byte := (convRow fc (r.buf.map fp32Val)).1

/-- A state with a row of a combine stored and counted. -/
def rowStored (d : Nat) (j : Job) (c : Claim) (a : Nat) (fc : FCode) (r : ClaimRow) (s : State) : State :=
  let e := convRow fc (r.buf.map fp32Val)
  count (storeNow (event (event s (cfUnit d) 0x8003 c.ctx e.2.2.1) (cfUnit d) 0x8004 c.ctx e.2.2.2) (whoOf j) a (outBytes fc r)) (cfUnit d) 0x20 1

/-- A state seen apart from its memory and counters. -/
structure RowOnly (s t : State) (js : List Job) : Prop where
  calm : Calm t js
  rings : t.gz.rings = s.gz.rings
  now : t.now = s.now
  cf : t.cf = s.cf
  free : t.free = s.free
  unseen : t.mem.unseen = s.mem.unseen

theorem rowStored_facts {d : Nat} {j : Job} {c : Claim} {a : Nat} {fc : FCode} {r : ClaimRow} {s : State} {js : List Job} (hc : Calm s js) :
    RowOnly s (rowStored d j c a fc r s) js ∧ bytesAt (rowStored d j c a fc r s) a (outBytes fc r).length = outBytes fc r ∧
      MemSame s (rowStored d j c a fc r s) [(a, (outBytes fc r).length)] := by
  obtain ⟨e, he⟩ : ∃ e, convRow fc (r.buf.map fp32Val) = e := ⟨_, rfl⟩
  obtain ⟨k1, h1⟩ := event_eq s (cfUnit d) 0x8003 c.ctx e.2.2.1
  obtain ⟨k2, h2⟩ := event_eq (event s (cfUnit d) 0x8003 c.ctx e.2.2.1) (cfUnit d) 0x8004 c.ctx e.2.2.2
  obtain ⟨x, hx⟩ : ∃ x, event (event s (cfUnit d) 0x8003 c.ctx e.2.2.1) (cfUnit d) 0x8004 c.ctx e.2.2.2 = x := ⟨_, rfl⟩
  have hxs : x = { s with hw := { s.hw with counters := k2 } } := by rw [← hx, h2, h1]
  have hxc : Calm x js := by rw [hxs]; exact hc
  obtain ⟨y, hy⟩ : ∃ y, storeNow x (whoOf j) a (outBytes fc r) = y := ⟨_, rfl⟩
  have heq : rowStored d j c a fc r s = count y (cfUnit d) 0x20 1 := by
    unfold rowStored
    dsimp only
    rw [he, hx, hy]
  have hyc : Calm y js := by rw [← hy]; exact calm_storeNow _ _ _ hxc
  have hunseen : y.mem.unseen = x.mem.unseen := by rw [← hy, storeNow_mem]
  rw [heq]
  refine ⟨⟨hyc, ?_, ?_, ?_, ?_, ?_⟩, ?_, fun b hb => ?_⟩
  · show y.gz.rings = _
    rw [← hy, hxs]
    simp
  · show y.now = _
    rw [← hy, hxs]
    simp
  · show y.cf = _
    rw [← hy, hxs]
    simp
  · show y.free = _
    rw [← hy, hxs]
    simp
  · show y.mem.unseen = _
    rw [hunseen, hxs]
  · refine (bytesAt_of_mem (s := y) (t := count y (cfUnit d) 0x20 1) rfl a _).trans ?_
    rw [← hy]
    exact bytesAt_storeNow x (whoOf j) a (outBytes fc r) hxc.2.1
  · show byteAt y b = _
    rw [← hy, byteAt_storeNow x (whoOf j) a (outBytes fc r) b hxc.2.1, if_neg (hb (a, (outBytes fc r).length) (List.mem_singleton.2 rfl)), hxs]
    rfl

/-- A claim with its first row written. -/
def rowWritten (c : Claim) : Claim := { c with rows := amPut c.rows 0 { rowAt c 0 with final := true, failed := false } }

theorem finaliseRow_combine {h : Hdr} {p : PCbCombine} {d : Nat} {j : Job} {c : Claim} {s : State} {fc : FCode}
    (hj : j.cmd = .cbCombine h p {}) (hok : rowCheckOk (rowAt c 0) c.e = true) (hs : p.signalAddr = 0) (hf : fmtOf p.fmtOut.toNat = some fc) :
    finaliseRow d j c 0 s = modClaim (rowStored d j c p.outAddr.toNat fc (rowAt c 0) s) d c.tag c.grad
      (fun x => { x with rows := amPut x.rows 0 { rowAt c 0 with final := true, failed := false } }) := by
  have hplace : outPlace j.cmd c 0 = (p.outAddr.toNat, p.fmtOut.toNat) := by
    rw [hj]
    show (p.outAddr.toNat + 0 * p.rowBytes.toNat, _) = _
    rw [Nat.zero_mul, Nat.add_zero]
  have herrs : spoilRow ((faultsOf j.cmd).errs.filter (fun e => e.row == 0)) (rowAt c 0) = rowAt c 0 := by
    rw [hj]
    rfl
  have hwrite : writeRow d j c 0 (rowAt c 0) s = rowStored d j c p.outAddr.toNat fc (rowAt c 0) s := by
    unfold writeRow
    rw [hplace]
    dsimp only
    rw [hf, hj]
    dsimp only
    rw [if_pos (by rw [hs]; rfl)]
    rfl
  unfold finaliseRow
  rw [herrs]
  dsimp only
  rw [hok, if_pos rfl, hwrite, hj]
  rfl

theorem amPut_zero {α : Type} (m : AMap α) (v : α) : ∃ l, amPut m 0 v = (0, v) :: l ∧ l.Sublist m := by
  cases m with
  | nil => exact ⟨[], rfl, .slnil⟩
  | cons e m =>
    obtain ⟨k, w⟩ := e
    unfold amPut
    by_cases hk : 0 < k
    · exact ⟨(k, w) :: m, if_pos hk, .refl _⟩
    · rw [if_neg hk, if_pos (by omega)]
      exact ⟨m, rfl, List.sublist_cons_self _ _⟩

theorem rowAt_rowWritten (c : Claim) : rowAt (rowWritten c) 0 = { rowAt c 0 with final := true, failed := false } :=
  (amGet_amPut (freshRow c.e) c.rows 0 0 _).trans (if_pos rfl)

theorem rowsDone_rowWritten {c : Claim} (h : rowsDone c = 0) : rowsDone (rowWritten c) = 1 := by
  have hnone : c.rows.filter (fun r => r.2.final || r.2.failed) = [] := List.length_eq_zero_iff.1 h
  obtain ⟨l, hl, hsub⟩ := amPut_zero c.rows { rowAt c 0 with final := true, failed := false }
  have hrest : l.filter (fun r => r.2.final || r.2.failed) = [] := List.sublist_nil.1 (hnone ▸ hsub.filter _)
  show ((amPut c.rows 0 _).filter (fun r => r.2.final || r.2.failed)).length = 1
  rw [hl, List.filter_cons_of_pos rfl, hrest]
  rfl

/-- The end of a combine whose one row has been written. -/
def rowEnd : End := { status := DONE, verdict := 1, checks := 1, record := [(0x68, 1)] }

theorem shortRows_rowWritten {c : Claim} (h : c.tokens = 1) : shortRows (rowWritten c) = [] := by
  unfold shortRows
  rw [show (rowWritten c).tokens = 1 from h]
  show [0].filter _ = []
  refine List.filter_cons_of_neg ?_
  rw [rowAt_rowWritten]
  simp

theorem combineStatus_rowWritten {s : State} {d : Nat} {c : Claim} (ht : c.tokens = 1) (hr : rowsDone c = 0)
    (hd : hasDrop (tokenRecs s d c 0) = false) : combineStatus s d 0 (rowWritten c) = rowEnd := by
  have hfailed : failedRows (rowWritten c) = [] := by
    unfold failedRows
    rw [show (rowWritten c).tokens = 1 from ht]
    show [0].filter _ = []
    refine List.filter_cons_of_neg ?_
    rw [rowAt_rowWritten]
    simp
  have hdrop : (List.range (rowWritten c).tokens).countP (fun t => hasDrop (tokenRecs s d (rowWritten c) t)) = 0 := by
    rw [show (rowWritten c).tokens = 1 from ht]
    refine List.countP_eq_zero.2 fun t hmem => ?_
    rw [show t = 0 by have := List.mem_range.1 hmem; omega, show tokenRecs s d (rowWritten c) 0 = tokenRecs s d c 0 from rfl, hd]
    decide
  unfold combineStatus
  rw [hfailed, shortRows_rowWritten ht, rowsDone_rowWritten hr, hdrop]
  rfl

theorem claimOf_closeClaim (s : State) (d tag : Nat) (grad : Bool) : claimOf (closeClaim s d tag grad) d tag grad = none := by
  unfold claimOf closeClaim
  rw [show cfOf (modTag (modCf s d (fun c => { c with claims := c.claims.filter (fun x => !(x.tag == tag && x.grad == grad)) })) d tag _) d =
    cfOf (modCf s d (fun c => { c with claims := c.claims.filter (fun x => !(x.tag == tag && x.grad == grad)) })) d from rfl,
    (cfOf_modCf s d d _).trans (if_pos rfl)]
  refine List.find?_eq_none.2 fun c hc => ?_
  simpa [imp_iff_not_or] using (List.mem_filter.1 hc).2

/-- A claim of one token whose row has arrived whole and passes its check, and a combine that writes it without a signal (07 R197). -/
structure Complete (p : PCbCombine) (fc : FCode) (c : Claim) : Prop where
  tokens : c.tokens = 1
  unfinished : (rowAt c 0).final = false
  sound : (rowAt c 0).failed = false
  arrived : c.expect.getD 0 0 ≤ (rowAt c 0).got.length
  passes : rowCheckOk (rowAt c 0) c.e = true
  none : rowsDone c = 0
  noSignal : p.signalAddr = 0
  format : fmtOf p.fmtOut.toNat = some fc

/-- A state with the row of a claim of one token written. -/
def written (d : Nat) (j : Job) (p : PCbCombine) (fc : FCode) (c : Claim) (s : State) : State :=
  modClaim (rowStored d j c p.outAddr.toNat fc (rowAt c 0) s) d c.tag c.grad
    (fun x => { x with rows := amPut x.rows 0 { rowAt c 0 with final := true, failed := false } })

theorem readyRows_complete {p : PCbCombine} {fc : FCode} {c : Claim} (h : Complete p fc c) : readyRows c = [0] := by
  unfold readyRows
  rw [h.tokens]
  show [0].filter _ = [0]
  refine List.filter_cons_of_pos ?_
  simp only [h.unfinished, h.sound, Bool.not_false, Bool.true_and, decide_eq_true_eq]
  exact h.arrived

/-- A combine of a complete claim writes its row and closes the claim (07 R197-R200). -/
theorem advance_complete {h : Hdr} {p : PCbCombine} {d : Nat} {j : Job} {fc : FCode} {c : Claim} {s : State} (hj : j.cmd = .cbCombine h p {})
    (hjobs : s.gz.jobs = [j]) (hdrops : j.drops = 0) (hw : s.sig.waiters = []) (hm : Memory.wf s.mem.cells = true)
    (hc : claimOf s d c.tag false = some c) (hcomp : Complete p fc c) (hdrop : hasDrop (tokenRecs (written d j p fc c s) d c 0) = false) :
    advance d j c.tag false s = ends (closeClaim (written d j p fc c s) d c.tag false) rowEnd := by
  obtain ⟨-, -, hgrad⟩ := claimOf_eq hc
  obtain ⟨hro, -, -⟩ := rowStored_facts (d := d) (j := j) (c := c) (a := p.outAddr.toNat) (fc := fc) (r := rowAt c 0) ⟨hjobs, hm, hw⟩
  have hfin : finaliseRow d j c 0 s = written d j p fc c s := finaliseRow_combine hj hcomp.passes hcomp.noSignal hcomp.format
  have hclaim : claimOf (written d j p fc c s) d c.tag false = some (rowWritten c) := by
    unfold written
    rw [hgrad, claimOf_modClaim (f := fun x => { x with rows := amPut x.rows 0 { rowAt c 0 with final := true, failed := false } })
      fun _ => ⟨rfl, rfl⟩, claimOf_of_cf hro.cf, hc]
    rfl
  have hjob : jobOf (written d j p fc c s) j.id = some j := jobOf_one hro.calm.1
  have hend : combineEnd d j (rowWritten c) (written d j p fc c s) = (closeClaim (written d j p fc c s) d c.tag false, rowEnd) := by
    unfold combineEnd
    rw [hjob, Option.getD_some, hdrops]
    dsimp only
    rw [combineStatus_rowWritten hcomp.tokens hcomp.none hdrop, hj]
    show (if c.grad then closeSink d c.tag (closeClaim (written d j p fc c s) d c.tag c.grad)
      else closeClaim (written d j p fc c s) d c.tag c.grad, rowEnd) = _
    rw [hgrad]
    rfl
  unfold advance
  rw [hc]
  dsimp only
  rw [readyRows_complete hcomp, List.foldl_cons, List.foldl_nil, hc]
  dsimp only
  rw [hfin, hclaim]
  dsimp only
  rw [shortRows_rowWritten hcomp.tokens, if_pos (List.isEmpty_nil), hend]

/-! ## A command that has stored and ends -/

theorem replyWrites_of_slot {s t : State} {j k : Job} (h : SameSlot s t j.ring) (hk : SameJob j k) : replyWrites t k = replyWrites s j := by
  obtain ⟨htail, hbase, -⟩ := h
  obtain ⟨-, hcmd, hring, -, -⟩ := hk
  unfold replyWrites
  dsimp only
  rw [hcmd, hring, htail, hbase]

/-- What an ended command leaves: its answer, what it stored before, and no more than its reply. -/
theorem Ended.leaves {s z v : State} {j k : Job} {e : End} {l : List (Nat × Nat)} (h : Ended z v k e) (hm : Memory.wf z.mem.cells = true)
    (hw : z.sig.waiters = []) (hslot : SameSlot s z j.ring) (hnow : z.now = s.now) (hk : SameJob j k) (hl : MemSame s z l) :
    Answered s (settle v) j e ∧ MemSame s (settle v) (l ++ replyWrites s j) ∧
      ∀ a n, Apart [(a, n)] (replyWrites s j) → bytesAt (settle v) a n = bytesAt z a n := by
  have hsame := h.memSame hm
  rw [replyWrites_of_slot hslot hk] at hsame
  refine ⟨h.answers hm hw hslot hnow hk, fun b hb => ?_, fun a n ha => bytesAt_of_memSame hsame ha⟩
  exact (hsame b fun r hr => hb r (List.mem_append_right _ hr)).trans (hl b fun r hr => hb r (List.mem_append_left _ hr))

theorem Ended.settled_cf {s t : State} {j : Job} {e : End} (h : Ended s t j e) : (settle t).cf = t.cf := by
  obtain ⟨un, hl⟩ := leaving_eq t { j with phase := .ending e } e
  rw [settle_ended t _ e h.1 rfl]
  show (finish _ _ _).cf = _
  rw [hl]
  simp

/-- A packet that ends when its unit has taken it up. -/
theorem pumpUnit_ends {run : Job → State → RunRes} {b z : State} {j : Job} {e : End} {n : Nat} (hi : Idle b)
    (hrun : run (queuedJob b j) (takenUp b j) = ends z e) (hj : z.gz.jobs = [queuedJob b j]) :
    ∃ v, pumpUnit run j.unit (n + 1) (park b j .inUnit) = v ∧ Ended z v (queuedJob b j) e ∧ v.cf = z.cf := by
  have hended : Ended z (endJob z (queuedJob b j).id e) (queuedJob b j) e := .of_endJob hj e
  refine ⟨_, pumpUnit_queued (v := endJob z (queuedJob b j).id e) hi (by rw [hrun]; rfl) ?_, hended, rfl⟩
  rw [hended.1]
  intro k hk
  rw [List.mem_singleton.1 hk]
  exact rests_ending rfl

theorem Ended.rests {s t : State} {j : Job} {e : End} (h : Ended s t j e) : ∀ k ∈ t.gz.jobs, Rests k := by
  rw [h.1]
  intro k hk
  rw [List.mem_singleton.1 hk]
  exact rests_ending rfl

/-- The run of a combine of a complete claim of one token: it writes the row and closes the claim. -/
theorem combine_runs {h : Hdr} {p : PCbCombine} {b : State} {j : Job} {d : Nat} {x : Claim} {fc : FCode} (hb : Calm b [])
    (hu : j.unit = cfUnit d) (hd : d < 8) (hj : j.cmd = .cbCombine h p {}) (hdr : j.drops = 0)
    (hx : Combinable d (cfUnit d) (j.ring / 256) j.cmd p x b) (hc : Complete p fc (boundTo j.id (expected b d x) x))
    (hdrop : hasDrop (tokenRecs b d x 0) = false) (hroute : Apart [(x.route, 16 * x.k)] [(p.outAddr.toNat, (outBytes fc (rowAt x 0)).length)]) :
    ∃ z, cfRun (queuedJob b j) (takenUp b j) = ends z rowEnd ∧ Calm z [queuedJob b j] ∧ z.gz.rings = b.gz.rings ∧ z.now = b.now ∧
      claimOf z d p.batchTag.toNat false = none ∧ bytesAt z p.outAddr.toNat (outBytes fc (rowAt x 0)).length = outBytes fc (rowAt x 0) ∧
      MemSame b z [(p.outAddr.toNat, (outBytes fc (rowAt x 0)).length)] := by
  obtain ⟨-, htag, hgrad⟩ := claimOf_eq hx.claim
  have hex := expected_takenUp b j d x
  obtain ⟨c, hcx⟩ : ∃ c, boundTo j.id (expected b d x) x = c := ⟨_, rfl⟩
  have hrow : rowAt c 0 = rowAt x 0 := by rw [← hcx]; rfl
  have hctag : c.tag = p.batchTag.toNat := by rw [← hcx]; exact htag
  obtain ⟨w, hw⟩ : ∃ w, withBound (takenUp b j) d j.id x = w := ⟨_, rfl⟩
  have hclaim : claimOf w d c.tag false = some c := by
    rw [hctag, ← hw, ← hcx, ← hex]
    exact claimOf_withBound (hx.takenUp j).claim
  have hwc : Calm w [queuedJob b j] := by rw [← hw]; exact ⟨jobs_takenUp j hb.1, hb.2⟩
  have hwrings : w.gz.rings = b.gz.rings := by rw [← hw]; rfl
  have hwnow : w.now = b.now := by rw [← hw]; rfl
  have hwmem : w.mem = b.mem := by rw [← hw]; rfl
  have hwfree : w.free = b.free := by rw [← hw]; rfl
  obtain ⟨hro, hbytes, hsame⟩ := rowStored_facts (d := d) (j := queuedJob b j) (c := c) (a := p.outAddr.toNat) (fc := fc) (r := rowAt c 0) hwc
  obtain ⟨y, hy⟩ : ∃ y, written d (queuedJob b j) p fc c w = y := ⟨_, rfl⟩
  have hymem : y.mem = (rowStored d (queuedJob b j) c p.outAddr.toNat fc (rowAt c 0) w).mem := by rw [← hy]; rfl
  have hyrings : y.gz.rings = b.gz.rings := by rw [← hy]; exact hro.rings.trans hwrings
  have hynow : y.now = b.now := by rw [← hy]; exact hro.now.trans hwnow
  have hyfree : y.free = b.free := by rw [← hy]; exact hro.free.trans hwfree
  have hyc : Calm y [queuedJob b j] := by rw [← hy]; exact hro.calm
  have hysame : MemSame b y [(p.outAddr.toNat, (outBytes fc (rowAt x 0)).length)] := by
    rw [← hrow]
    intro a ha
    exact (byteAt_of_mem hymem a).trans ((hsame a ha).trans (byteAt_of_mem hwmem a))
  have hrecs : tokenRecs y d c 0 = tokenRecs b d x 0 := by
    have hplace : c.route = x.route ∧ c.k = x.k := by rw [← hcx]; exact ⟨rfl, rfl⟩
    have hunseen : y.mem.unseen = b.mem.unseen := by rw [hymem, hro.unseen, hwmem]
    unfold tokenRecs
    rw [hplace.1, hplace.2, Nat.mul_zero, Nat.zero_mul, Nat.add_zero]
    refine congrArg (List.map readRec) (readRecs_apart hunseen hyfree fun a h1 h2 => hysame a fun r hr hin => ?_)
    have := hroute (x.route, 16 * x.k) (List.mem_singleton.2 rfl) r hr
    simp only at this
    omega
  have hrun : cfRun (queuedJob b j) (takenUp b j) = ends (closeClaim y d c.tag false) rowEnd := by
    rw [cfRun_combine hu hd hj hx, bind_legal (hx.takenUp j).legal, show withBound (takenUp b j) d (queuedJob b j).id x = w from hw, htag, hgrad, ← hctag,
      ← hy]
    refine advance_complete (h := h) hj hwc.1 hdr hwc.2.2 hwc.2.1 hclaim (hcx ▸ hc) ?_
    rw [hy, hrecs]
    exact hdrop
  refine ⟨closeClaim y d c.tag false, hrun, hyc, hyrings, hynow, ?_, ?_, fun a ha => hysame a ha⟩
  · rw [← hctag]
    exact claimOf_closeClaim y d c.tag false
  · refine (bytesAt_of_mem (s := y) (t := closeClaim y d c.tag false) rfl _ _).trans ((bytesAt_of_mem hymem _ _).trans ?_)
    rw [← hrow]
    exact hbytes

/-- Settles O35. -/
theorem combineBindsAndWrites : Obligations.CombineBindsAndWrites := by
  constructor
  · intro h p s c fc i pre d j b tag recs ex row out a hc ha hd hclaim hroute htok hfits hfmt hlate hstop hlegal
    have hbc : Calm b [] := calm_begun i hc.1 hc.2.1 hc.2.2
    have hbcf : b.cf = s.cf := by simp [b]
    have hbnow : b.now = s.now := by simp [b]
    have hbcells : b.mem.cells = s.mem.cells := by simp [b]
    have hcomb : Combinable d (cfUnit d) (j.ring / 256) j.cmd p c b :=
      ⟨by rw [claimOf_of_cf hbcf]; exact hclaim, hroute, htok, hfits, (lateRange_congr (by simp [b]) (by simp [b]) _ _ _).trans hlate, hstop, hlegal⟩
    have hx := exec_cbCombine ha
    refine ⟨fun hshort => ?_, fun hone hfin hfail harr hok hsig hdrop hreply hapart hnone => ?_⟩
    · have hpos : 0 < c.tokens := by
        have hfield := fields_of_accepts ha (0x44, 1 ≤ p.tokens.toNat && p.tokens.toNat ≤ 65536) (by
          show _ ∈ [_, _, _]
          simp)
        simp only [Bool.and_eq_true, decide_eq_true_eq] at hfield
        omega
      have hrun := (cfRun_combine (h := h) (b := b) (j := j) rfl hd rfl hcomb).trans
        (bind_waits (hcomb.takenUp j).claim (hcomb.takenUp j).legal (by rw [expected_takenUp]; exact hshort) hpos)
      obtain ⟨t, x, ht, hjobs, hxc, hxj, hxe, hmem⟩ := cf_waits hbc.1 rfl hcomb.claim hrun
      exact ⟨t, x, hx.trans (congrArg Host.Outcome.next ht), hbnow ▸ hjobs, hxc, hxj, hxe, (congrArg MemSt.cells hmem).trans hbcells⟩
    · have hcomplete : Complete p fc (boundTo j.id (expected b d c) c) := ⟨hone, hfin, hfail, harr, hok, hnone, hsig, hfmt⟩
      obtain ⟨z, hrun, hzc, hzr, hzn, hzclaim, hzbytes, hzsame⟩ := combine_runs (h := h) (b := b) (j := j) hbc rfl hd rfl rfl hcomb hcomplete hdrop hapart
      obtain ⟨v, hv, hended, hvcf⟩ := pumpUnit_ends (n := (park b j .inUnit).gz.jobs.length) hbc.1 hrun hzc.1
      have hpump : pumpDie d (park b j .inUnit) = v := by
        have hpcf : pumpCf d (park b j .inUnit) = v := hv
        unfold pumpDie
        rw [hpcf]
        exact pumpUnit_rests wsRun (wsUnit d) _ v hended.rests
      have hbsame : MemSame s z [(a, out.length)] := fun x hx => (hzsame x hx).trans (byteAt_begun s i x)
      obtain ⟨hans, hmem, hread⟩ := hended.leaves (j := j) hzc.2.1 hzc.2.2 ((SameSlot.of_begun s i _).trans (.of_rings hzr _)) (hzn.trans hbnow)
        ⟨rfl, rfl, rfl, rfl, rfl⟩ hbsame
      refine ⟨settle v, hx.trans (congrArg (fun x => Host.Outcome.next (settle x)) hpump), ?_, ?_, hmem, hans⟩
      · rw [claimOf_of_cf (s := z) (hended.settled_cf.trans hvcf)]
        exact hzclaim
      · exact (hread a out.length fun r hr k hk => (hreply k hk r hr).symm).trans hzbytes
  · intro h p s c i pre d j b tag n dx ex hc ha hd hclaim hroute hre htok hlate hstop hlegal hshort
    have hbc : Calm b [] := calm_begun i hc.1 hc.2.1 hc.2.2
    have hbcf : b.cf = s.cf := by simp [b]
    have hbnow : b.now = s.now := by simp [b]
    have hbcells : b.mem.cells = s.mem.cells := by simp [b]
    have hret : Returnable d (cfUnit d) (j.ring / 256) j.cmd p c b :=
      ⟨by rw [claimOf_of_cf hbcf]; exact hclaim, hroute, hre, (lateRange_congr (by simp [b]) (by simp [b]) _ _ _).trans hlate, hstop, hlegal⟩
    have hrun := (cfRun_returnGrad (h := h) (b := b) (j := j) rfl hd rfl hret).trans
      (bind_waits (hret.takenUp j).claim (hret.takenUp j).legal (by rw [expected_takenUp]; exact hshort) (Nat.pos_of_ne_zero htok))
    obtain ⟨t, x, ht, hjobs, hxc, hxj, hxe, hmem⟩ := cf_waits hbc.1 rfl hret.claim hrun
    exact ⟨t, x, (exec_cbReturnGrad ha).trans (congrArg Host.Outcome.next ht), hbnow ▸ hjobs, hxc, hxj, hxe, (congrArg MemSt.cells hmem).trans hbcells⟩

end Sys2Proof.Proofs
end

section
/-! PROOFS. MM_PASS: a result that opens and executes, and the completion token that fills it (04 R107, R114, R116). -/

namespace Sys2Proof.Proofs

open Sys2Proof Sys2Proof.Machine Sys2Proof.Laws

/-! ## Partitions and undefined ranges -/

theorem partOf_modPart_self (s : State) (u p : Nat) (f : Part → Part) : partOf (modPart s u p f) u p = f (partOf s u p) :=
  (partOf_modPart s u p p f).trans (if_pos rfl)

theorem shapeOf_modPart (s : State) (u p : Nat) (f : Part → Part) : shapeOf (modPart s u p f) u = shapeOf s u := by
  unfold shapeOf modPart
  rw [engineOf_modEngine, if_pos rfl]

theorem partOf_of_mm {s t : State} (h : t.mm = s.mm) (u p : Nat) : partOf t u p = partOf s u p := by
  unfold partOf engineOf
  rw [h]

theorem shapeOf_of_mm {s t : State} (h : t.mm = s.mm) (u : Nat) : shapeOf t u = shapeOf s u := by
  unfold shapeOf engineOf
  rw [h]

/-- A range that becomes undefined changes no byte outside it. -/
theorem markUndef_memSame (s : State) (a n : Nat) : MemSame s (markUndef s [(a, n)]) [(a, n)] := by
  intro x hx
  have hout : ¬(a ≤ x ∧ x < a + n) := hx (a, n) (List.mem_singleton.2 rfl)
  have hskip : undefAt (markUndef s [(a, n)]) x = undefAt s x := List.find?_cons_of_neg (by simpa using hout)
  unfold byteAt
  rw [hskip]
  rfl

/-! ## MM_PASS (04 R97, R107) -/

theorem exec_mmPass {h : Hdr} {p : PMmPass} {f : Faults} {s : State} (ha : Accepts s (preMmPass h p s) (.mmPass h p f)) :
    exec (.mmPass h p f) s = .next (settle (pumpPart p.engine.toNat p.part.toNat
      (conclude (jobFor s (preMmPass h p s) (.mmPass h p f)) (runQueued (jobFor s (preMmPass h p s) (.mmPass h p f)) (begun s (.mmPass h p f)))))) := by
  show execMmPass h p f s = _
  unfold execMmPass
  rw [arrive_accepted s _ _ _ ha]

theorem nextQueued_none {s : State} {u p : Nat} (h : (partOf s u p).queue = []) : nextQueued s u p = none := by
  unfold nextQueued
  rw [h]
  rfl

theorem nextQueued_one {s : State} {u p : Nat} {j : Job} (h : (partOf s u p).queue = [j.id]) (hj : s.gz.jobs = [j]) :
    nextQueued s u p = some j := by
  have hjobs : (partOf s u p).queue.filterMap (jobOf s) = [j] := by
    rw [h, List.filterMap_cons_some (jobOf_one hj), List.filterMap_nil]
  have hchoose : chooseRing (lastServed s u p) ((queueHeads [j]).map (fun k => rank47 s k.ring k.cmd)) = some (rank47 s j.ring j.cmd) := rfl
  unfold nextQueued
  rw [hjobs]
  dsimp only
  rw [hchoose]
  exact List.find?_cons_of_pos (by simp [rank47])

/-- A partition that executes nothing, has nothing queued and holds no result. -/
structure FreePart (pt : Part) : Prop where
  exec : pt.exec = none
  queue : pt.queue = []
  x : pt.x = none
  y : pt.y = none

/-- A partition that has opened a result for a pass and executes it. -/
def passOpened (c id : Nat) (p : PMmPass) (pt : Part) : Part :=
  putSet { pt with exec := some (id, pt.nextY), nextY := !pt.nextY, opened := pt.opened + 1 } pt.nextY (some (emptyRes c pt.opened p))

theorem passOpened_facts (c id : Nat) (p : PMmPass) (pt : Part) : (passOpened c id p pt).exec = some (id, pt.nextY) ∧
    (passOpened c id p pt).queue = pt.queue ∧ (passOpened c id p pt).nextY = !pt.nextY := by
  unfold passOpened putSet
  split <;> exact ⟨rfl, rfl, rfl⟩

/-- The half that a new result takes (04 R110). -/
def openedHalf (s : State) (u pi c : Nat) (p : PMmPass) (pt : Part) : Nat × Nat :=
  let d := shapeDims (shapeOf s u)
  (0x61000000000 + uDie u * 0x4000000 + halfOff (uInst u) d.1 pi pt.nextY, halfBytes (emptyRes c pt.opened p) d.2.1 d.2.2)

/-- A pass on a free partition opens a result in the next set. -/
theorem startPass_opens {s : State} {u pi : Nat} {j : Job} {p : PMmPass} (hp : FreePart (partOf s u pi)) (ha : p.acc = 0) :
    startPass s u pi j p = .started (markUndef (modPart s u pi (fun _ => passOpened (j.ring / 256) j.id p (partOf s u pi)))
      [openedHalf s u pi (j.ring / 256) p (partOf s u pi)]) := by
  obtain ⟨pt, hpt⟩ : ∃ pt, partOf s u pi = pt := ⟨_, rfl⟩
  rw [hpt] at hp ⊢
  have hpre : preemptTenants s pt = pt := by
    unfold preemptTenants
    rw [hp.x, hp.y]
    cases pt
    have hx := hp.x
    have hy := hp.y
    simp only at hx hy
    subst hx hy
    simp
  have hnext : freeSet pt = some pt.nextY := by
    unfold freeSet Machine.setOf
    rw [hp.x, hp.y, ite_self]
    rfl
  have hothers : ∀ f : Option Res → Bool, f none = false → [pt.x, pt.y].any f = false := by
    intro f hf
    simp [hp.x, hp.y, hf]
  unfold startPass
  rw [hpt, hpre]
  dsimp only
  rw [ite_self, if_neg (by rw [hothers _ rfl, Bool.and_false]; decide), if_pos ha, hnext]
  rfl

/-- A pass that joins an empty queue. -/
def queuedPass (b : State) (j : Job) : State :=
  park (modPart (arrival b j.unit 0x1080 (j.ring / 256)) j.unit j.part (fun pt => { pt with queue := pt.queue ++ [j.id] })) j .inUnit

/-- A pass of an empty queue of a free partition begins at once. -/
theorem pumpPart_opens {h : Hdr} {p : PMmPass} {f : Faults} {b : State} {j : Job} (hi : Idle b) (hj : j.cmd = .mmPass h p f)
    (hp : FreePart (partOf b j.unit j.part)) (ha : p.acc = 0) :
    ∃ t, pumpPart j.unit j.part (queuedPass b j) = t ∧ t.gz.jobs = [{ j with phase := .inUnit, since := b.now }] ∧
      partOf t j.unit j.part = passOpened (j.ring / 256) j.id p (partOf b j.unit j.part) ∧
      MemSame b t [openedHalf b j.unit j.part (j.ring / 256) p (partOf b j.unit j.part)] := by
  obtain ⟨k, hk⟩ := arrival_recounts b j.unit 0x1080 (j.ring / 256)
  obtain ⟨q, hq⟩ : ∃ q, queuedPass b j = q := ⟨_, rfl⟩
  have hqjobs : q.gz.jobs = [queuedJob b j] := by
    rw [← hq, queuedPass, hk]
    exact jobs_park _ j _ hi
  have hqpart : partOf q j.unit j.part = { partOf b j.unit j.part with queue := [j.id] } := by
    rw [← hq, queuedPass, hk]
    refine (partOf_modPart_self ..).trans ?_
    show { partOf b j.unit j.part with queue := (partOf b j.unit j.part).queue ++ [j.id] } = _
    rw [hp.queue]
    rfl
  have hqshape : shapeOf q j.unit = shapeOf b j.unit := by
    rw [← hq, queuedPass, hk]
    exact shapeOf_modPart ..
  have hqmem : q.mem = b.mem := by rw [← hq, queuedPass, hk]; rfl
  obtain ⟨s1, hs1⟩ : ∃ s1, serve (dequeue q j.unit j.part j.id) j.unit j.part j.ring = s1 := ⟨_, rfl⟩
  have hs1part : partOf s1 j.unit j.part = partOf b j.unit j.part := by
    rw [← hs1]
    refine (partOf_modPart_self ..).trans ?_
    rw [hqpart]
    show { partOf b j.unit j.part with queue := [j.id].filter (· != j.id) } = _
    rw [show [j.id].filter (· != j.id) = [] by simp, ← hp.queue]
  have hs1shape : shapeOf s1 j.unit = shapeOf b j.unit := by
    rw [← hs1]
    exact (shapeOf_modPart ..).trans hqshape
  have hs1jobs : s1.gz.jobs = [queuedJob b j] := by rw [← hs1]; exact hqjobs
  have hs1mem : s1.mem = b.mem := by rw [← hs1]; exact hqmem
  have hstart := startPass_opens (j := queuedJob b j) (p := p) (hs1part ▸ hp : FreePart (partOf s1 j.unit j.part)) ha
  have hhalf : openedHalf s1 j.unit j.part ((queuedJob b j).ring / 256) p (partOf s1 j.unit j.part) =
      openedHalf b j.unit j.part (j.ring / 256) p (partOf b j.unit j.part) := by
    unfold openedHalf
    rw [hs1part, hs1shape]
    rfl
  rw [hhalf] at hstart
  obtain ⟨r, hr⟩ : ∃ r, openedHalf b j.unit j.part (j.ring / 256) p (partOf b j.unit j.part) = r := ⟨_, rfl⟩
  obtain ⟨s2, hs2⟩ : ∃ s2, modPart s1 j.unit j.part (fun _ => passOpened ((queuedJob b j).ring / 256) (queuedJob b j).id p (partOf s1 j.unit j.part)) = s2 :=
    ⟨_, rfl⟩
  rw [hr, hs2] at hstart
  have hs2part : partOf s2 j.unit j.part = passOpened (j.ring / 256) j.id p (partOf b j.unit j.part) := by
    rw [← hs2]
    refine (partOf_modPart_self ..).trans ?_
    rw [hs1part]
    rfl
  have hs2jobs : s2.gz.jobs = [queuedJob b j] := by rw [← hs2]; exact hs1jobs
  have hs2mem : s2.mem = b.mem := by rw [← hs2]; exact hs1mem
  have hpart : partOf (markUndef s2 [r]) j.unit j.part = passOpened (j.ring / 256) j.id p (partOf b j.unit j.part) :=
    (partOf_of_mm (s := s2) (t := markUndef s2 [r]) rfl ..).trans hs2part
  have hqueue : (partOf (markUndef s2 [r]) j.unit j.part).queue = [] := by
    rw [hpart, (passOpened_facts ..).2.1]
    exact hp.queue
  have hpump : pumpPart j.unit j.part q = markUndef s2 [r] := by
    unfold pumpPart
    rw [hqpart]
    show pump j.unit j.part 2 q = _
    unfold pump
    rw [nextQueued_one (j := queuedJob b j) (by rw [hqpart]; rfl) hqjobs]
    dsimp only
    rw [show (queuedJob b j).cmd = .mmPass h p f from hj]
    dsimp only
    rw [hqpart, if_neg (by rw [hp.exec]; decide), show serve (dequeue q j.unit j.part (queuedJob b j).id) j.unit j.part (queuedJob b j).ring = s1 from hs1,
      hstart]
    dsimp only
    unfold pump
    rw [nextQueued_none hqueue]
  rw [hq]
  refine ⟨_, hpump, hs2jobs, hpart, ?_⟩
  rw [hr]
  intro x hx
  exact (markUndef_memSame s2 r.1 r.2 x hx).trans (byteAt_of_mem hs2mem x)

/-! ## The completion token (04 R114, R116) -/

/-- A partition whose pass has filled its result and executes no more. -/
def passFilled (s : State) (u sh : Nat) (p : PMmPass) (y : Bool) (pt : Part) : Part :=
  { putSet pt y ((Machine.setOf pt y).map (passAdd s u p sh)) with exec := none }

/-- A state with a pass complete, its streams counted. -/
def passEnded (s : State) (u pi ctx : Nat) (p : PMmPass) (y : Bool) : State :=
  let n := streamBeats p (shapeDims (shapeOf s u)).2.1
  modPart (event (count (count (modPart s u pi (fun pt => putSet pt y ((Machine.setOf pt y).map (passAdd s u p (shapeOf s u))))) u 0x18 1) u 0x20 n)
    u 0x1001 ctx n) u pi (fun pt => { pt with exec := none })

theorem passDone_clean {s : State} {u pi : Nat} {j : Job} {p : PMmPass} {y : Bool} (hp : passPoison s p (shapeOf s u) = none)
    (hs : p.statSlot = 0xFFFF) :
    passDone s u pi j p {} y = endJob (passEnded s u pi (j.ring / 256) p y) j.id (doneChecked 1 (passChecks p (shapeOf s u)) 0x78) := by
  unfold passDone
  dsimp only
  rw [hp]
  dsimp only
  rw [if_neg (by decide), if_neg (by decide), if_pos (by rw [hs]; rfl)]
  rfl

theorem passEnded_facts (s : State) (u pi ctx : Nat) (p : PMmPass) (y : Bool) :
    let x := passEnded s u pi ctx p y
    Undisturbed s x ∧ partOf x u pi = passFilled s u (shapeOf s u) p y (partOf s u pi) := by
  intro x
  obtain ⟨n, hn⟩ : ∃ n, streamBeats p (shapeDims (shapeOf s u)).2.1 = n := ⟨_, rfl⟩
  obtain ⟨m, hm⟩ : ∃ m, modPart s u pi (fun pt => putSet pt y ((Machine.setOf pt y).map (passAdd s u p (shapeOf s u)))) = m := ⟨_, rfl⟩
  obtain ⟨c, hc⟩ := event_eq (count (count m u 0x18 1) u 0x20 n) u 0x1001 ctx n
  obtain ⟨z, hz⟩ : ∃ z, event (count (count m u 0x18 1) u 0x20 n) u 0x1001 ctx n = z := ⟨_, rfl⟩
  have hx : x = modPart z u pi (fun pt => { pt with exec := none }) := by
    rw [← hz, ← hm, ← hn]
    rfl
  have hmz : Undisturbed m z ∧ z.mm = m.mm := by
    rw [← hz, hc]
    exact ⟨⟨rfl, rfl, rfl, rfl, rfl, rfl⟩, rfl⟩
  have hsm : Undisturbed s m := by rw [← hm]; exact .refl s
  rw [hx]
  refine ⟨hsm.trans (hmz.1.trans (.refl z)), (partOf_modPart_self ..).trans ?_⟩
  rw [partOf_of_mm hmz.2, ← hm, partOf_modPart_self]
  rfl

theorem exec_completionToken {engine : Word32} {part : Byte} {s : State} {j : Job} {h : Hdr} {p : PMmPass} {y : Bool}
    (hj : s.gz.jobs = [j]) (hc : j.cmd = .mmPass h p {}) (he : (partOf s engine.toNat part.toNat).exec = some (j.id, y)) :
    exec (.completionToken engine part {}) s =
      .next (settle (pumpPart engine.toNat part.toNat (passDone s engine.toNat part.toNat j p {} y))) := by
  show execCompletionToken engine part {} s = _
  unfold execCompletionToken
  dsimp only
  rw [he]
  dsimp only
  rw [jobOf_one hj]
  dsimp only
  rw [hc]
  dsimp only
  rw [ite_self]

theorem setOf_putSet (pt : Part) (y z : Bool) (r : Option Res) :
    Machine.setOf (putSet pt y r) z = if z = y then r else Machine.setOf pt z := by
  cases y <;> cases z <;> rfl

theorem Ended.settled_mm {s t : State} {j : Job} {e : End} (h : Ended s t j e) : (settle t).mm = t.mm := by
  obtain ⟨un, hl⟩ := leaving_eq t { j with phase := .ending e } e
  rw [settle_ended t _ e h.1 rfl]
  show (finish _ _ _).mm = _
  rw [hl]
  simp

theorem queue_passFilled (s : State) (u sh : Nat) (p : PMmPass) (y : Bool) (pt : Part) : (passFilled s u sh p y pt).queue = pt.queue := by
  unfold passFilled putSet
  split <;> rfl

/-- Settles O18. -/
theorem passesOpenAndFillResults : Obligations.PassesOpenAndFillResults := by
  constructor
  · intro h p f s i pre u pi c pt j d hi ha hacc hexec hqueue hx hy
    obtain ⟨b, hb⟩ : ∃ b, begun s i = b := ⟨_, rfl⟩
    have hbi : Idle b := by
      rw [← hb]
      show (begun s i).gz.jobs = []
      simpa using hi
    have hbmm : b.mm = s.mm := by rw [← hb]; simp
    have hbnow : b.now = s.now := by rw [← hb]; simp
    have hbpart : partOf b u pi = pt := partOf_of_mm hbmm u pi
    have hfree : FreePart (partOf b j.unit j.part) := hbpart.symm ▸ ⟨hexec, hqueue, hx, hy⟩
    obtain ⟨t, ht, hjobs, hpart, hsame⟩ := pumpPart_opens (h := h) (f := f) (j := j) hbi rfl hfree hacc
    have hrun : exec i s = .next (settle (pumpPart u pi (queuedPass (begun s i) j))) := exec_mmPass ha
    rw [hb, show pumpPart u pi (queuedPass b j) = t from ht, settle_quiet t (quiet_one hjobs rfl)] at hrun
    have htpart : partOf (passed t) u pi = passOpened c j.id p pt := by
      rw [← hbpart]
      exact hpart
    have hhalf : openedHalf b u pi c p (partOf b u pi) = openedHalf s u pi c p pt := by
      rw [hbpart]
      unfold openedHalf
      rw [shapeOf_of_mm hbmm]
    obtain ⟨hoe, hoq, hon⟩ := passOpened_facts c j.id p pt
    refine ⟨_, hrun, ?_, ?_, ?_, ?_, ?_, hbnow ▸ hjobs, fun z hz => ?_⟩
    · rw [htpart, hoe]
    · rw [htpart, hoq]
      exact hqueue
    · rw [htpart]
      exact (setOf_putSet _ pt.nextY pt.nextY _).trans (if_pos rfl)
    · rw [htpart]
      refine (setOf_putSet _ pt.nextY (!pt.nextY) _).trans ((if_neg (by simp)).trans ?_)
      unfold Machine.setOf
      split
      · exact hy
      · exact hx
    · rw [htpart, hon]
    · refine (hsame z ?_).trans ?_
      · rw [show openedHalf b j.unit j.part (j.ring / 256) p (partOf b j.unit j.part) = openedHalf s u pi c p pt from hhalf]
        exact hz
      · rw [← hb]
        exact byteAt_begun s i z
  · intro engine part s j h p y r u pi sh hc hcmd _ hexec hqueue hset hpoison hslot
    obtain ⟨hund, hpart⟩ := passEnded_facts s u pi (j.ring / 256) p y
    obtain ⟨x, hx⟩ : ∃ x, passEnded s u pi (j.ring / 256) p y = x := ⟨_, rfl⟩
    rw [hx] at hund hpart
    have hxc : Calm x [j] := hund.calm hc
    have hrun := exec_completionToken hc.1 hcmd hexec
    rw [passDone_clean hpoison hslot, hx] at hrun
    obtain ⟨e, he⟩ : ∃ e, doneChecked 1 (passChecks p sh) 0x78 = e := ⟨_, rfl⟩
    have hended : Ended x (endJob x j.id e) j e := .of_endJob hxc.1 e
    have hxpart : partOf (endJob x j.id e) u pi = passFilled s u sh p y (partOf s u pi) :=
      (partOf_of_mm (s := x) (t := endJob x j.id e) rfl u pi).trans hpart
    have hpump : pumpPart u pi (endJob x j.id e) = endJob x j.id e :=
      pumpPart_empty u pi _ (by rw [hxpart, queue_passFilled]; exact hqueue)
    have htpart : partOf (settle (endJob x j.id e)) u pi = passFilled s u sh p y (partOf s u pi) :=
      (partOf_of_mm hended.settled_mm u pi).trans hxpart
    rw [show doneChecked 1 (passChecks p (shapeOf s engine.toNat)) 0x78 = e from he, show pumpPart engine.toNat part.toNat _ = _ from hpump] at hrun
    rw [he]
    obtain ⟨hans, hmem, -⟩ := hended.leaves (s := s) (j := j) (l := []) hxc.2.1 hxc.2.2 (.of_rings hund.2.1 _) hund.2.2.2.2.1 (.refl _)
      fun b _ => byteAt_of_mem hund.2.2.1 b
    refine ⟨_, hrun, ?_, ?_, ?_, hans, hmem⟩
    · rw [htpart]
      rfl
    · rw [htpart]
      refine (setOf_putSet (partOf s u pi) y y _).trans ?_
      rw [if_pos rfl, hset]
      rfl
    · rw [htpart]
      refine (setOf_putSet (partOf s u pi) y (!y) _).trans (if_neg (by simp))

end Sys2Proof.Proofs
end

section
/-! PROOFS. CB_FACTOR_FLUSH: the tile of one entry (07 R208-R213). -/

namespace Sys2Proof.Proofs

open Sys2Proof Sys2Proof.Machine Sys2Proof.Laws

/-! ## Rows of bytes at strided addresses -/

/-- What rows no longer than their stride leave when they are written: each row, and the rest of memory. -/
structure RowsWritten (s t : State) (js : List Job) (base stride : Nat) (rows : List (List Byte)) : Prop where
  calm : Calm t js
  only : StoreOnly s t
  row : ∀ k row, rows[k]? = some row → bytesAt t (base + stride * k) row.length = row
  same : MemSame s t [(base, stride * rows.length)]

theorem writeRows_shift (w : Who) (base stride : Nat) (rows : List (List Byte)) (r : Nat) (s : State) :
    writeRows w base stride r rows s = writeRows w (base + stride * r) stride 0 rows s := by
  have hall : ∀ (k : Nat) (s : State), writeRows w base stride (r + k) rows s = writeRows w (base + stride * r) stride k rows s := by
    induction rows with
    | nil => exact fun _ _ => rfl
    | cons b rows ih =>
      intro k s
      rw [writeRows, writeRows, Nat.add_assoc, ih, Nat.add_mul, Nat.mul_comm r, Nat.add_assoc]
  exact hall 0 s

theorem writeRows_written (w : Who) (stride : Nat) (rows : List (List Byte)) (hl : ∀ row ∈ rows, row.length ≤ stride) (base : Nat) (s : State)
    (js : List Job) (hc : Calm s js) : RowsWritten s (writeRows w base stride 0 rows s) js base stride rows := by
  induction rows generalizing base s with
  | nil => exact ⟨hc, .refl s, fun k row h => by simp at h, fun _ _ => rfl⟩
  | cons b rows ih =>
    obtain ⟨x, hx⟩ : ∃ x, storeLazy s w base b = x := ⟨_, rfl⟩
    have hxc : Calm x js := by rw [← hx]; exact calm_storeLazy _ _ _ hc
    have hb : b.length ≤ stride := hl b List.mem_cons_self
    have hrest := ih (fun row h => hl row (List.mem_cons_of_mem _ h)) (base + stride) x hxc
    have heq : writeRows w base stride 0 (b :: rows) s = writeRows w (base + stride) stride 0 rows x := by
      rw [writeRows, Nat.zero_mul, show base + 0 = base from rfl, hx, writeRows_shift, Nat.zero_add, Nat.mul_one]
    rw [heq]
    refine ⟨hrest.calm, .trans (by rw [← hx]; exact storeLazy_storeOnly ..) hrest.only, fun k row h => ?_, fun a ha => ?_⟩
    · cases k with
      | zero =>
        obtain rfl : b = row := by simpa using h
        have hkeep : bytesAt (writeRows w (base + stride) stride 0 rows x) base b.length = bytesAt x base b.length :=
          bytesAt_of_memSame hrest.same fun r hr k hk => by
            rw [List.mem_singleton.1 hr, List.mem_singleton.1 hk]
            exact .inl (Nat.add_le_add_left hb base)
        rw [Nat.mul_zero, Nat.add_zero, hkeep, ← hx]
        exact bytesAt_storeLazy s w base b hc.2.1
      | succ k =>
        rw [show base + stride * (k + 1) = base + stride + stride * k by rw [Nat.mul_add, Nat.mul_one]; omega]
        exact hrest.row k row (by simpa using h)
    · have hout : ¬(base ≤ a ∧ a < base + stride * (rows.length + 1)) := ha (base, stride * (rows.length + 1)) (List.mem_singleton.2 rfl)
      rw [Nat.mul_add, Nat.mul_one] at hout
      refine (hrest.same a fun r hr hin => ?_).trans ?_
      · rw [List.mem_singleton.1 hr] at hin
        simp only at hin
        omega
      · rw [← hx, byteAt_storeLazy s w base b a hc.2.1, if_neg (by omega)]

/-! ## The rows of a tile -/

theorem length_packRow {c : FCode} (h : c.bitsN = 32) (l : List Nat) : (packRow c l).length = 4 * l.length := by
  induction l with
  | nil => rfl
  | cons a l ih =>
    rw [packRow.eq_def]
    dsimp only
    rw [if_neg (by rw [h]; decide), List.length_append, leBytes_length, ih, h, List.length_cons]
    omega

/-- A row in FP32 takes four bytes for each value. -/
theorem length_convRow {c : FCode} (h : fmtOf 1 = some c) (l : List FVal) : (convRow c l).1.length = 4 * l.length := by
  obtain rfl : ⟨.flt ffFP32, 32, false⟩ = c := Option.some.inj h
  show (packRow _ ((l.map _).map _)).length = _
  rw [length_packRow rfl, List.length_map, List.length_map]

theorem tileAt_zero (sh : Nat) (e : Factor) : tileAt sh e 0 = (0, 0) := by
  unfold tileAt
  rw [Nat.zero_div, Nat.zero_mod, Nat.zero_mul, Nat.zero_mul]

/-- The values of an entry's first tile that lie within M × N. -/
def tileRows (free sh : Nat) (e : Factor) (r : Res) : List (List FVal) :=
  ((resRows free r []).take (tileClip sh e 0).1).map (·.take (tileClip sh e 0).2)

/-- The bytes of an entry's first tile. -/
def tileBytes (free sh : Nat) (e : Factor) (r : Res) (c : FCode) : List (List Byte) := ((tileRows free sh e r).map (convRow c)).map (·.1)

theorem tileBytes_fits {free sh : Nat} {e : Factor} {r : Res} {c : FCode} (hf : fmtOf 1 = some c) :
    (∀ row ∈ tileBytes free sh e r c, row.length ≤ 4 * e.n) ∧ (tileBytes free sh e r c).length ≤ (tileClip sh e 0).1 := by
  have hclip : (tileClip sh e 0).2 ≤ e.n := by
    unfold tileClip
    rw [tileAt_zero]
    exact Nat.min_le_right _ _
  constructor
  · intro row hrow
    obtain ⟨x, hx, rfl⟩ := List.mem_map.1 hrow
    obtain ⟨vs, hvs, rfl⟩ := List.mem_map.1 hx
    obtain ⟨ws, -, rfl⟩ := List.mem_map.1 hvs
    rw [length_convRow hf]
    have : (ws.take (tileClip sh e 0).2).length ≤ (tileClip sh e 0).2 := List.length_take_le _ _
    omega
  · unfold tileBytes tileRows
    rw [List.length_map, List.length_map, List.length_map]
    exact List.length_take_le _ _

/-- The counts and events of a tile. -/
def tileCounted (e : Factor) (ctx sat nan : Nat) (s : State) : State :=
  event (count (count (event (event s e.engine 0x1003 ctx sat) e.engine 0x1004 ctx nan) e.engine 0x18 1) e.engine 0x20 e.count) e.engine 0x1001 ctx
    e.count

theorem tileCounted_eq (e : Factor) (ctx sat nan : Nat) (s : State) :
    ∃ k n, tileCounted e ctx sat nan s = { s with hw := { s.hw with counts := k, counters := n } } := by
  obtain ⟨c1, h1⟩ := event_eq s e.engine 0x1003 ctx sat
  obtain ⟨c2, h2⟩ := event_eq (event s e.engine 0x1003 ctx sat) e.engine 0x1004 ctx nan
  obtain ⟨x, hx⟩ : ∃ x, event (event s e.engine 0x1003 ctx sat) e.engine 0x1004 ctx nan = x := ⟨_, rfl⟩
  obtain ⟨c3, h3⟩ := event_eq (count (count x e.engine 0x18 1) e.engine 0x20 e.count) e.engine 0x1001 ctx e.count
  have hxs : x = { s with hw := { s.hw with counters := c2 } } := by rw [← hx, h2, h1]
  unfold tileCounted
  rw [hx, h3, hxs]
  exact ⟨_, c3, rfl⟩

/-- A tile of MODE 0 without statistics stores its rows, and changes counts beside. -/
theorem writeTile_stores {w : Who} {sh : Nat} {e : Factor} {r : Res} {s : State} {c : FCode} (hm : e.mode = 0) (hf : fmtOf 1 = some c) :
    ∃ k n, writeTile w 0xFFFF sh e 0 r [] s =
      let x := writeRows w e.dw (4 * e.n) 0 (tileBytes s.free sh e r c) s
      { x with hw := { x.hw with counts := k, counters := n }, free := x.free + 1 } := by
  unfold writeTile
  rw [tileAt_zero, hm, hf]
  dsimp only
  rw [if_pos rfl, if_pos rfl, Nat.mul_zero, Nat.add_zero]
  obtain ⟨k, n, h⟩ := tileCounted_eq e w.ctx _ _ (writeRows w e.dw (4 * e.n) 0 (tileBytes s.free sh e r c) s)
  exact ⟨k, n, congrArg (fun y : State => { y with free := y.free + 1 }) h⟩

/-! ## An entry of one tile (07 R212) -/

/-- The first partition of an entry. -/
def firstPart (e : Factor) : Nat := (maskParts e).getD 0 0

/-- An entry of one tile in MODE 0 that no error strikes. -/
structure OneTile (c : Nat) (e : Factor) (s : State) : Prop where
  count : e.count ≠ 0
  mode : e.mode = 0
  one : tileTotal (shapeOf s e.engine) e = 1
  first : e.tile = 0
  sound : tilePoison s (shapeOf s e.engine) e 0 = none
  clean : checkClean (tileRes s c (shapeOf s e.engine) e (firstPart e) 0) (shapeDims (shapeOf s e.engine)).2.1 (shapeDims (shapeOf s e.engine)).2.2 [] = true

/-- The end of a tile without errors. -/
def tileEnd (c : Nat) (e : Factor) (s : State) : End :=
  drainEnd 1 (resChecks (tileRes s c (shapeOf s e.engine) e (firstPart e) 0) (shapeDims (shapeOf s e.engine)).2.1 (shapeDims (shapeOf s e.engine)).2.2) 0 0 []

/-- A state with the entry's tile written. -/
def tileWritten (j : Job) (e : Factor) (s : State) : State :=
  writeTile { whoOf j with unit := e.engine } 0xFFFF (shapeOf s e.engine) e 0 (tileRes s (j.ring / 256) (shapeOf s e.engine) e (firstPart e) 0) [] s

theorem runTile_writes {j : Job} {e : Factor} {s : State} (h : OneTile (j.ring / 256) e s) :
    runTile j 0xFFFF (shapeOf s e.engine) e (firstPart e) 0 {} 0 s = .written (tileWritten j e s) (tileEnd (j.ring / 256) e s) := by
  unfold runTile
  dsimp only
  rw [h.sound]
  dsimp only
  rw [if_neg (by decide), if_neg (by decide), show (if (0 : Nat) = 1 then charge e.engine 1 s else s) = s from if_neg (by decide),
    if_pos h.clean]
  rfl

theorem flushTiles_one {j : Job} {table : Nat} {e : Factor} {s : State} {sofar : End} (h : OneTile (j.ring / 256) e s) :
    flushTiles j 0xFFFF table (shapeOf s e.engine) e 1 2 0 ⟨s, sofar, {}, 0⟩ =
      (⟨tileWritten j e s, joinEnd sofar (tileEnd (j.ring / 256) e s), {}, 0⟩, none) := by
  have hpart : (maskParts e).getD ((0 - e.tile) % (maskParts e).length) 0 = firstPart e := by
    rw [Nat.zero_sub, Nat.zero_mod]
    rfl
  rw [flushTiles]
  dsimp only
  rw [if_neg (by decide), hpart, runTile_writes h]
  dsimp only
  rw [flushTiles, if_pos (by decide)]

theorem flushEntries_one {j : Job} {table : Nat} {e : Factor} {s : State} {sofar : End} (h : OneTile (j.ring / 256) e s) :
    flushEntries j 0xFFFF table [e] ⟨s, sofar, {}, 0⟩ =
      (⟨putEntry (whoOf j) table e 0 0 (tileWritten j e s), joinEnd sofar (tileEnd (j.ring / 256) e s), {}, 0⟩, none) := by
  rw [flushEntries, if_neg h.count]
  dsimp only
  rw [h.one, h.first, flushTiles_one h]
  rfl

/-! ## The flush (07 R212, R213) -/

/-- A factor table of one entry that a flush takes whole. -/
structure OneEntry (d c u table : Nat) (p : PCbFactorFlush) (e : Factor) (s : State) : Prop where
  found : factorTable s d c = table
  given : table ≠ 0
  free : rangesStop s [(table, 128)] [] = none
  header : readNat s u table 4 = 1
  reserved : ∀ k, k < 60 → readNat s u (table + 4 + k) 1 = 0
  entry : e = readFactor 64 (readBytes s u (table + 64) 64)
  layer : e.layer = p.layer.toNat
  expert : e.expert = p.expert.toNat
  legal : factorStop s d c u (readBytes s u (table + 64) 64) e = none
  noStats : p.statSlot = 0xFFFF
  tile : OneTile c e s

theorem trainScan_prefix {s : State} {n m a : Nat} (h : trainScan s a m = false) (hn : n ≤ m) : trainScan s a n = false := by
  induction m generalizing n a with
  | zero =>
    obtain rfl : n = 0 := by omega
    exact h
  | succ m ih =>
    cases n with
    | zero => rfl
    | succ n =>
      rw [trainScan, Bool.or_eq_false_iff] at h ⊢
      exact ⟨h.1, ih h.2 (by omega)⟩

theorem keptScan_prefix {s : State} {n m b : Nat} (h : keptScan s b m = none) (hn : n ≤ m) : keptScan s b n = none := by
  induction m generalizing n b with
  | zero =>
    obtain rfl : n = 0 := by omega
    exact h
  | succ m ih =>
    cases n with
    | zero => rfl
    | succ n =>
      rw [keptScan] at h ⊢
      split at h
      · contradiction
      · next hb =>
        rw [if_neg hb]
        exact ih h (by omega)

theorem lostScan_prefix {s : State} {n m a : Nat} (h : lostScan s a m = none) (hn : n ≤ m) : lostScan s a n = none := by
  induction m generalizing n a with
  | zero =>
    obtain rfl : n = 0 := by omega
    exact h
  | succ m ih =>
    cases n with
    | zero => rfl
    | succ n =>
      rw [lostScan] at h ⊢
      split at h
      · contradiction
      · next hb =>
        rw [if_neg hb]
        exact ih h (by omega)

/-- The first part of a range without poison has none. -/
theorem poisonIn_prefix {s : State} {a n m : Nat} (h : poisonIn s a m = none) (hn : n ≤ m) (hpos : 0 < n) : poisonIn s a n = none := by
  have hm : poisonAddr s a m = none := Option.map_eq_none_iff.mp h
  have hblock : (a + n - 1) / 32 ≤ (a + m - 1) / 32 := Nat.div_le_div_right (by omega)
  have hgranule : (a + n - 1) / 256 ≤ (a + m - 1) / 256 := Nat.div_le_div_right (by omega)
  refine Option.map_eq_none_iff.mpr ?_
  rw [poisonAddr_none] at hm ⊢
  obtain hzero | ⟨hfind, hside⟩ := hm
  · omega
  · refine .inr ⟨?_, fun u off hr => ⟨fun hk => keptScan_prefix ((hside u off hr).1 hk) (by omega),
      fun hc => lostScan_prefix ((hside u off hr).2 hc) (by omega)⟩⟩
    rw [List.find?_eq_none] at hfind ⊢
    intro b hb hin
    refine hfind b hb ?_
    simp only [Bool.and_eq_true, decide_eq_true_eq] at hin ⊢
    omega

/-- A range that nothing stops a read of, stops none of its first part. -/
theorem rangesStop_prefix {s : State} {a n m : Nat} (h : rangesStop s [(a, m)] [] = none) (hn : n ≤ m) (hpos : 0 < n) :
    rangesStop s [(a, n)] [] = none := by
  have htrain : rangesTrain s [(0, a, m, 0)] = false := by
    by_contra hne
    unfold rangesStop at h
    rw [if_pos (by simpa using hne)] at h
    cases h
  have hpoison : poisonIn s a m = none := by
    rw [rangesStop_read s a m htrain] at h
    simpa using h
  have htrain' : rangesTrain s [(0, a, n, 0)] = false := by
    unfold rangesTrain at htrain ⊢
    rw [Bool.and_eq_false_iff] at htrain ⊢
    refine htrain.imp id fun hs => ?_
    simp only [List.any_cons, List.any_nil, Bool.or_false] at hs ⊢
    exact trainScan_prefix hs (by have : (a + n - 1) / 256 ≤ (a + m - 1) / 256 := Nat.div_le_div_right (by omega); omega)
  rw [rangesStop_read s a n htrain', Option.map_eq_none_iff]
  rw [poisonIn_prefix hpoison hn hpos]

/-- Joined to nothing, what a tile without errors counted is the flush's end. -/
theorem joinEnd_tileEnd (c : Nat) (e : Factor) (s : State) : { joinEnd {} (tileEnd c e s) with status := DONE } = tileEnd c e s := by
  unfold joinEnd tileEnd drainEnd
  simp

/-- The run of a flush of one entry of one tile. -/
theorem runFlush_tile {p : PCbFactorFlush} {j : Job} {s : State} {d table : Nat} {e : Factor} (hd : uDie j.unit = d) (hs : j.sofar = {})
    (h : OneEntry d (j.ring / 256) j.unit table p e s) :
    runFlush p {} 0 j s = ends (putEntry (whoOf j) table e 0 0 (tileWritten j e s)) (tileEnd (j.ring / 256) e s) := by
  have hrsvd : (List.range 60).find? (fun i => readNat s j.unit (table + 4 + i) 1 != 0) = none :=
    List.find?_eq_none.2 fun i hi => by simp [h.reserved i (List.mem_range.1 hi)]
  have hnamed : flushNamed p [(readBytes s j.unit (table + 64) 64, e)] = [(readBytes s j.unit (table + 64) 64, e)] := by
    refine List.filter_cons_of_pos ?_
    simp [h.layer, h.expert]
  have hentries : (List.range 1).map (fun i =>
      let b := readBytes s j.unit (table + 64 * (i + 1)) 64
      (b, readFactor (64 * (i + 1)) b)) = [(readBytes s j.unit (table + 64) 64, e)] := by
    rw [h.entry]
    rfl
  unfold runFlush
  rw [hd]
  dsimp only
  rw [h.found, if_neg h.given, rangesStop_prefix h.free (n := 64) (by decide) (by decide)]
  dsimp only
  rw [h.header, if_neg (by decide), hrsvd]
  dsimp only
  rw [show rangesStop s [(table, 64 * (1 + 1))] [] = none from h.free]
  dsimp only
  rw [show (List.range 1).map (fun i => (readBytes s j.unit (table + 64 * (i + 1)) 64, readFactor (64 * (i + 1)) (readBytes s j.unit (table + 64 * (i + 1)) 64)))
    = [(readBytes s j.unit (table + 64) 64, e)] from hentries, hnamed, if_pos rfl, List.findSome?_cons, h.legal]
  dsimp only
  rw [List.findSome?_nil]
  dsimp only
  rw [List.map_singleton, h.noStats, hs, show (0xFFFF : Word16).toNat = 0xFFFF from rfl, flushEntries_one h.tile]
  dsimp only
  rw [joinEnd_tileEnd]

/-! ## What a flush of one tile leaves -/

/-- The range that an entry's first tile is written in. -/
def tileRange (sh : Nat) (e : Factor) : Nat × Nat := (e.dw, 4 * e.n * (tileClip sh e 0).1)

/-- A state in which a tile's rows and its entry's COUNT and TILE_NEXT stand. -/
structure Flushed (s t : State) (js : List Job) (table sh : Nat) (e : Factor) (rows : List (List Byte)) : Prop where
  calm : Calm t js
  rings : t.gz.rings = s.gz.rings
  now : t.now = s.now
  row : ∀ k row, rows[k]? = some row → bytesAt t (e.dw + 4 * e.n * k) row.length = row
  inside : ∀ k row, rows[k]? = some row → e.dw + 4 * e.n * k + row.length ≤ (tileRange sh e).1 + (tileRange sh e).2
  cleared : bytesAt t (table + 0x70) 8 = List.replicate 8 0
  same : MemSame s t [tileRange sh e, (table + 0x70, 8)]

/-- A row of a tile lies within the tile's range. -/
theorem row_inside {n k len rows clip : Nat} (hk : k < rows) (hrows : rows ≤ clip) (hlen : len ≤ n) : n * k + len ≤ n * clip := by
  have hstep : n * (k + 1) ≤ n * clip := Nat.mul_le_mul_left n (by omega)
  rw [Nat.mul_add, Nat.mul_one] at hstep
  omega

theorem tile_flushed {j : Job} {s : State} {js : List Job} {table : Nat} {e : Factor} {fc : FCode} (hc : Calm s js) (hm : e.mode = 0)
    (hf : fmtOf 1 = some fc) (ho : e.off = 64) (ha : Apart [tileRange (shapeOf s e.engine) e] [(table + 0x70, 8)]) :
    Flushed s (putEntry (whoOf j) table e 0 0 (tileWritten j e s)) js table (shapeOf s e.engine) e
      (tileBytes s.free (shapeOf s e.engine) e (tileRes s (j.ring / 256) (shapeOf s e.engine) e (firstPart e) 0) fc) := by
  obtain ⟨rows, hrows⟩ : ∃ rows, tileBytes s.free (shapeOf s e.engine) e (tileRes s (j.ring / 256) (shapeOf s e.engine) e (firstPart e) 0) fc = rows :=
    ⟨_, rfl⟩
  obtain ⟨hlen, hcount⟩ := tileBytes_fits (free := s.free) (sh := shapeOf s e.engine) (e := e)
    (r := tileRes s (j.ring / 256) (shapeOf s e.engine) e (firstPart e) 0) hf
  rw [hrows] at hlen hcount ⊢
  obtain ⟨k, n, hstores⟩ := writeTile_stores (w := { whoOf j with unit := e.engine }) (sh := shapeOf s e.engine)
    (r := tileRes s (j.ring / 256) (shapeOf s e.engine) e (firstPart e) 0) (s := s) hm hf
  obtain ⟨x, hx⟩ : ∃ x, writeRows { whoOf j with unit := e.engine } e.dw (4 * e.n) 0 rows s = x := ⟨_, rfl⟩
  have hwritten : RowsWritten s x js e.dw (4 * e.n) rows := by
    rw [← hx]
    exact writeRows_written _ _ _ hlen _ _ _ hc
  rw [hrows, hx] at hstores
  obtain ⟨y, hy⟩ : ∃ y, tileWritten j e s = y := ⟨_, rfl⟩
  have hyx : y = { x with hw := { x.hw with counts := k, counters := n }, free := x.free + 1 } := hy.symm.trans hstores
  have hymem : y.mem = x.mem := by rw [hyx]
  have hyc : Calm y js := by rw [hyx]; exact hwritten.calm
  have hyr : y.gz.rings = s.gz.rings := by
    obtain ⟨m, g, dr, jb, hxs⟩ := hwritten.only
    rw [hyx, hxs]
  have hyn : y.now = s.now := by
    obtain ⟨m, g, dr, jb, hxs⟩ := hwritten.only
    rw [hyx, hxs]
  have hput : putEntry (whoOf j) table e 0 0 y = storeLazy y (whoOf j) (table + 0x70) (List.replicate 8 0) := by
    unfold putEntry
    rw [ho]
    rfl
  have hinside : ∀ k row, rows[k]? = some row → e.dw + 4 * e.n * k + row.length ≤ (tileRange (shapeOf s e.engine) e).1 +
      (tileRange (shapeOf s e.engine) e).2 := by
    intro k row hrow
    have hk := (List.getElem?_eq_some_iff.1 hrow).1
    have := row_inside hk hcount (hlen row (List.mem_of_getElem? hrow))
    show _ ≤ e.dw + 4 * e.n * (tileClip (shapeOf s e.engine) e 0).1
    omega
  have hstored : ∀ a, byteAt (storeLazy y (whoOf j) (table + 0x70) (List.replicate 8 0)) a =
      if table + 0x70 ≤ a ∧ a < table + 0x70 + 8 then (List.replicate 8 0).getD (a - (table + 0x70)) 0 else byteAt y a :=
    fun a => byteAt_storeLazy y (whoOf j) (table + 0x70) (List.replicate 8 0) a hyc.2.1
  have hapart : e.dw + (tileRange (shapeOf s e.engine) e).2 ≤ table + 0x70 ∨ table + 0x70 + 8 ≤ e.dw :=
    ha _ (List.mem_singleton.2 rfl) _ (List.mem_singleton.2 rfl)
  rw [hy, hput]
  refine ⟨calm_storeLazy _ _ _ hyc, ?_, ?_, fun k row hrow => ?_, hinside, ?_, fun a hout => ?_⟩
  · rw [← hyr]
    simp
  · rw [← hyn]
    simp
  · have hin : e.dw + 4 * e.n * k + row.length ≤ e.dw + (tileRange (shapeOf s e.engine) e).2 := hinside k row hrow
    rw [← hwritten.row k row hrow, bytesAt_length]
    refine (bytesAt_congr fun a h1 h2 => ?_).trans (bytesAt_of_mem hymem _ _)
    rw [hstored, if_neg (by omega)]
  · exact bytesAt_storeLazy y (whoOf j) (table + 0x70) (List.replicate 8 0) hyc.2.1
  · have hentry : ¬(table + 0x70 ≤ a ∧ a < table + 0x70 + 8) := hout (table + 0x70, 8) (by simp)
    have htile := hout (tileRange (shapeOf s e.engine) e) (by simp)
    rw [hstored, if_neg hentry, byteAt_of_mem hymem]
    refine hwritten.same a fun r hr hin => htile ?_
    rw [List.mem_singleton.1 hr] at hin
    have hle : 4 * e.n * rows.length ≤ 4 * e.n * (tileClip (shapeOf s e.engine) e 0).1 := Nat.mul_le_mul_left _ hcount
    exact ⟨hin.1, Nat.lt_of_lt_of_le hin.2 (Nat.add_le_add_left hle _)⟩

/-! ## A flush in its unit's queue -/

theorem rowsPoison_of_mem {s t : State} (h : t.mem = s.mem) (base stride rb n : Nat) : rowsPoison t base stride rb n = rowsPoison s base stride rb n := by
  induction n with
  | zero => rfl
  | succ n ih => rw [rowsPoison, rowsPoison, ih, (SamePlaces.of_mem h).poisonIn]

theorem rowsPartial_of_mem {s t : State} (h : t.mem = s.mem) (base stride rb n : Nat) :
    rowsPartial t base stride rb n = rowsPartial s base stride rb n := by
  induction n with
  | zero => rfl
  | succ n ih => rw [rowsPartial, rowsPartial, ih, partialPoison_of_mem h]

theorem tilePoison_of_mem {s t : State} (h : t.mem = s.mem) (sh : Nat) (e : Factor) (k : Nat) : tilePoison t sh e k = tilePoison s sh e k := by
  unfold tilePoison
  dsimp only
  rw [rowsPoison_of_mem h, rowsPoison_of_mem h, rowsPartial_of_mem h, rowsPoison_of_mem h]

theorem tileRes_of_mem {s t : State} (h : t.mem = s.mem) (hf : t.free = s.free) : tileRes t = tileRes s := by
  have hrows : readRows t = readRows s := by
    unfold readRows
    rw [readBytes_of_mem h hf]
  unfold tileRes
  rw [hrows]

theorem OneTile.takenUp {c : Nat} {e : Factor} {b : State} (j : Job) (h : OneTile c e b) : OneTile c e (takenUp b j) where
  count := h.count
  mode := h.mode
  one := h.one
  first := h.first
  sound := (tilePoison_of_mem (s := b) (t := Proofs.takenUp b j) rfl ..).trans h.sound
  clean := by
    rw [tileRes_of_mem (s := b) (t := Proofs.takenUp b j) rfl rfl]
    exact h.clean

theorem OneEntry.takenUp {d c u table : Nat} {p : PCbFactorFlush} {e : Factor} {b : State} (j : Job) (h : OneEntry d c u table p e b) :
    OneEntry d c u table p e (takenUp b j) := by
  have hread : readBytes (Proofs.takenUp b j) = readBytes b := readBytes_of_mem rfl rfl
  have hnat : readNat (Proofs.takenUp b j) = readNat b := readNat_of_mem rfl rfl
  exact {
    found := h.found
    given := h.given
    free := (rangesStop_of_mem (s := b) (t := Proofs.takenUp b j) rfl _ _).trans h.free
    header := by rw [hnat]; exact h.header
    reserved := by rw [hnat]; exact h.reserved
    entry := by rw [hread]; exact h.entry
    layer := h.layer
    expert := h.expert
    legal := by rw [hread]; exact h.legal
    noStats := h.noStats
    tile := h.tile.takenUp j }

theorem tileEnd_takenUp (c : Nat) (e : Factor) (b : State) (j : Job) : tileEnd c e (takenUp b j) = tileEnd c e b := by
  unfold tileEnd
  rw [tileRes_of_mem (s := b) (t := takenUp b j) rfl rfl]
  rfl

theorem uDie_flushUnit {d : Nat} (hd : d < 16) : uDie (uid 0 d 0) = d := by
  unfold uDie bits uid
  omega

theorem exec_cbFactorFlush {h : Hdr} {p : PCbFactorFlush} {f : Faults} {s : State} (ha : Accepts s (preCbFactorFlush h p s) (.cbFactorFlush h p f)) :
    exec (.cbFactorFlush h p f) s = .next (settle (pumpFlush (homeOf h s)
      (park (begun s (.cbFactorFlush h p f)) (jobFor s (preCbFactorFlush h p s) (.cbFactorFlush h p f)) .inUnit))) := by
  show execCbFactorFlush h p f s = _
  unfold execCbFactorFlush
  rw [arrive_accepted s _ _ _ ha]
  rfl

theorem flushRun_queued {h : Hdr} {p : PCbFactorFlush} {b : State} {j : Job} (hj : j.cmd = .cbFactorFlush h p {}) :
    flushRun (queuedJob b j) (takenUp b j) = runFlush p {} 0 (queuedJob b j) (takenUp b j) := by
  unfold flushRun
  rw [show (queuedJob b j).cmd = .cbFactorFlush h p {} from hj]

theorem runFlush_noTable {p : PCbFactorFlush} {f : Faults} {stage : Nat} {j : Job} {s : State} (h : factorTable s (uDie j.unit) (j.ring / 256) = 0) :
    runFlush p f stage j s = ends s (fails BAD_STATE 0x20) := by
  unfold runFlush
  dsimp only
  rw [h, if_pos rfl]

/-- What a flush that ends when its unit takes it up leaves. -/
theorem flush_ends {h : Hdr} {p : PCbFactorFlush} {s z : State} {e : End} {l : List (Nat × Nat)}
    (ha : Accepts s (preCbFactorFlush h p s) (.cbFactorFlush h p {})) (hc : Calm s [])
    (hrun : flushRun (queuedJob (begun s (.cbFactorFlush h p {})) (jobFor s (preCbFactorFlush h p s) (.cbFactorFlush h p {})))
      (takenUp (begun s (.cbFactorFlush h p {})) (jobFor s (preCbFactorFlush h p s) (.cbFactorFlush h p {}))) = ends z e)
    (hz : Calm z [queuedJob (begun s (.cbFactorFlush h p {})) (jobFor s (preCbFactorFlush h p s) (.cbFactorFlush h p {}))])
    (hr : z.gz.rings = (begun s (.cbFactorFlush h p {})).gz.rings) (hn : z.now = s.now) (hl : MemSame (begun s (.cbFactorFlush h p {})) z l) :
    let j := jobFor s (preCbFactorFlush h p s) (.cbFactorFlush h p {})
    ∃ t, exec (.cbFactorFlush h p {}) s = .next t ∧ Answered s t j e ∧ MemSame s t (l ++ replyWrites s j) ∧
      ∀ a n, Apart [(a, n)] (replyWrites s j) → bytesAt t a n = bytesAt z a n := by
  intro j
  obtain ⟨b, hb⟩ : ∃ b, begun s (.cbFactorFlush h p {}) = b := ⟨_, rfl⟩
  have hslot : SameSlot s z j.ring := (SameSlot.of_begun s _ _).trans (.of_rings hr _)
  have hsame : MemSame s z l := fun x hx => (hl x hx).trans (byteAt_begun s _ x)
  have hidle : Idle b := by rw [← hb]; exact (calm_begun _ hc.1 hc.2.1 hc.2.2).1
  rw [hb] at hrun hz
  obtain ⟨v, hv, hended, -⟩ := pumpUnit_ends (n := (park b j .inUnit).gz.jobs.length) hidle hrun hz.1
  refine ⟨settle v, (exec_cbFactorFlush ha).trans (congrArg (fun x => Host.Outcome.next (settle x)) ?_),
    hended.leaves (j := j) hz.2.1 hz.2.2 hslot hn ⟨rfl, rfl, rfl, rfl, rfl⟩ hsame⟩
  rw [hb]
  exact hv

/-- Settles O36. -/
theorem flushWritesItsTile : Obligations.FlushWritesItsTile := by
  intro h p s e fc i pre d u j b c table sh dims part r clip rows hc ha hd
  have hbc : Calm b [] := calm_begun i hc.1 hc.2.1 hc.2.2
  have hbnow : b.now = s.now := by simp [b]
  have hbfree : b.free = s.free := by simp [b]
  have hbsh : shapeOf b e.engine = sh := shapeOf_of_mm (s := s) (t := b) (by simp [b]) _
  have hbtable : factorTable b d c = table := by
    unfold factorTable
    obtain ⟨n, un, hbs⟩ := begun_eq s i
    rw [show b = _ from hbs]
    rfl
  have hdie : uDie u = d := uDie_flushUnit (by omega)
  have htaken : Calm (takenUp b j) [queuedJob b j] := ⟨jobs_takenUp j hbc.1, hbc.2.1, hbc.2.2⟩
  have hqueued := flushRun_queued (h := h) (p := p) (b := b) (j := j) rfl
  refine ⟨fun hnone => ?_, fun hgiven hfree hheader hrsvd he hlayer hexpert hlegal hcount hmode hone hfirst hstat hsound hclean hfmt hapart hclear => ?_⟩
  · have hrun : flushRun (queuedJob b j) (takenUp b j) = ends (takenUp b j) (fails BAD_STATE 0x20) :=
      hqueued.trans (runFlush_noTable (by
        rw [show uDie (queuedJob b j).unit = d from hdie]
        exact hbtable.trans hnone))
    obtain ⟨t, ht, hans, hmem, -⟩ := flush_ends (l := []) ha hc hrun htaken rfl hbnow fun _ _ => rfl
    exact ⟨t, ht, hans, hmem⟩
  · have hentry : OneEntry d c u table p e b :=
      ⟨hbtable, hgiven, hfree, hheader, hrsvd, he, hlayer, hexpert, hlegal, hstat,
        ⟨hcount, hmode, by rw [hbsh]; exact hone, hfirst, by rw [hbsh]; exact hsound, by rw [hbsh]; exact hclean⟩⟩
    have hrun := hqueued.trans (runFlush_tile (j := queuedJob b j) hdie rfl (hentry.takenUp j))
    have hoff : e.off = 64 := by
      rw [he]
      rfl
    have hoverlap : Apart [tileRange sh e] [(table + 0x70, 8)] := fun x hx y hy => hapart x hx y (by simp_all)
    have hflushed := tile_flushed (j := queuedJob b j) (s := takenUp b j) (table := table) (e := e) htaken hmode hfmt hoff (by
      rw [show shapeOf (takenUp b j) e.engine = sh from hbsh]
      exact hoverlap)
    obtain ⟨z, hz⟩ : ∃ z, putEntry (whoOf (queuedJob b j)) table e 0 0 (tileWritten (queuedJob b j) e (takenUp b j)) = z := ⟨_, rfl⟩
    rw [tileEnd_takenUp, hz] at hrun
    rw [hz, show shapeOf (takenUp b j) e.engine = sh from hbsh, show (takenUp b j).free = s.free from hbfree,
      tileRes_of_mem (s := b) (t := takenUp b j) rfl rfl] at hflushed
    obtain ⟨t, ht, hans, hmem, hread⟩ := flush_ends ha hc hrun hflushed.calm hflushed.rings (hflushed.now.trans hbnow) hflushed.same
    have hend : tileEnd ((queuedJob b j).ring / 256) e b = drainEnd 1 (resChecks r dims.2.1 dims.2.2) 0 0 [] := by
      unfold tileEnd
      rw [hbsh]
      rfl
    refine ⟨t, ht, fun k row hrow => ?_, (hread _ _ hclear).trans hflushed.cleared, hend ▸ hans, hmem⟩
    have hbytes : (tileBytes s.free sh e r fc)[k]? = some row.1 := by
      show (rows.map (·.1))[k]? = _
      rw [List.getElem?_map, hrow]
      rfl
    refine (hread _ _ fun x hx y hy => ?_).trans (hflushed.row k row.1 hbytes)
    have hwithin := hflushed.inside k row.1 hbytes
    have hfar := hapart (tileRange sh e) List.mem_cons_self y (List.mem_cons_of_mem _ hy)
    rw [List.mem_singleton.1 hx]
    exact hfar.imp (Nat.le_trans hwithin) fun hle => Nat.le_trans hle (by
      show e.dw ≤ e.dw + 4 * e.n * k
      omega)

end Sys2Proof.Proofs
end
